-- ==== Sys2Proof/Word.lean ====
section
/-! DEFINITION. The words of the module and their plainest arithmetic: node time, bytes, handles and the
little-endian reading of byte strings (R7). -/

namespace Sys2Proof

/-- Node time: a 64-bit count of nanoseconds (00_scope.md, "Node time and windows"). -/
abbrev Nt := BitVec 64

/-- A 64-bit word. -/
abbrev W64 := BitVec 64

/-- A byte. -/
abbrev Byte := BitVec 8

/-- A byte string, first byte at the lowest address. -/
abbrev Bytes := List Byte

/-- A session handle (R28). -/
abbrev Handle := BitVec 18

/-- An FP32 code (R190). -/
abbrev F32 := BitVec 32

/-- A sparse table: keys strictly rising, no entry equal to what an unlisted key reads as. -/
abbrev SMap (β : Type) := List (Nat × β)

end Sys2Proof
end

