-- ==== Sys2Proof/Payload.lean ====
section
/-! DEFINITION. What the other agents of the node hand to the module with a command: host lines, frames,
messages and the results of reads. These are the operand types of the commands in Sys2Proof/Syntax.lean. -/

namespace Sys2Proof

/-- A command line of R273 without its opcode byte (which names the command). -/
structure CmdLine where
  flags : BitVec 8
  rsv   : BitVec 16
  tag   : BitVec 32
  nsi   : BitVec 64
  sk    : BitVec 128
  /-- bytes 32 to 63, byte 32 least significant -/
  ops   : BitVec 256
deriving DecidableEq, Repr

/-- An admission record of a boundary frame (R227). -/
structure AdmRec where
  root   : BitVec 32
  bucket : BitVec 8
  k      : BitVec 8
  part   : BitVec 4
  toks   : List (BitVec 32)
  first  : BitVec 32
deriving DecidableEq, Repr

/-- A boundary frame (R227); `bad` says that it failed its check after link retries (R230). -/
structure BFrame where
  readyNt  : Nt
  step     : BitVec 48
  slot     : BitVec 3
  pos      : BitVec 6
  chk      : Bool
  cut      : Bool
  swAck    : Bool
  framePm  : BitVec 16
  grnFree  : BitVec 32
  cutEpoch : BitVec 32
  adms     : List AdmRec
  evicts   : List (BitVec 32)
  dones    : List (BitVec 32 × BitVec 32)
  pGrants  : List (BitVec 16)
  bad      : Bool
deriving DecidableEq, Repr

/-- What Hopper read for the intake it takes: the descriptors as 16-byte strings and, for each, its segment;
`none` where the CXL.cache read failed or returned poison (R93, R94). -/
structure IntakeRead where
  descs : Option (List Bytes)
  segs  : List (Option Bytes)
deriving DecidableEq, Repr

/-- An OFFER message (R176): `nsi` is the sender's NSI. -/
structure OfferMsg where
  sk      : BitVec 128
  epoch   : BitVec 16
  tenant  : BitVec 24
  part    : BitVec 4
  gram    : BitVec 12
  gramDig : BitVec 256
  stop    : BitVec 16
  stopDig : BitVec 256
  kvmode  : Bool
  kvLen   : BitVec 32
  state   : BitVec 4
  nsi     : BitVec 64
deriving DecidableEq, Repr

/-- The parts of R175. -/
inductive PartBody where
  /-- the record, as its 256 bytes -/
  | record (bytes : Bytes)
  /-- the session area: stack, held bytes, rest state -/
  | area (stack : List (BitVec 16)) (held : Bytes) (relOff : Nat) (rest : BitVec 4)
  /-- the token log, with any parent prefix copied in, and the pending input count -/
  | tokenLog (toks : List (BitVec 32)) (pend : BitVec 32)
  /-- one piece of a logical shard: linear page or ring slot, its frame bytes, its poison -/
  | piece (shard : BitVec 6) (ring : Bool) (page : BitVec 32) (data : SMap Byte) (poison : Bool)
  /-- the root entry values of a logical shard: kv_len, head, history entries, share, hist_full -/
  | root (shard : BitVec 6) (kvLen : BitVec 32) (head : BitVec 16) (hist : List W64) (share histFull : Bool)
  /-- the last part: the shards of this device are complete -/
  | fin
deriving DecidableEq, Repr

/-- A mirrored session of R182. -/
structure MirrorMsg where
  image  : Bytes
  toks   : List (BitVec 32)
  pend   : BitVec 32
  stack  : List (BitVec 16)
  held   : Bytes
  relOff : Nat
  rest   : BitVec 4
  /-- the root entry's adapter history, without which no recompute is bit-identical (R68, R158; log 117) -/
  hist   : List W64 := []
  histFull : Bool := false
  share  : Bool := false
deriving DecidableEq, Repr

/-- ADAPTER messages (R102, R104). -/
inductive AdapterMsg where
  /-- the image of a load that `src` coordinates -/
  | image (slot : BitVec 10) (ver : BitVec 16) (secver : BitVec 32) (bytes : Bytes)
  /-- a device has staged the load -/
  | report (slot : BitVec 10) (ver : BitVec 16)
  /-- the commit NT of the load -/
  | commit (slot : BitVec 10) (ver : BitVec 16) (c : Nt)
  /-- a device's latest binding report of a version -/
  | binding (slot : BitVec 10) (ver : BitVec 16) (bound : Bool)
  /-- the proposed free NT -/
  | propose (slot : BitVec 10) (ver : BitVec 16) (f : Nt)
  /-- a device's count at the free NT -/
  | atFree (slot : BitVec 10) (ver : BitVec 16) (bound : Bool)
  /-- how the proposal was resolved: freed, or lapsed -/
  | resolve (slot : BitVec 10) (ver : BitVec 16) (freed : Bool)
deriving DecidableEq, Repr

/-- A Molair wire frame's payload and header fields (R232). -/
structure Frame where
  typ     : BitVec 4
  poison  : Bool
  unconf  : Bool
  last    : Bool
  src     : BitVec 6
  dst     : BitVec 6
  queue   : BitVec 4
  lseq    : BitVec 32
  tag     : BitVec 32
  valid   : BitVec 9
  frag    : BitVec 22
  payload : Bytes
deriving DecidableEq, Repr

/-- A topology record of R484; `ok` says that its CRC matches. -/
structure TopoRec where
  slot    : BitVec 7
  serial  : BitVec 64
  fwver   : BitVec 32
  arith   : BitVec 16
  profile : Bool
  nodeId  : BitVec 12
  ports   : List (BitVec 7 × BitVec 4 × BitVec 3)
  lastNt  : Nt
  grnNt   : Nt
  ok      : Bool
deriving DecidableEq, Repr

/-- What the coordinator learns of the group before a restore (R404, R405): lost positions, the epochs held
for every position (the buddy's for a lost one), and what a covering spare offers. -/
structure RestoreInfo where
  lost      : List (BitVec 6)
  held      : List (BitVec 6 × List (BitVec 32))
  spareOk   : Bool
  buddyOk   : Bool
  planBuddy : Bool
deriving DecidableEq, Repr

/-- A firmware image as the boot ROM reads it (R417). -/
structure FwImage where
  secver : BitVec 32
  digest : BitVec 256
  level  : BitVec 24
  sigOk  : Bool
deriving DecidableEq, Repr

/-- How a NAND read went before poison (R317). -/
inductive ReadTry where
  | decoded (overThr : Bool)
  | parity
  | uncorrectable
deriving DecidableEq, Repr

/-- The paths of Sluice (R356). -/
inductive SlPath where
  | molair (port : BitVec 4)
  | grnWrite
  | grnRead
  | host
deriving DecidableEq, Repr

/-- How a map page answered the two fetches of R305. -/
inductive MapFetch where
  | good
  | badThenGood
  | badTwice
deriving DecidableEq, Repr

/-- The stack action of a grammar move (R116). -/
inductive GAct where
  | none
  | push (sym : BitVec 16)
  | pop
deriving DecidableEq, Repr

/-- A grammar move: in state `st` with `top` on the stack (`none`: empty), token `tok` (R116). -/
structure GMove where
  st   : BitVec 20
  top  : Option (BitVec 16)
  tok  : BitVec 32
  next : BitVec 20
  act  : GAct
  mark : BitVec 4
deriving DecidableEq, Repr

/-- A grammar automaton (R116). -/
structure Grammar where
  start  : BitVec 20
  limit  : Nat
  moves  : List GMove
  digest : BitVec 256
  secver : BitVec 32
deriving DecidableEq, Repr

/-- A model image (R52, R96). -/
structure Model where
  digest : BitVec 256
  secver : BitVec 32
  nkv    : Nat
  dim    : Nat
  lg     : Nat
  lw     : Nat
  win    : Nat
  int4   : Bool
  headH  : Nat
  maxPos : BitVec 32
  sigma  : F32
  vocab  : List (Bytes × Bool)
deriving DecidableEq, Repr

/-- One entry of a slice table (R215). -/
structure Slice where
  part  : BitVec 4
  mask  : BitVec 64
  start : Nat
  len   : Nat
deriving DecidableEq, Repr

/-- A mill plan image (R221, R222, R215): its header and the sections the hub uses. `streamOk` says that every
bundle stream passes R261, `grainsOk` that every slice holds a whole number of grains of at most 30,000 steps. -/
structure Plan where
  magic     : BitVec 32
  format    : BitVec 16
  hdrLen    : BitVec 16
  producer  : BitVec 32
  secver    : BitVec 32
  length    : BitVec 64
  n         : BitVec 8
  role      : BitVec 8
  base      : BitVec 8
  groups    : BitVec 8
  setId     : BitVec 32
  family    : BitVec 256
  model     : BitVec 256
  arithrev  : BitVec 16
  positions : BitVec 8
  depth     : BitVec 8
  chunk     : BitVec 32
  pfRate    : BitVec 32
  bq        : BitVec 16
  allow     : BitVec 16
  bframe    : BitVec 16
  admCap    : BitVec 16
  nodesize  : BitVec 8
  digest    : BitVec 256
  sigOk     : Bool
  sectOk    : Bool
  streamOk  : Bool
  grainsOk  : Bool
  leatsFit  : Bool
  leats     : List (BitVec 64)
  slices    : List Slice
  buckets   : List Nat
  windows   : List Nat
  chunkGr   : Nat
  grainSt   : Nat
  gFrames   : BitVec 32
  wFrames   : BitVec 32
  /-- the prefetch schedule of each stone die: the layers of its weight tiles (R146) -/
  sched     : List (List (BitVec 9))
  lanes     : Nat
  buddyOk   : Bool
deriving DecidableEq, Repr

/-- What a completed CXL.cache read brings, once the device has parsed and verified it as its chapter says. -/
inductive ReadData where
  /-- the bytes as they stand -/
  | raw (b : Bytes)
  /-- a grammar image: signature, digest and format results (R276) -/
  | grammar (sigOk digOk fmtOk : Bool) (g : Grammar)
  /-- a model image -/
  | model (sigOk digOk fmtOk : Bool) (m : Model)
  /-- an adapter image -/
  | adapter (sigOk digOk fmtOk : Bool) (secver : BitVec 32) (b : Bytes)
  /-- a plan image: the 256 bytes of its header, and what its sections hold -/
  | plan (hdr : Bytes) (p : Plan)
  /-- an open block of R425: decapsulation and key unwrap results, and K -/
  | openBlock (decapOk kwOk : Bool) (k : BitVec 256)
  /-- a sealed buffer of R426: tenant, counter, tag result, plaintext segments (none: malformed) -/
  | sealed (tenant : BitVec 24) (ctr : BitVec 64) (tagOk : Bool) (segs : Option (List (BitVec 8 × Bytes)))
deriving DecidableEq, Repr

end Sys2Proof
end

