-- ==== Sys2Proof/Syntax.lean ====
section
/-! DEFINITION. The commands of the module: one constructor for each row of spec/opcode_table.json, in the
table's order. `t` is the node time at which the command comes about (R274, R253, R503). -/

namespace Sys2Proof

/-- A command of the block. -/
inductive Instr where
  /- Loads and stores of the HDM region (R271). -/
  | ticketLoad (t : Nt) (h : Handle) (cacheable : Bool)
  | keySlotStore (t : Nt) (k : BitVec 12) (sk : BitVec 128)
  | keySlotLoad (t : Nt) (k : BitVec 12)
  | ticketWindowStore (t : Nt) (off : BitVec 28)
  | memwrptl (t : Nt) (w : BitVec 8)
  /- Host command lines (R276, R339, R414, R442, R512, R391): the window and the line. -/
  | admitSession (t : Nt) (w : BitVec 8) (line : CmdLine)
  | dropCommand (t : Nt) (w : BitVec 8) (line : CmdLine)
  | intakeCommand (t : Nt) (w : BitVec 8) (line : CmdLine)
  | parkCommand (t : Nt) (w : BitVec 8) (line : CmdLine)
  | reviveCommand (t : Nt) (w : BitVec 8) (line : CmdLine)
  | migrateCommand (t : Nt) (w : BitVec 8) (line : CmdLine)
  | resume (t : Nt) (w : BitVec 8) (line : CmdLine)
  | signal (t : Nt) (w : BitVec 8) (line : CmdLine)
  | update (t : Nt) (w : BitVec 8) (line : CmdLine)
  | bindCommand (t : Nt) (w : BitVec 8) (line : CmdLine)
  | inspect (t : Nt) (w : BitVec 8) (line : CmdLine)
  | reclaim (t : Nt) (w : BitVec 8) (line : CmdLine)
  | stopload (t : Nt) (w : BitVec 8) (line : CmdLine)
  | gramload (t : Nt) (w : BitVec 8) (line : CmdLine)
  | adapterload (t : Nt) (w : BitVec 8) (line : CmdLine)
  | progload (t : Nt) (w : BitVec 8) (line : CmdLine)
  | progdrop (t : Nt) (w : BitVec 8) (line : CmdLine)
  | modelload (t : Nt) (w : BitVec 8) (line : CmdLine)
  | planload (t : Nt) (w : BitVec 8) (line : CmdLine)
  | plandrop (t : Nt) (w : BitVec 8) (line : CmdLine)
  | recompose (t : Nt) (w : BitVec 8) (line : CmdLine)
  | evacuate (t : Nt) (w : BitVec 8) (line : CmdLine)
  | qcreate (t : Nt) (w : BitVec 8) (line : CmdLine)
  | qdestroy (t : Nt) (w : BitVec 8) (line : CmdLine)
  | qsearchCommand (t : Nt) (w : BitVec 8) (line : CmdLine)
  | qinsertCommand (t : Nt) (w : BitVec 8) (line : CmdLine)
  | qdeleteCommand (t : Nt) (w : BitVec 8) (line : CmdLine)
  | qfilter (t : Nt) (w : BitVec 8) (line : CmdLine)
  | qmerge (t : Nt) (w : BitVec 8) (line : CmdLine)
  | cutCommand (t : Nt) (w : BitVec 8) (line : CmdLine)
  | restoreCommand (t : Nt) (w : BitVec 8) (line : CmdLine)
  | attest (t : Nt) (w : BitVec 8) (line : CmdLine)
  | sealopen (t : Nt) (w : BitVec 8) (line : CmdLine)
  | sealclose (t : Nt) (w : BitVec 8) (line : CmdLine)
  | sealintake (t : Nt) (w : BitVec 8) (line : CmdLine)
  | keyrotate (t : Nt) (w : BitVec 8) (line : CmdLine)
  | partclear (t : Nt) (w : BitVec 8) (line : CmdLine)
  | fuseadv (t : Nt) (w : BitVec 8) (line : CmdLine)
  | provision (t : Nt) (w : BitVec 8) (line : CmdLine)
  | jread (t : Nt) (w : BitVec 8) (line : CmdLine)
  | bbread (t : Nt) (w : BitVec 8) (line : CmdLine)
  | bbsnap (t : Nt) (w : BitVec 8) (line : CmdLine)
  | ctrsnap (t : Nt) (w : BitVec 8) (line : CmdLine)
  | inject (t : Nt) (w : BitVec 8) (line : CmdLine)
  | injcancel (t : Nt) (w : BitVec 8) (line : CmdLine)
  /- Session instructions (R258): the executing session and the instruction word (R251). -/
  | nop (t : Nt) (h : Handle) (w : W64)
  | br (t : Nt) (h : Handle) (w : W64)
  | bcc (t : Nt) (h : Handle) (w : W64)
  | cbr (t : Nt) (h : Handle) (w : W64)
  | cbi (t : Nt) (h : Handle) (w : W64)
  | bst (t : Nt) (h : Handle) (w : W64)
  | loopI (t : Nt) (h : Handle) (w : W64)
  | wait (t : Nt) (h : Handle) (w : W64)
  | parkInstruction (t : Nt) (h : Handle) (w : W64)
  | reviveInstruction (t : Nt) (h : Handle) (w : W64)
  | migrateInstruction (t : Nt) (h : Handle) (w : W64)
  | fork (t : Nt) (h : Handle) (w : W64)
  | dropInstruction (t : Nt) (h : Handle) (w : W64)
  | getf (t : Nt) (h : Handle) (w : W64)
  | setf (t : Nt) (h : Handle) (w : W64)
  | intakeInstruction (t : Nt) (h : Handle) (w : W64)
  | prefill (t : Nt) (h : Handle) (w : W64)
  | step (t : Nt) (h : Handle) (w : W64)
  | emit (t : Nt) (h : Handle) (w : W64)
  | hold (t : Nt) (h : Handle) (w : W64)
  | bindInstruction (t : Nt) (h : Handle) (w : W64)
  | qsearchInstruction (t : Nt) (h : Handle) (w : W64)
  | qinsertInstruction (t : Nt) (h : Handle) (w : W64)
  | qdeleteInstruction (t : Nt) (h : Handle) (w : W64)
  | mov (t : Nt) (h : Handle) (w : W64)
  | ldi (t : Nt) (h : Handle) (w : W64)
  | lui (t : Nt) (h : Handle) (w : W64)
  | add (t : Nt) (h : Handle) (w : W64)
  | sub (t : Nt) (h : Handle) (w : W64)
  | andI (t : Nt) (h : Handle) (w : W64)
  | orI (t : Nt) (h : Handle) (w : W64)
  | xorI (t : Nt) (h : Handle) (w : W64)
  | shl (t : Nt) (h : Handle) (w : W64)
  | shr (t : Nt) (h : Handle) (w : W64)
  | sar (t : Nt) (h : Handle) (w : W64)
  | cmp (t : Nt) (h : Handle) (w : W64)
  | ntread (t : Nt) (h : Handle) (w : W64)
  | post (t : Nt) (h : Handle) (w : W64)
  /- An activation of a context (R252); `parity` says that a parity fault is found (R254). -/
  | sequencerActivation (t : Nt) (h : Handle) (parity : Bool)
  /- Stone bundle slots (R263 to R266): the logical stone and the slot word; `bad` says that a check lane or residue mismatches (R384). -/
  | mma (t : Nt) (l : BitVec 11) (w : W64) (bad : Bool)
  | mmai (t : Nt) (l : BitVec 11) (w : W64) (bad : Bool)
  | mqk (t : Nt) (l : BitVec 11) (w : W64) (bad : Bool)
  | mpv (t : Nt) (l : BitVec 11) (w : W64) (bad : Bool)
  | mcfg (t : Nt) (l : BitVec 11) (w : W64)
  | vadd (t : Nt) (l : BitVec 11) (w : W64) (bad : Bool)
  | vsub (t : Nt) (l : BitVec 11) (w : W64) (bad : Bool)
  | vmul (t : Nt) (l : BitVec 11) (w : W64) (bad : Bool)
  | vfma (t : Nt) (l : BitVec 11) (w : W64) (bad : Bool)
  | vdiv (t : Nt) (l : BitVec 11) (w : W64) (bad : Bool)
  | vsqrt (t : Nt) (l : BitVec 11) (w : W64) (bad : Bool)
  | vmin (t : Nt) (l : BitVec 11) (w : W64) (bad : Bool)
  | vmax (t : Nt) (l : BitVec 11) (w : W64) (bad : Bool)
  | vfn (t : Nt) (l : BitVec 11) (w : W64) (bad : Bool)
  | vscl (t : Nt) (l : BitVec 11) (w : W64) (bad : Bool)
  | vcvt (t : Nt) (l : BitVec 11) (w : W64) (bad : Bool)
  | vqmx (t : Nt) (l : BitVec 11) (w : W64) (bad : Bool)
  | vred (t : Nt) (l : BitVec 11) (w : W64) (bad : Bool)
  | vtree (t : Nt) (l : BitVec 11) (w : W64) (bad : Bool)
  | vatt (t : Nt) (l : BitVec 11) (w : W64) (bad : Bool)
  | vcomb (t : Nt) (l : BitVec 11) (w : W64) (bad : Bool)
  | xcopy (t : Nt) (l : BitVec 11) (w : W64)
  | xwait (t : Nt) (l : BitVec 11) (w : W64)
  | xkvw (t : Nt) (l : BitVec 11) (w : W64)
  | xhub (t : Nt) (l : BitVec 11) (w : W64)
  | lsend (t : Nt) (l : BitVec 11) (w : W64)
  | lrecv (t : Nt) (l : BitVec 11) (w : W64)
  | lput (t : Nt) (l : BitVec 11) (w : W64)
  | lwait (t : Nt) (l : BitVec 11) (w : W64)
  | grain (t : Nt) (l : BitVec 11) (w : W64)
  | gcommit (t : Nt) (l : BitVec 11) (w : W64)
  | stepend (t : Nt) (l : BitVec 11) (w : W64)
  /- Events of the step (R146, R226 to R228). -/
  | stagingTransfer (t : Nt) (die : BitVec 2) (idx : BitVec 32) (layer : BitVec 9)
  | stagingLanded (t : Nt) (die : BitVec 2) (idx : BitVec 32) (stalled : BitVec 16) (lines : List (BitVec 11 × BitVec 14 × BitVec 512))
  | deviceReady (t : Nt)
  | gather (t : Nt) (h : Handle) (logits : List (List F32)) (poison : Bool)
  | hostDraftRead (t : Nt) (h : Handle) (ok : Bool) (data : Bytes)
  | boundaryFrame (t : Nt) (fr : BFrame)
  | stepBoundary (t : Nt)
  /- Session timers, intake and Granary durability. -/
  | waitTimeout (t : Nt) (h : Handle)
  | holdTimeout (t : Nt) (h : Handle)
  | ttlExpire (t : Nt) (h : Handle)
  | hopperIntake (t : Nt) (rd : IntakeRead)
  | writeDurable (t : Nt) (id : Nat)
  | extentRead (t : Nt) (h : Handle) (ok : Bool)
  /- Records and their rings (R141, R285); `consumed` is the word read, `none` a failed read. -/
  | backlogDrain (t : Nt) (p : BitVec 4) (consumed : Option (BitVec 32))
  | completionBacklogDrain (t : Nt) (p : BitVec 4) (consumed : Option (BitVec 32))
  | consumedWordRetry (t : Nt) (stream : Bool) (p : BitVec 4) (consumed : Option (BitVec 32))
  | writeRetry (t : Nt) (id : Nat) (ok : Bool)
  | quantizedCompletion (t : Nt)
  | interruptHoldoff (t : Nt) (v : BitVec 6)
  /- Messages of the node (R176 to R182, R102, R401, R412). -/
  | offer (t : Nt) (src : BitVec 6) (m : OfferMsg)
  | accept (t : Nt) (src : BitVec 6) (sk : BitVec 128)
  | refuse (t : Nt) (src : BitVec 6) (sk : BitVec 128) (reason : BitVec 8)
  | part (t : Nt) (src : BitVec 6) (sk : BitVec 128) (body : PartBody) (crcOk : Bool)
  | ack (t : Nt) (src : BitVec 6) (sk : BitVec 128) (epoch : BitVec 16) (nsi : W64)
  | probe (t : Nt) (src : BitVec 6) (sk : BitVec 128) (epoch : BitVec 16)
  | probeReply (t : Nt) (src : BitVec 6) (sk : BitVec 128) (held : Option (BitVec 16))
  | release (t : Nt) (src : BitVec 6) (sk : BitVec 128) (epoch : BitVec 16)
  | event (t : Nt) (src : BitVec 6) (nsi : W64) (bit : BitVec 4)
  | mirror (t : Nt) (src : BitVec 6) (m : MirrorMsg)
  | adapter (t : Nt) (src : BitVec 6) (m : AdapterMsg)
  | drainPage (t : Nt) (src : BitVec 6) (epoch : BitVec 32) (page : Nat) (data : Bytes) (last : Bool)
  | drainDone (t : Nt) (pos : BitVec 6) (epoch : BitVec 32)
  | drainSettled (t : Nt) (src : BitVec 6) (sk : BitVec 128)
  | drainRestored (t : Nt) (src : BitVec 6) (cutNt : Nt)
  | buddy (t : Nt) (src : BitVec 6) (epoch : BitVec 32) (key : Nat) (data : Bytes)
  /- Timers of the protocols. -/
  | ackTimeout (t : Nt) (h : Handle)
  | offerTimeout (t : Nt) (h : Handle)
  | stagingTimeout (t : Nt) (sk : BitVec 128)
  | probeInterval (t : Nt) (sk : BitVec 128)
  | adapterCommit (t : Nt) (slot : BitVec 10)
  | bindingReport (t : Nt) (slot : BitVec 10) (ver : BitVec 16)
  | adapterFree (t : Nt) (slot : BitVec 10) (ver : BitVec 16) (others : Bool)
  /- Recomposition, restore. -/
  | effectiveNt (t : Nt)
  | recomposeTimeout (t : Nt)
  | planActivation (t : Nt) (slot : BitVec 3)
  | ownSlotWrite (t : Nt)
  | autoRestore (t : Nt) (info : RestoreInfo)
  /- Events of the Granary controller (R298 to R323). -/
  | nandProgram (t : Nt)
  | programFailure (t : Nt) (die : BitVec 8) (block : BitVec 14)
  | blockVerify (t : Nt) (die : BitVec 8) (block : BitVec 14) (pct : BitVec 7)
  | gcIdle (t : Nt)
  | gcRelocate (t : Nt) (die : BitVec 8)
  | victimErase (t : Nt) (die : BitVec 8) (block : BitVec 14) (ok : Bool)
  | staticWearLevel (t : Nt) (die : BitVec 8)
  | granaryRead (t : Nt) (unit : BitVec 32) (res : ReadTry)
  | mapPageFetch (t : Nt) (page : BitVec 16) (res : MapFetch)
  | mapPageRebuild (t : Nt) (page : BitVec 16)
  | mapCheckpoint (t : Nt)
  | grnflush (t : Nt) (v : BitVec 32)
  /- Quern and AIX (R334 to R352). -/
  | quernSearchStart (t : Nt)
  | quernResult (t : Nt) (unreadable : List (BitVec 32))
  | quernIndexFree (t : Nt) (idx : BitVec 6)
  | mergeCommit (t : Nt) (idx : BitVec 6)
  | bankSwap (t : Nt) (bank : BitVec 4)
  | aixScrub (t : Nt) (bad : List (BitVec 4 × BitVec 14 × Bool))
  /- Integrity (R375, R381), keys (R422, R432). -/
  | pwScrub (t : Nt) (pass : BitVec 2)
  | rowRepair (t : Nt) (stack : BitVec 3) (chan : BitVec 6) (row : BitVec 16)
  | hbmChannelFail (t : Nt) (stack : BitVec 3) (chan : BitVec 6) (phy : Bool)
  | hbmChannelCopy (t : Nt) (stack : BitVec 3) (chan : BitVec 6)
  | sweepRewrite (t : Nt) (h : Handle) (unit : BitVec 32)
  | keyRetire (t : Nt) (h : Handle)
  | trngHealthTest (t : Nt) (pass : Bool)
  /- Sluice (R357 to R367). -/
  | refillInstant (t : Nt)
  | drrSend (t : Nt) (path : SlPath)
  | sampleInstant (t : Nt)
  /- Molair links (R232 to R243, R389, R482 to R489). -/
  | staticFrame (t : Nt) (port : BitVec 4) (fr : Frame)
  | nak (t : Nt) (port : BitVec 4) (lseq : BitVec 32)
  | acknowledgment (t : Nt) (port : BitVec 4) (lseq : BitVec 32)
  | credit (t : Nt) (port : BitVec 4) (q : BitVec 4) (n : BitVec 8)
  | laneSwap (t : Nt) (port : BitVec 4)
  | laneLockLoss (t : Nt) (port : BitVec 4) (lane : BitVec 4)
  | symbolWindow (t : Nt) (port : BitVec 4) (lane : BitVec 4) (symbols : BitVec 32)
  | portSilence (t : Nt) (port : BitVec 4)
  | groupFaultFrame (t : Nt) (src : BitVec 6) (cause : BitVec 8)
  | hello (t : Nt) (port : BitVec 4) (arg : BitVec 24)
  | helloSend (t : Nt) (port : BitVec 4)
  | topologyRecord (t : Nt) (r : TopoRec)
  | topologyResend (t : Nt)
  | mapDigest (t : Nt) (crc : W64)
  | coarseFrame (t : Nt) (edge : Nt) (master : BitVec 8) (flags : BitVec 8) (crcOk : Bool)
  | coarseEdge (t : Nt)
  | fineExchange (t : Nt) (offset : BitVec 16)
  | holdover (t : Nt)
  | holdoverExpiry (t : Nt)
  | masterSilence (t : Nt) (lowest : BitVec 6)
  /- Resets and clocks (R475, R501 to R505). -/
  | powerOnReset (t : Nt) (slot : BitVec 7) (testen : Bool)
  | perstAssert (t : Nt)
  | perstDeassert (t : Nt) (slot : BitVec 7) (testen : Bool)
  | warmReset (t : Nt) (v : BitVec 32)
  | cxlPortReset (t : Nt)
  | clockDomainReset (t : Nt) (cls : BitVec 3) (dom : BitVec 8) (entries : BitVec 16)
  | clockStop (t : Nt) (cls : BitVec 3) (dom : BitVec 8)
  | clockWake (t : Nt) (cls : BitVec 3) (dom : BitVec 8) (ns : BitVec 16)
  | rateWindow (t : Nt) (die : BitVec 3) (msps : BitVec 12)
  /- Supplies, cooling, sideband (R453 to R470). -/
  | inputInRegulation (t : Nt) (i : BitVec 2)
  | powerLoss (t : Nt) (cause : BitVec 3)
  | fuseOpen (t : Nt) (i : BitVec 2)
  | powerRestart (t : Nt)
  | pwrbrkAssert (t : Nt)
  | pwrbrkDeassert (t : Nt)
  | tjWarn (t : Nt) (sensor : BitVec 4) (degc : BitVec 8)
  | tjWarnClear (t : Nt) (degc : List (BitVec 8))
  | thermalTrip (t : Nt) (sensor : BitVec 4) (degc : BitVec 8)
  | tripRecovery (t : Nt) (degc : List (BitVec 8))
  | tokenRefill (t : Nt)
  | wakeGrant (t : Nt)
  | powerWindow (t : Nt) (ins : List (BitVec 16 × BitVec 16 × BitVec 16))
  | vcoreStep (t : Nt)
  | smbusRead (t : Nt) (off : BitVec 16)
  | smbusWrite (t : Nt) (off : BitVec 16) (v : BitVec 32) (pecOk : Bool)
  /- Diagnostics (R509, R513). -/
  | bbConsole (t : Nt) (die : BitVec 3)
  | bbCopy (t : Nt)
  | counterLatch (t : Nt)
  /- Stages of node formation (R479 to R493). -/
  | powerStage (t : Nt)
  | boot (t : Nt) (imgs : List FwImage)
  | selftest (t : Nt) (fail : Option (BitVec 64)) (stoneFail : List (BitVec 2 × BitVec 10))
  | linkWindow (t : Nt) (states : List (BitVec 3))
  | topologyComplete (t : Nt)
  | topologyTimeout (t : Nt)
  | elect (t : Nt)
  | sync (t : Nt)
  | syncTimeout (t : Nt)
  | grnGo (t : Nt) (v : BitVec 32)
  | granaryStartTimeout (t : Nt)
  | granaryReady (t : Nt) (ms : BitVec 32)
  | planStage (t : Nt) (agree : Bool) (weightsOk : Bool)
  | restoreStage (t : Nt) (common : Option (BitVec 32))
  | ready (t : Nt)
  | sessionsGo (t : Nt) (v : BitVec 32)
  /- Register writes (R9, R522). -/
  | hctlLock (t : Nt) (v : BitVec 32)
  | pwrctlLock (t : Nt) (v : BitVec 32)
  | nfctlLock (t : Nt) (v : BitVec 32)
  | dgctlLock (t : Nt) (v : BitVec 32)
  | stoneretire (t : Nt) (v : BitVec 32)
  | mollane (t : Nt) (n : BitVec 4) (v : BitVec 32)
  | aixbankmap (t : Nt) (v : BitVec 32)
  | dgsnap (t : Nt) (v : BitVec 32)
  | streamRingEnable (t : Nt) (n : BitVec 4) (v : BitVec 32)
  | completionRingEnable (t : Nt) (n : BitVec 4) (v : BitVec 32)
  | partctlMode (t : Nt) (p : BitVec 4) (v : BitVec 32)
  | registerWrite (t : Nt) (addr : BitVec 20) (v : W64) (wide : Bool)
  | unknownOpcodeLine (t : Nt) (w : BitVec 8) (op : BitVec 8) (line : CmdLine)
  /- Completions of CXL traffic, frames and injections. -/
  | itomwrComplete (t : Nt) (id : Nat) (ok : Bool)
  | rdcurrComplete (t : Nt) (id : Nat) (data : Option ReadData)
  | dynamicFrame (t : Nt) (port : BitVec 4) (fr : Frame)
  | frameCheckFailure (t : Nt) (port : BitVec 4) (symbols : BitVec 16)
  | ideKm (t : Nt)
  | cxlLinkUp (t : Nt)
  | injectionTimeReached (t : Nt)
  | injectionDurationEnd (t : Nt) (point : BitVec 8)
deriving DecidableEq, Repr

end Sys2Proof
end

