-- ==== Sys2Proof/Decode.lean ====
section
/-! DEFINITION. The decoder the table's words ask for. The rows of spec/opcode_table.json give no bits: the module takes
its commands from its connectors and its own events, and no word of the table's numbering spells one. -/

namespace Sys2Proof

/-- The command that a word spells by the table's bits: none, since no row of the table has bits. -/
def decodeTableWord (_nbits _w : Nat) : Option Instr := none

end Sys2Proof
end

