-- ==== Sys2Proof/Config.lean ====
section
/-! DEFINITION. What one module fixes (fuses, factory data, provisioning at the time the model starts), the values the
spec leaves free, and the functions of published standards that the spec names and does not print. No proof
can see a value: every constant here is opaque or stands on opaque ones. -/

namespace Sys2Proof.Config

/-- The n-th free value (a value the spec leaves open), log entry 2. -/
opaque freeValue : Nat → BitVec 64

/-- HIDENT.capacity (R288): true for 64 TB. -/
opaque cap64 : Bool
/-- HIDENT.default_profile (R1, R288): true for F. -/
opaque defaultProfile : Bool
/-- HSERIAL (R288). -/
opaque serial : BitVec 64
/-- HFWVER level bits before a boot has started an image (R288). -/
opaque fwLevel : BitVec 24
/-- What a PROVISION that has taken effect before the model starts has installed: the profile (true for F) and the owner key's digest;
none where none has (R423, log 4). -/
opaque provisioned : Option (Bool × Option (BitVec 256))
/-- The active profile: the one provisioned, and until then the factory default (R1, R423). -/
def profile : Bool := (provisioned.map (·.1)).getD defaultProfile
/-- The owner key digest provisioned, none until the first PROVISION (R423). -/
def ownerDigest : Option (BitVec 256) := (provisioned.map (·.2)).getD none
/-- SECSVN: the fused minima FW, PLAN, MODEL, AUX (R419). -/
opaque secsvn : BitVec 32
/-- The fused list of stones of a die that failed factory test (R188). -/
opaque badStones : Nat → List Nat
/-- An order of the 8,448 blocks of a Granary die, its bad blocks last, and how many those are when the model starts: at most 100 (R291). -/
opaque blockOrder : Nat → Equiv.Perm (Fin 8448)
opaque badBlocks : Nat → Fin 101
/-- Blocks `lo` to `hi - 1` of a die's order. -/
def blocksOf (d lo hi : Nat) : List Nat := (List.range' lo (hi - lo)).map (fun k => (blockOrder d (Fin.ofNat 8448 k)).val)
/-- A die's pools as manufactured (R292): 7,973 data blocks, 40 reserved blocks, every other good block a spare; with their persisted erase
counts (R316). -/
def dataBlocks (d : Nat) : List Nat := blocksOf d 0 7973
def reservedBlocks (d : Nat) : List Nat := blocksOf d 7973 8013
def spareBlocks (d : Nat) : List Nat := blocksOf d 8013 (8448 - (badBlocks d).val)
opaque eraseCount : Nat → Nat → BitVec 16
/-- The 16 dies of a stripe group (R308). DESIGN CHOICE (log 161): die d is on channel d mod 32, at position d div 32. -/
def groupDies (g : Nat) : List Nat := List.range' (16 * g) 16
/-- The Granary is in read-only mode when the model starts (R321). -/
opaque grnReadonly : Bool
/-- Persisted power-loss and trip counts (R474). -/
opaque pwrLosses : BitVec 64
opaque pwrTrips : BitVec 64
/-- The drain slots' manifests found at the first start are valid (R323). -/
opaque drainValid : Bool
/-- The previous shutdown was clean (R323). -/
opaque startClean : Bool

/-- KMAC256 with customisation string "FLEILO-M8" (SP 800-185), named by R425, R428 and R429. -/
opaque kmac : List (BitVec 8) → List (BitVec 8) → BitVec 256
/-- SHA3-256, named by R420 and R421. -/
opaque sha3 : List (BitVec 8) → BitVec 256
/-- AES-256-GCM sealing (R427): key, nonce, associated data, plaintext; ciphertext then tag. -/
opaque gcmSeal : BitVec 256 → List (BitVec 8) → List (BitVec 8) → List (BitVec 8) → List (BitVec 8)
/-- ML-DSA-44 signing with the identity key (R421). -/
opaque identitySign : List (BitVec 8) → List (BitVec 8)
/-- The public keys of a boot (R421): ML-KEM-768 of boot n, and the identity key. -/
opaque kemPublic : Nat → List (BitVec 8)
opaque identityPublic : List (BitVec 8)

/-- What R347 and R352 leave open of a merge: the L of the linking searches, the entry node of a generation, and the
place of a NaN distance in the order of R346 (log 19). -/
opaque quernLink : BitVec 12
opaque quernEntry : Nat → Nat
opaque quernNan : BitVec 32 → Int

/-- The 2 KiB of the FRU EEPROM (R471), written at the factory (log 114). -/
opaque fru : Vector (BitVec 8) 2048

/-- The running value of a check over the first bytes of an object in transfer: object and byte count (R371, log 15). -/
opaque runValue : Nat → Nat → BitVec 64

/-- The functions of VFN where the manual states no result: subop and operand (log 7). -/
opaque fnOpen : Nat → BitVec 32 → BitVec 32

/-- Elements a matrix slot writes where the configured formats are not a pair of its mode: slot word and element (log 9). -/
opaque mmOpen : BitVec 64 → Nat → BitVec 32

end Sys2Proof.Config
end

