-- ==== Sys2Proof/Machine/Table.lean ====
section
/-! DEFINITION. Sparse tables: lookup, write and removal in a list of keyed entries whose keys rise strictly. -/

namespace Sys2Proof.Machine

/-- The entry of key `i`, if listed. -/
def smLook {β : Type} : SMap β → Nat → Option β
  | [], _ => none
  | (k, v) :: m, i => if i = k then some v else smLook m i

/-- List `x` under key `i`, in place of any entry there. -/
def smPut {β : Type} : SMap β → Nat → β → SMap β
  | [], i, x => [(i, x)]
  | (k, v) :: m, i, x =>
    if i < k then (i, x) :: (k, v) :: m
    else if i = k then (i, x) :: m
    else (k, v) :: smPut m i x

/-- Remove the entry of key `i`. -/
def smDel {β : Type} : SMap β → Nat → SMap β
  | [], _ => []
  | (k, v) :: m, i => if i = k then smDel m i else (k, v) :: smDel m i

/-- What key `i` reads as, where an unlisted key reads as `d`. -/
def smGet {β : Type} (d : β) (m : SMap β) (i : Nat) : β := (smLook m i).getD d

/-- Make key `i` read as `x`, where an unlisted key reads as `d`. -/
def smSet {β : Type} [DecidableEq β] (d : β) (m : SMap β) (i : Nat) (x : β) : SMap β :=
  if x = d then smDel m i else smPut m i x

/-- Replace the entry of key `i` by `f` of it, where one is listed. -/
def smMod {β : Type} (m : SMap β) (i : Nat) (f : β → β) : SMap β :=
  match smLook m i with
  | none => m
  | some v => smPut m i (f v)

/-- Keys rise strictly and start at or above `lo`. -/
def keysFrom {β : Type} : Nat → SMap β → Bool
  | _, [] => true
  | lo, (k, _) :: m => decide (lo ≤ k) && keysFrom (k + 1) m

/-- The canonical form of a table that reads `d` where nothing is listed. -/
def smWf {β : Type} [DecidableEq β] (d : β) (m : SMap β) : Bool :=
  keysFrom 0 m && m.all (fun e => decide (e.2 ≠ d))

end Sys2Proof.Machine
end

