-- ==== Sys2Proof/Machine/Bits.lean ====
section
/-! DEFINITION. Bit fields, little-endian byte strings (R7), paired words (R10), saturating counts and the check codes
of R370. -/

namespace Sys2Proof.Machine

/-- Bits [hi:lo] of a number. -/
def bitsOf (x hi lo : Nat) : Nat := (x / 2 ^ lo) % 2 ^ (hi + 1 - lo)

/-- `x` with bits [hi:lo] replaced by the low bits of `v`. -/
def setBits (x hi lo v : Nat) : Nat :=
  x - bitsOf x hi lo * 2 ^ lo + (v % 2 ^ (hi + 1 - lo)) * 2 ^ lo

/-- The `n` low bytes of `x`, least significant first (R7). -/
def le : Nat → Nat → Bytes
  | 0, _ => []
  | n + 1, x => BitVec.ofNat 8 x :: le n (x / 256)

/-- The number a byte string stands for (R7). -/
def ofLe : Bytes → Nat
  | [] => 0
  | b :: bs => b.toNat + 256 * ofLe bs

/-- Bytes `o` to `o + n - 1` as a number; bytes beyond the end count as 0. -/
def field (b : Bytes) (o n : Nat) : Nat := ofLe ((b.drop o).take n)

/-- The string padded with zero bytes to `n` bytes. -/
def padTo (n : Nat) (b : Bytes) : Bytes := b ++ List.replicate (n - b.length) 0

/-- The paired word of an n-bit value (R10). -/
def pairOf (n x : Nat) : Nat := x % 2 ^ n + (2 ^ n - 1 - x % 2 ^ n) * 2 ^ n

/-- A 2n-bit paired word is valid (R10). -/
def pairOk (n x : Nat) : Bool := bitsOf x (2 * n - 1) n == 2 ^ n - 1 - bitsOf x (n - 1) 0

/-- A count of `w` bits that saturates. -/
def satAdd (w x y : Nat) : Nat := min (x + y) (2 ^ w - 1)

/-- One bit step of a reflected CRC with reflected polynomial `p`. -/
def crcBit (p x : Nat) : Nat := if x % 2 = 1 then (x / 2) ^^^ p else x / 2

/-- One byte step of a reflected CRC. -/
def crcByte (p x : Nat) (b : Byte) : Nat :=
  let y := x ^^^ b.toNat
  crcBit p (crcBit p (crcBit p (crcBit p (crcBit p (crcBit p (crcBit p (crcBit p y)))))))

/-- CRC-32C of R370. -/
def crc32c (b : Bytes) : Nat := b.foldl (crcByte 0x82F63B78) 0xFFFFFFFF ^^^ 0xFFFFFFFF

/-- CRC-64 of R370. -/
def crc64 (b : Bytes) : Nat :=
  b.foldl (crcByte 0xC96C5795D7870F42) 0xFFFFFFFFFFFFFFFF ^^^ 0xFFFFFFFFFFFFFFFF

/-- `a` is newer than `b` in a modulo-2^w sequence (R47, R140). -/
def newer (w a b : Nat) : Bool :=
  let d := (a + 2 ^ w - b % 2 ^ w) % 2 ^ w
  1 ≤ d && d < 2 ^ (w - 1)

/-- ⌈x ÷ y⌉ -/
def cdiv (x y : Nat) : Nat := (x + y - 1) / y

/-- 1 for true. -/
def b2n (b : Bool) : Nat := if b then 1 else 0

/-- The first position at which `p` holds, with its element. -/
def findIdx {α : Type} (p : α → Bool) (l : List α) : Option Nat :=
  let i := l.findIdx p
  if i < l.length then some i else none

end Sys2Proof.Machine
end

