-- ==== Sys2Proof/Machine/RegTable.lean ====
section
/-! DEFINITION. The register tables of BAR0: for each register its address (block base of R287 plus offset), stride,
count, width and fields with access code (R9) and reset value, as the tables of R88, R125, R144, R168, R186, R220,
R246, R288, R325, R355, R369, R395, R416, R444, R474, R499 and R516 give them. -/

namespace Sys2Proof.Machine

/-- Access codes (R9). -/
inductive Acc where
  | ro | rw | w1c | wo | rwl | pw
deriving DecidableEq, Repr

/-- A field of a register: bits [hi:lo], access code, reset value. -/
structure FieldRow where
  hi  : Nat
  lo  : Nat
  acc : Acc
  rst : Nat
deriving DecidableEq, Repr

/-- A register, or a row of like registers at a stride. -/
structure RegRow where
  a      : Nat
  stride : Nat
  n      : Nat
  wide   : Bool
  fields : List FieldRow
deriving DecidableEq, Repr

/-- A named field: address of the first register, stride, bits. -/
structure Fld where
  a      : Nat
  stride : Nat
  hi     : Nat
  lo     : Nat
deriving DecidableEq, Repr

/-- The serving block (R125, 04_decode_step.md). -/
def regsServing : List RegRow := [
  ⟨0x10000, 0x0, 1, false, [⟨0, 0, .rwl, 0x1⟩, ⟨1, 1, .rwl, 0x1⟩]⟩,
  ⟨0x10004, 0x0, 1, false, [⟨18, 0, .ro, 0x0⟩]⟩,
  ⟨0x10008, 0x0, 1, true, [⟨63, 0, .ro, 0x0⟩]⟩,
  ⟨0x10010, 0x0, 1, true, [⟨63, 0, .ro, 0x0⟩]⟩,
  ⟨0x10018, 0x0, 1, false, [⟨0, 0, .w1c, 0x0⟩, ⟨1, 1, .w1c, 0x0⟩, ⟨2, 2, .w1c, 0x0⟩]⟩,
  ⟨0x1001C, 0x0, 1, false, [⟨2, 0, .rw, 0x3⟩, ⟨31, 16, .rw, 0x2000⟩]⟩,
  ⟨0x10020, 0x0, 1, true, [⟨63, 0, .ro, 0x0⟩]⟩,
  ⟨0x10028, 0x0, 1, true, [⟨63, 0, .ro, 0x0⟩]⟩,
  ⟨0x10030, 0x0, 1, true, [⟨63, 0, .ro, 0x0⟩]⟩,
  ⟨0x10038, 0x0, 1, true, [⟨63, 0, .ro, 0x0⟩]⟩]

/-- The kv block (R88, 03_kv_state.md). -/
def regsKv : List RegRow := [
  ⟨0x14000, 0x0, 1, false, [⟨0, 0, .rwl, 0x1⟩, ⟨1, 1, .w1c, 0x0⟩]⟩,
  ⟨0x14004, 0x0, 1, false, [⟨31, 0, .rwl, 0x100000⟩]⟩,
  ⟨0x14008, 0x0, 1, false, [⟨31, 0, .ro, 0x0⟩]⟩,
  ⟨0x14010, 0x4, 15, false, [⟨31, 0, .rw, 0x0⟩]⟩,
  ⟨0x14050, 0x0, 1, true, [⟨63, 0, .ro, 0x0⟩]⟩,
  ⟨0x14058, 0x0, 1, true, [⟨31, 0, .ro, 0x0⟩, ⟨63, 32, .ro, 0x0⟩]⟩,
  ⟨0x14060, 0x0, 1, true, [⟨63, 0, .ro, 0x0⟩]⟩,
  ⟨0x14068, 0x0, 1, true, [⟨63, 0, .ro, 0x0⟩]⟩]

/-- The tailrace block (R144, 05_tailrace_streams.md). -/
def regsTailrace : List RegRow := [
  ⟨0x18000, 0x0, 1, false, [⟨0, 0, .rwl, 0x1⟩]⟩,
  ⟨0x18008, 0x0, 1, true, [⟨63, 0, .ro, 0x0⟩]⟩,
  ⟨0x18010, 0x0, 1, true, [⟨63, 0, .ro, 0x0⟩]⟩,
  ⟨0x18018, 0x0, 1, true, [⟨63, 0, .ro, 0x0⟩]⟩,
  ⟨0x18020, 0x0, 1, true, [⟨63, 0, .ro, 0x0⟩]⟩,
  ⟨0x18100, 0x20, 16, true, [⟨63, 6, .rw, 0x0⟩]⟩,
  ⟨0x18108, 0x20, 16, false, [⟨4, 0, .rw, 0xA⟩, ⟨8, 8, .rw, 0x0⟩]⟩,
  ⟨0x1810C, 0x20, 16, false, [⟨0, 0, .ro, 0x0⟩, ⟨1, 1, .w1c, 0x0⟩]⟩,
  ⟨0x18110, 0x20, 16, true, [⟨63, 3, .rw, 0x0⟩]⟩,
  ⟨0x18118, 0x20, 16, false, [⟨31, 0, .ro, 0x0⟩]⟩,
  ⟨0x1811C, 0x20, 16, false, [⟨31, 0, .rw, 0x100000⟩]⟩]

/-- The tier block (R168, 06_tiers.md). -/
def regsTier : List RegRow := [
  ⟨0x1C000, 0x0, 1, false, [⟨0, 0, .rwl, 0x1⟩, ⟨1, 1, .rwl, 0x1⟩, ⟨2, 2, .rwl, 0x1⟩, ⟨3, 3, .rwl, 0x1⟩]⟩,
  ⟨0x1C004, 0x0, 1, false, [⟨9, 0, .rw, 0x14⟩, ⟨25, 16, .rw, 0x28⟩]⟩,
  ⟨0x1C008, 0x0, 1, false, [⟨31, 0, .rw, 0x80⟩]⟩,
  ⟨0x1C00C, 0x0, 1, false, [⟨31, 0, .rw, 0x200⟩]⟩,
  ⟨0x1C010, 0x0, 1, false, [⟨7, 0, .rw, 0x4⟩]⟩,
  ⟨0x1C014, 0x0, 1, false, [⟨0, 0, .ro, 0x0⟩, ⟨1, 1, .ro, 0x0⟩, ⟨2, 2, .ro, 0x0⟩, ⟨3, 3, .ro, 0x0⟩, ⟨4, 4, .w1c, 0x0⟩]⟩,
  ⟨0x1C018, 0x0, 1, true, [⟨63, 0, .ro, 0x0⟩]⟩,
  ⟨0x1C020, 0x0, 1, true, [⟨63, 0, .ro, 0x0⟩]⟩,
  ⟨0x1C028, 0x0, 1, true, [⟨63, 0, .ro, 0x0⟩]⟩,
  ⟨0x1C030, 0x0, 1, true, [⟨63, 0, .ro, 0x0⟩]⟩,
  ⟨0x1C038, 0x0, 1, true, [⟨63, 0, .ro, 0x0⟩]⟩,
  ⟨0x1C040, 0x0, 1, true, [⟨63, 0, .ro, 0x0⟩]⟩,
  ⟨0x1C048, 0x0, 1, true, [⟨63, 0, .ro, 0x0⟩]⟩,
  ⟨0x1C050, 0x0, 1, true, [⟨63, 0, .ro, 0x0⟩]⟩,
  ⟨0x1C100, 0x8, 64, true, [⟨23, 0, .rw, 0x0⟩, ⟨59, 32, .rw, 0x0⟩, ⟨63, 63, .rw, 0x0⟩]⟩]

/-- The pool block (R186, 07_pools_migration.md). -/
def regsPool : List RegRow := [
  ⟨0x20000, 0x0, 1, false, [⟨0, 0, .rwl, 0x1⟩, ⟨1, 1, .rwl, 0x1⟩]⟩,
  ⟨0x20004, 0x0, 1, false, [⟨1, 0, .ro, 0x0⟩, ⟨13, 8, .ro, 0x0⟩, ⟨22, 16, .ro, 0x0⟩, ⟨29, 24, .ro, 0x0⟩]⟩,
  ⟨0x20008, 0x0, 1, false, [⟨2, 0, .ro, 0x0⟩, ⟨15, 8, .ro, 0x0⟩]⟩,
  ⟨0x2000C, 0x0, 1, false, [⟨0, 0, .ro, 0x0⟩, ⟨1, 1, .ro, 0x0⟩, ⟨2, 2, .w1c, 0x0⟩]⟩,
  ⟨0x20010, 0x0, 1, false, [⟨31, 0, .rw, 0xC350⟩]⟩,
  ⟨0x20014, 0x0, 1, false, [⟨31, 0, .rw, 0x2710⟩]⟩,
  ⟨0x20018, 0x0, 1, false, [⟨31, 0, .rw, 0x3E8⟩]⟩,
  ⟨0x2001C, 0x0, 1, false, [⟨5, 0, .rw, 0x0⟩, ⟨7, 7, .rw, 0x0⟩]⟩,
  ⟨0x20020, 0x0, 1, true, [⟨63, 0, .ro, 0x0⟩]⟩,
  ⟨0x20028, 0x0, 1, true, [⟨63, 0, .ro, 0x0⟩]⟩,
  ⟨0x20030, 0x0, 1, true, [⟨63, 0, .ro, 0x0⟩]⟩,
  ⟨0x20038, 0x0, 1, true, [⟨63, 0, .ro, 0x0⟩]⟩,
  ⟨0x20040, 0x0, 1, true, [⟨63, 0, .ro, 0x0⟩]⟩]

/-- The stone block (R220, 08_stones_arithmetic.md). -/
def regsStone : List RegRow := [
  ⟨0x24000, 0x0, 1, false, [⟨15, 0, .ro, 0x1⟩]⟩,
  ⟨0x24004, 0x0, 1, false, [⟨0, 0, .rwl, 0x1⟩]⟩,
  ⟨0x24008, 0x0, 1, false, [⟨3, 0, .ro, 0x0⟩, ⟨4, 4, .w1c, 0x0⟩]⟩,
  ⟨0x24010, 0x4, 4, false, [⟨6, 0, .ro, 0x0⟩, ⟨14, 8, .ro, 0x0⟩]⟩,
  ⟨0x24020, 0x0, 1, false, [⟨10, 0, .pw, 0x0⟩, ⟨15, 11, .pw, 0x0⟩, ⟨31, 16, .pw, 0xFFFF⟩]⟩,
  ⟨0x24028, 0x0, 1, true, [⟨63, 0, .ro, 0x0⟩]⟩,
  ⟨0x24030, 0x0, 1, true, [⟨63, 0, .ro, 0x0⟩]⟩,
  ⟨0x24038, 0x0, 1, true, [⟨63, 0, .ro, 0x0⟩]⟩,
  ⟨0x24040, 0x0, 1, true, [⟨63, 0, .ro, 0x0⟩]⟩,
  ⟨0x24048, 0x0, 1, true, [⟨63, 0, .ro, 0x0⟩]⟩,
  ⟨0x24060, 0x8, 4, true, [⟨63, 0, .ro, 0x0⟩]⟩,
  ⟨0x24080, 0x4, 16, false, [⟨0, 0, .rw, 0x0⟩, ⟨1, 1, .w1c, 0x0⟩, ⟨2, 2, .ro, 0x0⟩, ⟨15, 8, .ro, 0x0⟩]⟩,
  ⟨0x25000, 0x4, 2048, false, [⟨9, 0, .ro, 0x0⟩, ⟨31, 16, .ro, 0x0⟩]⟩]

/-- The molair block (R246, 09_mill_plans_molair.md). -/
def regsMolair : List RegRow := [
  ⟨0x28000, 0x0, 1, false, [⟨0, 0, .rwl, 0x1⟩, ⟨1, 1, .rwl, 0x1⟩, ⟨2, 2, .rwl, 0x1⟩]⟩,
  ⟨0x28004, 0x0, 1, false, [⟨0, 0, .w1c, 0x0⟩, ⟨1, 1, .w1c, 0x0⟩, ⟨2, 2, .w1c, 0x0⟩]⟩,
  ⟨0x28008, 0x0, 1, false, [⟨31, 0, .rw, 0x1000⟩]⟩,
  ⟨0x2800C, 0x0, 1, false, [⟨15, 0, .ro, 0x0⟩, ⟨31, 16, .ro, 0x0⟩]⟩,
  ⟨0x28010, 0x0, 1, true, [⟨63, 0, .ro, 0x0⟩]⟩,
  ⟨0x28018, 0x0, 1, true, [⟨47, 0, .ro, 0x0⟩]⟩,
  ⟨0x28020, 0x0, 1, true, [⟨31, 0, .ro, 0xFFFFFFFF⟩]⟩,
  ⟨0x28028, 0x0, 1, true, [⟨63, 0, .ro, 0x0⟩]⟩,
  ⟨0x28040, 0x4, 8, false, [⟨31, 0, .ro, 0x0⟩]⟩,
  ⟨0x28100, 0x40, 16, false, [⟨2, 0, .ro, 0x0⟩, ⟨13, 8, .ro, 0x0⟩, ⟨19, 16, .ro, 0x0⟩]⟩,
  ⟨0x28104, 0x40, 16, false, [⟨3, 0, .ro, 0x0⟩, ⟨7, 4, .ro, 0xF⟩, ⟨31, 16, .ro, 0x0⟩]⟩,
  ⟨0x28108, 0x40, 16, false, [⟨3, 0, .pw, 0xF⟩, ⟨15, 4, .pw, 0x0⟩, ⟨31, 16, .pw, 0xFFF0⟩]⟩,
  ⟨0x28110, 0x40, 16, true, [⟨63, 0, .ro, 0x0⟩]⟩,
  ⟨0x28118, 0x40, 16, true, [⟨63, 0, .ro, 0x0⟩]⟩,
  ⟨0x28120, 0x40, 16, true, [⟨63, 0, .ro, 0x0⟩]⟩,
  ⟨0x28128, 0x40, 16, true, [⟨63, 0, .ro, 0x0⟩]⟩,
  ⟨0x28130, 0x40, 16, true, [⟨63, 0, .ro, 0x0⟩]⟩,
  ⟨0x28138, 0x40, 16, true, [⟨63, 0, .ro, 0x0⟩]⟩]

/-- The granary block (R325, 12_granary_ftl.md). -/
def regsGranary0 : List RegRow := [
  ⟨0x2C000, 0x0, 1, false, [⟨0, 0, .rwl, 0x1⟩, ⟨1, 1, .rwl, 0x1⟩, ⟨2, 2, .rwl, 0x1⟩]⟩,
  ⟨0x2C004, 0x0, 1, false, [⟨0, 0, .ro, 0x0⟩, ⟨1, 1, .ro, 0x0⟩, ⟨2, 2, .ro, 0x0⟩, ⟨3, 3, .ro, 0x0⟩, ⟨4, 4, .ro, 0x0⟩, ⟨5, 5, .w1c, 0x0⟩, ⟨6, 6, .ro, 0x0⟩, ⟨7, 7, .ro, 0x0⟩, ⟨8, 8, .ro, 0x0⟩, ⟨9, 9, .w1c, 0x0⟩, ⟨10, 10, .w1c, 0x0⟩]⟩,
  ⟨0x2C008, 0x0, 1, false, [⟨8, 0, .ro, 0x0⟩, ⟨13, 9, .ro, 0x0⟩]⟩,
  ⟨0x2C00C, 0x0, 1, false, [⟨9, 0, .rw, 0x3C⟩, ⟨25, 16, .rw, 0x19⟩]⟩,
  ⟨0x2C010, 0x0, 1, false, [⟨9, 0, .rw, 0x8⟩]⟩,
  ⟨0x2C014, 0x0, 1, false, [⟨31, 0, .rw, 0x1388⟩]⟩,
  ⟨0x2C018, 0x0, 1, false, [⟨31, 0, .rw, 0x186A0⟩]⟩,
  ⟨0x2C01C, 0x0, 1, false, [⟨15, 0, .rw, 0x100⟩]⟩,
  ⟨0x2C020, 0x0, 1, false, [⟨6, 0, .rw, 0x3C⟩]⟩,
  ⟨0x2C024, 0x0, 1, false, [⟨9, 0, .ro, 0x3E8⟩]⟩,
  ⟨0x2C028, 0x0, 1, true, [⟨63, 16, .rwl, 0x0⟩]⟩,
  ⟨0x2C030, 0x0, 1, false, [⟨31, 0, .rwl, 0x0⟩]⟩,
  ⟨0x2C034, 0x0, 1, false, [⟨31, 0, .ro, 0x0⟩]⟩,
  ⟨0x2C038, 0x0, 1, true, [⟨31, 0, .ro, 0x0⟩, ⟨41, 32, .ro, 0x0⟩, ⟨55, 48, .ro, 0x0⟩]⟩,
  ⟨0x2C040, 0x0, 1, true, [⟨31, 0, .ro, 0x0⟩, ⟨40, 32, .ro, 0x0⟩]⟩,
  ⟨0x2C048, 0x0, 1, true, [⟨15, 0, .ro, 0x0⟩, ⟨31, 16, .ro, 0x0⟩, ⟨47, 32, .ro, 0x0⟩, ⟨63, 48, .ro, 0xBB8⟩]⟩,
  ⟨0x2C050, 0x0, 1, false, [⟨0, 0, .wo, 0x0⟩]⟩,
  ⟨0x2C054, 0x0, 1, false, [⟨31, 0, .ro, 0x0⟩]⟩,
  ⟨0x2C060, 0x0, 1, true, [⟨63, 0, .ro, 0x0⟩]⟩,
  ⟨0x2C068, 0x0, 1, true, [⟨63, 0, .ro, 0x0⟩]⟩,
  ⟨0x2C070, 0x0, 1, true, [⟨63, 0, .ro, 0x0⟩]⟩,
  ⟨0x2C078, 0x0, 1, true, [⟨63, 0, .ro, 0x0⟩]⟩,
  ⟨0x2C080, 0x0, 1, true, [⟨63, 0, .ro, 0x0⟩]⟩,
  ⟨0x2C088, 0x0, 1, true, [⟨63, 0, .ro, 0x0⟩]⟩]

/-- The granary block (R325, 12_granary_ftl.md). -/
def regsGranary1 : List RegRow := [
  ⟨0x2C090, 0x0, 1, true, [⟨63, 0, .ro, 0x0⟩]⟩,
  ⟨0x2C098, 0x0, 1, true, [⟨63, 0, .ro, 0x0⟩]⟩,
  ⟨0x2C0A0, 0x0, 1, true, [⟨63, 0, .ro, 0x0⟩]⟩,
  ⟨0x2C0A8, 0x0, 1, true, [⟨63, 0, .ro, 0x0⟩]⟩]

/-- The aixq block (R355, 13_search.md). -/
def regsAixq0 : List RegRow := [
  ⟨0x30000, 0x0, 1, false, [⟨0, 0, .rwl, 0x1⟩, ⟨1, 1, .rwl, 0x1⟩]⟩,
  ⟨0x30004, 0x0, 1, false, [⟨0, 0, .ro, 0x0⟩, ⟨1, 1, .ro, 0x0⟩, ⟨2, 2, .ro, 0x0⟩, ⟨3, 3, .w1c, 0x0⟩]⟩,
  ⟨0x30008, 0x0, 1, false, [⟨15, 0, .rw, 0x3E8⟩]⟩,
  ⟨0x3000C, 0x0, 1, false, [⟨4, 0, .pw, 0x1F⟩, ⟨15, 5, .pw, 0x0⟩, ⟨31, 16, .pw, 0xFFE0⟩]⟩,
  ⟨0x30010, 0x0, 1, false, [⟨18, 0, .ro, 0x0⟩]⟩,
  ⟨0x30014, 0x0, 1, false, [⟨15, 0, .ro, 0x0⟩]⟩,
  ⟨0x30018, 0x0, 1, true, [⟨63, 0, .ro, 0x0⟩]⟩,
  ⟨0x30020, 0x0, 1, true, [⟨63, 0, .ro, 0x0⟩]⟩,
  ⟨0x30028, 0x0, 1, true, [⟨63, 0, .ro, 0x0⟩]⟩,
  ⟨0x30030, 0x0, 1, true, [⟨63, 0, .ro, 0x0⟩]⟩,
  ⟨0x30100, 0x0, 1, false, [⟨0, 0, .rwl, 0x1⟩, ⟨1, 1, .rwl, 0x1⟩]⟩,
  ⟨0x30104, 0x0, 1, false, [⟨0, 0, .ro, 0x0⟩, ⟨1, 1, .ro, 0x0⟩]⟩,
  ⟨0x30108, 0x0, 1, false, [⟨8, 0, .rwl, 0x40⟩]⟩,
  ⟨0x3010C, 0x0, 1, false, [⟨31, 0, .ro, 0x0⟩]⟩,
  ⟨0x30110, 0x0, 1, false, [⟨23, 0, .rwl, 0x100000⟩]⟩,
  ⟨0x30114, 0x0, 1, false, [⟨6, 0, .rw, 0x32⟩]⟩,
  ⟨0x30118, 0x0, 1, false, [⟨3, 0, .rw, 0x4⟩]⟩,
  ⟨0x3011C, 0x0, 1, false, [⟨31, 0, .rw, 0x10000⟩]⟩,
  ⟨0x30120, 0x0, 1, true, [⟨63, 0, .ro, 0x0⟩]⟩,
  ⟨0x30128, 0x0, 1, true, [⟨63, 0, .ro, 0x0⟩]⟩,
  ⟨0x30130, 0x0, 1, true, [⟨63, 0, .ro, 0x0⟩]⟩,
  ⟨0x30138, 0x0, 1, true, [⟨63, 0, .ro, 0x0⟩]⟩,
  ⟨0x30140, 0x0, 1, true, [⟨63, 0, .ro, 0x0⟩]⟩,
  ⟨0x30200, 0x20, 64, false, [⟨0, 0, .ro, 0x0⟩, ⟨2, 1, .ro, 0x0⟩, ⟨4, 3, .ro, 0x0⟩, ⟨20, 8, .ro, 0x0⟩]⟩]

/-- The aixq block (R355, 13_search.md). -/
def regsAixq1 : List RegRow := [
  ⟨0x30204, 0x20, 64, false, [⟨8, 0, .ro, 0x0⟩, ⟨22, 16, .ro, 0x0⟩]⟩,
  ⟨0x30208, 0x20, 64, false, [⟨31, 0, .ro, 0x0⟩]⟩,
  ⟨0x3020C, 0x20, 64, false, [⟨23, 0, .ro, 0x0⟩, ⟨27, 24, .ro, 0x0⟩]⟩,
  ⟨0x30210, 0x20, 64, false, [⟨31, 0, .ro, 0x0⟩]⟩,
  ⟨0x30214, 0x20, 64, false, [⟨23, 0, .ro, 0x0⟩]⟩,
  ⟨0x30218, 0x20, 64, false, [⟨31, 0, .ro, 0x0⟩]⟩,
  ⟨0x3021C, 0x20, 64, false, [⟨31, 0, .ro, 0x0⟩]⟩]

/-- The sluice block (R369, 14_sluice.md). -/
def regsSluice0 : List RegRow := [
  ⟨0x34000, 0x0, 1, false, [⟨0, 0, .rwl, 0x1⟩, ⟨1, 1, .rwl, 0x1⟩, ⟨2, 2, .rwl, 0x1⟩]⟩,
  ⟨0x34004, 0x0, 1, false, [⟨0, 0, .w1c, 0x0⟩]⟩,
  ⟨0x34008, 0x0, 1, false, [⟨9, 0, .rw, 0x1⟩]⟩,
  ⟨0x3400C, 0x0, 1, false, [⟨19, 0, .rw, 0x3E8⟩]⟩,
  ⟨0x34010, 0x0, 1, false, [⟨7, 0, .rw, 0x20⟩]⟩,
  ⟨0x34014, 0x0, 1, false, [⟨19, 0, .rw, 0x30D40⟩]⟩,
  ⟨0x34018, 0x0, 1, false, [⟨31, 0, .rw, 0x10000⟩]⟩,
  ⟨0x34020, 0x0, 1, true, [⟨51, 0, .rw, 0x3254000001000⟩]⟩,
  ⟨0x34030, 0x0, 1, false, [⟨15, 0, .rw, 0x5DC0⟩, ⟨31, 16, .rw, 0xDAC0⟩]⟩,
  ⟨0x34034, 0x0, 1, false, [⟨7, 0, .rw, 0x30⟩]⟩,
  ⟨0x34038, 0x0, 1, false, [⟨31, 0, .rw, 0x400000⟩]⟩,
  ⟨0x34080, 0x0, 1, true, [⟨63, 0, .ro, 0x0⟩]⟩,
  ⟨0x34088, 0x0, 1, true, [⟨63, 0, .ro, 0x0⟩]⟩,
  ⟨0x34090, 0x0, 1, true, [⟨63, 0, .ro, 0x0⟩]⟩,
  ⟨0x34100, 0x10, 16, false, [⟨23, 0, .rw, 0x2200⟩]⟩,
  ⟨0x34104, 0x10, 16, false, [⟨19, 0, .rw, 0x0⟩]⟩,
  ⟨0x34108, 0x10, 16, false, [⟨31, 0, .rw, 0x10000⟩]⟩,
  ⟨0x34200, 0x10, 12, false, [⟨7, 0, .rw, 0x0⟩, ⟨31, 16, .rw, 0x0⟩]⟩,
  ⟨0x34300, 0x10, 16, false, [⟨15, 0, .rw, 0x1000⟩]⟩,
  ⟨0x34304, 0x10, 16, false, [⟨19, 0, .rw, 0x0⟩]⟩,
  ⟨0x34308, 0x10, 16, false, [⟨31, 0, .rw, 0x10000⟩]⟩,
  ⟨0x34400, 0x8, 16, false, [⟨9, 0, .rw, 0xFA⟩, ⟨31, 16, .rw, 0x64⟩]⟩,
  ⟨0x34500, 0x10, 64, false, [⟨23, 0, .rw, 0x0⟩, ⟨31, 31, .rw, 0x0⟩]⟩,
  ⟨0x34504, 0x10, 64, false, [⟨31, 0, .rw, 0x0⟩]⟩]

/-- The sluice block (R369, 14_sluice.md). -/
def regsSluice1 : List RegRow := [
  ⟨0x34508, 0x10, 64, false, [⟨15, 0, .rw, 0x40⟩]⟩,
  ⟨0x35000, 0x10, 288, true, [⟨63, 0, .ro, 0x0⟩]⟩,
  ⟨0x35008, 0x10, 288, true, [⟨31, 0, .ro, 0x0⟩, ⟨63, 32, .ro, 0x0⟩]⟩]

/-- The integrity block (R395, 15_integrity.md). -/
def regsIntegrity : List RegRow := [
  ⟨0x38000, 0x0, 1, false, [⟨0, 0, .rwl, 0x0⟩, ⟨1, 1, .rwl, 0x1⟩, ⟨2, 2, .rwl, 0x1⟩]⟩,
  ⟨0x38004, 0x0, 1, false, [⟨0, 0, .w1c, 0x0⟩, ⟨1, 1, .w1c, 0x0⟩, ⟨2, 2, .w1c, 0x0⟩, ⟨3, 3, .w1c, 0x0⟩, ⟨4, 4, .w1c, 0x0⟩, ⟨5, 5, .w1c, 0x0⟩, ⟨6, 6, .w1c, 0x0⟩, ⟨7, 7, .ro, 0x0⟩, ⟨8, 8, .w1c, 0x0⟩, ⟨9, 9, .ro, 0x0⟩]⟩,
  ⟨0x38008, 0x0, 1, false, [⟨3, 0, .rw, 0x3⟩]⟩,
  ⟨0x3800C, 0x0, 1, false, [⟨31, 0, .rw, 0xEA60⟩]⟩,
  ⟨0x38010, 0x0, 1, false, [⟨15, 0, .rw, 0x10⟩]⟩,
  ⟨0x38014, 0x0, 1, false, [⟨15, 0, .rw, 0x4⟩]⟩,
  ⟨0x38018, 0x0, 1, true, [⟨7, 0, .ro, 0x0⟩, ⟨13, 8, .ro, 0x0⟩, ⟨63, 16, .ro, 0x0⟩]⟩,
  ⟨0x38020, 0x0, 1, true, [⟨63, 0, .ro, 0x0⟩]⟩,
  ⟨0x38040, 0x0, 1, true, [⟨63, 0, .ro, 0x0⟩]⟩,
  ⟨0x38048, 0x0, 1, true, [⟨63, 0, .ro, 0x0⟩]⟩,
  ⟨0x38050, 0x0, 1, true, [⟨63, 0, .ro, 0x0⟩]⟩,
  ⟨0x38058, 0x0, 1, true, [⟨63, 0, .ro, 0x0⟩]⟩,
  ⟨0x38060, 0x0, 1, true, [⟨63, 0, .ro, 0x0⟩]⟩,
  ⟨0x38068, 0x0, 1, true, [⟨63, 0, .ro, 0x0⟩]⟩,
  ⟨0x38070, 0x0, 1, true, [⟨63, 0, .ro, 0x0⟩]⟩,
  ⟨0x38078, 0x0, 1, true, [⟨63, 0, .ro, 0x0⟩]⟩,
  ⟨0x38080, 0x0, 1, true, [⟨63, 0, .ro, 0x0⟩]⟩,
  ⟨0x38088, 0x0, 1, true, [⟨63, 0, .ro, 0x0⟩]⟩,
  ⟨0x38090, 0x0, 1, true, [⟨63, 0, .ro, 0x0⟩]⟩,
  ⟨0x38098, 0x0, 1, true, [⟨63, 0, .ro, 0x0⟩]⟩,
  ⟨0x380A0, 0x0, 1, true, [⟨63, 0, .ro, 0x0⟩]⟩,
  ⟨0x380A8, 0x0, 1, true, [⟨63, 0, .ro, 0x0⟩]⟩,
  ⟨0x380B0, 0x0, 1, true, [⟨63, 0, .ro, 0x0⟩]⟩,
  ⟨0x38100, 0x4, 8, false, [⟨5, 0, .ro, 0x3F⟩, ⟨11, 6, .ro, 0x3F⟩, ⟨31, 16, .ro, 0x0⟩]⟩]

/-- The ckpt block (R416, 16_checkpoint.md). -/
def regsCkpt : List RegRow := [
  ⟨0x3C000, 0x0, 1, false, [⟨0, 0, .rwl, 0x1⟩, ⟨1, 1, .rwl, 0x1⟩, ⟨2, 2, .rwl, 0x1⟩, ⟨3, 3, .rwl, 0x1⟩]⟩,
  ⟨0x3C004, 0x0, 1, false, [⟨0, 0, .ro, 0x0⟩, ⟨1, 1, .ro, 0x0⟩, ⟨2, 2, .ro, 0x0⟩, ⟨3, 3, .w1c, 0x0⟩]⟩,
  ⟨0x3C008, 0x0, 1, false, [⟨15, 0, .rw, 0x100⟩]⟩,
  ⟨0x3C00C, 0x0, 1, false, [⟨9, 0, .rw, 0xFA⟩]⟩,
  ⟨0x3C010, 0x0, 1, false, [⟨15, 0, .rw, 0x14⟩]⟩,
  ⟨0x3C014, 0x0, 1, false, [⟨7, 0, .rw, 0x10⟩]⟩,
  ⟨0x3C018, 0x0, 1, false, [⟨5, 0, .ro, 0x0⟩, ⟨6, 6, .ro, 0x0⟩]⟩,
  ⟨0x3C01C, 0x0, 1, false, [⟨31, 0, .ro, 0x0⟩]⟩,
  ⟨0x3C020, 0x0, 1, true, [⟨31, 0, .ro, 0x0⟩, ⟨63, 32, .ro, 0x0⟩]⟩,
  ⟨0x3C028, 0x0, 1, true, [⟨63, 0, .ro, 0x0⟩]⟩,
  ⟨0x3C030, 0x0, 1, true, [⟨63, 0, .ro, 0x0⟩]⟩,
  ⟨0x3C038, 0x0, 1, true, [⟨31, 0, .ro, 0x0⟩, ⟨39, 32, .ro, 0x0⟩]⟩,
  ⟨0x3C040, 0x0, 1, false, [⟨31, 0, .ro, 0x0⟩]⟩,
  ⟨0x3C048, 0x0, 1, true, [⟨63, 0, .ro, 0x0⟩]⟩,
  ⟨0x3C050, 0x0, 1, true, [⟨63, 0, .ro, 0x0⟩]⟩,
  ⟨0x3C058, 0x0, 1, true, [⟨63, 0, .ro, 0x0⟩]⟩,
  ⟨0x3C060, 0x0, 1, true, [⟨63, 0, .ro, 0x0⟩]⟩,
  ⟨0x3C068, 0x0, 1, true, [⟨63, 0, .ro, 0x0⟩]⟩,
  ⟨0x3C070, 0x0, 1, true, [⟨63, 0, .ro, 0x0⟩]⟩,
  ⟨0x3C078, 0x0, 1, true, [⟨63, 0, .ro, 0x0⟩]⟩]

/-- The security block (R445, 17_security.md). -/
def regsSecurity : List RegRow := [
  ⟨0x40000, 0x0, 1, false, [⟨0, 0, .rwl, 0x1⟩, ⟨1, 1, .rwl, 0x0⟩, ⟨2, 2, .rwl, 0x1⟩]⟩,
  ⟨0x40004, 0x0, 1, false, [⟨0, 0, .w1c, 0x0⟩, ⟨1, 1, .ro, 0x0⟩, ⟨2, 2, .ro, 0x0⟩, ⟨3, 3, .w1c, 0x0⟩, ⟨4, 4, .w1c, 0x0⟩]⟩,
  ⟨0x40008, 0x0, 1, false, [⟨0, 0, .ro, 0x0⟩, ⟨1, 1, .ro, 0x0⟩, ⟨2, 2, .ro, 0x0⟩, ⟨3, 3, .ro, 0x0⟩]⟩,
  ⟨0x4000C, 0x0, 1, false, [⟨7, 0, .ro, 0x0⟩, ⟨15, 8, .ro, 0x0⟩, ⟨23, 16, .ro, 0x0⟩, ⟨31, 24, .ro, 0x0⟩]⟩,
  ⟨0x40010, 0x0, 1, false, [⟨10, 0, .ro, 0x0⟩]⟩,
  ⟨0x40014, 0x0, 1, false, [⟨12, 0, .ro, 0x0⟩]⟩,
  ⟨0x40018, 0x0, 1, false, [⟨15, 0, .ro, 0x0⟩]⟩,
  ⟨0x40020, 0x8, 4, true, [⟨63, 0, .ro, 0x0⟩]⟩,
  ⟨0x40040, 0x0, 1, true, [⟨63, 0, .ro, 0x0⟩]⟩,
  ⟨0x40048, 0x0, 1, true, [⟨63, 0, .ro, 0x0⟩]⟩,
  ⟨0x40050, 0x0, 1, true, [⟨63, 0, .ro, 0x0⟩]⟩,
  ⟨0x40058, 0x0, 1, true, [⟨63, 0, .ro, 0x0⟩]⟩,
  ⟨0x40060, 0x0, 1, true, [⟨63, 0, .ro, 0x0⟩]⟩,
  ⟨0x40068, 0x0, 1, true, [⟨63, 0, .ro, 0x0⟩]⟩,
  ⟨0x40100, 0x4, 16, false, [⟨31, 0, .rwl, 0x0⟩]⟩]

/-- The power block (R474, 18_module_power.md). -/
def regsPower : List RegRow := [
  ⟨0x44000, 0x0, 1, false, [⟨0, 0, .rwl, 0x1⟩, ⟨1, 1, .rwl, 0x1⟩, ⟨2, 2, .rwl, 0x1⟩, ⟨3, 3, .rwl, 0x0⟩, ⟨31, 31, .rw, 0x0⟩]⟩,
  ⟨0x44004, 0x0, 1, false, [⟨0, 0, .w1c, 0x0⟩, ⟨1, 1, .w1c, 0x0⟩, ⟨2, 2, .w1c, 0x0⟩, ⟨3, 3, .ro, 0x0⟩, ⟨4, 4, .ro, 0x0⟩, ⟨5, 5, .ro, 0x0⟩, ⟨6, 6, .w1c, 0x0⟩, ⟨7, 7, .w1c, 0x0⟩, ⟨8, 8, .w1c, 0x0⟩]⟩,
  ⟨0x44008, 0x0, 1, false, [⟨15, 0, .pw, 0x5DC⟩, ⟨31, 16, .pw, 0xFA23⟩]⟩,
  ⟨0x4400C, 0x0, 1, false, [⟨15, 0, .rw, 0x384⟩]⟩,
  ⟨0x44010, 0x0, 1, false, [⟨1, 0, .rw, 0x0⟩, ⟨25, 16, .rw, 0x2EE⟩]⟩,
  ⟨0x44014, 0x0, 1, false, [⟨15, 0, .rw, 0x64⟩, ⟨31, 16, .rw, 0xC8⟩]⟩,
  ⟨0x44018, 0x0, 1, false, [⟨15, 0, .rw, 0x14⟩]⟩,
  ⟨0x4401C, 0x0, 1, false, [⟨15, 0, .rw, 0x32⟩, ⟨31, 16, .rw, 0xBB8⟩]⟩,
  ⟨0x44020, 0x0, 1, false, [⟨7, 0, .rw, 0x5F⟩]⟩,
  ⟨0x44024, 0x0, 1, false, [⟨9, 0, .ro, 0x0⟩, ⟨25, 16, .ro, 0x0⟩]⟩,
  ⟨0x44028, 0x0, 1, true, [⟨55, 0, .ro, 0x0⟩]⟩,
  ⟨0x44030, 0x0, 1, false, [⟨6, 0, .ro, 0x0⟩, ⟨7, 7, .ro, 0x0⟩]⟩,
  ⟨0x44040, 0x8, 4, true, [⟨15, 0, .ro, 0x0⟩, ⟨31, 16, .ro, 0x0⟩, ⟨47, 32, .ro, 0x0⟩]⟩,
  ⟨0x44060, 0x0, 1, false, [⟨15, 0, .ro, 0x0⟩, ⟨31, 16, .ro, 0x0⟩]⟩,
  ⟨0x44070, 0x4, 5, false, [⟨7, 0, .ro, 0x0⟩, ⟨10, 8, .ro, 0x0⟩]⟩,
  ⟨0x44090, 0x4, 8, false, [⟨7, 0, .ro, 0x0⟩]⟩,
  ⟨0x440B0, 0x0, 1, false, [⟨7, 0, .ro, 0x0⟩, ⟨15, 8, .ro, 0x0⟩]⟩,
  ⟨0x440C0, 0x0, 1, true, [⟨63, 0, .ro, 0x0⟩]⟩,
  ⟨0x440C8, 0x0, 1, true, [⟨63, 0, .ro, 0x0⟩]⟩,
  ⟨0x440D0, 0x0, 1, true, [⟨63, 0, .ro, 0x0⟩]⟩,
  ⟨0x440D8, 0x0, 1, true, [⟨63, 0, .ro, 0x0⟩]⟩,
  ⟨0x440E0, 0x0, 1, true, [⟨63, 0, .ro, 0x0⟩]⟩]

/-- The form block (R499, 19_bringup.md). -/
def regsForm : List RegRow := [
  ⟨0x48000, 0x0, 1, false, [⟨0, 0, .rwl, 0x1⟩, ⟨1, 1, .rwl, 0x1⟩, ⟨2, 2, .wo, 0x0⟩, ⟨3, 3, .wo, 0x0⟩, ⟨31, 31, .rw, 0x0⟩]⟩,
  ⟨0x48004, 0x0, 1, false, [⟨3, 0, .ro, 0x0⟩, ⟨4, 4, .ro, 0x0⟩, ⟨5, 5, .ro, 0x0⟩, ⟨6, 6, .ro, 0x0⟩, ⟨7, 7, .ro, 0x0⟩, ⟨8, 8, .ro, 0x0⟩, ⟨9, 9, .ro, 0x0⟩, ⟨10, 10, .ro, 0x0⟩, ⟨11, 11, .ro, 0x0⟩, ⟨23, 16, .ro, 0x0⟩]⟩,
  ⟨0x48008, 0x0, 1, false, [⟨11, 0, .ro, 0x0⟩]⟩,
  ⟨0x4800C, 0x0, 1, false, [⟨6, 0, .ro, 0x0⟩, ⟨11, 8, .ro, 0x0⟩, ⟨21, 16, .ro, 0x0⟩]⟩,
  ⟨0x48010, 0x0, 1, false, [⟨11, 0, .rwl, 0x0⟩]⟩,
  ⟨0x48014, 0x0, 1, false, [⟨15, 0, .rw, 0x32⟩]⟩,
  ⟨0x48018, 0x0, 1, false, [⟨7, 0, .pw, 0x0⟩, ⟨15, 8, .pw, 0x0⟩, ⟨31, 16, .pw, 0xFFFF⟩]⟩,
  ⟨0x48020, 0x0, 1, true, [⟨63, 0, .rwl, 0x0⟩]⟩,
  ⟨0x48028, 0x0, 1, true, [⟨63, 0, .ro, 0x0⟩]⟩,
  ⟨0x48030, 0x0, 1, false, [⟨15, 0, .ro, 0x0⟩, ⟨21, 16, .ro, 0x0⟩]⟩,
  ⟨0x48034, 0x0, 1, false, [⟨15, 0, .ro, 0x0⟩]⟩,
  ⟨0x48040, 0x4, 12, false, [⟨31, 0, .ro, 0x0⟩]⟩,
  ⟨0x48070, 0x0, 1, true, [⟨63, 0, .ro, 0x0⟩]⟩,
  ⟨0x48078, 0x0, 1, true, [⟨63, 0, .ro, 0x0⟩]⟩]

/-- The diag block (R516, 20_timing_diagnostics.md). -/
def regsDiag : List RegRow := [
  ⟨0x4C000, 0x0, 1, false, [⟨0, 0, .rwl, 0x1⟩, ⟨31, 31, .rw, 0x0⟩]⟩,
  ⟨0x4C004, 0x0, 1, false, [⟨0, 0, .ro, 0x0⟩, ⟨1, 1, .w1c, 0x0⟩]⟩,
  ⟨0x4C008, 0x0, 1, false, [⟨11, 0, .rwl, 0x100⟩]⟩,
  ⟨0x4C00C, 0x0, 1, false, [⟨11, 0, .rwl, 0x10⟩]⟩,
  ⟨0x4C010, 0x0, 1, true, [⟨63, 0, .ro, 0x0⟩]⟩,
  ⟨0x4C018, 0x0, 1, true, [⟨63, 0, .ro, 0x0⟩]⟩,
  ⟨0x4C020, 0x4, 5, false, [⟨11, 0, .ro, 0x0⟩]⟩,
  ⟨0x4C040, 0x4, 5, false, [⟨11, 0, .ro, 0xFFF⟩]⟩,
  ⟨0x4C060, 0x0, 1, false, [⟨15, 0, .rw, 0xA⟩]⟩,
  ⟨0x4C068, 0x0, 1, false, [⟨2, 0, .rw, 0x0⟩, ⟨3, 3, .rw, 0x0⟩, ⟨15, 4, .rw, 0x0⟩, ⟨21, 16, .rw, 0x0⟩]⟩,
  ⟨0x4C070, 0x8, 4, true, [⟨63, 0, .ro, 0x0⟩]⟩,
  ⟨0x4C100, 0x8, 8, true, [⟨63, 0, .ro, 0x0⟩]⟩,
  ⟨0x4C140, 0x0, 1, true, [⟨63, 0, .ro, 0x0⟩]⟩,
  ⟨0x4C148, 0x0, 1, true, [⟨63, 0, .ro, 0x0⟩]⟩,
  ⟨0x4C150, 0x0, 1, true, [⟨15, 0, .ro, 0x0⟩]⟩,
  ⟨0x4C158, 0x0, 1, true, [⟨63, 0, .ro, 0x0⟩]⟩,
  ⟨0x4C200, 0x8, 4, true, [⟨63, 0, .ro, 0x0⟩]⟩,
  ⟨0x4C220, 0x8, 4, true, [⟨63, 0, .ro, 0x0⟩]⟩,
  ⟨0x4C240, 0x0, 1, true, [⟨63, 0, .ro, 0x0⟩]⟩,
  ⟨0x4C248, 0x0, 1, true, [⟨63, 0, .ro, 0x0⟩]⟩,
  ⟨0x4C250, 0x0, 1, true, [⟨63, 0, .ro, 0x0⟩]⟩,
  ⟨0x4C258, 0x0, 1, true, [⟨31, 0, .ro, 0x0⟩]⟩,
  ⟨0x4C260, 0x0, 1, false, [⟨0, 0, .wo, 0x0⟩]⟩,
  ⟨0x4C268, 0x0, 1, true, [⟨63, 0, .ro, 0x0⟩]⟩]

/-- The host block (R288, 11_host_cxl.md). -/
def regsHost : List RegRow := [
  ⟨0x0, 0x0, 1, false, [⟨15, 0, .ro, 0xF48⟩, ⟨19, 16, .ro, 0x0⟩, ⟨20, 20, .ro, 0x0⟩, ⟨31, 24, .ro, 0xB1⟩]⟩,
  ⟨0x4, 0x0, 1, false, [⟨7, 0, .ro, 0x0⟩, ⟨15, 8, .ro, 0x0⟩, ⟨23, 16, .ro, 0x0⟩, ⟨27, 24, .ro, 0x4⟩, ⟨31, 28, .ro, 0x1⟩]⟩,
  ⟨0x8, 0x0, 1, true, [⟨63, 0, .ro, 0x0⟩]⟩,
  ⟨0x10, 0x0, 1, false, [⟨5, 0, .ro, 0x0⟩, ⟨6, 6, .ro, 0x0⟩, ⟨7, 7, .ro, 0x0⟩, ⟨8, 8, .ro, 0x0⟩]⟩,
  ⟨0x18, 0x0, 1, true, [⟨63, 0, .ro, 0x0⟩]⟩,
  ⟨0x20, 0x0, 1, false, [⟨0, 0, .rwl, 0x0⟩, ⟨1, 1, .rwl, 0x0⟩, ⟨2, 2, .rwl, 0x1⟩, ⟨31, 31, .rw, 0x0⟩]⟩,
  ⟨0x24, 0x0, 1, false, [⟨0, 0, .w1c, 0x0⟩, ⟨1, 1, .w1c, 0x0⟩, ⟨2, 2, .w1c, 0x0⟩, ⟨3, 3, .w1c, 0x0⟩, ⟨4, 4, .w1c, 0x0⟩]⟩,
  ⟨0x28, 0x0, 1, true, [⟨63, 0, .ro, 0x0⟩]⟩,
  ⟨0x30, 0x0, 1, true, [⟨63, 0, .ro, 0x0⟩]⟩,
  ⟨0x38, 0x0, 1, true, [⟨63, 0, .ro, 0x0⟩]⟩,
  ⟨0x40, 0x0, 1, false, [⟨15, 0, .ro, 0x0⟩]⟩,
  ⟨0x44, 0x0, 1, false, [⟨16, 0, .ro, 0x0⟩]⟩,
  ⟨0x1000, 0x8, 256, true, [⟨0, 0, .rw, 0x0⟩, ⟨7, 4, .rwl, 0x0⟩, ⟨31, 8, .rwl, 0x0⟩, ⟨32, 32, .rwl, 0x0⟩]⟩,
  ⟨0x2000, 0x20, 16, true, [⟨63, 6, .rw, 0x0⟩]⟩,
  ⟨0x2008, 0x20, 16, false, [⟨4, 0, .rw, 0xA⟩, ⟨8, 8, .rw, 0x0⟩]⟩,
  ⟨0x200C, 0x20, 16, false, [⟨0, 0, .ro, 0x0⟩, ⟨1, 1, .w1c, 0x0⟩]⟩,
  ⟨0x2010, 0x20, 16, true, [⟨63, 3, .rw, 0x0⟩]⟩,
  ⟨0x2018, 0x20, 16, false, [⟨31, 0, .ro, 0x0⟩]⟩,
  ⟨0x201C, 0x20, 16, false, [⟨31, 0, .rw, 0x40000⟩]⟩,
  ⟨0x3000, 0x4, 48, false, [⟨15, 0, .rw, 0xA⟩, ⟨23, 16, .rw, 0x1⟩]⟩,
  ⟨0x3100, 0x0, 1, true, [⟨47, 0, .w1c, 0x0⟩]⟩]

/-- Every register of BAR0 (R287). -/
def regTable : List RegRow :=
  regsServing ++ regsKv ++ regsTailrace ++ regsTier ++ regsPool ++ regsStone ++ regsMolair ++ regsGranary0 ++ regsGranary1 ++ regsAixq0 ++ regsAixq1 ++ regsSluice0 ++ regsSluice1 ++ regsIntegrity ++ regsCkpt ++ regsSecurity ++ regsPower ++ regsForm ++ regsDiag ++ regsHost

namespace F

abbrev HOPCTL_enable : Fld := ⟨0x10000, 0x0, 0, 0⟩
abbrev HOPCTL_text_en : Fld := ⟨0x10000, 0x0, 1, 1⟩
abbrev HOPVOCAB_v : Fld := ⟨0x10004, 0x0, 18, 0⟩
abbrev HOPBYTES_bytes : Fld := ⟨0x10008, 0x0, 63, 0⟩
abbrev HOPTOK_tokens : Fld := ⟨0x10010, 0x0, 63, 0⟩
abbrev HOPERR_bad_token : Fld := ⟨0x10018, 0x0, 0, 0⟩
abbrev HOPERR_fault : Fld := ⟨0x10018, 0x0, 1, 1⟩
abbrev HOPERR_limit : Fld := ⟨0x10018, 0x0, 2, 2⟩
abbrev RUNCTL_match_len : Fld := ⟨0x1001C, 0x0, 2, 0⟩
abbrev RUNCTL_window : Fld := ⟨0x1001C, 0x0, 31, 16⟩
abbrev DRAFTPROP_count : Fld := ⟨0x10020, 0x0, 63, 0⟩
abbrev DRAFTACC_count : Fld := ⟨0x10028, 0x0, 63, 0⟩
abbrev GDEAD_count : Fld := ⟨0x10030, 0x0, 63, 0⟩
abbrev LATETOK_count : Fld := ⟨0x10038, 0x0, 63, 0⟩
abbrev KVCTL_pfx_en : Fld := ⟨0x14000, 0x0, 0, 0⟩
abbrev KVCTL_bkt_err : Fld := ⟨0x14000, 0x0, 1, 1⟩
abbrev KVPFXLIM_limit : Fld := ⟨0x14004, 0x0, 31, 0⟩
abbrev KVPFXCNT_nodes : Fld := ⟨0x14008, 0x0, 31, 0⟩
abbrev KVBKT_pages : Fld := ⟨0x14010, 0x4, 31, 0⟩
abbrev KVSAT_count : Fld := ⟨0x14050, 0x0, 63, 0⟩
abbrev KVFREE_global : Fld := ⟨0x14058, 0x0, 31, 0⟩
abbrev KVFREE_window : Fld := ⟨0x14058, 0x0, 63, 32⟩
abbrev KVCOW_copies : Fld := ⟨0x14060, 0x0, 63, 0⟩
abbrev KVBIND_pages : Fld := ⟨0x14068, 0x0, 63, 0⟩
abbrev TRCTL_enable : Fld := ⟨0x18000, 0x0, 0, 0⟩
abbrev TRRECS_count : Fld := ⟨0x18008, 0x0, 63, 0⟩
abbrev TRBYTES_count : Fld := ⟨0x18010, 0x0, 63, 0⟩
abbrev TRSTOPS_count : Fld := ⟨0x18018, 0x0, 63, 0⟩
abbrev TRDISC_count : Fld := ⟨0x18020, 0x0, 63, 0⟩
abbrev STRBASE_base : Fld := ⟨0x18100, 0x20, 63, 6⟩
abbrev STRSIZE_log2 : Fld := ⟨0x18108, 0x20, 4, 0⟩
abbrev STRSIZE_enable : Fld := ⟨0x18108, 0x20, 8, 8⟩
abbrev STRSTAT_blocked : Fld := ⟨0x1810C, 0x20, 0, 0⟩
abbrev STRSTAT_read_err : Fld := ⟨0x1810C, 0x20, 1, 1⟩
abbrev STRCONS_addr : Fld := ⟨0x18110, 0x20, 63, 3⟩
abbrev STRPROD_p : Fld := ⟨0x18118, 0x20, 31, 0⟩
abbrev STRBLIM_granules : Fld := ⟨0x1811C, 0x20, 31, 0⟩
abbrev TIERCTL_evict_en : Fld := ⟨0x1C000, 0x0, 0, 0⟩
abbrev TIERCTL_demote_en : Fld := ⟨0x1C000, 0x0, 1, 1⟩
abbrev TIERCTL_expdrop_en : Fld := ⟨0x1C000, 0x0, 2, 2⟩
abbrev TIERCTL_rc_en : Fld := ⟨0x1C000, 0x0, 3, 3⟩
abbrev TIERMPWEIR_evict_pm : Fld := ⟨0x1C004, 0x0, 9, 0⟩
abbrev TIERMPWEIR_clear_pm : Fld := ⟨0x1C004, 0x0, 25, 16⟩
abbrev TIERGRSV_gb : Fld := ⟨0x1C008, 0x0, 31, 0⟩
abbrev TIERGWEIR_gb : Fld := ⟨0x1C00C, 0x0, 31, 0⟩
abbrev TIEREVRATE_sessions : Fld := ⟨0x1C010, 0x0, 7, 0⟩
abbrev TIERSTAT_evicting : Fld := ⟨0x1C014, 0x0, 0, 0⟩
abbrev TIERSTAT_starved : Fld := ⟨0x1C014, 0x0, 1, 1⟩
abbrev TIERSTAT_granary_full : Fld := ⟨0x1C014, 0x0, 2, 2⟩
abbrev TIERSTAT_readonly : Fld := ⟨0x1C014, 0x0, 3, 3⟩
abbrev TIERSTAT_logblk : Fld := ⟨0x1C014, 0x0, 4, 4⟩
abbrev TIERPARKS_count : Fld := ⟨0x1C018, 0x0, 63, 0⟩
abbrev TIERPFAIL_count : Fld := ⟨0x1C020, 0x0, 63, 0⟩
abbrev TIERREVR_count : Fld := ⟨0x1C028, 0x0, 63, 0⟩
abbrev TIERREVC_count : Fld := ⟨0x1C030, 0x0, 63, 0⟩
abbrev TIERDEMOTE_count : Fld := ⟨0x1C038, 0x0, 63, 0⟩
abbrev TIEREXPDROP_count : Fld := ⟨0x1C040, 0x0, 63, 0⟩
abbrev TIEREVICT_count : Fld := ⟨0x1C048, 0x0, 63, 0⟩
abbrev TIERWSTALL_count : Fld := ⟨0x1C050, 0x0, 63, 0⟩
abbrev TIERFLOOR_tenant : Fld := ⟨0x1C100, 0x8, 23, 0⟩
abbrev TIERFLOOR_pages : Fld := ⟨0x1C100, 0x8, 59, 32⟩
abbrev TIERFLOOR_valid : Fld := ⟨0x1C100, 0x8, 63, 63⟩
abbrev POOLCTL_handoff_en : Fld := ⟨0x20000, 0x0, 0, 0⟩
abbrev POOLCTL_mirror_en : Fld := ⟨0x20000, 0x0, 1, 1⟩
abbrev POOLROLE_role : Fld := ⟨0x20004, 0x0, 1, 0⟩
abbrev POOLROLE_base : Fld := ⟨0x20004, 0x0, 13, 8⟩
abbrev POOLROLE_size : Fld := ⟨0x20004, 0x0, 22, 16⟩
abbrev POOLROLE_position : Fld := ⟨0x20004, 0x0, 29, 24⟩
abbrev POOLPLAN_active : Fld := ⟨0x20008, 0x0, 2, 0⟩
abbrev POOLPLAN_loaded : Fld := ⟨0x20008, 0x0, 15, 8⟩
abbrev POOLSTAT_recomposing : Fld := ⟨0x2000C, 0x0, 0, 0⟩
abbrev POOLSTAT_group_fault : Fld := ⟨0x2000C, 0x0, 1, 1⟩
abbrev POOLSTAT_busy : Fld := ⟨0x2000C, 0x0, 2, 2⟩
abbrev MIGTMO_us : Fld := ⟨0x20010, 0x0, 31, 0⟩
abbrev MIGPROBE_us : Fld := ⟨0x20014, 0x0, 31, 0⟩
abbrev POOLRCTMO_ms : Fld := ⟨0x20018, 0x0, 31, 0⟩
abbrev POOLHOFF_target : Fld := ⟨0x2001C, 0x0, 5, 0⟩
abbrev POOLHOFF_override : Fld := ⟨0x2001C, 0x0, 7, 7⟩
abbrev MIGOUT_count : Fld := ⟨0x20020, 0x0, 63, 0⟩
abbrev MIGIN_count : Fld := ⟨0x20028, 0x0, 63, 0⟩
abbrev MIGABORT_count : Fld := ⟨0x20030, 0x0, 63, 0⟩
abbrev OWNCONF_count : Fld := ⟨0x20038, 0x0, 63, 0⟩
abbrev POOLADOPT_count : Fld := ⟨0x20040, 0x0, 63, 0⟩
abbrev ARITHREV_rev : Fld := ⟨0x24000, 0x0, 15, 0⟩
abbrev STONECTL_retire_en : Fld := ⟨0x24004, 0x0, 0, 0⟩
abbrev STONESTAT_nospare : Fld := ⟨0x24008, 0x0, 3, 0⟩
abbrev STONESTAT_retire_rej : Fld := ⟨0x24008, 0x0, 4, 4⟩
abbrev STONESPARE_spares : Fld := ⟨0x24010, 0x4, 6, 0⟩
abbrev STONESPARE_retired : Fld := ⟨0x24010, 0x4, 14, 8⟩
abbrev STONERETIRE_stone : Fld := ⟨0x24020, 0x0, 10, 0⟩
abbrev STONEREMAPS_count : Fld := ⟨0x24028, 0x0, 63, 0⟩
abbrev PREKILL_count : Fld := ⟨0x24030, 0x0, 63, 0⟩
abbrev PREKILLG_count : Fld := ⟨0x24038, 0x0, 63, 0⟩
abbrev PRESPILL_count : Fld := ⟨0x24040, 0x0, 63, 0⟩
abbrev ARITHNAN_count : Fld := ⟨0x24048, 0x0, 63, 0⟩
abbrev PLANFAM_digest : Fld := ⟨0x24060, 0x8, 63, 0⟩
abbrev PARTCTL_mode : Fld := ⟨0x24080, 0x4, 0, 0⟩
abbrev PARTCTL_mode_err : Fld := ⟨0x24080, 0x4, 1, 1⟩
abbrev PARTCTL_present : Fld := ⟨0x24080, 0x4, 2, 2⟩
abbrev PARTCTL_window : Fld := ⟨0x24080, 0x4, 15, 8⟩
abbrev STONEMAP_phys : Fld := ⟨0x25000, 0x4, 9, 0⟩
abbrev MOLCTL_enable : Fld := ⟨0x28000, 0x0, 0, 0⟩
abbrev MOLCTL_lane_spare_en : Fld := ⟨0x28000, 0x0, 1, 1⟩
abbrev MOLCTL_dyn_en : Fld := ⟨0x28000, 0x0, 2, 2⟩
abbrev MOLSTAT_sync_fault : Fld := ⟨0x28004, 0x0, 0, 0⟩
abbrev MOLSTAT_port_fail : Fld := ⟨0x28004, 0x0, 1, 1⟩
abbrev MOLSTAT_lane_spared : Fld := ⟨0x28004, 0x0, 2, 2⟩
abbrev MOLLANETHR_symbols : Fld := ⟨0x28008, 0x0, 31, 0⟩
abbrev MOLTIMING_bq : Fld := ⟨0x2800C, 0x0, 15, 0⟩
abbrev MOLTIMING_allow : Fld := ⟨0x2800C, 0x0, 31, 16⟩
abbrev MOLBOUND_nt : Fld := ⟨0x28010, 0x0, 63, 0⟩
abbrev MOLSTEP_step : Fld := ⟨0x28018, 0x0, 47, 0⟩
abbrev MOLSLACK_ns : Fld := ⟨0x28020, 0x0, 31, 0⟩
abbrev MOLMSGDROP_count : Fld := ⟨0x28028, 0x0, 63, 0⟩
abbrev PLANSLOT_set_id : Fld := ⟨0x28040, 0x4, 31, 0⟩
abbrev MOLPSTAT_state : Fld := ⟨0x28100, 0x40, 2, 0⟩
abbrev MOLPSTAT_peer : Fld := ⟨0x28100, 0x40, 13, 8⟩
abbrev MOLPSTAT_peer_port : Fld := ⟨0x28100, 0x40, 19, 16⟩
abbrev MOLREMAP_primary : Fld := ⟨0x28104, 0x40, 3, 0⟩
abbrev MOLREMAP_second : Fld := ⟨0x28104, 0x40, 7, 4⟩
abbrev MOLLANE_lane : Fld := ⟨0x28108, 0x40, 3, 0⟩
abbrev MOLFEC_count : Fld := ⟨0x28110, 0x40, 63, 0⟩
abbrev MOLCRC_count : Fld := ⟨0x28118, 0x40, 63, 0⟩
abbrev MOLRETRY_count : Fld := ⟨0x28120, 0x40, 63, 0⟩
abbrev MOLSTX_bytes : Fld := ⟨0x28128, 0x40, 63, 0⟩
abbrev MOLDTX_bytes : Fld := ⟨0x28130, 0x40, 63, 0⟩
abbrev MOLRX_bytes : Fld := ⟨0x28138, 0x40, 63, 0⟩
abbrev GRNCTL_bg_gc_en : Fld := ⟨0x2C000, 0x0, 0, 0⟩
abbrev GRNCTL_static_wl_en : Fld := ⟨0x2C000, 0x0, 1, 1⟩
abbrev GRNCTL_rd_reloc_en : Fld := ⟨0x2C000, 0x0, 2, 2⟩
abbrev GRNSTAT_ready : Fld := ⟨0x2C004, 0x0, 0, 0⟩
abbrev GRNSTAT_readonly : Fld := ⟨0x2C004, 0x0, 1, 1⟩
abbrev GRNSTAT_fg_gc : Fld := ⟨0x2C004, 0x0, 2, 2⟩
abbrev GRNSTAT_bg_gc : Fld := ⟨0x2C004, 0x0, 3, 3⟩
abbrev GRNSTAT_spares_out : Fld := ⟨0x2C004, 0x0, 4, 4⟩
abbrev GRNSTAT_map_check : Fld := ⟨0x2C004, 0x0, 5, 5⟩
abbrev GRNSTAT_rebuilt : Fld := ⟨0x2C004, 0x0, 6, 6⟩
abbrev GRNSTAT_drain_lost : Fld := ⟨0x2C004, 0x0, 7, 7⟩
abbrev GRNSTAT_clean : Fld := ⟨0x2C004, 0x0, 8, 8⟩
abbrev GRNSTAT_hm_err : Fld := ⟨0x2C004, 0x0, 9, 9⟩
abbrev GRNSTAT_cfg_err : Fld := ⟨0x2C004, 0x0, 10, 10⟩
abbrev GRNGEOM_dies : Fld := ⟨0x2C008, 0x0, 8, 0⟩
abbrev GRNGEOM_groups : Fld := ⟨0x2C008, 0x0, 13, 9⟩
abbrev GRNWEIR_bg_pm : Fld := ⟨0x2C00C, 0x0, 9, 0⟩
abbrev GRNWEIR_low_pm : Fld := ⟨0x2C00C, 0x0, 25, 16⟩
abbrev GRNCRIT_crit_pm : Fld := ⟨0x2C010, 0x0, 9, 0⟩
abbrev GRNIDLE_us : Fld := ⟨0x2C014, 0x0, 31, 0⟩
abbrev GRNRDTHR_reads : Fld := ⟨0x2C018, 0x0, 31, 0⟩
abbrev GRNWLSPREAD_cycles : Fld := ⟨0x2C01C, 0x0, 15, 0⟩
abbrev GRNVFYTHR_pct : Fld := ⟨0x2C020, 0x0, 6, 0⟩
abbrev GRNTHROT_f : Fld := ⟨0x2C024, 0x0, 9, 0⟩
abbrev GRNHMBASE_base : Fld := ⟨0x2C028, 0x0, 63, 16⟩
abbrev GRNHMSIZE_slots : Fld := ⟨0x2C030, 0x0, 31, 0⟩
abbrev GRNHMNEED_slots : Fld := ⟨0x2C034, 0x0, 31, 0⟩
abbrev GRNFREE_units : Fld := ⟨0x2C038, 0x0, 31, 0⟩
abbrev GRNFREE_min_pm : Fld := ⟨0x2C038, 0x0, 41, 32⟩
abbrev GRNFREE_die : Fld := ⟨0x2C038, 0x0, 55, 48⟩
abbrev GRNSPARE_blocks : Fld := ⟨0x2C040, 0x0, 31, 0⟩
abbrev GRNSPARE_empty_dies : Fld := ⟨0x2C040, 0x0, 40, 32⟩
abbrev GRNWEAR_mean : Fld := ⟨0x2C048, 0x0, 15, 0⟩
abbrev GRNWEAR_max : Fld := ⟨0x2C048, 0x0, 31, 16⟩
abbrev GRNWEAR_min : Fld := ⟨0x2C048, 0x0, 47, 32⟩
abbrev GRNWEAR_rated : Fld := ⟨0x2C048, 0x0, 63, 48⟩
abbrev GRNFLUSH_go : Fld := ⟨0x2C050, 0x0, 0, 0⟩
abbrev GRNREBUILD_ms : Fld := ⟨0x2C054, 0x0, 31, 0⟩
abbrev GRNHOSTW_bytes : Fld := ⟨0x2C060, 0x0, 63, 0⟩
abbrev GRNNANDW_bytes : Fld := ⟨0x2C068, 0x0, 63, 0⟩
abbrev GRNGCUNITS_count : Fld := ⟨0x2C070, 0x0, 63, 0⟩
abbrev GRNRETIRED_count : Fld := ⟨0x2C078, 0x0, 63, 0⟩
abbrev GRNUNCORR_count : Fld := ⟨0x2C080, 0x0, 63, 0⟩
abbrev GRNMAPMISS_count : Fld := ⟨0x2C088, 0x0, 63, 0⟩
abbrev GRNMAPCHK_count : Fld := ⟨0x2C090, 0x0, 63, 0⟩
abbrev GRNRDRELOC_count : Fld := ⟨0x2C098, 0x0, 63, 0⟩
abbrev GRNVFYFAIL_count : Fld := ⟨0x2C0A0, 0x0, 63, 0⟩
abbrev GRNPARREC_count : Fld := ⟨0x2C0A8, 0x0, 63, 0⟩
abbrev AIXCTL_scrub_en : Fld := ⟨0x30000, 0x0, 0, 0⟩
abbrev AIXCTL_spare_en : Fld := ⟨0x30000, 0x0, 1, 1⟩
abbrev AIXSTAT_spare_used : Fld := ⟨0x30004, 0x0, 0, 0⟩
abbrev AIXSTAT_shadow : Fld := ⟨0x30004, 0x0, 1, 1⟩
abbrev AIXSTAT_nospare : Fld := ⟨0x30004, 0x0, 2, 2⟩
abbrev AIXSTAT_uncertain : Fld := ⟨0x30004, 0x0, 3, 3⟩
abbrev AIXSCRUB_us : Fld := ⟨0x30008, 0x0, 15, 0⟩
abbrev AIXBANKMAP_bank : Fld := ⟨0x3000C, 0x0, 4, 0⟩
abbrev AIXOCC_session : Fld := ⟨0x30010, 0x0, 18, 0⟩
abbrev AIXOCC16_entries : Fld := ⟨0x30014, 0x0, 15, 0⟩
abbrev AIXLOOKUPS_count : Fld := ⟨0x30018, 0x0, 63, 0⟩
abbrev AIXFALSE_count : Fld := ⟨0x30020, 0x0, 63, 0⟩
abbrev AIXREPAIR_count : Fld := ⟨0x30028, 0x0, 63, 0⟩
abbrev AIXSHIFT_count : Fld := ⟨0x30030, 0x0, 63, 0⟩
abbrev QCTL_enable : Fld := ⟨0x30100, 0x0, 0, 0⟩
abbrev QCTL_merge_en : Fld := ⟨0x30100, 0x0, 1, 1⟩
abbrev QSTAT_merging : Fld := ⟨0x30104, 0x0, 0, 0⟩
abbrev QSTAT_side_full : Fld := ⟨0x30104, 0x0, 1, 1⟩
abbrev QMEM_gib : Fld := ⟨0x30108, 0x0, 8, 0⟩
abbrev QUSED_items : Fld := ⟨0x3010C, 0x0, 31, 0⟩
abbrev QSIDECAP_entries : Fld := ⟨0x30110, 0x0, 23, 0⟩
abbrev QMERGETHR_pct : Fld := ⟨0x30114, 0x0, 6, 0⟩
abbrev QPREFETCH_depth : Fld := ⟨0x30118, 0x0, 3, 0⟩
abbrev QBRUTE_items : Fld := ⟨0x3011C, 0x0, 31, 0⟩
abbrev QSEARCHES_count : Fld := ⟨0x30120, 0x0, 63, 0⟩
abbrev QSHORT_count : Fld := ⟨0x30128, 0x0, 63, 0⟩
abbrev QMERGES_count : Fld := ⟨0x30130, 0x0, 63, 0⟩
abbrev QPOISON_count : Fld := ⟨0x30138, 0x0, 63, 0⟩
abbrev QVISITS_count : Fld := ⟨0x30140, 0x0, 63, 0⟩
abbrev QIDX_present : Fld := ⟨0x30200, 0x20, 0, 0⟩
abbrev QIDX_format : Fld := ⟨0x30200, 0x20, 2, 1⟩
abbrev QIDX_metric : Fld := ⟨0x30200, 0x20, 4, 3⟩
abbrev QIDX_dim : Fld := ⟨0x30200, 0x20, 20, 8⟩
abbrev QSHAPE_m : Fld := ⟨0x30204, 0x20, 8, 0⟩
abbrev QSHAPE_r : Fld := ⟨0x30204, 0x20, 22, 16⟩
abbrev QCAP_items : Fld := ⟨0x30208, 0x20, 31, 0⟩
abbrev QOWN_tenant : Fld := ⟨0x3020C, 0x20, 23, 0⟩
abbrev QOWN_partition : Fld := ⟨0x3020C, 0x20, 27, 24⟩
abbrev QLIVE_items : Fld := ⟨0x30210, 0x20, 31, 0⟩
abbrev QSIDE_entries : Fld := ⟨0x30214, 0x20, 23, 0⟩
abbrev QGEN_generation : Fld := ⟨0x30218, 0x20, 31, 0⟩
abbrev QTOMB_nodes : Fld := ⟨0x3021C, 0x20, 31, 0⟩
abbrev SLCTL_shape_en : Fld := ⟨0x34000, 0x0, 0, 0⟩
abbrev SLCTL_police_en : Fld := ⟨0x34000, 0x0, 1, 1⟩
abbrev SLCTL_sample_en : Fld := ⟨0x34000, 0x0, 2, 2⟩
abbrev SLSTAT_cfg_err : Fld := ⟨0x34004, 0x0, 0, 0⟩
abbrev SLREFILL_us : Fld := ⟨0x34008, 0x0, 9, 0⟩
abbrev SLSAMP_us : Fld := ⟨0x3400C, 0x0, 19, 0⟩
abbrev SLDOVHD_bytes : Fld := ⟨0x34010, 0x0, 7, 0⟩
abbrev SLDPORT_rate : Fld := ⟨0x34014, 0x0, 19, 0⟩
abbrev SLDPBURST_bytes : Fld := ⟨0x34018, 0x0, 31, 0⟩
abbrev SLDQMAP_map : Fld := ⟨0x34020, 0x0, 51, 0⟩
abbrev SLGCAP_write : Fld := ⟨0x34030, 0x0, 15, 0⟩
abbrev SLGCAP_read : Fld := ⟨0x34030, 0x0, 31, 16⟩
abbrev SLGCMAX_weight : Fld := ⟨0x34034, 0x0, 7, 0⟩
abbrev SLGBURST_bytes : Fld := ⟨0x34038, 0x0, 31, 0⟩
abbrev SLTHROT_count : Fld := ⟨0x34080, 0x0, 63, 0⟩
abbrev SLSMPNT_nt : Fld := ⟨0x34088, 0x0, 63, 0⟩
abbrev SLPFGRANT_count : Fld := ⟨0x34090, 0x0, 63, 0⟩
abbrev SLDQUANT_bytes : Fld := ⟨0x34100, 0x10, 23, 0⟩
abbrev SLDRATE_rate : Fld := ⟨0x34104, 0x10, 19, 0⟩
abbrev SLDBURST_bytes : Fld := ⟨0x34108, 0x10, 31, 0⟩
abbrev SLGW_weight : Fld := ⟨0x34200, 0x10, 7, 0⟩
abbrev SLGW_rate : Fld := ⟨0x34200, 0x10, 31, 16⟩
abbrev SLHQUANT_bytes : Fld := ⟨0x34300, 0x10, 15, 0⟩
abbrev SLHRATE_rate : Fld := ⟨0x34304, 0x10, 19, 0⟩
abbrev SLHBURST_bytes : Fld := ⟨0x34308, 0x10, 31, 0⟩
abbrev SLPF_share : Fld := ⟨0x34400, 0x8, 9, 0⟩
abbrev SLPF_burst : Fld := ⟨0x34400, 0x8, 31, 16⟩
abbrev SLPOL_tenant : Fld := ⟨0x34500, 0x10, 23, 0⟩
abbrev SLPOL_valid : Fld := ⟨0x34500, 0x10, 31, 31⟩
abbrev SLPOLRATE_rate : Fld := ⟨0x34504, 0x10, 31, 0⟩
abbrev SLPOLBURST_commands : Fld := ⟨0x34508, 0x10, 15, 0⟩
abbrev SLSMP_nt : Fld := ⟨0x35000, 0x10, 63, 0⟩
abbrev SLSMPD_depth : Fld := ⟨0x35008, 0x10, 31, 0⟩
abbrev SLSMPD_delay : Fld := ⟨0x35008, 0x10, 63, 32⟩
abbrev INTCTL_inject_en : Fld := ⟨0x38000, 0x0, 0, 0⟩
abbrev INTCTL_chan_spare_en : Fld := ⟨0x38000, 0x0, 1, 1⟩
abbrev INTCTL_row_rep_en : Fld := ⟨0x38000, 0x0, 2, 2⟩
abbrev INTSTAT_pw_fault : Fld := ⟨0x38004, 0x0, 0, 0⟩
abbrev INTSTAT_pw_reject : Fld := ⟨0x38004, 0x0, 1, 1⟩
abbrev INTSTAT_pw_dead : Fld := ⟨0x38004, 0x0, 2, 2⟩
abbrev INTSTAT_residue : Fld := ⟨0x38004, 0x0, 3, 3⟩
abbrev INTSTAT_poison : Fld := ⟨0x38004, 0x0, 4, 4⟩
abbrev INTSTAT_wreload : Fld := ⟨0x38004, 0x0, 5, 5⟩
abbrev INTSTAT_hbm_spare : Fld := ⟨0x38004, 0x0, 6, 6⟩
abbrev INTSTAT_hbm_nospare : Fld := ⟨0x38004, 0x0, 7, 7⟩
abbrev INTSTAT_rec_check : Fld := ⟨0x38004, 0x0, 8, 8⟩
abbrev INTSTAT_group_fault : Fld := ⟨0x38004, 0x0, 9, 9⟩
abbrev INTREPLAYMAX_count : Fld := ⟨0x38008, 0x0, 3, 0⟩
abbrev INTRETWIN_ms : Fld := ⟨0x3800C, 0x0, 31, 0⟩
abbrev INTHBMCHTHR_errors : Fld := ⟨0x38010, 0x0, 15, 0⟩
abbrev INTHBMROWTHR_errors : Fld := ⟨0x38014, 0x0, 15, 0⟩
abbrev INTFAULT_cause : Fld := ⟨0x38018, 0x0, 7, 0⟩
abbrev INTFAULT_device : Fld := ⟨0x38018, 0x0, 13, 8⟩
abbrev INTFAULT_step : Fld := ⟨0x38018, 0x0, 63, 16⟩
abbrev INTFAULTNT_nt : Fld := ⟨0x38020, 0x0, 63, 0⟩
abbrev INTPWFIX_count : Fld := ⟨0x38040, 0x0, 63, 0⟩
abbrev INTPWREJ_count : Fld := ⟨0x38048, 0x0, 63, 0⟩
abbrev INTMRES_count : Fld := ⟨0x38050, 0x0, 63, 0⟩
abbrev INTVRES_count : Fld := ⟨0x38058, 0x0, 63, 0⟩
abbrev INTSCRCE_count : Fld := ⟨0x38060, 0x0, 63, 0⟩
abbrev INTSCRUE_count : Fld := ⟨0x38068, 0x0, 63, 0⟩
abbrev INTHBMCE_count : Fld := ⟨0x38070, 0x0, 63, 0⟩
abbrev INTHBMUE_count : Fld := ⟨0x38078, 0x0, 63, 0⟩
abbrev INTPOISONKILL_count : Fld := ⟨0x38080, 0x0, 63, 0⟩
abbrev INTWRELOAD_count : Fld := ⟨0x38088, 0x0, 63, 0⟩
abbrev INTRETRACT_count : Fld := ⟨0x38090, 0x0, 63, 0⟩
abbrev INTREPLAY_count : Fld := ⟨0x38098, 0x0, 63, 0⟩
abbrev INTCHKFAIL_count : Fld := ⟨0x380A0, 0x0, 63, 0⟩
abbrev INTHBMROWREP_count : Fld := ⟨0x380A8, 0x0, 63, 0⟩
abbrev INTINJFIRE_count : Fld := ⟨0x380B0, 0x0, 63, 0⟩
abbrev INTHBMMAP_spare0 : Fld := ⟨0x38100, 0x4, 5, 0⟩
abbrev INTHBMMAP_spare1 : Fld := ⟨0x38100, 0x4, 11, 6⟩
abbrev CKPTCTL_auto_restore : Fld := ⟨0x3C000, 0x0, 0, 0⟩
abbrev CKPTCTL_takeover_en : Fld := ⟨0x3C000, 0x0, 1, 1⟩
abbrev CKPTCTL_buddy_en : Fld := ⟨0x3C000, 0x0, 2, 2⟩
abbrev CKPTCTL_lazy_revive : Fld := ⟨0x3C000, 0x0, 3, 3⟩
abbrev CKPTSTAT_buddy_mode : Fld := ⟨0x3C004, 0x0, 0, 0⟩
abbrev CKPTSTAT_restoring : Fld := ⟨0x3C004, 0x0, 1, 1⟩
abbrev CKPTSTAT_own_lag : Fld := ⟨0x3C004, 0x0, 2, 2⟩
abbrev CKPTSTAT_no_epoch : Fld := ⟨0x3C004, 0x0, 3, 3⟩
abbrev CKPTSTEPS_steps : Fld := ⟨0x3C008, 0x0, 15, 0⟩
abbrev CKPTMS_ms : Fld := ⟨0x3C00C, 0x0, 9, 0⟩
abbrev CKPTHOLD_ms : Fld := ⟨0x3C010, 0x0, 15, 0⟩
abbrev CKPTREVRATE_sessions : Fld := ⟨0x3C014, 0x0, 7, 0⟩
abbrev CKPTBUDDY_device : Fld := ⟨0x3C018, 0x0, 5, 0⟩
abbrev CKPTBUDDY_valid : Fld := ⟨0x3C018, 0x0, 6, 6⟩
abbrev CKPTADOPTQ_sessions : Fld := ⟨0x3C01C, 0x0, 31, 0⟩
abbrev CKPTEPOCH_held : Fld := ⟨0x3C020, 0x0, 31, 0⟩
abbrev CKPTEPOCH_own : Fld := ⟨0x3C020, 0x0, 63, 32⟩
abbrev CKPTCUTNT_nt : Fld := ⟨0x3C028, 0x0, 63, 0⟩
abbrev CKPTRESTNT_nt : Fld := ⟨0x3C030, 0x0, 63, 0⟩
abbrev CKPTRESTEP_epoch : Fld := ⟨0x3C038, 0x0, 31, 0⟩
abbrev CKPTRESTEP_mode : Fld := ⟨0x3C038, 0x0, 39, 32⟩
abbrev CKPTCOPYMAX_us : Fld := ⟨0x3C040, 0x0, 31, 0⟩
abbrev CKPTCUTS_count : Fld := ⟨0x3C048, 0x0, 63, 0⟩
abbrev CKPTLATE_count : Fld := ⟨0x3C050, 0x0, 63, 0⟩
abbrev CKPTRESTORES_count : Fld := ⟨0x3C058, 0x0, 63, 0⟩
abbrev CKPTTAKEOVERS_count : Fld := ⟨0x3C060, 0x0, 63, 0⟩
abbrev CKPTBUDDYMODE_count : Fld := ⟨0x3C068, 0x0, 63, 0⟩
abbrev CKPTMINUTES_count : Fld := ⟨0x3C070, 0x0, 63, 0⟩
abbrev CKPTLAZY_count : Fld := ⟨0x3C078, 0x0, 63, 0⟩
abbrev SECCTL_rotate_en : Fld := ⟨0x40000, 0x0, 0, 0⟩
abbrev SECCTL_colour_en : Fld := ⟨0x40000, 0x0, 1, 1⟩
abbrev SECCTL_quant_en : Fld := ⟨0x40000, 0x0, 2, 2⟩
abbrev SECSTAT_trng_fail : Fld := ⟨0x40004, 0x0, 0, 0⟩
abbrev SECSTAT_owner_set : Fld := ⟨0x40004, 0x0, 1, 1⟩
abbrev SECSTAT_ide_up : Fld := ⟨0x40004, 0x0, 2, 2⟩
abbrev SECSTAT_tag_fail : Fld := ⟨0x40004, 0x0, 3, 3⟩
abbrev SECSTAT_cfg_err : Fld := ⟨0x40004, 0x0, 4, 4⟩
abbrev SECPROFILE_active : Fld := ⟨0x40008, 0x0, 0, 0⟩
abbrev SECPROFILE_pending : Fld := ⟨0x40008, 0x0, 1, 1⟩
abbrev SECPROFILE_pending_profile : Fld := ⟨0x40008, 0x0, 2, 2⟩
abbrev SECPROFILE_erase_pending : Fld := ⟨0x40008, 0x0, 3, 3⟩
abbrev SECSVN_fw : Fld := ⟨0x4000C, 0x0, 7, 0⟩
abbrev SECSVN_plan : Fld := ⟨0x4000C, 0x0, 15, 8⟩
abbrev SECSVN_model : Fld := ⟨0x4000C, 0x0, 23, 16⟩
abbrev SECSVN_aux : Fld := ⟨0x4000C, 0x0, 31, 24⟩
abbrev SECSEALCNT_contexts : Fld := ⟨0x40010, 0x0, 10, 0⟩
abbrev SECROTACT_rotations : Fld := ⟨0x40014, 0x0, 12, 0⟩
abbrev SECSCRUBMAX_steps : Fld := ⟨0x40018, 0x0, 15, 0⟩
abbrev SECOWNER_digest : Fld := ⟨0x40020, 0x8, 63, 0⟩
abbrev SECTAGFAIL_count : Fld := ⟨0x40040, 0x0, 63, 0⟩
abbrev SECROTATIONS_count : Fld := ⟨0x40048, 0x0, 63, 0⟩
abbrev SECSWEEP_count : Fld := ⟨0x40050, 0x0, 63, 0⟩
abbrev SECLAZY_count : Fld := ⟨0x40058, 0x0, 63, 0⟩
abbrev SECSCRUBS_count : Fld := ⟨0x40060, 0x0, 63, 0⟩
abbrev SECPCLEAR_count : Fld := ⟨0x40068, 0x0, 63, 0⟩
abbrev SECCOL_channels : Fld := ⟨0x40100, 0x4, 31, 0⟩
abbrev PWRCTL_cap_en : Fld := ⟨0x44000, 0x0, 0, 0⟩
abbrev PWRCTL_brk_en : Fld := ⟨0x44000, 0x0, 1, 1⟩
abbrev PWRCTL_gate_en : Fld := ⟨0x44000, 0x0, 2, 2⟩
abbrev PWRCTL_mgmt_wr_en : Fld := ⟨0x44000, 0x0, 3, 3⟩
abbrev PWRCTL_lock : Fld := ⟨0x44000, 0x0, 31, 31⟩
abbrev PWRSTAT_seq_err : Fld := ⟨0x44004, 0x0, 0, 0⟩
abbrev PWRSTAT_ploss : Fld := ⟨0x44004, 0x0, 1, 1⟩
abbrev PWRSTAT_ttrip : Fld := ⟨0x44004, 0x0, 2, 2⟩
abbrev PWRSTAT_tj_warn : Fld := ⟨0x44004, 0x0, 3, 3⟩
abbrev PWRSTAT_capping : Fld := ⟨0x44004, 0x0, 4, 4⟩
abbrev PWRSTAT_braking : Fld := ⟨0x44004, 0x0, 5, 5⟩
abbrev PWRSTAT_in_fault : Fld := ⟨0x44004, 0x0, 6, 6⟩
abbrev PWRSTAT_strap_err : Fld := ⟨0x44004, 0x0, 7, 7⟩
abbrev PWRSTAT_smb_rej : Fld := ⟨0x44004, 0x0, 8, 8⟩
abbrev PWRCAP_watts : Fld := ⟨0x44008, 0x0, 15, 0⟩
abbrev PWRBRKW_watts : Fld := ⟨0x4400C, 0x0, 15, 0⟩
abbrev PWRMODE_mode : Fld := ⟨0x44010, 0x0, 1, 0⟩
abbrev PWRMODE_mv : Fld := ⟨0x44010, 0x0, 25, 16⟩
abbrev PWRSLEW_rate : Fld := ⟨0x44014, 0x0, 15, 0⟩
abbrev PWRSLEW_burst : Fld := ⟨0x44014, 0x0, 31, 16⟩
abbrev PWRIDLE_idle : Fld := ⟨0x44018, 0x0, 15, 0⟩
abbrev PWRSTAG_slot_us : Fld := ⟨0x4401C, 0x0, 15, 0⟩
abbrev PWRSTAG_index_ns : Fld := ⟨0x4401C, 0x0, 31, 16⟩
abbrev PWRTJWARN_degc : Fld := ⟨0x44020, 0x0, 7, 0⟩
abbrev PWRVCORE_stone_mv : Fld := ⟨0x44024, 0x0, 9, 0⟩
abbrev PWRVCORE_hub_mv : Fld := ⟨0x44024, 0x0, 25, 16⟩
abbrev PWRDOM_on : Fld := ⟨0x44028, 0x0, 55, 0⟩
abbrev PWRSTRAP_slot : Fld := ⟨0x44030, 0x0, 6, 0⟩
abbrev PWRSTRAP_testen : Fld := ⟨0x44030, 0x0, 7, 7⟩
abbrev PWRIN_mv : Fld := ⟨0x44040, 0x8, 15, 0⟩
abbrev PWRIN_current : Fld := ⟨0x44040, 0x8, 31, 16⟩
abbrev PWRIN_power : Fld := ⟨0x44040, 0x8, 47, 32⟩
abbrev PWRTOTAL_avg10ms : Fld := ⟨0x44060, 0x0, 15, 0⟩
abbrev PWRTOTAL_avg1s : Fld := ⟨0x44060, 0x0, 31, 16⟩
abbrev PWRTJ_degc : Fld := ⟨0x44070, 0x4, 7, 0⟩
abbrev PWRTJ_sensor : Fld := ⟨0x44070, 0x4, 10, 8⟩
abbrev PWRHBMT_degc : Fld := ⟨0x44090, 0x4, 7, 0⟩
abbrev PWRCOOL_inlet : Fld := ⟨0x440B0, 0x0, 7, 0⟩
abbrev PWRCOOL_outlet : Fld := ⟨0x440B0, 0x0, 15, 8⟩
abbrev PWRWAKEDLY_count : Fld := ⟨0x440C0, 0x0, 63, 0⟩
abbrev PWRCAPUS_us : Fld := ⟨0x440C8, 0x0, 63, 0⟩
abbrev PWRBRKS_count : Fld := ⟨0x440D0, 0x0, 63, 0⟩
abbrev PWRLOSSES_count : Fld := ⟨0x440D8, 0x0, 63, 0⟩
abbrev PWRTRIPS_count : Fld := ⟨0x440E0, 0x0, 63, 0⟩
abbrev NFCTL_restore_en : Fld := ⟨0x48000, 0x0, 0, 0⟩
abbrev NFCTL_degraded_en : Fld := ⟨0x48000, 0x0, 1, 1⟩
abbrev NFCTL_grn_go : Fld := ⟨0x48000, 0x0, 2, 2⟩
abbrev NFCTL_sessions_go : Fld := ⟨0x48000, 0x0, 3, 3⟩
abbrev NFCTL_lock : Fld := ⟨0x48000, 0x0, 31, 31⟩
abbrev NFSTAT_stage : Fld := ⟨0x48004, 0x0, 3, 0⟩
abbrev NFSTAT_stopped : Fld := ⟨0x48004, 0x0, 4, 4⟩
abbrev NFSTAT_ready : Fld := ⟨0x48004, 0x0, 5, 5⟩
abbrev NFSTAT_master : Fld := ⟨0x48004, 0x0, 6, 6⟩
abbrev NFSTAT_nt_valid : Fld := ⟨0x48004, 0x0, 7, 7⟩
abbrev NFSTAT_holdover : Fld := ⟨0x48004, 0x0, 8, 8⟩
abbrev NFSTAT_join_wait : Fld := ⟨0x48004, 0x0, 9, 9⟩
abbrev NFSTAT_test : Fld := ⟨0x48004, 0x0, 10, 10⟩
abbrev NFSTAT_sessions_held : Fld := ⟨0x48004, 0x0, 11, 11⟩
abbrev NFSTAT_reason : Fld := ⟨0x48004, 0x0, 23, 16⟩
abbrev NFDONE_done : Fld := ⟨0x48008, 0x0, 11, 0⟩
abbrev NFNODE_active : Fld := ⟨0x4800C, 0x0, 6, 0⟩
abbrev NFNODE_spares : Fld := ⟨0x4800C, 0x0, 11, 8⟩
abbrev NFNODE_master : Fld := ⟨0x4800C, 0x0, 21, 16⟩
abbrev NFNODEID_id : Fld := ⟨0x48010, 0x0, 11, 0⟩
abbrev NFTOPOTMO_ms : Fld := ⟨0x48014, 0x0, 15, 0⟩
abbrev NFRESET_code : Fld := ⟨0x48018, 0x0, 7, 0⟩
abbrev NFNTINIT_nt : Fld := ⟨0x48020, 0x0, 63, 0⟩
abbrev NFLASTNT_nt : Fld := ⟨0x48028, 0x0, 63, 0⟩
abbrev NFOFFSET_ns : Fld := ⟨0x48030, 0x0, 15, 0⟩
abbrev NFOFFSET_parent : Fld := ⟨0x48030, 0x0, 21, 16⟩
abbrev NFSYNCMAX_ns : Fld := ⟨0x48034, 0x0, 15, 0⟩
abbrev NFSTAGET_us : Fld := ⟨0x48040, 0x4, 31, 0⟩
abbrev NFRESETS_count : Fld := ⟨0x48070, 0x0, 63, 0⟩
abbrev NFHOLDOVERS_count : Fld := ⟨0x48078, 0x0, 63, 0⟩
abbrev DGCTL_autostop_en : Fld := ⟨0x4C000, 0x0, 0, 0⟩
abbrev DGCTL_lock : Fld := ⟨0x4C000, 0x0, 31, 31⟩
abbrev DGSTAT_bb_copying : Fld := ⟨0x4C004, 0x0, 0, 0⟩
abbrev DGSTAT_bb_copy_err : Fld := ⟨0x4C004, 0x0, 1, 1⟩
abbrev DGJSIZE_mib : Fld := ⟨0x4C008, 0x0, 11, 0⟩
abbrev DGDJSIZE_mib : Fld := ⟨0x4C00C, 0x0, 11, 0⟩
abbrev DGJPOS_position : Fld := ⟨0x4C010, 0x0, 63, 0⟩
abbrev DGDJPOS_position : Fld := ⟨0x4C018, 0x0, 63, 0⟩
abbrev DGRATE_msps : Fld := ⟨0x4C020, 0x4, 11, 0⟩
abbrev DGRATEMIN_msps : Fld := ⟨0x4C040, 0x4, 11, 0⟩
abbrev DGSTOPIDLE_us : Fld := ⟨0x4C060, 0x0, 15, 0⟩
abbrev DGBBSEL_die : Fld := ⟨0x4C068, 0x0, 2, 0⟩
abbrev DGBBSEL_source : Fld := ⟨0x4C068, 0x0, 3, 3⟩
abbrev DGBBSEL_index : Fld := ⟨0x4C068, 0x0, 15, 4⟩
abbrev DGBBSEL_slot : Fld := ⟨0x4C068, 0x0, 21, 16⟩
abbrev DGBBDATA_bytes : Fld := ⟨0x4C070, 0x8, 63, 0⟩
abbrev DGXWAIT_ns : Fld := ⟨0x4C100, 0x8, 63, 0⟩
abbrev DGXFLUSH_count : Fld := ⟨0x4C140, 0x0, 63, 0⟩
abbrev DGWAKES_count : Fld := ⟨0x4C148, 0x0, 63, 0⟩
abbrev DGWAKEMAX_ns : Fld := ⟨0x4C150, 0x0, 15, 0⟩
abbrev DGBBCOPIES_count : Fld := ⟨0x4C158, 0x0, 63, 0⟩
abbrev DGBUSY_steps : Fld := ⟨0x4C200, 0x8, 63, 0⟩
abbrev DGHOLD_steps : Fld := ⟨0x4C220, 0x8, 63, 0⟩
abbrev DGSTEPS_count : Fld := ⟨0x4C240, 0x0, 63, 0⟩
abbrev DGSTEPNS_ns : Fld := ⟨0x4C248, 0x0, 63, 0⟩
abbrev DGIDLENS_ns : Fld := ⟨0x4C250, 0x0, 63, 0⟩
abbrev DGSTEPMAX_ns : Fld := ⟨0x4C258, 0x0, 31, 0⟩
abbrev DGSNAP_go : Fld := ⟨0x4C260, 0x0, 0, 0⟩
abbrev DGSNAPNT_nt : Fld := ⟨0x4C268, 0x0, 63, 0⟩
abbrev HIDENT_part : Fld := ⟨0x0, 0x0, 15, 0⟩
abbrev HIDENT_capacity : Fld := ⟨0x0, 0x0, 19, 16⟩
abbrev HIDENT_default_profile : Fld := ⟨0x0, 0x0, 20, 20⟩
abbrev HIDENT_stepping : Fld := ⟨0x0, 0x0, 31, 24⟩
abbrev HFWVER_patch : Fld := ⟨0x4, 0x0, 7, 0⟩
abbrev HFWVER_minor : Fld := ⟨0x4, 0x0, 15, 8⟩
abbrev HFWVER_major : Fld := ⟨0x4, 0x0, 23, 16⟩
abbrev HFWVER_rom_minor : Fld := ⟨0x4, 0x0, 27, 24⟩
abbrev HFWVER_rom_major : Fld := ⟨0x4, 0x0, 31, 28⟩
abbrev HSERIAL_serial : Fld := ⟨0x8, 0x0, 63, 0⟩
abbrev HDEVIDX_index : Fld := ⟨0x10, 0x0, 5, 0⟩
abbrev HDEVIDX_valid : Fld := ⟨0x10, 0x0, 6, 6⟩
abbrev HDEVIDX_spare : Fld := ⟨0x10, 0x0, 7, 7⟩
abbrev HDEVIDX_profile : Fld := ⟨0x10, 0x0, 8, 8⟩
abbrev HNT_nt : Fld := ⟨0x18, 0x0, 63, 0⟩
abbrev HCTL_cmd_en : Fld := ⟨0x20, 0x0, 0, 0⟩
abbrev HCTL_ticket_en : Fld := ⟨0x20, 0x0, 1, 1⟩
abbrev HCTL_bi_en : Fld := ⟨0x20, 0x0, 2, 2⟩
abbrev HCTL_lock : Fld := ⟨0x20, 0x0, 31, 31⟩
abbrev HSTAT_partial : Fld := ⟨0x24, 0x0, 0, 0⟩
abbrev HSTAT_window_off : Fld := ⟨0x24, 0x0, 1, 1⟩
abbrev HSTAT_ticket_store : Fld := ⟨0x24, 0x0, 2, 2⟩
abbrev HSTAT_rd_err : Fld := ⟨0x24, 0x0, 3, 3⟩
abbrev HSTAT_wr_err : Fld := ⟨0x24, 0x0, 4, 4⟩
abbrev HCMDS_count : Fld := ⟨0x28, 0x0, 63, 0⟩
abbrev HCMDDISC_count : Fld := ⟨0x30, 0x0, 63, 0⟩
abbrev HTICKETS_count : Fld := ⟨0x38, 0x0, 63, 0⟩
abbrev HTKTMAX_ns : Fld := ⟨0x40, 0x0, 15, 0⟩
abbrev HBIFILL_entries : Fld := ⟨0x44, 0x0, 16, 0⟩
abbrev CMDWIN_enable : Fld := ⟨0x1000, 0x8, 0, 0⟩
abbrev CMDWIN_partition : Fld := ⟨0x1000, 0x8, 7, 4⟩
abbrev CMDWIN_tenant : Fld := ⟨0x1000, 0x8, 31, 8⟩
abbrev CMDWIN_admin : Fld := ⟨0x1000, 0x8, 32, 32⟩
abbrev CMPBASE_base : Fld := ⟨0x2000, 0x20, 63, 6⟩
abbrev CMPSIZE_log2 : Fld := ⟨0x2008, 0x20, 4, 0⟩
abbrev CMPSIZE_enable : Fld := ⟨0x2008, 0x20, 8, 8⟩
abbrev CMPSTAT_overflow : Fld := ⟨0x200C, 0x20, 0, 0⟩
abbrev CMPSTAT_read_err : Fld := ⟨0x200C, 0x20, 1, 1⟩
abbrev CMPCONS_addr : Fld := ⟨0x2010, 0x20, 63, 3⟩
abbrev CMPPROD_p : Fld := ⟨0x2018, 0x20, 31, 0⟩
abbrev CMPBLIM_granules : Fld := ⟨0x201C, 0x20, 31, 0⟩
abbrev INTMOD_holdoff : Fld := ⟨0x3000, 0x4, 15, 0⟩
abbrev INTMOD_count : Fld := ⟨0x3000, 0x4, 23, 16⟩
abbrev INTCAUSE_cause : Fld := ⟨0x3100, 0x0, 47, 0⟩

end F

end Sys2Proof.Machine
end

