-- ==== Sys2Proof/Machine/Types.lean ====
section
/-! DEFINITION. The types of the session engine's state: records, areas, cached attention state, host interface, images,
steps and migrations, as plain data. -/

namespace Sys2Proof.Machine

/-! ### Sessions (02_session_records.md, 06_tiers.md, 10_ebnex_isa.md) -/

/-- The session record (R33). Paired fields hold their complement half beside them. -/
structure Rec where
  sk         : BitVec 128 := 0
  nsi        : W64 := 0
  state      : BitVec 4 := 0
  prior      : BitVec 4 := 0
  lastStatus : BitVec 8 := 0
  dlate      : Bool := false
  omm        : Bool := false
  ttlArmed   : Bool := false
  child      : Bool := false
  autorevive : Bool := false
  logonly    : Bool := false
  hstatus    : BitVec 8 := 0
  pending    : BitVec 16 := 0
  waitMask   : BitVec 16 := 0
  ownEpoch   : BitVec 16 := 0
  ownDev     : BitVec 6 := 0
  ownChk     : BitVec 32 := 0xFFFFFFFF
  keygen     : BitVec 16 := 0
  keygenChk  : BitVec 16 := 0xFFFF
  adSlot     : BitVec 10 := 0
  adVer      : BitVec 16 := 0
  adBound    : Bool := false
  kvroot     : BitVec 32 := 0
  kvrootChk  : BitVec 32 := 0xFFFFFFFF
  committed  : BitVec 32 := 0
  turn       : BitVec 32 := 0
  steps      : BitVec 48 := 0
  cut        : BitVec 32 := 0
  period     : BitVec 32 := 0
  expiry     : Nt := 0
  deadline   : Nt := 0
  pc         : BitVec 24 := 0
  prog       : BitVec 8 := 0
  flags      : BitVec 32 := 0
  a          : List W64 := [0, 0, 0, 0, 0, 0, 0, 0]
  waitExp    : Nt := 0
  gramSlot   : BitVec 12 := 0
  gramState  : BitVec 20 := 0
  gramDepth  : BitVec 16 := 0
  stopSet    : BitVec 16 := 0
  stopCnt    : BitVec 5 := 0
  held       : BitVec 7 := 0
  seq        : BitVec 24 := 0
  seed       : W64 := 0
  temp       : BitVec 16 := 0
  topP       : BitVec 16 := 0
  topK       : BitVec 16 := 0
  maxtok     : BitVec 32 := 0
  part       : BitVec 4 := 0
  parH       : BitVec 18 := 0
  parGen     : BitVec 16 := 0
  parDev     : BitVec 6 := 0
  forkIndex  : BitVec 24 := 0
  touch      : Nt := 0
  stattok    : W64 := 0
  jseq       : BitVec 32 := 0
  parks      : BitVec 8 := 0
  revives    : BitVec 8 := 0
  replays    : BitVec 8 := 0
  recomputes : BitVec 8 := 0
  admitNt    : Nt := 0
deriving DecidableEq, Repr

/-- A submission: a host line with the window, partition and tenant in force at its arrival (R274, R290). -/
structure Sub where
  op     : BitVec 8
  line   : CmdLine
  w      : BitVec 8
  part   : BitVec 4
  tenant : BitVec 24
  nt     : Nt
deriving DecidableEq, Repr

/-- Who waits for a Quern request: a command, or the instruction of a session known by handle and NSI (R339). -/
inductive QWho where
  | cmd (c : Sub)
  | ins (h : Handle) (nsi : W64)
deriving DecidableEq, Repr

/-- The blocking instruction a context is in (R251, R258); `dst` is its destination field. -/
inductive Blk where
  | wait (dst : BitVec 4)
  | revive (dst : BitVec 4)
  | migrate (dst : BitVec 4)
  | intake (dst : BitVec 4)
  | prefill (dst : BitVec 4)
  | step (dst : BitVec 4)
  | hold (dst : BitVec 4) (exp : Nt)
  | quern (dst : BitVec 4)
  /-- an instruction held (R41, R155) or waiting for room (R285): it executes again when the context next runs -/
  | redo (w : W64)
deriving DecidableEq, Repr

/-- A STEP n in progress (R112, R123). `got` counts confirmed tokens; `ended` is the ending status already met by a
sampled token; `buf` is the draft buffer as the latest read returned it (`some none`: failed). -/
structure StepReq where
  n      : BitVec 16
  draft  : BitVec 2
  addr   : W64
  got    : Nat := 0
  mark   : BitVec 4 := 0
  stop   : BitVec 4 := 0
  ended  : Option (BitVec 8) := none
  inStep : Bool := false
  buf    : Option (Option Bytes) := none
deriving DecidableEq, Repr

/-- A prefill in progress: a PREFILL instruction's, or a recompute's (R101 to R106, R156). -/
structure PfReq where
  amode     : BitVec 2
  slot      : BitVec 10
  ver       : BitVec 16
  recompute : Bool := false
  started   : Bool := false
  pos       : Nat := 0
  fin       : Nat := 0
  /-- the position that confirmed chunks reach -/
  conf      : Nat := 0
  grain     : Nat := 0
  /-- grains of the chunk in progress have run but wait for their confirm slot -/
  waiting   : Bool := false
  poison    : Bool := false
  spilled   : Bool := false
  /-- the NT of the PREFILL -/
  nt        : Nt := 0
  /-- the position at which the prefill began (R79, R80) -/
  first     : Nat := 0
deriving DecidableEq, Repr

/-- A park in progress (R153, R165). -/
structure Park where
  byEvict  : Bool := false
  nt       : Nt := 0
  tested   : Bool := false
  extent   : Bool := false
  bytes    : Nat := 0
  waited   : Bool := false
deriving DecidableEq, Repr

/-- A revive in progress (R156 to R160); `pf` keeps a PREFILL whose turn has not started while a recompute runs. -/
structure Revive where
  cause    : BitVec 2 := 0
  /-- an event of wait_mask was delivered during it (R37) -/
  hit      : Bool := false
  rc       : Bool := false
  reserved : Bool := false
  read     : Bool := false
  pf       : Option PfReq := none
  /-- the NT of REVIVE_BEGIN -/
  nt       : Nt := 0
deriving DecidableEq, Repr

/-- What this device as sender holds of a migration (R176). -/
structure MigOut where
  target   : BitVec 6
  kvmode   : Bool
  sub      : Option Sub := none
  handoff  : Bool := false
  answered : Bool := false
  due      : Nt := 0
  refused  : BitVec 8 := 0
deriving DecidableEq, Repr

/-- A root entry (R64) with its directory, leaf and ring tables (R65), for one logical shard of one root index. -/
structure Root where
  dir      : W64 := 0
  ringt    : W64 := 0
  kvLen    : BitVec 32 := 0
  pages    : BitVec 32 := 0
  ring     : Bool := false
  wPages   : BitVec 16 := 0
  head     : BitVec 16 := 0
  pfxNode  : BitVec 32 := 0
  pfxBound : BitVec 32 := 0
  share    : Bool := false
  histFull : Bool := false
  hist     : List W64 := [0, 0, 0, 0, 0, 0, 0, 0]
  dirs     : SMap W64 := []
  ptes     : SMap W64 := []
  rptes    : SMap W64 := []
deriving DecidableEq, Repr

/-- What a parked extent holds of one shard (R154): the root entry, linear pieces by page and ring pieces by slot, each
with its poison. -/
structure ExtShard where
  shard : Nat
  root  : Root
  pages : SMap (SMap Byte × Bool) := []
  rings : SMap (SMap Byte × Bool) := []
deriving DecidableEq, Repr

/-- A session: its record, the ticket shadow (R279), the session area (R149), the token log (R150), the program context
(R251, R252) and what is in progress. -/
structure Sess where
  r        : Rec := {}
  /-- the share flag of ADMIT, which a root entry takes at its creation (R64) -/
  share    : Bool := false
  /-- the NT at which its AIX SESSION entry was written (R332) -/
  born     : Nt := 0
  pendIn   : BitVec 32 := 0
  seen     : BitVec 16 := 0
  fwd      : W64 := 0
  stack    : List (BitVec 16) := []
  logbuf   : List (BitVec 32) := []
  held     : Bytes := []
  relOff   : Nat := 0
  rest     : BitVec 4 := 0
  durable  : BitVec 32 := 0
  /-- the token log from index 0, with the parent's prefix of a FORK child below fork_index; `durable` of its entries are
  durable in the Granary, and `logbuf` holds the session's own that are not (R149, R151) -/
  log      : List (BitVec 32) := []
  logBad   : List Nat := []
  /-- while a flush is in progress -/
  flushing : Bool := false
  runnable : Bool := false
  /-- the NT at which the context became runnable or went to the back of its queue (R252) -/
  since    : Nt := 0
  blk      : Option Blk := none
  stepReq  : Option StepReq := none
  pfReq    : Option PfReq := none
  actions  : List Sub := []
  relHeld  : Option (BitVec 16) := none
  dropHeld : Bool := false
  /-- held commands that came before a DROP of the program's own which is held -/
  dropPos  : Nat := 0
  intakes  : Nat := 0
  waitHit  : Bool := false
  park     : Option Park := none
  parkSubs : List Sub := []
  revive   : Option Revive := none
  revSubs  : List Sub := []
  demote   : Bool := false
  migOut   : Option MigOut := none
  /-- events queued while MIGRATING (R178) -/
  queued   : BitVec 16 := 0
  /-- the owner mismatch's probe: receiver and the NT of the next PROBE (R180) -/
  probe    : Option (BitVec 6 × Nt) := none
  /-- bytes of the parked extent this device holds, with its root copies' poison -/
  extent   : Option (Nat × Bool) := none
  /-- the header of an extent written here (R154) -/
  exthdr   : Bytes := []
  kvx      : List ExtShard := []
  /-- the session area in the parked extent (R149, R154) -/
  xarea    : Bytes := []
deriving DecidableEq, Repr

/-! ### Cached attention state (03_kv_state.md) -/

/-- A page frame (R55, R56): its reference count (R75), its bytes, trailer included, and its poison. -/
structure PFrame where
  refs   : BitVec 32 := 0
  data   : SMap Byte := []
  poison : Bool := false
deriving DecidableEq, Repr

/-- A prefix node (R78). -/
structure Node where
  parent   : BitVec 32
  tenant   : BitVec 24
  slot     : BitVec 10
  ver      : BitVec 16
  none     : Bool
  fmt      : BitVec 4
  page     : BitVec 32
  refs     : BitVec 32 := 0
  touch    : Nt
  gframe   : List (BitVec 32)
  wframe   : List (BitVec 32)
  children : BitVec 32 := 0
  hash     : W64
  toks     : List (BitVec 32)
deriving DecidableEq, Repr

/-- Cached attention state: root entries by (root index × 64 + shard), frames by (class × 2^32 + index), table-pool
frames, prefix nodes, frames reserved for admitted work by (root index × 64 + place of the shard on the device) (R74), bucket thresholds in
force (R89), nodes with a poisoned frame (R82), and the partitions' spill areas by (partition × 2048 + logical stone): a stone's scratch
with its poison (R217). -/
structure Kv where
  roots    : SMap Root := []
  frames   : SMap PFrame := []
  tables   : SMap Nat := []
  nodes    : SMap Node := []
  resvG    : SMap Nat := []
  resvW    : SMap Nat := []
  buckets  : List Nat := (List.range 15).map (2 ^ ·)
  gTotal   : Nat := 0
  wTotal   : Nat := 0
  badNodes : List (BitVec 32) := []
  spill    : SMap (SMap (BitVec 512) × List Nat) := []
deriving DecidableEq, Repr

/-! ### Host interface (11_host_cxl.md) -/

/-- Counts of a command window (R282). -/
structure Win where
  taken   : W64 := 0
  refused : W64 := 0
  disc    : W64 := 0
deriving DecidableEq, Repr

/-- A completion or stream record without its phase (R137, R283), the session it belongs to, and for a record that goes
out in an envelope its tenant, NSI and payload length (R427). -/
structure Rcd where
  data : Bytes
  h    : Option Handle
  stop : Bool := false
  env  : Option (BitVec 24 × W64 × Nat) := none
deriving DecidableEq, Repr

/-- A record ring (R139, R283): the consumed word last read, whether a read of it is out, the backlog. -/
structure Ring where
  consumed : BitVec 32 := 0
  reading  : Bool := false
  retryAt  : Option Nt := none
  backlog  : List Rcd := []
deriving DecidableEq, Repr

/-- A vector (R286): records of its ring not yet signalled and the NT of the first; its entry of the MSI-X table, masked at reset, and
its pending bit (log 5). -/
structure Irq where
  count : Nat := 0
  since : Option Nt := none
  addr  : W64 := 0
  data  : BitVec 32 := 0
  masked : Bool := true
  pend  : Bool := false
deriving DecidableEq, Repr

/-- What waits on a CXL.cache read. -/
inductive RdWait where
  | image (s : Sub)
  | draft (h : Handle)
  | qreq (who : QWho) (op : BitVec 8) (idx : Nat) (nt : Nt)
  | openBlk (s : Sub)
  | sealed (h : Handle) (s : Sub)
  | nonce (s : Sub)
  | ownerKey (s : Sub)
deriving DecidableEq, Repr

/-- What waits on a CXL.cache write: the session whose stream record it is, the ring vector it counts for, the command
it completes with its status and detail, the blocked Quern instruction it ends with its result, and a granule to be
written once this write is visible (R351). -/
structure WrWait where
  addr   : W64
  data   : Bytes
  sess   : Option Handle := none
  vec    : Option (BitVec 6) := none
  sub    : Option (Sub × BitVec 32) := none
  status : BitVec 8 := 0
  ins    : Option (Handle × W64 × Nat) := none
  first  : Option (W64 × Bytes) := none
  failed : Bool := false
  retryAt : Nt := 0
deriving DecidableEq, Repr

/-- What waits on a Granary write's durability. -/
inductive DurWait where
  | intake (h : Handle) (s : Option Sub) (toks : List (BitVec 32)) (mirror : Bool)
  | intakeMirror (h : Handle) (s : Option Sub) (toks : List (BitVec 32))
  /-- so many entries of logbuf -/
  | flush (h : Handle) (n : Nat)
  | extent (h : Handle)
  /-- the extent of a root index of another owner -/
  | foreign (root : BitVec 32)
  | image (s : Sub) (d : ReadData)
  | staged (slot : BitVec 10) (ver : BitVec 16) (src : BitVec 6)
  | mirror (sk : BitVec 128)
  | quern (idx : Nat) (item : BitVec 32)
  /-- a delta of the buddy's cut; `ok` says that its units were allocated -/
  | buddy (src : BitVec 6) (epoch : BitVec 32) (ok : Bool)
deriving DecidableEq, Repr

/-- An intake waiting for Hopper (R98), from a command or an instruction; a sealed one with its counter and plaintext
segments (R426). -/
structure IntakeReq where
  h     : Handle
  nt    : Nt
  w     : BitVec 9
  sub   : Option Sub
  addr  : W64
  count : Nat
  tok   : Option (BitVec 32)
  segs  : Option (W64 × List (BitVec 8 × Bytes)) := none
  /-- false while the buffer of a sealed intake is being read -/
  ready : Bool := true
deriving DecidableEq, Repr

/-- A stop set (R127). -/
structure StopSet where
  strs : List Bytes
  toks : List (BitVec 32)
  img  : Bytes
deriving DecidableEq, Repr

/-- A version of an adapter slot (R102, R104): its commit NT, the NT at which it stopped being current, its
coordinator, the devices' latest reports, the free NT proposed, and the turns held. -/
structure AdVer where
  ver      : BitVec 16
  commit   : Option Nt
  ended    : Option Nt := none
  coord    : BitVec 6
  staged   : List (BitVec 6) := []
  reports  : List (BitVec 6 × Bool) := []
  counts   : List (BitVec 6 × Bool) := []
  freeAt   : Option Nt := none
  counted  : Bool := false
  sub      : Option Sub := none
  secver   : BitVec 32 := 0
  image    : Bytes := []
deriving DecidableEq, Repr

/-- An adapter slot: live versions in load order, loads held (R102), the last number assigned. -/
structure AdSlot where
  vers : List AdVer := []
  heldLoads : List (Sub × BitVec 32 × Bytes) := []
  last : BitVec 16 := 0
deriving DecidableEq, Repr

/-- The images the device holds (R96, R102, R116, R127, R223, R247). -/
structure Images where
  progs    : SMap (List W64) := []
  stopSets : SMap StopSet := []
  grams    : SMap Grammar := []
  adapters : SMap AdSlot := []
  models   : List Model := []
  plans    : SMap (List Plan) := []
deriving DecidableEq, Repr

/-! ### The mill group (04_decode_step.md, 09_mill_plans_molair.md, 15_integrity.md) -/

/-- A token sampled and appended in a step, not yet confirmed (R109, R119, R134). -/
structure Samp where
  tok     : BitVec 32
  index   : BitVec 32
  stopHit : Option (BitVec 4)
  mark    : BitVec 4
  tokOff  : BitVec 8
  payload : Bytes
  disc    : Nat
  ends    : Option (BitVec 8)
  gState  : BitVec 20
  gStack  : List (BitVec 16)
  held    : Bytes
  rel     : Nat
deriving DecidableEq, Repr

/-- One session's part in a step (R108, R109). -/
structure Run where
  h       : Handle
  root    : BitVec 32
  k       : Nat
  first   : BitVec 32
  inputs  : List (BitVec 32)
  bucket  : BitVec 8
  samps   : List Samp := []
  done    : Bool := false
  dead    : Bool := false
  poison  : Bool := false
deriving DecidableEq, Repr

/-- A prefill's grains in a step: the session, the root index and the positions of the chunk they belong to, and the position the chunk
reaches when its commit grain ran. -/
structure PfRun where
  h      : Handle
  commit : Option Nat
  poison : Bool := false
  root   : BitVec 32 := 0
  first  : Nat := 0
  count  : Nat := 0
deriving DecidableEq, Repr

/-- A step in flight: its counter, start boundary, own runs, prefill work, all admission records of the group, own
check result, and its place in a replay (0 original, 1 replay of s, 2 replay of s + 1). -/
structure StepRun where
  step    : BitVec 48
  start   : Nt
  runs    : List Run := []
  pfs     : List PfRun := []
  adms    : List AdmRec := []
  /-- the chunks of the group's prefills whose grains run in the step, in the order of their grants: root index, first position, length -/
  chunks  : List (BitVec 32 × Nat × Nat) := []
  chkOk   : Bool := true
  replay  : BitVec 2 := 0
  retire  : List (BitVec 11) := []
deriving DecidableEq, Repr

/-- An armed injection point (R391). -/
structure Inj where
  point : BitVec 8
  mode  : BitVec 8
  count : Nat
  a     : BitVec 32
  b     : W64
  nt    : Nt
deriving DecidableEq, Repr

/-- The device's place in its mill group, the steps in flight, the frames gathered for the next boundary, prefill
buckets in ns per partition, evictions in force. -/
structure Grp where
  cur      : Option StepRun := none
  prev     : Option StepRun := none
  frames   : List BFrame := []
  /-- dimensions in which the boundary frames held have gone out (R226, R240) -/
  bsent    : Nat := 0
  ready    : Option Nt := none
  retracts : Nat := 0
  evicting : Bool := false
  resFail  : Bool := false
  pBucket  : List Nat := List.replicate 16 0
  pLast    : Nt := 0
  pGrants  : List (BitVec 16) := List.replicate 16 0
  /-- PARTCTLp.mode in force in the open or latest prefill window (R218) -/
  pModes   : List Nat := List.replicate 16 0
  /-- partitions whose prefill window of the step has opened and has ended, and those whose latest window ended with a chunk unfinished
  and mode 0 (R217, R218) -/
  opened   : List Nat := []
  closed   : List Nat := []
  unfin    : List Nat := []
  /-- logical stones that host software has named for retirement at the next boundary (R212, R213) -/
  retireQ  : List (BitVec 11) := []
  largestPark : Nat := 0
  /-- staging transfers landed in the step, by die and index (R146, R147) -/
  landed   : List (Nat × Nat) := []
  /-- per die: transfers issued of its schedule, and the layer being computed -/
  issued   : List (Nat × Nat) := [(0, 0), (0, 0), (0, 0), (0, 0)]
  /-- logical stones whose STEPEND has issued, by bit (R266) -/
  stepEnds : BitVec 2048 := 0
  /-- ids whose GCOMMIT has issued, with whether it was a COMMIT grain's: a chunk's (R266 to R268) -/
  commits  : List (Bool × BitVec 32) := []
deriving DecidableEq, Repr

/-- A recomposition in progress (R172 to R174). -/
structure Recomp where
  slot    : BitVec 3
  demote  : Bool
  eff     : Nt
  sub     : Option Sub
  begun   : Bool := false
  switched : Bool := false
  /-- the device has followed to the new plan set and waits for the first boundary of the last new group (R174) -/
  active  : Bool := false
  /-- the device's own group is the one new group of the plan set (R174) -/
  lone    : Bool := false
deriving DecidableEq, Repr

/-- What this device stages of a migration into its group (R176): as receiver with the offer; the new root index and
message id of its shard completion, whether that completion has gone out, group positions whose completion has come. -/
structure MigIn where
  src     : BitVec 6
  offer   : Option OfferMsg
  root    : BitVec 32
  id      : BitVec 32 := 0
  parts   : List PartBody := []
  fin     : Bool := false
  told    : Bool := false
  from_   : List (BitVec 6) := []
  /-- Granary units reserved for a moved extent (R176) -/
  units   : Nat := 0
  lastNt  : Nt
deriving DecidableEq, Repr

/-- KV travels with the migration: cross-group, kvmode 0 (R175). A staging without offer only takes shards. -/
def MigIn.carries (m : MigIn) (same : Bool) : Bool := match m.offer with
  | none => true
  | some o => !o.kvmode && !same

/-- A mirrored session held for a prefill pool's owner (R182). -/
structure Mirror where
  src : BitVec 6
  m   : MirrorMsg
deriving DecidableEq, Repr

end Sys2Proof.Machine
end

