-- ==== Sys2Proof/Machine/TypesB.lean ====
section
/-! DEFINITION. The types of the state of keys and sealed contexts (17_security.md), of cuts and recovery
(16_checkpoint.md), and of Sluice (14_sluice.md), as plain data. -/

namespace Sys2Proof.Machine

/-- An open sealed context (R425 to R427): K, the highest input counter accepted, the last output counter used. -/
structure SealCtx where
  k      : BitVec 256
  inCtr  : W64 := 0
  outCtr : W64 := 0
deriving DecidableEq, Repr

/-- A key rotation (R432): phase 0 waits for its boundary, 1 ROTATING, 2 DRAINING; units still to be rewritten. -/
structure Rot where
  phase : BitVec 2
  newG  : BitVec 16
  sub   : Option Sub
  left  : List (BitVec 32) := []
deriving DecidableEq, Repr

/-- A provisioning request waiting for the next cold reset (R423). -/
structure Prov where
  profile : Bool
  erase   : Bool
  key     : Option Bytes
deriving DecidableEq, Repr

/-- Keridy: contexts by tenant, rotations by handle, whether fresh randomness is refused, the retained boot log with
its count and chain digest (R420), the provisioning request, the secver of the running firmware, a partition whose PARTCLEAR is being carried out (R438). -/
structure Sec where
  ctx     : SMap SealCtx := []
  rots    : SMap Rot := []
  trngBad : Bool := false
  log     : List Bytes := []
  logCnt  : Nat := 0
  digest  : BitVec 256 := 0
  prov    : Option Prov := none
  fwSec   : BitVec 32 := 0
  clear   : Option (BitVec 4) := none
deriving DecidableEq, Repr

/-- A cut image (R397): step, NT, what the cut holds, and the set_id of the active plan set (R402). -/
structure CutImg where
  epoch    : BitVec 32
  step     : BitVec 48
  nt       : Nt
  sess     : SMap Sess
  gens     : SMap (BitVec 16)
  kv       : Kv
  deferred : List (Nat × Nat × BitVec 32)
  setId    : BitVec 32 := 0
deriving DecidableEq, Repr

/-- A sender's migration log entry (R412): the released session, the receiver and its NSI, the NT of the ACK,
the deferred KV, whether SETTLED has gone out. -/
structure MigSend where
  sess   : Sess
  target : BitVec 6
  nsi    : W64
  nt     : Nt
  kv     : List ExtShard := []
  told   : Bool := false
deriving DecidableEq, Repr

/-- A receiver's claim entry (R412). -/
structure MigClaim where
  sk    : BitVec 128
  src   : BitVec 6
  epoch : BitVec 16
  nt    : Nt
  told  : Bool := false
deriving DecidableEq, Repr

/-- Cuts, drains and restores: the epoch of the latest cut taken, its NT and step, the images held, newest first, the
epochs every position has reported held, commands waiting for a forced cut, whether a due cut waits (CKPTLATE counted),
the buddy copies by epoch with their pages and whether their manifest is written, the buddy's Granary copies, own slots
A and B, the slot write in progress, deferred releases (kind, key, epoch at release), migration logs, the NT of fault
entry, a restore asked for with its command, a restore applied whose completion waits for the first boundary (mode and
epoch), sessions to revive after a takeover, records with companion and session area to adopt as handles free, and the token records
emitted since the oldest image held, by NSI and index, with whether they were late (R142). -/
structure Ckpt where
  epoch    : BitVec 32 := 0
  lastNt   : Nt := 0
  lastStep : BitVec 48 := 0
  imgs     : List CutImg := []
  held     : SMap (BitVec 32) := []
  forced   : List Sub := []
  wait     : List (BitVec 32 × Sub) := []
  late     : Bool := false
  first    : Bool := true
  bcopies  : List (BitVec 32 × SMap Bytes × Bool) := []
  bkv      : List (BitVec 32 × SMap Bytes) := []
  slotA    : Option CutImg := none
  slotB    : Option CutImg := none
  writing  : Option (Bool × CutImg) := none
  deferred : List (Nat × Nat × BitVec 32) := []
  sends    : List MigSend := []
  claims   : List MigClaim := []
  faultNt  : Option Nt := none
  restore  : Option (Nat × Option Sub) := none
  done     : Option (Nat × BitVec 32 × Option Sub) := none
  lazy     : List Handle := []
  adoptq   : List (Bytes × Bytes × Bytes) := []
  lates    : List (W64 × BitVec 32 × Bool) := []
deriving DecidableEq, Repr

/-- An entry of the ROUTE table (R326): destination and its masked bits, first and second physical port. -/
structure RouteEnt where
  dst    : BitVec 6
  mask   : BitVec 6
  first  : BitVec 4
  second : BitVec 4
deriving DecidableEq, Repr

/-- AIX (R331, R335): the main bank being copied into bank 16, the bank that bank 16 replaces, banks that failed, ADMIT
commands held by an uncertain lookup, the ROUTE table by entry (R333). -/
structure Aix where
  swap  : Option Nat := none
  spare : Option Nat := none
  bad   : List Nat := []
  held  : List Sub := []
  route : SMap RouteEnt := []
deriving DecidableEq, Repr

/-! ### Messages and Sluice -/

/-- Dynamic messages between devices (R244). -/
inductive Msg where
  | offer (m : OfferMsg)
  | accept (sk : BitVec 128)
  | refuse (sk : BitVec 128) (reason : BitVec 8)
  | part (sk : BitVec 128) (b : PartBody)
  | ack (sk : BitVec 128) (epoch : BitVec 16) (nsi : W64)
  | probe (sk : BitVec 128) (epoch : BitVec 16)
  | probeReply (sk : BitVec 128) (held : Option (BitVec 16))
  | release (sk : BitVec 128) (epoch : BitVec 16)
  | event (nsi : W64) (bit : BitVec 4)
  | mirror (m : MirrorMsg)
  | adapter (m : AdapterMsg)
  | drainPage (epoch : BitVec 32) (page : Nat) (data : Bytes) (last : Bool)
  | drainDone (epoch : BitVec 32)
  | drainSettled (sk : BitVec 128)
  | drainRestored (cutNt : Nt)
  | buddy (epoch : BitVec 32) (key : Nat) (data : Bytes)
deriving DecidableEq, Repr

/-- What a Sluice queue holds: a message with its destination and id, a frame to forward, a Granary write by its id, the read
of a session's extent. -/
inductive SlLoad where
  | msg (dst : BitVec 6) (id : BitVec 32) (m : Msg)
  | frame (f : Frame)
  | grn (id : Nat)
  | ext (h : Handle)
  /-- the reload of a 64 KiB weight unit from its model image -/
  | weight
deriving DecidableEq, Repr

/-- The context of a running check that an interruption has saved (R371): 16 bytes, with a CRC of its own. -/
structure RunCtx where
  value : W64
  count : BitVec 32
  crc   : BitVec 32
deriving DecidableEq, Repr

/-- An item: enqueue NT, uncounted bytes of its head and of what follows the head (R356, R357), the context of its running check once it
has begun, and whether a context of it has failed (R371). -/
structure SlItem where
  enq  : Nt
  head : Nat
  rest : Nat := 0
  load : SlLoad
  ctx  : Option RunCtx := none
  bad  : Bool := false
deriving DecidableEq, Repr

/-- Sluice (R356 to R366): queues by port × 16 + queue and by Granary class (0 to 11, 12 WEIGHT), tokens of the port,
queue, class and partition shapers, policer buckets in millionths, deficits by path × 16 + queue, pointers and the queue being
served (plus 1) by path (a port, 16 Granary write, 17 Granary read, 18 host records), the queue that the latest bytes of a path were of
(plus 1), register values in force where they differ
from the registers with the NT of the write (R359), the NT of the latest refill and sample. -/
structure Sluice where
  dyn   : SMap (List SlItem) := []
  grn   : SMap (List SlItem) := []
  dTok  : SMap Int := []
  qTok  : SMap Int := []
  gTok  : SMap Int := []
  hTok  : SMap Int := []
  pol   : SMap Nat := []
  defi  : SMap Nat := []
  ptr   : SMap Nat := []
  serv  : SMap Nat := []
  last  : SMap Nat := []
  force : SMap (W64 × Nt) := []
  lastRefill : Nt := 0
  lastSample : Nt := 0
deriving DecidableEq, Repr

end Sys2Proof.Machine
end

