-- ==== Sys2Proof/Machine/TypesC.lean ====
section
/-! DEFINITION. The types of the state of the Granary controller (12_granary_ftl.md) and of Quern (13_search.md), as
plain data. -/

namespace Sys2Proof.Machine

/-! ### Granary -/

/-- A place on flash: die, block, physical unit (R301). -/
structure Place where
  die   : Nat
  block : Nat
  unit  : Nat
deriving DecidableEq, Repr

/-- An allocated logical unit (R294, R298, R299, R301): its object and place in the object, kind, place on flash once
mapped there, whether it waits in the tun and is complete, poison, key generation, write sequence. -/
structure GUnit where
  key    : Nat
  idx    : Nat
  kind   : BitVec 4
  loc    : Option Place := none
  inTun  : Bool := true
  full   : Bool := true
  poison : Bool := false
  keygen : BitVec 16 := 0
  seq    : W64 := 0
deriving DecidableEq, Repr

/-- An object (R294, R296): its units in order; for a log, its parent's log with fork_index, and whether it was freed. -/
structure GObj where
  units  : List Nat := []
  parent : Option (Nat × Nat) := none
  dead   : Bool := false
  /-- the place of the first unit in the object: above 0 where a FORK child's log begins in a later one (R48) -/
  base   : Nat := 0
deriving DecidableEq, Repr

/-- A physical unit of a block: its metadata (R299) and, for a GC copy, the place it was copied from (R313). -/
structure Slot where
  unit   : Nat
  src    : Option Place := none
  kind   : BitVec 4 := 0
  keygen : BitVec 16 := 0
  seq    : W64 := 0
deriving DecidableEq, Repr

/-- A block that is not free: a data or parity block of a stripe, or a bad block (R308 to R314, R320). -/
structure GBlk where
  parity   : Bool := false
  gc       : Bool := false
  stripe   : Nat := 0
  closed   : Bool := false
  verified : Bool := false
  bad      : Bool := false
  lost     : Bool := false
  victim   : Bool := false
  closeNt  : Nt := 0
  reads    : Nat := 0
  slots    : List Slot := []
deriving DecidableEq, Repr

/-- A die's free data-pool blocks and its spare pool (R292, R311). -/
structure GDie where
  free  : List Nat
  spare : List Nat
deriving DecidableEq, Repr

/-- A stripe that holds parity: stream (0 LOG, 1 BULK, 2 GC), group, 15 data blocks as (die, block), the parity block,
physical units written, blocks not yet verified (R308, R309). -/
structure Stripe where
  stream : Nat
  group  : Nat
  data   : List (Nat × Nat)
  parity : Nat × Nat
  count  : Nat := 0
deriving DecidableEq, Repr

/-- A map journal record (R307): the logical unit and its old and new map entries. -/
structure JMap where
  unit : BitVec 32
  old  : BitVec 32
  new  : BitVec 32
deriving DecidableEq, Repr

/-- A drain slot: the units of the tun that it holds, and its manifest, a paired word (R300). -/
structure DrainSlot where
  units    : List Nat := []
  manifest : W64 := 0
deriving DecidableEq, Repr

/-- The extent of a session of another owner of the group, for the shards that this device runs (R21, R154): NSI and key generation of the
order, header, pieces. -/
structure FExt where
  nsi    : W64
  keygen : BitVec 16
  hdr    : Bytes
  exts   : List ExtShard
  /-- the extent is committed -/
  done   : Bool := false
deriving DecidableEq, Repr

/-- The Granary controller: objects by key, logical units, the order of the tun, blocks by die × 16384 + block, dies that
differ from manufacture, erase counts, stripes by serial number, the open stripe of stream × 16 + group, stripes a group
has opened, objects renamed for deferred release, the next write sequence, journal bytes since the newer checkpoint with their records,
which checkpoint slot is newer, pages waiting for a rebuild, the NT of the latest traffic, the weirs in force, which drain slot was used
last and what it holds, and whether the last shutdown was clean (R291 to R323). -/
structure Gran where
  objs    : SMap GObj := []
  units   : SMap GUnit := []
  tun     : List Nat := []
  /-- units that wait for room in the tun (R298) -/
  queue   : List Nat := []
  blks    : SMap GBlk := []
  dies    : SMap GDie := []
  erases  : SMap Nat := []
  stripes : SMap Stripe := []
  opened  : SMap Nat := []
  turns   : SMap Nat := []
  nextStr : Nat := 0
  serial  : Nat := 0
  wseq    : W64 := 0
  journal : Nat := 0
  jlog    : List JMap := []
  ckptB   : Bool := false
  /-- the checkpoint slots A and B: the map they hold, none without a valid manifest (R307) -/
  ckA     : Option (SMap (BitVec 32)) := none
  ckB     : Option (SMap (BitVec 32)) := none
  /-- the hot set: pages used since the start, most recent first, and pages of those that filled it then which have been evicted; the slot
  of a page of the host region, where it is not that of the start (R303) -/
  hot     : List Nat := []
  cooled  : List Nat := []
  slots   : SMap Nat := []
  rebuild : List Nat := []
  lastNt  : Nt := 0
  weir    : Nat × Nat × Nat := (60, 25, 8)
  drainB  : Bool := false
  drain   : Option DrainSlot := none
  started : Bool := false
  /-- extents of sessions of other owners, by root index -/
  fext    : SMap FExt := []
deriving DecidableEq, Repr

/-! ### Quern -/

/-- A node (R341): item, ins_nt, del_nt, code and full vector; `bad` marks a poisoned code or node record (R353). -/
structure QNode where
  item : BitVec 32
  ins  : Nt
  del  : Nt := 0xFFFFFFFFFFFFFFFF
  code : Bytes
  vec  : Bytes
  bad  : Bool := false
deriving DecidableEq, Repr

/-- A graph generation (R352): its number, its commit NT, its entry node, the adjacency of every node it holds, the
nodes whose adjacency block is poisoned. -/
structure QGen where
  gen   : BitVec 32 := 0
  nt    : Nt := 0
  entry : Option Nat := none
  adj   : SMap (List Nat) := []
  badAdj : List Nat := []
deriving DecidableEq, Repr

/-- A request block (R340). -/
structure QReq where
  op     : Nat
  widen  : Bool
  rerank : Bool
  brute  : Bool
  k      : Nat
  lim    : Nat
  r      : Nat
  filter : Nat
  expand : Nat
  item   : BitVec 32
  result : W64
  vec    : Bytes
deriving DecidableEq, Repr

/-- A search waiting or taken (R345): intake NT and window, the index; its start NT, its pinned generation, filter and
codebook-independent snapshot once taken. -/
structure QSearch where
  who   : QWho
  idx   : Nat
  nt    : Nt
  w     : Nat
  req   : QReq
  start : Nt := 0
  gen   : QGen := {}
  filt  : SMap Byte := []
deriving DecidableEq, Repr

/-- An insert or delete in order of intake (R342 to R344): its request once read, its node once the full vector is
being written. -/
structure QEdit where
  who  : QWho
  nt   : Nt
  w    : Nat
  req  : Option QReq := none
  node : Option Nat := none
deriving DecidableEq, Repr

/-- An index (R337, R338): parameters, codebook, nodes, side list, generations (current first), filters with the NT of each change and the
bitmap's non-zero bytes, edits waiting, the merge in progress with its start NT and command, commands waiting for a merge, a
QDESTROY waiting, requests not yet read. -/
structure QIdx where
  dim     : Nat
  fmt     : Nat
  metric  : Nat
  m       : Nat
  r       : Nat
  cap     : Nat
  tenant  : BitVec 24
  part    : BitVec 4
  sideCap : Nat
  book    : Bytes := []
  ready   : Bool := true
  nodes   : SMap QNode := []
  side    : List Nat := []
  gens    : List QGen := [{}]
  filters : SMap (List (Nt × SMap Byte)) := []
  edits   : List QEdit := []
  merge   : Option (Nt × List Sub) := none
  want    : List Sub := []
  destroy : Option Sub := none
  reading : Nat := 0
deriving DecidableEq, Repr

/-- Quern (R345): indexes, searches waiting in order and taken, the QMEM of the latest plan load. -/
structure Quern where
  idx     : SMap QIdx := []
  waiting : List QSearch := []
  taken   : List QSearch := []
  mem     : Nat := 0
deriving DecidableEq, Repr

end Sys2Proof.Machine
end

