-- ==== Sys2Proof/Machine/TypesD.lean ====
section
/-! DEFINITION. The types of the state of supplies, power domains and cooling (18_module_power.md) and of node formation
and node time (19_bringup.md), as plain data. -/

namespace Sys2Proof.Machine

/-- Supplies, domains and the Brake governor (R453 to R470): inputs in regulation (bit order of PWRINi), the levels of
PERST# and PWRBRK#, PWR_OK, rails off after a power-loss sequence, a thermal trip whose conditions for restart are open
with whether PERST# has been asserted since, wake tokens in W, wake requests waiting with their NT and domain, the NT
before which no token is granted, the last 1 ms windows (newest first: four currents in 10 mA, four powers in 0.1 W), injected temperature offsets
(die or 8 + stack, °C, end) with the measured temperatures they add to, the end of an injected PWRBRK#, the NT of the
latest voltage step, whether the present reduction holds grain issue, and the NT at which each cluster domain last issued a slot (R463). -/
structure Power where
  inReg    : BitVec 4 := 1
  perst    : Bool := true
  brkPin   : Bool := false
  ok       : Bool := false
  off      : Bool := false
  trip     : Bool := false
  tripPerst : Bool := false
  tokens   : Int := 0
  reqs     : List (Nt × Nat) := []
  grantAt  : Nt := 0
  windows  : List (List Nat) := []
  offs     : List (Nat × Nat × Nt) := []
  brkInj   : Option Nt := none
  lastV    : Nt := 0
  hold     : Bool := false
  issued   : SMap Nt := []
deriving DecidableEq, Repr

/-- Node formation and node time (R479 to R493): the NT of PERST# deassertion, whether the start is a warm one, the NT at
which BOOT, LINK and ELECT were done, the boots begun, grn_go written and the GRANARY stage started, the peer heard on each port (slot, port), the
topology records held, with rounds that added nothing and whether the present one has added, the map digest sent with its
NT, fine exchanges within ±2 ns in succession, the NT of the latest fine and coarse frames, of entry into holdover and its
expiry, the end of an injected FINE_DROP, whether the CXL link is down after a port reset (R477), and the plan slot active at the last
shutdown. -/
structure Form where
  t0      : Nt := 0
  warm    : Bool := false
  bootNt  : Nt := 0
  linkNt  : Nt := 0
  electNt : Nt := 0
  boots   : Nat := 0
  grnGo   : Bool := false
  grnOn   : Bool := false
  heard   : SMap (BitVec 7 × BitVec 4) := []
  recs    : List TopoRec := []
  quiet   : Nat := 0
  added   : Bool := false
  digest  : Option (W64 × Nt) := none
  good    : Nat := 0
  fineNt  : Nt := 0
  coarseNt : Nt := 0
  holdNt  : Option Nt := none
  expired : Bool := false
  dropNt  : Nt := 0
  portDown : Bool := false
  lastSlot : Option (BitVec 3) := none
  /-- a plan-set slot is active (R491) -/
  slotOn  : Bool := false
deriving DecidableEq, Repr

end Sys2Proof.Machine
end

