-- ==== Sys2Proof/Machine/State.lean ====
section
/-! DEFINITION. The state of one module: everything the spec gives it, as plain data, and the state after reset. -/

namespace Sys2Proof.Machine

/-! ### Time, diagnostics (20_timing_diagnostics.md) -/

/-- A session journal entry (R50). -/
structure JEnt where
  nt     : Nt
  nsi    : W64
  seq    : BitVec 32
  code   : BitVec 16
  states : BitVec 8
  status : BitVec 8
  data   : W64
deriving DecidableEq, Repr

/-- A device event record (R506), without its position. -/
structure DEnt where
  nt     : Nt
  code   : BitVec 16
  die    : BitVec 3
  status : BitVec 8
  seq    : BitVec 32
  data   : W64
  unsync : Bool
  device : BitVec 6
deriving DecidableEq, Repr

/-- A black-box copy in the Granary (R509): trigger NT and code, the rings copied; `valid` once its header is written. -/
structure BbSlot where
  nt    : Nt
  trig  : BitVec 16
  rings : List (List DEnt)
  valid : Bool
deriving DecidableEq, Repr

/-- The live counters of the diagnostics block (R513). -/
structure LiveCounts where
  busy    : List W64
  hold    : List W64
  steps   : W64
  stepNs  : W64
  idleNs  : W64
  stepMax : BitVec 32
deriving DecidableEq, Repr

/-- Journals, black box and live counters, with their values at the NT of a latch that is due (R11). Lists hold the newest entry first. -/
structure Diag where
  sj      : List JEnt := []
  sjCap   : Nat := 256 * 32768
  dj      : List DEnt := []
  djCap   : Nat := 16 * 32768
  rings   : List (List DEnt) := [[], [], [], [], []]
  seqs    : List (BitVec 32) := [0, 0, 0, 0, 0]
  slots   : SMap BbSlot := []
  newest  : Nat := 0
  copy    : Option (Nat × Option Sub) := none
  trigs   : List (Nt × Nat × Option Sub) := []
  busy    : List W64 := [0, 0, 0, 0]
  hold    : List W64 := [0, 0, 0, 0]
  steps   : W64 := 0
  stepNs  : W64 := 0
  idleNs  : W64 := 0
  stepMax : BitVec 32 := 0
  snapAt  : Option Nt := none
  snap    : Option LiveCounts := none
  snapSubs : List Sub := []
  stopped : List (BitVec 3 × BitVec 8) := []
deriving DecidableEq, Repr

/-- The live counters. -/
def Diag.live (d : Diag) : LiveCounts :=
  { busy := d.busy, hold := d.hold, steps := d.steps, stepNs := d.stepNs, idleNs := d.idleNs, stepMax := d.stepMax }

/-- Before the live counters take an event stamped `u`, those that a latch due at or before it reads are put by (R11, R513). -/
def Diag.putBy (d : Diag) (u : Nt) : Diag :=
  match d.snapAt, d.snap with
  | some a, none => if a ≤ u then { d with snap := some d.live } else d
  | _, _ => d

/-! ### What the device sends -/

/-- What the device puts on its connectors. -/
inductive Out where
  /-- the 64 bytes answering a CXL.mem load -/
  | load (b : Bytes)
  /-- a CXL.cache write and the id of its completion -/
  | hostWrite (id : Nat) (addr : W64) (data : Bytes)
  /-- a CXL.cache read and the id of its completion -/
  | hostRead (id : Nat) (addr : W64) (len : Nat)
  /-- the host region is filled with map pages at the Granary's start (R304): its base and their number -/
  | mapFill (base : W64) (pages : Nat)
  /-- a read of a ring's consumed word -/
  | wordRead (stream : Bool) (p : BitVec 4) (addr : W64)
  /-- BISnpInv of a line of the HDM region -/
  | inval (off : Nat)
  /-- an MSI-X message -/
  | msix (v : BitVec 6)
  /-- a wire frame on a physical port -/
  | frame (port : BitVec 4) (f : Frame)
  /-- a CONTROL frame on a physical port: code and argument -/
  | control (port : BitVec 4) (code : BitVec 8) (arg : BitVec 24)
  /-- a dynamic message with its message id, once its last frame is sent; `ok` says that its trailer is good -/
  | msg (dst : BitVec 6) (id : BitVec 32) (m : Msg) (ok : Bool)
  /-- the distribution of a RECOMPOSE to another active device (R276): slot, demote flag, effective NT -/
  | recompose (dst : BitVec 6) (slot : BitVec 3) (demote : Bool) (eff : Nt)
  /-- a node-formation message: topology record, map digest -/
  | topo (r : TopoRec)
  | digest (crc : W64)
  /-- a coarse frame on the node-time pair -/
  | coarse (edge : Nt) (master : BitVec 8) (flags : BitVec 8)
  /-- CONTROL frames of a link (R233): cumulative acknowledgment, NAK, credits of a queue, a lane swap; a fine exchange -/
  | ackTo (port : BitVec 4) (lseq : BitVec 32)
  | nakTo (port : BitVec 4) (lseq : BitVec 32)
  | creditTo (port : BitVec 4) (q : BitVec 4) (n : BitVec 8)
  | swapLane (port : BitVec 4) (lane : BitVec 4)
  | fine (port : BitVec 4)
  /-- an answer on SMBus -/
  | smbus (v : W64)
  /-- lines on the console UART -/
  | console (e : List DEnt)
  /-- a level on an output pin: 0 PWR_OK, 1 FAULT#, 2 THERMTRIP#, 3 SMB_ALERT# -/
  | pin (n : BitVec 2) (level : Bool)
deriving DecidableEq, Repr

/-- A Molair port (R232 to R236, R243): next link sequence numbers, the replay buffer of frames sent and not acknowledged, each with the
number of its resends, frames that wait for room in it, the NT of the latest frame received, credits by queue, the lane whose swap
onto the spare waits. -/
structure Port where
  sendSeq : BitVec 32 := 0
  recvSeq : BitVec 32 := 0
  replay  : List (Frame × Nat) := []
  waitq   : List Frame := []
  lastRx  : Nt := 0
  credits : List Nat := List.replicate 16 0
  swap    : Option (BitVec 4) := none
deriving DecidableEq, Repr

/-- The hub die and its memories: every piece of state but the command queue and the stones. -/
structure Hub where
  nt       : Nt := 0
  ntEver   : Bool := false
  free     : Nat := 0
  out      : List Out := []
  regs     : SMap W64 := []
  sess     : SMap Sess := []
  gens     : SMap (BitVec 16) := []
  wins     : SMap Win := []
  keySlots : SMap (BitVec 128) := []
  snoop    : List Handle := []
  cring    : SMap Ring := []
  sring    : SMap Ring := []
  irq      : SMap Irq := []
  nextId   : Nat := 0
  reads    : SMap RdWait := []
  writes   : SMap WrWait := []
  durs     : SMap DurWait := []
  hopq     : List IntakeReq := []
  quant    : List (Nt × Sub × BitVec 8 × BitVec 32 × W64) := []
  seqq     : List Handle := []
  seqMap   : List (BitVec 16) := (List.range 32).map (fun i => BitVec.ofNat 16 (pairOf 8 i))
  seqSpare : Nat := 0
  im       : Images := {}
  kv       : Kv := {}
  grp      : Grp := {}
  rcmp     : Option Recomp := none
  migIn    : SMap MigIn := []
  mirrors  : SMap Mirror := []
  diag     : Diag := {}
  msgId    : BitVec 32 := 0
  inj      : List Inj := []
  ports    : List Port := List.replicate 16 {}
  landing  : SMap (List (Bytes × Bool)) := []
  redOwn   : SMap (List (Bytes × Bool)) := []
  reasm    : SMap (List Frame) := []
  /-- check failures charged to physical stones (die × 576 + stone) with their NT (R387); stones retired (R212) -/
  resFails : List (Nat × Nt) := []
  retired  : List Nat := []
  /-- Millpond channels being copied to a spare and channels copied: stack, channel, spare (R381) -/
  chCopy   : List (Nat × Nat × Nat) := []
  chReady  : List (Nat × Nat × Nat) := []
  /-- a record has failed its check twice (R373) -/
  hubBad   : Bool := false
  /-- the FRU EEPROM on SMBus, writable only at the factory (R471) -/
  fru      : Vector (BitVec 8) 2048 := Config.fru
  sec      : Sec := {}
  ck       : Ckpt := {}
  sl       : Sluice := {}
  pw       : Power := {}
  nf       : Form := {}
  aix      : Aix := {}
  gr       : Gran := {}
  qn       : Quern := {}
deriving DecidableEq, Repr

/-! ### Stones -/

/-- One logical stone: its scratch lines (a key is a line, 512 bits), poisoned lines, matrix configuration, MMAI sums
held beside C lines, arrival counts by source, its open grain and its place in the step. -/
structure Stone where
  lines  : SMap (BitVec 512) := []
  poison : List Nat := []
  afmt   : BitVec 8 := 0
  bfmt   : BitVec 8 := 0
  sigma  : F32 := 0
  acc48  : SMap (BitVec 48) := []
  arr    : SMap Nat := []
  lrecv  : SMap (Nat × Nat) := []
  /-- the open grain: kind, declared steps, id, the step of its issue (R267) -/
  grain  : Option (BitVec 8 × BitVec 15 × BitVec 32 × Nat) := none
  /-- issue clock of R262: the step of the next issue, when each unit is free, lines still read or written and until
  when -/
  next   : Nat := 0
  /-- the issue clock at the start of the step, and the partition of the latest slice (R215, R437) -/
  base   : Nat := 0
  part   : Option (BitVec 4) := none
  unit   : List Nat := [0, 0, 0, 0]
  inUse  : List (Nat × Bool × Nat × Nat) := []
deriving DecidableEq, Repr

/-- The stones. -/
structure Stones where
  st : SMap Stone := []
deriving DecidableEq, Repr

/-- The module: the commands that wait, first in first out, the hub and the stones. -/
structure State where
  pending : List Instr := []
  hub     : Hub := {}
  stn     : Stones := {}
deriving DecidableEq, Repr

/-- Why a command stops the machine. -/
inductive Fault where
  /-- A session instruction word or a bundle slot that no accepted image can hold (R248, R261): raised by the meanings
  of session instructions and bundle slots. Safe: the device refuses such a word at load and never runs it. -/
  | undefinedEncoding
deriving DecidableEq, Repr

/-- Why a command has no meaning in the model. -/
inductive Refusal where
  /-- The command's meaning is not written yet: raised by the arms of exec alone. Safe: nothing is claimed. -/
  | notModelled (mnemonic : String)
deriving DecidableEq, Repr

/-- The module right after a power-on reset with PERST# still asserted (R475, R476). -/
def State.reset : State := {}

end Sys2Proof.Machine
end

