-- ==== Sys2Proof/Machine/Ops.lean ====
section
/-! DEFINITION. The named operations over the hub: registers, sessions, outputs, journals, interrupts, free values. -/

namespace Sys2Proof.Machine

/-! ### Registers (R8, R9, R287) -/

/-- The good physical stones of a die in ascending order (R188). -/
def goodStones (d : Nat) : List Nat :=
  (List.range 576).filter (fun p => !(Config.badStones d).contains p)

/-- Default weights of the Granary classes of SLGW (R369). -/
def slgwReset : List Nat := [48, 4, 8, 2, 1, 1, 32, 8, 4, 8, 8, 4]

/-- Reset values that the tables give by a rule, a fuse, persisted data (log 4) or a strap (log 32). -/
def specialReset (a : Nat) : Option Nat :=
  if a = 0x0 then some (0x0F48 + (if Config.cap64 then 2 else 1) * 2 ^ 16 + b2n Config.defaultProfile * 2 ^ 20
    + 0xB1 * 2 ^ 24)
  else if a = 0x4 then some (Config.fwLevel.toNat + 0x14 * 2 ^ 24)
  else if a = 0x8 then some Config.serial.toNat
  else if a = 0x10 then some (b2n Config.profile * 2 ^ 8)
  else if 0x14010 ≤ a ∧ a < 0x1404C then some (2 ^ ((a - 0x14010) / 4))
  else if 0x24010 ≤ a ∧ a < 0x24020 then some ((goodStones ((a - 0x24010) / 4)).length - 512)
  else if 0x25000 ≤ a ∧ a < 0x27000 then
    let x := (a - 0x25000) / 4
    some (pairOf 16 ((goodStones (x / 512)).getD (x % 512) 0))
  else if 0x28100 ≤ a ∧ a < 0x28500 ∧ (a - 0x28100) % 0x40 = 4 then some (pairOf 16 (0xF0 + (a - 0x28100) / 0x40))
  else if 0x34200 ≤ a ∧ a < 0x342C0 ∧ a % 16 = 0 then some (slgwReset.getD ((a - 0x34200) / 16) 0)
  else if 0x38100 ≤ a ∧ a < 0x38120 then some (pairOf 16 0xFFF)
  else if a = 0x2C004 then some (b2n Config.grnReadonly * 2 + b2n ((List.range (if Config.cap64 then 256 else 128)).any (fun d => (Config.spareBlocks d).isEmpty)) * 16)
  else if a = 0x2C008 then some (if Config.cap64 then 256 + 16 * 2 ^ 9 else 128 + 8 * 2 ^ 9)
  else if a = 0x2C034 then some (if Config.cap64 then 47707 else 15918)
  else if a = 0x40004 then some (b2n Config.ownerDigest.isSome * 2)
  else if a = 0x40008 then some (b2n Config.profile)
  else if a = 0x44030 then some 0x80
  else if a = 0x440D8 then some Config.pwrLosses.toNat
  else if a = 0x440E0 then some Config.pwrTrips.toNat
  else if a = 0x4000C then some Config.secsvn.toNat
  else if 0x40020 ≤ a ∧ a < 0x40040 then
    some ((Config.ownerDigest.getD 0).toNat / 2 ^ (8 * (a - 0x40020)) % 2 ^ 64)
  else none

/-- The row of the table whose registers include address `a`. -/
def regRow (a : Nat) : Option RegRow :=
  regTable.find? (fun r =>
    decide (r.a ≤ a) && (if r.stride = 0 then a == r.a else (a - r.a) % r.stride == 0 && (a - r.a) / r.stride < r.n))

/-- The value a register holds after reset. -/
def regReset (a : Nat) : W64 :=
  match specialReset a with
  | some v => BitVec.ofNat 64 v
  | none =>
    match regRow a with
    | none => 0
    | some r => BitVec.ofNat 64 ((r.fields.map (fun f => f.rst * 2 ^ f.lo)).sum)

namespace Hub

/-- The value of the register at address `a`. -/
def reg (h : Hub) (a : Nat) : W64 := smGet (regReset a) h.regs a

/-- Store `v` in the register at address `a`. -/
def setReg (h : Hub) (a : Nat) (v : W64) : Hub := { h with regs := smSet (regReset a) h.regs a v }

/-- The field `f` of the i-th register of its row. -/
def gi (h : Hub) (f : Fld) (i : Nat) : Nat := bitsOf (h.reg (f.a + f.stride * i)).toNat f.hi f.lo

/-- The field `f`. -/
def g (h : Hub) (f : Fld) : Nat := h.gi f 0

/-- The one-bit field `f` is 1. -/
def on (h : Hub) (f : Fld) : Bool := h.g f == 1

/-- Set field `f` of the i-th register of its row. -/
def pi (h : Hub) (f : Fld) (i v : Nat) : Hub :=
  let a := f.a + f.stride * i
  h.setReg a (BitVec.ofNat 64 (setBits (h.reg a).toNat f.hi f.lo v))

/-- Set field `f`. -/
def p (h : Hub) (f : Fld) (v : Nat) : Hub := h.pi f 0 v

/-- Add to a saturating counter of the i-th register of its row. -/
def inci (h : Hub) (f : Fld) (i : Nat) (n : Nat) : Hub :=
  h.pi f i (satAdd (f.hi + 1 - f.lo) (h.gi f i) n)

/-- Add to a saturating counter. -/
def inc (h : Hub) (f : Fld) (n : Nat := 1) : Hub := h.inci f 0 n

/-! ### Time, outputs, free values -/

/-- Node time moves to the command's stamp. -/
def stamp (h : Hub) (t : Nt) : Hub := { h with nt := if h.nt < t then t else h.nt }

/-- Send something. -/
def emit (h : Hub) (o : Out) : Hub := { h with out := h.out ++ [o] }

/-- Take the next free value (log 2). -/
def fresh (h : Hub) : W64 × Hub := (Config.freeValue h.free, { h with free := h.free + 1 })

/-- Take an id for a transfer to be completed. -/
def newId (h : Hub) : Nat × Hub := (h.nextId, { h with nextId := h.nextId + 1 })

/-! ### Sessions -/

/-- The session of a handle. -/
def s (h : Hub) (i : Handle) : Sess := smGet {} h.sess i.toNat

/-- Replace the session of a handle. -/
def setS (h : Hub) (i : Handle) (x : Sess) : Hub := { h with sess := smSet {} h.sess i.toNat x }

/-- Change the session of a handle. -/
def modS (h : Hub) (i : Handle) (f : Sess → Sess) : Hub := h.setS i (f (h.s i))

/-- Change the record of a handle. -/
def modR (h : Hub) (i : Handle) (f : Rec → Rec) : Hub := h.modS i (fun x => { x with r := f x.r })

/-- The handles whose record is listed, in ascending order. -/
def handles (h : Hub) : List Handle := h.sess.map (fun e => BitVec.ofNat 18 e.1)

/-- The device's own index. -/
def dev (h : Hub) : Nat := h.g F.HDEVIDX_index

/-- The active profile is S (R23). -/
def profS (h : Hub) : Bool := h.g F.HDEVIDX_profile == 0

/-! ### Interrupts (R286) -/

/-- Send the message of a vector, or set its pending bit when masked. -/
def fire (h : Hub) (v : BitVec 6) : Hub :=
  let q := smGet {} h.irq v.toNat
  if q.masked then { h with irq := smSet {} h.irq v.toNat { q with pend := true, count := 0, since := none } }
  else ({ h with irq := smSet {} h.irq v.toNat { q with count := 0, since := none } }).emit (.msix v)

/-- Vectors 32 to 36 are sent at once and set their cause (R286). -/
def signal (h : Hub) (v : BitVec 6) : Hub :=
  let c := h.g F.INTCAUSE_cause
  (h.p F.INTCAUSE_cause (c ||| 2 ^ v.toNat)).fire v

/-- Set a status bit and signal vector `v`. -/
def flag (h : Hub) (f : Fld) (v : BitVec 6) : Hub := (h.p f 1).signal v

/-- A record of ring vector `v` has become visible. -/
def visible (h : Hub) (v : BitVec 6) : Hub :=
  let q := smGet {} h.irq v.toNat
  let lim := max 1 (h.gi F.INTMOD_count v.toNat)
  let q' := { q with count := q.count + 1, since := some (q.since.getD h.nt) }
  let h' := { h with irq := smSet {} h.irq v.toNat q' }
  if q'.count ≥ lim then
    let c := h'.g F.INTCAUSE_cause
    (h'.p F.INTCAUSE_cause (c ||| 2 ^ v.toNat)).fire v
  else h'

/-! ### Sluice's settings (R358, R359) -/

/-- The value of a Sluice register in force. -/
def slReg (h : Hub) (a : Nat) : Nat :=
  match smLook h.sl.force a with
  | some v => v.1.toNat
  | none => (h.reg a).toNat

/-- Shapers are active. -/
def shapeOn (h : Hub) : Bool := h.slReg 0x34000 % 2 == 1

/-! ### Device events and journals (R506 to R510) -/

/-- Record a device event: in the die's black-box ring and in the device journal (R508). -/
def devEv (h : Hub) (code die : Nat) (data : Nat) (status : Nat := 0) : Hub :=
  let e : DEnt := { nt := if h.ntEver then h.nt else 0, code := BitVec.ofNat 16 code, die := BitVec.ofNat 3 die
                    status := BitVec.ofNat 8 status, seq := h.diag.seqs.getD die 0, data := BitVec.ofNat 64 data
                    unsync := h.ntEver && h.g F.NFSTAT_nt_valid == 0
                    device := if bitsOf (h.g F.NFDONE_done) 5 5 = 1 then BitVec.ofNat 6 h.dev
                              else BitVec.ofNat 6 (h.g F.PWRSTRAP_slot) }
  let pos := h.g F.DGDJPOS_position
  let d := h.diag
  ({ h with diag := { d with
      rings := d.rings.modify die (fun l => (e :: l).take 4096)
      seqs := d.seqs.modify die (· + 1)
      dj := ({ e with seq := BitVec.ofNat 32 pos } :: d.dj).take d.djCap } }).p F.DGDJPOS_position (pos + 1)

/-- Write a session journal entry stamped now (R50): the entry's sequence number becomes the record's JSEQ. -/
def jent (h : Hub) (i : Handle) (code : Nat) (newSt oldSt : BitVec 4) (data : Nat) : Hub :=
  let r := (h.s i).r
  let e : JEnt := { nt := h.nt, nsi := r.nsi, seq := r.jseq + 1, code := BitVec.ofNat 16 code
                    states := oldSt ++ newSt, status := r.lastStatus, data := BitVec.ofNat 64 data }
  let h := { h with diag := { h.diag with sj := (e :: h.diag.sj).take h.diag.sjCap } }
  (h.p F.DGJPOS_position (h.g F.DGJPOS_position + 1)).modR i (fun r => { r with jseq := r.jseq + 1 })

/-! ### Injection points at their opportunities (R391) -/

/-- The first armed point with this number that `m` accepts and whose time has come fires: it is recorded and leaves,
unless its count still has firings left. Answers the point. -/
def fireAt (h : Hub) (point : Nat) (m : Inj → Bool) : Option Inj × Hub :=
  let ready (x : Inj) : Bool := x.point.toNat == point && m x && (x.mode != 2 || decide (x.nt ≤ h.nt))
  match h.inj.find? ready with
  | none => (none, h)
  | some x =>
    let rest := h.inj.erase x
    let x' := { x with count := x.count - 1 }
    let h := { h with inj := if x.mode = 1 ∧ 1 < x.count then x' :: rest else rest }
    (some x, (h.devEv 0x0503 4 point).inc F.INTINJFIRE_count)

/-- An armed point fires. -/
def fireInj (h : Hub) (point : Nat) (m : Inj → Bool) : Bool × Hub :=
  let q := h.fireAt point m
  (q.1.isSome, q.2)

/-- Bit 63 of an event's data marks one that follows an injection (R391). -/
def injBit (injected : Bool) : Nat := if injected then 2 ^ 63 else 0

end Hub

end Sys2Proof.Machine
end

