-- ==== Sys2Proof/Machine/Record.lean ====
section
/-! DEFINITION. The session record as bytes (R33), tickets (R279), record field selectors (R257), status codes (R289),
states and transitions (R36, R37), and the record rings (R139 to R141, R283 to R286). -/

namespace Sys2Proof.Machine

/-! ### Codes -/

/-- Status codes (R289). -/
def St.ok : BitVec 8 := 0x00
def St.stopString : BitVec 8 := 0x01
def St.stopToken : BitVec 8 := 0x02
def St.maxTokens : BitVec 8 := 0x03
def St.grammarDead : BitVec 8 := 0x04
def St.deadlineLate : BitVec 8 := 0x05
def St.ttlExpired : BitVec 8 := 0x06
def St.evictedLogonly : BitVec 8 := 0x07
def St.filterShort : BitVec 8 := 0x08
def St.poisoned : BitVec 8 := 0x10
def St.recordFault : BitVec 8 := 0x11
def St.programFault : BitVec 8 := 0x12
def St.retracted : BitVec 8 := 0x13
def St.deviceFault : BitVec 8 := 0x14
def St.badCommand : BitVec 8 := 0x20
def St.badState : BitVec 8 := 0x21
def St.badOperand : BitVec 8 := 0x22
def St.staleNsi : BitVec 8 := 0x23
def St.noSession : BitVec 8 := 0x24
def St.skExists : BitVec 8 := 0x25
def St.noHandle : BitVec 8 := 0x26
def St.windowFull : BitVec 8 := 0x27
def St.throttled : BitVec 8 := 0x28
def St.sealedRequired : BitVec 8 := 0x29
def St.intakeFault : BitVec 8 := 0x30
def St.badToken : BitVec 8 := 0x31
def St.granaryFull : BitVec 8 := 0x32
def St.adapterGone : BitVec 8 := 0x33
def St.adapterBusy : BitVec 8 := 0x34
def St.stopsetFault : BitVec 8 := 0x35
def St.stopsetBusy : BitVec 8 := 0x36
def St.ownerConflict : BitVec 8 := 0x37
def St.migrateAborted : BitVec 8 := 0x38
def St.planRefused : BitVec 8 := 0x40
def St.planAbsent : BitVec 8 := 0x41
def St.poolBusy : BitVec 8 := 0x42
def St.progRefused : BitVec 8 := 0x43
def St.progBusy : BitVec 8 := 0x44
def St.imageRefused : BitVec 8 := 0x45

/-- State codes (R36). -/
def S.free : BitVec 4 := 0x0
def S.admitted : BitVec 4 := 0x1
def S.prefill : BitVec 4 := 0x2
def S.ready : BitVec 4 := 0x3
def S.stepping : BitVec 4 := 0x4
def S.waiting : BitVec 4 := 0x5
def S.parking : BitVec 4 := 0x6
def S.parked : BitVec 4 := 0x7
def S.reviving : BitVec 4 := 0x8
def S.migrating : BitVec 4 := 0x9
def S.halted : BitVec 4 := 0xA
def S.faulted : BitVec 4 := 0xB

/-- A state that R36 marks transient. -/
def transient (s : BitVec 4) : Bool :=
  s == S.prefill || s == S.stepping || s == S.parking || s == S.reviving || s == S.migrating

/-! ### The record as words and bytes (R33) -/

/-- The STATE word. -/
def Rec.stateWord (r : Rec) : Nat :=
  r.state.toNat + r.prior.toNat * 2 ^ 4 + r.lastStatus.toNat * 2 ^ 8 + b2n r.dlate * 2 ^ 16 + b2n r.omm * 2 ^ 17
    + b2n r.ttlArmed * 2 ^ 18 + b2n r.child * 2 ^ 19 + b2n r.autorevive * 2 ^ 20 + b2n r.logonly * 2 ^ 21
    + r.hstatus.toNat * 2 ^ 22

/-- The EVENTS word. -/
def Rec.eventsWord (r : Rec) : Nat := r.pending.toNat + r.waitMask.toNat * 2 ^ 16

/-- The value half of OWNER. -/
def Rec.ownerWord (r : Rec) : Nat := r.ownEpoch.toNat + r.ownDev.toNat * 2 ^ 16

/-- The ADAPTER word. -/
def Rec.adapterWord (r : Rec) : Nat := r.adSlot.toNat + r.adVer.toNat * 2 ^ 10 + b2n r.adBound * 2 ^ 26

/-- The GRAMMAR word. -/
def Rec.grammarWord (r : Rec) : Nat := r.gramSlot.toNat + r.gramState.toNat * 2 ^ 12 + r.gramDepth.toNat * 2 ^ 32

/-- The STOPSET word. -/
def Rec.stopWord (r : Rec) : Nat := r.stopSet.toNat + r.stopCnt.toNat * 2 ^ 16

/-- The SAMPLE word. -/
def Rec.sampleWord (r : Rec) : Nat := r.temp.toNat + r.topP.toNat * 2 ^ 16 + r.topK.toNat * 2 ^ 32

/-- The PARENT word. -/
def Rec.parentWord (r : Rec) : Nat :=
  r.parH.toNat + r.parGen.toNat * 2 ^ 18 + r.parDev.toNat * 2 ^ 34 + r.forkIndex.toNat * 2 ^ 40

/-- The record's 256 bytes. -/
def Rec.bytes (r : Rec) : Bytes :=
  le 16 r.sk.toNat ++ le 8 r.nsi.toNat ++ le 4 r.stateWord ++ le 4 r.eventsWord
    ++ le 8 (r.ownerWord + r.ownChk.toNat * 2 ^ 32) ++ le 4 (r.keygen.toNat + r.keygenChk.toNat * 2 ^ 16)
    ++ le 4 r.adapterWord ++ le 8 (r.kvroot.toNat + r.kvrootChk.toNat * 2 ^ 32)
    ++ le 8 (r.committed.toNat + r.turn.toNat * 2 ^ 32) ++ le 8 r.steps.toNat ++ le 4 r.cut.toNat
    ++ le 4 r.period.toNat ++ le 8 r.expiry.toNat ++ le 8 r.deadline.toNat
    ++ le 4 (r.pc.toNat + r.prog.toNat * 2 ^ 24) ++ le 4 r.flags.toNat
    ++ ((List.range 8).map (fun k => le 8 (r.a.getD k 0).toNat)).flatten
    ++ le 8 r.waitExp.toNat ++ le 8 r.grammarWord ++ le 4 r.stopWord
    ++ le 4 (r.held.toNat + r.seq.toNat * 2 ^ 8) ++ le 8 r.seed.toNat ++ le 8 r.sampleWord ++ le 4 r.maxtok.toNat
    ++ le 4 r.part.toNat ++ le 8 r.parentWord ++ le 8 r.touch.toNat ++ le 8 r.stattok.toNat ++ le 4 r.jseq.toNat
    ++ le 4 (r.parks.toNat + r.revives.toNat * 2 ^ 8 + r.replays.toNat * 2 ^ 16 + r.recomputes.toNat * 2 ^ 24)
    ++ le 8 r.admitNt.toNat

/-- The record that 256 bytes stand for. -/
def Rec.ofBytes (b : Bytes) : Rec :=
  let f (o n hi lo : Nat) : Nat := bitsOf (field b o n) hi lo
  { sk := .ofNat _ (field b 0 16), nsi := .ofNat _ (field b 0x10 8)
    state := .ofNat _ (f 0x18 4 3 0), prior := .ofNat _ (f 0x18 4 7 4), lastStatus := .ofNat _ (f 0x18 4 15 8)
    dlate := f 0x18 4 16 16 == 1, omm := f 0x18 4 17 17 == 1, ttlArmed := f 0x18 4 18 18 == 1
    child := f 0x18 4 19 19 == 1, autorevive := f 0x18 4 20 20 == 1, logonly := f 0x18 4 21 21 == 1
    hstatus := .ofNat _ (f 0x18 4 29 22), pending := .ofNat _ (f 0x1C 4 15 0), waitMask := .ofNat _ (f 0x1C 4 31 16)
    ownEpoch := .ofNat _ (f 0x20 8 15 0), ownDev := .ofNat _ (f 0x20 8 21 16), ownChk := .ofNat _ (f 0x20 8 63 32)
    keygen := .ofNat _ (f 0x28 4 15 0), keygenChk := .ofNat _ (f 0x28 4 31 16)
    adSlot := .ofNat _ (f 0x2C 4 9 0), adVer := .ofNat _ (f 0x2C 4 25 10), adBound := f 0x2C 4 26 26 == 1
    kvroot := .ofNat _ (f 0x30 8 31 0), kvrootChk := .ofNat _ (f 0x30 8 63 32)
    committed := .ofNat _ (field b 0x38 4), turn := .ofNat _ (field b 0x3C 4), steps := .ofNat _ (f 0x40 8 47 0)
    cut := .ofNat _ (field b 0x48 4), period := .ofNat _ (field b 0x4C 4), expiry := .ofNat _ (field b 0x50 8)
    deadline := .ofNat _ (field b 0x58 8), pc := .ofNat _ (f 0x60 4 23 0), prog := .ofNat _ (f 0x60 4 31 24)
    flags := .ofNat _ (field b 0x64 4), a := (List.range 8).map (fun k => .ofNat _ (field b (0x68 + 8 * k) 8))
    waitExp := .ofNat _ (field b 0xA8 8), gramSlot := .ofNat _ (f 0xB0 8 11 0), gramState := .ofNat _ (f 0xB0 8 31 12)
    gramDepth := .ofNat _ (f 0xB0 8 47 32), stopSet := .ofNat _ (f 0xB8 4 15 0), stopCnt := .ofNat _ (f 0xB8 4 20 16)
    held := .ofNat _ (f 0xBC 4 6 0), seq := .ofNat _ (f 0xBC 4 31 8), seed := .ofNat _ (field b 0xC0 8)
    temp := .ofNat _ (f 0xC8 8 15 0), topP := .ofNat _ (f 0xC8 8 31 16), topK := .ofNat _ (f 0xC8 8 47 32)
    maxtok := .ofNat _ (field b 0xD0 4), part := .ofNat _ (f 0xD4 4 3 0), parH := .ofNat _ (f 0xD8 8 17 0)
    parGen := .ofNat _ (f 0xD8 8 33 18), parDev := .ofNat _ (f 0xD8 8 39 34), forkIndex := .ofNat _ (f 0xD8 8 63 40)
    touch := .ofNat _ (field b 0xE0 8), stattok := .ofNat _ (field b 0xE8 8), jseq := .ofNat _ (field b 0xF0 4)
    parks := .ofNat _ (f 0xF4 4 7 0), revives := .ofNat _ (f 0xF4 4 15 8), replays := .ofNat _ (f 0xF4 4 23 16)
    recomputes := .ofNat _ (f 0xF4 4 31 24), admitNt := .ofNat _ (field b 0xF8 8) }

/-- The paired words of OWNER, KEYGEN and KVROOT are valid (R35). -/
def Rec.pairsOk (r : Rec) : Bool :=
  r.ownChk == ~~~ (BitVec.ofNat 32 r.ownerWord) && r.keygenChk == ~~~ r.keygen && r.kvrootChk == ~~~ r.kvroot

/-- Set OWNER as a paired word. -/
def Rec.setOwner (r : Rec) (dev : BitVec 6) (epoch : BitVec 16) : Rec :=
  let r := { r with ownDev := dev, ownEpoch := epoch }
  { r with ownChk := ~~~ (BitVec.ofNat 32 r.ownerWord) }

/-- Set KEYGEN as a paired word. -/
def Rec.setKeygen (r : Rec) (k : BitVec 16) : Rec := { r with keygen := k, keygenChk := ~~~ k }

/-- Set KVROOT as a paired word. -/
def Rec.setRoot (r : Rec) (x : BitVec 32) : Rec := { r with kvroot := x, kvrootChk := ~~~ x }

/-- The NSI of a handle (R28). -/
def nsiOf (dev : Nat) (i : Handle) (gen : BitVec 16) (tenant : BitVec 24) : W64 :=
  BitVec.ofNat 64 (dev * 2 ^ 58 + i.toNat * 2 ^ 40 + gen.toNat * 2 ^ 24 + tenant.toNat)

/-- The fields of an NSI (R28). -/
def nsiDev (n : W64) : Nat := bitsOf n.toNat 63 58
def nsiHandle (n : W64) : Handle := BitVec.ofNat 18 (bitsOf n.toNat 57 40)
def nsiGen (n : W64) : BitVec 16 := BitVec.ofNat 16 (bitsOf n.toNat 39 24)
def nsiTenant (n : W64) : BitVec 24 := BitVec.ofNat 24 (bitsOf n.toNat 23 0)

/-- The root index of a session with KV (R63); all ones where KVROOT does not name the session's own handle, which no root
entry has: KVROOT is 0 from ADMIT until the first turn gives the session its root. -/
def Rec.rootIx (r : Rec) : BitVec 32 :=
  if r.kvroot.toNat % 2 ^ 18 = (nsiHandle r.nsi).toNat then r.kvroot else BitVec.allOnes 32

/-- The tenant of a record. -/
def Rec.tenant (r : Rec) : BitVec 24 := nsiTenant r.nsi

/-! ### Selectors (R257) -/

/-- The value GETF reads, where the selector names a field. -/
def getField (x : Sess) (sel : Nat) : Option Nat :=
  match sel with
  | 0x01 => some x.r.period.toNat
  | 0x02 => some x.r.deadline.toNat
  | 0x03 => some x.r.seed.toNat
  | 0x04 => some x.r.sampleWord
  | 0x05 => some x.r.maxtok.toNat
  | 0x06 => some (b2n x.r.autorevive)
  | 0x10 => some x.r.stateWord
  | 0x11 => some x.r.eventsWord
  | 0x12 => some x.r.committed.toNat
  | 0x13 => some x.r.turn.toNat
  | 0x14 => some x.pendIn.toNat
  | 0x15 => some x.r.steps.toNat
  | 0x16 => some x.r.expiry.toNat
  | 0x17 => some x.r.nsi.toNat
  | 0x18 => some x.r.ownerWord
  | 0x19 => some x.r.adapterWord
  | 0x1A => some x.r.grammarWord
  | 0x1B => some x.r.stopWord
  | 0x1C => some x.r.parentWord
  | 0x1D => some x.r.touch.toNat
  | 0x1E => some x.r.stattok.toNat
  | 0x1F => some x.r.admitNt.toNat
  | _ => none

/-- The bits of an operand that a writable field defines; none for any other selector. -/
def setWidth (sel : Nat) : Option Nat :=
  match sel with
  | 0x01 => some 32
  | 0x02 => some 64
  | 0x03 => some 64
  | 0x04 => some 48
  | 0x05 => some 32
  | 0x06 => some 1
  | _ => none

/-- The record with a writable field set (R257); none where the selector or the operand is refused. A write of
DEADLINE is a renewal (R44). -/
def setField (r : Rec) (sel : Nat) (v : W64) : Option Rec :=
  match setWidth sel with
  | none => none
  | some w =>
    if 2 ^ w ≤ v.toNat then none
    else
      match sel with
      | 0x01 => some { r with period := .ofNat _ v.toNat }
      | 0x02 => some { r with deadline := v, dlate := false }
      | 0x03 => some { r with seed := v }
      | 0x04 => some { r with temp := .ofNat _ v.toNat, topP := .ofNat _ (v.toNat / 2 ^ 16)
                              topK := .ofNat _ (v.toNat / 2 ^ 32) }
      | 0x05 => some { r with maxtok := .ofNat _ v.toNat }
      | _ => some { r with autorevive := v.toNat == 1 }

/-! ### Tickets (R279) -/

/-- An action on the session is held under R41: a command, a DROP of its own program, a RELEASE, an instruction; a demotion holds the
session itself. A POST that waits for its ring is not, nor a FORK that waits for a bank swap. -/
def Hub.actionHeld (h : Hub) (x : Sess) : Bool :=
  !x.actions.isEmpty || x.dropHeld || x.relHeld.isSome || x.demote || (match x.blk with
    | some (.redo w) =>
      let op := bitsOf w.toNat 63 56
      op != 0x70 && !(op == 0x23 && h.aix.swap.isSome)
    | _ => false)

/-- The ticket of a handle, with key_miss clear. -/
def Hub.ticket (h : Hub) (i : Handle) : Bytes :=
  let x := h.s i
  let r := x.r
  if r.state == S.free then
    le 8 (nsiOf h.dev i (smGet 0 h.gens i.toNat) 0).toNat ++ List.replicate 8 0 ++ le 8 x.fwd.toNat
      ++ List.replicate 40 0
  else
    le 8 r.nsi.toNat ++ le 1 (r.state.toNat + r.prior.toNat * 16) ++ le 1 r.lastStatus.toNat
      ++ le 1 (b2n r.dlate + b2n r.omm * 2 + b2n r.ttlArmed * 4 + b2n r.child * 8 + b2n r.autorevive * 16
          + b2n r.logonly * 32 + b2n (h.actionHeld x) * 64 + 128)
      ++ le 1 r.held.toNat ++ le 2 r.pending.toNat ++ le 2 r.waitMask.toNat ++ le 4 r.committed.toNat
      ++ le 4 (r.committed.toNat - 1) ++ le 4 x.pendIn.toNat ++ le 2 r.ownEpoch.toNat ++ le 1 r.ownDev.toNat
      ++ le 1 r.part.toNat ++ le 2 (if r.omm then x.seen.toNat else 0)
      ++ le 2 (if r.adBound then r.adVer.toNat else 0) ++ le 4 r.turn.toNat ++ le 8 r.expiry.toNat
      ++ le 8 r.deadline.toNat ++ le 3 r.seq.toNat ++ le 1 0 ++ le 4 (r.touch.toNat / 1000000)

/-- The ticket of a key-slot load that misses (R280). -/
def missTicket : Bytes := List.replicate 59 0 ++ [1] ++ List.replicate 4 0

/-- Back-invalidations for the snooped tickets that differ from those of `old` (R281); the lines leave the filter. -/
def Hub.snoopPass (old h : Hub) : Hub :=
  let gone := h.snoop.filter (fun i => h.ticket i != old.ticket i)
  if gone.isEmpty then h
  else { h with snoop := h.snoop.filter (fun i => !gone.contains i)
                out := h.out ++ gone.map (fun i => .inval (0x1000000 + 64 * i.toNat)) }

/-! ### Record rings (R139 to R141, R283, R285) -/

/-- The registers of a ring: completion or stream. -/
structure RingRegs where
  base : Fld
  log2 : Fld
  en   : Fld
  stat : Fld
  err  : Fld
  cons : Fld
  prod : Fld
  lim  : Fld

/-- The registers of the stream rings or the completion rings. -/
def ringRegs (stream : Bool) : RingRegs :=
  if stream then ⟨F.STRBASE_base, F.STRSIZE_log2, F.STRSIZE_enable, F.STRSTAT_blocked, F.STRSTAT_read_err,
      F.STRCONS_addr, F.STRPROD_p, F.STRBLIM_granules⟩
  else ⟨F.CMPBASE_base, F.CMPSIZE_log2, F.CMPSIZE_enable, F.CMPSTAT_overflow, F.CMPSTAT_read_err,
      F.CMPCONS_addr, F.CMPPROD_p, F.CMPBLIM_granules⟩

namespace Hub

/-- Ring `p`. -/
def ring (h : Hub) (stream : Bool) (p : Nat) : Ring := smGet {} (if stream then h.sring else h.cring) p

/-- Replace ring `p`. -/
def setRing (h : Hub) (stream : Bool) (p : Nat) (x : Ring) : Hub :=
  if stream then { h with sring := smSet {} h.sring p x } else { h with cring := smSet {} h.cring p x }

/-- Granules a record takes, in its envelope where it has one (R427). -/
def granules (r : Rcd) : Nat := match r.env with
  | none => r.data.length / 64
  | some x => cdiv (88 + x.2.2) 64

/-- Granules waiting in a ring's backlog. -/
def backlogGranules (h : Hub) (stream : Bool) (p : Nat) : Nat := (((h.ring stream p).backlog).map granules).sum

/-- The envelope of a record under its tenant's context, which it leaves with a new counter; none without a context
(R427, R444). -/
def envelope (h : Hub) (r : Rcd) : Option (Bytes × Hub) :=
  match r.env with
  | none => some (r.data, h)
  | some (tenant, nsi, n) =>
    match smLook h.sec.ctx tenant.toNat with
    | none => none
    | some c =>
      let ctr := c.outCtr + 1
      let g := granules r
      let hdr := le 1 (1 * 2 + (g - 1) * 16) ++ le 1 0 ++ le 2 (40 + n) ++ le 4 0 ++ le 8 nsi.toNat ++ le 8 ctr.toNat ++ le 8 0
      let kout := Config.kmac (le 32 c.k.toNat) [0x4F, 0x55, 0x54]
      let nonce := le 1 1 ++ le 1 h.dev ++ le 2 0 ++ le 8 ctr.toNat
      some (padTo (64 * g) (hdr ++ Config.gcmSeal kout nonce (hdr.drop 1) (r.data.take (40 + n))),
        { h with sec := { h.sec with ctx := smPut h.sec.ctx tenant.toNat { c with outCtr := ctr } } })

/-- The overflow or blocked bit follows the backlog (R141, R285). -/
def ringLimit (h : Hub) (stream : Bool) (p : Nat) : Hub :=
  let R := ringRegs stream
  let n := h.backlogGranules stream p
  let lim := max 1024 (h.gi R.lim p)
  if lim ≤ n then h.pi R.stat p 1 else if 2 * n < lim then h.pi R.stat p 0 else h

/-- log2 of a ring's size (R139). -/
def ringLog (h : Hub) (stream : Bool) (p : Nat) : Nat :=
  let n := h.gi (ringRegs stream).log2 p
  if 10 ≤ n ∧ n ≤ 24 then n else 10

/-- Issue a CXL.cache write and remember what waits on it. -/
def hostWrite (h : Hub) (w : WrWait) : Hub :=
  let (id, h) := h.newId
  ({ h with writes := smPut h.writes id w }).emit (.hostWrite id w.addr w.data)

/-- Issue a CXL.cache read and remember what waits on it. -/
def hostRead (h : Hub) (addr : W64) (len : Nat) (w : RdWait) : Hub :=
  let (id, h) := h.newId
  ({ h with reads := smPut h.reads id w }).emit (.hostRead id addr len)

/-- PAD records from granule `pos` of the ring to its end, up to four granules each (R139); only byte 0 is defined. -/
def pads (h : Hub) (base phase pos n : Nat) : Nat → Hub
  | 0 => h
  | fuel + 1 =>
    if n = 0 then h
    else
      let k := min n 4
      let h := h.hostWrite { addr := BitVec.ofNat 64 (base + 64 * pos)
                             data := le 1 (phase + 0x7 * 2 + (k - 1) * 16) }
      pads h base phase (pos + k) (n - k) fuel

/-- The counted length of a record (R356): a stream record without padding, a completion by its granules. -/
def recLen (stream : Bool) (r : Rcd) : Nat := if stream then 40 + (r.data.getD 2 0).toNat else 64 * granules r

/-- The partition shaper passes a record (R358, R364). -/
def hostPass (h : Hub) (p : Nat) : Bool :=
  !h.shapeOn || h.slReg (0x34304 + 16 * p) % 2 ^ 20 == 0 || decide (0 < smGet 0 h.sl.hTok p)

/-- A record has passed its partition shaper. -/
def hostPaid (h : Hub) (p n : Nat) : Hub :=
  if h.slReg (0x34304 + 16 * p) % 2 ^ 20 = 0 then h
  else { h with sl := { h.sl with hTok := smSet 0 h.sl.hTok p (smGet 0 h.sl.hTok p - n) } }

/-- Write one record to its ring, `bytes` at position `P` after `pad` granules of padding: its first granule once the others are
visible (R139, R140, R283). -/
def ringWrite (h : Hub) (stream : Bool) (p : Nat) (r : Rcd) (bytes : Bytes) (pad : Nat) : Hub :=
  let R := ringRegs stream
  let n := h.ringLog stream p
  let P := h.gi R.prod p
  let base := h.gi R.base p * 64
  let phase (q : Nat) : Nat := 1 - (q / 2 ^ n) % 2
  let h := h.pads base (phase P) (P % 2 ^ n) pad pad
  let P' := (P + pad) % 2 ^ 32
  let data := match bytes with
    | [] => []
    | b :: bs => (b ||| BitVec.ofNat 8 (phase P')) :: bs
  let addr : W64 := BitVec.ofNat 64 (base + 64 * (P' % 2 ^ n))
  let h := h.hostWrite { addr := if 64 < data.length then addr + 64 else addr, data := if 64 < data.length then data.drop 64 else data
                         first := if 64 < data.length then some (addr, data.take 64) else none
                         sess := if stream then r.h else none
                         vec := some (BitVec.ofNat 6 (p + (if stream then 16 else 0))) }
  let h := (h.pi R.prod p ((P' + granules r) % 2 ^ 32)).hostPaid p (recLen stream r)
  if stream then
    let h := h.inc F.TRRECS_count
    if r.stop then h.inc F.TRSTOPS_count else h
  else h

/-- The check of a record before it is written: a failure is reported, a second one in succession is a fault of the hub (R373);
true where the record goes out. -/
def recCheck (h : Hub) (stream : Bool) (p : Nat) : Bool × Hub :=
  let ringNo := p + (if stream then 16 else 0)
  let bad := h.fireInj 0x19 (fun i => i.a.toNat == ringNo)
  if !bad.1 then (true, bad.2)
  else
    let dead := (bad.2.flag F.INTSTAT_rec_check 32).fireInj 0x19 (fun i => i.a.toNat == ringNo)
    if dead.1 then (false, { dead.2 with hubBad := true }) else (true, dead.2)

/-- Granules of padding before a record at the ring's next position (R139). -/
def ringPad (h : Hub) (stream : Bool) (p : Nat) (r : Rcd) : Nat :=
  let left := 2 ^ h.ringLog stream p - h.gi (ringRegs stream).prod p % 2 ^ h.ringLog stream p
  if left < granules r then left else 0

/-- A record with its padding fits in what host software has reported consumed. -/
def ringFits (h : Hub) (stream : Bool) (p : Nat) (r : Rcd) : Bool :=
  let used := (h.gi (ringRegs stream).prod p + 2 ^ 32 - (h.ring stream p).consumed.toNat) % 2 ^ 32
  decide (used + h.ringPad stream p r + granules r ≤ 2 ^ h.ringLog stream p)

/-- The oldest record of a backlog goes to its ring while it fits in what host software has reported consumed; where it does not
fit, the consumed word is asked for (R139, R141, R285). True where a record was written. -/
def drainOne (h : Hub) (stream : Bool) (p : Nat) : Bool × Hub :=
  let x := h.ring stream p
  match x.backlog with
  | [] => (false, h)
  | r :: rest =>
    if h.gi (ringRegs stream).en p = 0 || !h.hostPass p then (false, h)
    else if h.ringFits stream p r then
      match h.envelope r with
      | none => (false, h)
      | some (bytes, h) =>
        let q := h.recCheck stream p
        if q.1 then
          (true, (q.2.setRing stream p { x with backlog := rest }).ringWrite stream p r bytes (h.ringPad stream p r))
        else (false, q.2)
    else if x.reading then (false, h)
    else (false, (h.setRing stream p { x with reading := true }).emit
      (.wordRead stream (BitVec.ofNat 4 p) (BitVec.ofNat 64 (h.gi (ringRegs stream).cons p * 8))))

/-- Write the records of a backlog, oldest first. -/
def drain (h : Hub) (stream : Bool) (p : Nat) : Nat → Hub
  | 0 => h
  | fuel + 1 => let q := h.drainOne stream p; if q.1 then drain q.2 stream p fuel else q.2

/-- Queue a record on a ring and write what fits. -/
def pushRec (h : Hub) (stream : Bool) (p : Nat) (r : Rcd) : Hub :=
  let x := h.ring stream p
  let h := h.setRing stream p { x with backlog := x.backlog ++ [r] }
  (h.drain stream p (x.backlog.length + 1)).ringLimit stream p

/-- A completion-ring record (R283): kind, granules, status, opcode, count, tag, NSI, detail, body. -/
def cRec (h : Hub) (kind granules : Nat) (status opcode : BitVec 8) (count tag : Nat) (nsi : W64) (detail : Nat)
    (body : Bytes) : Bytes :=
  padTo (64 * granules) (le 1 (kind * 2 + (granules - 1) * 16) ++ le 1 status.toNat ++ le 1 opcode.toNat ++ le 1 count
    ++ le 4 tag ++ le 8 nsi.toNat ++ le 4 detail ++ le 4 0 ++ le 8 h.nt.toNat ++ body)

/-- Complete a command (R277): one COMMAND record, except for a quiet command that ends with ST_OK. DESIGN CHOICE (log 162): the
completion of a command that makes no transition leaves last_status (R33) as it is. -/
def complete (h : Hub) (c : Sub) (status : BitVec 8) (detail : Nat := 0) (nsi : W64 := 0) : Hub :=
  if c.line.flags.getLsbD 0 && status == St.ok then h
  else h.pushRec false c.part.toNat
    ⟨h.cRec 1 1 status c.op 0 c.line.tag.toNat nsi detail [], none, false, none⟩

/-- Complete a PARK or REVIVE command, at the next multiple of 1 ms while quantization is on (R441). -/
def completeQ (h : Hub) (c : Sub) (status : BitVec 8) (detail : Nat) (nsi : W64) : Hub :=
  if h.on F.SECCTL_quant_en then
    { h with quant := h.quant ++ [(BitVec.ofNat 64 (cdiv h.nt.toNat 1000000 * 1000000), c, status,
                                   BitVec.ofNat 32 detail, nsi)] }
  else h.complete c status detail nsi

/-- A NOTICE record for a journal entry of a session (R284). -/
def notice (h : Hub) (i : Handle) (code : Nat) (data : Nat) : Hub :=
  let r := (h.s i).r
  h.pushRec false r.part.toNat
    ⟨h.cRec 4 1 r.lastStatus 0 0 0 r.nsi 0
      (le 2 code ++ le 1 r.state.toNat ++ le 5 0 ++ le 8 data), some i, false, none⟩

/-! ### Transitions (R37) -/

/-- Journal codes whose entries also give a NOTICE (R284). -/
def noticed (code : Nat) : Bool := [0x0060, 0x0062, 0x0046, 0x0054, 0x0043].contains code

/-- Record a session event without a transition. -/
def record (h : Hub) (i : Handle) (code : Nat) (data : Nat) : Hub :=
  let st := (h.s i).r.state
  let h := h.jent i code st st data
  if noticed code then h.notice i code data else h

/-- Make a transition: prior, last_status, hstatus on entry into HALTED (R39), and the journal entry. -/
def trans (h : Hub) (i : Handle) (dst : BitVec 4) (status : BitVec 8) (code : Nat) (data : Nat) : Hub :=
  let old := (h.s i).r.state
  let h := h.modR i (fun r => { r with prior := old, state := dst, lastStatus := status
                                       hstatus := if dst == S.halted then status else r.hstatus })
  let h := h.jent i code dst old data
  if noticed code then h.notice i code data else h

/-- A touch (R46). -/
def touch (h : Hub) (i : Handle) : Hub := let t := h.nt; h.modR i (fun r => { r with touch := t })

end Hub

end Sys2Proof.Machine
end

