-- ==== Sys2Proof/Machine/Kv.lean ====
section
/-! DEFINITION. Cached attention state: the group's geometry (R52, R53, R169), root entries and tables (R63 to R66),
frames and references (R57, R75 to R77), reservations (R74), adapter history (R68), the prefix tree (R78 to R82) and
length buckets (R86, R89). -/

namespace Sys2Proof.Machine

namespace Hub

/-! ### The active plan and its model -/

/-- The plan image the device runs: the image of the active set for its group (R169, R221). -/
def plan (h : Hub) : Option Plan :=
  if h.g F.POOLROLE_size = 0 then none
  else (smGet [] h.im.plans (h.g F.POOLPLAN_active)).find? (fun p => p.base.toNat == h.g F.POOLROLE_base)

/-- The model image of the active plan. -/
def model (h : Hub) : Option Model :=
  match h.plan with
  | none => none
  | some p => h.im.models.find? (fun m => m.digest == p.model)

/-- The slices of a plan: one compiled without a layout has a single slice, with partition 0 and every cluster (R215). -/
def layout (p : Plan) : List Slice :=
  if p.slices.isEmpty then [{ part := 0, mask := BitVec.allOnes 64, start := 0, len := 2 ^ 64 }] else p.slices

/-- The active plan's layout has more than one partition (R215). -/
def multiPart (h : Hub) : Bool :=
  match h.plan with
  | none => false
  | some p => decide (1 < ((layout p).map (·.part)).dedup.length)

/-- Devices of the group, at least 1; in test mode the device runs every position itself (R496). -/
def groupN (h : Hub) : Nat := if h.on F.NFSTAT_test then 1 else max 1 (h.g F.POOLROLE_size)

/-- The group position q. -/
def position (h : Hub) : Nat := h.g F.POOLROLE_position

/-- The logical shards the device runs (R169); in buddy mode those of its pair (R410). -/
def shards (h : Hub) : List Nat :=
  if h.g F.POOLROLE_size = 0 then []
  else if h.on F.CKPTSTAT_buddy_mode then
    (List.range (2 * (64 / h.groupN))).map (· + 2 * (64 / h.groupN) * (h.position / 2))
  else (List.range (64 / h.groupN)).map (· + 64 / h.groupN * h.position)

/-- The root index a record names on the device at group position `q` (R63): KVROOT 0 is that of handle 0 at position 0 alone; elsewhere
it says that the session has no KV. -/
def rootIxAt (q : Nat) (r : Rec) : BitVec 32 := if r.kvroot = 0 ∧ q ≠ 0 then BitVec.allOnes 32 else r.rootIx

/-- The root index of a record of this device. -/
def rootIx (h : Hub) (r : Rec) : BitVec 32 := rootIxAt h.position r

/-- The device runs in the decode pool. -/
def inDecode (h : Hub) : Bool := h.g F.POOLROLE_role == 1

/-- The device runs in a prefill pool. -/
def inPrefill (h : Hub) : Bool := h.g F.POOLROLE_role == 2

/-- Window slots W of R69; 0 without window layers. -/
def wPages (m : Model) : Nat := if m.lw = 0 then 0 else m.win / 64 + 1

/-- Bytes of a piece's data area for a class of `layers` layers: D of R55. -/
def pieceBytes (m : Model) (layers : Nat) : Nat := layers * 2 * m.nkv * (m.dim * (if m.int4 then 4 else 8) / 8)

/-- The frame stride of a class (R57). -/
def stride (m : Model) (layers : Nat) : Nat := cdiv (pieceBytes m layers + 512) 512 * 512

/-- The context limit (R67). -/
def ctxLimit (h : Hub) : Nat :=
  match h.model with
  | none => 4194304
  | some m => min 4194304 m.maxPos.toNat

/-! ### Entries, tables and frames -/

end Hub

/-- Every entry of a session's token log is durable (R149, R150). -/
def Sess.logDurable (x : Sess) : Bool := decide (x.log.length ≤ x.durable.toNat)

/-- The rest a session would be parked with: WAITING, else READY; that of a parked session stands (R153, R184). -/
def Sess.restNow (x : Sess) : BitVec 4 :=
  if x.r.state == S.parked || x.r.state == S.parking || x.r.state == S.reviving then x.rest
  else if x.r.state == S.waiting then S.waiting else S.ready

/-- The 16 KiB session area (R149); the held bytes stand as a count and the bytes, and at 0x80 the bytes released in the turn (log 123). -/
def areaBytes (x : Sess) : Bytes :=
  padTo 16384 (padTo 0x2000 ((x.stack.map (fun s => le 2 s.toNat)).flatten) ++ padTo 0x1000 ((x.logbuf.map (fun t => le 4 t.toNat)).flatten)
    ++ padTo 0x200 (padTo 0x80 (le 1 x.held.length ++ x.held) ++ le 4 x.relOff) ++ le 4 x.restNow.toNat ++ le 4 x.durable.toNat)

/-- A directory entry or PTE: frame index, valid, shared, and the check over the folded index (R65). -/
def mkEntry (frame : Nat) (shared : Bool) (idx : Nat) : W64 :=
  let low := frame % 2 ^ 32 + 2 ^ 32 + b2n shared * 2 ^ 33
  BitVec.ofNat 64 (low + (crc32c (le 6 low ++ le 4 idx) % 2 ^ 16) * 2 ^ 48)

/-- The check field of an entry matches (R66). -/
def entryOk (e : W64) (idx : Nat) : Bool :=
  bitsOf e.toNat 63 48 == crc32c (le 6 (e.toNat % 2 ^ 48) ++ le 4 idx) % 2 ^ 16

/-- The frame an entry names. -/
def entryFrame (e : W64) : Nat := bitsOf e.toNat 31 0

/-- The shared bit of an entry. -/
def entryShared (e : W64) : Bool := bitsOf e.toNat 33 33 == 1

/-- The key of a frame: its class (0 global, 1 window) and index. -/
def frameKey (cls idx : Nat) : Nat := cls * 2 ^ 32 + idx

/-- The key of a root entry: root index and logical shard. -/
def rootKey (root : BitVec 32) (shard : Nat) : Nat := root.toNat * 64 + shard

namespace PFrame

/-- A byte of a frame; bytes never written read as 0. -/
def byte (f : PFrame) (i : Nat) : Byte := smGet 0 f.data i

/-- Write bytes from `i` on. -/
def putBytes (f : PFrame) (i : Nat) (b : Bytes) : PFrame :=
  { f with data := (b.zipIdx).foldl (fun m e => smSet 0 m (i + e.2) e.1) f.data }

/-- The number in `n` bytes from `i` on. -/
def num (f : PFrame) (i n : Nat) : Nat := ofLe ((List.range n).map (fun k => f.byte (i + k)))

end PFrame

/-- The lowest number from `lo` that keys nothing in an ordered table. -/
def lowestFree {β : Type} : Nat → SMap β → Nat
  | lo, [] => lo
  | lo, (k, _) :: m => if lo < k then lo else if k = lo then lowestFree (lo + 1) m else lowestFree lo m

namespace Hub

/-- Frames of a class in use. -/
def framesUsed (h : Hub) (cls : Nat) : Nat :=
  (h.kv.frames.filter (fun e => e.1 / 2 ^ 32 == cls)).length

/-- The frames of a class in the KV region of stone die `d`: its pool (R57). DEDUCED (log 14): the plan's frames are shared out evenly. -/
def diePool (h : Hub) (cls d : Nat) : Nat × Nat :=
  let t := if cls = 0 then h.kv.gTotal else h.kv.wTotal
  (t * d / 4, t * (d + 1) / 4)

/-- The stone dies that run the device's k-th shard (R54). DEDUCED (log 14): the shards lie on the stones in order. -/
def diesOf (h : Hub) (k : Nat) : List Nat :=
  let n := max 1 h.shards.length
  (List.range 4).filter (fun d => decide (k * 4 < (d + 1) * n ∧ d * n < (k + 1) * 4))

/-- Frames of a die's pool that are in use. -/
def dieUsed (h : Hub) (cls d : Nat) : Nat :=
  let p := h.diePool cls d
  (h.kv.frames.filter (fun e => e.1 / 2 ^ 32 == cls && decide (p.1 ≤ e.1 % 2 ^ 32 ∧ e.1 % 2 ^ 32 < p.2))).length

/-- Frames in the pools of the dies of the k-th shard neither in use nor reserved for a shard of those dies (R74). -/
def poolFree (h : Hub) (cls k : Nat) : Nat :=
  let ds := h.diesOf k
  let size := (ds.map (fun d => (h.diePool cls d).2 - (h.diePool cls d).1)).sum
  let used := (ds.map (h.dieUsed cls)).sum
  let resv := (((if cls = 0 then h.kv.resvG else h.kv.resvW).filter (fun e => h.diesOf (e.1 % 64) == ds)).map (·.2)).sum
  size - used - resv

/-- Frames of a class neither in use nor reserved (KVFREE). DESIGN CHOICE (log 133): R88 does not say whether a frame reserved under R74
is free; it is not. -/
def framesFree (h : Hub) (cls : Nat) : Nat :=
  let resv := ((if cls = 0 then h.kv.resvG else h.kv.resvW).map (·.2)).sum
  (if cls = 0 then h.kv.gTotal else h.kv.wTotal) - h.framesUsed cls - resv

/-- The lower of the free-frame fractions in per-mille (R161). -/
def framePm (h : Hub) : Nat :=
  let f (t cls : Nat) : Nat := if t = 0 then 1000 else h.framesFree cls * 1000 / t
  min (f h.kv.gTotal 0) (f h.kv.wTotal 1)

/-- Frames of a class reserved for a root index on the device's k-th shard. -/
def reserved (h : Hub) (cls : Nat) (root : BitVec 32) (k : Nat) : Nat := smGet 0 (if cls = 0 then h.kv.resvG else h.kv.resvW) (rootKey root k)

/-- Take a frame of a class for a shard of a root index, with one reference: the lowest free frame in the pool of one of the dies that run
the shard, from the root's reservation first; none where it has no reservation and the others leave no frame free (R54, R57, R74, R75).
DESIGN CHOICE (log 14): of several dies that run the shard the lowest with a free frame gives it. -/
def takeFrame (h : Hub) (cls : Nat) (root : BitVec 32) (sh : Nat) : Option (Nat × Hub) :=
  let k := h.shards.idxOf sh
  let own := h.reserved cls root k
  let taken := (h.kv.frames.filter (fun e => e.1 / 2 ^ 32 == cls)).map (fun e => (e.1 % 2 ^ 32, ()))
  let found := if own = 0 && h.poolFree cls k = 0 then none
    else (h.diesOf k).findSome? (fun d =>
      let i := lowestFree (h.diePool cls d).1 taken
      if i < (h.diePool cls d).2 then some i else none)
  found.map (fun i =>
    let less (l : SMap Nat) : SMap Nat := smSet 0 l (rootKey root k) (own - 1)
    let h := if cls = 0 then { h with kv := { h.kv with resvG := less h.kv.resvG } } else { h with kv := { h.kv with resvW := less h.kv.resvW } }
    (i, { h with kv := { h.kv with frames := smPut h.kv.frames (frameKey cls i) { refs := 1 } } }))

/-- Add a reference to a frame. -/
def addRef (h : Hub) (cls i : Nat) : Hub :=
  { h with kv := { h.kv with frames := smMod h.kv.frames (frameKey cls i) (fun f => { f with refs := f.refs + 1 }) } }

/-- Drop a reference; a frame without references returns to its pool (R75), or goes onto the deferred-release list while
a cut is retained (R400). -/
def dropRef (h : Hub) (cls i : Nat) : Hub :=
  let k := frameKey cls i
  match smLook h.kv.frames k with
  | none => h
  | some f =>
    if f.refs.toNat ≤ 1 then
      if h.ck.imgs.isEmpty then { h with kv := { h.kv with frames := smDel h.kv.frames k } }
      else { h with kv := { h.kv with frames := smPut h.kv.frames k { f with refs := 0 } }
                    ck := { h.ck with deferred := h.ck.deferred ++ [(0, k, h.ck.epoch)] } }
    else { h with kv := { h.kv with frames := smPut h.kv.frames k { f with refs := f.refs - 1 } } }

/-- Take the lowest free table-pool frame, numbered from 1. -/
def takeTable (h : Hub) (owner : Nat) : Nat × Hub :=
  let i := lowestFree 1 h.kv.tables
  (i, { h with kv := { h.kv with tables := smPut h.kv.tables i owner } })

/-- The root entry of a root index and shard. -/
def root? (h : Hub) (root : BitVec 32) (shard : Nat) : Option Root := smLook h.kv.roots (rootKey root shard)

/-- Store a root entry. -/
def putRoot (h : Hub) (root : BitVec 32) (shard : Nat) (x : Root) : Hub :=
  { h with kv := { h.kv with roots := smPut h.kv.roots (rootKey root shard) x } }

/-- Change the root entries of a root index on every shard the device runs. -/
def modRoots (h : Hub) (root : BitVec 32) (f : Root → Root) : Hub :=
  h.shards.foldl (fun h sh => { h with kv := { h.kv with roots := smMod h.kv.roots (rootKey root sh) f } }) h

/-- Create a root entry for each shard the device runs (R63, R64), where there is none. -/
def makeRoots (h : Hub) (root : BitVec 32) (share : Bool) : Hub :=
  let w := match h.model with
    | none => 0
    | some m => wPages m
  h.shards.foldl (fun h sh =>
    match h.root? root sh with
    | some _ => h
    | none =>
      let (d, h) := h.takeTable (rootKey root sh)
      let (r, h) := if w = 0 then (0, h) else h.takeTable (rootKey root sh)
      h.putRoot root sh { dir := BitVec.ofNat 64 (pairOf 32 d), ringt := BitVec.ofNat 64 (pairOf 32 r)
                          ring := w != 0, wPages := BitVec.ofNat 16 w, share := share }) h

/-- Release every frame reference of a root entry, keeping the entry (R153, R164). -/
def dropFrames (h : Hub) (root : BitVec 32) (sh : Nat) : Hub :=
  match h.root? root sh with
  | none => h
  | some x =>
    let h := x.ptes.foldl (fun h e => h.dropRef 0 (entryFrame e.2)) h
    let h := x.rptes.foldl (fun h e => h.dropRef 1 (entryFrame e.2)) h
    let gone := x.dirs.map (fun e => entryFrame e.2)
    let h := { h with kv := { h.kv with tables := h.kv.tables.filter (fun e => !gone.contains e.1) } }
    h.putRoot root sh { x with ptes := [], rptes := [], dirs := [] }

/-- A prefix node's references fall by one when a session that bound it lets go of its frames. -/
def unbind (h : Hub) (root : BitVec 32) : Hub :=
  match h.shards.head? with
  | none => h
  | some sh =>
    match h.root? root sh with
    | none => h
    | some x =>
      let rec go (h : Hub) (n : Nat) : Nat → Hub
        | 0 => h
        | fuel + 1 =>
          match smLook h.kv.nodes n with
          | none => h
          | some nd =>
            go { h with kv := { h.kv with nodes := smPut h.kv.nodes n { nd with refs := nd.refs - 1 } } }
              nd.parent.toNat fuel
      let h := go h x.pfxNode.toNat h.kv.nodes.length
      h.modRoots root (fun x => { x with pfxNode := 0, pfxBound := 0 })

/-- Release every frame reference of a root index (R75, R81: nodes stay until evicted). -/
def releaseFrames (h : Hub) (root : BitVec 32) : Hub :=
  h.shards.foldl (fun h sh => h.dropFrames root sh) (h.unbind root)

/-- Release the root entries of a root index with their tables. -/
def releaseRoots (h : Hub) (root : BitVec 32) : Hub :=
  let h := h.releaseFrames root
  h.shards.foldl (fun h sh =>
    let k := rootKey root sh
    { h with kv := { h.kv with roots := smDel h.kv.roots k, tables := h.kv.tables.filter (fun e => e.2 != k) } }) h

/-- The directory entry over linear page `p` of a root, with a leaf table of its own (R65). -/
def withDir (h : Hub) (root : BitVec 32) (sh p : Nat) : Hub :=
  match h.root? root sh with
  | none => h
  | some x =>
    if (smLook x.dirs (p / 512)).isSome then h
    else
      let (t, h) := h.takeTable (rootKey root sh)
      h.putRoot root sh { x with dirs := smPut x.dirs (p / 512) (mkEntry t false (p / 512)) }

/-- Put a piece into a private frame (R156, R176). -/
def putPiece (h : Hub) (root : BitVec 32) (sh cls slot : Nat) (d : SMap Byte) (poison : Bool) : Hub :=
  match h.takeFrame cls root sh with
  | none => h
  | some (i, h) =>
  let h := { h with kv := { h.kv with frames := smPut h.kv.frames (frameKey cls i) { refs := 1, data := d, poison := poison } } }
  match h.root? root sh with
  | none => h
  | some x =>
    let e := mkEntry i false slot
    if cls = 1 then h.putRoot root sh { x with rptes := smPut x.rptes slot e }
    else (h.putRoot root sh { x with ptes := smPut x.ptes slot e }).withDir root sh slot

/-- What the extent of a root index holds: the pieces of every shard the device runs (R154). -/
def capture (h : Hub) (root : BitVec 32) : List ExtShard :=
  let piece (cls : Nat) (e : Nat × W64) : Nat × (SMap Byte × Bool) :=
    let f : PFrame := smGet {} h.kv.frames (frameKey cls (entryFrame e.2))
    (e.1, (f.data, f.poison))
  h.shards.filterMap (fun sh => (h.root? root sh).map (fun x =>
    { shard := sh, root := x, pages := x.ptes.map (piece 0), rings := x.rptes.map (piece 1) }))

/-- Install one shard's root entry values and pieces in private frames (R156, R176). -/
def installExt (h : Hub) (root : BitVec 32) (x : ExtShard) : Hub :=
  if !h.shards.contains x.shard then h
  else
    let h := h.makeRoots root x.root.share
    let h := match h.root? root x.shard with
      | none => h
      | some r => h.putRoot root x.shard { r with kvLen := x.root.kvLen, pages := x.root.pages, head := x.root.head
                                                  share := x.root.share, histFull := x.root.histFull, hist := x.root.hist }
    let h := x.pages.foldl (fun h e => h.putPiece root x.shard 0 e.1 e.2.1 e.2.2) h
    x.rings.foldl (fun h e => h.putPiece root x.shard 1 e.1 e.2.1 e.2.2) h

/-- Copy root entries and tables for a FORK or a same-group move, sharing every frame (R77). -/
def copyRoots (h : Hub) (old new : BitVec 32) : Hub :=
  h.shards.foldl (fun h sh =>
    match h.root? old sh with
    | none => h
    | some x =>
      let share (idxd : SMap W64) : SMap W64 := idxd.map (fun e => (e.1, mkEntry (entryFrame e.2) true e.1))
      let x := { x with ptes := share x.ptes, rptes := share x.rptes }
      let h := h.putRoot old sh x
      let h := x.ptes.foldl (fun h e => h.addRef 0 (entryFrame e.2)) h
      let h := x.rptes.foldl (fun h e => h.addRef 1 (entryFrame e.2)) h
      let (d, h) := h.takeTable (rootKey new sh)
      let (r, h) := if x.ring then h.takeTable (rootKey new sh) else (0, h)
      let (ds, h) := x.dirs.foldl (fun (acc : SMap W64 × Hub) e =>
        let (i, h) := acc.2.takeTable (rootKey new sh)
        (acc.1 ++ [(e.1, mkEntry i false e.1)], h)) (([] : SMap W64), h)
      h.putRoot new sh { x with dir := BitVec.ofNat 64 (pairOf 32 d), ringt := BitVec.ofNat 64 (pairOf 32 r)
                                dirs := ds }) h

/-- kv_len advances to `n` on the device's shards (R72, R110). -/
def setKvLen (h : Hub) (root : BitVec 32) (n : Nat) : Hub :=
  h.modRoots root (fun x => { x with kvLen := BitVec.ofNat 32 n, pages := BitVec.ofNat 32 (cdiv n 64) })

/-- kv_len of a session: committed − 1, or 0 (R279). -/
def kvLenOf (r : Rec) : Nat := r.committed.toNat - 1

/-! ### Reservations (R74, R157) -/

/-- Frames per class that positions `first` to `first + k − 1` of a root can need on one shard: a new one for each page the shard writes
to and holds no piece of, and one for each copy on write. -/
def needOn (h : Hub) (m : Model) (root : BitVec 32) (first k sh : Nat) : Nat × Nat :=
  let G := 64 / max 1 m.nkv
  let pages := (((List.range k).filter (fun j => (first + j) % 64 % G == sh % G)).map (fun j => (first + j) / 64)).dedup
  let w := wPages m
  match h.root? root sh with
  | none => (pages.length, min pages.length w)
  | some x =>
    let frame (cls : Nat) (e : W64) : PFrame := smGet {} h.kv.frames (frameKey cls (entryFrame e))
    let copy (cls : Nat) (e : W64) : Nat := b2n (entryShared e && decide (1 < (frame cls e).refs.toNat))
    let g (p : Nat) : Nat := match smLook x.ptes p with
      | none => 1
      | some e => copy 0 e
    let r (p : Nat) : Nat := match smLook x.rptes (p % max 1 w) with
      | none => 1
      | some e => if (frame 1 e).num (pieceBytes m m.lw) 4 = 64 * p then copy 1 e else 1
    ((pages.map g).sum, if w = 0 then 0 else (pages.map r).sum)

/-- What positions can need on each shard the device runs. -/
def need (h : Hub) (root : BitVec 32) (first k : Nat) : List (Nat × Nat) :=
  match h.model with
  | none => []
  | some m => h.shards.map (h.needOn m root first k)

/-- Reserve frames for a root index where the pools of every shard's dies hold them, shards of the same dies together (R54, R57, R74). -/
def reserve (h : Hub) (root : BitVec 32) (n : List (Nat × Nat)) : Option Hub :=
  let beside (k : Nat) : List (Nat × Nat) := ((n.zipIdx).filter (fun e => h.diesOf e.2 == h.diesOf k)).map (·.1)
  if (n.zipIdx).all (fun e => decide (((beside e.2).map (·.1)).sum ≤ h.poolFree 0 e.2 ∧ ((beside e.2).map (·.2)).sum ≤ h.poolFree 1 e.2)) then
    let add (m : SMap Nat) (k x : Nat) : SMap Nat := smSet 0 m (rootKey root k) (smGet 0 m (rootKey root k) + x)
    some { h with kv := { h.kv with resvG := (n.zipIdx).foldl (fun m e => add m e.2 e.1.1) h.kv.resvG
                                    resvW := (n.zipIdx).foldl (fun m e => add m e.2 e.1.2) h.kv.resvW } }
  else none

/-- Give back what a root index has reserved and not used. -/
def unreserve (h : Hub) (root : BitVec 32) : Hub :=
  let others (m : SMap Nat) : SMap Nat := m.filter (fun e => e.1 / 64 != root.toNat)
  { h with kv := { h.kv with resvG := others h.kv.resvG, resvW := others h.kv.resvW } }

/-- Bytes of extent this device would write for a root index of `kv` positions (R154). -/
def extentBytes (h : Hub) (kv : Nat) (owner : Bool) : Nat :=
  match h.model with
  | none => 64 + (if owner then 16384 else 0)
  | some m =>
    let ns := h.shards.length
    let ringPieces := if m.lw = 0 then 0 else min (cdiv kv 64) (wPages m)
    64 + (if owner then 16384 else 0)
      + ns * (128 + cdiv kv 64 * stride m m.lg + ringPieces * stride m m.lw)

/-! ### Adapters in force (R102 to R104) and the adapter history (R68) -/

/-- The version current in a slot at `t`. -/
def adCurrent (h : Hub) (slot : Nat) (t : Nt) : Option AdVer :=
  ((smGet {} h.im.adapters slot).vers.filter (fun v =>
    match v.commit with
    | none => false
    | some c => decide (c ≤ t))).getLast?

/-- A version is live: loaded, committed and not freed. -/
def adLive (h : Hub) (slot : Nat) (ver : BitVec 16) (t : Nt) : Bool :=
  (smGet {} h.im.adapters slot).vers.any (fun v => v.ver == ver &&
    match v.commit with
    | none => false
    | some c => decide (c ≤ t))

/-- An adapter history entry (R64). -/
def histEntry (first slot ver : Nat) (none : Bool) : W64 :=
  BitVec.ofNat 64 (first % 2 ^ 32 + slot * 2 ^ 32 + ver * 2 ^ 42 + b2n none * 2 ^ 58 + 2 ^ 63)

/-- An entry is in use. -/
def histValid (e : W64) : Bool := e.getLsbD 63

/-- Record a binding in a root's adapter history where it differs from the newest (R68). -/
def histPush (x : Root) (first slot ver : Nat) (none : Bool) : Root :=
  let used := x.hist.takeWhile histValid
  let same := match used.getLast? with
    | Option.none => false
    | some e => bitsOf e.toNat 58 32 == bitsOf (histEntry first slot ver none).toNat 58 32
  if same then x
  else if used.length < 8 then { x with hist := x.hist.set used.length (histEntry first slot ver none) }
  else { x with histFull := true }

/-- The session's first root entry on this device. -/
def rootOf (h : Hub) (r : Rec) : Option Root :=
  match h.shards.head? with
  | none => none
  | some sh => h.root? (h.rootIx r) sh

/-- A session is recomputable (R158). -/
def recomputable (h : Hub) (i : Handle) : Bool :=
  let x := h.s i
  (match h.rootOf x.r with
    | none => true
    | some rt => !rt.histFull && (rt.hist.takeWhile histValid).all (fun e =>
        e.getLsbD 58 || h.adLive (bitsOf e.toNat 41 32) (BitVec.ofNat 16 (bitsOf e.toNat 57 42)) h.nt))
    && x.logDurable

/-! ### The prefix tree (R78 to R82) -/

/-- Replace the table of nodes. -/
def setNodes (h : Hub) (ns : SMap Node) : Hub := { h with kv := { h.kv with nodes := ns } }

/-- CRC-64 of a node's key. DEDUCED (log 8): scope word, parent and tokens in the layout of R78. -/
def nodeHash (scope parent : Nat) (toks : List (BitVec 32)) : W64 :=
  BitVec.ofNat 64 (crc64 (le 8 scope ++ le 4 parent ++ (toks.map (fun t => le 4 t.toNat)).flatten))

/-- The scope word of R78. -/
def scopeWord (tenant slot ver : Nat) (none : Bool) (fmt : Nat) : Nat :=
  tenant + slot * 2 ^ 24 + ver * 2 ^ 34 + b2n none * 2 ^ 50 + fmt * 2 ^ 51

/-- The scope of a session: tenant, adapter binding, KV format. -/
def scopeOf (h : Hub) (r : Rec) : Nat :=
  let fmt := match h.model with
    | none => 1
    | some m => if m.int4 then 1 else 2
  scopeWord r.tenant.toNat (if r.adBound then r.adSlot.toNat else 0) (if r.adBound then r.adVer.toNat else 0)
    (!r.adBound) fmt

/-- The scope word of a node. -/
def nodeScope (n : Node) : Nat := scopeWord n.tenant.toNat n.slot.toNat n.ver.toNat n.none n.fmt.toNat

/-- The node of a key: a hit only when the stored tokens compare equal. -/
def findNode (h : Hub) (scope parent page : Nat) (toks : List (BitVec 32)) : Option Nat :=
  (h.kv.nodes.find? (fun e => nodeScope e.2 == scope && e.2.parent.toNat == parent && e.2.page.toNat == page
    && e.2.toks == toks)).map (·.1)

/-- The scope under which a page of a tenant's root was computed: that of the one history entry that covers the page whole; none where more
than one does, or where the history is full and says no more (R68, R78, R79). -/
def scopeAt (h : Hub) (tenant : Nat) (rt : Root) (p : Nat) : Option Nat :=
  let used := rt.hist.takeWhile histValid
  let first (e : W64) : Nat := bitsOf e.toNat 31 0
  let fmt := match h.model with
    | none => 1
    | some m => if m.int4 then 1 else 2
  match (used.filter (fun e => decide (first e ≤ 64 * p))).getLast? with
  | none => none
  | some e =>
    if used.any (fun f => decide (64 * p < first f ∧ first f < 64 * p + 64)) || (rt.histFull && used.getLast? == some e) then none
    else some (scopeWord tenant (if e.getLsbD 58 then 0 else bitsOf e.toNat 41 32) (if e.getLsbD 58 then 0 else bitsOf e.toNat 57 42)
      (e.getLsbD 58) fmt)

/-- The scope of a page of a session. -/
def pageScope (h : Hub) (r : Rec) (rt : Root) (p : Nat) : Option Nat := h.scopeAt r.tenant.toNat rt p

/-- Page `p` of a root is bound to a node (R80): the PTEs with the shared bit, a reference on each frame, PFX. -/
def bindPage (h : Hub) (root : BitVec 32) (nd : Nat) (node : Node) (p : Nat) : Hub :=
  (h.shards.zipIdx).foldl (fun h e =>
    match h.root? root e.1, node.gframe[e.2]? with
    | some rt, some g =>
      let rt := { rt with ptes := smPut rt.ptes p (mkEntry g.toNat true p), pfxNode := BitVec.ofNat 32 nd
                          pfxBound := BitVec.ofNat 32 (p + 1) }
      let h := ((h.addRef 0 g.toNat).putRoot root e.1 rt).withDir root e.1 p
      match h.root? root e.1, node.wframe[e.2]? with
      | some rt, some w =>
        let sl := p % max 1 rt.wPages.toNat
        let h := match smLook rt.rptes sl with
          | none => h
          | some e => h.dropRef 1 (entryFrame e)
        (h.addRef 1 w.toNat).putRoot root e.1 { rt with rptes := smPut rt.rptes sl (mkEntry w.toNat true sl), head := BitVec.ofNat 16 sl }
      | _, _ => h
    | _, _ => h) h

/-- Bind the longest chain of nodes matching a session's input, at most ⌊(n − 1) ÷ 64⌋ pages, each in the scope its page is computed
under (R80). -/
def bindPrefix (h : Hub) (i : Handle) (n : Nat) : Hub :=
  let x := h.s i
  match h.rootOf x.r with
  | none => h
  | some rt =>
    if !(rt.share && h.on F.KVCTL_pfx_en) then h
    else
      let rec go (h : Hub) (p parent : Nat) : Nat → Hub
        | 0 => h
        | fuel + 1 =>
          match (h.pageScope x.r rt p).bind (fun sc => h.findNode sc parent p ((x.log.drop (64 * p)).take 64)) with
          | none => h
          | some nd =>
            match smLook h.kv.nodes nd with
            | none => h
            | some node =>
              let h := h.setNodes (smPut h.kv.nodes nd { node with refs := node.refs + 1, touch := h.nt })
              go ((h.bindPage (h.rootIx x.r) nd node p).inc F.KVBIND_pages) (p + 1) nd fuel
      go h 0 0 ((n - 1) / 64)

/-- The frames of page `p` on every shard, of the linear region and of the ring: none where a shard holds no piece of the page; a ring
slot that a later page has taken gives no frame (log 125). -/
def pageFrames (h : Hub) (root : BitVec 32) (p : Nat) : Option (List (BitVec 32) × List (BitVec 32)) :=
  let rts := h.shards.filterMap (fun sh => h.root? root sh)
  let gs := rts.filterMap (fun rt => smLook rt.ptes p)
  if gs.length < h.shards.length then none
  else
    let ws := match h.model with
      | none => []
      | some m => rts.filterMap (fun rt => (smLook rt.rptes (p % max 1 (wPages m))).bind (fun e =>
          if (smGet ({} : PFrame) h.kv.frames (frameKey 1 (entryFrame e))).num (pieceBytes m m.lw) 4 = 64 * p then some e else none))
    let ix (l : List W64) : List (BitVec 32) := l.map (fun e => BitVec.ofNat 32 (entryFrame e))
    some (ix gs, if ws.length < h.shards.length then [] else ix ws)

/-- A new node (R78). -/
def nodeOf (sc parent page : Nat) (tenant : BitVec 24) (t : Nt) (gs ws : List (BitVec 32)) (toks : List (BitVec 32)) : Node :=
  { parent := BitVec.ofNat 32 parent, tenant := tenant, slot := BitVec.ofNat 10 (bitsOf sc 33 24)
    ver := BitVec.ofNat 16 (bitsOf sc 49 34), none := bitsOf sc 50 50 == 1
    fmt := BitVec.ofNat 4 (bitsOf sc 54 51), page := BitVec.ofNat 32 page, touch := t
    gframe := gs, wframe := ws, hash := nodeHash sc parent toks, toks := toks }

/-- Insert nodes for the pages of a confirmed prefill that began at position `start`, after the pages that are in the tree (R79). -/
def insertPrefix (h : Hub) (i : Handle) (start : Nat) : Hub :=
  let x := h.s i
  match h.rootOf x.r with
  | none => h
  | some rt =>
    if !(rt.share && h.on F.KVCTL_pfx_en) then h
    else
      let rec go (h : Hub) (p parent : Nat) : Nat → Hub
        | 0 => h
        | fuel + 1 =>
          let toks := (x.log.drop (64 * p)).take 64
          match h.pageScope x.r rt p with
          | none => h
          | some sc =>
            match h.findNode sc parent p toks with
            | some nd => go h (p + 1) nd fuel
            | none =>
              if 64 * p < start ∨ h.g F.KVPFXLIM_limit ≤ h.kv.nodes.length then h
              else
                match h.pageFrames (h.rootIx x.r) p with
                | none => h
                | some (gs, ws) =>
                  let nd := lowestFree 1 h.kv.nodes
                  let h := gs.foldl (fun h g => h.addRef 0 g.toNat) h
                  let h := ws.foldl (fun h w => h.addRef 1 w.toNat) h
                  let node := nodeOf sc parent p x.r.tenant h.nt gs ws toks
                  let nodes := smMod h.kv.nodes parent (fun n => { n with children := n.children + 1 })
                  go { h with kv := { h.kv with nodes := smPut nodes nd node } } (p + 1) nd fuel
      go h 0 0 (kvLenOf x.r / 64)

/-- Remove a node and release its frames. -/
def dropNode (h : Hub) (nd : Nat) : Hub :=
  match smLook h.kv.nodes nd with
  | none => h
  | some n =>
    let h := n.gframe.foldl (fun h g => h.dropRef 0 g.toNat) h
    let h := n.wframe.foldl (fun h w => h.dropRef 1 w.toNat) h
    h.setNodes (smMod (smDel h.kv.nodes nd) n.parent.toNat (fun p => { p with children := p.children - 1 }))

/-- The nodes that hold a poisoned frame which a session's own entries name: nodes it has bound and nodes it has inserted (R82). -/
def poisonedNodes (h : Hub) (r : Rec) : List (BitVec 32) :=
  let rts := h.shards.filterMap (fun sh => h.root? (h.rootIx r) sh)
  let mine (cls : Nat) : List Nat := ((rts.flatMap (fun x => (if cls = 0 then x.ptes else x.rptes).map (fun e => entryFrame e.2))).filter (fun i =>
    (smGet ({} : PFrame) h.kv.frames (frameKey cls i)).poison))
  let g := mine 0
  let w := mine 1
  (h.kv.nodes.filter (fun e => e.2.gframe.any (fun i => g.contains i.toNat) || e.2.wframe.any (fun i => w.contains i.toNat))).map
    (fun e => BitVec.ofNat 32 e.1)

/-- The ring slots of the pages that a window layer reads for queries from position `n` on: those of the positions below it in the window of
the first (R69, R70). -/
def windowSlots (h : Hub) (n : Nat) : List Nat :=
  match h.model with
  | none => []
  | some m =>
    let lo := (n + 1 - m.win) / 64
    if m.lw = 0 ∨ n = 0 then [] else (List.range ((n - 1) / 64 + 1 - lo)).map (fun k => (lo + k) % max 1 (wPages m))

/-- What attention finds in the KV below position `n` of a root on the device's shards for queries from `n` on: the byte offset in its table
of an entry whose check field does not match (R66), or 0 for a poisoned frame (R380). -/
def kvFault (h : Hub) (root : BitVec 32) (n : Nat) : Option Nat :=
  let slots := h.windowSlots n
  let look (cls : Nat) (l : SMap W64) : Option Nat :=
    l.findSome? (fun e => if !entryOk e.2 e.1 then some (e.1 % 512 * 8)
      else if (smGet ({} : PFrame) h.kv.frames (frameKey cls (entryFrame e.2))).poison then some 0 else none)
  h.shards.findSome? (fun sh =>
    match h.root? root sh with
    | none => none
    | some x =>
      let dirs := x.dirs.findSome? (fun e => if e.1 * 32768 < n ∧ !entryOk e.2 e.1 then some (e.1 % 512 * 8) else none)
      match dirs with
      | some o => some o
      | none => (look 0 (x.ptes.filter (fun e => decide (64 * e.1 < n)))).or (look 1 (x.rptes.filter (fun e => slots.contains e.1))))

/-- Every root entry of a record on this device passes the check of its paired words (R64, R375). -/
def rootsOk (h : Hub) (r : Rec) : Bool :=
  h.shards.all (fun sh => match h.root? (h.rootIx r) sh with
    | none => true
    | some x => pairOk 32 x.dir.toNat && pairOk 32 x.ringt.toNat)

/-- Remove a node and all its descendants (R82). -/
def dropSubtree (h : Hub) (nd : Nat) : Nat → Hub
  | 0 => h
  | fuel + 1 =>
    let kids := (h.kv.nodes.filter (fun e => e.2.parent.toNat == nd)).map (·.1)
    (kids.foldl (fun h k => dropSubtree h k fuel) h).dropNode nd

/-- A node that held poisoned data leaves the tree with its descendants (R82). DESIGN CHOICE (log 153): PFX of a root that named one of them
names the parent of the removed node, the deepest node it has still bound. -/
def killNode (h : Hub) (nd : Nat) : Hub :=
  match smLook h.kv.nodes nd with
  | none => h
  | some n =>
    let h := h.dropSubtree nd (h.kv.nodes.length + 1)
    let left := h.kv.nodes.map (·.1)
    let cut (x : Root) : Root :=
      if x.pfxNode = 0 ∨ left.contains x.pfxNode.toNat then x
      else { x with pfxNode := n.parent, pfxBound := if n.parent = 0 then 0 else n.page }
    { h with kv := { h.kv with roots := h.kv.roots.map (fun e => (e.1, cut e.2)) } }

/-- The node that position 0 selects for eviction: without bindings or children, oldest touch first (R81). DESIGN CHOICE (log 132): of
nodes with equal touch the lower number. -/
def evictCandidate (h : Hub) : Option Nat :=
  (h.kv.nodes.filter (fun e => e.2.refs == 0 && e.2.children == 0)).foldl (fun best e =>
    match best with
    | none => some (e.1, e.2.touch)
    | some (k, t) => if e.2.touch < t then some (e.1, e.2.touch) else some (k, t)) (none : Option (Nat × Nt))
  |>.map (·.1)

/-! ### Buckets (R86, R89) -/

/-- Sample the thresholds: a set that does not rise strictly is kept out and sets bkt_err (R89). -/
def sampleBuckets (h : Hub) : Hub :=
  let v := (List.range 15).map (fun b => h.gi F.KVBKT_pages b)
  if (v.zip (v.drop 1)).all (fun e => decide (e.1 < e.2)) then { h with kv := { h.kv with buckets := v } }
  else h.p F.KVCTL_bkt_err 1

/-- The bucket of a length in pages. -/
def bucketOf (h : Hub) (n : Nat) : Nat :=
  let b := h.kv.buckets.findIdx (fun x => decide (n ≤ x))
  min b 15

end Hub

end Sys2Proof.Machine
end

