-- ==== Sys2Proof/Machine/Domains.lean ====
section
/-! DEFINITION. Power domains (18_module_power.md): wake requests and their tokens (R463, R464), and the domains that a plan
activation or a takeover keeps off (R461, R462). -/

namespace Sys2Proof.Machine

namespace Hub

/-! ### Wake requests (R463) -/

/-- The cost of waking a domain in W (R463). -/
def wakeCost (dom : Nat) : Nat :=
  if dom ≤ 7 then 10 else if dom ≤ 11 then 18 else if dom ≤ 15 then 12 else if dom ≤ 23 then 24 else 36

/-- A domain is powered. -/
def powered (h : Hub) (dom : Nat) : Bool := bitsOf (h.g F.PWRDOM_on) dom dom == 1

/-- The governor grants a wake or a start: its cost leaves the bucket, and a domain that was off is on. -/
def grant (h : Hub) (dom : Nat) : Hub :=
  let u : Hub := { h with pw := { h.pw with tokens := h.pw.tokens - wakeCost dom } }
  if h.powered dom then u else u.p F.PWRDOM_on (setBits (h.g F.PWRDOM_on) dom dom 1)

/-- A request for a wake token: granted at once while the bucket is above zero and nothing waits; else held and counted (R463). An armed
WAKE_HOLD withholds grants (R472). -/
def token (h : Hub) (dom : Nat) : Hub :=
  if h.pw.reqs.any (fun r => r.2 == dom) then h
  else
    let h := match h.fireAt 0x22 (fun _ => true) with
      | (some x, h) =>
        let t : Nt := BitVec.ofNat 64 (max h.pw.grantAt.toNat (h.nt.toNat + x.b.toNat * 1000))
        ({ h with pw := { h.pw with grantAt := t } } : Hub)
      | (none, h) => h
    if h.pw.reqs.isEmpty && decide (0 < h.pw.tokens) && decide (h.pw.grantAt ≤ h.nt) then h.grant dom
    else ({ h with pw := { h.pw with reqs := h.pw.reqs ++ [(h.nt, dom)] } } : Hub).inc F.PWRWAKEDLY_count

/-- A wake request: a domain that is on needs none (R463). -/
def wake (h : Hub) (dom : Nat) : Hub := if h.powered dom then h else h.token dom

/-- A slot issues on logical stone `l`: the start of bundle issue in a cluster domain that has issued nothing for PWRIDLE µs needs a token
(R463). That the start is held is time alone (log 100). -/
def startIssue (h : Hub) (l : BitVec 11) : Hub :=
  let d := 24 + l.toNat / 64
  let idle := match smLook h.pw.issued d with
    | none => true
    | some u => decide (u.toNat + max 1 (h.g F.PWRIDLE_idle) * 1000 ≤ h.nt.toNat)
  let h := { h with pw := { h.pw with issued := smPut h.pw.issued d h.nt } }
  if idle && h.powered d then h.token d else h

/-! ### Gating (R462, R464) -/

/-- The two clusters of a cluster domain (R461). -/
def domClusters (d : Nat) : List Nat := let c := 16 * ((d - 24) / 8) + 2 * ((d - 24) % 8); [c, c + 1]

/-- A domain that R462 keeps off under the active plan: Quern without an index, a group of Molair ports none of which is wired,
a pair of clusters that no slice names. -/
def keptOff (h : Hub) (d : Nat) : Bool :=
  if d = 3 then !h.on F.QCTL_enable && h.qn.idx.isEmpty
  else if 8 ≤ d ∧ d < 12 then (List.range 4).all (fun m => h.gi F.MOLPSTAT_state (4 * (d - 8) + m) == 0)
  else if 24 ≤ d then
    h.on F.HDEVIDX_spare || (match h.plan with
      | none => true
      | some p => (domClusters d).all (fun c => !(layout p).any (fun s => s.mask.getLsbD c)))
  else false

/-- A plan activation or a takeover decides which domains are kept off; the others ask for tokens, which are held for the
device's stagger (R462, R464). -/
def gate (h : Hub) : Hub :=
  let off (d : Nat) : Bool := h.on F.PWRCTL_gate_en && h.keptOff d
  let h := ((List.range 56).filter off).foldl (fun (h : Hub) d => h.p F.PWRDOM_on (setBits (h.g F.PWRDOM_on) d d 0)) h
  let at_ : Nt := BitVec.ofNat 64 (max h.pw.grantAt.toNat (h.nt.toNat + h.dev * h.g F.PWRSTAG_index_ns))
  let ds := (List.range 56).filter (fun d => !off d && !h.powered d)
  let h : Hub := if ds.isEmpty then h else { h with pw := { h.pw with grantAt := at_ } }
  ds.foldl (fun h d => h.wake d) h

end Hub

end Sys2Proof.Machine
end

