-- ==== Sys2Proof/Machine/Wiring.lean ====
section
/-! DEFINITION. The wiring of a node: coordinates, the peer of each port, spares and what they cover (R237, R238). -/

namespace Sys2Proof.Machine

/-- The coordinate of a device index in dimension `k` (0 x, 1 y, 2 z). -/
def coord (d k : Nat) : Nat := bitsOf d (2 * k + 1) (2 * k)

/-- The peer of rank `r` in dimension `k` of a node of `n` devices. -/
def peerRank (n d k r : Nat) : Option Nat :=
  let vals := (List.range 4).filter (fun c => c != coord d k && decide (setBits d (2 * k + 1) (2 * k) c < n))
  (vals[r]?).map (fun c => setBits d (2 * k + 1) (2 * k) c)

/-- The active devices that spare `s` links to, by its port (R238). -/
def spareLinks (n s : Nat) : List Nat :=
  if n = 16 then List.range 16
  else if n = 32 then (List.range 32).filter (fun d => coord d 0 == s % 4 || coord d 1 == 2 * (s / 4))
  else []

/-- The devices that spare `s` covers. -/
def covers (n s : Nat) : List Nat :=
  if n = 16 then List.range 16
  else if n = 32 then [s % 4 + 4 * (2 * (s / 4)), s % 4 + 4 * (2 * (s / 4)) + 16]
  else []

/-- The device at the other end of a port of an active device, spares numbered from `n` (R237). -/
def wired (n d p : Nat) : Option Nat :=
  if p < 3 then peerRank n d 0 p
  else if p < 6 then peerRank n d 1 (p - 3)
  else if n = 16 then (if p < 14 then some (n + (p - 6)) else none)
  else if n = 32 then
    if p < 8 then peerRank n d 2 0
    else if (spareLinks n (p - 8)).contains d then some (n + (p - 8)) else none
  else if p < 9 then peerRank n d 2 (p - 6)
  else if p < 12 then peerRank n d 2 (p - 9)
  else if p < 15 then peerRank n d 1 (p - 12)
  else none

/-- The device at the other end of a port of any device of the node. -/
def wiredTo (n d p : Nat) : Option Nat := if d < n then wired n d p else (spareLinks n (d - n))[p]?

/-- The number of the peer's port on a link: the port of the same rank among those that join the two (R237). -/
def wiredPort (n d p : Nat) : Option Nat :=
  match wiredTo n d p with
  | none => none
  | some e =>
    let mine := (List.range p).countP (fun q => wiredTo n d q == some e)
    ((List.range 16).filter (fun q => wiredTo n e q == some d))[mine]?

/-- The logical ports of a device that lead to another. -/
def portsBetween (n d e : Nat) : List Nat := (List.range 15).filter (fun p => wiredTo n d p == some e)

end Sys2Proof.Machine
end

