-- ==== Sys2Proof/Machine/Inject.lean ====
section
/-! DEFINITION. Armed injection points at their opportunities (R391, R392), check failures of a die and the charge to a
physical stone (R384, R387), and the raising of a group fault (R389). -/

namespace Sys2Proof.Machine

namespace Hub

/-- The physical stone of a logical stone (R188, R212). -/
def physOf (h : Hub) (l : Nat) : Nat := h.gi F.STONEMAP_phys l

/-- The group step counter. -/
def stepNo (h : Hub) : Nat := h.g F.MOLSTEP_step

/-- The device's check for the step in progress fails (R384): the failure is counted and recorded, and charged to the
physical stone that ran the bundle (R387). Stone 0xFFFF stands for the hub. -/
def checkFail (h : Hub) (cnt : Fld) (l : Nat) (injected : Bool) : Hub :=
  let die := if l = 0xFFFF then 4 else l / 512
  let h := h.inc cnt
  let h := h.devEv 0x0107 die (l + h.stepNo % 2 ^ 47 * 2 ^ 16 + injBit injected)
  let h := h.flag F.INTSTAT_residue 32
  let cur := h.grp.cur.map (fun c => { c with chkOk := false })
  let h := { h with grp := { h.grp with cur := cur } }
  if l = 0xFFFF then h
  else
    let ph := die * 576 + h.physOf l
    let win := max 1 (h.g F.INTRETWIN_ms) * 1000000
    let again := h.resFails.any (fun e => e.1 == ph && decide (h.nt.toNat < e.2.toNat + win))
    let h := { h with resFails := (ph, h.nt) :: h.resFails }
    if again && h.on F.STONECTL_retire_en then
      let cur := h.grp.cur.map (fun c => { c with retire := c.retire ++ [BitVec.ofNat 11 l] })
      { h with grp := { h.grp with cur := cur } }
    else h

/-- A stone has scrubbed: counted, its length kept (a free value of at most 900 steps); a read-back mismatch is an uncorrectable
scratch error (R437, R443). -/
def scrubbed (h : Hub) (l : Nat) : Hub :=
  let (v, h) := h.fresh
  let h := (h.inc F.SECSCRUBS_count).p F.SECSCRUBMAX_steps (max (h.g F.SECSCRUBMAX_steps) (v.toNat % 901))
  let (hit, h) := h.fireInj 0x32 (fun i => i.a.toNat == l)
  if hit then h.checkFail F.INTSCRUE_count l true else h

/-- The device's group is in group fault. -/
def faulted (h : Hub) : Bool := h.on F.POOLSTAT_group_fault

/-- The physical port that carries a logical port (R237, R238). -/
def portOf (h : Hub) (lp : Nat) : Nat :=
  ((List.range 16).find? (fun n => h.gi F.MOLREMAP_primary n == lp || h.gi F.MOLREMAP_second n == lp)).getD lp

/-- The logical ports the group's leats may use: those whose link stays inside the group (R222, R237). -/
def groupPorts (h : Hub) : List Nat :=
  let b := h.g F.POOLROLE_base
  (List.range 15).filter (fun p => match wired (h.g F.NFNODE_active) h.dev p with
    | none => false
    | some e => decide (b ≤ e ∧ e < b + h.g F.POOLROLE_size))

/-- Commands on the device's sessions that wait complete with ST_DEVICE_FAULT (R277, R389). -/
def failHeld (h : Hub) : Hub :=
  let h := h.sess.foldl (fun h e =>
    (e.2.actions ++ e.2.parkSubs ++ e.2.revSubs).foldl (fun h c => h.complete c St.deviceFault 0 e.2.r.nsi) h) h
  let h := h.hopq.foldl (fun h q => match q.sub with
    | some c => h.complete c St.deviceFault 0 (h.s q.h).r.nsi
    | none => h) h
  let h := h.hopq.foldl (fun h q => h.modS q.h (fun x => { x with intakes := x.intakes - 1 })) h
  let h := (h.ck.forced ++ h.aix.held).foldl (fun h c => h.complete c St.deviceFault) h
  let clear (x : Sess) : Sess := { x with actions := [], parkSubs := [], revSubs := [] }
  let t := h.nt
  { h with hopq := [], aix := { h.aix with held := [] }, sess := h.sess.map (fun e => (e.1, clear e.2)), ck := { h.ck with forced := [], faultNt := some t } }

/-- Entry into a group fault (R389): the steps in flight stop and none of them is confirmed, the fault is recorded and
signalled, and waiting commands complete (R277). -/
def enterFault (h : Hub) (cause dev : Nat) : Hub :=
  if h.faulted || h.g F.POOLROLE_size = 0 then h
  else
    let h := (h.p F.POOLSTAT_group_fault 1).p F.INTSTAT_group_fault 1
    let h := ((h.p F.INTFAULT_cause cause).p F.INTFAULT_device dev).p F.INTFAULT_step h.stepNo
    let h := h.p F.INTFAULTNT_nt h.nt.toNat
    let h := h.devEv 0x0204 4 (cause + dev * 2 ^ 8 + h.stepNo % 2 ^ 47 * 2 ^ 16)
    let h := (h.signal 33).failHeld
    { h with grp := { h.grp with cur := none, prev := none, frames := [], ready := none }
             diag := { h.diag with trigs := h.diag.trigs ++ [(h.nt, 1, none)] } }

/-- The device raises a group fault (R389): it enters the fault and tells its group on every port its leats use. -/
def raiseFault (h : Hub) (cause : Nat) : Hub :=
  if h.faulted || h.g F.POOLROLE_size = 0 then h
  else
    let h := h.enterFault cause h.dev
    h.groupPorts.foldl (fun h p => h.emit (.control (BitVec.ofNat 4 (h.portOf p)) 0x20 (BitVec.ofNat 24 cause))) h

/-- Levels of the output pins: PWR_OK, FAULT#, THERMTRIP#, SMB_ALERT# (R448, R456, R469). -/
def pinLevels (h : Hub) : List Bool :=
  [h.pw.ok, !(h.on F.INTSTAT_group_fault || h.on F.PWRSTAT_ploss || h.on F.PWRSTAT_ttrip), !h.pw.trip,
    !(h.on F.PWRSTAT_tj_warn || h.on F.PWRSTAT_capping)]

/-- Output pins that have changed since `old` take their new levels. -/
def pinPass (old h : Hub) : Hub :=
  (((pinLevels old).zip (pinLevels h)).zipIdx).foldl (fun h e =>
    if e.1.1 = e.1.2 then h else h.emit (.pin (BitVec.ofNat 2 e.2) e.1.2)) h

/-- What closes every command: a record that failed its check twice is a group fault of the hub (R373), cached tickets
that changed since `old` are invalidated (R281), and the output pins follow the state (R448). -/
def finish (old h : Hub) : Hub :=
  pinPass old <| Hub.snoopPass old (if h.hubBad then { h with hubBad := false }.raiseFault 0xA else h)

end Hub

/-- A command that acts on the hub alone: node time moves to the stamp and the effect follows. -/
def onHub (t : Nt) (f : Hub → Hub) (s : State) : Host.Outcome State Fault Refusal :=
  .next { s with hub := Hub.finish s.hub (f (s.hub.stamp t)) }

end Sys2Proof.Machine
end

