-- ==== Sys2Proof/Machine/Granary.lean ====
section
/-! DEFINITION. The Granary controller's bookkeeping (12_granary_ftl.md): objects, logical units and the tun (R294 to
R299), free blocks, weirs and the throttle (R311, R315), the open stripes (R308), retirement and read-only mode (R319 to
R321). -/

namespace Sys2Proof.Machine

/-- The key of an object: its kind (R294) and who owns it. -/
def objKey (kind id : Nat) : Nat := kind * 2 ^ 72 + id

/-- Model, plan, grammar and program images by their number. -/
def modelKey (d : BitVec 256) : Nat := objKey 3 (d.toNat % 2 ^ 64)
def planKey (slot base : Nat) : Nat := objKey 4 (slot * 256 + base)
def gramKey (slot : Nat) : Nat := objKey 5 slot
def progKey (slot : Nat) : Nat := objKey 5 (2 ^ 32 + slot)

/-- The key of a block. -/
def blkKey (d b : Nat) : Nat := d * 16384 + b

/-- Bytes of a logical unit. -/
def unitBytes : Nat := 65536

/-- Token log entries in a log unit (R295). -/
def logEntries : Nat := 16376

namespace Hub

/-- Logical units of the Granary (R291). -/
def grnUnits (_h : Hub) : Nat := if Config.cap64 then 976562500 else 488281250

/-- Dies of the Granary. -/
def grnDies (_h : Hub) : Nat := if Config.cap64 then 256 else 128

/-- Free user space in units. -/
def grnFreeUnits (h : Hub) : Nat := h.grnUnits - h.gr.units.length

/-- The Granary is in read-only mode. -/
def grnRo (h : Hub) : Bool := h.on F.GRNSTAT_readonly

/-- Change the controller's state. -/
def modG (h : Hub) (f : Gran → Gran) : Hub := { h with gr := f h.gr }

/-! ### Dies and weirs (R292, R311, R315) -/

/-- A die as manufactured. -/
def die0 (d : Nat) : GDie := ⟨Config.dataBlocks d, Config.spareBlocks d⟩

/-- A die. -/
def gdie (h : Hub) (d : Nat) : GDie := smGet (die0 d) h.gr.dies d

/-- Replace a die. -/
def setDie (h : Hub) (d : Nat) (x : GDie) : Hub := h.modG (fun g => { g with dies := smSet (die0 d) g.dies d x })

/-- The erase count of a block. -/
def erases (h : Hub) (d b : Nat) : Nat := smGet (Config.eraseCount d b).toNat h.gr.erases (blkKey d b)

/-- The free fraction of a die in per-mille (R311). -/
def freePm (h : Hub) (d : Nat) : Nat := (h.gdie d).free.length * 1000 / 7973

/-- F_min and the lowest die that has it (R311). -/
def fMin (h : Hub) : Nat × Nat :=
  (List.range h.grnDies).foldl (fun best d => if h.freePm d < best.1 then (h.freePm d, d) else best) (1001, 0)

/-- The throttle factor of R315. -/
def throttle (h : Hub) : Nat :=
  let f := h.fMin.1
  let low := h.gr.weir.2.1
  let crit := h.gr.weir.2.2
  min 1000 ((f - crit) * 1000 / (low - crit))

/-- The GC modes that GRNSTAT shows (R311): idle GC ends once no die is below bg_pm, or it is switched off. -/
def gcModes (h : Hub) : Hub :=
  (h.p F.GRNSTAT_fg_gc (b2n (decide (h.fMin.1 < h.gr.weir.2.1)))).p F.GRNSTAT_bg_gc
    (b2n (h.on F.GRNSTAT_bg_gc && h.on F.GRNCTL_bg_gc_en && decide (h.fMin.1 < h.gr.weir.1)))

/-- The throttle register and the GC modes after a block is erased or allocated (R311, R315). -/
def weirs (h : Hub) : Hub := (h.p F.GRNTHROT_f h.throttle).gcModes

/-- GRNWEIR and GRNCRIT are sampled at each write of either; a set out of order is ignored (R325). -/
def sampleWeir (h : Hub) : Hub :=
  let a := h.g F.GRNWEIR_bg_pm
  let b := h.g F.GRNWEIR_low_pm
  let c := h.g F.GRNCRIT_crit_pm
  if b < a ∧ c < b ∧ 0 < c then h.modG (fun g => { g with weir := (a, b, c) }) else h.p F.GRNSTAT_cfg_err 1

/-- Traffic reaches the controller: idle GC stops, and a write clears GRNSTAT.clean (R311, R322). -/
def grnTraffic (h : Hub) (write : Bool) : Hub :=
  let t := h.nt
  let h := (h.modG (fun g => { g with lastNt := t })).p F.GRNSTAT_bg_gc 0
  if write then h.p F.GRNSTAT_clean 0 else h

/-- The map entry of a unit (R301): poison, die, block, physical unit; all ones in [30:0] where it is unmapped. -/
def mapEntry (x : GUnit) : BitVec 32 :=
  BitVec.ofNat 32 (b2n x.poison * 2 ^ 31 + match x.loc with
    | none => 0x7FFFFFFF
    | some p => p.die % 256 * 2 ^ 23 + p.block % 16384 * 2 ^ 9 + p.unit % 512)

/-- The map entry of a logical unit. -/
def entryOf (h : Hub) (u : Nat) : BitVec 32 := ((smLook h.gr.units u).map mapEntry).getD 0x7FFFFFFF

/-- Map lines and pages (R302): 15 entries a line, 1,024 lines a page. -/
def mapPageOf (u : Nat) : Nat := u / 15360

/-- Line `m` of the map: its entries and the CRC-32C over them with `m` folded in (R302). -/
def mapLine (h : Hub) (m : Nat) : Bytes :=
  let b := ((List.range 15).map (fun k => le 4 (h.entryOf (15 * m + k)).toNat)).flatten
  b ++ le 4 (crc32c (b ++ le 4 m))

/-- The 64 KiB of a map page. -/
def mapPage (h : Hub) (pg : Nat) : Bytes := ((List.range 1024).map (fun k => h.mapLine (1024 * pg + k))).flatten

/-- The pages in the hot set. DESIGN CHOICE (log 161): pages 0 to 16,383 fill it at a start. -/
def inHot (h : Hub) (pg : Nat) : Bool := h.gr.hot.contains pg || (decide (pg < 16384) && !h.gr.cooled.contains pg)

/-- An access to a hot page makes it the most recently used (R303). -/
def touchPage (h : Hub) (u : Nat) : Hub :=
  let pg := mapPageOf u
  if h.inHot pg then h.modG (fun g => { g with hot := pg :: g.hot.filter (· != pg) }) else h

/-- The entry of unit `u` can be used: its page is hot, and not one that is being rebuilt (R305, R306). -/
def pageHere (h : Hub) (u : Nat) : Bool := h.inHot (mapPageOf u) && !h.gr.rebuild.contains (mapPageOf u)

/-- A map change writes a 16-byte journal record: the unit, what its entry was and what it is (R307). -/
def journalMap (h : Hub) (u : Nat) (old : BitVec 32) : Hub :=
  (h.modG (fun g => { g with journal := g.journal + 16, jlog := g.jlog ++ [⟨BitVec.ofNat 32 u, old, h.entryOf u⟩] })).touchPage u

/-- The bytes of a journal record at a position of the journal (R307, R370). -/
def jmapBytes (j : JMap) (pos : Nat) : Bytes :=
  let b := le 4 j.unit.toNat ++ le 4 j.old.toNat ++ le 4 j.new.toNat
  b ++ le 4 (crc32c (b ++ le 4 pos))

/-! ### Sluice on the Granary paths (R356, R358, R361, R362) -/

/-- The share of a class in bytes per second: C × w ÷ W (R361). -/
def grnShare (h : Hub) (c : Nat) : Nat :=
  let w (k : Nat) : Nat := max 1 (h.slReg (0x34200 + 16 * k) % 256)
  let cap := bitsOf (h.slReg 0x34030) (if c < 6 then 15 else 31) (if c < 6 then 0 else 16)
  let ks := if c < 6 then List.range 6 else (List.range 12).drop 6
  cap * 1000000 * w c / (ks.map w).sum

/-- The rate of a class shaper in bytes per second, where one is in force (R361, R362). -/
def grnRate (h : Hub) (c : Nat) : Option Nat :=
  let r := bitsOf (h.slReg (0x34200 + 16 * c)) 31 16
  let f := h.g F.GRNTHROT_f
  let own := if h.shapeOn && r != 0 then some (r * 1000000) else none
  if (c = 0 ∨ c = 3) ∧ f < 1000 then some (min (own.getD (f * h.grnShare c / 1000)) (f * h.grnShare c / 1000)) else own

/-- The class shaper passes an item. -/
def grnPass (h : Hub) (c : Nat) : Bool := (h.grnRate c).isNone || decide (0 < smGet 0 h.sl.gTok c)

/-- An item has passed its class shaper. -/
def grnPaid (h : Hub) (c n : Nat) : Hub :=
  if (h.grnRate c).isNone then h else { h with sl := { h.sl with gTok := smSet 0 h.sl.gTok c (smGet 0 h.sl.gTok c - n) } }

/-- An access of a class becomes ready: it goes at once where nothing of its class waits and the shaper passes it; else it
waits for the scheduler (R357, R358). -/
def grnAsk (h : Hub) (c n : Nat) (x : SlLoad) : Hub :=
  if (smGet [] h.sl.grn c).isEmpty && h.grnPass c then h.grnPaid c n
  else { h with sl := { h.sl with grn := smPut h.sl.grn c (smGet [] h.sl.grn c ++ [{ enq := h.nt, head := n, load := x }]) } }

/-- An access waits in Sluice. -/
def grnWaits (h : Hub) (x : SlLoad) : Bool := h.sl.grn.any (fun e => e.2.any (fun q => q.load == x))

/-- A write of `n` bytes of a class goes to the Granary; `w` waits for its durability (R297, R356). -/
def addDur (h : Hub) (c n : Nat) (w : DurWait) : Hub :=
  let (id, h) := h.newId
  ({ h with durs := smPut h.durs id w } : Hub).grnAsk c n (.grn id)

/-- The object of a Granary write in progress. -/
def durKey (h : Hub) (w : DurWait) : Option Nat := match w with
  | .extent i => some (objKey 1 (h.s i).r.nsi.toNat)
  | .foreign r => (smLook h.gr.fext r.toNat).map (fun x => objKey 1 x.nsi.toNat)
  | .intake i _ _ _ => some (objKey 2 (h.s i).r.nsi.toNat)
  | .intakeMirror i _ _ => some (objKey 2 (h.s i).r.nsi.toNat)
  | .flush i _ => some (objKey 2 (h.s i).r.nsi.toNat)
  | _ => none

/-- The write of a unit has not passed Sluice (R356), or is a park's while the throttle factor is 0 (R315). -/
def writeWaits (h : Hub) (x : GUnit) : Bool :=
  h.durs.any (fun e => h.durKey e.2 == some x.key
    && (h.grnWaits (.grn e.1) || x.kind == 1 && h.g F.GRNTHROT_f == 0))

/-! ### Objects and the tun (R294, R296 to R298) -/

/-- Bytes in the tun. -/
def tunBytes (h : Hub) : Nat := h.gr.tun.length * unitBytes

/-- Writes of kinds other than log units wait while less than 32 MiB of the tun is free (R298). -/
def tunShort (h : Hub) : Bool := decide (512 * 2 ^ 20 < h.tunBytes + 32 * 2 ^ 20)

/-- The bytes kept for log flushes and intakes: TIERGRSV (R151). -/
def grnReserve (h : Hub) : Nat := h.g F.TIERGRSV_gb * 1000000000

/-- Units reserved for the extents of migrations on their way here (R176). -/
def grnHeld (h : Hub) : Nat := (h.migIn.map (fun e => e.2.units)).sum

/-- An allocation of `n` units of a kind is granted (R294, R321). -/
def grnRoom (h : Hub) (kind n : Nat) : Bool :=
  !h.grnRo && decide (n + h.grnHeld ≤ h.grnFreeUnits)
    && (kind == 2 || n == 0 || decide (h.grnReserve ≤ (h.grnFreeUnits - h.grnHeld - n) * unitBytes))

/-- The tun has room for a unit: 32 MiB of its 512 MiB are kept for those of logs (R298). -/
def tunRoom (h : Hub) (log : Bool) : Bool := if log then decide (h.tunBytes + unitBytes ≤ 512 * 2 ^ 20) else !h.tunShort

/-- A unit is one of a token log. -/
def logUnit (h : Hub) (u : Nat) : Bool := (smLook h.gr.units u).any (·.kind == 2)

/-- Units that wait enter the tun as it has room (R298). -/
def admitTun (h : Hub) : Nat → Hub
  | 0 => h
  | fuel + 1 =>
    match h.gr.queue.find? (fun u => h.tunRoom (h.logUnit u)) with
    | none => h
    | some u => admitTun (h.modG (fun g => { g with tun := g.tun ++ [u], queue := g.queue.erase u })) fuel

/-- Unit `idx` of an object is written into the tun, or waits for room there (R298): a new unit takes the lowest
unallocated number (log 18); an old one loses its poison, and its last copy
stands until the new one is programmed (R318, R323, R324). -/
def tunWrite (h : Hub) (key idx kind : Nat) (full : Bool) (keygen : BitVec 16) : Hub :=
  let o := smGet {} h.gr.objs key
  let old := o.units.length
  let k := idx - o.base
  let u := if k < old then o.units.getD k 0 else lowestUnit 0 h.gr.units
  let x : GUnit := { key := key, idx := idx, kind := BitVec.ofNat 4 kind, full := full, keygen := keygen
                     loc := if k < old then (smLook h.gr.units u).bind (·.loc) else none }
  let was := h.entryOf u
  let held := h.gr.tun.contains u || h.gr.queue.contains u
  let waits := !h.tunRoom (kind == 2) || h.gr.queue.any (fun v => kind != 2 || h.logUnit v)
  (h.modG (fun g => { g with
    units := smPut g.units u x
    objs := smPut g.objs key { o with units := if k < old then o.units else o.units ++ [u] }
    tun := if held || waits then g.tun else g.tun ++ [u]
    queue := if held || !waits then g.queue else g.queue ++ [u] })).journalMap u was
where
  /-- The lowest number that keys no unit. -/
  lowestUnit : Nat → SMap GUnit → Nat
    | lo, [] => lo
    | lo, (k, _) :: m => if lo < k then lo else if k = lo then lowestUnit (lo + 1) m else lowestUnit lo m

/-- Write units `lo` to `hi - 1` of an object; none where the allocation fails. `whole` says that the last is complete. -/
def grnWrite (h : Hub) (key kind lo hi : Nat) (whole : Bool) (keygen : BitVec 16) : Option Hub :=
  let o := smGet {} h.gr.objs key
  let have_ := o.base + o.units.length
  if !h.grnRoom kind (hi - have_) then none
  else
    let h := h.grnTraffic true
    some ((List.range (hi - lo)).foldl (fun h j =>
      h.tunWrite key (lo + j) kind (whole || decide (lo + j + 1 < hi)) keygen) h)

/-- Write a whole object of `bytes` bytes. -/
def grnObject (h : Hub) (key kind bytes : Nat) (keygen : BitVec 16) : Option Hub :=
  h.grnWrite key kind 0 (cdiv bytes unitBytes) true keygen

/-- Write entries `lo` to `hi - 1` of a token log (R295). -/
def grnLog (h : Hub) (key lo hi : Nat) (keygen : BitVec 16) : Option Hub :=
  if hi ≤ lo then (if h.grnRoom 2 0 then some h else none)
  else h.grnWrite key 2 (lo / logEntries) (cdiv hi logEntries) (hi % logEntries == 0) keygen

/-- Return units to free space: their map entries become unmapped (R294). -/
def dropUnits (h : Hub) (us : List Nat) : Hub :=
  let was := us.map (fun u => (u, h.entryOf u))
  let h := h.modG (fun g => { g with units := g.units.filter (fun e => !us.contains e.1)
                                     tun := g.tun.filter (fun u => !us.contains u), queue := g.queue.filter (fun u => !us.contains u) })
  (was.foldl (fun h e => h.journalMap e.1 e.2) h).admitTun h.gr.queue.length

/-- Free an object. A log with child references keeps the units below the highest fork_index that refers to it until
its last child log is freed (R48, R296). -/
def grnFree (h : Hub) (key : Nat) : Nat → Hub
  | 0 => h
  | fuel + 1 =>
    match smLook h.gr.objs key with
    | none => h
    | some o =>
      let forks := h.gr.objs.filterMap (fun e => match e.2.parent with
        | some (k, f) => if k = key then some f else none
        | none => none)
      if forks.isEmpty then
        let h := (h.dropUnits o.units).modG (fun g => { g with objs := smDel g.objs key })
        match o.parent with
        | none => h
        | some (p, _) => if (smGet {} h.gr.objs p).dead then grnFree h p fuel else h
      else
        let keep := cdiv (forks.foldl max 0) logEntries - o.base
        (h.dropUnits (o.units.drop keep)).modG (fun g =>
          { g with objs := smPut g.objs key { o with units := o.units.take keep, dead := true } })

/-- An object goes under another key. -/
def rekey (h : Hub) (old new : Nat) : Hub :=
  match smLook h.gr.objs old with
  | none => h
  | some o =>
    let ren (e : Nat × GObj) : Nat × GObj := (e.1, { e.2 with parent := e.2.parent.map (fun p => if p.1 = old then (new, p.2) else p) })
    h.modG (fun g => { g with objs := smPut ((smDel g.objs old).map ren) new o
                              units := o.units.foldl (fun m u => smMod m u (fun x => { x with key := new })) g.units })

/-- Free an object and what only it kept; an extent or log goes onto the deferred-release list under a key of its own
while a cut is retained (R400). -/
def grnRelease (h : Hub) (key : Nat) : Hub :=
  let kind := key / 2 ^ 72
  if (kind = 1 ∨ kind = 2) ∧ !h.ck.imgs.isEmpty ∧ (smLook h.gr.objs key).isSome then
    let n := key + (h.gr.serial + 1) * 2 ^ 80
    let h := (h.rekey key n).modG (fun g => { g with serial := g.serial + 1 })
    { h with ck := { h.ck with deferred := h.ck.deferred ++ [(kind, n, h.ck.epoch)] } }
  else h.grnFree key h.gr.objs.length

/-! ### Blocks and stripes (R308, R319 to R321) -/

/-- A block in use. -/
def blk (h : Hub) (d b : Nat) : Option GBlk := smLook h.gr.blks (blkKey d b)

/-- Replace a block in use. -/
def setBlk (h : Hub) (d b : Nat) (x : GBlk) : Hub := h.modG (fun g => { g with blks := smPut g.blks (blkKey d b) x })

/-- The free block of lowest erase count, then lowest number (R308, R316). -/
def bestFree (h : Hub) (d : Nat) : Option Nat :=
  (h.gdie d).free.foldl (fun best b =>
    match best with
    | none => some b
    | some c => if h.erases d b < h.erases d c ∨ (h.erases d b = h.erases d c ∧ b < c) then some b else some c) none

/-- Take a die's best free block. -/
def takeBlk (h : Hub) (d : Nat) : Option (Nat × Hub) :=
  (h.bestFree d).map (fun b => (b, (h.setDie d { h.gdie d with free := (h.gdie d).free.filter (· != b) })))

/-- Logical unit `u` is mapped at a place. -/
def mappedAt (h : Hub) (u : Nat) (p : Place) : Bool :=
  match smLook h.gr.units u with
  | none => false
  | some x => x.loc == some p

/-- Valid units of a block: logical unit and physical unit, in ascending physical order (R312). -/
def validUnits (h : Hub) (d b : Nat) : List (Nat × Nat) :=
  match h.blk d b with
  | none => []
  | some x => (x.slots.zip (List.range x.slots.length)).filterMap (fun e =>
      if h.mappedAt e.1.unit ⟨d, b, e.2⟩ then some (e.1.unit, e.2) else none)

/-- The blocks of a die that are in use. -/
def dieBlks (h : Hub) (d : Nat) : List (Nat × GBlk) :=
  (h.gr.blks.filter (fun e => e.1 / 16384 == d)).map (fun e => (e.1 % 16384, e.2))

/-- Read-only mode is entered where a die has no spare, its free blocks are at the GC floor and GC can free nothing on
it (R321). -/
def readOnlyTest (h : Hub) (d : Nat) : Hub :=
  let x := h.gdie d
  if h.grnRo || !x.spare.isEmpty || 2 < x.free.length
    || (h.dieBlks d).any (fun e => e.2.closed && !e.2.parity && !e.2.bad && decide ((h.validUnits d e.1).length < 512)) then h
  else (((h.p F.GRNSTAT_readonly 1).p F.TIERSTAT_readonly 1).devEv 0x0407 4 d).signal 36

/-- Retirement of a block (R319, R320): a spare takes its place in the data pool, or the pool shrinks. -/
def retireBlk (h : Hub) (d b : Nat) (injected : Bool := false) : Hub :=
  let h := (h.inc F.GRNRETIRED_count).devEv 0x0401 4 (d + b * 2 ^ 8 + injBit injected)
  let x := h.gdie d
  let h := match h.blk d b with
    | none => h.setBlk d b { bad := true }
    | some y => h.setBlk d b { y with bad := true }
  let h := match x.spare with
    | s :: rest =>
      let h := h.setDie d { free := x.free ++ [s], spare := rest }
      if rest.isEmpty then h.p F.GRNSTAT_spares_out 1 else h
    | [] => h.devEv 0x0406 4 d
  (h.readOnlyTest d).weirs

/-- Free blocks of a die that a stream leaves alone: LOG and BULK the GC floor, until read-only mode finishes what the tun holds (R311, R321). -/
def gcFloor (h : Hub) (stream : Nat) : Nat := if stream = 2 ∨ h.grnRo then 0 else 2

/-- Open a stripe of a stream in a group: a free block on each of 16 dies, the parity die rotating by one with each
stripe (R308, R311); a die that has none left may end writing (R321). -/
def openStripe (h : Hub) (stream group : Nat) : Option (Nat × Hub) :=
  let ds := Config.groupDies group
  if ds.length ≠ 16 ∨ ds.any (fun d => decide ((h.gdie d).free.length ≤ h.gcFloor stream)) then none
  else
    let turn := smGet 0 h.gr.turns group
    let q := ds.foldl (fun acc d =>
      match acc.2.takeBlk d with
      | none => acc
      | some (b, h) => (acc.1 ++ [(d, b)], h)) (([] : List (Nat × Nat)), h)
    let par := q.1.getD (turn % 16) (0, 0)
    let data := q.1.eraseIdx (turn % 16)
    let h := q.2
    let id := h.gr.nextStr
    let h := data.foldl (fun h e => h.setBlk e.1 e.2 { gc := stream == 2, stripe := id }) h
    let h := h.setBlk par.1 par.2 { parity := true, gc := stream == 2, stripe := id }
    some (id, ds.foldl (fun h d => h.readOnlyTest d) (h.modG (fun g => { g with
      nextStr := id + 1, turns := smPut g.turns group (turn + 1)
      stripes := smPut g.stripes id { stream := stream, group := group, data := data, parity := par }
      opened := smPut g.opened (stream * 16 + group) id })).weirs)

/-- A group has an open stripe of a stream, or can open one (R308, R311). -/
def groupServes (h : Hub) (stream group : Nat) : Bool :=
  (smLook h.gr.opened (stream * 16 + group)).isSome
    || (Config.groupDies group).all (fun d => decide (h.gcFloor stream < (h.gdie d).free.length))

/-- The open stripe of a stream in the group that the controller chooses of those that can serve it (a free value, log 2), opened where none
is. -/
def stripeFor (h : Hub) (stream : Nat) : Option (Nat × Hub) :=
  let groups := (List.range (if Config.cap64 then 16 else 8)).filter (h.groupServes stream)
  let (v, h) := h.fresh
  if groups.isEmpty then none
  else
  let g := groups.getD (v.toNat % groups.length) 0
  match smLook h.gr.opened (stream * 16 + g) with
  | some id => some (id, h)
  | none => h.openStripe stream g

/-- Program a unit into the stripe: rows run over the 15 data blocks, and a full row programs its parity (R308, R309);
a block closes with its last unit. Answers the place. The unit's metadata go with it, under the next write sequence (R299). -/
def program (h : Hub) (id : Nat) (u : Nat) (src : Option Place) : Option (Place × Hub) :=
  match smLook h.gr.stripes id with
  | none => none
  | some s =>
    let e := s.data.getD (s.count % 15) (0, 0)
    let row := s.count / 15
    let b := (h.blk e.1 e.2).getD {}
    let done := decide (row = 511)
    let t := h.nt
    let x := smLook h.gr.units u
    let slot : Slot := { unit := u, src := src, kind := (x.map (·.kind)).getD 0, keygen := (x.map (·.keygen)).getD 0, seq := h.gr.wseq }
    let h := h.setBlk e.1 e.2 { b with slots := b.slots ++ [slot], closed := done, closeNt := if done then t else b.closeNt }
    let h := h.inc F.GRNNANDW_bytes (unitBytes * (if s.count % 15 = 14 then 2 else 1))
    let h := h.modG (fun g => { g with
      wseq := g.wseq + 1
      stripes := smPut g.stripes id { s with count := s.count + 1 }
      opened := if s.count + 1 = 15 * 512 then smDel g.opened (s.stream * 16 + s.group) else g.opened })
    some (⟨e.1, e.2, row⟩, h)

/-- Program a unit of the tun: its map entry names the new place (R298, R299). -/
def programTun (h : Hub) (u : Nat) : Hub :=
  match smLook h.gr.units u with
  | none => h
  | some x =>
    match h.stripeFor (if x.kind == 2 then 0 else 1) with
    | none => h
    | some (id, h) =>
      match h.program id u none with
      | none => h
      | some (p, h) =>
        let h := (h.modG (fun g => { g with
          units := smPut g.units u { x with loc := some p, inTun := false, seq := g.wseq - 1 }
          tun := g.tun.filter (· != u) })).journalMap u (mapEntry x)
        (h.inc F.GRNHOSTW_bytes unitBytes).admitTun h.gr.queue.length

/-- What a relocation of a block copies, with the places that the map gives: its valid units, and of a GC block that has not passed its
verification the units whose copies stand in it (R310, R312). -/
def toCopy (h : Hub) (d b : Nat) : List (Nat × Place) :=
  let own := (h.validUnits d b).map (fun e => (e.1, (⟨d, b, e.2⟩ : Place)))
  match h.blk d b with
  | none => own
  | some x => if x.gc && !x.verified then own ++ x.slots.filterMap (fun e => match e.src with
      | none => none
      | some p => if h.mappedAt e.unit p then some (e.unit, p) else none)
    else own

/-- Copy a block's valid units into the GC stream as relocations; map entries do not change yet (R312, R313). Where no group can take one,
the block stays one that GC may choose again. -/
def relocate (h : Hub) (d b : Nat) : Hub :=
  let mark (h : Hub) (v : Bool) : Hub := match h.blk d b with
    | none => h
    | some x => h.setBlk d b { x with victim := v }
  let q := (h.toCopy d b).foldl (fun (acc : Bool × Hub) e =>
    match acc.2.stripeFor 2 with
    | none => (false, acc.2)
    | some (id, h) =>
      match h.program id e.1 (some e.2) with
      | none => (false, h)
      | some (_, h) => (acc.1, (h.grnPaid 2 unitBytes).inc F.GRNGCUNITS_count)) (true, mark h true)
  if q.1 then q.2 else mark q.2 false

end Hub

end Sys2Proof.Machine
end

