-- ==== Sys2Proof/Machine/Session.lean ====
section
/-! DEFINITION. Shared operations on sessions: allocation (R27 to R30), program context (R249 to R251), stream records
(R131 to R140, R427), events (R256, R519), flushes (R151), revives (R155 to R159), parks (R153), migrations (R176,
R177), drops (R37, R49) and faults (R35, R255). -/

namespace Sys2Proof.Machine

/-! ### Program registers (R249, R250) -/

/-- Write FLAGS.status, FLAGS.detail and last_status. -/
def Rec.wStat (r : Rec) (st : BitVec 8) (detail : Nat) : Rec :=
  { r with flags := BitVec.ofNat 32 (setBits (setBits r.flags.toNat 15 8 st.toNat) 31 16 detail), lastStatus := st }

/-- Write a register by its code; codes above 7 discard (R250). -/
def Rec.wReg (r : Rec) (d : BitVec 4) (v : W64) : Rec :=
  if d.toNat < 8 then { r with a := r.a.set d.toNat v } else r

/-- Read a register by its code (R250); code 15 is the instruction's own immediate. -/
def Rec.rReg (r : Rec) (c : Nat) (imm : W64) : W64 :=
  if c < 8 then r.a.getD c 0
  else if c = 9 then BitVec.ofNat 64 (bitsOf r.flags.toNat 15 8 + bitsOf r.flags.toNat 31 16 * 2 ^ 8)
  else if c = 15 then imm
  else 0

namespace Hub

/-! ### Looking up and allocating records -/

/-- The record holding a session key: the AIX session bank (R27). -/
def findSk (h : Hub) (sk : BitVec 128) : Option Handle :=
  (h.sess.find? (fun e => e.2.r.state != S.free && e.2.r.sk == sk)).map (fun e => BitVec.ofNat 18 e.1)

/-- The record an NSI names (R31). -/
def findNsi (h : Hub) (n : W64) : Option Handle :=
  let i := nsiHandle n
  let r := (h.s i).r
  if nsiDev n = h.dev ∧ r.state ≠ S.free ∧ smGet 0 h.gens i.toNat = nsiGen n then some i else none

/-- The lowest-numbered FREE handle (R30). -/
def freeHandle (h : Hub) : Option Handle :=
  let n := lowestFree 0 ((h.sess.filter (fun e => e.2.r.state != S.free)).map (fun e => (e.1, ())))
  if n < 262144 then some (BitVec.ofNat 18 n) else none

/-- Take a handle: its generation rises and a forwarding NSI it held is deleted (R29, R178). -/
def bumpGen (h : Hub) (i : Handle) : BitVec 16 × Hub :=
  let g := smGet 0 h.gens i.toNat + 1
  (g, { h with gens := smSet 0 h.gens i.toNat g })

/-- The root index of a handle owned by this device (R63). -/
def rootIndex (h : Hub) (i : Handle) : BitVec 32 := BitVec.ofNat 32 (h.position * 2 ^ 18 + i.toNat)

/-- Indices of the active devices (R169). -/
def actives (h : Hub) : List (BitVec 6) := (List.range (h.g F.NFNODE_active)).map (BitVec.ofNat 6)

/-- Contexts run and sessions are admitted: READY is done and host software has written sessions_go (R493). -/
def released (h : Hub) : Bool := h.on F.NFSTAT_ready && !h.on F.NFSTAT_sessions_held

/-- An index names an active device. -/
def isActive (h : Hub) (d : BitVec 6) : Bool := decide (d.toNat < h.g F.NFNODE_active)

/-! ### Routes and messages (R239, R244) -/

/-- A physical port is up. -/
def portUp (h : Hub) (n : Nat) : Bool := h.gi F.MOLPSTAT_state n == 2 || h.gi F.MOLPSTAT_state n == 3

/-- The up ports to a peer, in ascending number; a port that led to a lost device whose identity a spare has taken carries none (R238). -/
def portsTo (h : Hub) (d : Nat) : List Nat :=
  (List.range 16).filter (fun n => h.portUp n && h.gi F.MOLPSTAT_peer n == d && (n == 15 || h.gi F.MOLREMAP_primary n != 0xF))

/-- The next hop's port toward a destination for message id `id`: dimensions z, y, x in order, the lower-numbered of
parallel ports for even ids; a spare that holds its own index is reached over its own links or its anchor (R239). -/
def route (h : Hub) (dst id : Nat) : Option Nat :=
  let pick (l : List Nat) : Option Nat := if l.isEmpty then none else some (l.getD (id % 2 % l.length) 0)
  let me := h.dev
  let N := h.g F.NFNODE_active
  let viaDim (d k : Nat) : Option Nat :=
    if bitsOf d (2 * k + 1) (2 * k) = bitsOf me (2 * k + 1) (2 * k) then none
    else pick (h.portsTo (setBits me (2 * k + 1) (2 * k) (bitsOf d (2 * k + 1) (2 * k))))
  let toward (d : Nat) : Option Nat := ((viaDim d 2).orElse (fun _ => viaDim d 1)).orElse (fun _ => viaDim d 0)
  let anchor (s : Nat) : Nat := (spareLinks N (s - N)).head?.getD 0
  let direct := pick (h.portsTo dst)
  if h.on F.HDEVIDX_spare then direct.orElse (fun _ => pick (h.portsTo (anchor me)))
  else if N ≤ dst then direct.orElse (fun _ => toward (anchor dst))
  else toward dst

/-- A device can be reached; a device reaches itself. -/
def reachable (h : Hub) (d : BitVec 6) : Bool := d.toNat == h.dev || (h.route d.toNat 0).isSome

/-- The place of a message's type in SLDQMAP (R369). -/
def msgType (m : Msg) : Nat :=
  match m with
  | .offer _ => 0
  | .accept _ => 1
  | .refuse _ _ => 2
  | .part _ _ => 3
  | .ack _ _ _ => 4
  | .probe _ _ => 5
  | .probeReply _ _ => 6
  | .release _ _ => 7
  | .event _ _ => 8
  | .drainPage _ _ _ _ => 9
  | .drainDone _ => 9
  | .drainSettled _ => 9
  | .drainRestored _ => 9
  | .buddy _ _ _ => 10
  | .mirror _ => 11
  | .adapter _ => 12

/-- A message's type code (R244). -/
def msgCode (m : Msg) : Nat := let k := msgType m; if k < 9 then k + 1 else [0x10, 0x11, 0x12, 0x20].getD (k - 9) 0

/-- Numbers in sequence, each in `n` bytes. -/
def leAll {w : Nat} (n : Nat) (l : List (BitVec w)) : Bytes := (l.map (fun x => le n x.toNat)).flatten

/-- What an ADAPTER message carries. -/
def adapterBody (m : AdapterMsg) : Bytes := match m with
  | .image s v sec b => le 1 0 ++ le 2 s.toNat ++ le 2 v.toNat ++ le 4 sec.toNat ++ b
  | .report s v => le 1 1 ++ le 2 s.toNat ++ le 2 v.toNat
  | .commit s v c => le 1 2 ++ le 2 s.toNat ++ le 2 v.toNat ++ le 8 c.toNat
  | .binding s v b => le 1 3 ++ le 2 s.toNat ++ le 2 v.toNat ++ le 1 (b2n b)
  | .propose s v f => le 1 4 ++ le 2 s.toNat ++ le 2 v.toNat ++ le 8 f.toNat
  | .atFree s v b => le 1 5 ++ le 2 s.toNat ++ le 2 v.toNat ++ le 1 (b2n b)
  | .resolve s v b => le 1 6 ++ le 2 s.toNat ++ le 2 v.toNat ++ le 1 (b2n b)

/-- What a part of a migration carries (R175). -/
def partBody (p : PartBody) : Bytes := match p with
  | .record b => b
  | .area st hb off rest => leAll 2 st ++ hb ++ le 4 off ++ le 1 rest.toNat
  | .tokenLog l n => leAll 4 l ++ le 4 n.toNat
  | .piece _ ring _ d bad => le 1 (b2n ring + 2 * b2n bad) ++ d.map (·.2)
  | .root _ n hd l share full => le 4 n.toNat ++ le 2 hd.toNat ++ le 1 (b2n share + 2 * b2n full) ++ leAll 8 l
  | .fin => []

/-- What follows the header of a message (R102, R104, R175, R176, R178, R180, R182, R401, R412). DESIGN CHOICE (log 15): the spec names what
each message carries; the order of it is the model's. -/
def msgBody (m : Msg) : Bytes := match m with
  | .offer o => le 2 o.epoch.toNat ++ le 3 o.tenant.toNat ++ le 1 o.part.toNat ++ le 2 o.gram.toNat ++ le 32 o.gramDig.toNat
      ++ le 2 o.stop.toNat ++ le 32 o.stopDig.toNat ++ le 1 (b2n o.kvmode) ++ le 4 o.kvLen.toNat ++ le 1 o.state.toNat ++ le 8 o.nsi.toNat
  | .accept _ | .refuse _ _ | .probeReply _ _ => []
  | .part _ b => partBody b
  | .ack _ e nsi => le 2 e.toNat ++ le 8 nsi.toNat
  | .probe _ e | .release _ e => le 2 e.toNat
  | .event nsi b => le 8 nsi.toNat ++ le 1 b.toNat
  | .mirror m => m.image ++ leAll 4 m.toks ++ le 4 m.pend.toNat ++ leAll 2 m.stack ++ m.held ++ le 4 m.relOff ++ le 1 m.rest.toNat
      ++ leAll 8 m.hist ++ le 1 (b2n m.histFull + 2 * b2n m.share)
  | .adapter a => adapterBody a
  | .drainPage e n d last => le 1 (b2n last) ++ le 4 e.toNat ++ le 8 n ++ d
  | .drainDone e => le 1 2 ++ le 4 e.toNat
  | .drainSettled _ => le 1 3
  | .drainRestored c => le 1 4 ++ le 8 c.toNat
  | .buddy e k d => le 4 e.toNat ++ le 8 k ++ d

/-- The SK of a message's header, or 0 (R244). -/
def msgSk (m : Msg) : BitVec 128 := match m with
  | .offer o => o.sk
  | .accept k | .refuse k _ | .part k _ | .ack k _ _ | .probe k _ | .probeReply k _ | .release k _ | .drainSettled k => k
  | _ => 0

/-- The type-specific bytes of a header (R244): a refusal's reason, the epoch of a probe reply, a part's logical shard and page. DESIGN CHOICE
(log 15): a reply that the SK is absent has all ones. -/
def msgSpec (m : Msg) : Nat := match m with
  | .refuse _ r => r.toNat
  | .probeReply _ none => 2 ^ 64 - 1
  | .probeReply _ (some e) => e.toNat
  | .part _ (.piece s _ pg _ _) => s.toNat + pg.toNat * 2 ^ 32
  | .part _ (.root s _ _ _ _ _) => s.toNat
  | _ => 0

/-- Bytes of a message: header, trailer and the bytes of what it carries (R244, log 15). -/
def msgBytes (m : Msg) : Nat := 72 + (msgBody m).length

/-- The bytes of a message: the 64 B header, what it carries, and the CRC-64 trailer with source, destination and message id folded in
(R244, R370). The NT of sending is that at which it was handed to its queue. -/
def msgImage (src dst : BitVec 6) (id : BitVec 32) (nt : Nt) (m : Msg) : Bytes :=
  let b := le 4 (msgCode m) ++ le 4 id.toNat ++ le 8 (msgBytes m) ++ le 16 (msgSk m).toNat ++ le 8 nt.toNat ++ le 8 (msgSpec m) ++ le 16 0
    ++ msgBody m
  b ++ le 8 (crc64 (b ++ le 8 src.toNat ++ le 8 dst.toNat ++ le 8 id.toNat))

/-- A dynamic message to a device finds a route: it is not discarded here (R239). -/
def sendable (h : Hub) (d : BitVec 6) : Bool := h.on F.MOLCTL_dyn_en && (h.route d.toNat h.msgId.toNat).isSome

/-- Queue a dynamic message on the port toward its destination, in the queue SLDQMAP gives its type (R244, R360);
without a route, or above 256 MiB, it is discarded and counted (R239, R244). -/
def send (h : Hub) (d : BitVec 6) (m : Msg) : Hub :=
  let id := h.msgId
  let h := { h with msgId := id + 1 }
  match (if h.on F.MOLCTL_dyn_en && decide (msgBytes m ≤ 2 ^ 28) then h.route d.toNat id.toNat else none) with
  | none => h.inc F.MOLMSGDROP_count
  | some n =>
    let ty := msgType m
    let k := n * 16 + bitsOf (h.g F.SLDQMAP_map) (4 * ty + 3) (4 * ty)
    let len := msgBytes m
    let it : SlItem := { enq := h.nt, head := min 512 len, rest := len - 512, load := .msg d id m }
    { h with sl := { h.sl with dyn := smPut h.sl.dyn k (smGet [] h.sl.dyn k ++ [it]) } }

/-! ### Program contexts (R251, R252) -/

/-- A context becomes runnable: it goes behind those that became so earlier, and among those of its own NT behind the lower handles
(R252). -/
def ready (h : Hub) (i : Handle) : Hub :=
  if (h.s i).runnable then h
  else
    let t := h.nt
    let before (j : Handle) : Bool := decide ((h.s j).since < t) || ((h.s j).since == t && decide (j < i))
    { h.modS i (fun x => { x with runnable := true, since := t }) with
        seqq := h.seqq.takeWhile before ++ [i] ++ h.seqq.dropWhile before }

/-- A context leaves its sequencer's queue. -/
def unready (h : Hub) (i : Handle) : Hub :=
  { h.modS i (fun x => { x with runnable := false }) with seqq := h.seqq.filter (· != i) }

/-- A blocking instruction completes: destination, status, PC past it, context runnable (R251, R252). -/
def endInstr (h : Hub) (i : Handle) (dst : Option (BitVec 4 × W64)) (st : BitVec 8) (detail : Nat) : Hub :=
  let h := h.modS i (fun x =>
    let r := match dst with
      | none => x.r
      | some d => x.r.wReg d.1 d.2
    { x with blk := none, r := { r.wStat st detail with pc := r.pc + 1 } })
  h.ready i

/-- A held instruction may execute again (R41, R155); a FORK also waits for a bank swap in progress (R331). -/
def unhold (h : Hub) (i : Handle) : Hub :=
  match (h.s i).blk with
  | some (.redo w) =>
    if bitsOf w.toNat 63 56 = 0x23 ∧ h.aix.swap.isSome then h
    else (h.modS i (fun x => { x with blk := none })).ready i
  | _ => h

/-! ### Stream records (R137 to R140, R427) -/

/-- Write one stream record of a session: seq advances, released bytes are counted (R137, R140). DESIGN CHOICE (log 141): a record is
written, for STREAM.seq and TRBYTES, as it is queued; TRRECS and TRSTOPS count it at the ring. -/
def stream (h : Hub) (i : Handle) (kind : Nat) (status : BitVec 8) (fin late : Bool) (stop mark : BitVec 4)
    (tokOff : BitVec 8) (index token : BitVec 32) (payload : Bytes) : Hub :=
  let x := h.s i
  let seq := x.r.seq + 1
  let n := payload.length
  let g := cdiv (40 + n) 64
  let body := padTo (64 * g) (le 1 (kind * 2 + (g - 1) * 16 + b2n late * 64 + b2n fin * 128) ++ le 1 status.toNat
    ++ le 1 n ++ le 1 (stop.toNat + mark.toNat * 16) ++ le 3 seq.toNat ++ le 1 tokOff.toNat ++ le 8 x.r.nsi.toNat
    ++ le 4 index.toNat ++ le 4 token.toNat ++ le 4 x.relOff ++ le 4 0 ++ le 8 h.nt.toNat ++ payload)
  let h := h.modS i (fun x => { x with relOff := x.relOff + n, r := { x.r with seq := seq } })
  let h := h.inc F.TRBYTES_count n
  h.pushRec true x.r.part.toNat ⟨body, some i, kind == 2, if h.profS then some (x.r.tenant, x.r.nsi, n) else none⟩

/-- Release all held bytes with a FLUSH and reset the matcher (R133). -/
def flushHeld (h : Hub) (i : Handle) : Hub :=
  let x := h.s i
  if x.held.isEmpty then h
  else
    let h := h.stream i 3 St.ok false false 0 0 0 x.r.committed 0xFFFFFFFF x.held
    h.modS i (fun x => { x with held := [], r := { x.r with held := 0 } })

/-- Discard held bytes (R133). -/
def discardHeld (h : Hub) (i : Handle) : Hub :=
  let n := (h.s i).held.length
  (h.inc F.TRDISC_count n).modS i (fun x => { x with held := [], r := { x.r with held := 0 } })

/-! ### The boundary about to be made (R226, R228, R521) -/

/-- The boundary that gathered frames fix (R228). -/
def boundNt (h : Hub) (p : Plan) : Nat :=
  let r := h.grp.frames.foldl (fun m f => max m f.readyNt.toNat) 0
  let q := max 1 p.bq.toNat
  cdiv (r + p.allow.toNat) q * q

/-- The gather is complete (R226). -/
def gathered (h : Hub) : Bool := decide (h.groupN ≤ h.grp.frames.length)

/-- The slot holds the plan set that the node runs; it does on a spare too (R17, R223, R224). -/
def slotActive (h : Hub) (slot : Nat) : Bool :=
  h.g F.POOLPLAN_active == slot && (h.g F.POOLROLE_size != 0 || h.nf.slotOn)

/-- The switch boundary S has passed and the new plan set is not active: no boundary is made (R174). -/
def switching (h : Hub) : Bool := match h.rcmp with
  | none => false
  | some r => r.switched && r.slot.toNat != h.g F.POOLPLAN_active

/-- Node time has reached a boundary that is not made yet: what is stamped now applies after it (R521). -/
def boundDue (h : Hub) : Bool :=
  match h.plan with
  | none => false
  | some p => !h.faulted && !h.switching && h.gathered && h.grp.ready.isSome && decide (h.boundNt p ≤ h.nt.toNat)

/-! ### Holding (R41, R45, R518, R493, R164, R434) -/

/-- A rotation of the session is ROTATING or DRAINING (R434). -/
def rotating (h : Hub) (i : Handle) : Bool :=
  match smLook h.sec.rots i.toNat with
  | none => false
  | some r => r.phase != 0

/-- Every action on the session is held: a transient state other than MIGRATING, a demotion under way, or sessions held
before sessions_go. -/
def holds (h : Hub) (i : Handle) : Bool :=
  let x := h.s i
  (transient x.r.state && x.r.state != S.migrating) || x.demote || h.on F.NFSTAT_sessions_held

/-- A host command with opcode `op` must wait now. A write of DEADLINE never does (R121), nor does an INSPECT. -/
def mustHold (h : Hub) (i : Handle) (op : BitVec 8) (ops : BitVec 256) : Bool :=
  let x := h.s i
  if op == 0x0B || (op == 0x09 && ops.toNat % 256 == 2) then false
  else h.holds i || ((op == 0x02 || op == 0x04 || op == 0x06) && decide (0 < x.intakes))
    || (op == 0x06 && h.rotating i && x.r.state != S.migrating)

/-! ### The token log (R150, R151) -/

/-- The parked extent of a session leaves the Granary (R154, R294). -/
def dropExtent (h : Hub) (i : Handle) : Hub :=
  (h.grnRelease (objKey 1 (h.s i).r.nsi.toNat)).modS i (fun x => { x with extent := none, exthdr := [], kvx := [], xarea := [] })

/-- The 64-byte header of an extent of `bytes` bytes for `kv` positions; `area` says that the session area is in it (R154). DEDUCED (log 131):
its Granary address is that of its first logical unit. -/
def headerOf (h : Hub) (nsi parkNt : W64) (keygen : BitVec 16) (rest : BitVec 4) (kv bytes : Nat) (area : Bool) : Bytes :=
  let w := match h.model with
    | none => 0
    | some m => min (cdiv kv 64) (wPages m)
  let at_ := (((smLook h.gr.objs (objKey 1 nsi.toNat)).bind (fun o => o.units.head?)).getD 0) * unitBytes
  let b := le 8 nsi.toNat ++ le 8 parkNt.toNat ++ le 4 kv ++ le 4 (cdiv kv 64) ++ le 2 w ++ le 2 keygen.toNat
    ++ le 1 (rest.toNat + h.shards.length % 16 * 16) ++ le 1 (b2n area + b2n (w != 0) * 2) ++ le 2 0 ++ le 8 bytes ++ le 16 0
  b ++ le 8 (crc64 (b ++ le 8 at_))

/-- The header of a session's extent as its park ends. -/
def extHeader (h : Hub) (x : Sess) (bytes : Nat) : Bytes :=
  h.headerOf x.r.nsi ((x.park.map (·.nt)).getD 0) x.r.keygen x.rest (kvLenOf x.r) bytes true

/-- The header of an extent as it stands with another NSI (R175). -/
def renamedHeader (h : Hub) (hdr : Bytes) (nsi : W64) : Bytes :=
  h.headerOf nsi (BitVec.ofNat 64 (field hdr 8 8)) (BitVec.ofNat 16 (field hdr 26 2)) (BitVec.ofNat 4 (field hdr 28 1)) (field hdr 16 4)
    (field hdr 32 8) (field hdr 29 1 % 2 == 1)

/-- The header that the device has written names the session and its length, and passes its check (R154, R156). -/
def extHdrOk (h : Hub) (x : Sess) : Bool :=
  let at_ := (((smLook h.gr.objs (objKey 1 x.r.nsi.toNat)).bind (fun o => o.units.head?)).getD 0) * unitBytes
  x.exthdr.isEmpty || (field x.exthdr 0 8 == x.r.nsi.toNat && field x.exthdr 16 4 == kvLenOf x.r
    && field x.exthdr 56 8 == crc64 (x.exthdr.take 56 ++ le 8 at_))

/-- Start a flush of logbuf, whose entries precede pending input in the log (R150, R151); without space logblk is set (R152). -/
def startFlush (h : Hub) (i : Handle) : Hub :=
  let x := h.s i
  if x.logbuf.isEmpty || x.flushing then h
  else
    match h.grnLog (objKey 2 x.r.nsi.toNat) (x.r.committed.toNat - x.logbuf.length) x.log.length x.r.keygen with
    | none => h.p F.TIERSTAT_logblk 1
    | some h =>
      let h := h.addDur 1 (4 * x.logbuf.length) (.flush i x.logbuf.length)
      h.modS i (fun x => { x with flushing := true })

/-! ### Revive (R155 to R159) -/

/-- A time to pass `n` bytes or positions at `rate` a second, in ns; without a rate it never ends. -/
def timeFor (n rate : Nat) : Nat := if rate = 0 then 2 ^ 64 else cdiv (n * 1000000000) rate

/-- The revive read share (R363): C_read × w_REVIVE ÷ the weights of the read classes that hold items, REVIVE included. -/
def reviveShare (h : Hub) : Nat :=
  let w (k : Nat) : Nat := max 1 (h.slReg (0x34200 + 16 * k) % 256)
  let ks := (List.range 6).filter (fun j => j == 0 || !(smGet [] h.sl.grn (6 + j)).isEmpty)
  bitsOf (h.slReg 0x34030) 31 16 * 1000000 * w 6 / (ks.map (fun j => w (6 + j))).sum

/-- t_read of this device (R159): the reads queued ahead of the extent and the extent, at the revive read share, rounded up. -/
def tRead (h : Hub) (i : Handle) : Nat :=
  let ahead := ((smGet [] h.sl.grn 6).map (fun q => q.head + q.rest)).sum
  h.nt.toNat + timeFor (ahead + (((h.s i).extent.map (·.1)).getD 0)) h.reviveShare

/-- t_rc (R159, R365): the positions of the prefills queued on this device, `others` queued on the group's other devices and the session's
own, at the plan's prefill rate scaled by the prefill share, rounded up (log 121). -/
def tRecompute (h : Hub) (i : Handle) (others : Nat) : Nat :=
  let pm := if h.inPrefill then 1000 else min 1000 (h.gi F.SLPF_share (if h.multiPart then (h.s i).r.part.toNat else 0))
  let left (j : Handle) : Nat := match (h.s j).pfReq with
    | none => 0
    | some q => if q.started || q.recompute then q.fin - q.pos else (h.s j).r.committed.toNat + (h.s j).pendIn.toNat - 1 - kvLenOf (h.s j).r
  h.nt.toNat + timeFor ((h.handles.map left).sum + others + kvLenOf (h.s i).r) (((h.plan.map (·.pfRate.toNat)).getD 0) * pm / 1000)

/-- Start a revive of a PARKED session; the status of a refusal, none once begun (R12, R37, R159, R160). What the group's other
devices read and queue is outside this module: t_read is the later of this device's and a free value, and the positions of the prefills
queued there are one (log 2). -/
def startRevive (h : Hub) (i : Handle) (cause : BitVec 2) (sub : Option Sub) : Option (BitVec 8) × Hub :=
  let x := h.s i
  if x.r.ttlArmed && decide (x.r.expiry ≤ h.nt) then (some St.ttlExpired, h)
  else if x.r.logonly && !h.recomputable i then
    (some St.adapterGone, h.modR i (fun r => { r with lastStatus := St.adapterGone }))
  else
    let (v, h) := if h.groupN ≤ 1 then ((0 : W64), h) else h.fresh
    let (u, h) := if h.groupN ≤ 1 then ((0 : W64), h) else h.fresh
    let tr := max (h.tRead i) v.toNat
    let tc := h.tRecompute i u.toNat
    let rc := x.r.logonly || (x.r.deadline != 0 && decide (x.r.deadline.toNat ≤ tr) && decide (tc < tr) && h.recomputable i
      && h.on F.TIERCTL_rc_en)
    let h := h.modR i (fun r => { r with ttlArmed := false, expiry := 0 })
    let h := (h.trans i S.reviving St.ok 0x0044 cause.toNat).touch i
    (none, h.modS i (fun x => { x with revive := some { cause := cause, rc := rc, nt := h.nt }
                                       revSubs := x.revSubs ++ sub.toList }))

/-- A session has become PARKED: a matching event or reached timeout revives it where autorevive is set, and a STEP or
PREFILL outstanding starts a revive (R155, R167). -/
def afterParked (h : Hub) (i : Handle) : Hub :=
  let x := h.s i
  if x.r.state != S.parked then h
  else if x.stepReq.isSome || x.pfReq.isSome then (h.startRevive i 0 none).2
  else if x.r.autorevive && ((x.r.pending &&& x.r.waitMask) != 0 || x.waitHit) then (h.startRevive i 2 none).2
  else h

/-! ### Events (R256, R519) -/

/-- The lowest pending bit of a mask. -/
def lowBit (v : BitVec 16) : Nat := ((List.range 16).find? (fun b => v.getLsbD b)).getD 16

/-- The WAIT in progress wakes with a bit, or with 0xFFFF for its timeout. -/
def wakeWait (h : Hub) (i : Handle) (code : Nat) : Hub :=
  match (h.s i).blk with
  | some (.wait d) =>
    let h := h.modS i (fun x =>
      { x with waitHit := false
               r := { x.r with pending := if code < 16 then x.r.pending &&& ~~~(BitVec.ofNat 16 (2 ^ code)) else x.r.pending
                               waitMask := 0, waitExp := 0, lastStatus := St.ok } })
    let h := if (h.s i).r.state == S.waiting then h.trans i S.ready St.ok 0x0031 code else h.record i 0x0031 code
    h.endInstr i (some (d, BitVec.ofNat 64 code)) St.ok code
  | _ => h

/-- A matching event or a reached timeout meets the session in its present state (R155, R156, R167, R519). One delivered during a revive
is remembered for its end. -/
def meet (h : Hub) (i : Handle) (code : Nat) : Hub :=
  let x := h.s i
  if x.demote then h
  else if x.r.state == S.reviving then
    h.modS i (fun x => { x with revive := x.revive.map (fun v => { v with hit := v.hit || decide (code < 16) }) })
  else if x.r.state == S.parked then (if x.r.autorevive then (h.startRevive i 2 none).2 else h)
  else if x.r.state == S.parking || x.r.state == S.migrating || x.r.state == S.faulted then h
  else h.wakeWait i code

/-- The timeout of the WAIT in progress is reached; a matching event that came first has met the WAIT already (02 "coincident
happenings"). -/
def timeout (h : Hub) (i : Handle) : Hub :=
  let x := h.s i
  if ((x.r.pending ||| x.queued) &&& x.r.waitMask) != 0 then h
  else (h.modS i (fun x => { x with waitHit := true })).meet i 0xFFFF

/-- An event reaches a record (R256); on the sending side of a migration it is queued (R178). -/
def land (h : Hub) (i : Handle) (bit : Nat) : Hub :=
  let m := BitVec.ofNat 16 (2 ^ bit)
  let x := h.s i
  if x.r.state == S.free then h
  else if x.r.state == S.migrating then h.modS i (fun x => { x with queued := x.queued ||| m })
  else
    let h := h.modR i (fun r => { r with pending := r.pending ||| m })
    if (x.r.waitMask &&& m) != 0 && !x.waitHit then h.meet i bit else h

/-- Deliver an event (R256). One stamped at or after the timeout of a WAIT finds the WAIT timed out and stays pending. -/
def deliver (h : Hub) (i : Handle) (bit : Nat) : Hub :=
  let x := h.s i
  if x.r.waitExp != 0 && decide (x.r.waitExp ≤ h.nt) && !x.waitHit && x.r.state != S.free then (h.timeout i).land i bit
  else h.land i bit

/-! ### Drop (R37, R49, R178) -/

/-- The child-done event of a dropped child; true when it is discarded on this device (R49). -/
def childDone (h : Hub) (r : Rec) : Bool × Hub :=
  if !r.child then (false, h)
  else if r.parDev.toNat = h.dev then
    let p := r.parH
    if smGet 0 h.gens p.toNat ≠ r.parGen then (true, h)
    else if (h.s p).r.state != S.free then (false, h.deliver p 1)
    else if (h.s p).fwd != 0 then
      let f := (h.s p).fwd
      let d : BitVec 6 := BitVec.ofNat 6 (nsiDev f)
      (!h.sendable d, h.send d (.event f 1))
    else (true, h)
  else
    let d := r.parDev
    let n := nsiOf d.toNat r.parH r.parGen r.tenant
    if h.reachable d then (!h.sendable d, h.send d (.event n 1)) else (true, h)

/-- The program's instruction or the record's writes that still refer to a session forget it. -/
def unlink (h : Hub) (i : Handle) : Hub :=
  let f (r : Ring) : Ring := { r with backlog := r.backlog.map (fun x => if x.h = some i then { x with h := none } else x) }
  { h.unready i with
    sring := h.sring.map (fun e => (e.1, f e.2))
    writes := h.writes.map (fun e => (e.1, if e.2.sess = some i then { e.2 with sess := none } else e.2)) }

/-- A delta of a cut that this device keeps for its buddy has not become durable (R297, R401). -/
def deltasWait (h : Hub) (src : BitVec 6) (epoch : BitVec 32) : Bool := h.durs.any (fun e => match e.2 with
  | .buddy d e _ => d == src && e == epoch
  | _ => false)

/-- The buddy copy of a cut is complete, its manifest written: the device that drains it is told (R401). -/
def copyDone (h : Hub) (src : BitVec 6) (epoch : BitVec 32) : Hub :=
  if h.ck.bcopies.any (fun c => c.1 == epoch && c.2.2) && !h.deltasWait src epoch then h.send src (.drainDone epoch) else h

/-- Granary writes under way for a session no longer concern it; its intakes in progress end (R31). -/
def dropDurs (h : Hub) (i : Handle) : Hub :=
  let nsi := (h.s i).r.nsi
  let stale (h : Hub) (c : Option Sub) : Hub := match c with
    | none => h
    | some c => h.complete c St.staleNsi 0 nsi
  let h := h.hopq.foldl (fun h q => if q.h = i then stale h q.sub else h) h
  let h := h.durs.foldl (fun h e => match e.2 with
    | .intake j c _ _ => if j = i then stale h c else h
    | .intakeMirror j c _ => if j = i then stale h c else h
    | _ => h) h
  { h with hopq := h.hopq.filter (fun q => q.h != i)
           sl := { h.sl with grn := h.sl.grn.map (fun e => (e.1, e.2.filter (fun q => q.load != .ext i))) }
           reads := h.reads.filter (fun e => match e.2 with
      | .sealed j _ => j != i
      | _ => true)
           durs := h.durs.filter (fun e => match e.2 with
      | .flush j _ => j != i
      | .extent j => j != i
      | .intake j _ _ _ => j != i
      | .intakeMirror j _ _ => j != i
      | _ => true) }

/-- The spill of a session's unfinished chunk is released (R219). -/
def dropSpill (h : Hub) (x : Sess) : Hub :=
  if (x.pfReq.map (·.spilled)).getD false then
    { h with kv := { h.kv with spill := h.kv.spill.filter (fun e => e.1 / 2048 != x.r.part.toNat) } }
  else h

/-- Free a record: its cache, extents and log are released, held bytes discarded, the handle FREE (R37). `rel` marks a
drop under RELEASE (R181). -/
def dropSess (h : Hub) (i : Handle) (rel : Bool) : Hub :=
  let x := h.s i
  if x.r.state == S.free then h
  else
    let h := h.discardHeld i
    let (gone, h) := h.childDone x.r
    let h := h.trans i S.free St.ok 0x0070 (b2n gone + b2n rel * 2)
    let h := ((h.releaseRoots (h.rootIx x.r)).unreserve (h.rootIx x.r)).unlink i
    let h := (((h.dropSpill x).dropExtent i).grnRelease (objKey 2 x.r.nsi.toNat)).dropDurs i
    let h := match smLook h.sec.rots i.toNat with
      | none => h
      | some q =>
        let h := { h with sec := { h.sec with rots := smDel h.sec.rots i.toNat } }
        match q.sub with
        | none => h
        | some c => h.complete c St.ok q.newG.toNat x.r.nsi
    h.setS i {}

/-- A MIGRATION record (R284). -/
def migRecord (h : Hub) (r : Rec) (sub : Option Sub) (status : BitVec 8) (detail : Nat) (new : W64) : Hub :=
  let tag := match sub with
    | none => 0
    | some c => c.line.tag.toNat
  h.pushRec false r.part.toNat ⟨h.cRec 3 1 status 0 0 tag r.nsi detail (le 16 r.sk.toNat ++ le 8 r.nsi.toNat
    ++ le 8 new.toNat), none, false, none⟩

/-! ### Faults of a session (R35, R37, R255, R380) -/

/-- Commands waiting on a transient state end with `st`. -/
def failSubs (h : Hub) (i : Handle) (st : BitVec 8) : Hub :=
  let x := h.s i
  let h := (x.parkSubs ++ x.revSubs).foldl (fun h c => h.completeQ c st 0 x.r.nsi) h
  h.modS i (fun x => { x with parkSubs := [], revSubs := [], park := none, revive := none })

/-- The session moves to FAULTED (R37). A demotion or a migration under way ends with it (log 148); the events that waited for a migration
stay pending. -/
def faultSess (h : Hub) (i : Handle) (st : BitVec 8) (data : Nat) : Hub :=
  let x := h.s i
  if x.r.state == S.free || x.r.state == S.faulted then h
  else
    let h := h.trans i S.faulted st 0x0062 data
    let h := if st == St.poisoned then (h.inc F.INTPOISONKILL_count).flag F.INTSTAT_poison 32
      else if st == St.recordFault then h.flag F.INTSTAT_pw_fault 32 else h
    let h := h.unready i
    let h := (h.failSubs i st).unreserve (h.rootIx x.r)
    let h := h.modS i (fun x => { x with blk := none, stepReq := none, pfReq := none, demote := false, migOut := none, queued := 0
                                         waitHit := false, r := { x.r with pending := x.r.pending ||| x.queued } })
    match x.migOut with
    | none => h
    | some m => h.migRecord x.r m.sub st 0 0

/-! ### Park (R43, R153) -/

/-- Arm the TTL from now (R43). -/
def armTtl (h : Hub) (i : Handle) : Hub :=
  let t := h.nt
  h.modR i (fun r => if r.period = 0 then { r with ttlArmed := false, expiry := 0 }
    else { r with ttlArmed := true, expiry := BitVec.ofNat 64 (t.toNat + r.period.toNat * 1000000) })

/-- READY or WAITING enters PARKING: rest, TTL, log flush (R153). A park that a command or the program asks for is a touch (R46). -/
def startPark (h : Hub) (i : Handle) (evict : Bool) (sub : Option Sub) : Hub :=
  let t := h.nt
  let h := h.armTtl i
  let h := if evict then h else h.touch i
  let x := h.s i
  let h := h.modS i (fun x => { x with rest := x.r.state, park := some { byEvict := evict, nt := t }
                                       parkSubs := x.parkSubs ++ sub.toList })
  (h.trans i S.parking St.ok 0x0040 x.r.expiry.toNat).startFlush i

/-! ### Migration (R176, R177) -/

/-- MIGTMO in ns (R176). -/
def migTmo (h : Hub) : Nat := max 1000 (h.g F.MIGTMO_us) * 1000

/-- Events queued while MIGRATING are delivered, and a reached timeout met, once the record has left it (R178, R179). -/
def drainQueued (h : Hub) (i : Handle) : Hub :=
  let q := (h.s i).queued
  let h := h.modS i (fun x => { x with queued := 0 })
  let h := if (h.s i).waitHit then h.meet i 0xFFFF else h
  (List.range 16).foldl (fun h b => if q.getLsbD b then h.land i b else h) h

/-- The sender aborts a migration (R177): prior state, MIGRATE_ABORT, the completion, the program resumed. -/
def abortMig (h : Hub) (i : Handle) (reason : Nat) : Hub :=
  let x := h.s i
  match x.migOut with
  | none => h
  | some m =>
    let h := (h.trans i x.r.prior St.ok 0x0053 reason).inc F.MIGABORT_count
    let h := h.modS i (fun x => { x with migOut := none })
    let h := h.migRecord x.r m.sub St.migrateAborted reason 0
    let h := match (h.s i).blk with
      | some (.migrate d) => h.endInstr i (some (d, BitVec.ofNat 64 reason)) St.migrateAborted reason
      | some (.step d) =>
        if m.handoff then
          let h := h.modS i (fun x => { x with stepReq := none })
          h.endInstr i (some (d, 0)) St.migrateAborted 0
        else h
      | _ => if (h.s i).blk.isNone && x.r.prior != S.faulted then h.ready i else h
    h.drainQueued i

/-- A session enters MIGRATING and the OFFER goes out (R176); what cannot start aborts at once (R175, R177). -/
def startMig (h : Hub) (i : Handle) (target : BitVec 6) (kvmode : Bool) (sub : Option Sub) (handoff : Bool) : Hub :=
  let x := h.s i
  let e := x.r.ownEpoch + 1
  let h := h.modS i (fun x => { x with migOut := some { target := target, kvmode := kvmode, sub := sub, handoff := handoff
                                                        due := 0 } })
  let h := ((h.trans i S.migrating St.ok 0x0050 (target.toNat + e.toNat * 2 ^ 16)).touch i).unready i
  if kvmode && !h.recomputable i then h.abortMig i 9
  else if !h.reachable target then h.abortMig i 8
  else
    let r := x.r
    let gd := match smLook h.im.grams r.gramSlot.toNat with
      | none => 0
      | some g => g.digest
    let sd := match smLook h.im.stopSets r.stopSet.toNat with
      | none => 0
      | some s => Config.sha3 s.img
    let t := BitVec.ofNat 64 (h.nt.toNat + h.migTmo)
    let h := h.modS i (fun x => { x with migOut := x.migOut.map (fun m => { m with due := t }) })
    h.send target (.offer { sk := r.sk, epoch := e, tenant := r.tenant, part := r.part, gram := r.gramSlot
                            gramDig := gd, stop := r.stopSet, stopDig := sd, kvmode := kvmode
                            kvLen := BitVec.ofNat 32 (kvLenOf r), state := r.state, nsi := r.nsi })

/-! ### Owner mismatch (R180) -/

/-- A PREFILL outstanding whose turn has not started ends with `st` and no effect (R47). -/
def refusePrefill (h : Hub) (i : Handle) (st : BitVec 8) : Hub :=
  let x := h.s i
  match x.blk with
  | some (.prefill d) =>
    let waits (q : Option PfReq) : Bool := (q.map (fun q => !q.started && !q.recompute)).getD false
    if waits x.pfReq || (x.revive.map (fun v => waits v.pf)).getD false then
      (h.modS i (fun x => { x with pfReq := if waits x.pfReq then none else x.pfReq
                                   revive := x.revive.map (fun v => { v with pf := none }) })).endInstr i
        (some (d, BitVec.ofNat 64 x.r.committed.toNat)) st 0
    else h
  | _ => h

/-- The record learns of another holder: omm, OWNER_MISMATCH with its own epoch and the epoch seen. A PREFILL outstanding whose
turn has not started ends (R47); a STEP outstanding ends once none of its tokens is in flight (log 41). -/
def ownerMismatch (h : Hub) (i : Handle) (seen : BitVec 16) : Hub :=
  let h := h.modS i (fun x => { x with seen := seen, r := { x.r with omm := true, lastStatus := St.ownerConflict } })
  ((h.inc F.OWNCONF_count).record i 0x0054 ((h.s i).r.ownEpoch.toNat + seen.toNat * 2 ^ 16)).refusePrefill i St.ownerConflict

/-! ### Grammar slot and stop set (R118, R128) -/

/-- Bind a grammar slot; none where the slot is empty. -/
def bindGrammar (h : Hub) (i : Handle) (slot : Nat) : Option Hub :=
  if slot = 0 then
    some (h.modS i (fun x => { x with stack := [], r := { x.r with gramSlot := 0, gramState := 0, gramDepth := 0 } }))
  else
    match smLook h.im.grams slot with
    | none => none
    | some g => some (h.modS i (fun x => { x with stack := [], r := { x.r with gramSlot := BitVec.ofNat 12 slot
                                                                               gramState := g.start, gramDepth := 0 } }))

/-- Bind a stop set after the release R133 asks for; none where the set is empty. -/
def bindStop (h : Hub) (i : Handle) (set : Nat) : Option Hub :=
  let cnt := if set = 0 then some 0 else (smLook h.im.stopSets set).map (fun s => s.strs.countP (fun b => !b.isEmpty))
  match cnt with
  | none => none
  | some n =>
    let h := if (h.s i).r.stopSet.toNat = set then h else h.flushHeld i
    some (h.modR i (fun r => { r with stopSet := BitVec.ofNat 16 set, stopCnt := BitVec.ofNat 5 n }))

/-- Queue an intake for Hopper by intake NT, then window (R98). -/
def queueIntake (h : Hub) (q : IntakeReq) : Hub :=
  let before (a : IntakeReq) : Bool := decide (a.nt < q.nt) || (a.nt == q.nt && decide (a.w ≤ q.w))
  let h := { h with hopq := h.hopq.takeWhile before ++ [q] ++ h.hopq.dropWhile before }
  h.modS q.h (fun x => { x with intakes := x.intakes + 1 })

end Hub

end Sys2Proof.Machine
end

