-- ==== Sys2Proof/Machine/Action.lean ====
section
/-! DEFINITION. Actions on a session in their order (R41): what each host command does once it takes effect, the loop
that applies held actions, and the ends of the transient states (R153, R155, R156, R164, R165, R42). -/

namespace Sys2Proof

/-- Operand bytes `o` to `o + n - 1` of a line, by line byte offset (R273). -/
def CmdLine.opd (l : CmdLine) (o n : Nat) : Nat :=
  Machine.bitsOf l.ops.toNat (8 * (o + n - 32) - 1) (8 * (o - 32))

end Sys2Proof

namespace Sys2Proof.Machine

/-- The 128 bytes of a root entry (R64). -/
def Root.bytes (x : Root) : Bytes :=
  le 8 x.dir.toNat ++ le 8 x.ringt.toNat ++ le 4 x.kvLen.toNat ++ le 4 x.pages.toNat
    ++ le 8 (b2n x.ring + x.wPages.toNat * 2 ^ 16 + x.head.toNat * 2 ^ 32)
    ++ le 4 x.pfxNode.toNat ++ le 4 x.pfxBound.toNat ++ le 8 (b2n x.share + b2n x.histFull * 2) ++ le 16 0
    ++ (x.hist.map (fun e => le 8 e.toNat)).flatten

namespace Hub

/-- INSPECT (R276): a snapshot of the record or of one root entry goes to host memory; the command completes when it is
visible. -/
def inspect (h : Hub) (i : Handle) (c : Sub) : Hub :=
  let x := h.s i
  let addr := BitVec.ofNat 64 (c.line.opd 32 8)
  let c := { c with line := { c.line with nsi := x.r.nsi } }
  if c.line.opd 40 1 = 0 then h.hostWrite { addr := addr, data := x.r.bytes, sub := some (c, 0) }
  else if !h.shards.contains (c.line.opd 41 1) then h.complete c St.badOperand 0 x.r.nsi
  else
    match h.root? (h.rootIx x.r) (c.line.opd 41 1) with
    | none => h.complete c St.badState 0 x.r.nsi
    | some rt => h.hostWrite { addr := addr, data := rt.bytes, sub := some (c, 0) }

/-- RESUME of a HALTED session (R37, R42, R43, R256). -/
def resumeSess (h : Hub) (i : Handle) (pc : Nat) : Hub :=
  let x := h.s i
  let h := h.modS i (fun x => { x with blk := none, waitHit := false
                                       r := { x.r with pc := BitVec.ofNat 24 pc, waitMask := 0, waitExp := 0 } })
  let h := if x.r.logonly then (h.armTtl i).trans i S.parked St.ok 0x0061 pc else h.trans i S.ready St.ok 0x0061 pc
  h.ready i

/-- KEYROTATE (R432): the rotation waits for the owner group's next boundary. -/
def startRotate (h : Hub) (i : Handle) (c : Sub) : Hub :=
  let x := h.s i
  if (smLook h.sec.rots i.toNat).isSome || !h.on F.SECCTL_rotate_en then h.complete c St.badState 0 x.r.nsi
  else if 4096 ≤ h.sec.rots.length then h.complete c St.badState 0xFFFF0003 x.r.nsi
  else { h with sec := { h.sec with rots := smPut h.sec.rots i.toNat { phase := 0, newG := x.r.keygen + 1, sub := some c } } }

/-- What a session command does when it takes effect (R37, R39, R179, R276). -/
def act (h : Hub) (i : Handle) (c : Sub) : Hub :=
  let x := h.s i
  let nsi := x.r.nsi
  let l := c.line
  let bad := h.complete c St.badState 0 nsi
  let ok (h : Hub) : Hub := h.complete c St.ok 0 nsi
  if x.r.state == S.free then h.complete c St.staleNsi 0 l.nsi
  else if x.r.state == S.migrating && c.op != 0x08 then bad
  else if x.r.state == S.faulted && c.op != 0x02 then bad
  else if c.op == 0x02 then (h.dropSess i false).complete c St.ok 0 nsi
  else if c.op == 0x03 then
    if h.profS then h.complete c St.sealedRequired 0 nsi
    else
      h.queueIntake { h := i, nt := c.nt, w := c.w.setWidth 9, sub := some c, addr := BitVec.ofNat 64 (l.opd 32 8)
                      count := l.opd 40 2, tok := if l.opd 42 1 = 1 then some (BitVec.ofNat 32 (l.opd 44 4)) else none }
  else if c.op == 0x04 then
    if x.r.state == S.parked then (if x.r.omm then h.complete c St.ownerConflict 0 nsi else ok h)
    else if x.r.state == S.ready || x.r.state == S.waiting then
      if x.r.omm then h.complete c St.ownerConflict 0 nsi else h.startPark i false (some c)
    else bad
  else if c.op == 0x05 then
    if x.r.state == S.parked then
      let q := h.startRevive i 1 (some c)
      match q.1 with
      | none => q.2
      | some st => q.2.completeQ c st 0 nsi
    else if x.r.state == S.halted && x.r.ttlArmed && decide (x.r.expiry ≤ h.nt) then h.completeQ c St.ttlExpired 0 nsi
    else bad
  else if c.op == 0x06 then
    let d : BitVec 6 := BitVec.ofNat 6 (l.opd 32 1)
    if x.r.state == S.ready || x.r.state == S.waiting || x.r.state == S.parked then
      if x.r.omm then h.complete c St.ownerConflict 0 nsi
      else if d.toNat = h.dev || !h.isActive d then bad
      else h.startMig i d (l.opd 33 1 == 1) (some c) false
    else bad
  else if c.op == 0x07 then
    if x.r.state == S.halted then ok (h.resumeSess i (l.opd 32 3)) else bad
  else if c.op == 0x08 then ok (h.deliver i (l.opd 32 1))
  else if c.op == 0x09 then
    match setField x.r (l.opd 32 1) (BitVec.ofNat 64 (l.opd 40 8)) with
    | none => h.complete c St.badOperand 0 nsi
    | some r =>
      let h := h.modR i (fun _ => r)
      ok (if l.opd 32 1 = 2 then h.deliver i 3 else h)
  else if c.op == 0x0A then
    match (if l.opd 32 1 = 0 then h.bindGrammar i (l.opd 34 2) else h.bindStop i (l.opd 34 2)) with
    | none => h.complete c St.badOperand 0 nsi
    | some h => ok h
  else if c.op == 0x0C then
    if !x.r.omm then bad
    else if l.opd 32 1 = 0 && !newer 16 x.r.ownEpoch.toNat x.seen.toNat then h.complete c St.ownerConflict 0 nsi
    else
      let e := (if newer 16 x.r.ownEpoch.toNat x.seen.toNat then x.r.ownEpoch else x.seen) + 1
      let h := h.modS i (fun x => { x with seen := 0, probe := none, r := { x.r.setOwner x.r.ownDev e with omm := false } })
      let h := h.record i 0x0055 e.toNat
      ok ((h.actives.filter (fun d => d.toNat != h.dev)).foldl (fun h d => h.send d (.release x.r.sk e)) h)
  else if c.op == 0x43 then
    if (smLook h.sec.ctx x.r.tenant.toNat).isNone then h.complete c St.sealedRequired 0 nsi
    else
      let addr : W64 := BitVec.ofNat 64 (l.opd 32 8)
      (h.queueIntake { h := i, nt := c.nt, w := c.w.setWidth 9, sub := some c, addr := addr, count := 0, tok := none
                       ready := false }).hostRead addr 32 (.sealed i c)
  else if c.op == 0x44 then h.startRotate i c
  else bad

/-- Apply held actions in order while the session accepts them; a RELEASE or a DROP of the program's own that was held
applies first (R41, R181). -/
def settle (h : Hub) (i : Handle) : Nat → Hub
  | 0 => h
  | fuel + 1 =>
    let x := h.s i
    if x.r.state == S.free then
      x.actions.foldl (fun h c => h.complete c St.staleNsi 0 c.line.nsi) (h.modS i (fun x => { x with actions := [] }))
    else
      match x.relHeld with
      | some e =>
        if x.r.state == S.migrating then h
        else
          let h := h.modS i (fun x => { x with relHeld := none })
          let a := x.actions
          if newer 16 e.toNat x.r.ownEpoch.toNat then
            a.foldl (fun h c => h.complete c St.staleNsi 0 c.line.nsi) (h.dropSess i true)
          else settle h i fuel
      | none =>
        if h.holds i then h
        else if x.dropHeld && x.dropPos == 0 && x.r.state != S.migrating then
          let a := x.actions
          if x.intakes == 0 then a.foldl (fun h c => h.complete c St.staleNsi 0 c.line.nsi) (h.dropSess i false) else h
        else
          let h := h.unhold i
          match x.actions with
          | [] => h
          | c :: rest =>
            if h.mustHold i c.op c.line.ops || (h.boundDue && decide (h.nt ≤ c.nt)) then h
            else settle ((h.modS i (fun x => { x with actions := rest, dropPos := x.dropPos - 1 })).act i c) i fuel

/-- A write of DEADLINE by the host, which is never held (R121). -/
def renews (c : Sub) : Bool := c.op == 0x09 && c.line.ops.toNat % 256 == 2

/-- Writes of DEADLINE that waited for a boundary apply once it is made, though the session's other actions stay held (R121, R521). -/
def renewed (h : Hub) (i : Handle) : Hub :=
  let x := h.s i
  if h.boundDue || !x.actions.any renews then h
  else
    let h := h.modS i (fun x => { x with actions := x.actions.filter (!renews ·)
                                         dropPos := x.dropPos - (x.actions.take x.dropPos).countP renews })
    (x.actions.filter renews).foldl (fun h c => h.act i c) h

/-- Held actions of a session after a change. -/
def settled (h : Hub) (i : Handle) : Hub := (h.settle i ((h.s i).actions.length + 2)).renewed i

/-- The first paired word of a record that is invalid, by its byte offset (R33, R35). -/
def badPair (r : Rec) : Option Nat :=
  if r.ownChk != ~~~ (BitVec.ofNat 32 r.ownerWord) then some 0x20
  else if r.keygenChk != ~~~ r.keygen then some 0x28
  else if r.kvrootChk != ~~~ r.kvroot then some 0x30
  else none

/-- An armed PW_RECORD corrupts the complement half of the named field at the record's next use (R392). -/
def hitPair (h : Hub) (i : Handle) : Bool × Hub :=
  let off := ((h.inj.find? (fun x => x.point == 0x15 && bitsOf x.b.toNat 17 0 == i.toNat)).map (·.a.toNat)).getD 0
  let (hit, h) := h.fireInj 0x15 (fun x => bitsOf x.b.toNat 17 0 == i.toNat)
  if hit then
    (true, h.modR i (fun r =>
      if off = 0x20 then { r with ownChk := ~~~ r.ownChk }
      else if off = 0x28 then { r with keygenChk := ~~~ r.keygenChk }
      else { r with kvrootChk := ~~~ r.kvrootChk }))
  else (false, h)

/-- A use of a record finds an invalid paired word in OWNER, KEYGEN or KVROOT: the session moves to FAULTED with ST_RECORD_FAULT
(R35); the data of an injected fault has bit 63 set (R391). Commands of the session, its admission to a step and its program's
activation use the record (log 37). -/
def useRec (h : Hub) (i : Handle) : Hub :=
  let (hit, h) := h.hitPair i
  match Hub.badPair (h.s i).r with
  | some o => (h.faultSess i St.recordFault (o + injBit hit)).settled i
  | none => if h.rootsOk (h.s i).r then h else (h.faultSess i St.recordFault 0x30).settled i

/-- A held command goes behind those stamped before it, and among those with its own NT behind the windows up to its own (R41); a DROP
of the program's own keeps the commands before it. -/
def holdSub (x : Sess) (c : Sub) : Sess :=
  let before (a : Sub) : Bool := decide (a.nt < c.nt) || (a.nt == c.nt && decide (a.w ≤ c.w))
  let k := if x.dropHeld then x.dropPos else 0
  let l := x.actions.drop k
  { x with actions := x.actions.take k ++ l.takeWhile before ++ [c] ++ l.dropWhile before }

/-- A session command arrives (R41): held behind earlier ones, or it takes effect. One stamped at the boundary that the device
is about to make applies after it (R521). -/
def submit (h : Hub) (i : Handle) (c : Sub) : Hub :=
  if c.op == 0x0B then h.inspect i c
  else if h.boundDue || h.mustHold i c.op c.line.ops || (!(h.s i).actions.isEmpty && !renews c) then
    h.modS i (fun x => holdSub x c)
  else (h.act i c).settled i

/-! ### TTL expiry (R42) -/

/-- A STEP or PREFILL whose revive is refused completes with the refusal (R155, R258): no token confirmed, LENGTH.committed as it is. -/
def refuseHeld (h : Hub) (i : Handle) (st : BitVec 8) : Hub :=
  let x := h.s i
  let dst : Option (BitVec 4 × W64) := match x.blk with
    | some (.step d) => some (d, 0)
    | some (.prefill d) => some (d, BitVec.ofNat 64 x.r.committed.toNat)
    | _ => none
  if x.stepReq.isSome || x.pfReq.isSome then
    (h.modS i (fun x => { x with stepReq := none, pfReq := none })).endInstr i dst st 0
  else h

/-- PARKED becomes HALTED at TTL expiry: parked KV released, log-only, the log kept (R42). -/
def expire (h : Hub) (i : Handle) : Hub :=
  let x := h.s i
  let h := (h.dropExtent i).modR i (fun r => { r with logonly := true })
  (h.trans i S.halted St.ttlExpired 0x0046 x.r.expiry.toNat).refuseHeld i St.ttlExpired

/-- What follows the entry into PARKED: an expiry already past, a revive, held instructions and actions (R41, R155,
R167). -/
def parked (h : Hub) (i : Handle) : Hub :=
  let x := h.s i
  let h := if x.r.ttlArmed && decide (x.r.expiry ≤ h.nt) then h.expire i
    else if x.stepReq.isSome || x.pfReq.isSome then
      let q := h.startRevive i 0 none
      match q.1 with
      | none => q.2
      | some st => q.2.refuseHeld i st
    else h.afterParked i
  h.settled i

/-! ### Ends of transient states -/

/-- PARK_END (R153): `total` bytes over the group, `own` on this device. -/
def endPark (h : Hub) (i : Handle) (total own : Nat) (poison : Bool) : Hub :=
  let h := h.trans i S.parked St.ok 0x0041 total
  let x := h.s i
  let kvx := h.capture (h.rootIx x.r)
  let hdr := h.extHeader x own
  let h := (h.releaseFrames (h.rootIx x.r)).inc F.TIERPARKS_count
  let h := x.parkSubs.foldl (fun h c => h.completeQ c St.ok 0 x.r.nsi) h
  let h := h.modS i (fun x => { x with park := none, parkSubs := [], extent := some (own, poison), exthdr := hdr, kvx := kvx, xarea := areaBytes x
                                       r := { x.r with parks := BitVec.ofNat 8 (satAdd 8 x.r.parks.toNat 1) } })
  h.parked i

/-- PARK_FAIL (R155, R165): prior state, or WAITING for a WAIT still in progress; PARKFAIL is delivered. -/
def failPark (h : Hub) (i : Handle) : Hub :=
  let x := h.s i
  let isWait := match x.blk with
    | some (.wait _) => true
    | _ => false
  let h := h.modR i (fun r => { r with ttlArmed := false, expiry := 0 })
  let inPark := isWait && (x.park.map (·.waited)).getD false
  let h := (h.trans i (if inPark then S.waiting else x.r.prior) St.granaryFull 0x0042 0).inc F.TIERPFAIL_count
  let h := x.parkSubs.foldl (fun h c => h.completeQ c St.granaryFull 0 x.r.nsi) h
  let h := (h.dropExtent i).modS i (fun x => { x with park := none, parkSubs := []
                                                      r := { x.r with pending := x.r.pending ||| 4 } })
  let x := h.s i
  let h := if isWait && x.waitHit then h.wakeWait i 0xFFFF
    else if isWait && (x.r.pending &&& x.r.waitMask) != 0 then h.wakeWait i (lowBit (x.r.pending &&& x.r.waitMask)) else h
  h.settled i

/-- REVIVE_END (R37, R40, R156): `rc` says that the path that completed was the recompute. The session ends in READY where an event caused
the revive, or one of wait_mask or a WAIT's timeout came during it, and in its rest state otherwise. -/
def endRevive (h : Hub) (i : Handle) (rc : Bool) : Hub :=
  let x := h.s i
  let (cause, during) := match x.revive with
    | none => (0, false)
    | some v => (v.cause, v.hit)
  let isWait := match x.blk with
    | some (.wait _) => true
    | _ => false
  let hit := isWait && (cause = 2 || during) && (x.r.pending &&& x.r.waitMask) != 0
  let late := isWait && x.waitHit
  let dst := if cause = 2 || hit || late then S.ready else x.rest
  let h := h.modR i (fun r => if rc then { r with logonly := false, revives := BitVec.ofNat 8 (satAdd 8 r.revives.toNat 1)
                                                  recomputes := BitVec.ofNat 8 (satAdd 8 r.recomputes.toNat 1) }
    else { r with revives := BitVec.ofNat 8 (satAdd 8 r.revives.toNat 1) })
  let h := (h.trans i dst St.ok 0x0045 (b2n rc)).inc (if rc then F.TIERREVC_count else F.TIERREVR_count)
  let h := x.revSubs.foldl (fun h c => h.completeQ c St.ok (b2n rc) x.r.nsi) h
  let pf := match x.revive with
    | none => x.pfReq
    | some v => if v.pf.isSome then v.pf else x.pfReq
  let h := ((h.dropExtent i).modS i (fun x => { x with revive := none, revSubs := [], pfReq := pf })).unreserve (h.rootIx x.r)
  let h := match x.blk with
    | some (.revive d) => h.endInstr i (some (d, BitVec.ofNat 64 (b2n rc))) St.ok 0
    | _ => h
  let h := if late then h.wakeWait i 0xFFFF else if hit then h.wakeWait i (lowBit (x.r.pending &&& x.r.waitMask)) else h
  h.settled i

/-- Step 3 of a demotion (R164). -/
def endDemote (h : Hub) (i : Handle) : Hub :=
  let x := h.s i
  let h := ((h.releaseFrames (h.rootIx x.r)).armTtl i).dropExtent i
  let h := h.modS i (fun x => { x with demote := false, rest := x.r.state, r := { x.r with logonly := true } })
  let h := (h.trans i S.parked St.evictedLogonly 0x0043 x.r.touch.toNat).inc F.TIERDEMOTE_count
  h.parked i

/-- Step 1 of a demotion: the log is flushed; with nothing to flush the rest follows at once (R164). -/
def startDemote (h : Hub) (i : Handle) : Hub :=
  let x := h.s i
  let h := h.modS i (fun x => { x with demote := true })
  if x.logDurable then h.endDemote i else h.startFlush i

end Hub

end Sys2Proof.Machine
end

