-- ==== Sys2Proof/Machine/Host.lean ====
section
/-! DEFINITION. The host interface (11_host_cxl.md): the HDM region, the checks of a command line in their order (R269,
R272 to R277, R366, R520), AIX lookups (R329 to R336) and the meanings of the host commands on sessions and images. -/

namespace Sys2Proof.Machine

/-! ### Operands of a line (R273, R276, R339, R391, R414, R442, R512) -/

/-- Bytes first to last with the bits each may carry. -/
abbrev OpdRow := Nat × Nat × Nat

/-- The operand bytes an opcode names. -/
def opdRows (op : Nat) : List OpdRow :=
  match op with
  | 0x01 => [(32, 45, 255), (48, 59, 255), (60, 60, 3)]
  | 0x03 => [(32, 39, 255), (40, 42, 255), (44, 47, 255)]
  | 0x06 => [(32, 32, 63), (33, 33, 1)]
  | 0x07 => [(32, 34, 255)]
  | 0x08 => [(32, 32, 255)]
  | 0x09 => [(32, 32, 255), (40, 47, 255)]
  | 0x0A => [(32, 32, 255), (34, 35, 255)]
  | 0x0B => [(32, 39, 255), (40, 41, 255)]
  | 0x0C => [(32, 32, 1)]
  | 0x10 => [(32, 41, 255)]
  | 0x11 => [(32, 49, 255)]
  | 0x12 => [(32, 49, 255)]
  | 0x13 => [(32, 40, 255)]
  | 0x14 => [(40, 40, 255)]
  | 0x15 => [(32, 47, 255)]
  | 0x16 => [(32, 48, 255)]
  | 0x17 => [(48, 48, 255)]
  | 0x18 => [(32, 32, 255), (33, 33, 1), (40, 47, 255)]
  | 0x19 => [(32, 32, 63)]
  | 0x20 => [(32, 40, 255), (41, 41, 15), (44, 50, 255), (56, 63, 255)]
  | 0x21 => [(32, 33, 255)]
  | 0x22 => [(32, 41, 255)]
  | 0x23 => [(32, 41, 255)]
  | 0x24 => [(32, 41, 255)]
  | 0x25 => [(32, 42, 255), (44, 51, 255)]
  | 0x26 => [(40, 41, 255)]
  | 0x30 => [(32, 32, 63)]
  | 0x31 => [(32, 32, 63), (33, 33, 255), (36, 39, 255)]
  | 0x40 => [(32, 47, 255)]
  | 0x41 => [(32, 42, 255)]
  | 0x42 => [(40, 42, 255)]
  | 0x43 => [(32, 39, 255)]
  | 0x45 => [(32, 32, 15)]
  | 0x46 => [(32, 33, 255)]
  | 0x47 => [(32, 32, 255), (33, 33, 1), (40, 47, 255)]
  | 0x50 => [(32, 40, 255), (41, 41, 1), (44, 45, 255), (46, 46, 3), (48, 59, 255)]
  | 0x51 => [(32, 41, 255)]
  | 0x58 => [(32, 55, 255)]
  | _ => []

/-- An injection point that the manual defines (R392, R443, R472, R514). -/
def injPoints : List Nat := (List.range 0x1C).drop 1 ++ [0x20, 0x21, 0x22, 0x23, 0x28, 0x29, 0x2A, 0x30, 0x31, 0x32]

/-- Operands outside their stated range: the byte offset of a field and whether it is in range, in ascending offset. -/
def opdRanges (op : Nat) (l : CmdLine) : List (Nat × Bool) :=
  let v := l.opd
  let al (n : Nat) : Bool := v 32 8 % n == 0
  match op with
  | 0x03 => [(32, v 42 1 != 0 || al 16), (40, v 42 1 != 0 || (decide (1 ≤ v 40 2) && decide (v 40 2 ≤ 256))),
      (42, decide (v 42 1 ≤ 1))]
  | 0x08 => [(32, decide (8 ≤ v 32 1) && decide (v 32 1 ≤ 15))]
  | 0x0A => [(32, decide (v 32 1 ≤ 1))]
  | 0x0B => [(32, al 64), (40, decide (v 40 1 ≤ 1))]
  | 0x10 => [(40, decide (1 ≤ v 40 2))]
  | 0x11 => [(48, decide (1 ≤ v 48 2) && decide (v 48 2 ≤ 4095))]
  | 0x12 => [(48, decide (v 48 2 ≤ 1023))]
  | 0x16 => [(48, decide (v 48 1 ≤ 7))]
  | 0x17 => [(48, decide (v 48 1 ≤ 7))]
  | 0x18 => [(32, decide (v 32 1 ≤ 7))]
  | 0x20 => [(32, decide (v 32 2 ≤ 63)), (34, decide (8 ≤ v 34 2) && decide (v 34 2 ≤ 4096) && v 34 2 % 8 == 0),
      (36, decide (v 36 1 ≤ 2)), (37, decide (v 37 1 ≤ 2) && ((v 36 1 == 2) == (v 37 1 == 2))),
      (38, if v 36 1 = 2 then v 38 2 == v 34 2 / 8 else decide (8 ≤ v 38 2) && decide (v 38 2 ≤ 256) && v 34 2 % v 38 2 == 0),
      (40, [16, 32, 64].contains (v 40 1)), (44, decide (1 ≤ v 44 4) && decide (v 44 4 ≤ 1073741824)), (56, v 36 1 != 2 || v 56 8 == 0)]
  | 0x21 => [(32, decide (v 32 2 ≤ 63))]
  | 0x22 => [(32, al 64), (40, decide (v 40 2 ≤ 63))]
  | 0x23 => [(32, al 64), (40, decide (v 40 2 ≤ 63))]
  | 0x24 => [(32, al 64), (40, decide (v 40 2 ≤ 63))]
  | 0x25 => [(40, decide (v 40 2 ≤ 63)), (42, decide (1 ≤ v 42 1) && decide (v 42 1 ≤ 15)),
      (48, decide (1 ≤ v 48 4) && decide (v 48 4 ≤ 2 ^ 31))]
  | 0x26 => [(40, decide (v 40 2 ≤ 63))]
  | 0x31 => [(33, decide (v 33 1 ≤ 4))]
  | 0x40 => [(40, v 40 8 % 64 == 0)]
  | 0x43 => [(32, al 64)]
  | 0x46 => [(32, decide (v 32 1 ≤ 3)), (33, decide (1 ≤ v 33 1) && decide (v 33 1 ≤ 64))]
  | 0x47 => [(32, decide (v 32 1 ≤ 1))]
  | 0x50 => [(32, al 64), (40, decide (v 40 1 ≤ 1)), (56, decide (1 ≤ v 56 4) && decide (v 56 4 ≤ 65536))]
  | 0x51 => [(40, decide (v 40 1 ≤ 1))]
  | 0x58 => [(32, injPoints.contains (v 32 1)), (33, decide (v 33 1 ≤ 2)),
      (34, v 33 1 != 1 || decide (1 ≤ v 34 2)),
      (36, v 32 1 != 0x15 || [0x20, 0x28, 0x30].contains (v 36 4))]
  | _ => []

/-- A command that names a session (R275, R442). -/
def namesSession (op : BitVec 8) : Bool := (0x02 ≤ op.toNat && op.toNat ≤ 0x0C) || op == 0x43 || op == 0x44

/-- A session command (R356): ADMIT and those that name a session. -/
def sessionOp (op : BitVec 8) : Bool := op == 0x01 || namesSession op

/-- A command accepted only on administrative windows (R275, R339, R391, R414, R442, R512). -/
def adminOp (op : BitVec 8) : Bool :=
  let n := op.toNat
  (0x10 ≤ n && n ≤ 0x19) || n == 0x20 || n == 0x21 || n == 0x30 || n == 0x31 || [0x40, 0x41, 0x42, 0x45, 0x46, 0x47].contains n
    || (0x50 ≤ n && n ≤ 0x53) || n == 0x58 || n == 0x59

/-- An opcode that the manual defines. -/
def knownOp (op : BitVec 8) : Bool := sessionOp op || adminOp op || (0x22 ≤ op.toNat && op.toNat ≤ 0x26)

/-- The offset of the first offending byte of a line (R273). -/
def badByte (op : BitVec 8) (l : CmdLine) : Option Nat :=
  let byKey := l.flags.getLsbD 1
  let flagBad := decide (4 ≤ l.flags.toNat) || (byKey && !namesSession op)
  let nsiBad := (byKey || !namesSession op) && l.nsi != 0
  let firstByte (o n v : Nat) : Option Nat := (List.range n).findSome? (fun k =>
    if (v / 2 ^ (8 * k)) % 256 = 0 then none else some (o + k))
  let allowed (b : Nat) : Nat := (((opdRows op.toNat).find? (fun r => decide (r.1 ≤ b ∧ b ≤ r.2.1))).map (·.2.2)).getD 0
  if flagBad then some 1
  else if l.rsv != 0 then firstByte 2 2 l.rsv.toNat
  else if nsiBad then firstByte 8 8 l.nsi.toNat
  else if op == 0x01 && l.sk == 0 then some 16
  else if op != 0x01 && !byKey && l.sk != 0 then firstByte 16 16 l.sk.toNat
  else
    (List.range 32).findSome? (fun k =>
      let b := 32 + k
      let v := l.opd b 1
      if v - (v &&& allowed b) ≠ 0 ∨ (opdRanges op.toNat l).any (fun r => r.1 == b && !r.2) then some b else none)

namespace Hub

/-! ### AIX (R329 to R336) -/

/-- A main bank fails (R335, R336). -/
def failBank (h : Hub) (b : Nat) : Hub :=
  if h.aix.bad.contains b then h
  else
    let h := { h with aix := { h.aix with bad := h.aix.bad ++ [b] } }
    if h.on F.AIXCTL_spare_en && h.aix.swap.isNone && h.aix.spare.isNone then { h with aix := { h.aix with swap := some b } }
    else ((h.p F.AIXSTAT_nospare 1).devEv 0x0303 4 b).raiseFault 5

/-- A SESSION lookup of a key stamped now: uncertain, and the record found (R329 to R332). -/
def lookup (h : Hub) (sk : BitVec 128) : Bool × Option Handle × Hub :=
  let h := h.inc F.AIXLOOKUPS_count
  let i := h.findSk sk
  let i := i.filter (fun i => decide ((h.s i).born < h.nt))
  let (up, h) := h.fireInj 0x16 (fun x => i.map (·.toNat) != some (x.a.toNat * 16384 + x.b.toNat))
  let h := if up then h.inc F.AIXFALSE_count else h
  let (un, h) := h.fireInj 0x17 (fun _ => true)
  if un then
    let b := (i.map (·.toNat / 16384)).getD 0
    let h := (h.p F.AIXSTAT_uncertain 1).devEv 0x0301 4 (b + injBit true)
    (true, none, h.failBank b)
  else (false, i, h)

/-! ### Policing (R359, R366) -/

/-- The policer entry of a tenant in force. -/
def policer (h : Hub) (tenant : BitVec 24) : Option Nat :=
  (List.range 64).find? (fun k =>
    let v := h.slReg (F.SLPOL_tenant.a + F.SLPOL_tenant.stride * k)
    bitsOf v 31 31 == 1 && bitsOf v 23 0 == tenant.toNat)

/-- Test a command of a tenant against its policer. -/
def police (h : Hub) (tenant : BitVec 24) : Bool × Hub :=
  if !h.on F.SLCTL_police_en then (true, h)
  else
    match h.policer tenant with
    | none => (true, h)
    | some k =>
      let t := smGet 0 h.sl.pol k
      if 1000000 ≤ t then (true, { h with sl := { h.sl with pol := smSet 0 h.sl.pol k (t - 1000000) } })
      else (false, h.inc F.SLTHROT_count)

/-! ### Windows (R272, R274, R282) -/

/-- A line is discarded and counted (R272). -/
def discard (h : Hub) (w : Nat) : Hub :=
  let x := smGet {} h.wins w
  { h with wins := smPut h.wins w { x with disc := x.disc + 1 } }.inc F.HCMDDISC_count

/-- Set an HSTAT bit and signal it (R286). -/
def hstat (h : Hub) (f : Fld) : Hub := (h.p f 1).signal 32

/-- Commands of a window that wait: the actions held under R41 (log 17). -/
def waiting (h : Hub) (w : BitVec 8) : Nat :=
  (h.sess.map (fun e => e.2.actions.countP (fun c => c.w == w))).sum

/-- Stage `k` of node formation is done (R479). -/
def stage (h : Hub) (k : Nat) : Bool := bitsOf (h.g F.NFDONE_done) k k == 1

/-- The stages a command's work needs are done (R520). -/
def staged (h : Hub) (op : BitVec 8) : Bool :=
  let n := op.toNat
  if sessionOp op then h.on F.NFSTAT_ready
  else if [0x10, 0x11, 0x12, 0x13, 0x15, 0x16, 0x17].contains n then h.stage 8
  else if n = 0x18 || n = 0x19 || (0x20 ≤ n && n ≤ 0x26) || n = 0x30 || n = 0x31 then h.stage 9
  else true

/-- CXL service waits for IDE in Profile S (R269). -/
def ideWait (h : Hub) : Bool := h.profS && !h.on F.SECSTAT_ide_up

/-- A full line of window `w`, which the device serves once BOOT is done (R520), and which is not discarded: the checks of R273 to R275, R366 and R520 in order, then `f`. The completion of a session command that ends
here names the session its line names (R283). -/
def line (h : Hub) (w : BitVec 8) (op : BitVec 8) (l : CmdLine) (f : Sub → Hub → Hub) : Hub :=
  let i := w.toNat
  let part := h.gi F.CMDWIN_partition i
  if !h.stage 2 then h
  else if h.ideWait then h.discard i
  else if !h.on F.HCTL_cmd_en || h.gi F.CMDWIN_enable i = 0 then (h.discard i).hstat F.HSTAT_window_off
  else if h.gi F.CMPSTAT_overflow part = 1 then h.discard i
  else
    let c : Sub := { op := op, line := l, w := w, part := BitVec.ofNat 4 part
                     tenant := BitVec.ofNat 24 (h.gi F.CMDWIN_tenant i), nt := h.nt }
    let x := smGet {} h.wins i
    let nsi := if namesSession op then l.nsi else 0
    if 1024 ≤ h.waiting w then
      { h with wins := smPut h.wins i { x with refused := x.refused + 1 } }.complete c St.windowFull 0 nsi
    else
      let h := { h with wins := smPut h.wins i { x with taken := x.taken + 1 } }.inc F.HCMDS_count
      if !knownOp op then h.complete c St.badCommand
      else if adminOp op && h.gi F.CMDWIN_admin i = 0 then h.complete c St.badCommand 0xFFFF0002
      else
        match badByte op l with
        | some o => h.complete c St.badCommand o nsi
        | none =>
          let (ok, h) := if sessionOp op || (0x22 ≤ op.toNat && op.toNat ≤ 0x26) then h.police c.tenant else (true, h)
          if !ok then h.complete c St.throttled 0 nsi
          else if !h.staged op then h.complete c St.badState 0 nsi
          else if sessionOp op && h.faulted then h.complete c St.deviceFault 0 nsi
          else f c h

/-- A command that names a session: R31, R275; then `f`. -/
def sessLine (h : Hub) (w : BitVec 8) (op : BitVec 8) (l : CmdLine) : Hub :=
  h.line w op l (fun c h =>
    let mine (i : Handle) : Bool := (h.s i).r.tenant == c.tenant && (h.s i).r.part == c.part
    if l.flags.getLsbD 1 then
      let (_, i, h) := h.lookup l.sk
      match i with
      | none => h.complete c St.noSession
      | some i => if mine i then (h.useRec i).submit i c else h.complete c St.noSession
    else
      match h.findNsi l.nsi with
      | none => h.complete c St.staleNsi 0 l.nsi
      | some i => if mine i then (h.useRec i).submit i c else h.complete c St.noSession 0 l.nsi)

/-- ADMIT takes effect (R27 to R33, R37, R276); after an uncertain lookup it waits for the bank swap, and where no bank replaces the failed one
the group fault ends it (R277, R331, R336). -/
def admitSession (h : Hub) (c : Sub) : Hub :=
  let sk := c.line.sk
  let (un, _, h) := h.lookup sk
  if un then (if h.faulted then h.complete c St.deviceFault else { h with aix := { h.aix with held := h.aix.held ++ [c] } })
  else if (h.findSk sk).isSome then h.complete c St.skExists
  else if h.on F.HDEVIDX_spare then h.complete c St.noHandle
  else
    match h.freeHandle with
    | none => h.complete c St.noHandle
    | some i =>
      let (g, h) := h.bumpGen i
      let v := c.line.opd
      let nsi := nsiOf h.dev i g c.tenant
      let t := h.nt
      let r : Rec := { sk := sk, nsi := nsi, autorevive := bitsOf (v 60 1) 1 1 == 1, period := BitVec.ofNat 32 (v 52 4)
                       pc := BitVec.ofNat 24 (v 56 3), prog := BitVec.ofNat 8 (v 59 1), seed := BitVec.ofNat 64 (v 32 8)
                       temp := BitVec.ofNat 16 (v 40 2), topP := BitVec.ofNat 16 (v 42 2), topK := BitVec.ofNat 16 (v 44 2)
                       maxtok := BitVec.ofNat 32 (v 48 4), part := c.part, touch := t, admitNt := t }
      let r := r.setOwner (BitVec.ofNat 6 h.dev) 0
      let h := h.setS i { r := r, share := bitsOf (v 60 1) 0 0 == 1, born := t }
      let h := (h.trans i S.admitted St.ok 0x0001 (sk.toNat % 2 ^ 64)).modR i (fun r => { r with prior := 0 })
      (h.ready i).complete c St.ok 0 nsi

/-! ### HDM loads and stores (R271, R278 to R282) -/

/-- The status line of a command window (R282). -/
def windowLine (h : Hub) (w : Nat) : Bytes :=
  let x := smGet {} h.wins w
  padTo 64 (le 8 x.taken.toNat ++ le 8 x.refused.toNat ++ le 8 x.disc.toNat ++ le 2 (h.waiting (BitVec.ofNat 8 w)))

/-- Ticket and key-slot loads get an answer: not in reset, nor while the CXL link is down after a port reset (R477). -/
def answers (h : Hub) : Bool := h.stage 0 && !h.nf.portDown

/-- Ticket and key-slot loads are served: BOOT is done, IDE is up where the profile asks for it, the enable is set (R269, R288,
R520). -/
def loadsServed (h : Hub) : Bool := h.answers && h.stage 2 && !h.ideWait && h.on F.HCTL_ticket_en

/-- A ticket load is answered: counted, its service time recorded. The time itself is not modelled: a free value of at
most 120 ns (R278, log 2). A load that is answered and not served reads zero. -/
def serve (h : Hub) (b : Bytes) : Hub :=
  if !h.answers then h
  else if !h.loadsServed then h.emit (.load (List.replicate 64 0))
  else
    let (v, h) := h.fresh
    let h := (h.inc F.HTICKETS_count).p F.HTKTMAX_ns (max (h.g F.HTKTMAX_ns) (v.toNat % 121))
    h.emit (.load b)

/-- Record a cacheable read in the snoop filter; a full filter first invalidates its oldest entry (R281). -/
def filter (h : Hub) (i : Handle) : Hub :=
  if h.snoop.contains i || !h.on F.HCTL_bi_en then h
  else
    let h := match h.snoop with
      | o :: rest => if 65536 ≤ h.snoop.length then
          { h with snoop := rest, out := h.out ++ [Out.inval (0x1000000 + 64 * o.toNat)] } else h
      | [] => h
    { h with snoop := h.snoop ++ [i] }

/-- The answer to a key-slot load (R280). -/
def keySlot (h : Hub) (k : Nat) : Bytes × Hub :=
  match smLook h.keySlots k with
  | none => (missTicket, h)
  | some sk =>
    if h.gi F.CMDWIN_enable (k / 64) = 0 then (missTicket, h)
    else
      let (_, i, h) := h.lookup sk
      match i with
      | none => (missTicket, h)
      | some i =>
        let r := (h.s i).r
        if r.part.toNat = h.gi F.CMDWIN_partition (k / 64) ∧ r.tenant.toNat = h.gi F.CMDWIN_tenant (k / 64) then
          (h.ticket i, h)
        else (missTicket, h)

/-- The line that a load of the HDM region at `off` reads, by the region's layout (R271): a window's status line, a handle's ticket, the
ticket of a key slot, zeros in the reserved rest. -/
def hdmLine (h : Hub) (off : Nat) : Bytes × Hub :=
  if off < 0x1000000 then (h.windowLine (off / 0x10000), h)
  else if off < 0x2000000 then (h.ticket (BitVec.ofNat 18 ((off - 0x1000000) / 64)), h)
  else if off < 0x2040000 then h.keySlot ((off - 0x2000000) / 64)
  else (List.replicate 64 0, h)

/-- A record that is not FREE satisfies `p`. -/
def anyRec (h : Hub) (p : Rec → Bool) : Bool := h.sess.any (fun e => e.2.r.state != S.free && p e.2.r)

/-- An image command whose image is read from host memory (R276); the read's length is the image's own where the command
does not give it (log 16). -/
def imageLine (h : Hub) (w : BitVec 8) (op : BitVec 8) (l : CmdLine) (len : Nat) (busy : Hub → Option (BitVec 8)) : Hub :=
  h.line w op l (fun c h =>
    match busy h with
    | some st => h.complete c st
    | none => h.hostRead (BitVec.ofNat 64 (l.opd 32 8)) len (.image c))

end Hub

/-! ### The commands -/

/-- TICKET_LOAD: the 64 bytes of R279 from one version of the record (R278). -/
def execTicketLoad (t : Nt) (i : Handle) (cacheable : Bool) : State → Host.Outcome State Fault Refusal :=
  onHub t (fun h =>
    let served := h.loadsServed
    let h := h.serve (h.hdmLine (0x1000000 + 64 * i.toNat)).1
    if cacheable && served then h.filter i else h)

/-- KEY_SLOT_STORE (R280). -/
def execKeySlotStore (t : Nt) (k : BitVec 12) (sk : BitVec 128) : State → Host.Outcome State Fault Refusal :=
  onHub t (fun h => if h.stage 2 then { h with keySlots := smPut h.keySlots k.toNat sk } else h)

/-- KEY_SLOT_LOAD (R280). -/
def execKeySlotLoad (t : Nt) (k : BitVec 12) : State → Host.Outcome State Fault Refusal :=
  onHub t (fun h =>
    if !h.loadsServed then h.serve []
    else
      let (b, h) := h.hdmLine (0x2000000 + 64 * k.toNat)
      h.serve b)

/-- TICKET_WINDOW_STORE: ignored, HSTAT.ticket_store set (R271). -/
def execTicketWindowStore (t : Nt) (_off : BitVec 28) : State → Host.Outcome State Fault Refusal :=
  onHub t (fun h => if h.stage 2 then h.hstat F.HSTAT_ticket_store else h)

/-- MEMWRPTL: discarded, HSTAT.partial set (R272). -/
def execMemwrptl (t : Nt) (w : BitVec 8) : State → Host.Outcome State Fault Refusal :=
  onHub t (fun h => if h.stage 2 then (h.discard w.toNat).hstat F.HSTAT_partial else h)

/-- ADMIT (R276). -/
def execAdmit (t : Nt) (w : BitVec 8) (l : CmdLine) : State → Host.Outcome State Fault Refusal :=
  onHub t (fun h => h.line w 0x01 l (fun c h => h.admitSession c))

/-- DROP (R37, R41). -/
def execDropCommand (t : Nt) (w : BitVec 8) (l : CmdLine) : State → Host.Outcome State Fault Refusal :=
  onHub t (fun h => h.sessLine w 0x02 l)

/-- INTAKE (R93, R94). -/
def execIntakeCommand (t : Nt) (w : BitVec 8) (l : CmdLine) : State → Host.Outcome State Fault Refusal :=
  onHub t (fun h => h.sessLine w 0x03 l)

/-- PARK (R153). -/
def execParkCommand (t : Nt) (w : BitVec 8) (l : CmdLine) : State → Host.Outcome State Fault Refusal :=
  onHub t (fun h => h.sessLine w 0x04 l)

/-- REVIVE, cause 1 (R156). -/
def execReviveCommand (t : Nt) (w : BitVec 8) (l : CmdLine) : State → Host.Outcome State Fault Refusal :=
  onHub t (fun h => h.sessLine w 0x05 l)

/-- MIGRATE (R176). -/
def execMigrateCommand (t : Nt) (w : BitVec 8) (l : CmdLine) : State → Host.Outcome State Fault Refusal :=
  onHub t (fun h => h.sessLine w 0x06 l)

/-- RESUME (R37, R256). -/
def execResume (t : Nt) (w : BitVec 8) (l : CmdLine) : State → Host.Outcome State Fault Refusal :=
  onHub t (fun h => h.sessLine w 0x07 l)

/-- SIGNAL (R256). -/
def execSignal (t : Nt) (w : BitVec 8) (l : CmdLine) : State → Host.Outcome State Fault Refusal :=
  onHub t (fun h => h.sessLine w 0x08 l)

/-- UPDATE (R257). -/
def execUpdate (t : Nt) (w : BitVec 8) (l : CmdLine) : State → Host.Outcome State Fault Refusal :=
  onHub t (fun h => h.sessLine w 0x09 l)

/-- BIND (R118, R128). -/
def execBindCommand (t : Nt) (w : BitVec 8) (l : CmdLine) : State → Host.Outcome State Fault Refusal :=
  onHub t (fun h => h.sessLine w 0x0A l)

/-- INSPECT (R276). -/
def execInspect (t : Nt) (w : BitVec 8) (l : CmdLine) : State → Host.Outcome State Fault Refusal :=
  onHub t (fun h => h.sessLine w 0x0B l)

/-- RECLAIM (R181). -/
def execReclaim (t : Nt) (w : BitVec 8) (l : CmdLine) : State → Host.Outcome State Fault Refusal :=
  onHub t (fun h => h.sessLine w 0x0C l)

/-- SEALINTAKE (R426). -/
def execSealintake (t : Nt) (w : BitVec 8) (l : CmdLine) : State → Host.Outcome State Fault Refusal :=
  onHub t (fun h => h.sessLine w 0x43 l)

/-- KEYROTATE (R432). -/
def execKeyrotate (t : Nt) (w : BitVec 8) (l : CmdLine) : State → Host.Outcome State Fault Refusal :=
  onHub t (fun h => h.sessLine w 0x44 l)

/-- STOPLOAD reads the 1,152-byte image of R127; an index in use is refused (R128). -/
def execStopload (t : Nt) (w : BitVec 8) (l : CmdLine) : State → Host.Outcome State Fault Refusal :=
  onHub t (fun h => h.imageLine w 0x10 l 1152 (fun h =>
    if h.anyRec (fun r => r.stopSet.toNat == l.opd 40 2) then some St.stopsetBusy else none))

/-- GRAMLOAD reads a grammar image; a slot in use is refused (R276). -/
def execGramload (t : Nt) (w : BitVec 8) (l : CmdLine) : State → Host.Outcome State Fault Refusal :=
  onHub t (fun h => h.imageLine w 0x11 l (l.opd 40 8) (fun h =>
    if h.anyRec (fun r => r.gramSlot.toNat == l.opd 48 2) then some St.badState else none))

/-- ADAPTERLOAD reads an adapter image; a slot with 4 live versions is refused (R102). -/
def execAdapterload (t : Nt) (w : BitVec 8) (l : CmdLine) : State → Host.Outcome State Fault Refusal :=
  onHub t (fun h => h.imageLine w 0x12 l (l.opd 40 8) (fun h =>
    if 4 ≤ (smGet {} h.im.adapters (l.opd 48 2)).vers.countP (fun a => a.commit.isSome) then some St.adapterBusy else none))

/-- PROGLOAD reads a program image; a slot that a record names is refused (R248). -/
def execProgload (t : Nt) (w : BitVec 8) (l : CmdLine) : State → Host.Outcome State Fault Refusal :=
  onHub t (fun h => h.imageLine w 0x13 l 0 (fun h =>
    if h.anyRec (fun r => r.prog.toNat == l.opd 40 1) then some St.progBusy else none))

/-- PROGDROP empties a program slot (R276). -/
def execProgdrop (t : Nt) (w : BitVec 8) (l : CmdLine) : State → Host.Outcome State Fault Refusal :=
  onHub t (fun h => h.line w 0x14 l (fun c h =>
    if h.anyRec (fun r => r.prog.toNat == l.opd 40 1) then h.complete c St.progBusy
    else ({ h with im := { h.im with progs := smDel h.im.progs (l.opd 40 1) } }.grnRelease (progKey (l.opd 40 1))).complete c St.ok))

/-- MODELLOAD reads a model image (R276). -/
def execModelload (t : Nt) (w : BitVec 8) (l : CmdLine) : State → Host.Outcome State Fault Refusal :=
  onHub t (fun h => h.imageLine w 0x15 l (l.opd 40 8) (fun _ => none))

/-- PLANLOAD reads a plan image (R223). -/
def execPlanload (t : Nt) (w : BitVec 8) (l : CmdLine) : State → Host.Outcome State Fault Refusal :=
  onHub t (fun h => h.imageLine w 0x16 l (l.opd 40 8) (fun _ => none))

/-- PLANDROP empties a slot that is not active (R223). -/
def execPlandrop (t : Nt) (w : BitVec 8) (l : CmdLine) : State → Host.Outcome State Fault Refusal :=
  onHub t (fun h => h.line w 0x17 l (fun c h =>
    let k := l.opd 48 1
    if h.slotActive k then h.complete c St.badState
    else
      let h := (smGet [] h.im.plans k).foldl (fun h p => h.grnRelease (planKey k p.base.toNat)) h
      let h := { h with im := { h.im with plans := smDel h.im.plans k } }
      let h := (h.p F.POOLPLAN_loaded (setBits (h.g F.POOLPLAN_loaded) k k 0)).pi F.PLANSLOT_set_id k 0
      h.complete c St.ok))

/-- RECOMPOSE schedules a switch (R172) and goes to every other active device (R276, log 152). Whether every other active device holds the
set is outside this module: a free value (log 2). -/
def execRecompose (t : Nt) (w : BitVec 8) (l : CmdLine) : State → Host.Outcome State Fault Refusal :=
  onHub t (fun h => h.line w 0x18 l (fun c h =>
    let k := l.opd 32 1
    let (v, h) := h.fresh
    if bitsOf (h.g F.POOLPLAN_loaded) k k = 0 || !v.getLsbD 0 then h.complete c St.planAbsent
    else if h.rcmp.isSome then h.complete c St.badState
    else
      let r : Recomp := { slot := BitVec.ofNat 3 k, demote := l.opd 33 1 == 1, eff := BitVec.ofNat 64 (l.opd 40 8), sub := some c }
      (h.actives.filter (fun d => d.toNat != h.dev)).foldl (fun h d => h.emit (.recompose d r.slot r.demote r.eff)) { h with rcmp := some r }))

/-- UNKNOWN_OPCODE_LINE: ST_BAD_COMMAND with detail 0 (R273); a line whose opcode is defined is no such line. -/
def execUnknownOpcodeLine (t : Nt) (w : BitVec 8) (op : BitVec 8) (l : CmdLine) :
    State → Host.Outcome State Fault Refusal :=
  onHub t (fun h => if knownOp op then h else h.line w op l (fun _ h => h))

end Sys2Proof.Machine
end

