-- ==== Sys2Proof/Machine/Words.lean ====
section
/-! DEFINITION. Which session instruction words a program image may hold (R248, R250, R258). -/

namespace Sys2Proof.Machine

/-- How a register field is used: not named by the row, written or read as a register, or read with code 15 as the immediate. -/
inductive RegUse where
  | rsv | dst | src | srcImm
deriving DecidableEq, Repr

/-- A register code that the use accepts (R250). -/
def RegUse.ok (u : RegUse) (c : Nat) : Bool :=
  match u with
  | .rsv => c == 0
  | .dst => decide (c ≤ 8)
  | .src => decide (c ≤ 9)
  | .srcImm => decide (c ≤ 9) || c == 15

/-- The uses of dst and src and the immediate bits an opcode's row names, given the word (R258). DEDUCED (log 151): a field that the row
names and a mode leaves unused is no reserved field. The branches read dst, and CMP reads it without writing it (R250). -/
def wordShape (op w : Nat) : Option (RegUse × RegUse × Nat) :=
  let f (hi lo : Nat) : Nat := bitsOf w hi lo
  let span (hi lo : Nat) : Nat := 2 ^ (hi + 1) - 2 ^ lo
  let alu : RegUse × RegUse × Nat := (.dst, .srcImm, if f 51 48 = 15 then span 47 0 else 0)
  match op with
  | 0x00 => some (.rsv, .rsv, 0)
  | 0x01 => some (.rsv, .rsv, span 23 0)
  | 0x02 => some (.rsv, .rsv, span 27 0)
  | 0x03 => some (.src, .src, span 27 0)
  | 0x04 => some (.src, .rsv, span 27 0 + span 47 32)
  | 0x05 => some (.rsv, .rsv, span 31 0)
  | 0x06 => some (.dst, .rsv, span 39 0)
  | 0x10 => some (.dst, .src, span 47 0)
  | 0x20 => some (.rsv, .rsv, 0)
  | 0x21 => some (.dst, .rsv, 0)
  | 0x22 => some (.dst, .src, 1)
  | 0x23 => some (.dst, .src, span 31 0)
  | 0x24 => some (.rsv, .src, 1)
  | 0x25 => some (.dst, .rsv, span 47 40)
  | 0x26 => some (.rsv, .srcImm, span 47 40 + (if f 51 48 = 15 then span 39 0 else 0))
  | 0x30 => some (.dst, .src, span 47 46 + span 31 0)
  | 0x31 => some (.dst, .src, span 47 46 + span 41 32 + span 31 16)
  | 0x32 => some (.dst, .src, span 17 0)
  | 0x33 => some (.rsv, .rsv, 0)
  | 0x34 => some (.dst, .rsv, span 47 16)
  | 0x35 => some (.rsv, .rsv, span 47 46 + span 15 0)
  | 0x40 => some (.dst, .src, span 15 0)
  | 0x41 => some (.dst, .src, span 15 0)
  | 0x42 => some (.dst, .src, span 15 0)
  | 0x50 => some (.dst, .src, 0)
  | 0x51 => some (.dst, .rsv, span 47 0)
  | 0x52 => some (.dst, .rsv, span 15 0)
  | 0x53 => some alu
  | 0x54 => some alu
  | 0x55 => some alu
  | 0x56 => some alu
  | 0x57 => some alu
  | 0x58 => some alu
  | 0x59 => some alu
  | 0x5A => some alu
  | 0x5B => some (.src, alu.2.1, alu.2.2)
  | 0x60 => some (.dst, .rsv, 0)
  | 0x70 => some (.rsv, .rsv, span 23 0)
  | _ => none

/-- The ranges that the opcode table states for an immediate, with branch targets below the image's count (R248). -/
def wordRange (op w count slot : Nat) : Bool :=
  let f (hi lo : Nat) : Nat := bitsOf w hi lo
  let target : Bool := decide (f 23 0 < count)
  match op with
  | 0x01 => target
  | 0x02 => target && decide (f 27 24 ≤ 5)
  | 0x03 => target && decide (f 27 24 ≤ 5)
  | 0x04 => target && decide (f 27 24 ≤ 5)
  | 0x05 => target
  | 0x06 => target && decide (1 ≤ f 39 24)
  | 0x10 => f 7 4 == 0 && !(f 15 0 == 0 && (if f 47 46 = 3 then f 51 48 == 8 else f 45 16 == 0))
  | 0x23 => f 31 24 != slot || target
  | 0x30 => if f 47 46 = 0 then decide (1 ≤ f 8 0 ∧ f 8 0 ≤ 256) else f 47 46 == 1
  | 0x32 => decide (1 ≤ f 15 0)
  | 0x34 => decide (f 47 46 ≤ 2)
  | 0x35 => decide (f 47 46 ≤ 1)
  | 0x70 => decide (f 7 0 ≤ 8)
  | _ => true

/-- A word that R248 accepts in an image of `count` words for slot `slot`. -/
def wordOk (count slot : Nat) (w : BitVec 64) : Bool :=
  let n := w.toNat
  match wordShape (bitsOf n 63 56) n with
  | none => false
  | some s => s.1.ok (bitsOf n 55 52) && s.2.1.ok (bitsOf n 51 48) && (bitsOf n 47 0 - (bitsOf n 47 0 &&& s.2.2)) == 0
      && wordRange (bitsOf n 63 56) n count slot

end Sys2Proof.Machine
end

