-- ==== Sys2Proof/Machine/Program.lean ====
section
/-! DEFINITION. Session instructions (10_ebnex_isa.md): what each does to the executing session (R258), but for the Quern
instructions. -/

namespace Sys2Proof.Machine

/-- Bits [hi:lo] of an instruction word. -/
def iw (w : W64) (hi lo : Nat) : Nat := bitsOf w.toNat hi lo

/-- The immediate of ALU operations: sign-extended from bit 47; of SETF: bits [39:0] (R250). -/
def iImm (w : W64) : W64 := (w.setWidth 48).signExtend 64

namespace Hub

/-- A context may execute: record live, not FAULTED or MIGRATING, not blocked, sessions released, no group fault. -/
def runs (h : Hub) (i : Handle) : Bool :=
  let x := h.s i
  x.r.state != S.free && x.r.state != S.faulted && x.r.state != S.migrating && x.blk.isNone && !x.dropHeld
    && h.released && !h.faulted

/-- The instruction words of the session's program slot. -/
def prog (h : Hub) (i : Handle) : List W64 := smGet [] h.im.progs (h.s i).r.prog.toNat

/-- A word that the session's program may hold (R248). -/
def accepts (h : Hub) (i : Handle) (w : W64) : Bool := wordOk (h.prog i).length (h.s i).r.prog.toNat w

/-- The destination code of a word. -/
def dstOf (w : W64) : BitVec 4 := BitVec.ofNat 4 (iw w 55 52)

/-- The value of the src field. -/
def srcVal (h : Hub) (i : Handle) (w : W64) (imm : W64) : W64 := (h.s i).r.rReg (iw w 51 48) imm

/-- The value of the dst field read as a source. -/
def dstVal (h : Hub) (i : Handle) (w : W64) : W64 := (h.s i).r.rReg (iw w 55 52) 0

/-- PC advances by one. -/
def pcNext (h : Hub) (i : Handle) : Hub := h.modR i (fun r => { r with pc := r.pc + 1 })

/-- PC takes a target. -/
def pcTo (h : Hub) (i : Handle) (n : Nat) : Hub := h.modR i (fun r => { r with pc := BitVec.ofNat 24 n })

/-- A status-writing instruction that does not block completes. -/
def stat (h : Hub) (i : Handle) (st : BitVec 8) (detail : Nat) : Hub :=
  h.modR i (fun r => { r.wStat st detail with pc := r.pc + 1 })

/-- A blocking instruction that completes at once: its destination and status (R251, R258). -/
def statDst (h : Hub) (i : Handle) (w : W64) (v : Nat) (st : BitVec 8) : Hub :=
  h.modR i (fun r => { (r.wReg (dstOf w) (BitVec.ofNat 64 v)).wStat st 0 with pc := r.pc + 1 })

/-- Write a destination and advance. -/
def put (h : Hub) (i : Handle) (w : W64) (v : W64) : Hub :=
  h.modR i (fun r => { r.wReg (dstOf w) v with pc := r.pc + 1 })

/-- The context blocks: it leaves its activation with PC at the instruction (R251). -/
def block (h : Hub) (i : Handle) (b : Blk) : Hub := (h.modS i (fun x => { x with blk := some b })).unready i

/-! ### Branches, flags and arithmetic (R249, R250) -/

/-- Condition codes of BCC on Z, N, C, V. -/
def cond (c : Nat) (z n cy v : Bool) : Bool :=
  match c with
  | 0 => z
  | 1 => !z
  | 2 => n != v
  | 3 => n == v
  | 4 => cy
  | _ => !cy

/-- Flags of x − y: zero, sign, unsigned borrow, signed overflow. -/
def subFlags (x y : W64) : Bool × Bool × Bool × Bool :=
  let d := x - y
  (d == 0, d.msb, decide (x.toNat < y.toNat), (x.msb != y.msb) && (d.msb != x.msb))

/-- FLAGS with Z, N, C, V replaced. -/
def withFlags (f : BitVec 32) (q : Bool × Bool × Bool × Bool) : BitVec 32 :=
  BitVec.ofNat 32 (setBits f.toNat 3 0 (b2n q.1 + b2n q.2.1 * 2 + b2n q.2.2.1 * 4 + b2n q.2.2.2 * 8))

/-- Branch where `c` holds. -/
def branchIf (h : Hub) (i : Handle) (w : W64) (c : Bool) : Hub := if c then h.pcTo i (iw w 23 0) else h.pcNext i

/-- Result and flags of an ALU operation (R249, R250). -/
def alu (op : Nat) (x y : W64) : W64 × (Bool × Bool × Bool × Bool) :=
  let logic (r : W64) : W64 × (Bool × Bool × Bool × Bool) := (r, (r == 0, r.msb, false, false))
  let n := y.toNat % 64
  match op with
  | 0x53 =>
    let r := x + y
    (r, (r == 0, r.msb, decide (2 ^ 64 ≤ x.toNat + y.toNat), (x.msb == y.msb) && (r.msb != x.msb)))
  | 0x54 => (x - y, subFlags x y)
  | 0x55 => logic (x &&& y)
  | 0x56 => logic (x ||| y)
  | 0x57 => logic (x ^^^ y)
  | 0x58 => logic (x <<< n)
  | 0x59 => logic (x >>> n)
  | 0x5A => logic (x.sshiftRight n)
  | _ => (x - y, subFlags x y)

/-- ADD to CMP: CMP writes flags only. -/
def iAlu (h : Hub) (i : Handle) (w : W64) : Hub :=
  let op := iw w 63 56
  let q := alu op (h.dstVal i w) (h.srcVal i w (iImm w))
  let h := h.modR i (fun r => { r with flags := withFlags r.flags q.2 })
  if op = 0x5B then h.pcNext i else h.put i w q.1

/-- BCC (R258). -/
def iBcc (h : Hub) (i : Handle) (w : W64) : Hub :=
  let f := (h.s i).r.flags
  h.branchIf i w (cond (iw w 27 24) (f.getLsbD 0) (f.getLsbD 1) (f.getLsbD 2) (f.getLsbD 3))

/-- CBR and CBI: compare and branch, FLAGS unchanged. -/
def iCmpBr (h : Hub) (i : Handle) (w y : W64) : Hub :=
  let q := subFlags (h.dstVal i w) y
  h.branchIf i w (cond (iw w 27 24) q.1 q.2.1 q.2.2.1 q.2.2.2)

/-- A program fault (R255): FAULTED with the faulting PC. -/
def progFault (h : Hub) (i : Handle) : Hub := (h.faultSess i St.programFault (h.s i).r.pc.toNat).settled i

/-- LOOP (R255, R258). -/
def iLoop (h : Hub) (i : Handle) (w : W64) : Hub :=
  let v := h.dstVal i w
  if v = 0 ∨ iw w 39 24 < v.toNat then h.progFault i
  else (h.modR i (fun r => r.wReg (dstOf w) (v - 1))).branchIf i w (v - 1 != 0)

/-- Nanoseconds of a count in unit 0 µs, 1 ms, 2 s. -/
def unitNs (u n : Nat) : Nat := n * (if u = 0 then 1000 else if u = 1 then 1000000 else 1000000000)

/-- An instruction held under R41 or R155: it executes again when the context next runs. -/
def hold (h : Hub) (i : Handle) (w : W64) : Hub := h.block i (.redo w)

/-- WAIT (R37, R164, R258, R519). -/
def iWait (h : Hub) (i : Handle) (w : W64) : Hub :=
  let mask := BitVec.ofNat 16 (iw w 15 0)
  let hit := (h.s i).r.pending &&& mask
  if (h.s i).demote then h.hold i w
  else if hit ≠ 0 then
    let b := lowBit hit
    let h := h.modR i (fun r => { r with pending := r.pending &&& ~~~(BitVec.ofNat 16 (2 ^ b)) })
    h.modR i (fun r => { (r.wReg (dstOf w) (BitVec.ofNat 64 b)).wStat St.ok b with pc := r.pc + 1 })
  else
    let e := if iw w 47 46 = 3 then h.srcVal i w 0
      else if iw w 45 16 = 0 then 0 else BitVec.ofNat 64 (h.nt.toNat + unitNs (iw w 47 46) (iw w 45 16))
    let h := h.modS i (fun x => { x with waitHit := false, park := x.park.map (fun k => { k with waited := true })
                                         r := { x.r with waitMask := mask, waitExp := e } })
    let h := if (h.s i).r.state == S.ready then h.trans i S.waiting St.ok 0x0030 mask.toNat else h.record i 0x0030 mask.toNat
    h.block i (.wait (dstOf w))

/-- PARK (R153, R155): held, whatever the state, while an intake is in progress (R124, R518). -/
def iPark (h : Hub) (i : Handle) (w : W64) : Hub :=
  let x := h.s i
  if 0 < x.intakes then h.hold i w
  else if x.r.state == S.parked && x.r.omm then h.stat i St.ownerConflict 0
  else if x.r.state == S.parking || x.r.state == S.parked then h.stat i St.ok 0
  else if x.r.state == S.reviving || x.demote then h.hold i w
  else if x.r.state == S.ready || x.r.state == S.waiting then
    if x.r.omm then h.stat i St.ownerConflict 0 else (h.startPark i false none).stat i St.ok 0
  else h.stat i St.badState 0

/-- REVIVE (R155, R167, R258). -/
def iRevive (h : Hub) (i : Handle) (w : W64) : Hub :=
  let x := h.s i
  if x.r.state == S.parking || x.demote then h.hold i w
  else if x.r.state == S.parked then
    let q := h.startRevive i 0 none
    match q.1 with
    | none => q.2.block i (.revive (dstOf w))
    | some st => q.2.stat i st 0
  else h.stat i St.ok 0

/-- MIGRATE (R176, R258). -/
def iMigrate (h : Hub) (i : Handle) (w : W64) : Hub :=
  let x := h.s i
  let d : BitVec 6 := BitVec.ofNat 6 (h.srcVal i w 0).toNat
  if h.holds i || 0 < x.intakes || h.rotating i then h.hold i w
  else if !(x.r.state == S.ready || x.r.state == S.waiting || x.r.state == S.parked) then h.stat i St.badState 0
  else if x.r.omm then h.stat i St.ownerConflict 0
  else if d.toNat = h.dev || !h.isActive d then h.stat i St.badState 0
  else (h.block i (.migrate (dstOf w))).startMig i d (iw w 0 0 == 1) none false

/-- A further binding of a prefix node and its ancestors (R77, R80). -/
def addNodeRefs (h : Hub) (nd : Nat) : Nat → Hub
  | 0 => h
  | fuel + 1 =>
    match smLook h.kv.nodes nd with
    | none => h
    | some n => addNodeRefs (h.setNodes (smPut h.kv.nodes nd { n with refs := n.refs + 1 })) n.parent.toNat fuel

/-- The child of a FORK (R48, R77). The parent's FORK_PARENT entry carries the status with which its FORK ends (R50, R253). -/
def makeChild (h : Hub) (i c : Handle) (w : W64) (sk : BitVec 128) (seed : W64) : W64 × Hub :=
  let x := h.s i
  let (g, h) := h.bumpGen c
  let nsi := nsiOf h.dev c g x.r.tenant
  let t := h.nt
  let r : Rec := { x.r with
    sk := sk, nsi := nsi, state := S.free, prior := 0, lastStatus := St.ok, child := true, dlate := false, omm := false
    ttlArmed := false, pending := 0, waitMask := 0, turn := 0, steps := 0, stattok := 0, jseq := 0, parks := 0, revives := 0
    replays := 0, recomputes := 0, expiry := 0, waitExp := 0, pc := BitVec.ofNat 24 (iw w 23 0)
    prog := BitVec.ofNat 8 (iw w 31 24), seed := seed, parH := i, parGen := nsiGen x.r.nsi, parDev := BitVec.ofNat 6 h.dev
    forkIndex := BitVec.ofNat 24 x.r.committed.toNat, touch := t, admitNt := t }
  let ob : GObj := { parent := some (objKey 2 x.r.nsi.toNat, x.r.committed.toNat), base := x.r.committed.toNat / logEntries }
  let h := h.modG (fun g => { g with objs := smPut g.objs (objKey 2 nsi.toNat) ob })
  let hasRoot := (h.rootOf x.r).isSome
  let r := (r.setOwner x.r.ownDev 0).setRoot (if hasRoot then h.rootIndex c else 0)
  let h := h.setS c { r := r, share := x.share, born := t, stack := x.stack, held := x.held, relOff := x.relOff
                      durable := BitVec.ofNat 32 (x.r.committed.toNat - x.logbuf.length)
                      log := x.log.take x.r.committed.toNat, logBad := x.logBad }
  let h := if hasRoot then
      let nd := match h.rootOf x.r with
        | none => 0
        | some rt => rt.pfxNode.toNat
      (h.copyRoots (h.rootIx x.r) (h.rootIndex c)).addNodeRefs nd h.kv.nodes.length
    else h
  let h := (h.modR i (fun r => { r with lastStatus := St.ok })).record i 0x0003 nsi.toNat
  let h := (h.trans c S.ready St.ok 0x0002 x.r.nsi.toNat).modR c (fun r => { r with prior := 0 })
  (nsi, (h.ready c).touch i)

/-- FORK (R27, R48, R77, R155, R248, R255, R258). -/
def iFork (h : Hub) (i : Handle) (w : W64) : Hub :=
  let x := h.s i
  let k := iw w 51 48
  if 5 < k then h.progFault i
  else if x.r.state == S.parked then
    let q := h.startRevive i 0 none
    match q.1 with
    | none => q.2.hold i w
    | some st => q.2.stat i st 0
  else if h.holds i then h.hold i w
  else
    let lo := x.r.rReg k 0
    let hi := x.r.rReg (k + 1) 0
    let sk : BitVec 128 := hi ++ lo
    if sk = 0 || (smGet [] h.im.progs (iw w 31 24)).length ≤ iw w 23 0 then h.stat i St.badOperand 0
    else
      let (un, _, h) := h.lookup sk
      if un then h.hold i w
      else if (h.findSk sk).isSome then h.stat i St.skExists 0
      else
        match h.freeHandle with
        | none => h.stat i St.noHandle 0
        | some c =>
          let (nsi, h) := h.makeChild i c w sk (x.r.rReg (k + 2) 0)
          h.modR i (fun r => { (r.wReg (dstOf w) nsi).wStat St.ok 0 with pc := r.pc + 1 })

/-- DROP (R37, R41, R258). -/
def iDrop (h : Hub) (i : Handle) (w : W64) : Hub :=
  if iw w 0 0 = 0 then
    let h := (h.modS i (fun x => { x with dropHeld := true, dropPos := x.actions.length })).unready i
    h.settled i
  else
    match h.findNsi (h.srcVal i w 0) with
    | none => h.stat i St.staleNsi 0
    | some c =>
      let p := (h.s c).r
      if !(p.child && p.parH == i && p.parGen == nsiGen (h.s i).r.nsi && p.parDev.toNat == h.dev)
        || p.state == S.migrating then h.stat i St.badState 0
      else ((h.stat i St.ok 0).modS c (fun x => { x with dropHeld := true, dropPos := x.actions.length })).settled c

/-- GETF (R257). -/
def iGetf (h : Hub) (i : Handle) (w : W64) : Hub :=
  match getField (h.s i) (iw w 47 40) with
  | none => h.stat i St.badOperand 0
  | some v => h.modR i (fun r => { (r.wReg (dstOf w) (BitVec.ofNat 64 v)).wStat St.ok 0 with pc := r.pc + 1 })

/-- SETF (R121, R164, R257). -/
def iSetf (h : Hub) (i : Handle) (w : W64) : Hub :=
  if (h.s i).demote && iw w 47 40 != 2 then h.hold i w
  else match setField (h.s i).r (iw w 47 40) (h.srcVal i w (BitVec.ofNat 64 (iw w 39 0))) with
  | none => h.stat i St.badOperand 0
  | some r => (h.modR i (fun _ => r)).stat i St.ok 0

/-- INTAKE (R94, R100, R155, R424). DESIGN CHOICE (log 136): among intakes of one NT it ranks after those of every command window. -/
def iIntake (h : Hub) (i : Handle) (w : W64) : Hub :=
  let x := h.s i
  if h.holds i then h.hold i w
  else if h.profS then h.statDst i w 0 St.sealedRequired
  else
    let one := iw w 47 46 == 1
    let t := h.nt
    let q : IntakeReq := { h := i, nt := t, w := 256, sub := none, addr := if one then 0 else h.srcVal i w 0
                           count := if one then 0 else iw w 8 0, tok := if one then some (BitVec.ofNat 32 (iw w 31 0)) else none }
    if x.r.state == S.free then h else (h.block i (.intake (dstOf w))).queueIntake q

/-- The session's partition has a slice in the active plan (R215). -/
def partHere (h : Hub) (p : BitVec 4) : Bool := h.gi F.PARTCTL_present p.toNat == 1

/-- PREFILL and STEP are refused in Profile S without an open context (R424). -/
def needsSeal (h : Hub) (r : Rec) : Bool := h.profS && (smLook h.sec.ctx r.tenant.toNat).isNone

/-- In PARKED, PARKING and REVIVING an instruction that needs the cache starts a revive or is held (R155); a revive refused ends it with `v`
in its destination; none where the cache is resident. -/
def needCache (h : Hub) (i : Handle) (w : W64) (v : Nat) : Option Hub :=
  let x := h.s i
  if x.r.state == S.parked then
    let q := h.startRevive i 0 none
    match q.1 with
    | none => some (q.2.hold i w)
    | some st => some (q.2.statDst i w v st)
  else if h.holds i then some (h.hold i w)
  else none

/-- PREFILL (R39, R47, R67, R101, R105, R155, R215, R424). One that is refused leaves LENGTH.committed in its destination (R258). -/
def iPrefill (h : Hub) (i : Handle) (w : W64) : Hub :=
  let x := h.s i
  let n := x.r.committed.toNat
  let ends (st : BitVec 8) : Hub := h.statDst i w n st
  if x.r.state == S.halted then ends x.r.hstatus
  else if x.r.omm then ends St.ownerConflict
  else if h.needsSeal x.r then ends St.sealedRequired
  else if !h.partHere x.r.part then ends St.badState
  else
    match h.needCache i w n with
    | some h => h
    | none =>
      if !(x.r.state == S.admitted || x.r.state == S.ready) || (x.r.state == S.admitted && x.pendIn == 0) then ends St.badState
      else if h.ctxLimit < n + x.pendIn.toNat - 1 then ends St.maxTokens
      else
        let v := (h.srcVal i w 0).toNat
        let m := iw w 47 46
        let q : PfReq :=
          if m = 3 then
            if bitsOf v 26 26 = 0 then { amode := 0, slot := 0, ver := 0 }
            else { amode := if bitsOf v 25 10 = 0 then 1 else 2, slot := BitVec.ofNat 10 v, ver := BitVec.ofNat 16 (bitsOf v 25 10) }
          else { amode := BitVec.ofNat 2 m, slot := BitVec.ofNat 10 (iw w 41 32), ver := BitVec.ofNat 16 (iw w 31 16) }
        let t := h.nt
        (h.modS i (fun x => { x with pfReq := some { q with nt := t } })).block i (.prefill (dstOf w))

/-- The handoff target (R171). -/
def handoffTo (h : Hub) : BitVec 6 :=
  if h.on F.POOLHOFF_override then BitVec.ofNat 6 (h.g F.POOLHOFF_target)
  else
    match (smGet [] h.im.plans (h.g F.POOLPLAN_active)).find? (fun p => p.role == 1) with
    | none => 0
    | some p => BitVec.ofNat 6 (p.base.toNat + h.position % max 1 p.n.toNat)

/-- Issue the read of a host draft buffer; none is issued for an unaligned address (R123). -/
def readDraft (h : Hub) (i : Handle) : Hub :=
  match (h.s i).stepReq with
  | none => h
  | some q =>
    if q.draft.toNat < 2 then h
    else
      let h := h.modS i (fun x => { x with stepReq := some { q with buf := none } })
      if q.addr.toNat % 64 ≠ 0 then h else h.hostRead q.addr 64 (.draft i)

/-- A STEP ends without ever being admitted: STEP_END with equal states and data 0 (R37). -/
def stepNever (h : Hub) (i : Handle) (w : W64) (st : BitVec 8) : Hub :=
  let h := (h.modR i (fun r => { r with lastStatus := st })).record i 0x0021 0
  h.modR i (fun r => { (r.wReg (dstOf w) 0).wStat st 0 with pc := r.pc + 1 })

/-- STEP (R39, R44, R47, R67, R108, R123, R155, R171, R215, R424). At the context limit it ends with ST_MAX_TOKENS and no token (log 115). -/
def iStep (h : Hub) (i : Handle) (w : W64) : Hub :=
  let x := h.s i
  let ends (st : BitVec 8) : Hub := h.statDst i w 0 st
  if x.r.state == S.halted then ends x.r.hstatus
  else if x.r.omm then h.stepNever i w St.ownerConflict
  else if x.r.dlate || (x.r.deadline != 0 && decide (x.r.deadline ≤ h.nt)) then h.stepNever i w St.deadlineLate
  else if h.needsSeal x.r then ends St.sealedRequired
  else if !h.partHere x.r.part then ends St.badState
  else
    match h.needCache i w 0 with
    | some h => h
    | none =>
      if x.r.state != S.ready then ends St.badState
      else if h.ctxLimit ≤ x.r.committed.toNat then h.stepNever i w St.maxTokens
      else if h.inPrefill then
        if h.on F.POOLCTL_handoff_en then
          if 0 < x.intakes || h.rotating i then h.hold i w
          else (h.block i (.step (dstOf w))).startMig i h.handoffTo false none true
        else ends St.badState
      else
        let q : StepReq := { n := BitVec.ofNat 16 (iw w 15 0), draft := BitVec.ofNat 2 (iw w 17 16), addr := h.srcVal i w 0 }
        ((h.modS i (fun x => { x with stepReq := some q })).block i (.step (dstOf w))).readDraft i

/-- EMIT (R39, R133, R164). -/
def iEmit (h : Hub) (i : Handle) (w : W64) : Hub :=
  if (h.s i).demote then h.hold i w
  else if (h.s i).r.state == S.halted then h.stat i (h.s i).r.hstatus 0 else (h.flushHeld i).stat i St.ok 0

/-- A stream record of the session is not yet visible in host memory. -/
def unseen (h : Hub) (i : Handle) : Bool :=
  h.writes.any (fun e => e.2.sess == some i) || h.sring.any (fun e => e.2.backlog.any (fun r => r.h == some i))

/-- HOLD (R258, R259). -/
def iHold (h : Hub) (i : Handle) (w : W64) : Hub :=
  if !h.unseen i then h.modR i (fun r => { (r.wReg (dstOf w) 0).wStat St.ok 0 with pc := r.pc + 1 })
  else
    let n := iw w 45 16
    h.block i (.hold (dstOf w) (if n = 0 then 0 else BitVec.ofNat 64 (h.nt.toNat + unitNs (iw w 47 46) n)))

/-- A HOLD completes once nothing of its session is outstanding. -/
def endHold (h : Hub) (i : Handle) : Hub :=
  match (h.s i).blk with
  | some (.hold d _) => if h.unseen i then h else h.endInstr i (some (d, 0)) St.ok 0
  | _ => h

/-- BIND (R118, R128, R164). -/
def iBind (h : Hub) (i : Handle) (w : W64) : Hub :=
  if (h.s i).demote then h.hold i w
  else match (if iw w 47 46 = 0 then h.bindGrammar i (iw w 15 0) else h.bindStop i (iw w 15 0)) with
  | none => h.stat i St.badOperand 0
  | some h => h.stat i St.ok 0

/-- POST (R258, R283 to R285): blocks while the partition's completion ring is in overflow. -/
def iPost (h : Hub) (i : Handle) (w : W64) : Hub :=
  let r := (h.s i).r
  let p := r.part.toNat
  if h.gi F.CMPSTAT_overflow p = 1 || (h.s i).demote then h.hold i w
  else
    let n := iw w 7 0
    let regs := ((r.a.take n).map (fun v => le 8 v.toNat)).flatten
    let h := h.pushRec false p ⟨h.cRec 2 2 St.ok 0 n (iw w 23 8) r.nsi 0 regs, some i, false, none⟩
    h.stat i St.ok 0

end Hub

/-- A session instruction: an unacceptable word is undefined (R248); a context that may not execute is left alone, and so is one at the NT
of a boundary that is not made yet: its instruction executes after that boundary (R521). -/
def instr (t : Nt) (i : Handle) (w : W64) (op : Nat) (f : Hub → Hub) (s : State) : Host.Outcome State Fault Refusal :=
  if iw w 63 56 ≠ op || !s.hub.accepts i w then .fault .undefinedEncoding
  else onHub t (fun h => if h.runs i && !h.boundDue then f h else h) s

/-- NOP. -/
def execNop (t : Nt) (i : Handle) (w : W64) : State → Host.Outcome State Fault Refusal :=
  instr t i w 0x00 (fun h => h.pcNext i)
/-- BR. -/
def execBr (t : Nt) (i : Handle) (w : W64) : State → Host.Outcome State Fault Refusal :=
  instr t i w 0x01 (fun h => h.pcTo i (iw w 23 0))
/-- BCC. -/
def execBcc (t : Nt) (i : Handle) (w : W64) : State → Host.Outcome State Fault Refusal :=
  instr t i w 0x02 (fun h => h.iBcc i w)
/-- CBR. -/
def execCbr (t : Nt) (i : Handle) (w : W64) : State → Host.Outcome State Fault Refusal :=
  instr t i w 0x03 (fun h => h.iCmpBr i w (h.srcVal i w 0))
/-- The 16-bit immediate of CBI, sign-extended. -/
def cbiImm (w : W64) : W64 := (BitVec.ofNat 16 (iw w 47 32)).signExtend 64
/-- CBI. -/
def execCbi (t : Nt) (i : Handle) (w : W64) : State → Host.Outcome State Fault Refusal :=
  instr t i w 0x04 (fun h => h.iCmpBr i w (cbiImm w))
/-- BST. -/
def execBst (t : Nt) (i : Handle) (w : W64) : State → Host.Outcome State Fault Refusal :=
  instr t i w 0x05 (fun h => h.branchIf i w (bitsOf (h.s i).r.flags.toNat 15 8 == iw w 31 24))
/-- LOOP. -/
def execLoopI (t : Nt) (i : Handle) (w : W64) : State → Host.Outcome State Fault Refusal :=
  instr t i w 0x06 (fun h => h.iLoop i w)
/-- WAIT. -/
def execWait (t : Nt) (i : Handle) (w : W64) : State → Host.Outcome State Fault Refusal :=
  instr t i w 0x10 (fun h => h.iWait i w)
/-- PARK. -/
def execParkInstruction (t : Nt) (i : Handle) (w : W64) : State → Host.Outcome State Fault Refusal :=
  instr t i w 0x20 (fun h => h.iPark i w)
/-- REVIVE. -/
def execReviveInstruction (t : Nt) (i : Handle) (w : W64) : State → Host.Outcome State Fault Refusal :=
  instr t i w 0x21 (fun h => h.iRevive i w)
/-- MIGRATE. -/
def execMigrateInstruction (t : Nt) (i : Handle) (w : W64) : State → Host.Outcome State Fault Refusal :=
  instr t i w 0x22 (fun h => h.iMigrate i w)
/-- FORK. -/
def execFork (t : Nt) (i : Handle) (w : W64) : State → Host.Outcome State Fault Refusal :=
  instr t i w 0x23 (fun h => h.iFork i w)
/-- DROP. -/
def execDropInstruction (t : Nt) (i : Handle) (w : W64) : State → Host.Outcome State Fault Refusal :=
  instr t i w 0x24 (fun h => h.iDrop i w)
/-- GETF. -/
def execGetf (t : Nt) (i : Handle) (w : W64) : State → Host.Outcome State Fault Refusal :=
  instr t i w 0x25 (fun h => h.iGetf i w)
/-- SETF. -/
def execSetf (t : Nt) (i : Handle) (w : W64) : State → Host.Outcome State Fault Refusal :=
  instr t i w 0x26 (fun h => h.iSetf i w)
/-- INTAKE. -/
def execIntakeInstruction (t : Nt) (i : Handle) (w : W64) : State → Host.Outcome State Fault Refusal :=
  instr t i w 0x30 (fun h => h.iIntake i w)
/-- PREFILL. -/
def execPrefill (t : Nt) (i : Handle) (w : W64) : State → Host.Outcome State Fault Refusal :=
  instr t i w 0x31 (fun h => h.iPrefill i w)
/-- STEP. -/
def execStep (t : Nt) (i : Handle) (w : W64) : State → Host.Outcome State Fault Refusal :=
  instr t i w 0x32 (fun h => h.iStep i w)
/-- EMIT. -/
def execEmit (t : Nt) (i : Handle) (w : W64) : State → Host.Outcome State Fault Refusal :=
  instr t i w 0x33 (fun h => h.iEmit i w)
/-- HOLD. -/
def execHold (t : Nt) (i : Handle) (w : W64) : State → Host.Outcome State Fault Refusal :=
  instr t i w 0x34 (fun h => h.iHold i w)
/-- BIND. -/
def execBindInstruction (t : Nt) (i : Handle) (w : W64) : State → Host.Outcome State Fault Refusal :=
  instr t i w 0x35 (fun h => h.iBind i w)
/-- MOV. -/
def execMov (t : Nt) (i : Handle) (w : W64) : State → Host.Outcome State Fault Refusal :=
  instr t i w 0x50 (fun h => h.put i w (h.srcVal i w 0))
/-- LDI. -/
def execLdi (t : Nt) (i : Handle) (w : W64) : State → Host.Outcome State Fault Refusal :=
  instr t i w 0x51 (fun h => h.put i w (BitVec.ofNat 64 (iw w 47 0)))
/-- The value LUI writes: bits [63:48] replaced. -/
def luiVal (old w : W64) : W64 := BitVec.ofNat 64 (setBits old.toNat 63 48 (iw w 15 0))
/-- LUI. -/
def execLui (t : Nt) (i : Handle) (w : W64) : State → Host.Outcome State Fault Refusal :=
  instr t i w 0x52 (fun h => h.put i w (luiVal (h.dstVal i w) w))
/-- ADD. -/
def execAdd (t : Nt) (i : Handle) (w : W64) : State → Host.Outcome State Fault Refusal :=
  instr t i w 0x53 (fun h => h.iAlu i w)
/-- SUB. -/
def execSub (t : Nt) (i : Handle) (w : W64) : State → Host.Outcome State Fault Refusal :=
  instr t i w 0x54 (fun h => h.iAlu i w)
/-- AND. -/
def execAndI (t : Nt) (i : Handle) (w : W64) : State → Host.Outcome State Fault Refusal :=
  instr t i w 0x55 (fun h => h.iAlu i w)
/-- OR. -/
def execOrI (t : Nt) (i : Handle) (w : W64) : State → Host.Outcome State Fault Refusal :=
  instr t i w 0x56 (fun h => h.iAlu i w)
/-- XOR. -/
def execXorI (t : Nt) (i : Handle) (w : W64) : State → Host.Outcome State Fault Refusal :=
  instr t i w 0x57 (fun h => h.iAlu i w)
/-- SHL. -/
def execShl (t : Nt) (i : Handle) (w : W64) : State → Host.Outcome State Fault Refusal :=
  instr t i w 0x58 (fun h => h.iAlu i w)
/-- SHR. -/
def execShr (t : Nt) (i : Handle) (w : W64) : State → Host.Outcome State Fault Refusal :=
  instr t i w 0x59 (fun h => h.iAlu i w)
/-- SAR. -/
def execSar (t : Nt) (i : Handle) (w : W64) : State → Host.Outcome State Fault Refusal :=
  instr t i w 0x5A (fun h => h.iAlu i w)
/-- CMP. -/
def execCmp (t : Nt) (i : Handle) (w : W64) : State → Host.Outcome State Fault Refusal :=
  instr t i w 0x5B (fun h => h.iAlu i w)
/-- NTREAD. -/
def execNtread (t : Nt) (i : Handle) (w : W64) : State → Host.Outcome State Fault Refusal :=
  instr t i w 0x60 (fun h => h.put i w h.nt)
/-- POST. -/
def execPost (t : Nt) (i : Handle) (w : W64) : State → Host.Outcome State Fault Refusal :=
  instr t i w 0x70 (fun h => h.iPost i w)

end Sys2Proof.Machine
end

