-- ==== Sys2Proof/Machine/Num.lean ====
section
/-! DEFINITION. Number formats (R190), rounding to nearest with ties to even (R192, R196), and the arithmetic of the
vector unit (R198, R199): exact values are dyadic or rational numbers, rounded once. -/

namespace Sys2Proof.Machine

/-- The value of a floating-point code: a NaN, an infinity, or ±m × 2^e. -/
inductive FV where
  | nan
  | inf (neg : Bool)
  | fin (neg : Bool) (m : Nat) (e : Int)
deriving DecidableEq, Repr

/-- A floating-point format: exponent bits, mantissa bits, whether the top exponent holds infinities and NaNs, the code
of the largest finite value, the canonical NaN. -/
structure Fmt where
  eb   : Nat
  mb   : Nat
  ieee : Bool
  top  : Nat
  nan  : Nat
deriving DecidableEq, Repr

def Fmt.e2m1 : Fmt := ⟨2, 1, false, 0x7, 0⟩
def Fmt.e2m3 : Fmt := ⟨2, 3, false, 0x1F, 0⟩
def Fmt.e3m2 : Fmt := ⟨3, 2, false, 0x1F, 0⟩
def Fmt.e4m3 : Fmt := ⟨4, 3, false, 0x7E, 0x7F⟩
def Fmt.e5m2 : Fmt := ⟨5, 2, true, 0x7B, 0x7E⟩
def Fmt.bf16 : Fmt := ⟨8, 7, true, 0x7F7F, 0x7FC0⟩
def Fmt.fp16 : Fmt := ⟨5, 10, true, 0x7BFF, 0x7E00⟩
def Fmt.fp32 : Fmt := ⟨8, 23, true, 0x7F7FFFFF, 0x7FC00000⟩

/-- Exponent bias. -/
def Fmt.bias (f : Fmt) : Nat := 2 ^ (f.eb - 1) - 1

/-- The sign bit's weight. -/
def Fmt.sign (f : Fmt) : Nat := 2 ^ (f.eb + f.mb)

/-- The value of a code; every NaN code is accepted as NaN and subnormals keep their value (R190). -/
def Fmt.dec (f : Fmt) (c : Nat) : FV :=
  let neg := (c / f.sign) % 2 == 1
  let e := (c / 2 ^ f.mb) % 2 ^ f.eb
  let m := c % 2 ^ f.mb
  if f.ieee && e == 2 ^ f.eb - 1 then (if m = 0 then .inf neg else .nan)
  else if f == Fmt.e4m3 && c % 128 == 0x7F then .nan
  else if e = 0 then .fin neg m (1 - (f.bias : Int) - f.mb)
  else .fin neg (m + 2 ^ f.mb) ((e : Int) - f.bias - f.mb)

/-- The code of the infinity or the largest finite value of a sign. -/
def Fmt.infCode (f : Fmt) (neg : Bool) : Nat :=
  (if neg then f.sign else 0) + (2 ^ f.eb - 1) * 2 ^ f.mb

/-- m ÷ 2^s rounded to nearest, ties to even. -/
def rneShift (m s : Nat) : Nat :=
  let q := m / 2 ^ s
  let r := m % 2 ^ s
  if s = 0 then m
  else if 2 ^ (s - 1) < r ∨ (r = 2 ^ (s - 1) ∧ q % 2 = 1) then q + 1 else q

/-- ±m × 2^e rounded once to a format; `sat` gives the largest finite value on overflow in place of an infinity. -/
def Fmt.round (f : Fmt) (sat neg : Bool) (m : Nat) (e : Int) : Nat :=
  let sg := if neg then f.sign else 0
  if m = 0 then sg
  else
    let top := (Nat.log2 m : Int) + e
    let minE := 1 - (f.bias : Int)
    let q := max top minE - f.mb
    let mant := if e ≤ q then rneShift m (q - e).toNat else m * 2 ^ (e - q).toNat
    let code := if mant < 2 ^ f.mb then mant
      else ((q + f.mb + f.bias).toNat) * 2 ^ f.mb + (mant - 2 ^ f.mb)
    if f.top < code then (if sat then sg + f.top else f.infCode neg) else sg + code

/-- ±n ÷ d × 2^e rounded once (n, d not 0): a quotient with a sticky last bit is rounded. -/
def Fmt.roundRat (f : Fmt) (sat neg : Bool) (n d : Nat) (e : Int) : Nat :=
  let k := 64 + Nat.log2 d
  let q := n * 2 ^ k / d
  let sticky := if n * 2 ^ k % d = 0 then 0 else 1
  f.round sat neg (2 * q + sticky) (e - k - 1)

/-- A dyadic number m × 2^e. -/
structure Dy where
  m : Int
  e : Int
deriving DecidableEq, Repr

def Dy.zero : Dy := ⟨0, 0⟩

/-- Exact sum. -/
def Dy.add (a b : Dy) : Dy :=
  if a.m = 0 then b
  else if b.m = 0 then a
  else
    let e := min a.e b.e
    ⟨a.m * 2 ^ (a.e - e).toNat + b.m * 2 ^ (b.e - e).toNat, e⟩

/-- Exact product. -/
def Dy.mul (a b : Dy) : Dy := ⟨a.m * b.m, a.e + b.e⟩

/-- a < b -/
def Dy.lt (a b : Dy) : Bool :=
  let e := min a.e b.e
  decide (a.m * 2 ^ (a.e - e).toNat < b.m * 2 ^ (b.e - e).toNat)

/-- A finite value as a dyadic. -/
def mkDy (neg : Bool) (m : Nat) (e : Int) : Dy := ⟨if neg then -(m : Int) else m, e⟩

/-! ### FP32 -/

/-- The canonical FP32 NaN. -/
def nan32 : F32 := 0x7FC00000
def zero32 : F32 := 0
def one32 : F32 := 0x3F800000
def negInf32 : F32 := 0xFF800000
def posInf32 : F32 := 0x7F800000

/-- The value of an FP32 code. -/
def dec32 (x : F32) : FV := Fmt.fp32.dec x.toNat

/-- An FP32 code is a NaN. -/
def isNan (x : F32) : Bool := dec32 x == .nan

/-- A dyadic rounded to FP32; exact zero gives +0 (R196). -/
def rne32 (d : Dy) : F32 := BitVec.ofNat 32 (Fmt.fp32.round false (decide (d.m < 0)) d.m.natAbs d.e)

/-- An FP32 infinity. -/
def inf32 (neg : Bool) : F32 := BitVec.ofNat 32 (Fmt.fp32.infCode neg)

/-- Exact sum of values, rounded once: NaN and infinity rules of R196; an exact zero is +0. -/
def sumOnce (l : List FV) : F32 :=
  if l.any (· == .nan) then nan32
  else
    let p := l.any (· == .inf false)
    let n := l.any (· == .inf true)
    if p && n then nan32
    else if p then inf32 false
    else if n then inf32 true
    else rne32 (l.foldl (fun acc v => match v with
      | .fin s m e => acc.add (mkDy s m e)
      | _ => acc) Dy.zero)

/-- Exact product of two values; infinity × 0 is NaN. -/
def FV.mul (a b : FV) : FV :=
  match a, b with
  | .nan, _ => .nan
  | _, .nan => .nan
  | .inf s, .inf t => .inf (s != t)
  | .inf s, .fin t m _ => if m = 0 then .nan else .inf (s != t)
  | .fin s m _, .inf t => if m = 0 then .nan else .inf (s != t)
  | .fin s m e, .fin t n f => .fin (s != t) (m * n) (e + f)

/-- A value rounded to FP32, keeping the sign of zero. -/
def FV.to32 : FV → F32
  | .nan => nan32
  | .inf s => inf32 s
  | .fin s m e => BitVec.ofNat 32 (Fmt.fp32.round false s m e)

def FV.neg : FV → FV
  | .nan => .nan
  | .inf s => .inf (!s)
  | .fin s m e => .fin (!s) m e

/-- A value is a zero. -/
def FV.isZero : FV → Bool
  | .fin _ 0 _ => true
  | _ => false

/-- A value is negative in sign. -/
def FV.isNeg : FV → Bool
  | .nan => false
  | .inf s => s
  | .fin s _ _ => s

/-- IEEE addition of two values (R198): two zeros of one sign keep it, an exact zero sum is +0. -/
def FV.add (a b : FV) : F32 :=
  if a.isZero && b.isZero then FV.to32 (.fin (a.isNeg && b.isNeg) 0 0) else sumOnce [a, b]

def add32 (a b : F32) : F32 := (dec32 a).add (dec32 b)
def sub32 (a b : F32) : F32 := (dec32 a).add (dec32 b).neg
def mul32 (a b : F32) : F32 := ((dec32 a).mul (dec32 b)).to32

/-- Fused multiply-add, rounded once. -/
def fma32 (a b c : F32) : F32 := ((dec32 a).mul (dec32 b)).add (dec32 c)

/-- IEEE division. -/
def div32 (a b : F32) : F32 :=
  match dec32 a, dec32 b with
  | .nan, _ => nan32
  | _, .nan => nan32
  | .inf _, .inf _ => nan32
  | .inf s, .fin t _ _ => inf32 (s != t)
  | .fin s _ _, .inf t => FV.to32 (.fin (s != t) 0 0)
  | .fin s m e, .fin t n f =>
    if n = 0 then (if m = 0 then nan32 else inf32 (s != t))
    else if m = 0 then FV.to32 (.fin (s != t) 0 0)
    else BitVec.ofNat 32 (Fmt.fp32.roundRat false (s != t) m n (e - f))

/-- Integer square root by bits, from the bit of weight 2^n down. -/
def isqrt (x : Nat) : Nat → Nat → Nat
  | 0, r => if (r + 1) * (r + 1) ≤ x then r + 1 else r
  | n + 1, r =>
    let r' := r + 2 ^ (n + 1)
    isqrt x n (if r' * r' ≤ x then r' else r)

/-- sqrt(n ÷ d × 2^(2e)) rounded once to FP32, with a sticky last bit. -/
def sqrtRat (n d : Nat) (e : Int) : F32 :=
  let x := n * 2 ^ 400 / d
  let q := isqrt x 350 0
  let sticky := if q * q * d = n * 2 ^ 400 then 0 else 1
  BitVec.ofNat 32 (Fmt.fp32.round false false (2 * q + sticky) (e - 201))

/-- IEEE square root. -/
def sqrt32 (a : F32) : F32 :=
  match dec32 a with
  | .nan => nan32
  | .inf s => if s then nan32 else a
  | .fin s m e =>
    if m = 0 then a
    else if s then nan32
    else if e % 2 = 0 then sqrtRat m 1 (e / 2) else sqrtRat (2 * m) 1 ((e - 1) / 2)

/-- a < b on numbers, with −0 below +0 (R198). -/
def FV.lt (a b : FV) : Bool :=
  match a, b with
  | .nan, _ => false
  | _, .nan => false
  | .inf s, .inf t => s && !t
  | .inf s, _ => s
  | _, .inf t => !t
  | .fin s m e, .fin t n f =>
    if m = 0 && n = 0 then s && !t else (mkDy s m e).lt (mkDy t n f)

/-- min and max of R198. -/
def min32 (a b : F32) : F32 :=
  if isNan a then (if isNan b then nan32 else b)
  else if isNan b then a
  else if (dec32 b).lt (dec32 a) then b else a
def max32 (a b : F32) : F32 :=
  if isNan a then (if isNan b then nan32 else b)
  else if isNan b then a
  else if (dec32 a).lt (dec32 b) then b else a

/-! ### Functions, correctly rounded (R198, R199). UNVERIFIED (log 6): 256 fractional bits decide every rounding. -/

/-- ln 2 and 2 ÷ sqrt(pi) as 256-bit fractions. -/
def fxLn2 : Int := 0xb17217f7d1cf79abc9e3b39803f2f6af40f343267298b62d8a0d175b8baafa2b
def fxErf : Int := 0x120dd750429b6d11ae3a914fed7fd8688281341d7587cea2e7342b06199cc4161

/-- One in 256-bit fixed point. -/
def fxOne : Int := 2 ^ 256

/-- A dyadic in 256-bit fixed point, rounded down. -/
def fxOf (m : Int) (e : Int) : Int :=
  if 0 ≤ e + 256 then m * 2 ^ (e + 256).toNat else m / 2 ^ (-(e + 256)).toNat

def fxMul (a b : Int) : Int := a * b / fxOne

/-- exp of a fraction in [0, 1), from its series. -/
def fxExp (r : Int) : Nat → Int → Int
  | 0, acc => acc
  | n + 1, acc => fxExp r n (fxOne + fxMul r acc / (n + 1))

/-- e^x for a fixed-point x: a 257-bit mantissa and the exponent that goes with it. -/
def fxExpOf (x : Int) : Int × Int :=
  let k := x / fxLn2
  (fxExp (x - k * fxLn2) 72 fxOne, k - 256)

/-- (e^y − 1) ÷ y for y in [0, 1], from its series. -/
def fxExpm1 (y : Int) : Nat → Int → Int
  | 0, acc => acc
  | n + 1, acc => fxExpm1 y n (fxOne + fxMul y acc / (n + 2))

/-- atanh z ÷ z by w = z², from its series. -/
def fxAtanh (w : Int) : Nat → Int → Int
  | 0, acc => acc
  | n + 1, acc => fxAtanh w n (fxOne / (2 * n + 1) + fxMul w acc)

/-- ln of m × 2^e, m not 0, in fixed point. -/
def fxLog (m : Nat) (e : Int) : Int :=
  let k := Nat.log2 m
  let x := fxOf m (-(k : Int))
  let z := (x - fxOne) * fxOne / (x + fxOne)
  ((k : Int) + e) * fxLn2 + 2 * fxMul z (fxAtanh (fxMul z z) 90 0)

/-- erf x ÷ x by w = x², from its series: the term of n is (−1)^n w^n ÷ (n! (2n + 1)). -/
def fxErfSum (w : Int) : Nat → Int → Int → Nat → Int
  | 0, _, acc, _ => acc
  | fuel + 1, term, acc, n =>
    let acc := acc + term / (2 * n + 1)
    fxErfSum w fuel (-(fxMul term w) / (n + 1)) acc (n + 1)

/-- Round a fixed-point number to FP32. -/
def fx32 (x : Int) (e : Int := -256) : F32 := rne32 ⟨x, e⟩

/-- A dyadic compared with an integer: |m × 2^e| ≥ n. -/
def dyAtLeast (m : Nat) (e : Int) (n : Nat) : Bool := !(Dy.lt ⟨m, e⟩ ⟨n, 0⟩)

/-- exp of R199. -/
def exp32 (a : F32) : F32 :=
  match dec32 a with
  | .nan => nan32
  | .inf s => if s then zero32 else posInf32
  | .fin s m e =>
    if m = 0 then one32
    else if dyAtLeast m e 128 then (if s then zero32 else posInf32)
    else
      let (v, k) := fxExpOf (fxOf (if s then -(m : Int) else m) e)
      fx32 v k

/-- n ÷ d rounded to FP32 with a sign, for fixed-point n, d. -/
def quot32 (neg : Bool) (n d : Int) (e : Int := 0) : F32 :=
  BitVec.ofNat 32 (Fmt.fp32.roundRat false neg n.toNat d.toNat e)

/-- A result in which every NaN is the canonical one (R190, R198). -/
def canon32 (x : F32) : F32 := if isNan x then nan32 else x

/-- The result of a function of VFN that the manual leaves open: free, with the canonical NaN alone among the NaNs (log 7). -/
def openFn (op : Nat) (a : F32) : F32 := canon32 (Config.fnOpen op a)

/-- The functions of VFN by subop (R264), on a finite operand ±m × 2^e with m not 0. -/
def fnFin (op : Nat) (a : F32) (s : Bool) (m : Nat) (e : Int) : F32 :=
  let x := fxOf (if s then -(m : Int) else m) e
  match op with
  | 0 => exp32 a
  | 1 =>
    if dyAtLeast m e 256 then (if s then zero32 else posInf32)
    else
      let k := x / fxOne
      fx32 (fxExp (fxMul (x - k * fxOne) fxLn2) 72 fxOne) (k - 256)
  | 2 => if s then openFn 2 a else fx32 (fxLog m e)
  | 3 =>
    if s then openFn 3 a
    else if m = 2 ^ Nat.log2 m then rne32 ⟨(Nat.log2 m : Int) + e, 0⟩
    else
      let v := fxLog m e
      quot32 (decide (v < 0)) v.natAbs fxLn2
  | 4 =>
    if s then openFn 4 a
    else if e % 2 = 0 then sqrtRat 1 m (-(e / 2)) else sqrtRat 1 (2 * m) (-((e - 1) / 2))
  | 5 =>
    let y := fxOf m (e + 1)
    if dyAtLeast m e 10 then (if s then 0xBF800000 else one32)
    else if y ≤ fxOne then
      let u := fxExpm1 y 72 fxOne
      BitVec.ofNat 32 (Fmt.fp32.roundRat false s (2 * m * u.toNat) (fxMul y u + 2 * fxOne).toNat e)
    else
      let (v, k) := fxExpOf y
      let ey := fxOf v k
      quot32 s (ey - fxOne) (ey + fxOne)
  | 6 =>
    if dyAtLeast m e 200 then (if s then zero32 else one32)
    else
      let (v, k) := fxExpOf (-(fxOf m e))
      let d := fxOne + fxOf v k
      if s then quot32 false v d (k + 256) else quot32 false fxOne d
  | 7 =>
    if dyAtLeast m e 200 then (if s then 0x80000000 else a)
    else
      let (v, k) := fxExpOf (-(fxOf m e))
      let d := fxOne + fxOf v k
      if s then quot32 true (m * v) d (k + 256 + e) else quot32 false (m * fxOne) d e
  | _ =>
    if dyAtLeast m e 5 then (if s then 0xBF800000 else one32)
    else
      let v := fxMul fxErf (fxErfSum (fxMul x x) 160 fxOne 0 0)
      BitVec.ofNat 32 (Fmt.fp32.round false s (m * v.toNat) (e - 256))

/-- VFN (R198, R199, R264). Where the operand is an infinity, a zero or outside a function's domain and the manual
states no result, the value is the free function of the operand; of tanh, SiLU and erf at −0 only the sign of the zero is open (log 7). -/
def fn32 (op : Nat) (a : F32) : F32 :=
  match dec32 a with
  | .nan => nan32
  | .inf s =>
    if op = 0 then (if s then zero32 else posInf32)
    else if op = 6 then (if s then zero32 else one32)
    else openFn op a
  | .fin s m e =>
    if m = 0 then
      if op = 0 ∨ op = 1 then one32
      else if op = 6 then 0x3F000000
      else if op = 5 ∨ op = 7 ∨ op = 8 then (if s then Config.fnOpen op a &&& 0x80000000 else zero32)
      else openFn op a
    else fnFin op a s m e

end Sys2Proof.Machine
end

