-- ==== Sys2Proof/Machine/QuernGraph.lean ====
section
/-! DEFINITION. Quern's arithmetic and searches (R337, R338, R340, R341, R346 to R350, R352, R353): distances, codes,
request blocks, walks, scans, and the generation a merge makes. -/

namespace Sys2Proof.Machine

/-! ### Distances (R346) -/

/-- The place of a distance in the order: nearer is smaller; NaN's place is open (log 19). -/
def distKey (x : F32) : Int :=
  if isNan x then Config.quernNan x
  else if x.toNat < 2 ^ 31 then (x.toNat : Int) else -((x.toNat - 2 ^ 31 : Nat) : Int)

/-- The elements of a vector: FP16 or INT8. -/
def vecElems (fmt : Nat) : Bytes → List FV
  | [] => []
  | a :: rest =>
    if fmt = 1 then mkInt a :: vecElems fmt rest
    else
      match rest with
      | [] => []
      | b :: rest => Fmt.fp16.dec (a.toNat + 256 * b.toNat) :: vecElems fmt rest
where
  /-- The value of an INT8 element. -/
  mkInt (a : Byte) : FV := .fin a.msb a.toInt.natAbs 0

/-- Sums in groups of 32 elements, each summed exactly and added by one rounding (R346). -/
def sumGroups (acc : F32) (l : List FV) : Nat → F32
  | 0 => acc
  | fuel + 1 => if l.isEmpty then acc else sumGroups (sumOnce (dec32 acc :: l.take 32)) (l.drop 32) fuel

/-- Distance of two lists of values: squared L2, or the negated inner product. -/
def fpDist (metric : Nat) (q x : List FV) : F32 :=
  let terms := (q.zip x).map (fun e =>
    if metric = 0 then
      let d := dec32 (e.1.add e.2.neg)
      d.mul d
    else e.1.mul e.2)
  let s := sumGroups zero32 terms (terms.length + 1)
  if metric = 0 then s else (dec32 s).neg.to32

/-- Differing bits of two byte strings. -/
def hamming (q x : Bytes) : Nat :=
  ((q.zip x).map (fun e => (List.range 8).countP (fun b => (e.1 ^^^ e.2).getLsbD b))).sum

namespace QIdx

/-- Bytes of a full vector. -/
def vecBytes (q : QIdx) : Nat := if q.fmt = 0 then 2 * q.dim else if q.fmt = 1 then q.dim else q.dim / 8

/-- Full distance. -/
def full (q : QIdx) (a b : Bytes) : F32 :=
  if q.fmt = 2 then rne32 ⟨hamming a b, 0⟩
  else if q.fmt = 1 then
    let v : List (Int × Int) := (a.zip b).map (fun e => (e.1.toInt, e.2.toInt))
    rne32 ⟨if q.metric = 0 then (v.map (fun e => (e.1 - e.2) * (e.1 - e.2))).sum else -(v.map (fun e => e.1 * e.2)).sum, 0⟩
  else fpDist q.metric (vecElems 0 a) (vecElems 0 b)

/-- Centroid `c` of subspace `m` (R337). -/
def centroid (q : QIdx) (m c : Nat) : List FV :=
  let sub := q.dim / q.m
  vecElems 0 ((q.book.drop (2 * sub * (256 * m + c))).take (2 * sub))

/-- Subvector `m` of a vector. -/
def subvec (q : QIdx) (v : Bytes) (m : Nat) : List FV :=
  let sub := q.dim / q.m
  ((vecElems q.fmt v).drop (sub * m)).take sub

/-- The code of a vector: each subspace takes the centroid nearest by squared L2, ties to the lower (R342). -/
def encode (q : QIdx) (v : Bytes) : Bytes :=
  if q.fmt = 2 then v
  else (List.range q.m).map (fun m =>
    let s := q.subvec v m
    BitVec.ofNat 8 ((List.range 256).foldl (fun (best : Nat × Int) c =>
      let k := distKey (fpDist 0 s (q.centroid m c))
      if c = 0 ∨ k < best.2 then (c, k) else best) (0, 0)).1)

/-- Code distance: table entries added over ascending subspaces, rounded after each addition (R346). -/
def codeDist (q : QIdx) (v code : Bytes) : F32 :=
  if q.fmt = 2 then q.full v code
  else (List.range q.m).foldl (fun acc m =>
    add32 acc (fpDist q.metric (q.subvec v m) (q.centroid m (code.getD m 0).toNat))) zero32

/-- A node's record. -/
def node (q : QIdx) (n : Nat) : Option QNode := smLook q.nodes n

/-- The node of an item that is not deleted (R341). -/
def live (q : QIdx) (item : BitVec 32) : Option Nat :=
  (q.nodes.find? (fun e => e.2.item == item && e.2.del == 0xFFFFFFFFFFFFFFFF)).map (·.1)

/-- Nodes an index may hold (R338). -/
def maxNodes (q : QIdx) : Nat := q.cap + cdiv q.cap 16

end QIdx

/-- Bytes of the Quern region an index occupies (R338). -/
def quernBytes (cap m r sideCap dim : Nat) : Nat :=
  let n := cap + cdiv cap 16
  let up (x : Nat) : Nat := cdiv x 64 * 64
  up (n * (24 + m)) + up (cdiv (5 * n) 4 * (4 * r)) + up (15 * cdiv cap 8) + up (sideCap * (24 + m)) + up (512 * dim)

/-! ### Request blocks (R340) -/

/-- A request block read for operation `op`, or the offset of its first offending byte. -/
def parseQReq (q : QIdx) (op : Nat) (b : Bytes) : Nat ⊕ QReq :=
  let f (o n : Nat) : Nat := field b o n
  let k := f 2 2
  let lim := f 4 2
  let r := f 6 2
  let s := op == 1
  let rerank := bitsOf (f 1 1) 1 1 == 1
  let nz (lo n : Nat) : Option Nat := (findIdx (fun x => x != 0) ((b.drop lo).take n)).map (· + lo)
  let bad : List (Option Nat) := [
    if f 0 1 = op then none else some 0,
    if f 1 1 < 8 then none else some 1,
    if s && !(decide (1 ≤ k) && decide (k ≤ 1024)) then some 2 else none,
    if s && !(decide (k ≤ lim) && decide (lim ≤ 4096)) then some 4 else none,
    if s && rerank && !(decide (k ≤ r) && decide (r ≤ lim)) then some 6 else none,
    if f 8 1 ≤ 15 then none else some 8,
    if f 9 1 ≤ 3 then none else some 9,
    nz 10 2,
    if s || decide (f 12 4 < q.cap) then none else some 12,
    if s && f 16 8 % 64 != 0 then some 16 else none,
    nz 24 40]
  match bad.findSome? (fun x => x) with
  | some o => .inl o
  | none => .inr { op := op, widen := bitsOf (f 1 1) 0 0 == 1, rerank := rerank, brute := bitsOf (f 1 1) 2 2 == 1, k := k
                   lim := lim, r := r, filter := f 8 1, expand := f 9 1, item := BitVec.ofNat 32 (f 12 4)
                   result := BitVec.ofNat 64 (f 16 8), vec := (b.drop 64).take q.vecBytes }

/-! ### Searches (R345 to R350, R353) -/

/-- A candidate: order (key, item, node), distance, flags of its entry. -/
structure Cand where
  key  : Int
  item : Nat
  node : Nat
  dist : F32
  exp  : Bool := false
  side : Bool := false
  re   : Bool := false
  lostV : Bool := false
deriving DecidableEq, Repr

/-- Nearer, ties by lower item, then lower node (R346). -/
def Cand.le (a b : Cand) : Bool :=
  a.key < b.key || (a.key == b.key && (a.item < b.item || (a.item == b.item && a.node ≤ b.node)))

/-- Insert in order. -/
def Cand.ins (c : Cand) : List Cand → List Cand
  | [] => [c]
  | d :: l => if c.le d then c :: d :: l else d :: Cand.ins c l

/-- Sort by distance. -/
def Cand.sort (l : List Cand) : List Cand := l.foldr Cand.ins []

/-- The state of a walk: W, nodes seen, distances computed, poisoned reads skipped. -/
structure Walk where
  w    : List Cand
  seen : List Nat
  cnt  : Nat
  bad  : Nat
deriving DecidableEq, Repr

/-- Of a newest-first list of things with commit NTs: those committed at `t` itself, which a search at `t` does not see, and the newest
before them (R345). -/
def keepSeen {α : Type} (nt : α → Nt) (t : Nt) (l : List α) : List α :=
  l.takeWhile (fun x => nt x == t) ++ (l.dropWhile (fun x => nt x == t)).take 1

namespace QIdx

/-- The candidate of a node for a query; none where its record or code is poisoned. -/
def cand (q : QIdx) (v : Bytes) (side : Bool) (n : Nat) : Option Cand :=
  match q.node n with
  | none => none
  | some x =>
    if x.bad then none
    else
      let d := q.codeDist v x.code
      some { key := distKey d, item := x.item.toNat, node := n, dist := d, side := side }

/-- Take up a node in a walk. -/
def visit (q : QIdx) (v : Bytes) (lim : Nat) (s : Walk) (n : Nat) : Walk :=
  if s.seen.contains n then s
  else
    match q.cand v false n with
    | none => { s with seen := n :: s.seen, bad := s.bad + (if (q.node n).isSome then 1 else 0) }
    | some c => { s with seen := n :: s.seen, w := (c.ins s.w).take lim, cnt := s.cnt + 1 }

/-- The walk of R347. -/
def walkLoop (q : QIdx) (g : QGen) (v : Bytes) (lim : Nat) : Nat → Walk → Walk
  | 0, s => s
  | fuel + 1, s =>
    match s.w.find? (fun c => !c.exp) with
    | none => s
    | some c =>
      let w := s.w.map (fun d => if d.node = c.node then { d with exp := true } else d)
      let s := { s with w := w }
      if g.badAdj.contains c.node then walkLoop q g v lim fuel { s with bad := s.bad + 1 }
      else walkLoop q g v lim fuel ((smGet [] g.adj c.node).foldl (q.visit v lim) s)

/-- Walk generation `g`. -/
def walk (q : QIdx) (g : QGen) (v : Bytes) (lim : Nat) : Walk :=
  let s : Walk := { w := [], seen := [], cnt := 0, bad := 0 }
  match g.entry with
  | none => s
  | some e => q.walkLoop g v lim (g.adj.length + 1) (q.visit v lim s e)

/-- A node is visible at `t` (R341). -/
def visible (q : QIdx) (t : Nt) (n : Nat) : Bool :=
  match q.node n with
  | none => false
  | some x => decide (x.ins < t) && !decide (x.del < t)

/-- A filter bitmap allows an item; slot 0 allows every item (R348). -/
def allows (slot : Nat) (f : SMap Byte) (item : Nat) : Bool :=
  slot == 0 || (smGet 0 f (item / 8)).getLsbD (item % 8)

/-- Candidates of the side view of a generation at `t` (R347): nodes it has not merged. -/
def sideView (q : QIdx) (g : QGen) (t : Nt) : List Nat :=
  (q.nodes.filter (fun e => decide (e.2.ins < t) && (smLook g.adj e.1).isNone)).map (·.1)

end QIdx

/-- A search's result: entries, distances computed, poisoned reads, widening steps, allowed items when scanned. -/
structure QAns where
  ents : List Cand
  cnt  : Nat
  bad  : Nat
  wide : Nat := 0
  scan : Option Nat := none
deriving DecidableEq, Repr

namespace QIdx

/-- Rank by code distance, re-rank with full vectors where asked, and return the k nearest (R347). -/
def rank (q : QIdx) (req : QReq) (unreadable : List Nat) (s : List Cand) : List Cand × Nat :=
  let s := Cand.sort s
  if req.rerank && q.fmt != 2 then
    let top := (s.take req.r).map (fun c =>
      if unreadable.contains c.item then { c with lostV := true }
      else
        match q.node c.node with
        | none => c
        | some x =>
          let d := q.full req.vec x.vec
          { c with dist := d, key := distKey d, re := true })
    ((Cand.sort top).take req.k, top.countP (·.re))
  else (s.take req.k, 0)

/-- One walk with the side view. -/
def search1 (q : QIdx) (x : QSearch) (unreadable : List Nat) (lim : Nat) : QAns :=
  let w := q.walk x.gen x.req.vec lim
  let side := q.sideView x.gen x.start
  let sideC := side.filterMap (q.cand x.req.vec true)
  let ok (c : Cand) : Bool := q.visible x.start c.node && allows x.req.filter x.filt c.item
  let (e, n) := q.rank x.req unreadable ((w.w ++ sideC).filter ok)
  { ents := e, cnt := w.cnt + sideC.length + n, bad := w.bad + (side.length - sideC.length) }

/-- Repeat a short walk with L doubled (R350). -/
def widen (q : QIdx) (x : QSearch) (unreadable : List Nat) : Nat → Nat → QAns → QAns
  | 0, _, a => a
  | fuel + 1, lim, a =>
    if a.ents.length < x.req.k then
      let lim := min 4096 (2 * lim)
      let b := q.search1 x unreadable lim
      widen q x unreadable fuel lim { b with wide := a.wide + 1, cnt := a.cnt + b.cnt, bad := a.bad + b.bad }
    else a

/-- A taken search (R347, R349, R350). -/
def answer (q : QIdx) (x : QSearch) (brute : Nat) (unreadable : List Nat) : QAns :=
  let pop := (x.filt.map (fun e => (List.range 8).countP (fun b => e.2.getLsbD b))).sum
  if x.req.filter ≠ 0 ∧ (x.req.brute ∨ pop ≤ brute) then
    let g := x.gen
    let ns := (q.nodes.filter (fun e => q.visible x.start e.1 && allows x.req.filter x.filt e.2.item.toNat)).map (·.1)
    let cs := ns.filterMap (fun n => q.cand x.req.vec (smLook g.adj n).isNone n)
    let (e, n) := q.rank x.req unreadable cs
    { ents := e, cnt := cs.length + n, bad := ns.length - cs.length, scan := some ns.length }
  else
    let a := q.search1 x unreadable x.req.lim
    if x.req.widen then q.widen x unreadable x.req.expand x.req.lim a else a

/-! ### Merges (R352, R353) -/

/-- The nearest `r` of a list of nodes to a vector. -/
def nearest (q : QIdx) (v : Bytes) (ns : List Nat) (r : Nat) : List Nat :=
  ((Cand.sort (ns.filterMap (q.cand v false))).take r).map (·.node)

/-- Link a node into a generation: its R nearest by the search of R347, and reverse edges pruned to R. -/
def link (q : QIdx) (g : QGen) (n : Nat) : QGen :=
  match q.node n with
  | none => g
  | some x =>
    let near := ((((q.walk g x.vec (max q.r Config.quernLink.toNat)).w).filter (fun c => c.node != n)).take q.r).map (·.node)
    let adj := smPut g.adj n near
    let adj := near.foldl (fun adj u =>
      let l := smGet [] adj u ++ [n]
      let l := if l.length ≤ q.r then l
        else match q.node u with
          | none => l.take q.r
          | some y => q.nearest y.vec l q.r
      smPut adj u l) adj
    { g with adj := adj, entry := some (g.entry.getD n) }

/-- Nodes a merge that started at `s` purges: deleted before `s` and visible to no search in flight (R352). -/
def purged (q : QIdx) (s : Nt) (starts : List Nt) : List Nat :=
  (q.nodes.filter (fun e => decide (e.2.del < s) && !starts.any (fun t => decide (t ≤ e.2.del)))).map (·.1)

/-- The generation after `g` (R352): purged nodes leave, poisoned blocks are written again, side entries are linked. -/
def mergeGen (q : QIdx) (g : QGen) (s : Nt) (starts : List Nt) : QGen :=
  let gone := q.purged s starts
  let kept := (g.adj.filter (fun e => !gone.contains e.1)).map (fun e => (e.1, e.2.filter (fun n => !gone.contains n)))
  let keys := kept.map (·.1)
  let entry := match g.entry with
    | some e => if keys.contains e then some e else keys[Config.quernEntry (g.gen.toNat + 1) % keys.length]?
    | none => none
  let g0 : QGen := { gen := g.gen + 1, entry := entry, adj := kept }
  let g1 := g.badAdj.foldl (fun h n => if keys.contains n then q.link h n else h) g0
  let add := q.side.filter (fun n => match q.node n with
    | some x => decide (x.ins < s) && !gone.contains n
    | none => false)
  add.foldl q.link g1

/-- Free the nodes that nothing keeps: in no generation of `keep`, not in the side list, deleted, visible to no search. -/
def sweep (q : QIdx) (keep : List QGen) (starts : List Nt) : QIdx :=
  { q with nodes := q.nodes.filter (fun e =>
      e.2.del == 0xFFFFFFFFFFFFFFFF || q.side.contains e.1 || keep.any (fun g => (smLook g.adj e.1).isSome)
        || starts.any (fun t => decide (t ≤ e.2.del))) }

end QIdx

end Sys2Proof.Machine
end

