-- ==== Sys2Proof/Machine/Quern.lean ====
section
/-! DEFINITION. Quern and AIX as commands and events (R331, R334 to R336, R339 to R345, R351, R352, R258). -/

namespace Sys2Proof.Machine

/-- The place of a request among those of one intake NT: instructions, then command windows (R344). -/
def QWho.order : QWho → Nat
  | .ins _ _ => 0
  | .cmd c => c.w.toNat + 1

namespace Hub

/-- Index `k`. -/
def qidx (h : Hub) (k : Nat) : Option QIdx := smLook h.qn.idx k

/-- Replace index `k`. -/
def setQ (h : Hub) (k : Nat) (q : QIdx) : Hub := { h with qn := { h.qn with idx := smPut h.qn.idx k q } }

/-- An index that a requester of `tenant` and `part` may name (R339); one whose QDESTROY is held counts as absent. -/
def qFind (h : Hub) (k : Nat) (tenant : BitVec 24) (part : BitVec 4) : Option QIdx :=
  match h.qidx k with
  | none => none
  | some q => if q.tenant = tenant ∧ q.part = part ∧ q.ready ∧ q.destroy.isNone then some q else none

/-- A Quern request ends: the command's record with `nt`, or the blocked instruction with `dst` (R258, R339). -/
def qEnd (h : Hub) (who : QWho) (status : BitVec 8) (detail : Nat) (nt : Nt) (dst : Nat) : Hub :=
  match who with
  | .cmd c =>
    if c.line.flags.getLsbD 0 && status == St.ok then h
    else h.pushRec false c.part.toNat
      ⟨({ h with nt := nt }).cRec 1 1 status c.op 0 c.line.tag.toNat 0 detail [], none, false, none⟩
  | .ins i nsi =>
    let x := h.s i
    match x.blk with
    | some (.quern d) => if x.r.nsi = nsi then h.endInstr i (some (d, BitVec.ofNat 64 dst)) status detail else h
    | _ => h

/-- A merge starts where none runs (R352). -/
def qMerge (h : Hub) (k : Nat) (subs : List Sub) : Hub :=
  match h.qidx k with
  | none => h
  | some q =>
    match q.merge with
    | some _ => h.setQ k { q with want := q.want ++ subs }
    | none => (h.setQ k { q with merge := some (h.nt, subs) }).p F.QSTAT_merging 1

/-- The merge threshold in entries (R352). -/
def qThreshold (h : Hub) (q : QIdx) (n : Nat) : Bool :=
  let p := h.g F.QMERGETHR_pct
  let p := if 1 ≤ p ∧ p ≤ 100 then p else 50
  decide (p * q.sideCap ≤ n * 100)

/-- QSTAT.side_full while an insert waits (R342). -/
def qSideFull (h : Hub) : Hub :=
  let full (q : QIdx) : Bool :=
    let n := q.edits.countP (fun e => e.node.isSome)
    q.edits.any (fun e => e.node.isNone && (match e.req with
      | some r => r.op == 2
      | none => false))
      && (decide (q.sideCap ≤ q.side.length + n) || decide (q.maxNodes ≤ q.nodes.length + n))
  h.p F.QSTAT_side_full (b2n (h.qn.idx.any (fun e => full e.2)))

/-- The lowest node number that is neither taken nor reserved (log 18). -/
def qFree (q : QIdx) : Nat :=
  (((List.range (q.nodes.length + q.edits.length + 1)).find? (fun n =>
    (q.node n).isNone && !q.edits.any (fun e => e.node == some n))).getD 0)

/-- The edit at place `j` takes its turn: none where it waits (R342, R343). -/
def qEdit (h : Hub) (k j : Nat) : Option Hub :=
  match h.qidx k with
  | none => none
  | some q =>
    match q.edits[j]? with
    | none => none
    | some e =>
      match e.req with
      | none => none
      | some r =>
        let before := q.edits.take j
        if e.node.isSome || before.any (fun x => match x.req with
            | none => true
            | some y => y.item == r.item) then none
        else
          let fin (q : QIdx) : QIdx := { q with edits := q.edits.eraseIdx j }
          match q.live r.item, r.op with
          | none, 3 => some ((h.setQ k (fin q)).qEnd e.who St.badState 0 h.nt 0)
          | some n, 3 =>
            let t := h.nt
            let q := fin { q with nodes := smMod q.nodes n (fun x => { x with del := t }) }
            some ((h.setQ k q).qEnd e.who St.ok r.item.toNat t t.toNat)
          | some _, _ => some ((h.setQ k (fin q)).qEnd e.who St.badState 0 h.nt 0)
          | none, _ =>
            let puts := q.edits.countP (fun x => x.node.isSome)
            if q.sideCap ≤ q.side.length + puts ∨ q.maxNodes ≤ q.nodes.length + puts then
              if q.merge.isSome then none else some (h.qMerge k [])
            else
              let n := qFree q
              let per := unitBytes / max 1 q.vecBytes
              match h.grnWrite (objKey 7 k) 7 (n / per) (n / per + 1) false 0 with
              | none => some ((h.setQ k (fin q)).qEnd e.who St.granaryFull 0 h.nt 0)
              | some h =>
                let h := h.addDur 3 q.vecBytes (.quern k r.item)
                some (h.setQ k { q with edits := q.edits.set j { e with node := some n } })

/-- Edits take effect in their order while any can (R344). -/
def qPump (h : Hub) (k : Nat) : Nat → Hub
  | 0 => h.qSideFull
  | fuel + 1 =>
    let n := match h.qidx k with
      | none => 0
      | some q => q.edits.length
    match (List.range n).findSome? (h.qEdit k) with
    | none => h.qSideFull
    | some h => qPump h k fuel

/-- Let the edits of an index proceed. -/
def qGo (h : Hub) (k : Nat) : Hub :=
  match h.qidx k with
  | none => h
  | some q => h.qPump k (2 * q.edits.length + 2)

/-- The full vector of an insert is durable: it is encoded, appended to the side list, and commits (R342). -/
def qDurable (h : Hub) (k : Nat) (item : BitVec 32) : Hub :=
  match h.qidx k with
  | none => h
  | some q =>
    match q.edits.find? (fun e => e.node.isSome && ((e.req.map (·.item)).getD 0) == item) with
    | none => h
    | some e =>
      match e.node, e.req with
      | some n, some r =>
        let late := (q.nodes.filter (fun x => x.2.item == item)).foldl (fun m x => max m x.2.del.toNat) 0
        let ins : Nt := if h.nt.toNat ≤ late then BitVec.ofNat 64 (late + 1) else h.nt
        let q := { q with nodes := smPut q.nodes n { item := item, ins := ins, code := q.encode r.vec, vec := r.vec }
                          side := q.side ++ [n], edits := q.edits.filter (fun x => x != e) }
        let h := (h.setQ k q).qEnd e.who St.ok item.toNat ins ins.toNat
        let h := if h.on F.QCTL_merge_en && h.qThreshold q q.side.length && q.merge.isNone then h.qMerge k [] else h
        h.qGo k
      | _, _ => h

/-- Place a request in order of intake NT, then instructions, then windows (R344, R345). -/
def qBefore (a b : Nt × Nat) : Bool := a.1 < b.1 || (a.1 == b.1 && a.2 ≤ b.2)

/-- A request block has been read (R340). -/
def qRead (h : Hub) (who : QWho) (op : BitVec 8) (k : Nat) (nt : Nt) (data : Option Bytes) : Hub :=
  match h.qidx k with
  | none => h
  | some q =>
    let w := who.order
    let q := { q with reading := q.reading - 1 }
    let mine (e : QEdit) : Bool := e.who == who && e.nt == nt && e.req.isNone
    let drop (q : QIdx) : QIdx := { q with edits := q.edits.filter (fun e => !mine e) }
    if op == 0x22 || op == 0x23 || op == 0x24 then
      match data with
      | none => ((h.setQ k (drop q)).qEnd who St.imageRefused 0 h.nt 0).qGo k
      | some b =>
        match parseQReq q (op.toNat - 0x21) b with
        | .inl o => ((h.setQ k (drop q)).qEnd who St.badOperand o h.nt 0).qGo k
        | .inr r =>
          if op == 0x22 then
            let s : QSearch := { who := who, idx := k, nt := nt, w := w, req := r }
            let before (a : QSearch) : Bool := qBefore (a.nt, a.w) (nt, w)
            let h := h.setQ k q
            { h with qn := { h.qn with waiting := h.qn.waiting.takeWhile before ++ [s] ++ h.qn.waiting.dropWhile before } }
          else (h.setQ k { q with edits := q.edits.map (fun e => if mine e then { e with req := some r } else e) }).qGo k
    else
      match who with
      | .ins _ _ => h
      | .cmd c =>
        if op == 0x20 then
          match data with
          | none => ({ h with qn := { h.qn with idx := smDel h.qn.idx k } }).complete c St.imageRefused
          | some b => (h.setQ k { q with book := b, ready := true }).complete c St.ok
        else
          match data with
          | none => (h.setQ k q).complete c St.imageRefused
          | some b =>
            let slot := c.line.opd 42 1
            let off := c.line.opd 44 4
            let past := smGet [] q.filters slot
            let cur := match past with
              | [] => []
              | f :: _ => f.2
            let lim := cdiv q.cap 8
            let f := (b.zip (List.range b.length)).foldl (fun m e =>
              if off + e.2 < lim then smSet 0 m (off + e.2) e.1 else m) cur
            (h.setQ k { q with filters := smPut q.filters slot ((h.nt, f) :: keepSeen (·.1) h.nt past) }).complete c St.ok

/-- A QSEARCH, QINSERT or QDELETE request is accepted: its block is read (R339, R340). -/
def qRequest (h : Hub) (who : QWho) (op : BitVec 8) (k : Nat) (addr : W64) (q : QIdx) : Hub :=
  let t := h.nt
  let w := who.order
  let e : QEdit := { who := who, nt := t, w := w }
  let before (a : QEdit) : Bool := qBefore (a.nt, a.w) (t, w)
  let q := { q with reading := q.reading + 1
                    edits := if op == 0x22 then q.edits else q.edits.takeWhile before ++ [e] ++ q.edits.dropWhile before }
  (h.setQ k q).hostRead addr (64 + (if op == 0x24 then 0 else q.vecBytes)) (.qreq who op k t)

/-- A QSEARCH, QINSERT or QDELETE command (R339). -/
def qLine (h : Hub) (w : BitVec 8) (op : BitVec 8) (l : CmdLine) : Hub :=
  h.line w op l (fun c h =>
    if !h.on F.QCTL_enable then h.complete c St.badState
    else
      match h.qFind (l.opd 40 2) c.tenant c.part with
      | none => h.complete c St.badOperand 0xFFFF0002
      | some q => h.qRequest (.cmd c) op (l.opd 40 2) (BitVec.ofNat 64 (l.opd 32 8)) q)

/-- A QSEARCH, QINSERT or QDELETE instruction: the context blocks (R258). An address that is not 64 B aligned is a read
that fails (log 20). -/
def iQuern (h : Hub) (i : Handle) (w : W64) (op : BitVec 8) : Hub :=
  let r := (h.s i).r
  let k := iw w 15 0
  let a := h.srcVal i w 0
  if !h.on F.QCTL_enable || !h.stage 9 then h.stat i St.badState 0
  else
    match h.qFind k r.tenant r.part with
    | none => h.stat i St.badOperand 0xFFFF0002
    | some q =>
      if a.toNat % 64 ≠ 0 then h.stat i St.imageRefused 0
      else (h.block i (.quern (dstOf w))).qRequest (.ins i r.nsi) op k a q

/-- Start NTs of the searches taken on an index. -/
def qStarts (h : Hub) (k : Nat) : List Nt := (h.qn.taken.filter (fun s => s.idx == k)).map (·.start)

/-- Free nodes that nothing keeps. -/
def qSweep (h : Hub) (k : Nat) : Hub :=
  match h.qidx k with
  | none => h
  | some q => h.setQ k (q.sweep (q.gens ++ (h.qn.taken.filter (fun s => s.idx == k)).map (·.gen)) (h.qStarts k))

/-- The engine takes the first waiting search and pins its snapshot (R345). -/
def qTake (h : Hub) : Hub :=
  match h.qn.waiting with
  | [] => h
  | s :: rest =>
    if 64 ≤ h.qn.taken.length then h
    else
      match h.qidx s.idx with
      | none => { h with qn := { h.qn with waiting := rest } }
      | some q =>
        let t := h.nt
        let g := ((q.gens.find? (fun g => decide (g.nt < t))).orElse (fun _ => q.gens.getLast?)).getD {}
        let f := (((smGet [] q.filters s.req.filter).find? (fun f => decide (f.1 < t))).map (·.2)).getD []
        let s := { s with start := t, gen := g, filt := f }
        { h with qn := { h.qn with waiting := rest, taken := h.qn.taken ++ [s] } }

/-- The bytes of a result block (R351). -/
def qBlock (s : QSearch) (a : QAns) : Bytes :=
  let st := if a.ents.length < s.req.k then St.filterShort else St.ok
  let ent (c : Cand) : Bytes :=
    le 4 c.item ++ le 4 c.dist.toNat ++ le 1 (b2n c.re + b2n c.side * 2 + b2n c.lostV * 4) ++ le 7 0
  le 1 st.toNat ++ le 1 a.wide ++ le 2 a.ents.length ++ le 4 a.cnt ++ le 8 s.start.toNat ++ le 4 s.gen.gen.toNat
    ++ le 4 (a.scan.getD 0xFFFFFFFF) ++ le 1 (b2n (0 < a.bad)) ++ le 7 0 ++ (a.ents.map ent).flatten

/-- The oldest taken search finishes: its result block is written, the first granule last (R351). -/
def qResult (h : Hub) (unreadable : List (BitVec 32)) : Hub :=
  match h.qn.taken with
  | [] => h
  | s :: rest =>
    let h := { h with qn := { h.qn with taken := rest } }
    match h.qidx s.idx with
    | none => h
    | some q =>
      let a := q.answer s (h.g F.QBRUTE_items) (unreadable.map (·.toNat))
      let n := a.ents.length
      let short := decide (n < s.req.k)
      let h := (((h.inc F.QSEARCHES_count).inc F.QVISITS_count a.cnt).inc F.QPOISON_count a.bad).inc F.QSHORT_count (b2n short)
      let b := padTo (64 * cdiv (32 + 16 * n) 64) (qBlock s a)
      let w : WrWait := { addr := s.req.result, data := b.take 64, status := if short then St.filterShort else St.ok }
      let w := match s.who with
        | .cmd c => { w with sub := some (c, BitVec.ofNat 32 n) }
        | .ins i nsi => { w with ins := some (i, nsi, n) }
      let h := if b.length ≤ 64 then h.hostWrite w
        else h.hostWrite { w with addr := s.req.result + 64, data := b.drop 64, first := some (s.req.result, b.take 64) }
      (h.qSweep s.idx).qGo s.idx

/-- A merge commits; another one starts where QMERGE has asked for it or the side list is still at the threshold (R352). -/
def qMerged (h : Hub) (k : Nat) : Hub :=
  match h.qidx k with
  | none => h
  | some q =>
    match q.merge, q.gens with
    | some (s, subs), g :: old =>
      let starts := h.qStarts k
      let g' := { q.mergeGen g s starts with nt := h.nt }
      let gone := q.purged s starts
      let side := q.side.filter (fun n => (smLook g'.adj n).isNone && !gone.contains n)
      let q := { q with gens := g' :: keepSeen (·.nt) h.nt (g :: old), side := side, merge := none, want := [] }
      let want := ((h.qidx k).map (·.want)).getD []
      let h := ((h.setQ k q).qSweep k).inc F.QMERGES_count
      let h := h.p F.QSTAT_merging (b2n (h.qn.idx.any (fun e => e.2.merge.isSome)))
      let h := subs.foldl (fun h c => h.complete c St.ok) h
      let full := h.on F.QCTL_merge_en && h.qThreshold q side.length
      let h := if want.isEmpty && !full then h else h.qMerge k want
      h.qGo k
    | _, _ => h

/-- Nothing is in flight on an index (R339). -/
def qIdle (h : Hub) (k : Nat) (q : QIdx) : Bool :=
  q.edits.isEmpty && q.reading == 0 && q.merge.isNone && q.ready
    && !(h.qn.waiting ++ h.qn.taken).any (fun s => s.idx == k)

/-- A destroyed index is freed once nothing is in flight on it (R339). -/
def qDestroy (h : Hub) (k : Nat) : Hub :=
  match h.qidx k with
  | none => h
  | some q =>
    match q.destroy with
    | none => h
    | some c =>
      if h.qIdle k q then
        (({ h with qn := { h.qn with idx := smDel h.qn.idx k } }).grnRelease (objKey 7 k)).complete c St.ok
      else h

/-- QCREATE (R337 to R339). -/
def qCreate (h : Hub) (c : Sub) : Hub :=
  let v := c.line.opd
  let k := v 32 2
  let cap := v 44 4
  let side := max 4096 (h.g F.QSIDECAP_entries)
  let used := (h.qn.idx.map (fun e => quernBytes e.2.cap e.2.m e.2.r e.2.sideCap e.2.dim)).sum
  let items := (h.qn.idx.map (fun e => e.2.cap)).sum
  if !h.on F.QCTL_enable then h.complete c St.badState
  else if (h.qidx k).isSome then h.complete c St.badState
  else if h.qn.mem * 2 ^ 30 < used + quernBytes cap (v 38 2) (v 40 1) side (v 34 2) ∨ 1073741824 < items + cap then
    h.complete c St.badOperand 0xFFFF0001
  else
    let bin := v 36 1 == 2
    let q : QIdx := { dim := v 34 2, fmt := v 36 1, metric := v 37 1, m := v 38 2, r := v 40 1, cap := cap
                      tenant := BitVec.ofNat 24 (v 48 3), part := BitVec.ofNat 4 (v 41 1), sideCap := side, ready := bin
                      reading := if bin then 0 else 1 }
    let h := h.setQ k q
    if bin then h.complete c St.ok
    else h.hostRead (BitVec.ofNat 64 (v 56 8)) (512 * q.dim) (.qreq (.cmd c) 0x20 k h.nt)

/-- ADMIT commands and FORKs held by an uncertain lookup repeat it (R331). -/
def afterSwap (h : Hub) : Hub :=
  let cs := h.aix.held
  let h := cs.foldl (fun h c => h.admitSession c) { h with aix := { h.aix with held := [] } }
  h.handles.foldl (fun h i => match (h.s i).blk with
    | some (.redo w) => if iw w 63 56 = 0x23 then h.settled i else h
    | _ => h) h

end Hub

/-- QCREATE. -/
def execQcreate (t : Nt) (w : BitVec 8) (l : CmdLine) : State → Host.Outcome State Fault Refusal :=
  onHub t (fun h => h.line w 0x20 l (fun c h => h.qCreate c))

/-- QDESTROY: held until no request on the index is in flight (R339). -/
def execQdestroy (t : Nt) (w : BitVec 8) (l : CmdLine) : State → Host.Outcome State Fault Refusal :=
  onHub t (fun h => h.line w 0x21 l (fun c h =>
    let k := l.opd 32 2
    if !h.on F.QCTL_enable then h.complete c St.badState
    else
      match h.qidx k with
      | none => h.complete c St.badOperand 0xFFFF0002
      | some q =>
        if q.destroy.isSome then h.complete c St.badOperand 0xFFFF0002
        else h.setQ k { q with destroy := some c }))

/-- QSEARCH command. -/
def execQsearchCommand (t : Nt) (w : BitVec 8) (l : CmdLine) : State → Host.Outcome State Fault Refusal :=
  onHub t (fun h => h.qLine w 0x22 l)

/-- QINSERT command. -/
def execQinsertCommand (t : Nt) (w : BitVec 8) (l : CmdLine) : State → Host.Outcome State Fault Refusal :=
  onHub t (fun h => h.qLine w 0x23 l)

/-- QDELETE command. -/
def execQdeleteCommand (t : Nt) (w : BitVec 8) (l : CmdLine) : State → Host.Outcome State Fault Refusal :=
  onHub t (fun h => h.qLine w 0x24 l)

/-- QFILTER reads the named bytes (R339, R348). -/
def execQfilter (t : Nt) (w : BitVec 8) (l : CmdLine) : State → Host.Outcome State Fault Refusal :=
  onHub t (fun h => h.line w 0x25 l (fun c h =>
    let k := l.opd 40 2
    if !h.on F.QCTL_enable then h.complete c St.badState
    else
      match h.qFind k c.tenant c.part with
      | none => h.complete c St.badOperand 0xFFFF0002
      | some q => (h.setQ k { q with reading := q.reading + 1 }).hostRead (BitVec.ofNat 64 (l.opd 32 8)) (l.opd 48 4)
          (.qreq (.cmd c) 0x25 k h.nt)))

/-- QMERGE (R352). -/
def execQmerge (t : Nt) (w : BitVec 8) (l : CmdLine) : State → Host.Outcome State Fault Refusal :=
  onHub t (fun h => h.line w 0x26 l (fun c h =>
    let k := l.opd 40 2
    if !h.on F.QCTL_enable then h.complete c St.badState
    else
      match h.qFind k c.tenant c.part with
      | none => h.complete c St.badOperand 0xFFFF0002
      | some _ => h.qMerge k [c]))

/-- QSEARCH instruction. -/
def execQsearchInstruction (t : Nt) (i : Handle) (w : W64) : State → Host.Outcome State Fault Refusal :=
  instr t i w 0x40 (fun h => h.iQuern i w 0x22)
/-- QINSERT instruction. -/
def execQinsertInstruction (t : Nt) (i : Handle) (w : W64) : State → Host.Outcome State Fault Refusal :=
  instr t i w 0x41 (fun h => h.iQuern i w 0x23)
/-- QDELETE instruction. -/
def execQdeleteInstruction (t : Nt) (i : Handle) (w : W64) : State → Host.Outcome State Fault Refusal :=
  instr t i w 0x42 (fun h => h.iQuern i w 0x24)

/-- QUERN_SEARCH_START. -/
def execQuernSearchStart (t : Nt) : State → Host.Outcome State Fault Refusal := onHub t (fun h => h.qTake)

/-- QUERN_RESULT: `unreadable` are the items whose full vector could not be read (R353). -/
def execQuernResult (t : Nt) (unreadable : List (BitVec 32)) : State → Host.Outcome State Fault Refusal :=
  onHub t (fun h => h.qResult unreadable)

/-- QUERN_INDEX_FREE. -/
def execQuernIndexFree (t : Nt) (idx : BitVec 6) : State → Host.Outcome State Fault Refusal :=
  onHub t (fun h => h.qDestroy idx.toNat)

/-- MERGE_COMMIT. -/
def execMergeCommit (t : Nt) (idx : BitVec 6) : State → Host.Outcome State Fault Refusal :=
  onHub t (fun h => h.qMerged idx.toNat)

/-- BANK_SWAP: the copy is complete and bank 16 takes the failed bank's identity (R335). -/
def execBankSwap (t : Nt) (bank : BitVec 4) : State → Host.Outcome State Fault Refusal :=
  onHub t (fun h =>
    if h.aix.swap ≠ some bank.toNat then h
    else
      let h := { h with aix := { h.aix with swap := none, spare := some bank.toNat } }
      let h := h.setReg 0x3000C (BitVec.ofNat 64 (pairOf 16 bank.toNat))
      (((h.p F.AIXSTAT_spare_used 1).p F.AIXSTAT_shadow 1).devEv 0x0302 4 bank.toNat).afterSwap)

/-- AIX_SCRUB: entries that differ from the key store are rewritten; `false` marks a rewrite that failed read-back twice
(R334, R335). -/
def execAixScrub (t : Nt) (bad : List (BitVec 4 × BitVec 14 × Bool)) : State → Host.Outcome State Fault Refusal :=
  onHub t (fun h =>
    if !h.on F.AIXCTL_scrub_en then h
    else bad.foldl (fun h e =>
      let h := h.inc F.AIXREPAIR_count
      if e.2.2 then h else h.failBank e.1.toNat) h)

end Sys2Proof.Machine
end

