-- ==== Sys2Proof/Machine/Sequencer.lean ====
section
/-! DEFINITION. Activations of contexts on the sequencers (R252 to R255). -/

namespace Sys2Proof.Machine

namespace Hub

/-- What an instruction word does to its session (R258). -/
def instrBody (h : Hub) (i : Handle) (w : W64) : Hub :=
  match iw w 63 56 with
  | 0x00 => h.pcNext i
  | 0x01 => h.pcTo i (iw w 23 0)
  | 0x02 => h.iBcc i w
  | 0x03 => h.iCmpBr i w (h.srcVal i w 0)
  | 0x04 => h.iCmpBr i w (cbiImm w)
  | 0x05 => h.branchIf i w (bitsOf (h.s i).r.flags.toNat 15 8 == iw w 31 24)
  | 0x06 => h.iLoop i w
  | 0x10 => h.iWait i w
  | 0x20 => h.iPark i w
  | 0x21 => h.iRevive i w
  | 0x22 => h.iMigrate i w
  | 0x23 => h.iFork i w
  | 0x24 => h.iDrop i w
  | 0x25 => h.iGetf i w
  | 0x26 => h.iSetf i w
  | 0x30 => h.iIntake i w
  | 0x31 => h.iPrefill i w
  | 0x32 => h.iStep i w
  | 0x33 => h.iEmit i w
  | 0x34 => h.iHold i w
  | 0x35 => h.iBind i w
  | 0x40 => h.iQuern i w 0x22
  | 0x41 => h.iQuern i w 0x23
  | 0x42 => h.iQuern i w 0x24
  | 0x50 => h.put i w (h.srcVal i w 0)
  | 0x51 => h.put i w (BitVec.ofNat 64 (iw w 47 0))
  | 0x52 => h.put i w (luiVal (h.dstVal i w) w)
  | 0x60 => h.put i w h.nt
  | 0x70 => h.iPost i w
  | _ => h.iAlu i w

/-- The physical sequencer that serves a logical one. -/
def seqOf (h : Hub) (q : Nat) : Nat := bitsOf (h.seqMap.getD q 0).toNat 7 0

/-- A parity fault of a logical sequencer: the next spare takes it, or, when none remains, the next logical sequencer serves its contexts
and those that it served for others (R254). -/
def seqFault (h : Hub) (q : Nat) (injected : Bool) : Hub :=
  if h.seqSpare < 4 then
    let n := h.seqSpare
    let h := { h with seqMap := h.seqMap.set q (BitVec.ofNat 16 (pairOf 8 (32 + n))), seqSpare := n + 1 }
    h.devEv 0x0105 4 (q + n * 2 ^ 8 + injBit injected)
  else
    let next := ((List.range 32).map (fun k => (q + 1 + k) % 32)).find? (fun k => h.seqOf k != h.seqOf q)
    let v0 := h.seqMap.getD (next.getD q) 0
    let h := { h with seqMap := h.seqMap.mapIdx (fun k v => if h.seqOf k = h.seqOf q then v0 else v) }
    h.devEv 0x0106 4 (q + injBit injected)

/-- The contexts that one sequencer serves with context `i`, in the order in which it serves them (R252, R254). -/
def servedWith (h : Hub) (i : Handle) : List Handle :=
  h.seqq.filter (fun j => h.seqOf (j.toNat % 32) == h.seqOf (i.toNat % 32))

/-- Execute up to `n` instructions, until one blocks or the context may no longer run; a context at its limit goes, still runnable, to the
back of its queue (R252). -/
def activate (h : Hub) (i : Handle) : Nat → Hub
  | 0 =>
    let t := h.nt
    if h.runs i && (h.s i).runnable then
      { h.modS i (fun x => { x with since := t }) with seqq := h.seqq.filter (· != i) ++ [i] }
    else h
  | n + 1 =>
    let x := h.s i
    if !h.runs i || !x.runnable then h
    else
      let p := h.prog i
      if p.length ≤ x.r.pc.toNat then h.progFault i
      else activate (h.instrBody i (p.getD x.r.pc.toNat 0)) i n

end Hub

/-- SEQUENCER_ACTIVATION: the first runnable context of its sequencer (R252 to R255). One at the NT of a boundary that is not made yet
waits for it (R521). -/
def execSequencerActivation (t : Nt) (i : Handle) (parity : Bool) : State → Host.Outcome State Fault Refusal :=
  onHub t (fun h =>
    let q := i.toNat % 32
    if (h.servedWith i).head? ≠ some i || !h.runs i || h.boundDue then h
    else
      let (inj, h) := h.fireInj 0x18 (fun x => x.a.toNat == q)
      let h := if parity || inj then h.seqFault q inj else h
      (h.useRec i).activate i 64)

end Sys2Proof.Machine
end

