-- ==== Sys2Proof/Machine/Intake.lean ====
section
/-! DEFINITION. Hopper: descriptors, tokenization and the outcome of an intake (R93 to R100, R152, R182, R518). -/

namespace Sys2Proof.Machine

/-- The longest non-special token whose bytes start a segment, with its length (R97). -/
def longestToken (vocab : List (Bytes × Bool)) (b : Bytes) : Nat × Nat :=
  (vocab.zip (List.range vocab.length)).foldl (fun best e =>
    if !e.1.2 && decide (best.2 < e.1.1.length) && e.1.1.isPrefixOf b then (e.2, e.1.1.length) else best) (0, 0)

/-- Greedy longest match (R97). -/
def tokenize (vocab : List (Bytes × Bool)) : Nat → Bytes → List (BitVec 32)
  | 0, _ => []
  | fuel + 1, b =>
    if b.isEmpty then []
    else
      let (id, n) := longestToken vocab b
      BitVec.ofNat 32 id :: tokenize vocab fuel (b.drop (max 1 n))

/-- The token IDs of a token segment. -/
def segTokens : Nat → Bytes → List (BitVec 32)
  | 0, _ => []
  | fuel + 1, b => if b.isEmpty then [] else BitVec.ofNat 32 (field b 0 4) :: segTokens fuel (b.drop 4)

/-- A descriptor list that R93 allows. -/
def descsOk (ds : List Bytes) : Bool :=
  let n := ds.length
  (ds.zip (List.range n)).all (fun e =>
    let b := e.1
    let ty := field b 12 1
    let fl := field b 13 1
    (ty == 1 || (ty == 2 && field b 8 4 % 4 == 0)) && fl == (if e.2 + 1 = n then 1 else 0) && field b 14 2 == 0)
    && decide ((ds.map (fun b => field b 8 4)).sum ≤ 256 * 2 ^ 20)

namespace Hub

/-- An intake ends without effect, or with its tokens appended: `m` of them (R94, R99). -/
def endIntake (h : Hub) (i : Handle) (sub : Option Sub) (st : BitVec 8) (m : Nat) : Hub :=
  let h := h.modS i (fun x => { x with intakes := x.intakes - 1 })
  let h := if st == St.badToken then h.p F.HOPERR_bad_token 1
    else if st == St.intakeFault then h.p F.HOPERR_fault 1
    else if st == St.maxTokens then h.p F.HOPERR_limit 1 else h
  let h := match sub with
    | some c => h.complete c st m (h.s i).r.nsi
    | none =>
      match (h.s i).blk with
      | some (.intake d) => h.endInstr i (some (d, BitVec.ofNat 64 m)) st 0
      | _ => h
  h.settled i

/-- The tokens of an intake, or its failing status (R94, R97). -/
def intakeTokens (h : Hub) (q : IntakeReq) (rd : IntakeRead) : BitVec 8 ⊕ List (BitVec 32) :=
  let v := h.g F.HOPVOCAB_v
  let vocab := (h.model.map (·.vocab)).getD []
  if !h.on F.HOPCTL_enable then .inl St.intakeFault
  else
    match q.tok with
    | some t => if t.toNat < v then .inr [t] else .inl St.badToken
    | none =>
      match rd.descs with
      | none => .inl St.intakeFault
      | some ds =>
        if !descsOk ds || rd.segs.any (·.isNone) then .inl St.intakeFault
        else
          let segs := (ds.zip rd.segs).map (fun e => (field e.1 12 1 == 1, e.2.getD []))
          let text := segs.any (·.1)
          let ids := (segs.map (fun e => if e.1 then [] else segTokens e.2.length e.2)).flatten
          if ids.any (fun t => decide (v ≤ t.toNat)) then .inl St.badToken
          else if text && !h.on F.HOPCTL_text_en then .inl St.intakeFault
          else .inr (segs.map (fun e => if e.1 then tokenize vocab e.2.length e.2 else segTokens e.2.length e.2)).flatten

/-- Hopper treats the segments of a sealed buffer as it treats descriptors (R426). -/
def sealedRead (segs : List (BitVec 8 × Bytes)) : IntakeRead :=
  { descs := some ((segs.zipIdx).map (fun e =>
      le 8 0 ++ le 4 e.1.2.length ++ le 1 e.1.1.toNat ++ le 1 (if e.2 + 1 = segs.length then 1 else 0) ++ le 2 0))
    segs := segs.map (fun e => some e.2) }

/-- The status of a sealed intake whose context or counter stands against it (R424, R426). -/
def sealBad (h : Hub) (q : IntakeReq) : Option (BitVec 8 × Nat) :=
  match q.segs with
  | none => none
  | some (ctr, _) =>
    match smLook h.sec.ctx (h.s q.h).r.tenant.toNat with
    | none => some (St.sealedRequired, 0)
    | some c => if ctr.toNat ≤ c.inCtr.toNat then some (St.intakeFault, 2) else none

/-- A successful sealed intake advances its context's counter (R426). -/
def sealTake (h : Hub) (q : IntakeReq) : Hub :=
  match q.segs with
  | none => h
  | some (ctr, _) => { h with sec := { h.sec with ctx := smMod h.sec.ctx (h.s q.h).r.tenant.toNat (fun c => { c with inCtr := ctr }) } }

/-- Tokens of the session's intakes whose append is not durable yet. -/
def appending (h : Hub) (i : Handle) : Nat :=
  (h.durs.map (fun e => match e.2 with
    | .intake j _ ts _ => if j = i then ts.length else 0
    | .intakeMirror j _ ts => if j = i then ts.length else 0
    | _ => 0)).sum

/-- Hopper takes an intake (R94, R98, R99, R152, R426); a failed read of a descriptor or a segment sets HSTAT.rd_err (R288). -/
def intakeRun (h : Hub) (q : IntakeReq) (rd : IntakeRead) : Hub :=
  let rd := match q.segs with
    | none => rd
    | some (_, segs) => sealedRead segs
  let h := { h with hopq := h.hopq.erase q }
  let h := if q.tok.isNone && (rd.descs.isNone || rd.segs.any (·.isNone)) && h.on F.HOPCTL_enable then h.hstat F.HSTAT_rd_err else h
  let x := h.s q.h
  let h := h.inc F.HOPBYTES_bytes ((rd.segs.map (fun s => (s.getD []).length)).sum)
  if x.r.state == S.free then h
  else if x.r.state == S.faulted || x.r.state == S.migrating then h.endIntake q.h q.sub St.badState 0
  else
    match h.sealBad q, h.intakeTokens q rd with
    | some (st, d), _ => h.endIntake q.h q.sub st d
    | none, .inl st => h.endIntake q.h q.sub st 0
    | none, .inr toks =>
      if h.ctxLimit < x.r.committed.toNat + x.pendIn.toNat + h.appending q.h + toks.length then h.endIntake q.h q.sub St.maxTokens 0
      else
        let n := x.log.length + h.appending q.h
        match h.grnLog (objKey 2 x.r.nsi.toNat) n (n + toks.length) x.r.keygen with
        | none => (h.p F.TIERSTAT_logblk 1).endIntake q.h q.sub St.granaryFull 0
        | some h =>
          (h.sealTake q).addDur 1 (4 * toks.length) (.intake q.h q.sub toks (h.inPrefill && h.on F.POOLCTL_mirror_en))

/-- The append is durable: pending input, INPUT, completion (R99). -/
def landIntake (h : Hub) (i : Handle) (sub : Option Sub) (toks : List (BitVec 32)) : Hub :=
  let m := toks.length
  let h := h.modS i (fun x => { x with log := x.log ++ toks, pendIn := x.pendIn + BitVec.ofNat 32 m, durable := x.durable + BitVec.ofNat 32 m })
  let h := (h.inc F.HOPTOK_tokens m).deliver i 0
  h.endIntake i sub St.ok m

/-- The mirror of a session for the handoff target (R182). -/
def mirrorOf (h : Hub) (i : Handle) (toks : List (BitVec 32)) : MirrorMsg :=
  let x := h.s i
  let rt := (h.rootOf x.r).getD {}
  { image := x.r.bytes, toks := x.log ++ toks, pend := x.pendIn + BitVec.ofNat 32 toks.length, stack := x.stack
    held := x.held, relOff := x.relOff, rest := x.restNow, hist := rt.hist, histFull := rt.histFull, share := x.share }

end Hub

/-- HOPPER_INTAKE: the oldest intake whose session is not in a state that holds it; it waits for the buffer of a sealed one (R98,
R100, R426). -/
def execHopperIntake (t : Nt) (rd : IntakeRead) : State → Host.Outcome State Fault Refusal :=
  onHub t (fun h =>
    match h.hopq.find? (fun q => !((h.s q.h).r.state == S.prefill || (h.s q.h).r.state == S.stepping)) with
    | none => h
    | some q => if q.ready then h.intakeRun q rd else h)

end Sys2Proof.Machine
end

