-- ==== Sys2Proof/Machine/Sampler.lean ====
section
/-! DEFINITION. The sampler, Bolter, the matcher and the sub-steps of a session's step on its owner (R109, R112, R114 to
R119, R122, R123, R126 to R133, R517). -/

namespace Sys2Proof.Machine

/-! ### Philox-4x32-10 (R114) -/

/-- One round of Philox-4x32 on four counter words with two key words. -/
def philoxRound (x : List Nat) (k0 k1 : Nat) : List Nat :=
  let p0 := 0xD2511F53 * x.getD 0 0
  let p1 := 0xCD9E8D57 * x.getD 2 0
  [(p1 / 2 ^ 32) ^^^ x.getD 1 0 ^^^ k0, p1 % 2 ^ 32, (p0 / 2 ^ 32) ^^^ x.getD 3 0 ^^^ k1, p0 % 2 ^ 32]

/-- Rounds with the Weyl key schedule. -/
def philox : Nat → List Nat → Nat → Nat → List Nat
  | 0, x, _, _ => x
  | n + 1, x, k0, k1 => philox n (philoxRound x k0 k1) ((k0 + 0x9E3779B9) % 2 ^ 32) ((k1 + 0xBB67AE85) % 2 ^ 32)

/-- The uniform draw of a token index (R114). -/
def uniform (seed : W64) (i : BitVec 32) : F32 :=
  let x := philox 10 [i.toNat, 0, 0, 0] (seed.toNat % 2 ^ 32) (seed.toNat / 2 ^ 32)
  rne32 ⟨((x.getD 0 0 / 256 : Nat) : Int), -24⟩

/-! ### The sampler (R115) -/

/-- A logit or scaled logit: NaN counts as −infinity. -/
def noNan (x : F32) : F32 := if isNan x then negInf32 else x

/-- x > y as FP32 values. DESIGN CHOICE (log 137): −0 is below +0, as R198 orders them for min and max. -/
def gt32 (x y : F32) : Bool := (dec32 y).lt (dec32 x)

/-- Insert by value descending, ties to the lower ID. -/
def insDesc (e : Nat × F32) : List (Nat × F32) → List (Nat × F32)
  | [] => [e]
  | d :: l => if gt32 e.2 d.2 || (!gt32 d.2 e.2 && decide (e.1 < d.1)) then e :: d :: l else d :: insDesc e l

/-- Sort by value descending, ties to the lower ID. -/
def sortDesc (l : List (Nat × F32)) : List (Nat × F32) := l.foldl (fun acc e => insDesc e acc) []

/-- The first entry of a list in ID order with maximal value. -/
def argMax : List (Nat × F32) → Option (Nat × F32)
  | [] => none
  | e :: l => some (l.foldl (fun b x => if gt32 x.2 b.2 then x else b) e)

/-- Sequential sums. -/
def cumsum : F32 → List (Nat × F32) → List (Nat × F32)
  | _, [] => []
  | c, (v, w) :: l => let c := add32 c w; (v, c) :: cumsum c l

/-- The token sampled from logits `z` over the allowed set, in ascending ID order (R115). -/
def sample (z : List F32) (allowed : List Nat) (temp topP topK : BitVec 16) (seed : W64) (idx : BitVec 32) : Nat :=
  let T := BitVec.ofNat 32 (temp.toNat * 2 ^ 16)
  let P := BitVec.ofNat 32 (topP.toNat * 2 ^ 16)
  let zs := allowed.map (fun v => (v, noNan (z.getD v negInf32)))
  if !gt32 T zero32 then ((argMax zs).getD (0, 0)).1
  else
    let ys := zs.map (fun e => (e.1, noNan (div32 e.2 T)))
    let top := (sortDesc ys).take topK.toNat
    let C := if topK ≠ 0 ∧ topK.toNat < ys.length then ys.filter (fun e => top.any (fun t => t.1 == e.1)) else ys
    match C.find? (fun e => e.2 == posInf32) with
    | some e => e.1
    | none =>
      if C.all (fun e => e.2 == negInf32) then (C.headD (0, 0)).1
      else
        let m := ((argMax C).getD (0, 0)).2
        let w := C.map (fun e => (e.1, exp32 (sub32 e.2 m)))
        let small := gt32 one32 P
        let cum := cumsum zero32 (if small then sortDesc w else w)
        let total := (cum.getLast?.getD (0, 0)).2
        let pt := mul32 P total
        let J := if small then cum.findIdx (fun e => !gt32 pt e.2) else cum.length - 1
        let J := min J (cum.length - 1)
        let cj := cum.getD J (0, 0)
        let r := mul32 (uniform seed idx) cj.2
        (((cum.take (J + 1)).find? (fun e => gt32 e.2 r)).getD cj).1

/-! ### Bolter (R116) -/

/-- The moves a grammar allows in a state (R116). -/
def movesOf (g : Grammar) (st : BitVec 20) (stack : List (BitVec 16)) (v : Nat) : List GMove :=
  g.moves.filter (fun m => m.st == st && m.top == stack.head? && decide (m.tok.toNat < v) && (match m.act with
    | .none => true
    | .push _ => decide (stack.length < min 4096 g.limit)
    | .pop => !stack.isEmpty))

/-- The stack after a move. -/
def stackAfter (stack : List (BitVec 16)) : GAct → List (BitVec 16)
  | .none => stack
  | .push s => s :: stack
  | .pop => stack.drop 1

/-! ### The matcher (R130 to R132) -/

/-- The longest used string that ends a byte string, ties to the lower index. -/
def endsHere (strs : List Bytes) (out : Bytes) : Option (Nat × Nat) :=
  (strs.zip (List.range strs.length)).foldl (fun best e =>
    if !e.1.isEmpty && e.1.isSuffixOf out && (match best with
        | none => true
        | some b => decide (b.2 < e.1.length)) then some (e.2, e.1.length) else best) none

/-- Feed bytes after the held ones: the string completed, its length, and the bytes of the token up to its end. -/
def feed (strs : List Bytes) (held tok : Bytes) : Nat → Option (Nat × Nat × Nat)
  | 0 => none
  | fuel + 1 =>
    let n := tok.length - fuel
    match endsHere strs (held ++ tok.take n) with
    | some (k, l) => some (k, l, n)
    | none => feed strs held tok fuel

/-- The length of the longest suffix that is a proper prefix of a used string (R131). -/
def holdLen (strs : List Bytes) (out : Bytes) : Nat :=
  ((List.range (min 63 out.length + 1)).reverse.find? (fun n =>
    n == 0 || strs.any (fun s => decide (n < s.length) && (out.drop (out.length - n)).isPrefixOf s))).getD 0

namespace Hub

/-! ### Histories and drafts (R122, R123, R517) -/

/-- Tokens of a session sampled in steps in flight and not confirmed, oldest first. -/
def unconfirmed (h : Hub) (i : Handle) : List Samp :=
  let of (s : Option StepRun) : List Samp := match s with
    | none => []
    | some s => (s.runs.filter (fun r => r.h == i)).flatMap (·.samps)
  of h.grp.prev ++ of h.grp.cur

/-- A session's token history: committed tokens, then unconfirmed ones. -/
def history (h : Hub) (i : Handle) : List (BitVec 32) :=
  let x := h.s i
  x.log.take x.r.committed.toNat ++ (h.unconfirmed i).map (·.tok)

/-- The Runner's drafts (R517). -/
def runner (h : Hub) (i : Handle) : List (BitVec 32) :=
  let m := h.g F.RUNCTL_match_len
  let m := if 1 ≤ m ∧ m ≤ 4 then m else 3
  let win := max 64 (h.g F.RUNCTL_window)
  let hs := h.history i
  let c := hs.length
  if c ≤ m then []
  else
    let tail := hs.drop (c - m)
    match (List.range (c - m)).reverse.find? (fun j => decide (c ≤ j + win) && (hs.drop j).take m == tail) with
    | none => []
    | some j => (hs.drop (j + m)).take 7

/-- Drafts of a usable host buffer (R123); none where it is unusable. -/
def hostDrafts (h : Hub) (i : Handle) (q : StepReq) : Option (List (BitVec 32)) :=
  match q.buf with
  | some (some b) =>
    let n := field b 0 1
    if n ≤ 7 ∧ field b 1 3 = 0 ∧ field b 36 28 = 0 ∧ field b 4 4 = (h.history i).length then
      some ((List.range n).map (fun j => BitVec.ofNat 32 (field b (8 + 4 * j) 4)))
    else none
  | _ => none

/-- The draft tokens of an admission (R122, R123). DESIGN CHOICE (log 164): those that would run past the context limit are dropped. -/
def drafts (h : Hub) (i : Handle) (q : StepReq) (positions : Nat) : List (BitVec 32) :=
  let v := h.g F.HOPVOCAB_v
  let cut (l : List (BitVec 32)) : List (BitVec 32) := (l.takeWhile (fun t => decide (t.toNat < v)))
  let l := match q.draft.toNat with
    | 0 => []
    | 1 => cut (h.runner i)
    | 2 => cut ((h.hostDrafts i q).getD [])
    | _ =>
      let d := cut ((h.hostDrafts i q).getD [])
      if d.isEmpty then cut (h.runner i) else d
  l.take (min (min 8 (max 1 positions) - 1) (h.ctxLimit - (h.history i).length))

/-! ### Sampling a position (R109) -/

/-- What position `j` of a run samples: none where Bolter's allowed set is empty. DESIGN CHOICE (log 142): where the held bytes are all
released at ST_STOP_TOKEN or ST_MAX_TOKENS nothing is held on, so that matching starts afresh. -/
def samplePos (h : Hub) (r : Run) (z : List F32) : Option Samp :=
  let x := h.s r.h
  let q := x.stepReq.getD { n := 0, draft := 0, addr := 0 }
  let un := h.unconfirmed r.h ++ r.samps
  let v := h.g F.HOPVOCAB_v
  let gSt := (un.getLast?.map (·.gState)).getD x.r.gramState
  let stack := (un.getLast?.map (·.gStack)).getD x.stack
  let held := (un.getLast?.map (·.held)).getD x.held
  let g := if x.r.gramSlot = 0 then none else smLook h.im.grams x.r.gramSlot.toNat
  let moves := match g with
    | none => []
    | some g => movesOf g gSt stack v
  let allowed := if x.r.gramSlot = 0 then List.range v else (List.range v).filter (fun t => moves.any (fun m => m.tok.toNat == t))
  if allowed.isEmpty then none
  else
    let idx := x.r.committed + BitVec.ofNat 32 un.length
    let tok := sample z allowed x.r.temp x.r.topP x.r.topK x.r.seed idx
    let mv := moves.find? (fun m => m.tok.toNat == tok)
    let mark := (mv.map (·.mark)).getD 0
    let gSt := (mv.map (·.next)).getD gSt
    let stack := match mv with
      | some m => stackAfter stack m.act
      | none => stack
    let set := if x.r.stopSet = 0 then none else smLook h.im.stopSets x.r.stopSet.toNat
    let strs := (set.map (·.strs)).getD []
    let stopTok := ((set.map (·.toks)).getD []).contains (BitVec.ofNat 32 tok)
    let bytes := ((((h.model.map (·.vocab)).getD []).getD tok ([], false))).1
    let hit := if stopTok then none else feed strs held bytes bytes.length
    let out := held ++ bytes
    let turnNo := x.r.turn.toNat + un.length + 1
    let limit := (x.r.maxtok ≠ 0 ∧ x.r.maxtok.toNat ≤ turnNo) ∨ h.ctxLimit ≤ x.r.committed.toNat + un.length + 1
    let ends : Option (BitVec 8) :=
      if hit.isSome then some St.stopString
      else if stopTok || mark != 0 then some St.stopToken
      else if limit then some St.maxTokens
      else if q.got + un.length + 1 = q.n.toNat then some St.ok
      else none
    let base : Samp := { tok := BitVec.ofNat 32 tok, index := idx, stopHit := none, mark := mark, tokOff := 0, payload := []
                         disc := 0, ends := ends, gState := gSt, gStack := stack, held := [], rel := 0 }
    match hit with
    | some (k, l, n) =>
      let pay := out.take (held.length + n - l)
      some { base with stopHit := some (BitVec.ofNat 4 k), tokOff := BitVec.ofNat 8 n, payload := pay
                       disc := held.length - pay.length, rel := pay.length }
    | none =>
      if stopTok then some { base with payload := held, rel := held.length }
      else
        let hold := if ends = some St.stopToken ∨ ends = some St.maxTokens then 0 else holdLen strs out
        let pay := out.take (out.length - hold)
        some { base with payload := pay, held := out.drop (out.length - hold), rel := pay.length }

/-- Replace a run of the step in flight. -/
def setRun (h : Hub) (r : Run) : Hub :=
  { h with grp := { h.grp with cur := h.grp.cur.map (fun s =>
      { s with runs := s.runs.map (fun q => if q.h = r.h then r else q) }) } }

/-- Positions of a run in order: sample, append, check, verify (R109). -/
def gatherPos (h : Hub) (r : Run) : Nat → List (List F32) → Run
  | _, [] => { r with done := true }
  | j, z :: zs =>
    if r.k ≤ j then { r with done := true }
    else
      match h.samplePos r z with
      | none => { r with dead := true, done := true }
      | some s =>
        let r := { r with samps := r.samps ++ [s] }
        if s.ends.isSome || (decide (j + 1 < r.k) && r.inputs.getD (j + 1) 0 != s.tok) then { r with done := true }
        else gatherPos h r (j + 1) zs

end Hub

/-- GATHER: the owner has the logits of a session's positions (R109, R117, R380). -/
def execGather (t : Nt) (i : Handle) (logits : List (List F32)) (poison : Bool) : State → Host.Outcome State Fault Refusal :=
  onHub t (fun h =>
    match (h.grp.cur.map (fun s => s.runs.find? (fun r => r.h == i && !r.done))).getD none with
    | none => h
    | some r =>
      if poison || r.poison || (h.kvFault r.root (r.first.toNat + r.k)).isSome then h.setRun { r with poison := true, done := true }
      else
        let r := h.gatherPos r 0 logits
        let h := h.setRun r
        match r.samps.getLast?.map (·.ends) with
        | some none => h.readDraft i
        | some e => h.modS i (fun x => { x with stepReq := x.stepReq.map (fun q => { q with ended := e }) })
        | none => h)

/-- HOST_DRAFT_READ: the draft buffer's read returns (R123). DESIGN CHOICE (log 165): a device uses what has returned by its boundary frame;
what returns later serves the next admission. -/
def execHostDraftRead (t : Nt) (i : Handle) (ok : Bool) (data : Bytes) : State → Host.Outcome State Fault Refusal :=
  onHub t (fun h =>
    match (h.s i).stepReq with
    | none => h
    | some q =>
      if q.draft.toNat < 2 || q.buf.isSome || q.addr.toNat % 64 != 0 then h
      else
        let h := h.modS i (fun x => { x with stepReq := some { q with buf := some (if ok then some data else none) } })
        let h := { h with reads := h.reads.filter (fun e => e.2 != .draft i) }
        if ok then h else h.hstat F.HSTAT_rd_err)

end Sys2Proof.Machine
end

