-- ==== Sys2Proof/Machine/StepWork.lean ====
section
/-! DEFINITION. The work of steps and prefills at a boundary: retirement (R212, R213), turn starts (R101, R103), prefill
grains (R105 to R107, R156, R217), confirmation (R109 to R112, R117, R133, R380) and retracts (R385 to R388). -/

namespace Sys2Proof.Machine

namespace Hub

/-! ### Recomposition's hold (R172, R173) -/

/-- The image of a slot for the group that holds this device; a spare is in no group (R17, R169). -/
def planIn (h : Hub) (slot : Nat) : Option Plan :=
  if h.on F.HDEVIDX_spare then none
  else (smGet [] h.im.plans slot).find? (fun p => decide (p.base.toNat ≤ h.dev ∧ h.dev < p.base.toNat + p.n.toNat))

/-- The recomposition changes this device's group (R172). -/
def changes (h : Hub) (slot : Nat) : Bool :=
  match h.plan, h.planIn slot with
  | some a, some b => !(a.base == b.base && a.n == b.n && a.digest == b.digest)
  | none, none => false
  | _, _ => true

/-- From the effective NT of a recomposition that changes this device's group it admits nothing new until the switch (R173, R245). -/
def rcmpHolds (h : Hub) : Bool :=
  match h.rcmp with
  | none => false
  | some r => decide (r.eff ≤ h.nt) && !r.switched && h.changes r.slot.toNat

/-! ### Retirement of stones (R212, R213) -/

/-- The lowest physical stone of a die's spare pool. -/
def spareStone (h : Hub) (d : Nat) : Option Nat :=
  let mapped := (List.range 512).map (fun l => h.physOf (512 * d + l))
  (goodStones d).find? (fun p => !mapped.contains p && !h.retired.contains (d * 576 + p))

/-- Apply a retirement at a boundary. -/
def retireStone (h : Hub) (l : Nat) : Hub :=
  let d := l / 512
  match h.spareStone d with
  | none =>
    let h := h.p F.STONESTAT_nospare (h.g F.STONESTAT_nospare ||| 2 ^ d)
    (h.devEv 0x0102 d l).raiseFault 2
  | some p =>
    let old := h.physOf l
    let h := { h with retired := h.retired ++ [d * 576 + old] }
    let h := h.setReg (F.STONEMAP_phys.a + 4 * l) (BitVec.ofNat 64 (pairOf 16 p))
    let h := (h.pi F.STONESPARE_spares d (h.gi F.STONESPARE_spares d - 1)).pi F.STONESPARE_retired d
      (h.gi F.STONESPARE_retired d + 1)
    (h.inc F.STONEREMAPS_count).devEv 0x0101 d (l + p * 2 ^ 16)

/-- The retirements of a boundary: those that host software has named and those decided in a step, lower logical stones first (R213,
R214). -/
def retireAll (h : Hub) (ls : List (BitVec 11)) : Hub :=
  let ls := h.grp.retireQ ++ ls
  let h : Hub := { h with grp := { h.grp with retireQ := [] } }
  ((List.range 2048).filter (fun l => ls.any (fun x => x.toNat == l))).foldl (fun h l => h.retireStone l) h

/-! ### Turn start and prefill grains -/

/-- The adapter binding a PREFILL makes at `B` (R103): held, unavailable, or the pair bound (`none`: no adapter). -/
inductive Binding where
  | held
  | gone
  | bind (a : Option (BitVec 10 × BitVec 16))
deriving DecidableEq, Repr

/-- Resolve a PREFILL's adapter at the boundary (R103, R104). -/
def binding (h : Hub) (q : PfReq) : Binding :=
  let sl := smGet ({} : AdSlot) h.im.adapters q.slot.toNat
  let waits (v : BitVec 16) : Bool := sl.vers.any (fun a => a.ver == v && (match a.freeAt with
    | none => false
    | some f => decide (f ≤ h.nt)))
  if q.amode = 0 then .bind none
  else if q.amode = 1 then
    match h.adCurrent q.slot.toNat h.nt with
    | none => .gone
    | some v => if waits v.ver then .held else .bind (some (q.slot, v.ver))
  else if !h.adLive q.slot.toNat q.ver h.nt then .gone
  else if waits q.ver then .held
  else .bind (some (q.slot, q.ver))

/-- The mirror of a session goes to the handoff target (R182). -/
def sendMirror (h : Hub) (i : Handle) (toks : List (BitVec 32)) : Hub := h.send h.handoffTo (.mirror (h.mirrorOf i toks))

/-- A turn starts at the boundary (R101, R68, R80, R105); false where it is held or fails. -/
def turnStart (h : Hub) (i : Handle) (q : PfReq) : Bool × Hub :=
  let x := h.s i
  match h.binding q with
  | .held => (false, h)
  | .gone =>
    let dst := match x.blk with
      | some (.prefill d) => some (d, BitVec.ofNat 64 x.r.committed.toNat)
      | _ => none
    let h := (h.modS i (fun x => { x with pfReq := none })).trans i S.halted St.adapterGone 0x0060 0
    (false, (h.endInstr i dst St.adapterGone 0).settled i)
  | .bind a =>
    let h := h.flushHeld i
    let start := match smLook h.im.grams x.r.gramSlot.toNat with
      | none => 0
      | some g => g.start
    let kv := kvLenOf x.r
    let kv := if x.r.committed = 0 then 0 else kv
    let h := h.modS i (fun x => { x with
      relOff := 0, stack := []
      r := { x.r with turn := 0, gramState := start, gramDepth := 0, adBound := a.isSome
                      adSlot := (a.map (·.1)).getD 0, adVer := (a.map (·.2)).getD 0 } })
    let h := if (h.rootOf x.r).isSome then h
      else
        let root := h.rootIndex i
        ((h.releaseRoots root).makeRoots root x.share).modR i (fun r => r.setRoot root)
    let h := h.modRoots (h.rootIx (h.s i).r) (fun rt =>
      histPush rt kv ((a.map (fun v => v.1.toNat)).getD 0) ((a.map (fun v => v.2.toNat)).getD 0) a.isNone)
    let h := (h.trans i S.prefill St.ok 0x0010 x.pendIn.toNat).touch i
    let e := x.r.committed.toNat + x.pendIn.toNat
    let h := if kv = 0 then h.bindPrefix i e else h
    let bound := ((h.rootOf (h.s i).r).map (fun rt => rt.pfxBound.toNat)).getD 0
    let pos := if kv = 0 then 64 * bound else kv
    let q' := { q with started := true, pos := pos, conf := pos, fin := e - 1, grain := 0, first := pos }
    let h := h.modS i (fun x => { x with pfReq := some q' })
    (true, if h.on F.POOLCTL_mirror_en && h.inPrefill then h.sendMirror i [] else h)

/-- Positions a chunk of the plan holds. -/
def chunkSize (h : Hub) : Nat := max 64 ((h.plan.map (fun p => p.chunk.toNat)).getD 2048)

/-- The position at which the chunk that starts at `pos` ends; a recompute also ends one where a history entry begins
(R106, R156). -/
def chunkEnd (h : Hub) (i : Handle) (q : PfReq) : Nat :=
  let e := min q.fin (q.pos + h.chunkSize)
  if q.recompute then
    let firsts := match h.rootOf (h.s i).r with
      | none => []
      | some rt => (rt.hist.takeWhile histValid).map (fun (x : W64) => bitsOf x.toNat 31 0)
    firsts.foldl (fun m f => if q.pos < f ∧ f < m then f else m) e
  else e

/-- Grains of the chunk in progress; an empty range has a single commit grain (R105). -/
def chunkGrains (h : Hub) (q : PfReq) : Nat := if q.fin ≤ q.pos then 1 else max 1 ((h.plan.map (·.chunkGr)).getD 1)

/-- Grains of the chunk in progress that are still to run. DESIGN CHOICE (log 154): the chunks after it are not ready, since chunks run in
order (R106). -/
def grainsLeft (h : Hub) (q : PfReq) : Nat :=
  if q.fin < q.pos ∨ (q.pos = q.fin ∧ q.waiting) then 0 else h.chunkGrains q - q.grain

/-- Grains of a session's prefill that are ready (R107). Of a turn that has not started they are those its start would leave: its commit grain
alone where its range is empty or the prefix tree covers it (R80, R105), none where its binding is held or fails (R103). -/
def readyGrains (h : Hub) (i : Handle) : Nat :=
  let x := h.s i
  match x.pfReq with
  | none => 0
  | some q =>
    if x.r.omm || x.demote || !h.released then 0
    else if q.started then h.grainsLeft q
    else if h.rcmpHolds then 0
    else if q.recompute then h.grainsLeft q
    else if x.r.state == S.admitted || x.r.state == S.ready then
      let (ok, g) := h.turnStart i q
      if ok then ((g.s i).pfReq.map g.grainsLeft).getD 0 else 0
    else 0

/-! ### Prefill windows (R216 to R218) -/

/-- The prefill window of a partition opens with its slice: the mode is that of the register then (R218). -/
def openWindow (h : Hub) (p : Nat) : Hub :=
  if h.grp.opened.contains p then h
  else { h with grp := { h.grp with opened := h.grp.opened ++ [p], pModes := h.grp.pModes.set p (h.gi F.PARTCTL_mode p)
                                    unfin := h.grp.unfin.filter (· != p) } }

/-- A session of partition `p` whose chunk had grains in the step and is not finished. -/
def unfinished (h : Hub) (p : Nat) (i : Handle) : Bool :=
  let ran := (h.grp.cur.map (fun c => c.pfs.any (fun f => f.h == i && f.commit.isNone))).getD false
  ran && (h.s i).r.part.toNat == p && ((h.s i).pfReq.map (fun q => decide (0 < q.grain))).getD false

/-- The prefill window of a partition ends: an unfinished chunk is spilled or killed by its mode (R217). Whether one of another device of the
group is unfinished is outside this module: a free value (log 2). -/
def closeWindow (h : Hub) (p : Nat) : Hub :=
  let h := h.openWindow p
  if h.grp.closed.contains p then h
  else
    let h : Hub := { h with grp := { h.grp with closed := h.grp.closed ++ [p] } }
    let mine := h.handles.filter (h.unfinished p)
    if h.grp.pModes.getD p 0 = 0 then
      let (v, h) := if h.groupN ≤ 1 then ((0 : W64), h) else h.fresh
      let h := if mine.isEmpty && !v.getLsbD 0 then h else { h with grp := { h.grp with unfin := h.grp.unfin ++ [p] } }
      mine.foldl (fun h i => (h.modS i (fun x => { x with pfReq := x.pfReq.map (fun q => { q with spilled := true }) })).inc
        F.PRESPILL_count) h
    else
      mine.foldl (fun h i =>
        let n := ((h.s i).pfReq.map (·.grain)).getD 0
        ((h.modS i (fun x => { x with pfReq := x.pfReq.map (fun q => { q with grain := 0 }) })).inc F.PREKILL_count).inc
          F.PREKILLG_count n) h

/-- The step has ended, and every partition's prefill window with it (R215). -/
def closeWindows (h : Hub) : Hub :=
  match h.plan with
  | none => h
  | some p => if h.multiPart && h.grp.cur.isSome then ((layout p).map (·.part.toNat)).dedup.foldl closeWindow h else h

/-- A position of a recompute's chunk has an input that cannot be read from the log: the tokens at the positions computed (R160). -/
def badInput (x : Sess) (q : PfReq) (e : Nat) : Bool := q.recompute && x.logBad.any (fun k => decide (q.pos ≤ k) && decide (k < e))

/-- Run up to `n` granted grains of a session's prefill in the step that begins: grains used, and the step's part. DESIGN CHOICE (log 154):
where the frame reservation fails the turn has started and its grain does not run. -/
def runPrefill (h : Hub) (i : Handle) (n : Nat) : Nat × Option PfRun × Hub :=
  match (h.s i).pfReq with
  | none => (0, none, h)
  | some q0 =>
    let (ok, h) := if q0.started || q0.recompute then (true, h) else h.turnStart i q0
    match ok, (h.s i).pfReq with
    | true, some q =>
      let x := h.s i
      let e := h.chunkEnd i q
      let root := h.rootIx x.r
      let need := if q.grain = 0 && !q.recompute then h.need root q.pos (e - q.pos) else []
      match (if q.grain = 0 then h.reserve root need else some h) with
      | none => (0, none, { h with grp := { h.grp with resFail := true } })
      | some h =>
        let h := h.touch i
        let total := h.chunkGrains q
        let use := min n (total - q.grain)
        let q := { q with started := true, spilled := false }
        let poison := q.poison || badInput x q e || (h.kvFault root q.pos).isSome
        let part : PfRun := { h := i, commit := none, poison := poison, root := root, first := q.pos, count := e - q.pos }
        if q.grain + use = total then
          let q' := { q with pos := e, grain := 0, waiting := decide (e = q.fin), poison := poison }
          (use, some { part with commit := some e }, h.modS i (fun x => { x with pfReq := some q' }))
        else
          (use, some part, h.modS i (fun x => { x with pfReq := some { q with grain := q.grain + use, poison := poison } }))
    | _, _ => (0, none, h)

/-- The device's prefills that share a grant of `n` grains take it in order of handle (log 22). A PREFILL stamped at the boundary waits
for the next one (R521). DESIGN CHOICE (log 154): a turn whose binding fails needs no grain and ends at the boundary (R101, R103). -/
def grantPart (h : Hub) (sel : Handle → Bool) (n : Nat) : List PfRun × Hub :=
  let due (i : Handle) : Bool := ((h.s i).pfReq.map (fun q => q.started || q.recompute || decide (q.nt < h.nt))).getD false
  let hs := h.handles.filter (fun i => sel i && (h.s i).r.state != S.free && due i)
  let gone (h : Hub) (i : Handle) : Bool := match (h.s i).pfReq with
    | none => false
    | some q => !q.started && !q.recompute && h.released && !(h.s i).r.omm && !(h.s i).demote && !h.rcmpHolds
        && ((h.s i).r.state == S.admitted || (h.s i).r.state == S.ready) && h.binding q == .gone
  let h := hs.foldl (fun h i => if gone h i then (h.runPrefill i 0).2.2 else h) h
  let f (acc : Nat × List PfRun × Hub) (i : Handle) : Nat × List PfRun × Hub :=
    if acc.1 = 0 ∨ acc.2.2.readyGrains i = 0 then acc
    else
      let (u, r, h) := acc.2.2.runPrefill i acc.1
      (acc.1 - u, acc.2.1 ++ r.toList, h)
  let q := hs.foldl f (n, [], h)
  (q.2.1, q.2.2)

/-! ### Confirmation -/

/-- A session consumed poison below position `n`: held bytes go without record and it is FAULTED, with the byte offset of a bad entry as
data (R66, R380); its prefix nodes with a poisoned frame go at the next boundary (R82). -/
def poisonKill (h : Hub) (i : Handle) (n : Nat) : Hub :=
  let r := (h.s i).r
  let data := (h.kvFault (h.rootIx r) n).getD 0
  let h := { h with kv := { h.kv with badNodes := h.kv.badNodes ++ h.poisonedNodes r } }
  let h := h.modS i (fun x => { x with held := [], r := { x.r with held := 0 } })
  (h.faultSess i St.poisoned data).settled i

/-- The value of a STEP's destination (R258). -/
def stepDst (q : StepReq) : W64 := BitVec.ofNat 64 (q.got % 2 ^ 32 + q.mark.toNat * 2 ^ 32 + q.stop.toNat * 2 ^ 36)

/-- A STEP instruction completes. -/
def endStep (h : Hub) (i : Handle) (st : BitVec 8) : Hub :=
  let x := h.s i
  match x.stepReq with
  | none => h
  | some q =>
    let dst := match x.blk with
      | some (.step d) => some (d, stepDst q)
      | _ => none
    (h.modS i (fun x => { x with stepReq := none })).endInstr i dst st (q.got % 65536)

/-- One confirmed token: its stream record (R135, R137). -/
def confirmTok (h : Hub) (i : Handle) (s : Samp) (late : Bool) (fin : Option (BitVec 8)) : Hub :=
  let st := match fin with
    | some st => st
    | none => if late then St.deadlineLate else St.ok
  let h := h.inc F.TRDISC_count s.disc
  let h := if late then h.inc F.LATETOK_count else h
  h.stream i (if s.stopHit.isSome then 2 else 1) st fin.isSome late (s.stopHit.getD 0) s.mark s.tokOff s.index s.tok s.payload

/-- Whether a token that is confirmed is late: by its confirm NT (R120), but as it was where a rollback has made the device confirm it anew
(R142, log 145). -/
def lateTok (h : Hub) (r : Rec) (index : BitVec 32) : Bool :=
  match h.ck.lates.find? (fun e => e.1 == r.nsi && e.2.1 == index) with
  | some e => e.2.2
  | none => r.deadline != 0 && decide (r.deadline ≤ h.nt)

/-- A session's part of a step is confirmed (R109 to R112, R117, R120, R122). At ST_GRAMMAR_DEAD all held bytes are released, and
matching starts afresh (R133; DESIGN CHOICE, log 142). -/
def confirmRun (h : Hub) (r : Run) : Hub :=
  let x := h.s r.h
  if x.r.state != S.stepping || (h.rootIx x.r) != r.root then h
  else if r.poison then h.poisonKill r.h (r.first.toNat + r.k)
  else
    let a := r.samps.length
    let lates := r.samps.map (fun s => h.lateTok x.r s.index)
    let dl := x.r.dlate || lates.any id
    let told := (r.samps.zip lates).map (fun e => (x.r.nsi, e.1.index, e.2))
    let h : Hub := { h with ck := { h.ck with lates := h.ck.lates.filter (fun e => !told.any (fun n => n.1 == e.1 && n.2.1 == e.2.1)) ++ told } }
    let inFlight := (h.grp.cur.map (fun c => c.runs.any (fun q => q.h == r.h))).getD false
    let ending : Option (BitVec 8) :=
      match (r.samps.getLast?.map (·.ends)).getD none with
      | some st => if st = St.ok && dl then some St.deadlineLate else some st
      | none => if dl && !inFlight && !r.dead then some St.deadlineLate else none
    let last := r.samps.getLast?
    let h := h.modS r.h (fun x => { x with
      log := x.log.take x.r.committed.toNat ++ r.samps.map (·.tok) ++ x.log.drop x.r.committed.toNat
      logbuf := x.logbuf ++ r.samps.map (·.tok)
      stack := (last.map (·.gStack)).getD x.stack
      held := (last.map (·.held)).getD x.held
      stepReq := x.stepReq.map (fun q => { q with
        got := q.got + a, mark := (last.map (·.mark)).getD q.mark, stop := ((last.map (fun s => s.stopHit.getD 0))).getD q.stop })
      r := { x.r with
        dlate := dl, committed := x.r.committed + BitVec.ofNat 32 a, turn := x.r.turn + BitVec.ofNat 32 a
        stattok := x.r.stattok + BitVec.ofNat 64 a, steps := x.r.steps + 1
        gramState := (last.map (·.gState)).getD x.r.gramState
        gramDepth := (last.map (fun s => BitVec.ofNat 16 s.gStack.length)).getD x.r.gramDepth
        held := (last.map (fun s => BitVec.ofNat 7 s.held.length)).getD x.r.held } })
    let h := h.setKvLen r.root (x.r.committed.toNat + a - 1)
    let acc := if r.dead then a else a - 1
    let h := (h.inc F.DRAFTPROP_count (r.k - 1)).inc F.DRAFTACC_count acc
    let h := (r.samps.zipIdx).foldl (fun h e => h.confirmTok r.h e.1 (lates.getD e.2 false) (if e.2 + 1 = a then ending else none)) h
    let h := h.touch r.h
    if r.dead then
      let y := h.s r.h
      let h := h.stream r.h 4 St.grammarDead true false 0 0 0 y.r.committed 0xFFFFFFFF y.held
      let h := h.modS r.h (fun x => { x with held := [], r := { x.r with held := 0 } })
      let h := (h.trans r.h S.halted St.grammarDead 0x0060 0).inc F.GDEAD_count
      (((h.endStep r.h St.grammarDead).unreserve r.root).startFlush r.h).settled r.h
    else
      match ending with
      | none => if 1024 ≤ (h.s r.h).logbuf.length then h.startFlush r.h else h
      | some st =>
        let got := ((h.s r.h).stepReq.map (·.got)).getD 0
        let h := h.trans r.h S.ready st 0x0021 got
        (((h.endStep r.h st).unreserve r.root).startFlush r.h).settled r.h

/-- A chunk's commit is confirmed (R106); the last one ends the prefill (R37, R79) or the recompute (R156). -/
def confirmPf (h : Hub) (p : PfRun) : Hub :=
  let x := h.s p.h
  match x.pfReq with
  | none => h
  | some q =>
    if !(q.recompute && x.r.state == S.reviving) && !(!q.recompute && x.r.state == S.prefill) then h
    else
      match p.commit with
      | none => h
      | some pos =>
        if p.poison then h.poisonKill p.h p.first
        else if q.recompute then
          if pos = q.fin then (h.modS p.h (fun x => { x with pfReq := none })).endRevive p.h true
          else h.modS p.h (fun x => { x with pfReq := x.pfReq.map (fun q => { q with conf := pos }) })
        else
          let delta := pos + 1 - x.r.committed.toNat
          let h := h.modS p.h (fun x => { x with
            pendIn := BitVec.ofNat 32 (x.pendIn.toNat - delta), pfReq := some { q with conf := pos }
            r := { x.r with committed := BitVec.ofNat 32 (pos + 1) } })
          let h := h.setKvLen (h.rootIx x.r) pos
          if pos ≠ q.fin then h
          else
            let h := (h.trans p.h S.ready St.ok 0x0011 (pos + 1)).insertPrefix p.h q.first
            let dst := match x.blk with
              | some (.prefill d) => some (d, BitVec.ofNat 64 (pos + 1))
              | _ => none
            let h := (h.modS p.h (fun x => { x with pfReq := none })).endInstr p.h dst St.ok 0
            (h.unreserve (h.rootIx x.r)).settled p.h

/-- The chunks whose commit grain ran in a step and of which no GCOMMIT has come do not commit; they start again (R266, R268). DEDUCED
(log 155): every chunk has an id of its own, and the chunks of the step commit in the order of their grants. -/
def heedCommits (h : Hub) : Hub :=
  match h.grp.cur with
  | none => h
  | some c =>
    let n := ((h.grp.commits.filter (·.1)).map (·.2)).dedup.length
    let f (acc : Nat × List PfRun × Hub) (p : PfRun) : Nat × List PfRun × Hub :=
      if p.commit.isNone then (acc.1, acc.2.1 ++ [p], acc.2.2)
      else if acc.1 = 0 then (0, acc.2.1 ++ [{ p with commit := none }], acc.2.2.modS p.h (fun x => { x with pfReq := x.pfReq.map (fun q =>
        { q with grain := 0, waiting := false, poison := false, pos := q.conf }) }))
      else (acc.1 - 1, acc.2.1 ++ [p], acc.2.2)
    let r := c.pfs.foldl f (n, [], h)
    { r.2.2 with grp := { r.2.2.grp with cur := some { c with pfs := r.2.1 } } }

/-- The step before the one ending is confirmed: runs and prefill chunks in ascending handle (R79, R83). -/
def confirmStep (h : Hub) (s : StepRun) : Hub :=
  let g := s.runs.foldl (fun h r => h.confirmRun r) h
  (h.handles.flatMap (fun i => s.pfs.filter (fun p => p.h == i))).foldl (fun h p => h.confirmPf p) g

/-! ### Retract and replay (R385 to R388) -/

/-- A run as it was admitted. -/
def freshRun (r : Run) : Run := { r with samps := [], done := false, dead := false, poison := false }

/-- A prefill with a grain in a retracted step restarts its unconfirmed chunk (R386). -/
def restartPf (h : Hub) (p : PfRun) : Hub :=
  h.modS p.h (fun x => { x with pfReq := x.pfReq.map (fun q =>
    { q with grain := 0, waiting := false, poison := false, spilled := false, pos := q.conf }) })

/-- A replayed step begins: its sessions record REPLAY (R38). -/
def startReplay (h : Hub) (s : StepRun) (n : BitVec 2) : Hub :=
  let s' := { s with runs := s.runs.map freshRun, pfs := [], chunks := [], chkOk := true, replay := n, start := h.nt, retire := [] }
  let h := s'.runs.foldl (fun h r =>
    if (h.s r.h).r.state == S.stepping then
      (h.record r.h 0x0022 s.step.toNat).modR r.h (fun r => { r with replays := BitVec.ofNat 8 (satAdd 8 r.replays.toNat 1) })
    else h) h
  { (h.inc F.INTREPLAY_count) with grp := { h.grp with cur := some s' } }

/-- A retract boundary: steps s and s + 1 are discarded and replayed (R385 to R388). -/
def retract (h : Hub) (s s1 : StepRun) : Hub :=
  let n := h.grp.retracts + 1
  let h := { h with grp := { h.grp with retracts := n } }
  let h := h.retireAll (s.retire ++ s1.retire)
  let h := ((h.p F.MOLSTEP_step s.step.toNat).devEv 0x0108 4 s.step.toNat St.retracted.toNat).inc F.INTRETRACT_count
  if max 1 (h.g F.INTREPLAYMAX_count) ≤ n then h.raiseFault 7
  else
    let h := (s.pfs ++ s1.pfs).foldl (fun h p => h.restartPf p) h
    let h := (s.runs ++ s1.runs).foldl (fun h r =>
      h.modS r.h (fun x => { x with stepReq := x.stepReq.map (fun q => { q with ended := none }) })) h
    let h := { h with reasm := h.reasm.map (fun (e : Nat × List Frame) => (e.1, e.2.filter (fun f => !f.unconf)))
                      grp := { h.grp with prev := some { s1 with runs := s1.runs.map freshRun } } }
    h.startReplay s 1

end Hub

end Sys2Proof.Machine
end

