-- ==== Sys2Proof/Machine/Migrate.lean ====
section
/-! DEFINITION. Migration, ownership conflicts and prefill mirrors: the messages and timers of R171 to R185. -/

namespace Sys2Proof.Machine

namespace Hub

/-! ### The receiver -/

/-- A device of this device's own group. -/
def sameGroup (h : Hub) (d : BitVec 6) : Bool :=
  decide (h.g F.POOLROLE_base ≤ d.toNat ∧ d.toNat < h.g F.POOLROLE_base + h.g F.POOLROLE_size)

/-- The staged parts of a migration are discarded and its reservations released (R176). -/
def dropStaged (h : Hub) (sk : BitVec 128) : Hub :=
  match smLook h.migIn sk.toNat with
  | none => h
  | some m => ({ h with migIn := smDel h.migIn sk.toNat }).unreserve m.root

/-- Units of this device's Granary that the extent of an offer will take (R154, R176). -/
def offerUnits (h : Hub) (src : BitVec 6) (m : OfferMsg) : Nat :=
  if m.kvmode || h.sameGroup src || m.state != S.parked then 0 else cdiv (h.extentBytes m.kvLen.toNat true) unitBytes

/-- Space for the KV of an offer on this device (R74, R165, R176). -/
def offerSpace (h : Hub) (src : BitVec 6) (m : OfferMsg) (root : BitVec 32) : Option Hub :=
  if m.kvmode || h.sameGroup src then some h
  else if m.state == S.parked then (if h.grnRoom 1 (h.offerUnits src m) then some h else none)
  else
    h.reserve root (h.need root 0 m.kvLen.toNat)

/-- The reason of R177 for which an offer is refused, or the device with the reservations made. Whether the reservation on another
device of the group fails is outside this module: a free value (log 2). -/
def checkOffer (h : Hub) (src : BitVec 6) (m : OfferMsg) : BitVec 8 ⊕ (BitVec 32 × Hub) :=
  let window := (List.range 64).any (fun w =>
    h.gi F.CMDWIN_enable w == 1 && h.gi F.CMDWIN_partition w == m.part.toNat && h.gi F.CMDWIN_tenant w == m.tenant.toNat)
  let gOk := m.gram == 0 || (match smLook h.im.grams m.gram.toNat with
    | none => false
    | some g => g.digest == m.gramDig)
  let sOk := m.stop == 0 || (match smLook h.im.stopSets m.stop.toNat with
    | none => false
    | some s => Config.sha3 s.img == m.stopDig)
  if (h.findSk m.sk).isSome then .inl 1
  else
    match h.freeHandle with
    | none => .inl 2
    | some i =>
      if !gOk then .inl 3
      else if !sOk then .inl 4
      else if h.gi F.PARTCTL_present m.part.toNat ≠ 1 || !window then .inl 5
      else
        let root := h.rootIndex i
        match h.offerSpace src m root with
        | none => .inl 6
        | some h =>
          let (v, h) := if m.kvmode || h.sameGroup src || decide (h.groupN ≤ 1) then ((0 : W64), h) else h.fresh
          if v.getLsbD 0 then .inl 6 else .inr (root, h)

/-- Group positions that must report their shards before the install. -/
def shardsIn (h : Hub) (m : MigIn) : Bool :=
  !m.carries (h.sameGroup m.src) || (List.range h.groupN).all (fun q => m.from_.any (fun p => p.toNat == q))

/-- The KV parts staged for this device's shards. -/
def stagedExt (h : Hub) (m : MigIn) : List ExtShard :=
  let rootOf (sh : Nat) : Root := m.parts.foldl (fun r p => match p with
    | .root s kv head hist share full =>
      if s.toNat = sh ∨ (m.offer.map (·.kvmode)).getD false then
        { r with kvLen := kv, pages := BitVec.ofNat 32 (cdiv kv.toNat 64), head := head, hist := hist, share := share, histFull := full }
      else r
    | _ => r) {}
  let pieces (sh : Nat) (ring : Bool) : SMap (SMap Byte × Bool) := m.parts.foldl (fun t p => match p with
    | .piece s rg pg d po => if s.toNat = sh ∧ rg = ring then smPut t pg.toNat (d, po) else t
    | _ => t) []
  h.shards.map (fun sh => { shard := sh, root := rootOf sh, pages := pieces sh false, rings := pieces sh true })

/-- A root part is staged. -/
def hasRootPart (m : MigIn) : Bool := m.parts.any (fun p => match p with
  | .root _ _ _ _ _ _ => true
  | _ => false)

/-- The carried record (R33). -/
def stagedRec (m : MigIn) : Option Rec := m.parts.findSome? (fun p => match p with
  | .record b => some (Rec.ofBytes b)
  | _ => none)

/-- The carried session area (R149). -/
def stagedArea (m : MigIn) : Option (List (BitVec 16) × Bytes × Nat × BitVec 4) := m.parts.findSome? (fun p => match p with
  | .area st hb rel rest => some (st, hb, rel, rest)
  | _ => none)

/-- The carried token log with its pending count. -/
def stagedLog (m : MigIn) : Option (List (BitVec 32) × BitVec 32) := m.parts.findSome? (fun p => match p with
  | .tokenLog l n => some (l, n)
  | _ => none)

/-- A record that has just been installed resumes: a WAIT in progress blocks again, and every other context runs at its PC (R251). Where a
migration has moved it, a MIGRATE at its PC completes with the new NSI if that MIGRATE was the one executed; no part of a migration says
whether it was or whether a command was: a free value (R176, R258; log 24). -/
def resumeAt (h : Hub) (i : Handle) (moved : Bool) : Hub :=
  let x := h.s i
  let w := (h.prog i).getD x.r.pc.toNat 0
  if x.blk.isSome then h
  else if iw w 63 56 = 0x10 ∧ (x.r.waitMask ≠ 0 ∨ x.r.waitExp ≠ 0) then h.modS i (fun x => { x with blk := some (.wait (dstOf w)) })
  else if moved && iw w 63 56 == 0x22 then
    let (v, h) := h.fresh
    if v.getLsbD 0 then h.endInstr i (some (dstOf w, x.r.nsi)) St.ok 0 else h.ready i
  else h.ready i

/-- What an install takes: key, sender, old NSI, epoch, the sender's state, the carried parts. -/
structure Install where
  sk    : BitVec 128
  oldNsi : W64
  tenant : BitVec 24
  epoch : BitVec 16
  state : BitVec 4
  rest  : BitVec 4
  logonly : Bool
  r     : Rec
  stack : List (BitVec 16)
  held  : Bytes
  relOff : Nat
  log   : List (BitVec 32)
  pend  : BitVec 32
  share : Bool
  /-- the token log stands in this device's Granary already (R182) -/
  stored : Bool := false
deriving DecidableEq, Repr

/-- A record is allocated for an incoming session and claimed: FREE to MIGRATING to its state, MIGRATE_IN twice (R176,
R184); none without a FREE handle. The carried log counts as durable (log 116). A READY or WAITING session installed log-only is
armed from the claim (R43). -/
def install (h : Hub) (q : Install) : Option (Handle × Hub) :=
  match h.freeHandle with
  | none => none
  | some i =>
    let (g, h) := h.bumpGen i
    let nsi := nsiOf h.dev i g q.tenant
    let r := { q.r with nsi := nsi, state := S.free, omm := false, logonly := q.r.logonly || q.logonly }
    let r := r.setOwner (BitVec.ofNat 6 h.dev) q.epoch
    let t := h.nt
    let h := h.setS i { r := r, share := q.share, born := t, pendIn := q.pend, stack := q.stack, held := q.held
                        relOff := q.relOff, rest := q.rest, log := q.log, durable := BitVec.ofNat 32 q.log.length }
    let h := (h.trans i S.migrating St.ok 0x0051 q.oldNsi.toNat).modR i (fun r => { r with prior := q.state })
    let away := q.logonly && (q.state == S.ready || q.state == S.waiting)
    let h := h.trans i (if away then S.parked else q.state) St.ok 0x0051 q.oldNsi.toNat
    let h := if away then h.armTtl i else h
    let h := if q.stored then h.rekey (objKey 2 q.oldNsi.toNat) (objKey 2 nsi.toNat)
      else match h.grnLog (objKey 2 nsi.toNat) 0 q.log.length q.r.keygen with
        | none => h.p F.TIERSTAT_logblk 1
        | some h => (h.addDur 1 (4 * q.log.length) (.flush i 0)).modS i (fun x => { x with flushing := true })
    some (i, h)

/-- What follows an install: the program, an expiry already past, autorevive (R42, R155, R176). -/
def installed (h : Hub) (i : Handle) (moved : Bool) : Hub :=
  let h := h.resumeAt i moved
  if (h.s i).r.state == S.parked then h.parked i else h.settled i

/-- The extent of a PARKED session that has moved here within the group stays: it is its new owner's under its new NSI, its header rewritten
(R175). -/
def takeExtent (h : Hub) (i : Handle) (was : BitVec 32) : Hub :=
  let r := (h.s i).r
  let n := h.extentBytes (kvLenOf r) false
  match smLook h.gr.fext was.toNat with
  | none => h.modS i (fun x => { x with extent := some (n, false) })
  | some e =>
    let h := (h.rekey (objKey 1 e.nsi.toNat) (objKey 1 r.nsi.toNat)).modG (fun g => { g with fext := smDel g.fext was.toNat })
    h.modS i (fun x => { x with extent := some (n, false), exthdr := h.renamedHeader e.hdr r.nsi, kvx := e.exts })

/-- MIGRATE_IN at the receiver's boundary: allocate, install, claim, ACK (R176); an SK that has come into use here since the offer is
refused (R27, R177). In a move within the group the old root index goes by the sender's order at MIGRATE_DONE (R175, log 78). -/
def claim (h : Hub) (m : MigIn) (o : OfferMsg) (r : Rec) (a : List (BitVec 16) × Bytes × Nat × BitVec 4)
    (l : List (BitVec 32) × BitVec 32) : Hub :=
  let ext := h.stagedExt m
  let h := h.dropStaged o.sk
  let away := o.kvmode
  let share := (ext.head?.map (·.root.share)).getD false
  let q : Install := { sk := o.sk, oldNsi := o.nsi, tenant := o.tenant, epoch := o.epoch, state := o.state
                       rest := if away && o.state != S.parked then o.state else a.2.2.2, logonly := away, r := r
                       stack := a.1, held := a.2.1, relOff := a.2.2.1, log := l.1, pend := l.2, share := share }
  if (h.findSk o.sk).isSome then h.send m.src (.refuse o.sk 1)
  else match h.install q with
  | none => h.send m.src (.refuse o.sk 2)
  | some (i, h) =>
    let root := h.rootIndex i
    let was := rootIxAt (m.src.toNat - h.g F.POOLROLE_base) r
    let h := if h.sameGroup m.src && !away then
        if h.shards.any (fun sh => (h.root? was sh).isSome) then (h.copyRoots was root).modR i (fun x => x.setRoot root)
        else h.modR i (fun x => x.setRoot 0)
      else if hasRootPart m then
        let bare (x : ExtShard) : ExtShard := { x with pages := [], rings := [] }
        let h := h.modR i (fun x => x.setRoot root)
        let h := if o.state == S.parked && !away && !r.logonly then
            let n := h.extentBytes (kvLenOf r) true
            let h := (h.grnObject (objKey 1 (h.s i).r.nsi.toNat) 1 n r.keygen).getD h
            h.modS i (fun x => { x with extent := some (n, false), kvx := ext })
          else h
        ext.foldl (fun h x => h.installExt root (if away || o.state == S.parked then bare x else x)) h
      else h.modR i (fun x => x.setRoot 0)
    let h := if h.sameGroup m.src && !away && o.state == S.parked && !r.logonly then h.takeExtent i was else h
    let nsi := (h.s i).r.nsi
    let h := (h.inc F.MIGIN_count).send m.src (.ack o.sk o.epoch nsi)
    let h := if h.sameGroup m.src then h else { h with ck := { h.ck with claims := h.ck.claims ++ [({ sk := o.sk, src := m.src, epoch := o.epoch, nt := h.nt } : MigClaim)] } }
    h.installed i true

/-- The migrations whose every part has arrived, at a boundary of this device's group (R176). -/
def migBoundary (h : Hub) : Hub :=
  h.migIn.foldl (fun h e =>
    let m := e.2
    if !m.fin || !h.shardsIn m then h
    else
      match m.offer with
      | none =>
        let ext := h.stagedExt m
        ext.foldl (fun h x => h.installExt m.root x) (h.dropStaged (BitVec.ofNat 128 e.1))
      | some o =>
        match stagedRec m, stagedArea m, stagedLog m with
        | some r, some a, some l => h.claim m o r a l
        | _, _, _ => h) h

/-- Completions of boundary frames are noted (R176, R227). -/
def noteDones (h : Hub) (fs : List BFrame) : Hub :=
  { h with migIn := h.migIn.map (fun (e : Nat × MigIn) =>
      (e.1, { e.2 with from_ := e.2.from_ ++ (fs.filter (fun f => f.dones.any (fun d => d.1 == e.2.root))).map (·.pos) })) }

/-! ### The sender -/

/-- The device of the group of `target` that runs a logical shard. -/
def holderOf (h : Hub) (target : BitVec 6) (sh : Nat) : BitVec 6 :=
  match (smGet [] h.im.plans (h.g F.POOLPLAN_active)).find? (fun p =>
      decide (p.base.toNat ≤ target.toNat ∧ target.toNat < p.base.toNat + p.n.toNat)) with
  | none => target
  | some p => BitVec.ofNat 6 (p.base.toNat + sh / (64 / max 1 p.n.toNat))

/-- The parts of R175 go out, this device's shards among them. -/
def sendParts (h : Hub) (i : Handle) (m : MigOut) : Hub :=
  let x := h.s i
  let sk := x.r.sk
  let to_ (d : BitVec 6) (h : Hub) (b : PartBody) : Hub := h.send d (.part sk b)
  let h := to_ m.target h (.record x.r.bytes)
  let h := to_ m.target h (.area x.stack x.held x.relOff x.rest)
  let h := to_ m.target h (.tokenLog x.log x.pendIn)
  let cross := !h.sameGroup m.target
  let src := if x.kvx.isEmpty then h.capture (h.rootIx x.r) else x.kvx
  let src := if m.kvmode then src.take 1 else if cross then src else []
  let h := src.foldl (fun h e =>
    let d := if m.kvmode then m.target else h.holderOf m.target e.shard
    let sh := BitVec.ofNat 6 e.shard
    let h := to_ d h (.root sh e.root.kvLen e.root.head e.root.hist e.root.share e.root.histFull)
    if m.kvmode then h
    else
      let h := e.pages.foldl (fun h p => to_ d h (.piece sh false (BitVec.ofNat 32 p.1) p.2.1 p.2.2)) h
      let h := e.rings.foldl (fun h p => to_ d h (.piece sh true (BitVec.ofNat 32 p.1) p.2.1 p.2.2)) h
      if d = m.target then h else to_ d h .fin) h
  to_ m.target h .fin

/-- The root index of a handle that another device of this device's group owns (R63). -/
def rootAt (h : Hub) (d : BitVec 6) (i : Handle) : BitVec 32 := BitVec.ofNat 32 ((d.toNat - h.g F.POOLROLE_base) * 2 ^ 18 + i.toNat)

/-- The extent of a PARKED session that has moved away within the group stays here under the new NSI and root index, its header rewritten
(R175). -/
def leaveExtent (h : Hub) (x : Sess) (root : BitVec 32) (nsi : W64) : Hub :=
  if x.extent.isNone then h
  else
    let h := h.rekey (objKey 1 x.r.nsi.toNat) (objKey 1 nsi.toNat)
    let e : FExt := { nsi := nsi, keygen := x.r.keygen, hdr := h.renamedHeader x.exthdr nsi, exts := x.kvx, done := true }
    h.modG (fun g => { g with fext := smPut g.fext root.toNat e })

/-- The sender's record leaves on ACK (R176, step 5). KV of a same-group migration stays under the new root index (R175). -/
def migDone (h : Hub) (i : Handle) (m : MigOut) (nsi : W64) : Hub :=
  let x := h.s i
  let kv := if x.kvx.isEmpty then h.capture (h.rootIx x.r) else x.kvx
  let stays := h.sameGroup m.target && !m.kvmode && (h.rootOf x.r).isSome
  let h := h.trans i S.free St.ok 0x0052 nsi.toNat
  let h := if stays then h.copyRoots (h.rootIx x.r) (h.rootAt m.target (nsiHandle nsi)) else h
  let h := ((h.releaseRoots (h.rootIx x.r)).unreserve (h.rootIx x.r)).unlink i
  let h := if h.sameGroup m.target && !m.kvmode then h.leaveExtent x (h.rootAt m.target (nsiHandle nsi)) nsi else h.dropExtent i
  let h := (h.grnRelease (objKey 2 x.r.nsi.toNat)).dropDurs i
  let h := (h.inc F.MIGOUT_count).migRecord x.r m.sub St.ok 0 nsi
  let h := x.actions.foldl (fun h c => h.complete c St.staleNsi 0 c.line.nsi) h
  let h := (List.range 16).foldl (fun h b => if x.queued.getLsbD b then h.send m.target (.event nsi (BitVec.ofNat 4 b)) else h) h
  let t := h.nt
  let h := if h.sameGroup m.target then h else { h with ck := { h.ck with sends := h.ck.sends ++ [({ sess := x, target := m.target, nsi := nsi, nt := t, kv := kv } : MigSend)] } }
  h.setS i { fwd := nsi }

/-- MIGPROBE in ns. -/
def migProbe (h : Hub) : Nat := max 100 (h.g F.MIGPROBE_us) * 1000

/-- A PROBE goes out and the next one falls due. -/
def sendProbe (h : Hub) (i : Handle) (d : BitVec 6) : Hub :=
  let t := BitVec.ofNat 64 (h.nt.toNat + h.migProbe)
  let r := (h.s i).r
  (h.modS i (fun x => { x with probe := some (d, t) })).send d (.probe r.sk r.ownEpoch)

/-- The session of this device that is migrating to `src` under a key. -/
def outTo (h : Hub) (src : BitVec 6) (sk : BitVec 128) : Option (Handle × MigOut) :=
  match h.findSk sk with
  | none => none
  | some i =>
    match (h.s i).migOut with
    | none => none
    | some m => if m.target = src then some (i, m) else none

/-- The last part of a migration still waits to leave. -/
def partsQueued (h : Hub) (sk : BitVec 128) (target : BitVec 6) : Bool :=
  h.sl.dyn.any (fun e => e.2.any (fun x => match x.load with
    | .msg d _ (.part k .fin) => d == target && k == sk
    | _ => false))

/-- The session of this device that is migrating into the group of `src` under a key. -/
def outBeside (h : Hub) (src : BitVec 6) (sk : BitVec 128) : Option (Handle × MigOut) :=
  match h.findSk sk with
  | none => none
  | some i =>
    match (h.s i).migOut with
    | none => none
    | some m => if (List.range 64).any (fun s => h.holderOf m.target s == src) then some (i, m) else none

/-- A message says that another device holds an SK of this device under an epoch: a newer one is a mismatch (R180). -/
def otherHolder (h : Hub) (sk : BitVec 128) (e : BitVec 16) : Hub :=
  match h.findSk sk with
  | none => h
  | some i => if newer 16 e.toNat (h.s i).r.ownEpoch.toNat && !(h.s i).r.omm then h.ownerMismatch i e else h

/-! ### Mirrors and EVACUATE (R182 to R184) -/

/-- A mirrored session is adopted (R184). DESIGN CHOICE (log 154): without a FREE handle it is skipped and its mirror kept. A record of its SK under an older epoch goes as under RELEASE (R181, log 118). The root
entry at its new index holds the history for the recompute (R185). -/
def adopt (h : Hub) (m : Mirror) : Hub :=
  let r := Rec.ofBytes m.m.image
  let e := r.ownEpoch + 1
  let old := h.findSk r.sk
  let held := match old with
    | none => false
    | some i => !newer 16 e.toNat (h.s i).r.ownEpoch.toNat
  if held || r.sk = 0 then h
  else
    let h := match old with
      | none => h
      | some i =>
        let a := (h.s i).actions
        a.foldl (fun h c => h.complete c St.staleNsi 0 c.line.nsi) (h.dropSess i true)
    let fresh := r.state == S.admitted
    let st := if fresh then S.admitted else S.parked
    let q : Install := { sk := r.sk, oldNsi := r.nsi, tenant := r.tenant, epoch := e, state := st
                         rest := m.m.rest, logonly := !fresh, r := { r with logonly := !fresh }, stack := m.m.stack, held := m.m.held
                         relOff := m.m.relOff, log := m.m.toks, pend := m.m.pend, share := m.m.share, stored := true }
    match h.install q with
    | none => h
    | some (i, h) =>
      let used := !(m.m.hist.takeWhile histValid).isEmpty
      let root := h.rootIndex i
      let kv := kvLenOf r
      let rt : Root := { kvLen := BitVec.ofNat 32 kv, pages := BitVec.ofNat 32 (cdiv kv 64), share := m.m.share, hist := m.m.hist, histFull := m.m.histFull }
      let h := h.modR i (fun x => x.setRoot (if used then root else 0))
      let h := if used then h.shards.foldl (fun h sh => h.installExt root { shard := sh, root := rt }) h else h
      let h := { h with mirrors := smDel h.mirrors r.sk.toNat }
      let y := (h.s i).r
      let h := (h.migRecord r none St.ok 0 y.nsi).inc F.POOLADOPT_count
      (h.send m.src (.release r.sk e)).installed i false

end Hub

/-! ### The commands -/

/-- OFFER (R176, R177, R180). DESIGN CHOICE (log 119): a second OFFER of an SK discards what is
staged of it with its reservation and starts anew. -/
def execOffer (t : Nt) (src : BitVec 6) (m : OfferMsg) : State → Host.Outcome State Fault Refusal :=
  onHub t (fun h =>
    let h := h.otherHolder m.sk (m.epoch - 1)
    let h := h.dropStaged m.sk
    match h.checkOffer src m with
    | .inl reason =>
      let h := if reason = 6 then h.fresh.2 else h
      let h := if reason = 6 ∧ h.on F.TIERCTL_evict_en then { h with grp := { h.grp with evicting := true } } else h
      h.send src (.refuse m.sk reason)
    | .inr (root, h) =>
      let n := h.nt
      let u := h.offerUnits src m
      ({ h with migIn := smPut h.migIn m.sk.toNat { src := src, offer := some m, root := root, units := u, lastNt := n } }).send src (.accept m.sk))

/-- ACCEPT (R176): an ACCEPT that meets no migration waiting for it is ignored. The time for the ACK begins as the last part leaves. -/
def execAccept (t : Nt) (src : BitVec 6) (sk : BitVec 128) : State → Host.Outcome State Fault Refusal :=
  onHub t (fun h =>
    match h.outTo src sk with
    | none => h
    | some (i, m) =>
      if m.answered then h
      else
        let due := BitVec.ofNat 64 (h.nt.toNat + h.migTmo)
        (h.sendParts i m).modS i (fun x => { x with migOut := some { m with answered := true, due := due } }))

/-- REFUSE (R177): of the receiver, or of a device of its group whose part has failed its check. -/
def execRefuse (t : Nt) (src : BitVec 6) (sk : BitVec 128) (reason : BitVec 8) : State → Host.Outcome State Fault Refusal :=
  onHub t (fun h =>
    match (h.outTo src sk).or (if reason = 0x0A then h.outBeside src sk else none) with
    | none => h
    | some (i, _) => (h.abortMig i reason.toNat).settled i)

/-- PART (R175 to R177): a part whose check fails ends the migration with reason 0x0A. A device that is neither sender nor receiver takes
its shards under a free root index (log 149). -/
def execPart (t : Nt) (src : BitVec 6) (sk : BitVec 128) (body : PartBody) (crcOk : Bool) :
    State → Host.Outcome State Fault Refusal :=
  onHub t (fun h =>
    let kv := match body with
      | .record _ => false
      | .area _ _ _ _ => false
      | .tokenLog _ _ => false
      | _ => true
    let known := (smLook h.migIn sk.toNat).isSome
    if !crcOk then
      let h := h.inc F.MOLMSGDROP_count
      match (smLook h.migIn sk.toNat).map (·.offer) with
      | some (some o) => (h.dropStaged sk).send ((smLook h.migIn sk.toNat).map (·.src) |>.getD src) (.refuse o.sk 0x0A)
      | _ => (h.dropStaged sk).send src (.refuse sk 0x0A)
    else if !known && !(kv && h.groupN != 1 && (h.findSk sk).isNone) then h
    else
      let (v, h) := if known then (0, h) else h.fresh
      let m : MigIn := (smLook h.migIn sk.toNat).getD { src := src, offer := none, root := v.setWidth 32, lastNt := h.nt }
      let n := h.nt
      let isFin := match body with
        | .fin => true
        | _ => false
      let (v, h) := if isFin then h.fresh else (0, h)
      { h with migIn := smPut h.migIn sk.toNat { m with
          parts := if isFin then m.parts else m.parts ++ [body], fin := m.fin || isFin, lastNt := n
          id := if isFin then v.setWidth 32 else m.id } })

/-- ACK (R176). One that ends no migration says that its sender holds the SK (R180). -/
def execAck (t : Nt) (src : BitVec 6) (sk : BitVec 128) (epoch : BitVec 16) (nsi : W64) :
    State → Host.Outcome State Fault Refusal :=
  onHub t (fun h =>
    match h.outTo src sk with
    | none => h.otherHolder sk epoch
    | some (i, m) => if epoch = (h.s i).r.ownEpoch + 1 then h.migDone i m nsi else h.otherHolder sk epoch)

/-- PROBE (R180): the answer, and what the device learns from the epoch named. -/
def execProbe (t : Nt) (src : BitVec 6) (sk : BitVec 128) (epoch : BitVec 16) : State → Host.Outcome State Fault Refusal :=
  onHub t (fun h =>
    match h.findSk sk with
    | none => h.send src (.probeReply sk none)
    | some i =>
      let own := (h.s i).r.ownEpoch
      let h := if own != epoch && !(h.s i).r.omm then h.ownerMismatch i epoch else h
      h.send src (.probeReply sk (some own)))

/-- PROBE_REPLY (R180). One that no probe waits for says that its sender holds the SK. -/
def execProbeReply (t : Nt) (src : BitVec 6) (sk : BitVec 128) (held : Option (BitVec 16)) :
    State → Host.Outcome State Fault Refusal :=
  onHub t (fun h =>
    match h.findSk sk with
    | none => h
    | some i =>
      let x := h.s i
      if (x.probe.map (·.1)) ≠ some src then (match held with
        | none => h
        | some e => h.otherHolder sk e)
      else
        let win := match held with
          | none => true
          | some e => !newer 16 e.toNat x.r.ownEpoch.toNat
        if win then (h.modS i (fun x => { x with probe := none, seen := 0, r := { x.r with omm := false, lastStatus := St.ok } })).settled i
        else h.modS i (fun x => { x with probe := none, seen := held.getD 0 }))

/-- RELEASE (R181): held while the record is MIGRATING. -/
def execRelease (t : Nt) (_src : BitVec 6) (sk : BitVec 128) (epoch : BitVec 16) : State → Host.Outcome State Fault Refusal :=
  onHub t (fun h =>
    match h.findSk sk with
    | none => h
    | some i =>
      if newer 16 epoch.toNat (h.s i).r.ownEpoch.toNat then
        let e := match (h.s i).relHeld with
          | none => epoch
          | some f => if newer 16 epoch.toNat f.toNat then epoch else f
        (h.modS i (fun x => { x with relHeld := some e })).settled i
      else h)

/-- EVENT (R49, R178): delivered to the record its NSI names, forwarded where the handle holds a forwarding NSI, or
discarded. -/
def execEvent (t : Nt) (_src : BitVec 6) (nsi : W64) (bit : BitVec 4) : State → Host.Outcome State Fault Refusal :=
  onHub t (fun h =>
    let i := nsiHandle nsi
    if nsiDev nsi ≠ h.dev ∨ smGet 0 h.gens i.toNat ≠ nsiGen nsi then h
    else if (h.s i).r.state != S.free then (h.deliver i bit.toNat).settled i
    else if (h.s i).fwd != 0 then h.send (BitVec.ofNat 6 (nsiDev (h.s i).fwd)) (.event (h.s i).fwd bit)
    else h)

/-- MIRROR (R182): a handoff target stores the mirror; a sender whose intake waits for it completes (log 25). -/
def execMirror (t : Nt) (src : BitVec 6) (m : MirrorMsg) : State → Host.Outcome State Fault Refusal :=
  onHub t (fun h =>
    let r := Rec.ofBytes m.image
    match h.findSk r.sk with
    | some i =>
      let h := if src = r.ownDev then h.otherHolder r.sk r.ownEpoch else h
      match h.durs.find? (fun e => match e.2 with
        | .intakeMirror j _ _ => j == i
        | _ => false) with
      | some (id, .intakeMirror _ c toks) => ({ h with durs := smDel h.durs id }).landIntake i c toks
      | _ => h
    | none =>
      match h.grnLog (objKey 2 r.nsi.toNat) 0 m.toks.length r.keygen with
      | none => h.p F.TIERSTAT_logblk 1
      | some h =>
        { h with mirrors := smPut h.mirrors r.sk.toNat ⟨src, m⟩ }.addDur 1 (4 * m.toks.length) (.mirror r.sk))

/-- ACK_TIMEOUT (R176, R180). -/
def execAckTimeout (t : Nt) (i : Handle) : State → Host.Outcome State Fault Refusal :=
  onHub t (fun h =>
    match (h.s i).migOut with
    | none => h
    | some m =>
      if !m.answered || h.partsQueued (h.s i).r.sk m.target || decide (h.nt < m.due) then h
      else
        let e := (h.s i).r.ownEpoch
        let h := (h.abortMig i 7).ownerMismatch i (e + 1)
        (h.sendProbe i m.target).settled i)

/-- OFFER_TIMEOUT (R176). -/
def execOfferTimeout (t : Nt) (i : Handle) : State → Host.Outcome State Fault Refusal :=
  onHub t (fun h =>
    match (h.s i).migOut with
    | none => h
    | some m => if m.answered || decide (h.nt < m.due) then h else (h.abortMig i 8).settled i)

/-- STAGING_TIMEOUT (R176). -/
def execStagingTimeout (t : Nt) (sk : BitVec 128) : State → Host.Outcome State Fault Refusal :=
  onHub t (fun h =>
    match smLook h.migIn sk.toNat with
    | none => h
    | some m => if m.lastNt.toNat + h.migTmo ≤ h.nt.toNat then h.dropStaged sk else h)

/-- PROBE_INTERVAL (R180). -/
def execProbeInterval (t : Nt) (sk : BitVec 128) : State → Host.Outcome State Fault Refusal :=
  onHub t (fun h =>
    match h.findSk sk with
    | none => h
    | some i =>
      match (h.s i).probe with
      | none => h
      | some (d, due) => if h.nt < due then h else h.sendProbe i d)

/-- EVACUATE (R183, R184). Whether another pool is in group fault is outside this module: a free value (log 2). -/
def execEvacuate (t : Nt) (w : BitVec 8) (l : CmdLine) : State → Host.Outcome State Fault Refusal :=
  onHub t (fun h => h.line w 0x19 l (fun c h =>
    let b := l.opd 32 1
    let plan := (smGet [] h.im.plans (h.g F.POOLPLAN_active)).find? (fun p => p.base.toNat == b)
    let (v, h) := h.fresh
    let isPool := match plan with
      | none => false
      | some p => p.role == 2
    let fault := if b = h.g F.POOLROLE_base ∧ h.g F.POOLROLE_size ≠ 0 then h.faulted else v.getLsbD 0
    if !isPool || !fault then h.complete c St.badState
    else if !h.inDecode then h.complete c St.ok
    else
      let inPool (d : BitVec 6) : Bool := match plan with
        | none => false
        | some p => decide (b ≤ d.toNat ∧ d.toNat < b + p.n.toNat)
      let gone := (h.migIn.filter (fun e => inPool e.2.src)).map (·.1)
      let h := gone.foldl (fun h k => h.dropStaged (BitVec.ofNat 128 k)) h
      let h := (h.mirrors.filter (fun e => inPool e.2.src)).foldl (fun h e => h.adopt e.2) h
      h.complete c St.ok))

end Sys2Proof.Machine
end

