-- ==== Sys2Proof/Machine/Pools.lean ====
section
/-! DEFINITION. Adapter loads and frees across the node (R102, R104), recomposition and the activation of a plan set
(R57, R172 to R174, R215). -/

namespace Sys2Proof.Machine

namespace Hub

/-! ### Adapters -/

/-- Every other device of the node, active and spare. -/
def peers (h : Hub) : List (BitVec 6) :=
  ((List.range (h.g F.NFNODE_active + h.g F.NFNODE_spares)).filter (fun d => d != h.dev)).map (BitVec.ofNat 6)

/-- Send to every other device. -/
def sendAll (h : Hub) (m : Msg) : Hub := h.peers.foldl (fun h d => h.send d m) h

/-- A slot of adapters. -/
def adSlot (h : Hub) (k : Nat) : AdSlot := smGet {} h.im.adapters k

/-- Replace a slot. -/
def setAd (h : Hub) (k : Nat) (x : AdSlot) : Hub := { h with im := { h.im with adapters := smSet {} h.im.adapters k x } }

/-- Change a version of a slot. -/
def modVer (h : Hub) (k : Nat) (v : BitVec 16) (f : AdVer → AdVer) : Hub :=
  h.setAd k { h.adSlot k with vers := (h.adSlot k).vers.map (fun a => if a.ver = v then f a else a) }

/-- A version of a slot. -/
def adVer? (h : Hub) (k : Nat) (v : BitVec 16) : Option AdVer := (h.adSlot k).vers.find? (fun a => a.ver == v)

/-- The device's own index as a field. -/
def me (h : Hub) : BitVec 6 := BitVec.ofNat 6 h.dev

/-- The first NT multiple of 1 ms at least 2 ms from now (R102, R104). -/
def afterTwoMs (h : Hub) : Nt := BitVec.ofNat 64 (cdiv (h.nt.toNat + 2000000) 1000000 * 1000000)

/-- The Granary key of an adapter version. -/
def adKey (k : Nat) (v : BitVec 16) : Nat := objKey 5 (2 ^ 40 + k * 65536 + v.toNat)

/-- A device stages a version: its image goes to the Granary (R102); none without space. -/
def stageAd (h : Hub) (k : Nat) (x : AdVer) : Option Hub :=
  match h.grnObject (adKey k x.ver) 5 x.image.length 0 with
  | none => none
  | some h =>
    let h := h.addDur 4 x.image.length (.staged (BitVec.ofNat 10 k) x.ver x.coord)
    let s := h.adSlot k
    some (h.setAd k { s with vers := s.vers ++ [x], last := x.ver })

/-- A load that this device coordinates begins (R102). DESIGN CHOICE (log 166): a version whose commit NT has not come yet is one of the four
live versions. -/
def startLoad (h : Hub) (k : Nat) (c : Sub) (sv : BitVec 32) (img : Bytes) : Hub :=
  let s := h.adSlot k
  if 4 ≤ s.vers.length then h.complete c St.adapterBusy
  else
    let v : BitVec 16 := if s.last = 0xFFFF then 1 else s.last + 1
    match h.stageAd k { ver := v, commit := none, coord := h.me, sub := some c, secver := sv, image := img } with
    | none => h.complete c St.granaryFull
    | some h => h.sendAll (.adapter (.image (BitVec.ofNat 10 k) v sv img))

/-- An adapter image has been read and verified (R102): it starts, or is held behind a load without commit NT. -/
def loadAd (h : Hub) (k : Nat) (c : Sub) (sv : BitVec 32) (img : Bytes) : Hub :=
  let s := h.adSlot k
  if s.vers.any (fun a => a.commit.isNone) || !s.heldLoads.isEmpty then h.setAd k { s with heldLoads := s.heldLoads ++ [(c, sv, img)] }
  else h.startLoad k c sv img

/-- The loads held behind one whose commit NT is fixed go on, until one of them waits for its own (R102). -/
def resumeLoads (h : Hub) (k : Nat) : Nat → Hub
  | 0 => h
  | fuel + 1 =>
    match (h.adSlot k).heldLoads with
    | [] => h
    | (q, sv, img) :: rest =>
      if (h.adSlot k).vers.any (fun a => a.commit.isNone) then h
      else resumeLoads ((h.setAd k { h.adSlot k with heldLoads := rest }).startLoad k q sv img) k fuel

/-- The commit NT of a version is known: it will replace the current version (R102). -/
def setCommit (h : Hub) (k : Nat) (v : BitVec 16) (c : Nt) : Hub :=
  match h.adVer? k v with
  | none => h
  | some x =>
    let s := h.adSlot k
    let h := h.setAd k { s with vers := s.vers.map (fun a =>
      if a.ver = v then { a with commit := some c }
      else if a.commit.isSome && a.ended.isNone then { a with ended := some c, coord := x.coord } else a) }
    h.resumeLoads k (h.adSlot k).heldLoads.length

/-- A device has staged a load: with the last report the coordinator fixes the commit NT (R102). -/
def stagedBy (h : Hub) (k : Nat) (v : BitVec 16) (d : BitVec 6) : Hub :=
  let h := h.modVer k v (fun a => { a with staged := if a.staged.contains d then a.staged else a.staged ++ [d] })
  match h.adVer? k v with
  | none => h
  | some x =>
    if x.commit.isNone && (h.me :: h.peers).all (fun p => x.staged.contains p) then
      let c := h.afterTwoMs
      (h.sendAll (.adapter (.commit (BitVec.ofNat 10 k) v c))).setCommit k v c
    else h

/-- The sessions this device owns hold a binding of a version (R104); one in migration counts on its sender. -/
def holdsAd (h : Hub) (k : Nat) (v : BitVec 16) : Bool :=
  h.anyRec (fun r => r.adBound && r.adSlot.toNat == k && r.adVer == v)

/-- A binding report reaches the coordinator; when every device's latest shows none, a free NT is proposed (R104). -/
def bindReport (h : Hub) (k : Nat) (v : BitVec 16) (d : BitVec 6) (bound : Bool) : Hub :=
  let h := h.modVer k v (fun a => { a with reports := (d, bound) :: a.reports.filter (fun r => r.1 != d) })
  match h.adVer? k v with
  | none => h
  | some x =>
    if x.freeAt.isNone && x.ended.isSome && (h.me :: h.peers).all (fun p => x.reports.contains (p, false)) then
      let f := h.afterTwoMs
      (h.sendAll (.adapter (.propose (BitVec.ofNat 10 k) v f))).modVer k v (fun a => { a with freeAt := some f })
    else h

/-- This device's report of a version goes to its coordinator (R104). -/
def reportAd (h : Hub) (k : Nat) (x : AdVer) : Hub :=
  let b := h.holdsAd k x.ver
  if x.coord = h.me then h.bindReport k x.ver h.me b else h.send x.coord (.adapter (.binding (BitVec.ofNat 10 k) x.ver b))

/-- Reports of every version that is no longer current, at a boundary (R104). -/
def reportAds (h : Hub) : Hub :=
  h.im.adapters.foldl (fun h e => (e.2.vers.filter (fun a => match a.ended with
    | none => false
    | some t => decide (t ≤ h.nt))).foldl (fun h a => h.reportAd e.1 a) h) h

/-- A proposal is resolved: the version is freed, or the coordinator starts again (R104). -/
def resolveAd (h : Hub) (k : Nat) (v : BitVec 16) (freed : Bool) : Hub :=
  if freed then
    let s := h.adSlot k
    (h.setAd k { s with vers := s.vers.filter (fun a => a.ver != v) }).grnRelease (adKey k v)
  else h.modVer k v (fun a => { a with freeAt := none, reports := [], counts := [], counted := false })

/-! ### Recomposition (R172 to R174) -/

/-- A plan slot is complete: one image for each of the groups its header names, all with one set_id (R223). -/
def planSetOk (ps : List Plan) : Bool :=
  match ps with
  | [] => false
  | p :: _ => ps.length == p.groups.toNat && ps.all (fun q => q.setId == p.setId)

/-- The command of a recomposition ends. -/
def rcmpEnd (h : Hub) (st : BitVec 8) : Hub :=
  match h.rcmp with
  | none => h
  | some r =>
    let h := { h with rcmp := none }.p F.POOLSTAT_recomposing 0
    let h := if st == St.poolBusy then h.p F.POOLSTAT_busy 1 else h
    match r.sub with
    | none => h
    | some c => h.complete c st

/-- Every device of the group has acknowledged S and the plan-set slot (R174). -/
def agreed (h : Hub) : Bool := h.gathered && h.grp.frames.all (·.swAck)

/-- This device's group of the plan set in `slot` is new and every other group of the set is one of the active set's (R172, R174). -/
def loneGroup (h : Hub) (slot : Nat) : Bool :=
  let old := smGet [] h.im.plans (h.g F.POOLPLAN_active)
  let same (a b : Plan) : Bool := a.base == b.base && a.n == b.n && a.digest == b.digest
  let new := (smGet [] h.im.plans slot).filter (fun p => !old.any (same p))
  new.all (fun p => decide (p.base.toNat ≤ h.dev ∧ h.dev < p.base.toNat + p.n.toNat)) && !new.isEmpty && !h.on F.HDEVIDX_spare

/-- A device in no group completes the RECOMPOSE once the last new group has recorded its first boundary, which lies outside this
module: a free value (R174, log 2). -/
def rcmpTold (h : Hub) : Hub :=
  if h.g F.POOLROLE_size ≠ 0 then h
  else
    let (v, h) := h.fresh
    if v.getLsbD 0 then h.rcmpEnd St.ok else h

/-- A session holds KV, resident or parked, on some device of its group: it is in one of the conditions of R145 other than log-only and has
a position with KV (R72, R173). -/
def holdsKv (h : Hub) (i : Handle) : Bool :=
  let x := h.s i
  x.r.state != S.free && !x.r.logonly && decide (0 < kvLenOf x.r)

/-- A HALTED session that holds KV at a switch goes log-only where it stands; its KV is released and DEMOTE recorded without a
transition (R173, log 120). -/
def demoteHalted (h : Hub) (i : Handle) : Hub :=
  let h := ((h.releaseFrames (h.rootIx (h.s i).r)).dropExtent i).modR i (fun r => { r with logonly := true, lastStatus := St.evictedLogonly })
  (h.inc F.TIERDEMOTE_count).record i 0x0043 (h.s i).r.touch.toNat

/-- The switch boundary of a changed group (R173); S waits for intakes in progress, whose sessions are not demoted (R518, log 155). What the
group's other devices own is outside this module: free values say whether they have a transient session, and whether one of theirs stops the
switch (log 2). -/
def switchTest (h : Hub) : Hub :=
  match h.rcmp with
  | none => h
  | some r =>
    if !h.rcmpHolds || !h.migIn.isEmpty || h.handles.any (fun i => transient (h.s i).r.state || (h.s i).demote || decide (0 < (h.s i).intakes)) then h
    else
      let (v, h) := h.fresh
      let alone := decide (h.groupN ≤ 1)
      if !alone && v.getLsbD 0 then h
      else
        let kv := h.handles.filter (fun i => h.holdsKv i)
        let stops := if r.demote then kv.any (fun i => !h.recomputable i || (h.s i).r.omm) else !kv.isEmpty
        if stops || (!alone && v.getLsbD 1) then h.rcmpEnd St.poolBusy
        else
          let h := kv.foldl (fun h i =>
            if (h.s i).r.state == S.parked then
              let h := (h.dropExtent i).modR i (fun r => { r with logonly := true, lastStatus := St.evictedLogonly })
              (h.inc F.TIERDEMOTE_count).record i 0x0043 (h.s i).r.touch.toNat
            else if (h.s i).r.state == S.ready || (h.s i).r.state == S.waiting then h.endDemote i
            else h.demoteHalted i) h
          { h with rcmp := some { r with switched := true }, grp := { h.grp with cur := none, prev := none, frames := [], ready := none } }

/-- What the active layout says of a partition; a mode 1 that the new windows no longer allow is withdrawn (R215, R218). -/
def partAt (h : Hub) (p : Plan) (k : Nat) : Hub :=
  let w := p.windows.getD k 0
  let h := (h.pi F.PARTCTL_present k (b2n ((layout p).any (fun s => s.part.toNat == k)))).pi F.PARTCTL_window k w
  if h.gi F.PARTCTL_mode k = 1 ∧ w < p.chunkGr then (h.pi F.PARTCTL_mode k 0).pi F.PARTCTL_mode_err k 1 else h

/-- A plan set becomes active on the device (R57, R169, R174, R215, R338): role, frame pools, partitions. Root entries
of its own sessions keep their length and adapter history under the new root index. -/
def activatePlan (h : Hub) (slot : Nat) : Hub :=
  let kept := h.handles.filterMap (fun i => (h.rootOf (h.s i).r).map (fun r => (i, r)))
  let h := h.gr.fext.foldl (fun h e => h.grnRelease (objKey 1 e.2.nsi.toNat)) h
  let h := (h.modG (fun g => { g with fext := [] })).p F.POOLPLAN_active slot
  let h : Hub := { h with nf := { h.nf with slotOn := true } }
  let mem := h.g F.QMEM_gib
  match h.planIn slot with
  | none =>
    let h := ((h.p F.POOLROLE_role 0).p F.POOLROLE_size 0).p F.POOLROLE_position 0
    let h := (List.range 16).foldl (fun (h : Hub) k => h.pi F.PARTCTL_present k 0) h
    { h.p F.POOLROLE_base 0 with kv := {}, grp := { largestPark := h.grp.largestPark, retireQ := h.grp.retireQ } }
  | some p =>
    let h := (h.p F.POOLROLE_role p.role.toNat).p F.POOLROLE_base p.base.toNat
    let h := (h.p F.POOLROLE_size p.n.toNat).p F.POOLROLE_position (h.dev - p.base.toNat)
    let h := { h with kv := { gTotal := p.gFrames.toNat, wTotal := p.wFrames.toNat, buckets := h.kv.buckets }
                      qn := { h.qn with mem := min 384 mem }, grp := { largestPark := h.grp.largestPark, retireQ := h.grp.retireQ }
                      ck := { h.ck with first := true } }
    let h := h.sampleBuckets
    let h := h.p F.HOPVOCAB_v ((h.model.map (·.vocab.length)).getD 0)
    let h := (h.p F.CKPTBUDDY_device (h.dev ^^^ 1)).p F.CKPTBUDDY_valid (b2n (decide (1 < p.n.toNat)))
    let h := (List.range 4).foldl (fun h k => h.pi F.PLANFAM_digest k (bitsOf p.family.toNat (64 * k + 63) (64 * k))) h
    let h := (h.p F.MOLTIMING_bq p.bq.toNat).p F.MOLTIMING_allow p.allow.toNat
    let h := (List.range 16).foldl (fun h k => h.partAt p k) h
    Hub.gate (kept.foldl (fun h e =>
      let root := h.rootIndex e.1
      let h := h.modR e.1 (fun r => r.setRoot root)
      h.shards.foldl (fun h sh => h.installExt root { shard := sh, root := e.2 }) h) h)

end Hub

/-! ### The commands -/

/-- ADAPTER (R102, R104). -/
def execAdapter (t : Nt) (src : BitVec 6) (m : AdapterMsg) : State → Host.Outcome State Fault Refusal :=
  onHub t (fun h =>
    match m with
    | .image k v sv b =>
      if (h.adVer? k.toNat v).isSome then h
      else (h.stageAd k.toNat { ver := v, commit := none, coord := src, secver := sv, image := b }).getD h
    | .report k v => h.stagedBy k.toNat v src
    | .commit k v c => h.setCommit k.toNat v c
    | .binding k v b => h.bindReport k.toNat v src b
    | .propose k v f => h.modVer k.toNat v (fun a => { a with freeAt := some f })
    | .atFree k v b => h.modVer k.toNat v (fun a => { a with counts := (src, b) :: a.counts.filter (fun r => r.1 != src) })
    | .resolve k v f => h.resolveAd k.toNat v f)

/-- ADAPTER_COMMIT: the versions of a slot whose commit NT has come are current; the coordinator completes (R102, R276). -/
def execAdapterCommit (t : Nt) (slot : BitVec 10) : State → Host.Outcome State Fault Refusal :=
  onHub t (fun h =>
    let k := slot.toNat
    (h.adSlot k).vers.foldl (fun h a =>
      match a.commit, a.sub with
      | some c, some q =>
        if h.nt < c then h else (h.complete q St.ok a.ver.toNat).modVer k a.ver (fun a => { a with sub := none })
      | _, _ => h) h)

/-- BINDING_REPORT of a device in no group (R104). -/
def execBindingReport (t : Nt) (slot : BitVec 10) (ver : BitVec 16) : State → Host.Outcome State Fault Refusal :=
  onHub t (fun h =>
    match h.adVer? slot.toNat ver with
    | none => h
    | some a =>
      if h.g F.POOLROLE_size = 0 && (match a.ended with
        | none => false
        | some e => decide (e ≤ h.nt)) then h.reportAd slot.toNat a else h)

/-- ADAPTER_FREE: the free NT of a version has come (R104). `others` says that some other device whose count has not come as a message
reports a binding at it; a device that does not coordinate reports its own count. -/
def execAdapterFree (t : Nt) (slot : BitVec 10) (ver : BitVec 16) (others : Bool) :
    State → Host.Outcome State Fault Refusal :=
  onHub t (fun h =>
    match h.adVer? slot.toNat ver with
    | none => h
    | some a =>
      match a.freeAt with
      | none => h
      | some f =>
        if h.nt < f then h
        else
          let b := h.holdsAd slot.toNat ver
          if a.coord = h.me then
            let free := !(b || others || a.counts.any (·.2))
            (h.sendAll (.adapter (.resolve slot ver free))).resolveAd slot.toNat ver free
          else if a.counted then h
          else (h.modVer slot.toNat ver (fun a => { a with counted := true })).send a.coord (.adapter (.atFree slot ver b)))

/-- EFFECTIVE_NT (R173). -/
def execEffectiveNt (t : Nt) : State → Host.Outcome State Fault Refusal :=
  onHub t (fun h =>
    match h.rcmp with
    | none => h
    | some r =>
      if r.begun || decide (h.nt < r.eff) then h
      else { h with rcmp := some { r with begun := true } }.p F.POOLSTAT_recomposing 1)

/-- RECOMPOSE_TIMEOUT (R173). Whether S has come in the groups that change is outside a module of another group: a free value (log 2). -/
def execRecomposeTimeout (t : Nt) : State → Host.Outcome State Fault Refusal :=
  onHub t (fun h =>
    match h.rcmp with
    | none => h
    | some r =>
      if r.begun && !r.switched && !r.active && decide (r.eff.toNat + h.g F.POOLRCTMO_ms * 1000000 ≤ h.nt.toNat) then
        let (v, h) := if h.changes r.slot.toNat then ((0 : W64), h) else h.fresh
        if v.getLsbD 0 then h else h.rcmpEnd St.poolBusy
      else h)

/-- PLAN_ACTIVATION (R174): a device of a changed group whose group has agreed on S carves afresh; one whose group is unchanged only
follows to the new slot. A device in no group hears of the first boundaries here and at a later PLAN_ACTIVATION. -/
def execPlanActivation (t : Nt) (slot : BitVec 3) : State → Host.Outcome State Fault Refusal :=
  onHub t (fun h =>
    match h.rcmp with
    | none => h
    | some r =>
      if r.slot ≠ slot || !r.begun then h
      else if r.active then h.rcmpTold
      else
        let new := h.changes slot.toNat
        let go := if r.switched then h.agreed else !new || h.g F.POOLROLE_size == 0
        if !go then h
        else
          let h : Hub := { h with rcmp := some { r with active := true, lone := h.loneGroup slot.toNat } }
          (if new then h.activatePlan slot.toNat else h.p F.POOLPLAN_active slot.toNat).rcmpTold)

end Sys2Proof.Machine
end

