-- ==== Sys2Proof/Machine/Routes.lean ====
section
/-! DEFINITION. The ROUTE table of the associative index (R326, R329, R333): its order by masked bits, insertion with a shift,
deletion, compaction, and its rewriting from the routes in force (R239). -/

namespace Sys2Proof.Machine

/-- Entries of the ROUTE table (R326). -/
def routeSize : Nat := 512

/-- Masked bits of an entry. -/
def masked (m : BitVec 6) : Nat := (List.range 6).countP (fun k => m.getLsbD k)

/-- An entry matches a destination: every key bit outside its mask is equal (R329). -/
def routeHit (e : RouteEnt) (d : BitVec 6) : Bool := (e.dst ^^^ d) &&& ~~~ e.mask == 0

/-- The lowest-addressed match. -/
def routeLook (m : SMap RouteEnt) (d : BitVec 6) : Option RouteEnt := (m.find? (fun e => routeHit e.2 d)).map (·.2)

/-- Where an entry with a mask goes: behind the last one with as many masked bits or fewer. -/
def routePlace (m : SMap RouteEnt) (mask : BitVec 6) : Nat :=
  ((m.filter (fun e => decide (masked e.2.mask ≤ masked mask))).getLast?.map (fun e => e.1 + 1)).getD 0

/-- The free entries of the table that are at or above a position. -/
def routeFree (m : SMap RouteEnt) (p : Nat) : Option Nat :=
  (List.range' p (routeSize - p)).find? (fun k => (smLook m k).isNone)

/-- One pass of compaction: each entry goes to the free entry just below it, from the lowest upward; with the number of copies. -/
def routeCompact (m : SMap RouteEnt) : SMap RouteEnt × Nat :=
  m.foldl (fun acc e =>
    if e.1 ≠ 0 ∧ (smLook acc.1 (e.1 - 1)).isNone then (smPut (smDel acc.1 e.1) (e.1 - 1) e.2, acc.2 + 1) else acc) (m, 0)

/-- Copies `p + n − 1` to `p + n`, then the one below it, down to `p` to `p + 1`: after each copy both entries hold the same. -/
def routeShift (m : SMap RouteEnt) (p : Nat) : Nat → SMap RouteEnt
  | 0 => m
  | n + 1 =>
    let m := match smLook m (p + n) with
      | none => m
      | some e => smPut m (p + n + 1) e
    routeShift m p n

/-- An entry is inserted in its place, after a compaction where no entry at or above it is free; with the number of moves (R333). -/
def routeInsert (m : SMap RouteEnt) (x : RouteEnt) : SMap RouteEnt × Nat :=
  let (m, n) := if (routeFree m (routePlace m x.mask)).isSome then (m, 0) else routeCompact m
  let p := routePlace m x.mask
  match routeFree m p with
  | none => (m, n)
  | some k => (smPut (routeShift m p (k - p)) p x, n + (k - p))

namespace Hub

/-- The entry of a destination: its two physical ports, for even and for odd message ids (R239). -/
def routeOf (h : Hub) (d : BitVec 6) : Option RouteEnt :=
  match h.route d.toNat 0, h.route d.toNat 1 with
  | some a, some b => some { dst := d, mask := 0, first := BitVec.ofNat 4 a, second := if a = b then 0xF else BitVec.ofNat 4 b }
  | _, _ => none

/-- The table follows the routes in force, as after a takeover or a port failure (R239, R333). DESIGN CHOICE (log 129): an entry for each
destination of the node, none masked, in ascending destination; one that no longer holds is deleted and inserted anew. -/
def rewriteRoutes (h : Hub) : Hub :=
  (List.range (h.g F.NFNODE_active + h.g F.NFNODE_spares)).foldl (fun h d =>
    let k : BitVec 6 := BitVec.ofNat 6 d
    let want := if d = h.dev then none else h.routeOf k
    let held := h.aix.route.find? (fun e => e.2.mask == 0 && e.2.dst == k)
    if held.map (·.2) = want then h
    else
      let m := match held with
        | none => h.aix.route
        | some e => smDel h.aix.route e.1
      match want with
      | none => { h with aix := { h.aix with route := m } }
      | some x =>
        let r := routeInsert m x
        ({ h with aix := { h.aix with route := r.1 } } : Hub).inc F.AIXSHIFT_count r.2) h

end Hub

end Sys2Proof.Machine
end

