-- ==== Sys2Proof/Machine/Ckpt.lean ====
section
/-! DEFINITION. Cuts, drains, buddy copies and restores (R396 to R414). -/

namespace Sys2Proof.Machine

/-- Page `p` of the record store: the records of 16 handles (log 26). -/
def recPage (m : SMap Sess) (p : Nat) : Bytes :=
  ((List.range 16).map (fun k => (smGet {} m (16 * p + k)).r.bytes)).flatten

/-- Pages of the record store that hold a record. -/
def recPages (m : SMap Sess) : List Nat :=
  m.foldl (fun l e => if l.contains (e.1 / 16) then l else l ++ [e.1 / 16]) []

/-- The 64 B companion of a record (R399): tokens owed to a STEP, the cause of a revive, receiver and epoch of a migration. -/
def companion (x : Sess) : Bytes :=
  let owed := match x.stepReq with
    | none => 0
    | some q => q.n.toNat - q.got
  let dst := match x.migOut with
    | none => 0
    | some m => m.target.toNat + (x.r.ownEpoch + 1).toNat * 2 ^ 32
  padTo 64 (le 4 owed ++ le 1 ((x.revive.map (fun v => v.cause.toNat)).getD 0) ++ le 3 0 ++ le 8 dst)

/-- Stack, held bytes, bytes released, rest and durable entries of the log out of a session area, for a record with the given stack depth:
at a cut the whole log is durable (R397). -/
def areaOf (b : Bytes) (depth : Nat) : List (BitVec 16) × Bytes × Nat × BitVec 4 × Nat :=
  ((List.range depth).map (fun k => BitVec.ofNat 16 (field b (2 * k) 2)), (b.drop 0x3001).take (field b 0x3000 1), field b 0x3080 4,
    BitVec.ofNat 4 (field b 0x3200 4), field b 0x3204 4)

/-- The pages of a cut image that hold records, companions and session areas (R397, log 26). -/
def imagePage (m : SMap Sess) (p : Nat) : Bytes :=
  if p < 2 ^ 14 then recPage m p
  else if p < 2 ^ 14 + 2 ^ 12 then ((List.range 64).map (fun k => companion (smGet {} m (64 * (p - 2 ^ 14) + k)))).flatten
  else ((areaBytes (smGet {} m ((p - 2 ^ 14 - 2 ^ 12) / 4))).drop (4096 * ((p - 2 ^ 14 - 2 ^ 12) % 4))).take 4096

/-- The numbers of the pages that the sessions of an image lie in. -/
def imagePages (m : SMap Sess) : List Nat :=
  m.foldl (fun l e =>
    let q := [e.1 / 16, 2 ^ 14 + e.1 / 64] ++ (List.range 4).map (fun k => 2 ^ 14 + 2 ^ 12 + 4 * e.1 + k)
    l ++ q.filter (fun p => !l.contains p)) []

/-- Companion and session area of a handle in a buddy copy. -/
def copyArea (pages : SMap Bytes) (i : Nat) : Bytes × Bytes :=
  (((smGet [] pages (2 ^ 14 + i / 64)).drop (64 * (i % 64))).take 64,
    ((List.range 4).map (fun k => padTo 4096 (smGet [] pages (2 ^ 14 + 2 ^ 12 + 4 * i + k)))).flatten)

namespace Hub

/-! ### Taking a cut (R396 to R398, R400) -/

/-- The earliest boundary that position 0 can make from its readiness on (R228). -/
def leastBound (h : Hub) : Nat := match h.plan with
  | none => h.nt.toNat
  | some p => let q := max 1 p.bq.toNat; cdiv (h.nt.toNat + p.allow.toNat) q * q

/-- CKPTMS in ns. -/
def ckptNs (h : Hub) : Nat :=
  let m := h.g F.CKPTMS_ms
  (if 1 ≤ m ∧ m ≤ 1000 then m else 250) * 1000000

/-- Every position has reported the latest cut held. -/
def allHeld (h : Hub) (e : BitVec 32) : Bool :=
  e == 0 || (List.range h.groupN).all (fun q => !newer 32 e.toNat (smGet 0 h.ck.held q).toNat)

/-- Position 0 decides whether its boundary frame marks a cut (R396). CKPTMS is tested against the earliest boundary its own readiness
allows, which is the boundary where no device is ready later (R11, log 124). -/
def cutFlag (h : Hub) : Bool × Hub :=
  if h.position ≠ 0 then (false, h)
  else
    let c := h.ck
    let due := c.first || !c.forced.isEmpty || decide (c.lastStep.toNat + max 1 (h.g F.CKPTSTEPS_steps) ≤ h.stepNo)
      || decide (c.lastNt.toNat + h.ckptNs ≤ h.leastBound)
    let held := c.first || h.allHeld c.epoch
    if due && !held && !c.late then (false, { h.inc F.CKPTLATE_count with ck := { c with late := true } })
    else (due && held, h)

/-- The epoch that the next cut carries: one more than the highest this device knows of. -/
def nextEpoch (h : Hub) : BitVec 32 :=
  (h.ck.held.foldl (fun e x => if newer 32 x.2.toNat e.toNat then x.2 else e) h.ck.epoch) + 1

/-- Releases deferred until every device holds a later cut (R400): at a cut with epoch `e` all hold `e - 1`. -/
def releaseDeferred (h : Hub) (e : BitVec 32) : Hub :=
  let due (x : Nat × Nat × BitVec 32) : Bool := !newer 32 (x.2.2.toNat + 2) e.toNat
  let go := h.ck.deferred.filter due
  let h := { h with ck := { h.ck with deferred := h.ck.deferred.filter (fun x => !due x) } }
  go.foldl (fun h x =>
    if x.1 = 0 then
      match smLook h.kv.frames x.2.1 with
      | some f => if f.refs = 0 then { h with kv := { h.kv with frames := smDel h.kv.frames x.2.1 } } else h
      | none => h
    else h.grnFree x.2.1 h.gr.objs.length) h

/-- SETTLED goes out for migrations older than a cut that the whole group holds (R412). -/
def settleMigs (h : Hub) (t : Nt) : Hub :=
  let h := (h.ck.sends.filter (fun e => !e.told && decide (e.nt < t))).foldl (fun h e => h.send e.target (.drainSettled e.sess.r.sk)) h
  let h := (h.ck.claims.filter (fun e => !e.told && decide (e.nt < t))).foldl (fun h e => h.send e.src (.drainSettled e.sk)) h
  { h with ck := { h.ck with sends := h.ck.sends.map (fun e => { e with told := e.told || decide (e.nt < t) })
                             claims := h.ck.claims.map (fun e => { e with told := e.told || decide (e.nt < t) }) } }

/-- The bytes of a frame. -/
def frameBytes (h : Hub) (cls : Nat) (f : PFrame) : Bytes :=
  match h.model with
  | none => []
  | some m => (List.range (stride m (if cls = 0 then m.lg else m.lw))).map (fun k => smGet 0 f.data k)

/-- The cut drains to the buddy (R401): logs and frames that changed since the previous image, then image pages. -/
def drainCut (h : Hub) (img : CutImg) (old : Option CutImg) : Hub :=
  let d : BitVec 6 := BitVec.ofNat 6 (h.dev ^^^ 1)
  let was (i : Nat) : Sess := match old with
    | none => {}
    | some o => smGet {} o.sess i
  let h := img.sess.foldl (fun h e =>
    if e.2.r.state != S.free && e.2.log != (was e.1).log then
      h.send d (.buddy img.epoch (objKey 2 e.2.r.nsi.toNat) ((e.2.log.map (fun t => le 4 t.toNat)).flatten))
    else h) h
  let h := img.kv.frames.foldl (fun h e =>
    let same : Bool := match old with
      | none => false
      | some o => decide ((smLook o.kv.frames e.1).map (·.data) = some e.2.data)
    if same then h else h.send d (.buddy img.epoch (objKey 8 e.1) (h.frameBytes (e.1 / 2 ^ 32) e.2))) h
  let oldSess := match old with
    | none => []
    | some o => o.sess
  let pages := (imagePages (img.sess ++ oldSess)).filter (fun p => imagePage img.sess p != imagePage oldSess p)
  let pages := if pages.isEmpty then [0] else pages
  (pages.zipIdx).foldl (fun h e =>
    h.send d (.drainPage img.epoch e.1 (imagePage img.sess e.1) (e.2 + 1 == pages.length))) h

/-- Start the next own-slot write with the newest cut held, where it is newer than both slots (R402, R403). -/
def startSlot (h : Hub) : Hub :=
  let e := h.g F.CKPTEPOCH_held
  let own := h.g F.CKPTEPOCH_own
  let h := h.p F.CKPTSTAT_own_lag (b2n (newer 32 e (own + 1)))
  if h.ck.writing.isSome || e = 0 || !newer 32 e own then h
  else
    match h.ck.imgs.find? (fun i => i.epoch.toNat == e) with
    | none => h
    | some img =>
      let newestB := match h.ck.slotA, h.ck.slotB with
        | some a, some b => newer 32 b.epoch.toNat a.epoch.toNat
        | none, some _ => true
        | _, _ => false
      let b := !newestB
      { h with ck := { h.ck with writing := some (b, img), slotA := if b then h.ck.slotA else none
                                 slotB := if b then none else h.ck.slotB } }

/-- A position holds a cut: the commands that wait for it complete once all do (R401, R414). -/
def posHeld (h : Hub) (pos : Nat) (e : BitVec 32) : Hub :=
  let h := { h with ck := { h.ck with held := smPut h.ck.held pos e } }
  let ready (w : BitVec 32 × Sub) : Bool := h.allHeld w.1
  let go := h.ck.wait.filter ready
  go.foldl (fun h w => h.complete w.2 St.ok w.1.toNat) { h with ck := { h.ck with wait := h.ck.wait.filter (fun w => !ready w) } }

/-- This device holds a cut: the manifest of its buddy copy is written (R401). -/
def holdCut (h : Hub) (e : BitVec 32) : Hub :=
  match h.ck.imgs.find? (fun i => i.epoch == e) with
  | none => h
  | some img =>
    if h.g F.CKPTEPOCH_held = e.toNat then h
    else
      let h := ((h.p F.CKPTEPOCH_held e.toNat).p F.CKPTCUTNT_nt img.nt.toNat).inc F.CKPTCUTS_count
      let h := { h with ck := { h.ck with imgs := h.ck.imgs.take 2 } }
      let h := if h.position = 0 then h.posHeld 0 e else h.send (BitVec.ofNat 6 (h.g F.POOLROLE_base)) (.drainDone e)
      h.startSlot

/-- A session as a cut holds it: its prefill stands where it stood before the step that begins (R219, R397). -/
def cutSess (pre : SMap PfReq) (i : Nat) (x : Sess) : Sess :=
  { x with pfReq := x.pfReq.map (fun q => match smLook pre i with
      | some p => if p.started then p else { q with pos := q.first, conf := q.first, grain := 0, spilled := false, waiting := false, poison := false }
      | none => { q with pos := q.first, conf := q.first, grain := 0, spilled := false, waiting := false, poison := false }) }

/-- A cut at the boundary (R396 to R398); `pre` holds the prefills as the step that ended left them. The copy takes at most 2 ms; its time is
a free value (log 2). -/
def takeCut (h : Hub) (e : BitVec 32) (pre : SMap PfReq) : Hub :=
  let h := h.handles.foldl (fun h i => if (h.s i).r.state == S.free then h else h.startFlush i) h
  let prevNt := h.ck.lastNt
  let old := h.ck.imgs.head?
  let h := (h.releaseDeferred e).settleMigs prevNt
  let done := h.ck.wait
  let h := done.foldl (fun h w => h.complete w.2 St.ok w.1.toNat) { h with ck := { h.ck with wait := [] } }
  let img : CutImg := { epoch := e, step := BitVec.ofNat 48 h.stepNo, nt := h.nt
                        sess := h.sess.map (fun (x : Nat × Sess) => (x.1, cutSess pre x.1 x.2)), gens := h.gens, kv := h.kv
                        deferred := h.ck.deferred
                        setId := BitVec.ofNat 32 (h.gi F.PLANSLOT_set_id (h.g F.POOLPLAN_active)) }
  let (v, h) := h.fresh
  let us := v.toNat % 2001
  let h := (h.p F.CKPTCOPYMAX_us (max us (h.g F.CKPTCOPYMAX_us))).devEv 0x0701 4 e.toNat
  let h := { h with ck := { h.ck with
    epoch := e, lastNt := h.nt, lastStep := BitVec.ofNat 48 h.stepNo, imgs := img :: h.ck.imgs.take 2, first := false, late := false
    wait := h.ck.forced.map (fun c => (e, c)), forced := []
    lates := match (h.ck.imgs.take 2).getLast? with
      | none => []
      | some o => h.ck.lates.filter (fun n => o.sess.any (fun s => s.2.r.nsi == n.1 && decide (s.2.r.committed ≤ n.2.1))) } }
  if h.groupN ≤ 1 || h.on F.CKPTSTAT_buddy_mode then h.holdCut e else h.drainCut img old

/-! ### Restore (R404 to R411) -/

/-- A session as a cut gives it back: what waited on work after the cut is gone (R399, R406, R413). A chunk that was spilled goes on, one
that was killed or in flight starts again (R219). -/
def restoredSess (x : Sess) : Sess :=
  let redo := match x.blk with
    | some (.intake _) => true
    | some (.hold _ _) => true
    | some (.quern _) => true
    | _ => false
  { x with actions := [], parkSubs := [], revSubs := [], intakes := 0, flushing := false, logbuf := [], durable := BitVec.ofNat 32 (min x.log.length (x.r.committed.toNat + x.pendIn.toNat))
           blk := if redo then none else x.blk, runnable := x.runnable || redo
           log := x.log.take (x.r.committed.toNat + x.pendIn.toNat)
           stepReq := x.stepReq.map (fun q => { q with ended := none, inStep := false, buf := none })
           pfReq := x.pfReq.map (fun q =>
             let spilled := q.spilled && q.pos == q.conf
             { q with grain := if spilled then q.grain else 0, spilled := spilled, waiting := false, poison := false, pos := q.conf }) }

/-- What R399 asks of a restored session. -/
def applyCompanion (h : Hub) (i : Handle) : Hub :=
  let x := h.s i
  if x.r.state == S.parking then
    let ev := (x.park.map (·.byEvict)).getD false
    (h.modS i (fun x => { x with park := none, r := { x.r with state := x.rest } })).startPark i ev none
  else if x.r.state == S.reviving then
    let c := (x.revive.map (·.cause)).getD 0
    ((h.modS i (fun x => { x with revive := none, pfReq := none, r := { x.r with state := S.parked } })).startRevive i c none).2
  else if x.r.state == S.migrating then
    match x.migOut with
    | none => h
    | some m => ((h.abortMig i 7).ownerMismatch i (x.r.ownEpoch + 1)).sendProbe i m.target
  else if x.demote then (h.modS i (fun x => { x with demote := false })).startDemote i
  else if x.stepReq.isSome then h.readDraft i
  else h

/-- Deferred Granary objects released after a cut take their keys back (R400, R406). -/
def undefer (h : Hub) (e : BitVec 32) : Hub :=
  (h.ck.deferred.filter (fun x => x.1 != 0 && !newer 32 e.toNat x.2.2.toNat)).foldl (fun h x =>
    let key := x.2.1 % 2 ^ 80
    (h.grnFree key h.gr.objs.length).rekey x.2.1 key) h

/-- Extents and logs that the reinstated records do not name are freed (R406). -/
def freeUnnamed (h : Hub) : Hub :=
  let named (key : Nat) : Bool :=
    let kind := key / 2 ^ 72
    let n := key % 2 ^ 72
    h.sess.any (fun e => e.2.r.state != S.free && e.2.r.nsi.toNat == n && (kind != 1 || e.2.extent.isSome))
      || h.mirrors.any (fun e => (Rec.ofBytes e.2.m.image).nsi.toNat == n) || (kind == 1 && h.gr.fext.any (fun e => e.2.nsi.toNat == n))
  (h.gr.objs.filter (fun e => (e.1 / 2 ^ 72 == 1 || e.1 / 2 ^ 72 == 2) && !e.2.dead && !named e.1)).foldl
    (fun h e => h.grnFree e.1 h.gr.objs.length) h

/-- The group leaves the fault; the completion waits for its first boundary (R409, R413). -/
def restored (h : Hub) (img : CutImg) (mode : Nat) (sub : Option Sub) (tell : Bool) : Hub :=
  let h := (h.p F.MOLSTEP_step img.step.toNat).p F.CKPTRESTNT_nt img.nt.toNat
  let h := (h.p F.CKPTRESTEP_epoch img.epoch.toNat).p F.CKPTRESTEP_mode mode
  let h := (h.devEv 0x0702 4 (img.epoch.toNat + mode * 2 ^ 32)).inc F.CKPTRESTORES_count
  let h := (h.p F.POOLSTAT_group_fault 0).p F.CKPTSTAT_restoring 1
  let h := { h with grp := { largestPark := h.grp.largestPark, retireQ := h.grp.retireQ }
                    ck := { h.ck with restore := none, faultNt := none, done := some (mode, img.epoch, sub) } }
  if tell then (h.actives.filter (fun d => d.toNat != h.dev)).foldl (fun h d => h.send d (.drainRestored img.nt)) h else h

/-- Reinstate a cut image on this device (R406). -/
def reinstate (h : Hub) (img : CutImg) : Hub :=
  let h := h.undefer img.epoch
  let sess := img.sess.map (fun (e : Nat × Sess) => (e.1, restoredSess e.2))
  let keep (w : DurWait) : Bool := match w with
    | .image _ _ => true
    | .staged _ _ _ => true
    | .mirror _ => true
    | .quern _ _ => true
    | _ => false
  let reads := h.reads.filter (fun e => match e.2 with
    | .draft _ => false
    | _ => true)
  let h := { h with sess := sess, gens := img.gens, kv := img.kv, hopq := [], reads := reads, migIn := []
                    durs := h.durs.filter (fun e => keep e.2), seqq := (sess.filter (fun (e : Nat × Sess) => e.2.runnable)).map (fun (e : Nat × Sess) => BitVec.ofNat 18 e.1)
                    ck := { h.ck with imgs := h.ck.imgs.filter (fun i => !newer 32 i.epoch.toNat img.epoch.toNat), epoch := img.epoch
                                      lastNt := img.nt, lastStep := img.step, deferred := img.deferred, wait := [], late := false } }
  let h := h.freeUnnamed
  h.handles.foldl (fun h i => if (h.s i).r.state == S.free then h else h.applyCompanion i) h

/-- The highest epoch held for every position; `own` are this device's (R405). -/
def commonEpoch (h : Hub) (own : List (BitVec 32)) (info : RestoreInfo) (named : BitVec 32) : Option (BitVec 32) :=
  let mine := h.position
  let of (q : Nat) : List (BitVec 32) :=
    if q = mine ∧ !h.on F.HDEVIDX_spare then own
    else ((info.held.find? (fun e => e.1.toNat == q)).map (·.2)).getD []
  let poss := if h.on F.HDEVIDX_spare then info.held.map (·.1.toNat) else List.range h.groupN
  let ok (e : BitVec 32) : Bool := poss.all (fun q => (of q).contains e) && (named == 0 || named == e)
  let cand := if h.on F.HDEVIDX_spare then (info.held.map (·.2)).flatten else own
  (cand.filter ok).foldl (fun best e => match best with
    | none => some e
    | some b => if newer 32 e.toNat b.toNat then some e else some b) none

/-- The mode that R404 chooses; none: the group stays in fault. -/
def autoMode (h : Hub) (info : RestoreInfo) : Option Nat :=
  let w := h.g F.INTFAULT_cause == 9
  match info.lost with
  | [] => if w then none else some 1
  | [_] =>
    if w then none
    else if info.spareOk && h.on F.CKPTCTL_takeover_en then some 2
    else if h.on F.CKPTCTL_buddy_en && info.buddyOk && info.planBuddy then some 3
    else none
  | _ => none

/-- The conditions of a named mode hold (R404, R414). -/
def modeOk (h : Hub) (info : RestoreInfo) (m : Nat) : Bool :=
  match m with
  | 1 => info.lost.isEmpty && h.g F.INTFAULT_cause != 9
  | 2 => info.lost.length == 1 && info.spareOk && h.on F.CKPTCTL_takeover_en
  | 3 => info.lost.length == 1 && h.on F.CKPTCTL_buddy_en && info.buddyOk && info.planBuddy
  | 4 => true
  | _ => false

/-- The records of a buddy copy (R401, log 26). -/
def copyRecords (pages : SMap Bytes) : List (Nat × Rec) :=
  (pages.filter (fun e => decide (e.1 < 2 ^ 14))).flatMap (fun e => (List.range 16).filterMap (fun k =>
    let b := (e.2.drop (256 * k)).take 256
    let r := Rec.ofBytes b
    if b.length = 256 ∧ r.state ≠ S.free then some (16 * e.1 + k, r) else none))

/-- The state a restored session is installed in on a spare, or adopted in (R399, R407, R410): the state at the cut is
its rest. -/
def restState (r : Rec) : BitVec 4 :=
  if r.state == S.parking || r.state == S.migrating then r.prior
  else if r.state == S.prefill || r.state == S.stepping || r.state == S.reviving then S.ready else r.state

/-- A token log out of a buddy copy. -/
def copyLog (h : Hub) (e : BitVec 32) (nsi : W64) : List (BitVec 32) :=
  let b := h.ck.bkv.foldl (fun acc (c : BitVec 32 × SMap Bytes) =>
    if newer 32 c.1.toNat e.toNat then acc
    else match smLook c.2 (objKey 2 nsi.toNat) with
      | some x => if acc.isEmpty then x else acc
      | none => acc) ([] : Bytes)
  segTokens b.length b

/-- A session as a buddy copy gives it: record, companion and session area (R134, R399, R407). A STEP in progress is outstanding with
the tokens still owed. -/
def copySess (h : Hub) (e : BitVec 32) (r : Rec) (rest : BitVec 4) (comp area : Bytes) : Sess :=
  let a := areaOf area r.gramDepth.toNat
  let l := h.copyLog e r.nsi
  let n := max (max r.committed.toNat a.2.2.2.2) l.length
  let w : W64 := (smGet [] h.im.progs r.prog.toNat).getD r.pc.toNat 0
  let owed := field comp 0 4
  let q : StepReq := { n := BitVec.ofNat 16 (iw w 15 0), draft := BitVec.ofNat 2 (iw w 17 16), addr := r.rReg (iw w 51 48) 0
                       got := iw w 15 0 - owed }
  { r := r, log := l, durable := BitVec.ofNat 32 n, rest := if a.2.2.2.1 = 0 then rest else a.2.2.2.1
    pendIn := BitVec.ofNat 32 (n - r.committed.toNat), stack := a.1, held := a.2.1, relOff := a.2.2.1
    blk := if owed = 0 then none else some (.step (dstOf w)), stepReq := if owed = 0 then none else some q }

/-- A session that held KV at the cut is installed PARKED with its state there as rest; one PARKED stays so (R407). -/
def asParked (r : Rec) : Rec × BitVec 4 :=
  let s := restState r
  if s == S.ready || s == S.waiting then ({ r with state := S.parked, ttlArmed := false, expiry := 0 }, s)
  else ({ r with state := s }, s)

/-- Set a port's remap entry (R236, R238): the logical ports it carries, 0xF none. -/
def setRemap (h : Hub) (n primary second : Nat) : Hub :=
  h.setReg (F.MOLREMAP_primary.a + F.MOLREMAP_primary.stride * n) (BitVec.ofNat 64 (pairOf 16 (primary + second * 16)))

/-- Spare `s` of a node of `n` takes the identity of device `d`: its ports carry d's logical ports (R238). -/
def spareRemap (h : Hub) (n s d : Nat) : Hub :=
  ((spareLinks n s).zipIdx).foldl (fun (h : Hub) x =>
    match portsBetween n d x.1 with
    | [] => h.setRemap x.2 0xF 0xF
    | [a] => h.setRemap x.2 a 0xF
    | a :: b :: _ => h.setRemap x.2 a b) h

/-- A peer of device `d` maps its logical ports towards d onto its physical port to the spare that covers d, which is d's from then on; the
ports that led to the lost device carry none (R238, R239). -/
def peerRemap (h : Hub) (n s d : Nat) : Hub :=
  let l := portsBetween n h.dev d
  let h := (List.range 16).foldl (fun (h : Hub) p =>
    if l.contains (h.gi F.MOLREMAP_primary p) && !l.isEmpty then h.setRemap p 0xF 0xF else h) h
  (List.range 16).foldl (fun (h : Hub) p =>
    if wiredTo n h.dev p = some (n + s) then
      let h := h.pi F.MOLPSTAT_peer p d
      match l with
      | [] => h.setRemap p p 0xF
      | [a] => h.setRemap p a 0xF
      | a :: b :: _ => h.setRemap p a b
    else h) h

/-- The migration in progress at the cut aborts with reason 0x07 where a record is installed from a copy (R399, R180). Whether the MIGRATE, or
the STEP of a handoff, at its PC is what began it is not in the cut: a free value (log 24). -/
def abortedCut (h : Hub) (i : Handle) (r : Rec) (comp : Bytes) : Hub :=
  if r.state != S.migrating then h
  else
    let w := (h.prog i).getD r.pc.toNat 0
    let h := (((h.record i 0x0053 7).inc F.MIGABORT_count).migRecord r none St.migrateAborted 7 0).ownerMismatch i ((h.s i).r.ownEpoch + 1)
    let h := h.sendProbe i (BitVec.ofNat 6 (field comp 8 1))
    let (v, h) := h.fresh
    if v.getLsbD 0 && iw w 63 56 == 0x22 then h.endInstr i (some (dstOf w, 7)) St.migrateAborted 7
    else if v.getLsbD 0 && h.inPrefill && iw w 63 56 == 0x32 then h.endInstr i (some (dstOf w, 0)) St.migrateAborted 0
    else h

/-- Takeover on the spare (R407, R238): identity, plan, records of the lost device's copy. -/
def takeover (h : Hub) (d : Nat) (e : BitVec 32) : Hub :=
  let n := h.g F.NFNODE_active
  let s := h.dev - n
  let h := ((h.p F.HDEVIDX_index d).p F.HDEVIDX_spare 0).spareRemap n s d
  let h := (h.activatePlan (h.g F.POOLPLAN_active)).inc F.CKPTTAKEOVERS_count
  let pages := ((h.ck.bcopies.find? (fun c => c.1 == e)).map (·.2.1)).getD []
  let recs := copyRecords pages
  let sess := recs.foldl (fun m (x : Nat × Rec) =>
    let (r, rest) := asParked x.2
    let c := copyArea pages x.1
    smPut m x.1 (h.copySess e r rest c.1 c.2)) ([] : SMap Sess)
  let gens := recs.foldl (fun m (x : Nat × Rec) => smSet 0 m x.1 (nsiGen x.2.nsi)) ([] : SMap (BitVec 16))
  let h := { h with sess := sess, gens := gens }
  let h := h.handles.foldl (fun h i =>
    let x := h.s i
    let h := if x.r.state == S.parked && !x.r.logonly then
        h.modS i (fun x => { x with extent := some (h.extentBytes (kvLenOf x.r) true, false) }) else h
    h.resumeAt i false) h
  let h := recs.foldl (fun h x => h.abortedCut (BitVec.ofNat 18 x.1) x.2 (copyArea pages x.1).1) h
  let lazy := recs.filter (fun x => x.2.state != S.parked && (asParked x.2).1.state == S.parked)
  ({ h with ck := { h.ck with lazy := lazy.map (fun x => BitVec.ofNat 18 x.1) } } : Hub).rewriteRoutes

/-- Adopt records that wait for handles, in order (R410). -/
def adoptWaiting (h : Hub) : Nat → Hub
  | 0 => h
  | fuel + 1 =>
    match h.ck.adoptq with
    | [] => h
    | (b, comp, area) :: rest =>
      let r := Rec.ofBytes b
      let c := h.copySess h.ck.epoch r (asParked r).2 comp area
      let (r', s) := asParked r
      let q : Hub.Install := { sk := r.sk, oldNsi := r.nsi, tenant := r.tenant, epoch := r.ownEpoch + 1, state := r'.state, rest := s
                               logonly := r'.logonly, r := r', stack := c.stack, held := c.held, relOff := c.relOff
                               log := c.log, pend := c.pendIn, share := false }
      match h.install q with
      | none => h.p F.CKPTADOPTQ_sessions h.ck.adoptq.length
      | some (i, h) =>
        let h := h.modS i (fun x => { x with blk := c.blk, stepReq := c.stepReq })
        let h := { h with ck := { h.ck with adoptq := rest, lazy := h.ck.lazy ++ (if r'.state == S.parked then [i] else []) } }
        let h := h.modS i (fun x => { x with
          r := x.r.setRoot (if r.rootIx = BitVec.allOnes 32 ∨ r.committed = 0 then 0 else h.rootIndex i)
          extent := if r'.state == S.parked && !r.logonly then some (h.extentBytes (kvLenOf r) true, false) else none })
        let h := (h.migRecord r none St.ok 0 (h.s i).r.nsi).p F.CKPTADOPTQ_sessions rest.length
        adoptWaiting ((h.installed i false).abortedCut i r comp) fuel

/-- The order of R408: ascending DEADLINE, 0 last, then handle. -/
def lazyBefore (a b : Rec) : Bool :=
  let k (r : Rec) : Nat := if r.deadline = 0 then 2 ^ 64 else r.deadline.toNat
  k a < k b || (k a == k b && decide ((nsiHandle a.nsi).toNat < (nsiHandle b.nsi).toNat))

/-- Insert in that order. -/
def lazyInsert (x : Rec) : List Rec → List Rec
  | [] => [x]
  | y :: l => if lazyBefore x y then x :: y :: l else y :: lazyInsert x l

/-- Entry into buddy mode on the buddy (R410). -/
def enterBuddy (h : Hub) (e : BitVec 32) : Hub :=
  let pages := ((h.ck.bcopies.find? (fun c => c.1 == e)).map (·.2.1)).getD []
  let recs := (copyRecords pages).foldl (fun l x => lazyInsert x.2 l) []
  let h := (h.p F.CKPTSTAT_buddy_mode 1).inc F.CKPTBUDDYMODE_count
  let h := { h with ck := { h.ck with adoptq := recs.map (fun (r : Rec) => let c := copyArea pages (nsiHandle r.nsi).toNat; (r.bytes, c.1, c.2)) } }
  h.adoptWaiting recs.length

/-- The minutes path on this device: resident sessions become log-only (R411), and a STEP, PREFILL or REVIVE in progress is entered again (R251). -/
def minutes (h : Hub) (img : CutImg) (common : Bool) : Hub :=
  let h := h.reinstate img
  let h := h.handles.foldl (fun h i =>
    let x := h.s i
    if x.r.state == S.ready || x.r.state == S.waiting || x.r.state == S.prefill || x.r.state == S.stepping || x.r.state == S.reviving
        || x.r.state == S.parking then
      let rest := restState x.r
      let again : Bool := match x.blk with
        | some (.step _) | some (.prefill _) | some (.revive _) => true
        | _ => false
      let h := (h.releaseFrames (h.rootIx x.r)).modS i (fun x => { x with
        rest := rest, park := none, revive := none, pfReq := none, stepReq := none, demote := false, blk := if again then none else x.blk
        r := { x.r with state := S.parked, logonly := true, ttlArmed := false, expiry := 0 } })
      if again then h.ready i else h
    else if x.r.state == S.parked && !common then (h.dropExtent i).modR i (fun r => { r with logonly := true })
    else h) h
  h.inc F.CKPTMINUTES_count

/-- The own slot that holds an epoch, or the newest valid one (R411). -/
def slotImg (h : Hub) (e : Option (BitVec 32)) : Option CutImg :=
  let l := h.ck.slotA.toList ++ h.ck.slotB.toList
  match e with
  | some e => l.find? (fun i => i.epoch == e)
  | none => l.foldl (fun b i => match b with
    | none => some i
    | some j => if newer 32 i.epoch.toNat j.epoch.toNat then some i else some j) none

/-- The device holds the active plan set, whole (R225). -/
def holdsActive (h : Hub) : Bool :=
  let k := h.g F.POOLPLAN_active
  h.nf.slotOn && bitsOf (h.g F.POOLPLAN_loaded) k k == 1 && planSetOk (smGet [] h.im.plans k)

/-- Apply a restore that the group has agreed (R404 to R411). A spare without the active plan set takes nothing over (R225). -/
def applyRestore (h : Hub) (info : RestoreInfo) (mode : Nat) (named : BitVec 32) (sub : Option Sub) : Hub :=
  let fail (h : Hub) : Hub :=
    let h := { h with ck := { h.ck with restore := none } }
    match sub with
    | none => h
    | some c => h.complete c St.badState
  let chosen := if mode = 0 then h.autoMode info else if h.modeOk info mode then some mode else none
  match chosen with
  | none => fail h
  | some m =>
    let own := if m = 4 then (h.ck.slotA.toList ++ h.ck.slotB.toList).map (·.epoch)
      else (h.ck.imgs.filter (fun i => !newer 32 i.epoch.toNat (h.g F.CKPTEPOCH_held))).map (·.epoch)
    match h.commonEpoch own info named with
    | none =>
      if m = 4 ∧ named = 0 then
        match h.slotImg none with
        | none => fail (h.p F.CKPTSTAT_no_epoch 1)
        | some img => (h.minutes img false).restored img 4 sub true
      else fail (h.p F.CKPTSTAT_no_epoch 1)
    | some e =>
      let lowest := ((List.range h.groupN).find? (fun q => !info.lost.any (fun p => p.toNat == q))).getD 0
      if h.on F.HDEVIDX_spare && !h.holdsActive then h
      else if h.on F.HDEVIDX_spare then
        let n := h.g F.NFNODE_active
        let lostPos := (info.lost.head?.map (·.toNat)).getD 64
        let plans := smGet [] h.im.plans (h.g F.POOLPLAN_active)
        match m, (covers n (h.dev - n)).find? (fun d => plans.any (fun p =>
            decide (p.base.toNat ≤ d ∧ d < p.base.toNat + p.n.toNat) && d - p.base.toNat == lostPos)) with
        | 2, some d =>
          let h := h.takeover d e
          let (v, h) := h.fresh
          let (u, h) := h.fresh
          h.restored { epoch := e, step := v.setWidth 48, nt := u, sess := [], gens := [], kv := {}, deferred := [] } 2 sub false
        | _, _ => h
      else
        let tell := lowest == h.position
        if m = 4 then
          match h.slotImg (some e) with
          | none => fail h
          | some img => (h.minutes img true).restored img 4 sub tell
        else
          match h.ck.imgs.find? (fun i => i.epoch == e) with
          | none => fail h
          | some img =>
            let h := h.reinstate img
            let n := h.g F.NFNODE_active
            let h := if m = 2 then
                let d := h.g F.POOLROLE_base + (info.lost.head?.map (·.toNat)).getD 0
                match (List.range 8).find? (fun k => (covers n k).contains d && !(h.portsTo (n + k)).isEmpty) with
                | none => h.p F.CKPTSTAT_buddy_mode 0
                | some k => ((h.p F.CKPTSTAT_buddy_mode 0).peerRemap n k d).rewriteRoutes
              else if m = 3 && info.lost.any (fun p => p.toNat == (h.position ^^^ 1)) then h.enterBuddy e
              else h
            h.restored img m sub tell

/-- Lazy revives at a boundary (R408). -/
def lazyRevives (h : Hub) : Hub :=
  if !h.on F.CKPTCTL_lazy_revive || h.ck.lazy.isEmpty then h
  else
    let live := h.ck.lazy.filter (fun i => (h.s i).r.state == S.parked)
    let order := (live.foldl (fun l i => lazyInsert (h.s i).r l) []).map (fun r => nsiHandle r.nsi)
    let now := order.take (max 1 (h.g F.CKPTREVRATE_sessions))
    let h := { h with ck := { h.ck with lazy := order.drop now.length } }
    now.foldl (fun h i => (h.startRevive i 1 none).2.inc F.CKPTLAZY_count) h

/-- The first boundary after a restore posts its completion (R409, R413). -/
def restoreDone (h : Hub) : Hub :=
  match h.ck.done with
  | none => h
  | some (_, e, sub) =>
    let h := { h with ck := { h.ck with done := none } }.p F.CKPTSTAT_restoring 0
    match sub with
    | some c => h.complete c St.ok e.toNat
    | none => ((List.range 16).filter (fun p => h.gi F.PARTCTL_present p == 1)).foldl (fun h p =>
        h.pushRec false p ⟨h.cRec 1 1 St.ok 0x31 0 0 0 e.toNat [], none, false, none⟩) h

end Hub

/-! ### The commands -/

/-- CUT (R396, R414). A group other than the device's own is refused (log 27). -/
def execCutCommand (t : Nt) (w : BitVec 8) (l : CmdLine) : State → Host.Outcome State Fault Refusal :=
  onHub t (fun h => h.line w 0x30 l (fun c h =>
    if h.g F.POOLROLE_size = 0 || l.opd 32 1 ≠ h.g F.POOLROLE_base || h.faulted then h.complete c St.badState
    else { h with ck := { h.ck with forced := h.ck.forced ++ [c] } }))

/-- RESTORE (R404, R414): refused at once where the group is not in fault; the rest follows once the group has agreed. -/
def execRestoreCommand (t : Nt) (w : BitVec 8) (l : CmdLine) : State → Host.Outcome State Fault Refusal :=
  onHub t (fun h => h.line w 0x31 l (fun c h =>
    if !h.faulted || l.opd 32 1 ≠ h.g F.POOLROLE_base || h.ck.restore.isSome then h.complete c St.badState
    else { h with ck := { h.ck with restore := some (l.opd 33 1, some c) } }.p F.CKPTSTAT_restoring 1))

/-- DRAIN_PAGE: the buddy area takes a page; the last one completes the copy and its manifest is written (R401, R403). -/
def execDrainPage (t : Nt) (src : BitVec 6) (epoch : BitVec 32) (page : Nat) (data : Bytes) (last : Bool) :
    State → Host.Outcome State Fault Refusal :=
  onHub t (fun h =>
    let cs := h.ck.bcopies
    let fromOld := ((cs.find? (fun c => c.2.2)).map (·.2.1)).getD []
    let open_ := cs.find? (fun c => c.1 == epoch && !c.2.2)
    let pages := (open_.map (·.2.1)).getD fromOld
    let rest := if open_.isSome then cs.filter (fun c => c.1 != epoch) else cs
    let all : List (BitVec 32 × SMap Bytes × Bool) := (epoch, smPut pages page data, last) :: rest
    let done := (all.filter (fun c => c.2.2)).take 2
    let h := { h with ck := { h.ck with bcopies := all.filter (fun c => !c.2.2) ++ done } }
    if last then h.copyDone src epoch else h)

/-- DRAIN_DONE: position 0 notes a position's report; a report about the device's own position says that its buddy copy
is complete (R401, log 28). -/
def execDrainDone (t : Nt) (pos : BitVec 6) (epoch : BitVec 32) : State → Host.Outcome State Fault Refusal :=
  onHub t (fun h =>
    if h.g F.POOLROLE_size = 0 then h
    else if pos.toNat = h.position then h.holdCut epoch
    else if h.position = 0 then h.posHeld pos.toNat epoch
    else h)

/-- DRAIN_SETTLED (R412). -/
def execDrainSettled (t : Nt) (src : BitVec 6) (sk : BitVec 128) : State → Host.Outcome State Fault Refusal :=
  onHub t (fun h =>
    { h with ck := { h.ck with sends := h.ck.sends.filter (fun e => !(e.target == src && e.sess.r.sk == sk))
                               claims := h.ck.claims.filter (fun e => !(e.src == src && e.sk == sk)) } })

/-- DRAIN_RESTORED (R412). -/
def execDrainRestored (t : Nt) (src : BitVec 6) (cutNt : Nt) : State → Host.Outcome State Fault Refusal :=
  onHub t (fun h =>
    let plans := smGet [] h.im.plans (h.g F.POOLPLAN_active)
    let grpOf (d : BitVec 6) : Option (BitVec 8) := (plans.find? (fun p =>
      decide (p.base.toNat ≤ d.toNat ∧ d.toNat < p.base.toNat + p.n.toNat))).map (·.base)
    let hit (d : BitVec 6) (n : Nt) : Bool := (d == src || (grpOf d).isSome && grpOf d == grpOf src) && decide (cutNt ≤ n)
    let sends := h.ck.sends.filter (fun e => hit e.target e.nt)
    let claims := h.ck.claims.filter (fun e => hit e.src e.nt)
    let h := { h with ck := { h.ck with sends := h.ck.sends.filter (fun e => !hit e.target e.nt)
                                        claims := h.ck.claims.filter (fun e => !hit e.src e.nt) } }
    let h := sends.foldl (fun h e =>
      let x := e.sess
      let q : Hub.Install := { sk := x.r.sk, oldNsi := e.nsi, tenant := x.r.tenant, epoch := x.r.ownEpoch + 2, state := x.r.prior
                               rest := x.rest, logonly := x.r.logonly, r := { x.r with logonly := x.r.logonly }, stack := x.stack
                               held := x.held, relOff := x.relOff, log := x.log, pend := x.pendIn, share := x.share }
      if (h.findSk x.r.sk).isSome then h
      else
        match h.install q with
        | none => h
        | some (i, h) =>
          let root := h.rootIndex i
          let h := h.modS i (fun y => { y with r := y.r.setRoot (if e.kv.isEmpty then 0 else root)
                                               extent := x.extent, kvx := x.kvx })
          let parked := x.r.prior == S.parked
          let bare (s : ExtShard) : ExtShard := if parked then { s with pages := [], rings := [] } else s
          let h := e.kv.foldl (fun h s => h.installExt root (bare s)) h
          let h := h.migRecord { x.r with nsi := e.nsi } none St.ok 0 (h.s i).r.nsi
          h.installed i true) h
    claims.foldl (fun h e =>
      match h.findSk e.sk with
      | none => h
      | some i => if (h.s i).r.omm then h else h.ownerMismatch i (e.epoch + 1)) h)

/-- BUDDY: the buddy's Granary takes a delta in the CUT class; the copy is complete once its deltas are durable (R297, R401). -/
def execBuddy (t : Nt) (src : BitVec 6) (epoch : BitVec 32) (key : Nat) (data : Bytes) :
    State → Host.Outcome State Fault Refusal :=
  onHub t (fun h =>
    let room := h.grnObject (objKey 6 (2 ^ 8 + key)) 6 data.length 0
    let h := (room.getD h).addDur 5 data.length (.buddy src epoch room.isSome)
    let cur := ((h.ck.bkv.find? (fun c => c.1 == epoch)).map (·.2)).getD ((h.ck.bkv.head?.map (·.2)).getD [])
    { h with ck := { h.ck with bkv := ((epoch, smPut cur key data) :: h.ck.bkv.filter (fun c => c.1 != epoch)).take 3 } })

/-- OWN_SLOT_WRITE: the slot write in progress finishes with its manifest (R402, R403), where its units were allocated (R294, log 160). -/
def execOwnSlotWrite (t : Nt) : State → Host.Outcome State Fault Refusal :=
  onHub t (fun h =>
    match h.ck.writing with
    | none => h
    | some (b, img) =>
      match h.grnObject (objKey 6 (b2n b)) 6 (4096 * (recPages img.sess).length + 64) 0 with
      | none => { h with ck := { h.ck with writing := none } }
      | some h =>
      let h := { h with ck := { h.ck with writing := none, slotA := if b then h.ck.slotA else some img
                                          slotB := if b then some img else h.ck.slotB } }
      (h.p F.CKPTEPOCH_own img.epoch.toNat).startSlot)

/-- AUTO_RESTORE: the group has agreed on a restore, CKPTHOLD after fault entry or after a RESTORE command (R404, R405). -/
def execAutoRestore (t : Nt) (info : RestoreInfo) : State → Host.Outcome State Fault Refusal :=
  onHub t (fun h =>
    match h.ck.restore with
    | some (m, sub) =>
      let named : BitVec 32 := match sub with
        | some c => BitVec.ofNat 32 (c.line.opd 36 4)
        | none => 0
      let h := h.applyRestore info m named sub
      if h.ck.done.isSome then h else h.p F.CKPTSTAT_restoring 0
    | none =>
      if h.on F.HDEVIDX_spare then h.applyRestore info 0 0 none
      else
        match h.ck.faultNt with
        | none => h
        | some f =>
          if h.faulted && h.on F.CKPTCTL_auto_restore && decide (f.toNat + h.g F.CKPTHOLD_ms * 1000000 ≤ h.nt.toNat) then
            h.applyRestore info 0 0 none
          else h)

end Sys2Proof.Machine
end

