-- ==== Sys2Proof/Machine/Foreign.lean ====
section
/-! DEFINITION. The state that this device holds for sessions whose owner is another device of its group (R21): what their owners order at a
step boundary. The spec gives such an order no message, no record of a boundary frame and no row of the table, so that free values say which
orders come, and with what operands (log 78). -/

namespace Sys2Proof.Machine

namespace Hub

/-- The root index in a free value, where it is one of another device of the group (R63). -/
def foreignRoot (h : Hub) (v : Nat) : Option (BitVec 32) :=
  let p := v / 2 ^ 18 % 64
  if p < h.groupN ∧ p ≠ h.position then some (BitVec.ofNat 32 (v % 2 ^ 24)) else none

/-- What a root index holds in positions (R72). -/
def rootLen (h : Hub) (root : BitVec 32) : Nat :=
  match h.shards.head? with
  | none => 0
  | some sh => ((h.root? root sh).map (·.kvLen.toNat)).getD 0

/-- The extent of a foreign root leaves the Granary (R48, R164, R175). -/
def dropForeign (h : Hub) (root : BitVec 32) : Hub :=
  match smLook h.gr.fext root.toNat with
  | none => h
  | some x => (h.grnRelease (objKey 1 x.nsi.toNat)).modG (fun g => { g with fext := smDel g.fext root.toNat })

/-- A park of another owner reaches this device: it counts for granary_full whether it passed or not, and one that passed has its extent
written for the shards that the device runs (R153, R154, R166, R429). -/
def parkForeign (h : Hub) (root : BitVec 32) (pass : Bool) (nsi : W64) (keygen : BitVec 16) (rest : BitVec 4) : Hub :=
  let kv := h.rootLen root
  let n := h.extentBytes kv false
  let h : Hub := { h with grp := { h.grp with largestPark := max h.grp.largestPark n } }
  if !pass || (smLook h.gr.objs (objKey 1 nsi.toNat)).isSome then h
  else
    match h.grnObject (objKey 1 nsi.toNat) 1 n keygen with
    | none => h
    | some h =>
      let x : FExt := { nsi := nsi, keygen := keygen, hdr := h.headerOf nsi h.nt keygen rest kv n false, exts := h.capture root }
      (h.addDur 0 n (.foreign root)).modG (fun g => { g with fext := smPut g.fext root.toNat x })

/-- A revive of another owner reads this device's extent into private frames, once they are reserved (R156, R157). -/
def reviveForeign (h : Hub) (root : BitVec 32) : Hub :=
  match smLook h.gr.fext root.toNat, h.model with
  | some x, some m =>
    let pages := cdiv ((x.exts.head?.map (·.root.kvLen.toNat)).getD 0) 64
    match h.reserve root (h.shards.map (fun _ => (pages, min pages (wPages m)))) with
    | none => { h with grp := { h.grp with resFail := true } }
    | some h => (x.exts.foldl (fun h e => h.installExt root e) h).unreserve root
  | _, _ => h

/-- The next page of a root is bound to a node that follows its chain (R80). -/
def bindForeign (h : Hub) (root : BitVec 32) (nd : Nat) : Hub :=
  match h.shards.head?.bind (h.root? root), smLook h.kv.nodes nd with
  | some rt, some node =>
    if node.parent ≠ rt.pfxNode ∨ node.page ≠ rt.pfxBound ∨ rt.kvLen ≠ 0 then h
    else
      let h := h.setNodes (smPut h.kv.nodes nd { node with refs := node.refs + 1, touch := h.nt })
      (h.bindPage root nd node rt.pfxBound.toNat).inc F.KVBIND_pages
  | _, _ => h

/-- A node for a page of a root, under a parent node (R78, R79). -/
def insertForeign (h : Hub) (root : BitVec 32) (parent page : Nat) (tenant : BitVec 24) (toks : List (BitVec 32)) : Hub :=
  match h.shards.head?.bind (h.root? root) with
  | none => h
  | some rt =>
    match h.scopeAt tenant.toNat rt page, h.pageFrames root page with
    | some sc, some (gs, ws) =>
      let old := (smLook h.kv.nodes parent).isSome || parent == 0
      if !old || h.g F.KVPFXLIM_limit ≤ h.kv.nodes.length || (h.findNode sc parent page toks).isSome then h
      else
        let h := gs.foldl (fun h g => h.addRef 0 g.toNat) h
        let h := ws.foldl (fun h w => h.addRef 1 w.toNat) h
        h.setNodes (smPut (smMod h.kv.nodes parent (fun n => { n with children := n.children + 1 })) (lowestFree 1 h.kv.nodes)
          (nodeOf sc parent page tenant h.nt gs ws toks))
    | _, _ => h

/-- The pieces of a root go to the group that its session migrates to, shard by shard (R175). -/
def sendForeign (h : Hub) (root : BitVec 32) (sk : BitVec 128) (target : BitVec 6) : Hub :=
  let exts := match smLook h.gr.fext root.toNat with
    | some x => x.exts
    | none => h.capture root
  exts.foldl (fun h e =>
    let d := h.holderOf target e.shard
    let sh := BitVec.ofNat 6 e.shard
    let h := h.send d (.part sk (.root sh e.root.kvLen e.root.head e.root.hist e.root.share e.root.histFull))
    let h := e.pages.foldl (fun h p => h.send d (.part sk (.piece sh false (BitVec.ofNat 32 p.1) p.2.1 p.2.2))) h
    let h := e.rings.foldl (fun h p => h.send d (.part sk (.piece sh true (BitVec.ofNat 32 p.1) p.2.1 p.2.2))) h
    h.send d (.part sk .fin)) h

/-- A session moves to another owner of the group: root tables copied, the extent's header rewritten and its key changed (R175). -/
def moveForeign (h : Hub) (root new : BitVec 32) (nsi : W64) : Hub :=
  let h := h.copyRoots root new
  match smLook h.gr.fext root.toNat with
  | none => h
  | some x =>
    if (smLook h.gr.objs (objKey 1 nsi.toNat)).isSome then h
    else
      let h := h.rekey (objKey 1 x.nsi.toNat) (objKey 1 nsi.toNat)
      let hdr := h.renamedHeader x.hdr nsi
      h.modG (fun g => { g with fext := smPut (smDel g.fext root.toNat) new.toNat { x with nsi := nsi, hdr := hdr } })

/-- One order: three free values give the operation, the roots and the operands. -/
def foreignOrder (h : Hub) : Hub :=
  let (v, h) := h.fresh
  let (w, h) := h.fresh
  let (u, h) := h.fresh
  match h.foreignRoot (bitsOf v.toNat 27 4) with
  | none => h
  | some root =>
    let other := h.foreignRoot (bitsOf v.toNat 51 28)
    match bitsOf v.toNat 3 0 with
    | 0 => (h.makeRoots root (v.getLsbD 52)).modRoots root (fun rt =>
        histPush rt rt.kvLen.toNat (bitsOf u.toNat 9 0) (bitsOf u.toNat 25 10) (v.getLsbD 53))
    | 1 => h.setKvLen root (bitsOf u.toNat 31 0)
    | 2 => h.bindForeign root (bitsOf u.toNat 31 0)
    | 3 =>
      let toks := (List.range 64).map (fun k => (Config.freeValue (h.free + k)).setWidth 32)
      ({ h with free := h.free + 64 } : Hub).insertForeign root (bitsOf u.toNat 31 0) (bitsOf u.toNat 63 32) (w.setWidth 24) toks
    | 4 => match other with
      | some r => if (h.shards.any (fun sh => (h.root? r sh).isSome)) then h else h.copyRoots root r
      | none => h
    | 5 => h.parkForeign root (v.getLsbD 52) w (u.setWidth 16) (BitVec.ofNat 4 (bitsOf u.toNat 19 16))
    | 6 => h.releaseFrames root
    | 7 => h.reviveForeign root
    | 8 => (h.dropForeign root).releaseRoots root
    | 9 => h.dropForeign root
    | 10 => h.unreserve root
    | 11 => match other with
      | some r => if (h.shards.any (fun sh => (h.root? r sh).isSome)) then h else h.moveForeign root r w
      | none => h
    | 12 => h.sendForeign root (w ++ u) (BitVec.ofNat 6 (bitsOf v.toNat 57 52))
    | _ => h

/-- The orders that reach the device at one point of a boundary; none in a group of one. -/
def foreignWork (h : Hub) : Hub :=
  if h.groupN ≤ 1 then h
  else
    let (v, h) := h.fresh
    (List.range (v.toNat % 2 ^ 16)).foldl (fun h _ => h.foreignOrder) h

/-- Chunks of prefills, as root index, first position and length. -/
abbrev Chunk : Type := BitVec 32 × Nat × Nat

/-- The chunks of the step that begins, in the order of their grants: the device's own, and among them those of sessions of other owners, whose
grains run here too (R107). Frames are reserved for them (R74); which they are and where they stand is outside this module (log 78). -/
def foreignChunks (h : Hub) (own : List Chunk) : List Chunk × Hub :=
  if h.groupN ≤ 1 then (own, h)
  else
    let (v, h) := h.fresh
    (List.range (v.toNat % 256)).foldl (fun (acc : List Chunk × Hub) _ =>
      let (w, h) := acc.2.fresh
      match h.foreignRoot (bitsOf w.toNat 23 0) with
      | none => (acc.1, h)
      | some root =>
        let c : Chunk := (root, bitsOf w.toNat 45 24, bitsOf w.toNat 57 46)
        let l := acc.1.take (bitsOf w.toNat 63 58) ++ [c] ++ acc.1.drop (bitsOf w.toNat 63 58)
        match h.reserve root (h.need root c.2.1 c.2.2) with
        | none => (l, { h with grp := { h.grp with resFail := true } })
        | some h => (l, h)) (own, h)

end Hub

end Sys2Proof.Machine
end

