-- ==== Sys2Proof/Machine/Scratch.lean ====
section
/-! DEFINITION. Stone scratch: lines, FP32 vectors, packed elements and poison (R261, R376, R377), the fields of a slot
word and the checks a load makes of it (R261). -/

namespace Sys2Proof.Machine

/-- Scratch lines of a stone (R261). -/
def scratchLines : Nat := 10240

namespace Stone

/-- A scratch line; a line nothing has written reads as 0 (log 3). -/
def line (s : Stone) (i : Nat) : BitVec 512 := smGet 0 s.lines i

/-- Write a scratch line. -/
def setLine (s : Stone) (i : Nat) (v : BitVec 512) : Stone := { s with lines := smSet 0 s.lines i v }

/-- Bits of scratch seen as one little-endian string: `w` bits from bit `o` of line `i` on. -/
def bitsAt (s : Stone) (i o w : Nat) : Nat :=
  let l := i + o / 512
  let o' := o % 512
  ((s.line l).toNat + (s.line (l + 1)).toNat * 2 ^ 512) / 2 ^ o' % 2 ^ w

/-- Write `w` bits at bit `o` from line `i` on; the field lies within one line. -/
def setBitsAt (s : Stone) (i o w v : Nat) : Stone :=
  let l := i + o / 512
  let o' := o % 512
  s.setLine l (BitVec.ofNat 512 (setBits (s.line l).toNat (o' + w - 1) o' v))

/-- The k-th FP32 element from line `i` on. -/
def f32 (s : Stone) (i k : Nat) : F32 := BitVec.ofNat 32 (s.bitsAt i (32 * k) 32)

/-- The `n` FP32 elements from line `i` on. -/
def f32s (s : Stone) (i n : Nat) : List F32 := (List.range n).map (s.f32 i)

/-- One line built from up to 16 FP32 elements, the rest kept from `old`. -/
def packLine (old : BitVec 512) (l : List F32) : BitVec 512 :=
  BitVec.ofNat 512 ((l.zipIdx).foldl (fun acc e => setBits acc (32 * e.2 + 31) (32 * e.2) e.1.toNat) old.toNat)

/-- Write FP32 elements from line `i` on, sixteen a line. -/
def putF32s (s : Stone) (i : Nat) : Nat → List F32 → Stone
  | 0, _ => s
  | n + 1, l =>
    match l with
    | [] => s
    | _ => putF32s (s.setLine i (packLine (s.line i) (l.take 16))) (i + 1) n (l.drop 16)

/-- Write bytes from line `i` on, 64 a line; a last line in part keeps its other bytes. -/
def putBytes (s : Stone) (i : Nat) : Nat → Bytes → Stone
  | 0, _ => s
  | n + 1, b =>
    match b with
    | [] => s
    | _ =>
      let c := b.take 64
      let old := (s.line i).toNat
      let new := ofLe c + old / 2 ^ (8 * c.length) * 2 ^ (8 * c.length)
      putBytes (s.setLine i (BitVec.ofNat 512 new)) (i + 1) n (b.drop 64)

/-- The `n` bytes from line `i` on. -/
def bytesAt (s : Stone) (i n : Nat) : Bytes :=
  (((List.range (cdiv n 64)).map (fun k => le 64 (s.line (i + k)).toNat)).flatten).take n

/-- Any of `n` lines from `i` on is poisoned. -/
def anyPoison (s : Stone) (i n : Nat) : Bool := s.poison.any (fun p => decide (i ≤ p ∧ p < i + n))

/-- Lines `i` to `i + n − 1` take the poison `p` (R377). -/
def setPoison (s : Stone) (i n : Nat) (p : Bool) : Stone :=
  let rest := s.poison.filter (fun q => !decide (i ≤ q ∧ q < i + n))
  { s with poison := if p then rest ++ (List.range n).map (· + i) else rest }

end Stone

/-- A logical stone's state. -/
def Stones.get (s : Stones) (l : BitVec 11) : Stone := smGet {} s.st l.toNat

/-- Replace a logical stone's state. -/
def Stones.set (s : Stones) (l : BitVec 11) (x : Stone) : Stones := { s with st := smSet {} s.st l.toNat x }

/-- A stone scrubbed between slices of different partitions: scratch, formats and sums are zero (R437). -/
def Stone.wiped (st : Stone) : Stone :=
  { st with lines := [], poison := [], afmt := 0, bfmt := 0, sigma := 0, acc48 := [] }

/-- Bits [hi:lo] of a slot or instruction word. -/
def wf (w : W64) (hi lo : Nat) : Nat := bitsOf w.toNat hi lo

/-- Element formats of R263 by code: bits per element. -/
def fmtBits (f : Nat) : Nat :=
  match f with
  | 0x0 => 4 | 0x1 => 6 | 0x2 => 6 | 0x3 => 8 | 0x4 => 8 | 0x5 => 8 | 0x6 => 8 | 0x7 => 16 | 0x8 => 16 | 0x9 => 8
  | 0xA => 32 | 0xB => 4 | _ => 8

/-- The floating-point format of a code; INT8 and INT4 have none. -/
def fmtOf (f : Nat) : Option Fmt :=
  match f with
  | 0x0 => some .e2m1 | 0x1 => some .e2m3 | 0x2 => some .e3m2 | 0x3 => some .e4m3 | 0x4 => some .e5m2
  | 0x5 => some .e4m3 | 0x6 => some .e5m2 | 0x7 => some .bf16 | 0x8 => some .fp16 | 0xA => some .fp32
  | 0xC => some .e4m3 | _ => none

/-- A two's-complement number of `w` bits. -/
def sint (w x : Nat) : Int := if x < 2 ^ (w - 1) then x else (x : Int) - 2 ^ w

/-- The value of an element code. -/
def elemVal (f c : Nat) : FV :=
  match fmtOf f with
  | some g => g.dec c
  | none =>
    let v := sint (fmtBits f) c
    .fin (decide (v < 0)) v.natAbs 0

/-- A pair of formats that R194 lists. -/
def pairListed (a b : Nat) : Bool :=
  (a ≤ 4 && b ≤ 4) || ((a == 5 || a == 6) && (b == 5 || b == 6)) || ((a == 7 || a == 8) && (b == 7 || b == 8))
    || (a == 9 && b == 9) || (a == 0xA && (b == 0xB || b == 0xC))

/-- A line field names a line of scratch, with `n` lines from it on. -/
def lineOk (w : W64) (hi lo n : Nat) : Bool := decide (wf w hi lo + n ≤ scratchLines)

/-- The units of a stone: matrix, vector, move, link/sync. -/
def unitMatrix : Nat := 0
def unitVector : Nat := 1
def unitMove : Nat := 2
def unitLink : Nat := 3

/-- What a slot occupies (R262 to R266): its unit, its handshake steps, the line ranges it reads and writes. -/
structure SlotUse where
  unit   : Nat
  steps  : Nat
  reads  : List (Nat × Nat) := []
  writes : List (Nat × Nat) := []

/-- Two line ranges meet. -/
def meets (a b : Nat × Nat) : Bool := decide (a.1 < b.1 + b.2 ∧ b.1 < a.1 + a.2)

/-- The handshake step at which a bundle holding this one slot issues (R262): after the bundle before it, when its unit
is free, when earlier bundles have written what it reads and no longer read what it writes. DEDUCED (log 13): a command
stands for a bundle whose other slots are NOP, and bundles issue at least one step apart. -/
def Stone.issueAt (s : Stone) (u : SlotUse) : Nat :=
  let waits := s.inUse.map (fun e =>
    let r := (e.2.2.1, e.2.2.2)
    let hit := if e.2.1 then u.writes.any (meets r) else u.reads.any (meets r)
    if hit then e.1 else 0)
  (waits.foldl max (max s.next (s.unit.getD u.unit 0)))

/-- A slot issues: its unit and lines are busy until it completes. -/
def Stone.issue (s : Stone) (u : SlotUse) : Stone :=
  let t := s.issueAt u
  let done := t + u.steps
  { s with next := t + 1, unit := s.unit.set u.unit done
           inUse := (s.inUse.filter (fun e => decide (t < e.1))) ++ u.reads.map (fun r => (done, true, r.1, r.2))
             ++ u.writes.map (fun r => (done, false, r.1, r.2)) }

/-- A stone reads scratch: an armed SCR_CE is corrected and counted; an armed SCR_UE leaves its line poisoned and fails the
die's check of the step (R376, R384, R392). -/
def Hub.scratchRead (h : Hub) (l : BitVec 11) (st : Stone) (reads : List (Nat × Nat)) : Stone × Hub :=
  let mine (x : Inj) : Bool := bitsOf x.a.toNat 10 0 == l.toNat && reads.any (fun r => decide (r.1 ≤ x.b.toNat ∧ x.b.toNat < r.1 + r.2))
  let (ce, h) := h.fireInj 0x03 mine
  let h := if ce then h.inc F.INTSCRCE_count else h
  match h.fireAt 0x04 mine with
  | (none, h) => (st, h)
  | (some x, h) => (st.setPoison x.b.toNat 1 true, h.checkFail F.INTSCRUE_count l.toNat true)

/-- The load accepts a matrix slot (R261): lines within scratch, reserved fields 0, listed formats. -/
def matrixOk (op : Nat) (w : W64) : Bool :=
  wf w 63 56 == op &&
  (if op = 0x0F then wf w 55 48 == 0 && pairListed (wf w 7 0) (wf w 15 8)
   else lineOk w 55 42 1 && lineOk w 41 28 1 && lineOk w 27 14 (2 ^ wf w 13 11) && decide (wf w 13 11 ≤ 5) &&
    (if op ≤ 2 then lineOk w 27 14 (4 * 2 ^ wf w 13 11) && decide (1 ≤ wf w 10 3) && wf w 0 0 == 0
     else wf w 10 0 == 0))

/-- Lines that `c` vectors take. -/
def vecLines (c : Nat) : Nat := 4 * c

/-- The load accepts a vector slot (R261, R264). -/
def vectorOk (op : Nat) (w : W64) : Bool :=
  let c := wf w 13 6
  let sub := wf w 5 0
  wf w 63 56 == op && decide (1 ≤ c) && lineOk w 55 42 1 && lineOk w 41 28 (vecLines c) && lineOk w 27 14 1 &&
  (match op with
   | 0x09 => lineOk w 55 42 (vecLines c) && decide (sub ≤ 8)
   | 0x0B => lineOk w 55 42 (cdiv (64 * c * fmtBits sub) 512) && decide (sub ≤ 0xA)
   | 0x0C => lineOk w 55 42 (cdiv (64 * c * fmtBits sub + 16 * c) 512) && decide (sub ≤ 4)
   | 0x0D => decide (sub ≤ 3)
   | 0x0E => lineOk w 55 42 4 && decide (sub ≤ 3)
   | 0x0F => lineOk w 55 42 (vecLines c + 1)
   | 0x06 => lineOk w 55 42 (vecLines c)
   | 0x0A => lineOk w 55 42 (vecLines c)
   | _ => lineOk w 55 42 (vecLines c) && lineOk w 27 14 (vecLines c))

/-- The load accepts a move slot (R261, R265). -/
def moveOk (op : Nat) (w : W64) : Bool :=
  wf w 63 56 == op &&
  (match op with
   | 0x01 => lineOk w 55 42 (wf w 27 12) && lineOk w 41 28 (wf w 27 12) && wf w 11 0 == 0
   | 0x02 => wf w 55 32 == 0
   | 0x03 => lineOk w 55 42 1 && wf w 11 0 == 0
   | _ => lineOk w 55 42 (wf w 41 26) && decide (wf w 25 24 ≤ 1) && wf w 23 0 == 0)

/-- The load accepts a link/sync slot (R261, R266). -/
def linkOk (op : Nat) (w : W64) : Bool :=
  wf w 63 56 == op &&
  (match op with
   | 0x01 => lineOk w 55 42 1 && wf w 25 0 == 0
   | 0x02 => lineOk w 55 42 1 && wf w 25 0 == 0
   | 0x03 => lineOk w 55 42 (wf w 16 1) && lineOk w 30 17 (wf w 16 1) && wf w 0 0 == 0
   | 0x04 => wf w 44 32 == 0
   | 0x05 => decide (1 ≤ wf w 55 48 ∧ wf w 55 48 ≤ 4) && decide (1 ≤ wf w 46 32 ∧ wf w 46 32 ≤ 30000) && wf w 47 47 == 0
   | 0x06 => wf w 55 32 == 0
   | _ => wf w 55 0 == 0)

end Sys2Proof.Machine
end

