-- ==== Sys2Proof/Machine/Matrix.lean ====
section
/-! DEFINITION. Matrix slots (R194 to R197, R205, R263). -/

namespace Sys2Proof.Machine

/-- Operand rows of the matrix unit: `n` elements of format `f` starting at line `i`, each with the scale of its block
where `f` is an MX format (R191, R263). -/
def rowVals (s : Stone) (i f n : Nat) : List FV :=
  let b := fmtBits f
  (List.range n).map (fun k =>
    let v := elemVal f (s.bitsAt i (b * k) b)
    if f ≤ 4 then
      let sc := s.bitsAt i (b * n + 8 * (k / 32)) 8
      if sc = 0xFF then .nan else v.mul (.fin false 1 ((sc : Int) - 127))
    else v)

/-- Lines of an operand row: elements, scale bytes, padding to a whole line (R263). -/
def rowLines (f n : Nat) : Nat := cdiv (fmtBits f * n + (if f ≤ 4 then 8 * (n / 32) else 0)) 512

/-- One accumulation over groups of 32: exact group sum, one rounding a group (R195, R196). -/
def accGroups : Nat → F32 → List FV → List FV → F32
  | 0, acc, _, _ => acc
  | g + 1, acc, a, b =>
    let prods := List.zipWith FV.mul (a.take 32) (b.take 32)
    accGroups g (sumOnce (dec32 acc :: prods)) (a.drop 32) (b.drop 32)

/-- The number of NaNs in results, for ARITHNAN (R196). -/
def nans (l : List F32) : Nat := l.countP isNan

/-- A matrix or vector operation's effect: the stone with its results, and the FP32 results for ARITHNAN. -/
structure OpRes where
  st  : Stone
  out : List F32
  use : SlotUse

/-- MMA: C = A·B over Kg groups, or continued from C (R195, R263). Where the configured formats are not a pair of
the floating-point modes of R194, the results are the free function of the slot word (log 9). -/
def mmaOp (s : Stone) (w : W64) : OpRes :=
  let R := 2 ^ wf w 13 11
  let K := 32 * wf w 10 3
  let fa := s.afmt.toNat
  let fb := s.bfmt.toNat
  let A := wf w 55 42
  let B := wf w 41 28
  let C := wf w 27 14
  let cont := wf w 2 2 == 1
  let bad := fa == 9 || fa == 0xA
  let cols := (List.range 64).map (fun j => rowVals s (B + j * rowLines fb K) fb K)
  let out := ((List.range R).map (fun r =>
    let a := rowVals s (A + r * rowLines fa K) fa K
    (cols.zipIdx).map (fun e =>
      if bad then canon32 (Config.mmOpen w (64 * r + e.2))
      else accGroups (K / 32) (if cont then s.f32 C (64 * r + e.2) else zero32) a e.1))).flatten
  let p := s.anyPoison A (R * rowLines fa K) || s.anyPoison B (64 * rowLines fb K) || (cont && s.anyPoison C (4 * R))
  let f := if fa = 0 ∧ fb = 0 then 1 else if fa ≤ 6 then 2 else 4
  ⟨(s.putF32s C (4 * R) out).setPoison C (4 * R) p, out,
    { unit := unitMatrix, steps := R * (K / 32) * f
      reads := [(A, R * rowLines fa K), (B, 64 * rowLines fb K)] ++ (if cont then [(C, 4 * R)] else [])
      writes := [(C, 4 * R)] }⟩

/-- A 48-bit sum as an integer. -/
def int48 (x : BitVec 48) : Int := x.toInt

/-- MMAI: the exact 48-bit sum over the segment, held beside C, written as FP32 by RNE or as a saturated INT32
(R197, R263). Where the configured pair is not INT8 × INT8 the sums are the free function of the slot word (log 9). -/
def mmaiOp (s : Stone) (w : W64) : OpRes :=
  let R := 2 ^ wf w 13 11
  let K := 32 * wf w 10 3
  let A := wf w 55 42
  let B := wf w 41 28
  let C := wf w 27 14
  let cont := wf w 2 2 == 1
  let bad := s.afmt != 9 || s.bfmt != 9
  let row (i : Nat) : List Int := (List.range K).map (fun k => sint 8 (s.bitsAt i (8 * k) 8))
  let cols := (List.range 64).map (fun j => row (B + j * cdiv (8 * K) 512))
  let sums : List Int := ((List.range R).map (fun r =>
    let a := row (A + r * cdiv (8 * K) 512)
    (cols.zipIdx).map (fun e =>
      let old := if cont then int48 (smGet 0 s.acc48 (16 * C + 64 * r + e.2)) else 0
      if bad then (Config.mmOpen w (64 * r + e.2)).toInt
      else old + (List.zipWith (· * ·) a e.1).sum))).flatten
  let held := (sums.zipIdx).foldl (fun m e => smSet 0 m (16 * C + e.2) (BitVec.ofInt 48 e.1)) s.acc48
  let sums48 := sums.map (fun x => int48 (BitVec.ofInt 48 x))
  let out : List F32 := sums48.map (fun x =>
    if wf w 1 1 == 1 then BitVec.ofInt 32 (max (-2147483648) (min 2147483647 x)) else rne32 ⟨x, 0⟩)
  let p := s.anyPoison A (R * cdiv (8 * K) 512) || s.anyPoison B (64 * cdiv (8 * K) 512) || (cont && s.anyPoison C (4 * R))
  ⟨({ s with acc48 := held }.putF32s C (4 * R) out).setPoison C (4 * R) p, [],
    { unit := unitMatrix, steps := R * (K / 32) * 2
      reads := [(A, R * cdiv (8 * K) 512), (B, 64 * cdiv (8 * K) 512)] ++ (if cont then [(C, 4 * R)] else []), writes := [(C, 4 * R)] }⟩

/-- The read-back value of element `e` of piece slot `u` in a staged K or V block: code × scale (R61). DESIGN CHOICE
(log 10): the block's E4M3 scale is the byte after the 8 B mask that follows the block. -/
def kvVal (s : Stone) (B f Q d u e : Nat) : FV :=
  let b := fmtBits f
  let code := s.bitsAt B (b * (d * u + e)) b
  let sc := s.bitsAt B (b * d * Q + 64) 8
  (elemVal f code).mul (Fmt.e4m3.dec sc)

/-- Lines of a staged block with its mask and scale. -/
def blockLines (f Q d : Nat) : Nat := cdiv (fmtBits f * d * Q + 72) 512

/-- MQK: scores of R205 for the admitted slots, −infinity for the others (R263). -/
def mqkOp (s : Stone) (Q d : Nat) (w : W64) : OpRes :=
  let R := 2 ^ wf w 13 11
  let A := wf w 55 42
  let B := wf w 41 28
  let C := wf w 27 14
  let f := s.bfmt.toNat
  let kv := s.afmt == 0xA
  let mask := s.bitsAt B (fmtBits f * d * Q) 64
  let aL := cdiv d 16
  let cL := cdiv Q 16
  let rows := (List.range R).map (fun r =>
    let q := (s.f32s (A + r * aL) d).map dec32
    (List.range Q).map (fun u =>
      if bitsOf mask u u = 0 then negInf32
      else if !kv then canon32 (Config.mmOpen w (64 * r + u))
      else mul32 (accGroups (d / 32) zero32 q ((List.range d).map (kvVal s B f Q d u))) s.sigma))
  let p := s.anyPoison A (R * aL) || s.anyPoison B (blockLines f Q d)
  let st := (rows.zipIdx).foldl (fun st e => st.putF32s (C + e.2 * cL) cL e.1) s
  ⟨st.setPoison C (R * cL) p, rows.flatten,
    { unit := unitMatrix, steps := R * cdiv Q 16 * (d / 32)
      reads := [(A, R * aL), (B, blockLines f Q d)], writes := [(C, R * cL)] }⟩

/-- MPV: o[e] of R205, exact over the slots with one rounding (R263). -/
def mpvOp (s : Stone) (Q d : Nat) (w : W64) : OpRes :=
  let R := 2 ^ wf w 13 11
  let A := wf w 55 42
  let B := wf w 41 28
  let C := wf w 27 14
  let f := s.bfmt.toNat
  let kv := s.afmt == 0xA
  let aL := cdiv Q 16
  let cL := cdiv d 16
  let rows := (List.range R).map (fun r =>
    let pr := (s.f32s (A + r * aL) Q).map dec32
    (List.range d).map (fun e =>
      if !kv then canon32 (Config.mmOpen w (256 * r + e))
      else sumOnce ((pr.zipIdx).filterMap (fun x =>
        if x.1.isZero then none else some (x.1.mul (kvVal s B f Q d x.2 e))))))
  let p := s.anyPoison A (R * aL) || s.anyPoison B (blockLines f Q d)
  let st := (rows.zipIdx).foldl (fun st e => st.putF32s (C + e.2 * cL) cL e.1) s
  ⟨st.setPoison C (R * cL) p, rows.flatten,
    { unit := unitMatrix, steps := R * cdiv Q 32 * (d / 16)
      reads := [(A, R * aL), (B, blockLines f Q d)], writes := [(C, R * cL)] }⟩

/-- Piece slots and head dimension of the active model (R52); the reference geometry where no plan is active. -/
def Hub.kvGeom (h : Hub) : Nat × Nat :=
  match h.model with
  | none => (8, 128)
  | some m => (m.nkv, m.dim)

/-- Handshake steps with a slot issuing, counted for the stone's die (R513); the start of issue after an idle takes a token (R463). -/
def Hub.busy (h : Hub) (l : BitVec 11) (steps : Nat) : Hub :=
  ({ h with diag := { h.diag.putBy h.nt with busy := h.diag.busy.modify (l.toNat / 512) (· + BitVec.ofNat 64 steps) } } : Hub).startIssue l

/-- A matrix or vector bundle slot on logical stone `l`: the result is written and its NaNs counted; a mismatch of its
residues or check lanes, found or injected, fails the die's check of the step (R382 to R384). -/
def stoneOp (t : Nt) (l : BitVec 11) (ok bad : Bool) (cnt : Fld) (point : Nat) (f : Hub → Stone → OpRes) (s : State) :
    Host.Outcome State Fault Refusal :=
  if !ok then .fault .undefinedEncoding
  else
    let h := s.hub.stamp t
    let (st, h) := h.scratchRead l (s.stn.get l) (f h (s.stn.get l)).use.reads
    let r := f h st
    let h := h.inc F.ARITHNAN_count (nans r.out)
    let (inj, h) := h.fireInj point (fun x => bitsOf x.a.toNat 10 0 == l.toNat)
    let h := if bad || inj then h.checkFail cnt l.toNat inj else h
    .next { s with hub := h.busy l r.use.steps, stn := s.stn.set l (r.st.issue r.use) }

/-- MMA (R263). -/
def execMma (t : Nt) (l : BitVec 11) (w : W64) (bad : Bool) (s : State) : Host.Outcome State Fault Refusal :=
  stoneOp t l (matrixOk 0x01 w) bad F.INTMRES_count 0x01 (fun _ st => mmaOp st w) s

/-- MMAI (R263). -/
def execMmai (t : Nt) (l : BitVec 11) (w : W64) (bad : Bool) (s : State) : Host.Outcome State Fault Refusal :=
  stoneOp t l (matrixOk 0x02 w) bad F.INTMRES_count 0x01 (fun _ st => mmaiOp st w) s

/-- MQK (R263). -/
def execMqk (t : Nt) (l : BitVec 11) (w : W64) (bad : Bool) (s : State) : Host.Outcome State Fault Refusal :=
  stoneOp t l (matrixOk 0x03 w) bad F.INTMRES_count 0x01 (fun h st => mqkOp st h.kvGeom.1 h.kvGeom.2 w) s

/-- MPV (R263). -/
def execMpv (t : Nt) (l : BitVec 11) (w : W64) (bad : Bool) (s : State) : Host.Outcome State Fault Refusal :=
  stoneOp t l (matrixOk 0x04 w) bad F.INTMRES_count 0x01 (fun h st => mpvOp st h.kvGeom.1 h.kvGeom.2 w) s

/-- The stone with a matrix configuration (R263). -/
def mcfgOp (s : Stone) (w : W64) : Stone :=
  { s with sigma := BitVec.ofNat 32 (wf w 47 16), bfmt := BitVec.ofNat 8 (wf w 15 8), afmt := BitVec.ofNat 8 (wf w 7 0) }

/-- MCFG: formats and score scale (R263). -/
def execMcfg (t : Nt) (l : BitVec 11) (w : W64) (s : State) : Host.Outcome State Fault Refusal :=
  if !matrixOk 0x0F w then .fault .undefinedEncoding
  else
    let st := (mcfgOp (s.stn.get l) w).issue { unit := unitMatrix, steps := 1 }
    .next { s with hub := (s.hub.stamp t).busy l 1, stn := s.stn.set l st }

end Sys2Proof.Machine
end

