-- ==== Sys2Proof/Machine/VectorUnit.lean ====
section
/-! DEFINITION. Vector slots (R192, R193, R198 to R202, R264, R85). -/

namespace Sys2Proof.Machine

/-! ### Trees and reductions -/

/-- One level of the aligned binary tree: neighbours combine, the lower index on the left; a last value without a
neighbour stays (R200). -/
def treeLevel {α : Type} (f : α → α → α) : List α → List α
  | [] => []
  | [a] => [a]
  | a :: b :: rest => f a b :: treeLevel f rest

/-- The aligned binary tree, level by level (R200). -/
def tree {α : Type} (f : α → α → α) : Nat → List α → List α
  | 0, l => l
  | n + 1, l =>
    match l with
    | [] => []
    | [a] => [a]
    | _ => tree f n (treeLevel f l)

/-- The root of the aligned binary tree; `d` where nothing is present. -/
def treeRoot {α : Type} (f : α → α → α) (d : α) (l : List α) : α := (tree f l.length l).headD d

/-- Lane `j` of R202: elements j, j + 64, ... in ascending order. -/
def lane (l : List F32) (j c : Nat) : List F32 := (List.range c).map (fun k => l.getD (j + 64 * k) 0)

/-- A lane reduction over 64c elements (R202): 0 sum, 1 max, 2 min, 3 sum of squares. DEDUCED (log 11): min starts from
+infinity. -/
def vred (op : Nat) (l : List F32) (c : Nat) : F32 :=
  let start := if op = 1 then negInf32 else if op = 2 then posInf32 else zero32
  let step (acc x : F32) : F32 :=
    match op with
    | 0 => add32 acc x
    | 1 => max32 acc x
    | 2 => min32 acc x
    | _ => fma32 x x acc
  let comb (a b : F32) : F32 := if op = 1 then max32 a b else if op = 2 then min32 a b else add32 a b
  treeRoot comb start ((List.range 64).map (fun j => (lane l j c).foldl step start))

/-- The attention combine of R85 on partials (o elements, then m, then l); an absent partial, whose m is −infinity,
leaves the other unchanged (R84, R205). -/
def attComb (a b : List F32) : List F32 :=
  let n := a.length - 2
  let mL := a.getD n negInf32
  let mR := b.getD n negInf32
  if mL == negInf32 then b
  else if mR == negInf32 then a
  else
    let m := max32 mL mR
    let eL := exp32 (sub32 mL m)
    let eR := exp32 (sub32 mR m)
    let mix (x y : F32) : F32 := add32 (mul32 x eL) (mul32 y eR)
    List.zipWith mix (a.take n) (b.take n) ++ [m, mix (a.getD (n + 1) 0) (b.getD (n + 1) 0)]

/-! ### Conversions -/

/-- A code of an MX element format with a NaN made canonical (R190). -/
def canonCode (f c : Nat) : Nat :=
  if f = 3 ∧ c % 128 = 127 then 0x7F else if f = 4 ∧ 0x7C < c % 128 then 0x7E else c

/-- An FP32 value converted to a format code (R192). MX element codes of an infinity or NaN, which R192 leaves to
R193, are the free function of the operand (log 7). -/
def convert (f : Nat) (x : F32) : Nat :=
  match dec32 x with
  | .nan =>
    if f ≤ 4 then canonCode f ((Config.fnOpen (100 + f) x).toNat % 2 ^ fmtBits f)
    else if f = 9 then 0
    else ((fmtOf f).getD .fp32).nan
  | .inf s =>
    if f ≤ 4 then canonCode f ((Config.fnOpen (100 + f) x).toNat % 2 ^ fmtBits f)
    else if f = 9 then (if s then 0x80 else 0x7F)
    else
      let g := (fmtOf f).getD .fp32
      if f = 5 ∨ f = 6 then (if s then g.sign else 0) + g.top else g.infCode s
  | .fin s m e =>
    if f = 9 then
      let v := if e < 0 then rneShift m (-e).toNat else m * 2 ^ e.toNat
      if s then (256 - min 128 v) % 256 else min 127 v
    else
      let g := (fmtOf f).getD .fp32
      g.round (f ≤ 6) s m e

/-- emax of an MX element format (R193). -/
def emaxOf (f : Nat) : Int :=
  match f with
  | 0 => 2 | 1 => 2 | 2 => 4 | 3 => 8 | _ => 15

/-- A 32-element block quantized to an MX format: element codes and scale (R193). -/
def mxQuant (f : Nat) (b : List F32) : List Nat × Nat :=
  let vs := b.map dec32
  if vs.any (fun v => match v with
      | .fin _ _ _ => false
      | _ => true) then (b.map (fun _ => 0), 0xFF)
  else
    let tops := vs.filterMap (fun v => match v with
      | .fin _ m e => if m = 0 then none else some ((Nat.log2 m : Int) + e)
      | _ => none)
    match tops with
    | [] => (b.map (fun _ => 0), 0)
    | t :: ts =>
      let amax := ts.foldl max t
      let e := max (-127) (min 127 (amax - emaxOf f))
      let g := (fmtOf f).getD .e2m1
      (vs.map (fun v => match v with
        | .fin s m x => g.round true s m (x - e)
        | _ => 0), (e + 127).toNat)

/-- Codes of `b` bits packed into bytes, the first in the lowest bits. -/
def packBits (b : Nat) (l : List Nat) : Bytes :=
  le (cdiv (b * l.length) 8) ((l.zipIdx).foldl (fun acc e => acc + (e.1 % 2 ^ b) * 2 ^ (b * e.2)) 0)

/-! ### The operations -/

/-- What a vector slot occupies: `k` steps a vector over its sources, writing `n` lines. -/
def vecUse (w : W64) (steps n : Nat) (two : Bool) : SlotUse :=
  { unit := unitVector, steps := steps
    reads := (wf w 41 28, 4 * wf w 13 6) :: (if two then [(wf w 27 14, 4 * wf w 13 6)] else [])
    writes := [(wf w 55 42, n)] }

/-- An element-wise operation on src1, src2 and dst. -/
def elementwise (s : Stone) (w : W64) (k : Nat) (two : Bool) (useDst : Bool) (f : F32 → F32 → F32 → F32) : OpRes :=
  let c := wf w 13 6
  let D := wf w 55 42
  let a := s.f32s (wf w 41 28) (64 * c)
  let b := s.f32s (wf w 27 14) (64 * c)
  let d := s.f32s D (64 * c)
  let out := (List.range (64 * c)).map (fun i => f (a.getD i 0) (b.getD i 0) (d.getD i 0))
  let p := s.anyPoison (wf w 41 28) (4 * c) || (two && s.anyPoison (wf w 27 14) (4 * c)) || (useDst && s.anyPoison D (4 * c))
  let u := vecUse w (k * c) (4 * c) two
  ⟨(s.putF32s D (4 * c) out).setPoison D (4 * c) p, out,
    if useDst then { u with reads := (D, 4 * c) :: u.reads } else u⟩

/-- VSCL: src1 × element 0 of src2. -/
def vsclOp (s : Stone) (w : W64) : OpRes :=
  let c := wf w 13 6
  let D := wf w 55 42
  let x := s.f32 (wf w 27 14) 0
  let out := (s.f32s (wf w 41 28) (64 * c)).map (fun a => mul32 a x)
  let p := s.anyPoison (wf w 41 28) (4 * c) || s.anyPoison (wf w 27 14) 1
  let u := vecUse w c (4 * c) false
  ⟨(s.putF32s D (4 * c) out).setPoison D (4 * c) p, out, { u with reads := (wf w 27 14, 1) :: u.reads }⟩

/-- A format's code for a NaN. -/
def nanCode (f c : Nat) : Bool := (fmtOf f).any (fun g => g.dec c == FV.nan)

/-- VCVT: conversion to the format code in subop (R192); the NaNs it writes are counted (R196). -/
def vcvtOp (s : Stone) (w : W64) : OpRes :=
  let c := wf w 13 6
  let D := wf w 55 42
  let f := wf w 5 0
  let a := s.f32s (wf w 41 28) (64 * c)
  let n := cdiv (64 * c * fmtBits f) 512
  let b := packBits (fmtBits f) (a.map (convert f))
  ⟨(s.putBytes D n b).setPoison D n (s.anyPoison (wf w 41 28) (4 * c)),
    (a.filter (fun x => nanCode f (convert f x))).map (fun _ => nan32), vecUse w c n false⟩

/-- VQMX: element bytes, then scales (R193, R264). A scale 0xFF is a NaN that the unit writes (R190, R196). -/
def vqmxOp (s : Stone) (w : W64) : OpRes :=
  let c := wf w 13 6
  let D := wf w 55 42
  let f := wf w 5 0
  let a := s.f32s (wf w 41 28) (64 * c)
  let blocks := (List.range (2 * c)).map (fun k => mxQuant f ((a.drop (32 * k)).take 32))
  let b := packBits (fmtBits f) ((blocks.map (·.1)).flatten) ++ (blocks.map (fun x => BitVec.ofNat 8 x.2))
  let n := cdiv b.length 64
  ⟨(s.putBytes D n b).setPoison D n (s.anyPoison (wf w 41 28) (4 * c)),
    (blocks.filter (fun x => x.2 == 0xFF)).map (fun _ => nan32), vecUse w (2 * c) n false⟩

/-- VRED: one FP32 value at dst (R202, R264). -/
def vredOp (s : Stone) (w : W64) : OpRes :=
  let c := wf w 13 6
  let D := wf w 55 42
  let r := vred (wf w 5 0) (s.f32s (wf w 41 28) (64 * c)) c
  ⟨(s.putF32s D 1 [r]).setPoison D 1 (s.anyPoison (wf w 41 28) (4 * c) || s.anyPoison D 1), [r], vecUse w (c + 6) 1 false⟩

/-- VTREE over c entries of one vector each (R200, R264). DESIGN CHOICE (log 12): in an (m, l, o) entry o stands first,
then m, then l. -/
def vtreeOp (s : Stone) (w : W64) : OpRes :=
  let c := wf w 13 6
  let D := wf w 55 42
  let entries := (List.range c).map (fun k => s.f32s (wf w 41 28 + 4 * k) 64)
  let f (a b : List F32) : List F32 :=
    match wf w 5 0 with
    | 0 => List.zipWith add32 a b
    | 1 => List.zipWith max32 a b
    | 2 => List.zipWith min32 a b
    | _ => attComb a b
  let out := treeRoot f [] entries
  ⟨(s.putF32s D 4 out).setPoison D 4 (s.anyPoison (wf w 41 28) (4 * c)), out, vecUse w (2 * c) 4 false⟩

/-- The maximum of the scores of R205, −infinity standing for a slot that is not admitted: a NaN where every score of a piece is one (R198,
R205). -/
def attMax (l : List F32) : F32 := match l.filter (fun x => x != negInf32) with
  | [] => negInf32
  | a :: rest => rest.foldl max32 a

/-- VATT: m, p and the exact l of R205 from scores; p to dst, m and l after it (R264). -/
def vattOp (s : Stone) (w : W64) : OpRes :=
  let c := wf w 13 6
  let D := wf w 55 42
  let sc := s.f32s (wf w 41 28) (64 * c)
  let m := attMax sc
  let p := sc.map (fun x => if x == negInf32 then zero32 else exp32 (sub32 x m))
  let l := sumOnce (p.map dec32)
  let pz := s.anyPoison (wf w 41 28) (4 * c)
  ⟨((s.putF32s D (4 * c) p).putF32s (D + 4 * c) 1 [m, l]).setPoison D (4 * c + 1) pz, p ++ [m, l], vecUse w (4 * c) (4 * c + 1) false⟩

/-- VCOMB: R85 on the partials at src1 (left) and src2 (right), each of c vectors laid out as in `vtreeOp`. -/
def vcombOp (s : Stone) (w : W64) : OpRes :=
  let c := wf w 13 6
  let D := wf w 55 42
  let out := attComb (s.f32s (wf w 41 28) (64 * c)) (s.f32s (wf w 27 14) (64 * c))
  let p := s.anyPoison (wf w 41 28) (4 * c) || s.anyPoison (wf w 27 14) (4 * c)
  ⟨(s.putF32s D (4 * c) out).setPoison D (4 * c) p, out, vecUse w (4 * c) (4 * c) true⟩

/-- A vector slot: R261's checks, the result, and the check lanes (R383, R384). -/
def vecExec (op : Nat) (t : Nt) (l : BitVec 11) (w : W64) (bad : Bool) (f : Stone → OpRes) (s : State) :
    Host.Outcome State Fault Refusal :=
  stoneOp t l (vectorOk op w) bad F.INTVRES_count 0x02 (fun _ st => f st) s

/-- VADD (R264). -/
def execVadd (t : Nt) (l : BitVec 11) (w : W64) (bad : Bool) (s : State) : Host.Outcome State Fault Refusal :=
  vecExec 0x01 t l w bad (fun st => elementwise st w 1 true false (fun a b _ => add32 a b)) s

/-- VSUB (R264). -/
def execVsub (t : Nt) (l : BitVec 11) (w : W64) (bad : Bool) (s : State) : Host.Outcome State Fault Refusal :=
  vecExec 0x02 t l w bad (fun st => elementwise st w 1 true false (fun a b _ => sub32 a b)) s

/-- VMUL (R264). -/
def execVmul (t : Nt) (l : BitVec 11) (w : W64) (bad : Bool) (s : State) : Host.Outcome State Fault Refusal :=
  vecExec 0x03 t l w bad (fun st => elementwise st w 1 true false (fun a b _ => mul32 a b)) s

/-- VFMA: dst = src1 × src2 + dst, rounded once (R198, R264). -/
def execVfma (t : Nt) (l : BitVec 11) (w : W64) (bad : Bool) (s : State) : Host.Outcome State Fault Refusal :=
  vecExec 0x04 t l w bad (fun st => elementwise st w 1 true true (fun a b d => fma32 a b d)) s

/-- VDIV (R264). -/
def execVdiv (t : Nt) (l : BitVec 11) (w : W64) (bad : Bool) (s : State) : Host.Outcome State Fault Refusal :=
  vecExec 0x05 t l w bad (fun st => elementwise st w 4 true false (fun a b _ => div32 a b)) s

/-- VSQRT (R264). -/
def execVsqrt (t : Nt) (l : BitVec 11) (w : W64) (bad : Bool) (s : State) : Host.Outcome State Fault Refusal :=
  vecExec 0x06 t l w bad (fun st => elementwise st w 4 false false (fun a _ _ => sqrt32 a)) s

/-- VMIN (R198, R264). -/
def execVmin (t : Nt) (l : BitVec 11) (w : W64) (bad : Bool) (s : State) : Host.Outcome State Fault Refusal :=
  vecExec 0x07 t l w bad (fun st => elementwise st w 1 true false (fun a b _ => min32 a b)) s

/-- VMAX (R198, R264). -/
def execVmax (t : Nt) (l : BitVec 11) (w : W64) (bad : Bool) (s : State) : Host.Outcome State Fault Refusal :=
  vecExec 0x08 t l w bad (fun st => elementwise st w 1 true false (fun a b _ => max32 a b)) s

/-- VFN: the function of subop (R264). -/
def execVfn (t : Nt) (l : BitVec 11) (w : W64) (bad : Bool) (s : State) : Host.Outcome State Fault Refusal :=
  vecExec 0x09 t l w bad (fun st => elementwise st w 4 false false (fun a _ _ => fn32 (wf w 5 0) a)) s

/-- VSCL (R264). -/
def execVscl (t : Nt) (l : BitVec 11) (w : W64) (bad : Bool) (s : State) : Host.Outcome State Fault Refusal :=
  vecExec 0x0A t l w bad (fun st => vsclOp st w) s

/-- VCVT (R264). -/
def execVcvt (t : Nt) (l : BitVec 11) (w : W64) (bad : Bool) (s : State) : Host.Outcome State Fault Refusal :=
  vecExec 0x0B t l w bad (fun st => vcvtOp st w) s

/-- VQMX (R264). -/
def execVqmx (t : Nt) (l : BitVec 11) (w : W64) (bad : Bool) (s : State) : Host.Outcome State Fault Refusal :=
  vecExec 0x0C t l w bad (fun st => vqmxOp st w) s

/-- VRED (R264). -/
def execVred (t : Nt) (l : BitVec 11) (w : W64) (bad : Bool) (s : State) : Host.Outcome State Fault Refusal :=
  vecExec 0x0D t l w bad (fun st => vredOp st w) s

/-- VTREE (R264). -/
def execVtree (t : Nt) (l : BitVec 11) (w : W64) (bad : Bool) (s : State) : Host.Outcome State Fault Refusal :=
  vecExec 0x0E t l w bad (fun st => vtreeOp st w) s

/-- VATT (R264). -/
def execVatt (t : Nt) (l : BitVec 11) (w : W64) (bad : Bool) (s : State) : Host.Outcome State Fault Refusal :=
  vecExec 0x0F t l w bad (fun st => vattOp st w) s

/-- VCOMB (R264). -/
def execVcomb (t : Nt) (l : BitVec 11) (w : W64) (bad : Bool) (s : State) : Host.Outcome State Fault Refusal :=
  vecExec 0x10 t l w bad (fun st => vcombOp st w) s

end Sys2Proof.Machine
end

