-- ==== Sys2Proof/Machine/MoveLink.lean ====
section
/-! DEFINITION. Move and link/sync slots (R146, R147, R265 to R268), KV writes (R53 to R60, R71, R76), leats and their
landing (R222, R232, R233, R240, R241), grains and the scrubs between slices (R267, R437). -/

namespace Sys2Proof.Machine

/-! ### KV rows (R55 to R60) -/

/-- The scale of a piece's row (R58): the smallest E4M3 value at or above max|x| · H ÷ QMAX, within [2^−9, 448]. -/
def kvScale (int4 : Bool) (H : Nat) (row : List F32) : Nat :=
  let mags := row.map (fun x => x &&& 0x7FFFFFFF)
  let m := (mags.filter (fun x => match dec32 x with
    | .fin _ _ _ => true
    | _ => false)).foldl max32 zero32
  let raw := div32 (mul32 m (rne32 ⟨H, 0⟩)) (if int4 then 0x40E00000 else 0x43E00000)
  let at_ (c : Nat) : Bool := !((Fmt.e4m3.dec c).lt (dec32 raw))
  ((List.range 0x7E).map (· + 1)).find? at_ |>.getD 0x7E

/-- A stored element code of x under scale s, and whether it counts in sat (R59, R60). -/
def kvQuant (int4 : Bool) (scale : Nat) (x : F32) : Nat × Bool :=
  let s : F32 := (Fmt.e4m3.dec scale).to32
  match dec32 x with
  | .nan => (0, true)
  | .inf neg => if int4 then ((if neg then 9 else 7), true) else ((if neg then 0xFE else 0x7E), true)
  | .fin _ _ _ =>
    let q := div32 x s
    match dec32 q with
    | .fin neg m e =>
      if int4 then
        let v := if e < 0 then rneShift m (-e).toNat else m * 2 ^ e.toNat
        let c := min 7 v
        ((if neg ∧ c ≠ 0 then 16 - c else c), decide (7 < v))
      else
        (Fmt.e4m3.round true neg m e, decide (Fmt.e4m3.top < (Fmt.round { Fmt.e4m3 with top := 0x400 } false false m e)))
    | _ => if int4 then ((if x.getLsbD 31 then 9 else 7), true) else ((if x.getLsbD 31 then 0xFE else 0x7E), true)

namespace Hub

/-- A new frame for page `p` of a root, with its trailer (R56). -/
def openFrame (h : Hub) (m : Model) (root : BitVec 32) (sh cls p : Nat) : Option (Nat × Hub) :=
  let layers := if cls = 0 then m.lg else m.lw
  (h.takeFrame cls root sh).map (fun q =>
    let tr := le 4 (64 * p) ++ le 1 0 ++ le 1 ((if m.int4 then 1 else 2) + cls * 16) ++ le 2 0 ++ le 2 layers
    let h := q.2
    (q.1, { h with kv := { h.kv with frames := smMod h.kv.frames (frameKey cls q.1) (fun f => f.putBytes (pieceBytes m layers) tr) } }))

/-- The frame that takes a write to page `p` of a class, opened, copied or made private as R71 and R76 say; the root entry points at it.
None where no frame is free for it, which a reservation rules out (R74). -/
def writeFrame (h : Hub) (m : Model) (root : BitVec 32) (sh cls p : Nat) : Option (Nat × Hub) :=
  match h.root? root sh with
  | none => none
  | some x =>
    let W := max 1 x.wPages.toNat
    let slot := if cls = 0 then p else p % W
    let tab := if cls = 0 then x.ptes else x.rptes
    let put (h : Hub) (i : Nat) (hd : BitVec 16) : Hub :=
      let e := mkEntry i false slot
      h.putRoot root sh (if cls = 0 then { x with ptes := smPut x.ptes slot e }
        else { x with rptes := smPut x.rptes slot e, head := hd })
    let layers := if cls = 0 then m.lg else m.lw
    match smLook tab slot with
    | none =>
      (h.openFrame m root sh cls p).map (fun q =>
        let h := put q.2 q.1 (BitVec.ofNat 16 slot)
        (q.1, if cls = 0 then h.withDir root sh p else h))
    | some e =>
      let f := smGet {} h.kv.frames (frameKey cls (entryFrame e))
      if cls = 1 && f.num (pieceBytes m layers) 4 != 64 * p then
        (h.openFrame m root sh cls p).map (fun q => (q.1, (put q.2 q.1 (BitVec.ofNat 16 slot)).dropRef cls (entryFrame e)))
      else if entryShared e then
        if 1 < f.refs.toNat then
          (h.openFrame m root sh cls p).map (fun q =>
            let h := q.2
            let h := { h with kv := { h.kv with frames := smPut h.kv.frames (frameKey cls q.1) { f with refs := 1 } } }
            (q.1, ((put h q.1 x.head).dropRef cls (entryFrame e)).inc F.KVCOW_copies))
        else some (entryFrame e, put h (entryFrame e) x.head)
      else some (entryFrame e, h)

/-- The row of one position, layer and side written to its frame on shard `sh` (R53, R55, R58 to R60). -/
def writeRow (h : Hub) (m : Model) (root : BitVec 32) (sh cls j pos : Nat) (isV : Bool) (row : List F32) (poison : Bool) :
    Hub :=
  let G := 64 / max 1 m.nkv
  let t := pos % 64
  if t % G ≠ sh % G then h
  else
    match h.writeFrame m root sh cls (pos / 64) with
    | none => h
    | some (i, h) =>
      let u := t / G
      let layers := if cls = 0 then m.lg else m.lw
      let D := pieceBytes m layers
      let k := frameKey cls i
      let f := smGet {} h.kv.frames k
      let so := D + 16 + 2 * j + b2n isV
      let f := if u = 0 then f.putBytes so [BitVec.ofNat 8 (kvScale m.int4 m.headH row)] else f
      let q := row.map (kvQuant m.int4 (f.byte so).toNat)
      let RB := m.dim * (if m.int4 then 4 else 8) / 8
      let f := f.putBytes (j * 2 * m.nkv * RB + (if isV then m.nkv * RB else 0) + u * RB)
        (packBits (if m.int4 then 4 else 8) (q.map (·.1)))
      let n := q.countP (·.2)
      let f := f.putBytes (D + 4) (le 1 (max (f.num (D + 4) 1) (u + 1)) ++ [f.byte (D + 5)] ++ le 2 (satAdd 16 (f.num (D + 6) 2) n))
      let f := { f with poison := f.poison || poison }
      ({ h with kv := { h.kv with frames := smPut h.kv.frames k f } }).inc F.KVSAT_count n

/-- The shard whose rows a stone writes. DEDUCED (log 14): a device's shards lie on its stones in order. -/
def stoneShard (h : Hub) (l : Nat) : Option Nat := h.shards[l * h.shards.length / 2048]?

end Hub

/-! ### Move slots (R265) -/

/-- A move or link/sync slot that changes the stone alone. -/
def moveExec (t : Nt) (l : BitVec 11) (ok : Bool) (f : Stone → Stone × SlotUse) (s : State) :
    Host.Outcome State Fault Refusal :=
  if !ok then .fault .undefinedEncoding
  else
    let (st, h) := (s.hub.stamp t).scratchRead l (s.stn.get l) (f (s.stn.get l)).2.reads
    let r := f st
    .next { s with hub := h.busy l r.2.steps, stn := s.stn.set l (r.1.issue r.2) }

/-- Lines copied within scratch, with their poison, all read before any is written. -/
def copyLines (src dst : Stone) (a b n : Nat) : Stone :=
  (List.range n).foldl (fun d k => (d.setLine (b + k) (src.line (a + k))).setPoison (b + k) 1 (src.anyPoison (a + k) 1)) dst

/-- XCOPY (R265). -/
def execXcopy (t : Nt) (l : BitVec 11) (w : W64) (s : State) : Host.Outcome State Fault Refusal :=
  moveExec t l (moveOk 0x01 w) (fun st =>
    let n := wf w 27 12
    (copyLines st st (wf w 41 28) (wf w 55 42) n,
      { unit := unitMove, steps := cdiv n 4, reads := [(wf w 41 28, n)], writes := [(wf w 55 42, n)] })) s

/-- The layer of a weight tile of a die's schedule (R146). -/
def Hub.layerOf (h : Hub) (die idx : Nat) : Option Nat := match h.plan with
  | none => none
  | some p => ((p.sched.getD die [])[idx]?).map (·.toNat)

/-- XWAIT: holds issue until the transfer has landed (R147, R265); the hold is time alone, and STAGING_LANDED counts it. The layer being
computed is that of the transfer (R146). -/
def execXwait (t : Nt) (l : BitVec 11) (w : W64) (s : State) : Host.Outcome State Fault Refusal :=
  if !moveOk 0x02 w then .fault .undefinedEncoding
  else
    let h := (s.hub.stamp t).busy l 1
    let q := h.grp.issued.getD (l.toNat / 512) (0, 0)
    let now := max q.2 ((h.layerOf (l.toNat / 512) (wf w 31 0)).getD q.2)
    .next { s with hub := { h with grp := { h.grp with issued := h.grp.issued.set (l.toNat / 512) (q.1, now) } }
                   stn := s.stn.set l ((s.stn.get l).issue { unit := unitMove, steps := 1 }) }

/-- Where the `n` positions of an XKVW lie: the root index and the first position. In a decode grain the record field names an admission
record of the step. DESIGN CHOICE (log 126): in a PREFILL or COMMIT grain it counts positions of the step's prefill chunks, in the order of
their grants; the chunks of other owners' sessions are among them. DESIGN CHOICE (log 78): which chunks, bindings, insertions and FORKs of
other owners reach this device, free values say. -/
def Hub.kvTarget (h : Hub) (g : Option (BitVec 8)) (k : Nat) : Option (BitVec 32 × Nat) :=
  match h.grp.cur with
  | none => none
  | some c =>
    if g = some 2 ∨ g = some 3 then
      let rec at_ : Nat → List (BitVec 32 × Nat × Nat) → Option (BitVec 32 × Nat)
        | _, [] => none
        | k, p :: l => if k < p.2.2 then some (p.1, p.2.1 + k) else at_ (k - p.2.2) l
      at_ k c.chunks
    else (c.adms[k]?).map (fun a => (a.root, a.first.toNat))

/-- XKVW: the rows of some positions, one layer and side, written to their frames (R54, R62, R265). -/
def execXkvw (t : Nt) (l : BitVec 11) (w : W64) (s : State) : Host.Outcome State Fault Refusal :=
  if !moveOk 0x03 w then .fault .undefinedEncoding
  else
    let n := wf w 15 12
    let h := (s.hub.stamp t).busy l (4 * n)
    let d := h.kvGeom.2
    let rl := cdiv d 16
    let (st, h) := h.scratchRead l (s.stn.get l) [(wf w 55 42, n * rl)]
    let h := match h.kvTarget (st.grain.map (·.1)) (wf w 41 26), h.model, h.stoneShard l.toNat with
      | some a, some m, some sh =>
        (List.range n).foldl (fun h k =>
          let src := wf w 55 42 + k * rl
          h.writeRow m a.1 sh (wf w 16 16) (wf w 25 18) (a.2 + k) (wf w 17 17 == 1) (st.f32s src d) (st.anyPoison src rl)) h
      | _, _, _ => h
    let u : SlotUse := { unit := unitMove, steps := 4 * n, reads := [(wf w 55 42, n * rl)] }
    .next { s with hub := h, stn := s.stn.set l (st.issue u) }

/-- An admission record's 48 bytes (R227). -/
def admBytes (a : AdmRec) : Bytes :=
  le 4 a.root.toNat ++ le 1 a.bucket.toNat ++ le 1 a.k.toNat ++ le 1 a.part.toNat ++ le 1 0
    ++ ((List.range 8).map (fun i => le 4 (a.toks.getD i 0xFFFFFFFF).toNat)).flatten ++ le 4 a.first.toNat ++ le 4 0

/-- XHUB: admission records of the step to scratch; a logits slice goes to the hub, whose Gather event delivers it
(R265, R109). -/
def execXhub (t : Nt) (l : BitVec 11) (w : W64) (s : State) : Host.Outcome State Fault Refusal :=
  if !moveOk 0x04 w then .fault .undefinedEncoding
  else
    let n := wf w 41 26
    let h := (s.hub.stamp t).busy l (cdiv n 4)
    let (st, h) := h.scratchRead l (s.stn.get l) (if wf w 25 24 = 1 then [] else [(wf w 55 42, n)])
    let recs := match h.grp.cur with
      | none => []
      | some c => (c.adms.map admBytes).flatten
    let into := wf w 25 24 == 1
    let st' := if into then (st.putBytes (wf w 55 42) n (padTo (64 * n) (recs.take (64 * n)))).setPoison (wf w 55 42) n false
      else st
    let r := [(wf w 55 42, n)]
    .next { s with hub := h
                   stn := s.stn.set l (st'.issue { unit := unitMove, steps := cdiv n 4
                                                   reads := if into then [] else r, writes := if into then r else [] }) }

/-! ### Wire frames (R231, R232) -/

/-- Multiplication in GF(2^8) with x^8 + x^4 + x^3 + x^2 + 1. -/
def gfMul : Nat → Nat → Nat → Nat
  | 0, _, _ => 0
  | n + 1, a, b => (if b % 2 = 1 then a else 0) ^^^ gfMul n (if 128 ≤ a then (2 * a) ^^^ 0x11D else 2 * a) (b / 2)

/-- The three parity bytes of a codeword, the highest power first, by division by (x + 1)(x + 2)(x + 4) (R232). -/
def rsParity (d : List Nat) : List Nat :=
  d.foldl (fun r b =>
    let f := b ^^^ r.getD 0 0
    [r.getD 1 0 ^^^ gfMul 8 7 f, r.getD 2 0 ^^^ gfMul 8 14 f, gfMul 8 8 f]) [0, 0, 0]

/-- The 544 bytes of a frame on the wire (R232). UNVERIFIED (log 127): the order of a codeword's parity bytes. -/
def wireOf (f : Frame) : Bytes :=
  let b0 := f.typ.toNat % 16 + b2n f.poison * 16 + b2n f.unconf * 32 + b2n f.last * 64
  let body := le 1 b0 ++ le 1 f.src.toNat ++ le 1 f.dst.toNat ++ le 1 f.queue.toNat ++ le 4 f.lseq.toNat ++ le 4 f.tag.toNat
    ++ le 4 (f.valid.toNat + f.frag.toNat * 2 ^ 10) ++ padTo 512 (f.payload.take (f.valid.toNat + 1))
  let data := body ++ le 4 (crc32c (body ++ le 4 f.lseq.toNat))
  let par := (List.range 4).map (fun c => rsParity ((List.range 133).map (fun k => (data.getD (4 * k + c) 0).toNat)))
  data ++ (List.range 12).map (fun k => BitVec.ofNat 8 ((par.getD (k % 4) []).getD (k / 4) 0))

/-- The bytes that a logical lane of a port carries of a frame: byte j travels on lane j mod 8 (R231). -/
def laneBytes (f : Frame) (lane : Nat) : Bytes := (List.range 68).map (fun k => (wireOf f).getD (8 * k + lane) 0)

/-! ### Leats (R222, R232, R240, R241) -/

/-- The fields of a leat table entry. -/
structure Leat where
  lport  : Nat
  recv   : Bool
  kind   : Nat
  frames : Nat
  op     : Nat
  dim    : Nat
  span   : Nat

def leatOf (w : W64) : Leat :=
  ⟨wf w 3 0, wf w 4 4 == 1, wf w 7 5, wf w 23 8, wf w 26 24, wf w 29 27, wf w 31 30⟩

namespace Hub

/-- The i-th entry of the active plan's leat table. -/
def leat (h : Hub) (i : Nat) : Option Leat :=
  match h.plan with
  | none => none
  | some p => (p.leats[i]?).map leatOf

/-- A port's state. -/
def port (h : Hub) (n : Nat) : Port := h.ports.getD n {}

/-- Replace a port's state. -/
def setPort (h : Hub) (n : Nat) (p : Port) : Hub := { h with ports := h.ports.set n p }

/-- Send a frame that carries a link sequence number on a physical port; it stays in the replay buffer of 256 frames until it is
acknowledged, and waits where the buffer is full (R233, R234). Nothing leaves while the ports are not active (R246; log 157). -/
def sendFrame (h : Hub) (n : Nat) (f : Frame) : Hub :=
  let p := h.port n
  if !h.on F.MOLCTL_enable then h
  else if 256 ≤ p.replay.length then h.setPort n { p with waitq := p.waitq ++ [f] }
  else
    let f := { f with lseq := p.sendSeq }
    (h.setPort n { p with sendSeq := p.sendSeq + 1, replay := p.replay ++ [(f, 0)] }).emit (.frame (BitVec.ofNat 4 n) f)

/-- Payload bytes of the static class, STATIC and BOUNDARY, are counted as they go (R243, R246). -/
def staticOut (h : Hub) (n bytes : Nat) : Hub := if h.on F.MOLCTL_enable then h.inci F.MOLSTX_bytes n bytes else h

/-- Frames that waited for room in the replay buffer go out. -/
def sendWaiting (h : Hub) (n : Nat) : Hub :=
  let p := h.port n
  p.waitq.foldl (fun (h : Hub) f => h.sendFrame n f) (h.setPort n { p with waitq := [] })

/-- The peer's index on a physical port. -/
def peerOf (h : Hub) (n : Nat) : BitVec 6 := BitVec.ofNat 6 (h.gi F.MOLPSTAT_peer n)

/-- The coordinate value in a dimension that a logical port leads to (R237). -/
def portCoord (h : Hub) (dim lport : Nat) : Nat :=
  coord ((wired (h.g F.NFNODE_active) h.dev lport).getD h.dev) dim

/-- Combine two payloads of 128 FP32 elements by a reduce operation (R200, R240). DESIGN CHOICE (log 158): in an attention combine each
payload is an entry of its own, m and l its last two elements. -/
def combPayload (op : Nat) (a b : Bytes) : Bytes :=
  let el (x : Bytes) : List F32 := (List.range 128).map (fun k => BitVec.ofNat 32 (field x (4 * k) 4))
  let r := match op with
    | 0 => List.zipWith add32 (el a) (el b)
    | 1 => List.zipWith max32 (el a) (el b)
    | 2 => List.zipWith min32 (el a) (el b)
    | _ => attComb (el a) (el b)
  (r.map (fun x => le 4 x.toNat)).flatten

/-- Which reduction of its dimension and span a reduce leat belongs to: its place among the reduce leats of that kind on its port and in
its direction, since the entries of a port and direction run in the order of their frames (R203, R222). -/
def turnOf (ls : List Leat) (i : Nat) : Nat :=
  match ls[i]? with
  | none => 0
  | some e => (ls.take i).countP (fun x => x.kind == 0 && x.lport == e.lport && x.recv == e.recv && x.dim == e.dim && x.span == e.span)

/-- The payloads of a receive leat that can land, in order: its own for a gather, move or ring leat; for a reduce leat the tree over the
aligned block of coordinates, own value included (R240), with the partials of the same reduction (R189, R203), a payload as soon as every
peer's matching one has arrived (R241). -/
def landed (h : Hub) (i : Nat) : List (Bytes × Bool) :=
  match h.leat i, h.plan with
  | some e, some p =>
    let got (j : Nat) : List (Bytes × Bool) := smGet [] h.landing j
    if e.kind ≠ 0 then (got i).take e.frames
    else
      let ls := p.leats.map leatOf
      let same := (ls.zipIdx).filter (fun x => x.1.kind == 0 && x.1.dim == e.dim && x.1.span == e.span && turnOf ls x.2 == turnOf ls i)
      let own := ((same.filter (fun x => !x.1.recv)).findSome? (fun x => smLook h.redOwn x.2)).getD []
      let blk := 2 ^ e.span
      let lo := coord h.dev e.dim / blk * blk
      let peers := same.filter (fun x => x.1.recv)
      let srcOf (c : Nat) : Option (List (Bytes × Bool)) :=
        if c = coord h.dev e.dim then some own
        else (peers.find? (fun x => h.portCoord e.dim x.1.lport == c)).map (fun x => got x.2)
      let cols := (List.range blk).filterMap (fun k => srcOf (lo + k))
      if cols.length < blk then []
      else (List.range ((cols.map List.length).foldl min e.frames)).map (fun k =>
        treeRoot (fun a b => (combPayload e.op a.1 b.1, a.2 || b.2)) ([], false) (cols.map (fun l => l.getD k ([], false))))
  | _, _ => []

/-- Send a leat's frames from payloads (R232, R243); in test mode the device carries every leat internally (R496). -/
def sendLeat (h : Hub) (i : Nat) (e : Leat) (pay : List (Bytes × Bool)) : Hub :=
  let n := h.portOf e.lport
  if h.on F.NFSTAT_test then
    let h := { h with landing := smPut h.landing i (smGet [] h.landing i ++ pay) }
    if e.kind = 0 then { h with redOwn := smPut h.redOwn i pay } else h
  else
  let h := (pay.zipIdx).foldl (fun h x =>
    h.sendFrame n { typ := 1, poison := x.1.2, unconf := true, last := decide (x.2 + 1 = e.frames)
                    src := BitVec.ofNat 6 h.dev, dst := h.peerOf n, queue := 0, lseq := 0
                    tag := BitVec.ofNat 32 (i % 2 ^ 16 + h.stepNo % 2 ^ 16 * 2 ^ 16), valid := 511
                    frag := BitVec.ofNat 22 x.2, payload := x.1.1 }) h
  let h := h.staticOut n (512 * pay.length)
  if e.kind = 0 then { h with redOwn := smPut h.redOwn i pay } else h

end Hub

/-- Payloads written to scratch, eight lines each. -/
def landPayloads (st : Stone) (dst : Nat) (pay : List (Bytes × Bool)) : Stone :=
  (pay.zipIdx).foldl (fun st x => (st.putBytes (dst + 8 * x.2) 8 x.1.1).setPoison (dst + 8 * x.2) 8 x.1.2) st

/-- A stone that waits for a receive leat takes the payloads that have come since; it waits no longer once it has them all. -/
def takeLanded (h : Hub) (st : Stone) (x : Nat × Nat × Nat) : Stone :=
  let pay := h.landed x.1
  let st := landPayloads st (x.2.1 + 8 * x.2.2) ((pay.take ((scratchLines - x.2.1) / 8)).drop x.2.2)
  if (h.leat x.1).any (fun e => decide (e.frames ≤ pay.length)) then { st with lrecv := smDel st.lrecv x.1 }
  else { st with lrecv := smPut st.lrecv x.1 (x.2.1, pay.length) }

/-- Every stone that waits for receive leats takes what has arrived of them. -/
def landAll (h : Hub) (s : Stones) : Stones :=
  { s with st := s.st.map (fun e => (e.1, e.2.lrecv.foldl (takeLanded h) e.2)) }

/-- LSEND: hands the leat's frames to its port in order (R266), where the entry is one to send (R222); a reduction that waited for the device's own value lands. -/
def execLsend (t : Nt) (l : BitVec 11) (w : W64) (s : State) : Host.Outcome State Fault Refusal :=
  if !linkOk 0x01 w then .fault .undefinedEncoding
  else
    let h := s.hub.stamp t
    let st := s.stn.get l
    let i := wf w 41 26
    let src := wf w 55 42
    match (h.leat i).filter (fun e => !e.recv) with
    | none => .next { s with hub := h, stn := s.stn.set l (st.issue { unit := unitLink, steps := 0 }) }
    | some e =>
      let (st, h) := h.scratchRead l st [(src, 8 * e.frames)]
      let pay := (List.range e.frames).map (fun k => (st.bytesAt (src + 8 * k) 512, st.anyPoison (src + 8 * k) 8))
      let h := (h.sendLeat i e pay).busy l e.frames
      .next { s with hub := h
                     stn := landAll h (s.stn.set l (st.issue { unit := unitLink, steps := e.frames, reads := [(src, 8 * e.frames)] })) }

/-- LRECV: lands the leat's payloads, those that are here now and the others as they arrive (R241, R266). -/
def execLrecv (t : Nt) (l : BitVec 11) (w : W64) (s : State) : Host.Outcome State Fault Refusal :=
  if !linkOk 0x02 w then .fault .undefinedEncoding
  else
    let h := s.hub.stamp t
    let st := s.stn.get l
    let i := wf w 41 26
    let n := match h.leat i with
      | none => 0
      | some e => e.frames
    let u : SlotUse := { unit := unitLink, steps := n, writes := [(wf w 55 42, 8 * n)] }
    let st := { st with lrecv := smPut st.lrecv i (wf w 55 42, 0) }.issue u
    .next { s with hub := h.busy l n, stn := landAll h (s.stn.set l st) }

/-- LPUT: lines to another stone of the device; its arrival count for this source rises (R266). -/
def execLput (t : Nt) (l : BitVec 11) (w : W64) (s : State) : Host.Outcome State Fault Refusal :=
  if !linkOk 0x03 w then .fault .undefinedEncoding
  else
    let n := wf w 16 1
    let d : BitVec 11 := BitVec.ofNat 11 (wf w 41 31)
    let (st, h) := (s.hub.stamp t).scratchRead l (s.stn.get l) [(wf w 55 42, n)]
    let u : SlotUse := { unit := unitLink, steps := cdiv n 4, reads := [(wf w 55 42, n)] }
    let stn := s.stn.set l (st.issue u)
    let dest := copyLines st (stn.get d) (wf w 55 42) (wf w 30 17) n
    let dest := { dest with arr := smSet 0 dest.arr l.toNat (smGet 0 dest.arr l.toNat + 1) }
    .next { s with hub := h.busy l u.steps, stn := stn.set d dest }

/-- LWAIT: holds issue until the arrival count reaches the count; the hold is time alone (R266). -/
def execLwait (t : Nt) (l : BitVec 11) (w : W64) (s : State) : Host.Outcome State Fault Refusal :=
  moveExec t l (linkOk 0x04 w) (fun st => (st, { unit := unitLink, steps := 1 })) s

/-- A stone leaves its partition's slice: its scratch goes to the partition's spill area where the window ended with a chunk unfinished and
mode 0 (R217). -/
def Hub.spillStone (h : Hub) (l : Nat) (st : Stone) : Hub :=
  match st.part with
  | none => h
  | some q =>
    if h.grp.unfin.contains q.toNat then { h with kv := { h.kv with spill := smPut h.kv.spill (q.toNat * 2048 + l) (st.lines, st.poison) } }
    else h

/-- A stone that stays in its partition's slice goes on with its own scratch. -/
def Hub.unspilled (h : Hub) (l : Nat) (part : Option (BitVec 4)) : Hub :=
  match part with
  | none => h
  | some q => { h with kv := { h.kv with spill := smDel h.kv.spill (q.toNat * 2048 + l) } }

/-- A stone enters a slice of a partition: what it spilled there is restored (R217). Where the context of the running check fails, the
lines restored are poisoned (R371, log 128). -/
def Hub.unspill (h : Hub) (l : Nat) (part : Option (BitVec 4)) (st : Stone) : Stone × Hub :=
  match part with
  | none => (st, h)
  | some q =>
    match smLook h.kv.spill (q.toNat * 2048 + l) with
    | none => (st, h)
    | some x =>
      let (bad, h) := h.fireInj 0x1A (fun _ => true)
      ({ st with lines := x.1, poison := if bad then (x.2 ++ x.1.map (·.1)).dedup else x.2 },
        { h with kv := { h.kv with spill := smDel h.kv.spill (q.toNat * 2048 + l) } })

/-- GRAIN: opens a grain, after checking that the grain before took exactly its declared steps (R267); a slice of
another partition begins with a scrub (R437). -/
def execGrain (t : Nt) (l : BitVec 11) (w : W64) (s : State) : Host.Outcome State Fault Refusal :=
  if !linkOk 0x05 w then .fault .undefinedEncoding
  else
    let h := (s.hub.stamp t).busy l 1
    let st := s.stn.get l
    let u : SlotUse := { unit := unitLink, steps := 1 }
    let now := st.issueAt u
    let bad := match st.grain with
      | none => false
      | some g => now - g.2.2.2 != g.2.1.toNat
    let id := match st.grain with
      | none => 0
      | some g => g.2.2.1.toNat
    let h := if bad then (h.devEv 0x0104 (l.toNat / 512) (l.toNat + id * 2 ^ 16)).raiseFault 4 else h
    let c := l.toNat / 32
    let pos := now - st.base
    let part := match h.plan with
      | none => st.part
      | some p => match (Hub.layout p).find? (fun x => x.mask.getLsbD c && decide (x.start ≤ pos ∧ pos < x.start + x.len)) with
        | none => st.part
        | some x => some x.part
    let scrub := h.multiPart && st.part.isSome && part != st.part
    let window (h : Hub) (q : Option (BitVec 4)) (f : Hub → Nat → Hub) : Hub := match q with
      | none => h
      | some q => if h.multiPart then f h q.toNat else h
    let left := scrub && decide (st.base ≤ (st.grain.map (·.2.2.2)).getD 0)
    let h := if left then window h st.part Hub.closeWindow else h
    let h := if scrub then (h.spillStone l.toNat st).scrubbed l.toNat else h
    let h := window h part Hub.openWindow
    let (st, h) := if scrub then h.unspill l.toNat part st.wiped else (st, if h.multiPart then h.unspilled l.toNat part else h)
    let st := { st.issue u with part := part, grain := some (BitVec.ofNat 8 (wf w 55 48), BitVec.ofNat 15 (wf w 46 32),
                                               BitVec.ofNat 32 (wf w 31 0), now) }
    .next { s with hub := Hub.finish s.hub h, stn := s.stn.set l st }

/-- GCOMMIT: sends the commit record to the hub (R266, R268). -/
def execGcommit (t : Nt) (l : BitVec 11) (w : W64) (s : State) : Host.Outcome State Fault Refusal :=
  if !linkOk 0x06 w then .fault .undefinedEncoding
  else
    let h := (s.hub.stamp t).busy l 1
    let chunk := (s.stn.get l).grain.map (·.1) == some 3
    .next { s with hub := { h with grp := { h.grp with commits := h.grp.commits ++ [(chunk, BitVec.ofNat 32 (wf w 31 0))] } }
                   stn := s.stn.set l ((s.stn.get l).issue { unit := unitLink, steps := 1 }) }

/-- STEPEND: the stone's part of the step is done (R226, R266). -/
def execStepend (t : Nt) (l : BitVec 11) (w : W64) (s : State) : Host.Outcome State Fault Refusal :=
  if !linkOk 0x07 w then .fault .undefinedEncoding
  else
    let h := (s.hub.stamp t).busy l 1
    let st := (s.stn.get l).issue { unit := unitLink, steps := 1 }
    .next { s with hub := { h with grp := { h.grp with stepEnds := h.grp.stepEnds ||| 1#2048 <<< l.toNat } }
                   stn := s.stn.set l { st with base := st.next } }

/-! ### Staging (R146, R147) -/

/-- Millpond is read: an armed HBM_CE fires where the read covers its address, which a free value decides (R376, R392, log 2). -/
def Hub.hbmRead (h : Hub) : Hub :=
  if h.inj.any (fun x => x.point == 5) then
    let (v, h) := h.fresh
    let (hit, h) := if v.getLsbD 0 then h.fireInj 0x05 (fun _ => true) else (false, h)
    if hit then h.inc F.INTHBMCE_count else h
  else h

/-- STAGING_TRANSFER: Sack hoist issues the next transfer of a die's schedule, in list order, at most D layers ahead;
its data lands later (R146). The schedule gives a weight tile's layer; a KV piece's is the command's. -/
def execStagingTransfer (t : Nt) (die : BitVec 2) (idx : BitVec 32) (layer : BitVec 9) (s : State) :
    Host.Outcome State Fault Refusal :=
  let h := s.hub.stamp t
  let q := h.grp.issued.getD die.toNat (0, 0)
  let lead := match h.plan with
    | none => 0
    | some p => p.depth.toNat
  let ok := h.plan.isSome && q.1 == idx.toNat && decide ((h.layerOf die.toNat idx.toNat).getD layer.toNat ≤ q.2 + lead)
  .next { s with hub := if ok then { h with grp := { h.grp with issued := h.grp.issued.set die.toNat (q.1 + 1, q.2) } } else h }

/-- An admitted session whose KV on this device has an entry or a frame that is bad (R66, R377). -/
def Hub.kvSpoiled (h : Hub) : Bool := match h.grp.cur with
  | none => false
  | some c => c.adms.any (fun a => (h.kvFault a.root a.first.toNat).isSome)

/-- STAGING_LANDED: the data of an issued transfer is in scratch; the bundles that were held for it count as stalls
(R147). A KV piece that is bad lands poisoned (R66, R377); which piece a transfer past the weight tiles brings is a free value, and so
whether it is a bad one where there is any (log 159). -/
def execStagingLanded (t : Nt) (die : BitVec 2) (idx : BitVec 32) (stalled : BitVec 16)
    (lines : List (BitVec 11 × BitVec 14 × BitVec 512)) (s : State) : Host.Outcome State Fault Refusal :=
  let h := s.hub.stamp t
  if idx.toNat < (h.grp.issued.getD die.toNat (0, 0)).1 && !h.grp.landed.contains (die.toNat, idx.toNat) then
    let h := { h with grp := { h.grp with landed := h.grp.landed ++ [(die.toNat, idx.toNat)] } }
    let h := h.hbmRead
    let h := { h with diag := { h.diag.putBy h.nt with hold := h.diag.hold.modify die.toNat (· + stalled.setWidth 64) } }
    let spoiled := (h.layerOf die.toNat idx.toNat).isNone && h.kvSpoiled
    let (v, h) := if spoiled then h.fresh else (0, h)
    let good := lines.filter (fun e => e.1.toNat / 512 == die.toNat && decide (e.2.1.toNat < scratchLines))
    .next { s with hub := h.inc F.TIERWSTALL_count stalled.toNat
                   stn := good.foldl (fun stn e =>
                     stn.set e.1 (((stn.get e.1).setLine e.2.1.toNat e.2.2).setPoison e.2.1.toNat 1 (spoiled && v.getLsbD 0))) s.stn }
  else .next { s with hub := h }

end Sys2Proof.Machine
end

