-- ==== Sys2Proof/Machine/Boundary.lean ====
section
/-! DEFINITION. Step boundaries: readiness and boundary frames (R226 to R230), admission (R108, R122, R151), prefill grants
(R107, R216, R365), parks and revives (R153 to R160, R165), eviction and expired drops (R161 to R166), key rotation (R432)
and the boundary itself (R228, R229, R385, R386). -/

namespace Sys2Proof.Machine

namespace Hub

/-! ### Ready for a step: admissions and the frame -/

/-- A session may be admitted at a boundary at the hub's NT (R108, R112, R141, R151, R170, R173). -/
def canStep (h : Hub) (i : Handle) : Bool :=
  let x := h.s i
  let un := (h.unconfirmed i).length
  let failed (s : Option StepRun) : Bool := match s with
    | none => false
    | some s => s.runs.any (fun r => r.h == i && (r.dead || r.poison))
  h.released && !h.inPrefill && (x.r.state == S.stepping || (x.r.state == S.ready && !h.rcmpHolds)) && !x.demote && !x.r.dlate && !x.r.omm
    && (x.r.deadline == 0 || decide (h.nt < x.r.deadline))
    && (match x.stepReq with
      | none => false
      | some q => q.ended.isNone)
    && !failed h.grp.cur && !failed h.grp.prev
    && decide (x.logbuf.length + un < 1024)
    && h.on F.TRCTL_enable && h.gi F.STRSTAT_blocked x.r.part.toNat == 0

/-- The admission record of a session (R108, R122, R227). DESIGN CHOICE (log 135): kv_len in the length N of R86 counts the positions of
steps in flight, which are not confirmed. -/
def admission (h : Hub) (p : Plan) (i : Handle) : AdmRec :=
  let x := h.s i
  let hs := h.history i
  let first := hs.length - 1
  let ds := match x.stepReq with
    | none => []
    | some q => h.drafts i q p.positions.toNat
  let toks := hs.getD first 0 :: ds
  { root := (h.rootIx x.r), bucket := BitVec.ofNat 8 (h.bucketOf (cdiv (first + toks.length) 64)), k := BitVec.ofNat 8 toks.length
    part := x.r.part, toks := toks, first := BitVec.ofNat 32 first }

/-- The admissions of the device's sessions in order of handle, within adm_cap, the plan's buckets and the frame
reservations; whether a reservation failed (R74, R86, R108, R227). -/
def admissions (h : Hub) (p : Plan) : List AdmRec × Bool :=
  let f (acc : Hub × List AdmRec × Bool) (i : Handle) : Hub × List AdmRec × Bool :=
    if !acc.1.canStep i || p.admCap.toNat ≤ acc.2.1.length then acc
    else
      let a := acc.1.admission p i
      if p.buckets.getD a.bucket.toNat 0 ≤ acc.2.1.countP (fun b => b.bucket == a.bucket) then acc
      else
        match acc.1.reserve a.root (acc.1.need a.root a.first.toNat a.k.toNat) with
        | none => (acc.1, acc.2.1, true)
        | some h => (h, acc.2.1 ++ [a], acc.2.2)
  (h.handles.foldl f (h, [], false)).2

/-- The cost of a prefill grain in ns (R365). -/
def grainCost (p : Plan) : Nat := cdiv (2 * p.grainSt) 3

/-- SLPFp.burst in ns. -/
def pfBurst (h : Hub) (p : Nat) : Nat := h.gi F.SLPF_burst p * 1000

/-- Position 0 fixes the prefill grains of each partition for the coming step, and takes their cost from the buckets
(R107, R216, R365). Grains ready on the group's other devices are outside this module: a free value (log 2). -/
def prefillGrants (h : Hub) (pl : Plan) : List (BitVec 16) × Hub :=
  let first := h.grp.cur.isNone && h.grp.prev.isNone
  let h := if first then { h with grp := { h.grp with pBucket := (List.range 16).map h.pfBurst } } else h
  let many := h.multiPart
  let mine (p : Nat) : Nat := ((h.handles.filter (fun i => !many || (h.s i).r.part.toNat == p)).map h.readyGrains).sum
  (List.range 16).foldl (fun (acc : List (BitVec 16) × Hub) p =>
    if p ≠ 0 && !many then (acc.1 ++ [0], acc.2)
    else
      let (v, h) := if h.groupN ≤ 1 then ((0 : W64), acc.2) else acc.2.fresh
      let ready := mine p + v.toNat % 2 ^ 16
      let ready := if many then min ready (pl.windows.getD p 0) else ready
      let c := max 1 (grainCost pl)
      let n := min 255 (if h.inPrefill then ready else min ready (h.grp.pBucket.getD p 0 / c))
      let left := h.grp.pBucket.getD p 0 - (if h.inPrefill then 0 else n * c)
      (acc.1 ++ [BitVec.ofNat 16 n], { h with grp := { h.grp with pBucket := h.grp.pBucket.set p left } })) ([], h)

/-! ### Boundary frames on the links (R226, R227) -/

/-- The F bytes of a boundary frame (R227); its check folds in bytes 8-15, which hold the step, and the position (R370). An injected fault
spoils the check. DESIGN CHOICE (log 156): records beyond byte F - 9 are cut off, and the counts name them all. -/
def frameOf (p : Plan) (f : BFrame) : Bytes :=
  let F := p.bframe.toNat
  let recs := (f.adms.map admBytes).flatten ++ (f.evicts.map (fun n => le 4 n.toNat)).flatten
    ++ (f.dones.map (fun d => le 4 d.1.toNat ++ le 4 d.2.toNat)).flatten
  let b := le 8 f.readyNt.toNat ++ le 8 (f.step.toNat + f.slot.toNat * 2 ^ 48) ++ le 1 f.pos.toNat
    ++ le 1 (b2n f.chk + b2n f.cut * 2 + b2n f.swAck * 4) ++ le 2 f.framePm.toNat ++ le 4 f.grnFree.toNat ++ le 4 f.cutEpoch.toNat
    ++ le 2 f.adms.length ++ le 2 f.evicts.length ++ le 2 f.dones.length ++ le 2 0
    ++ (List.range 16).map (fun k => BitVec.ofNat 8 (f.pGrants.getD k 0).toNat) ++ le 12 0 ++ recs
  let b := padTo (F - 8) (b.take (F - 8))
  b ++ le 8 (crc64 (b ++ (b.drop 8).take 8 ++ le 8 f.pos.toNat) ^^^ b2n f.bad)

/-- The device's boundary frames of one gather stage go out on the group's ports of a dimension: its own for x, those of its row for y,
those of its plane for z (R226, R240). -/
def gatherSend (h : Hub) (p : Plan) (dim : Nat) (fs : List BFrame) : Hub :=
  let ports := h.groupPorts.filter (fun l => decide (3 * dim ≤ l ∧ l < 3 * dim + 3 ∧ (l = 3 * dim ∨ h.portCoord dim l ≠ h.portCoord dim (l - 1))))
  ports.foldl (fun h l =>
    let n := h.portOf l
    fs.foldl (fun h f =>
      let b := frameOf p f
      (List.range (p.bframe.toNat / 512)).foldl (fun h k =>
        let g := h.staticOut n 512
        g.sendFrame n { typ := 2, poison := false, unconf := false, last := decide (k + 1 = p.bframe.toNat / 512)
                        src := BitVec.ofNat 6 h.dev, dst := h.peerOf n, queue := 0, lseq := 0
                        tag := f.step.setWidth 32, valid := 511, frag := BitVec.ofNat 22 k, payload := (b.drop (512 * k)).take 512 }) h) h) h

/-- The gather goes on in the next dimension once every frame of the one before is here (R226). -/
def gatherNext (h : Hub) (p : Plan) : Nat → Hub
  | 0 => h
  | fuel + 1 =>
    let dim := h.grp.bsent
    let dims := if h.groupN = 16 then 2 else 3
    let fs := h.grp.frames.filter (fun f => decide (f.pos.toNat / 4 ^ dim = h.position / 4 ^ dim))
    if dims ≤ dim || h.grp.ready.isNone || fs.length < 4 ^ dim then h
    else gatherNext ({ (h.gatherSend p dim fs) with grp := { (h.gatherSend p dim fs).grp with bsent := dim + 1 } }) p fuel

/-- The link on which the frame of a group position arrives: that of the last dimension in which the two devices differ (R226, R240). Its
fragments are accepted in order and acknowledged (R233, R234). -/
def gatherRx (h : Hub) (p : Plan) (pos : Nat) : Hub :=
  let d := h.g F.POOLROLE_base + pos
  let dim := if coord d 2 ≠ coord h.dev 2 then 2 else if coord d 1 ≠ coord h.dev 1 then 1 else 0
  match h.groupPorts.find? (fun l => decide (3 * dim ≤ l ∧ l < 3 * dim + 3) && h.portCoord dim l == coord d dim) with
  | none => h
  | some l =>
    let n := h.portOf l
    if !h.portUp n then h
    else
      let k := p.bframe.toNat / 512
      let q := h.port n
      let t := h.nt
      ((h.setPort n { q with recvSeq := q.recvSeq + BitVec.ofNat 32 k, lastRx := t }).inci F.MOLRX_bytes n (512 * k)).emit
        (.ackTo (BitVec.ofNat 4 n) (q.recvSeq + BitVec.ofNat 32 k - 1))

/-- The group synchronises no longer (R230). -/
def syncFault (h : Hub) : Hub :=
  ((h.devEv 0x0201 4 h.stepNo).p F.MOLSTAT_sync_fault 1).raiseFault 1

/-- A gather that completes at or after the boundary is a fault; else its margin is kept (R230). -/
def gatherDone (h : Hub) (p : Plan) : Hub :=
  if !h.gathered then h
  else
    let late := (h.inj.find? (fun x => x.point == 0x0D)).map (fun x => x.a.toNat)
    let (hit, h) := h.fireInj 0x0D (fun _ => true)
    let at_ := h.nt.toNat + (if hit then late.getD 0 else 0)
    let b := h.boundNt p
    if b ≤ at_ then h.syncFault else h.p F.MOLSLACK_ns (min (h.g F.MOLSLACK_ns) (b - at_))

/-- The device's sessions have finished the step and every stone's STEPEND has issued (R226, R266); it waits for weights that are being
reloaded (R147). -/
def isReady (h : Hub) : Bool :=
  h.g F.POOLROLE_size != 0 && !h.faulted && h.stage 10 && h.grp.ready.isNone && !h.grnWaits .weight
    && (match h.grp.cur with
      | none => true
      | some c => c.runs.all (fun r => r.done) && h.grp.stepEnds == BitVec.allOnes 2048)

/-- The device sends its boundary frame (R226, R227); not while its holdover has expired (R489). After a switch boundary the frame is
the acknowledgment of S and of the plan-set slot (R174). -/
def makeReady (h : Hub) (p : Plan) : Hub :=
  let replay := h.switching || (match h.grp.cur with
    | none => false
    | some c => c.replay == 1)
  let (cut, h) := if replay then (false, h) else h.cutFlag
  let h := if replay then h else (h.handles.filter h.canStep).foldl useRec h
  let (adms, fail) := if replay then ([], false) else h.admissions p
  let (grants, h) := if replay || h.position ≠ 0 then (List.replicate 16 0, h) else h.prefillGrants p
  let evict := !replay && h.position == 0 && (decide (h.g F.KVPFXLIM_limit ≤ h.kv.nodes.length) || h.grp.evicting)
  let tells (m : MigIn) : Bool := m.fin && m.carries (h.sameGroup m.src)
  let dones := (h.migIn.filter (fun e => tells e.2 && !e.2.told)).map (fun e => (e.2.root, e.2.id))
  let (bad, h) := h.fireInj 0x0C (fun _ => true)
  let f : BFrame :=
    { readyNt := h.nt, step := BitVec.ofNat 48 h.stepNo, slot := BitVec.ofNat 3 (h.g F.POOLPLAN_active)
      pos := BitVec.ofNat 6 h.position, chk := (h.grp.prev.map (·.chkOk)).getD true, cut := cut
      swAck := h.switching, framePm := BitVec.ofNat 16 h.framePm, grnFree := BitVec.ofNat 32 h.grnFreeUnits
      cutEpoch := if cut then h.nextEpoch else 0, adms := adms
      evicts := if evict then (h.evictCandidate.map (BitVec.ofNat 32)).toList else []
      dones := dones, pGrants := grants, bad := bad }
  let h := { h with grp := { h.grp with ready := some h.nt, frames := h.grp.frames ++ [f]
                                        resFail := h.grp.resFail || fail }
                    migIn := h.migIn.map (fun (e : Nat × MigIn) =>
                      (e.1, if tells e.2 then { e.2 with told := true } else e.2)) }
  let h := if h.groupN ≤ 1 || h.nf.expired then h else h.gatherNext p 3
  if h.switching then h else h.gatherDone p

/-! ### Parks (R153, R165) -/

/-- Free user space that a park may use on a device with `units` free, in bytes. -/
def parkSpace (h : Hub) (units : Nat) : Nat := units * unitBytes - h.grnReserve

/-- The extent of a session fits on every device of the group, by the frames' reports (R165). -/
def fits (h : Hub) (fs : List BFrame) (i : Handle) : Bool :=
  let kv := kvLenOf (h.s i).r
  fs.all (fun f => decide (h.extentBytes kv (f.pos.toNat == h.position) ≤ h.parkSpace f.grnFree.toNat))

/-- TIERSTAT.granary_full and readonly (R166). -/
def tierStat (h : Hub) : Hub :=
  (h.p F.TIERSTAT_granary_full (b2n (decide (h.parkSpace h.grnFreeUnits < h.grp.largestPark)))).p F.TIERSTAT_readonly (b2n h.grnRo)

/-- One park at a boundary. What the group's other devices report of their extents is a free value (log 2). -/
def parkAt (h : Hub) (fs : List BFrame) (i : Handle) : Hub :=
  let x := h.s i
  match x.park with
  | none => h
  | some k =>
    if x.r.state != S.parking || !decide (k.nt < h.nt) then h
    else if h.grnRo then h.failPark i
    else
      let kv := kvLenOf x.r
      let own := h.extentBytes kv true
      if !k.tested then
        let h := { h with grp := { h.grp with largestPark := max h.grp.largestPark own } }
        if !h.fits fs i then h.failPark i
        else
          match h.grnObject (objKey 1 x.r.nsi.toNat) 1 own x.r.keygen with
          | none => h.failPark i
          | some h =>
            (h.addDur 0 own (.extent i)).modS i (fun x => { x with park := some { k with tested := true, bytes := own } })
      else
        let (v, h) := if h.groupN ≤ 1 then ((0 : W64), h) else h.fresh
        if v.getLsbD 0 then h.failPark i
        else if !k.extent || !x.logDurable || v.getLsbD 1 then h
        else h.endPark i (own + (h.groupN - 1) * h.extentBytes kv false) own false

/-! ### The read path of a revive (R156, R160) -/

/-- `n` bytes that the spec leaves open (log 2). -/
def freeBytes (h : Hub) (n : Nat) : Bytes × Hub :=
  ((List.range n).map (fun k => (Config.freeValue (h.free + k)).setWidth 8), { h with free := h.free + n })

/-- Pieces of a class that another device's Granary copy holds: their bytes are open (log 29). -/
def openPieces (h : Hub) (bytes : Nat) (slots : List Nat) : SMap (SMap Byte × Bool) × Hub :=
  slots.foldl (fun (acc : SMap (SMap Byte × Bool) × Hub) k =>
    let (b, h) := acc.2.freeBytes bytes
    (smPut acc.1 k ((b.zipIdx).foldl (fun m e => smSet 0 m e.2 e.1) [], false), h)) ([], h)

/-- What the device's extent of a session holds (R154). -/
def extentOf (h : Hub) (i : Handle) : List ExtShard × Hub :=
  let x := h.s i
  let kv := kvLenOf x.r
  match h.model with
  | none => (x.kvx, h)
  | some m =>
    if !x.kvx.isEmpty || kv = 0 then (x.kvx, h)
    else
      let w := wPages m
      let ps := List.range (cdiv kv 64)
      let rs := (List.range w).filter (fun k => decide (k < cdiv kv 64))
      let root := (h.rootOf x.r).getD { kvLen := BitVec.ofNat 32 kv, pages := BitVec.ofNat 32 (cdiv kv 64), share := x.share }
      h.shards.foldl (fun (acc : List ExtShard × Hub) sh =>
        let (pg, h) := acc.2.openPieces (stride m m.lg) ps
        let (rg, h) := h.openPieces (stride m m.lw) rs
        (acc.1 ++ [{ shard := sh, root := root, pages := pg, rings := rg }], h)) ([], h)

/-- The piece with number `n` counted over the extent is poisoned. -/
def poisonPiece (x : List ExtShard) (n : Nat) : List ExtShard :=
  (x.foldl (fun (acc : List ExtShard × Nat) s =>
    let mark (base : Nat) (l : SMap (SMap Byte × Bool)) : SMap (SMap Byte × Bool) :=
      (l.zipIdx).map (fun e => if e.2 + base = n then (e.1.1, (e.1.2.1, true)) else e.1)
    (acc.1 ++ [{ s with pages := mark acc.2 s.pages, rings := mark (acc.2 + s.pages.length) s.rings }],
     acc.2 + s.pages.length + s.rings.length)) ([], 0)).1

/-- The recompute that a revive runs (R156). DESIGN CHOICE (log 134): the number n of input tokens in R80 is kv_len + 1, so that every whole
page may be bound. -/
def startRecompute (h : Hub) (i : Handle) : Hub :=
  let x := h.s i
  let kv := kvLenOf x.r
  let h := h.bindPrefix i (kv + 1)
  let bound := ((h.rootOf (h.s i).r).map (fun rt => rt.pfxBound.toNat)).getD 0
  let q : PfReq := { amode := 0, slot := 0, ver := 0, recompute := true, pos := 64 * bound, fin := kv
                     conf := 64 * bound, first := 64 * bound }
  h.modS i (fun x => { x with pfReq := some q, revive := x.revive.map (fun v => { v with rc := true, pf := x.pfReq }) })

/-- The device has read its extent: the pieces go to private frames, or the revive turns to recompute, which starts at the next boundary
(R80, R160). -/
def extentRead (h : Hub) (i : Handle) (ok : Bool) : Hub :=
  let x := h.s i
  match x.revive with
  | none => h
  | some v =>
    if x.r.state != S.reviving || !v.reserved || v.rc || v.read || h.grnWaits (.ext i) then h
    else
      let (ext, h) := h.extentOf i
      let ok := ok && extHdrOk h x
      let poisoned := ext.any (fun s => s.pages.any (fun e => e.2.2) || s.rings.any (fun e => e.2.2))
        || (x.extent.map (·.2)).getD false
      if (!ok || poisoned) && h.recomputable i then h.modS i (fun x => { x with revive := some { v with rc := true } })
      else
        let (u, h) := h.fresh
        let n := (ext.map (fun s => s.pages.length + s.rings.length)).sum
        let ext := if !ok || (x.extent.map (·.2)).getD false then poisonPiece ext (u.toNat % max 1 n) else ext
        let h := h.unreserve (h.rootIx x.r)
        let h := ext.foldl (fun h s => h.installExt (h.rootIx x.r) s) h
        h.modS i (fun x => { x with revive := some { v with read := true } })

/-! ### Revives (R156 to R160) -/

/-- One revive at a boundary: its reservation, its start, its end. That the reservation or a piece of another device of the group fails is
outside this module: free values (log 2). -/
def reviveAt (h : Hub) (i : Handle) : Hub :=
  let x := h.s i
  match x.revive with
  | none => h
  | some v =>
    if x.r.state != S.reviving || !decide (v.nt < h.nt) then h
    else if !v.reserved then
      let kv := kvLenOf x.r
      let pages := cdiv kv 64
      let w := match h.model with
        | none => 0
        | some m => min pages (wPages m)
      let (u, h) := if h.groupN ≤ 1 then ((0 : W64), h) else h.fresh
      match (if u.getLsbD 0 then none else h.reserve (h.rootIx x.r) (h.shards.map (fun _ => (pages, w)))) with
      | none => { h with grp := { h.grp with resFail := true } }
      | some h =>
        let h := h.modS i (fun x => { x with revive := some { v with reserved := true } })
        if v.rc then h.startRecompute i else h.grnAsk 6 ((x.extent.map (·.1)).getD 0) (.ext i)
    else if v.rc then (if (x.pfReq.map (·.recompute)).getD false then h else h.startRecompute i)
    else if v.read then
      let (u, h) := if h.groupN ≤ 1 then ((0 : W64), h) else h.fresh
      if u.getLsbD 0 then h
      else if u.getLsbD 1 && h.recomputable i then
        let h := h.shards.foldl (fun h sh => h.dropFrames (h.rootIx x.r) sh) h
        match h.reserve (h.rootIx x.r) (h.need (h.rootIx x.r) 0 (kvLenOf x.r)) with
        | none => { h.modS i (fun x => { x with revive := some { v with rc := true, read := false, reserved := false } }) with
                    grp := { h.grp with resFail := true } }
        | some h => (h.modS i (fun x => { x with revive := some { v with rc := true, read := false } })).startRecompute i
      else h.endRevive i false
    else h

/-! ### Millpond pressure (R161 to R164) -/

/-- Pages a session keeps resident on its owner (R163). -/
def residentPages (h : Hub) (i : Handle) : Nat :=
  match h.rootOf (h.s i).r with
  | none => 0
  | some rt => if rt.ptes.isEmpty && rt.rptes.isEmpty then 0 else rt.pages.toNat + rt.wPages.toNat

/-- The tenant of a session is at or below its floor. -/
def floored (h : Hub) (i : Handle) : Bool :=
  let t := (h.s i).r.tenant
  match (List.range 64).find? (fun k => h.gi F.TIERFLOOR_valid k == 1 && h.gi F.TIERFLOOR_tenant k == t.toNat) with
  | none => false
  | some k =>
    let n := ((h.handles.filter (fun j => (h.s j).r.state != S.free && (h.s j).r.tenant == t)).map h.residentPages).sum
    decide (n ≤ h.gi F.TIERFLOOR_pages k)

/-- A session may be evicted (R162). -/
def evictable (h : Hub) (i : Handle) : Bool :=
  let x := h.s i
  let heldOp : Bool := match x.blk with
    | some (.redo w) => [0x30, 0x31, 0x32].contains (iw w 63 56)
    | _ => false
  (x.r.state == S.ready || x.r.state == S.waiting) && !x.r.logonly && !x.r.omm && !x.demote && x.stepReq.isNone && x.pfReq.isNone
    && x.intakes == 0 && !heldOp && !x.actions.any (fun c => c.op == 0x03 || c.op == 0x43) && !h.floored i

/-- TIEREVRATE. -/
def evRate (h : Hub) : Nat := max 1 (h.g F.TIEREVRATE_sessions)

/-- Evict up to `n` of the listed sessions in order. Where a PARK of the session is held already, that one runs (R167). -/
def evictList (h : Hub) (fs : List BFrame) : Nat → List Handle → Hub
  | 0, _ => h
  | _, [] => h
  | n + 1, i :: rest =>
    if !h.evictable i then evictList h fs (n + 1) rest
    else if (h.s i).actions.any (fun c => c.op == 0x04) then evictList h fs n rest
    else if h.fits fs i then evictList ((h.startPark i true none).inc F.TIEREVICT_count) fs n rest
    else if h.on F.TIERCTL_demote_en && h.recomputable i then evictList (h.startDemote i) fs n rest
    else evictList h fs (n + 1) rest

/-- Insert by a key, keeping earlier entries first where keys are equal. -/
def insBy (k : Handle → Nat) (i : Handle) : List Handle → List Handle
  | [] => [i]
  | j :: l => if k i < k j then i :: j :: l else j :: insBy k i l

/-- Handles in ascending key, ties to the lower handle. -/
def sortBy (k : Handle → Nat) (l : List Handle) : List Handle := l.foldl (fun acc i => insBy k i acc) []

/-- Eviction at a boundary (R161, R162). A session whose park this boundary has refused is not chosen again at it (R167). -/
def evictAt (h : Hub) (fs : List BFrame) (refused : List Handle) : Hub :=
  let lo := h.g F.TIERMPWEIR_evict_pm
  let hi := if h.g F.TIERMPWEIR_clear_pm ≤ lo then lo + 1 else h.g F.TIERMPWEIR_clear_pm
  let low := fs.any (fun f => decide (f.framePm.toNat < lo))
  let clear := fs.all (fun f => decide (hi ≤ f.framePm.toNat))
  let e := h.on F.TIERCTL_evict_en && (low || h.grp.resFail || (h.grp.evicting && !clear))
  let cand := sortBy (fun i => (h.s i).r.touch.toNat) (h.handles.filter (fun i => h.evictable i && !refused.contains i))
  let h := { h with grp := { h.grp with evicting := e } }.p F.TIERSTAT_evicting (b2n e)
  let h := if e then h.evictList fs h.evRate cand else h
  h.p F.TIERSTAT_starved (b2n (e && !h.handles.any h.evictable))

/-- Expired drops (R166). -/
def expiredDrops (h : Hub) : Hub :=
  let rsv := h.g F.TIERGRSV_gb
  let weir := if h.g F.TIERGWEIR_gb ≤ rsv then 2 * rsv else h.g F.TIERGWEIR_gb
  if !h.on F.TIERCTL_expdrop_en || decide (weir * 1000000000 ≤ h.grnFreeUnits * unitBytes) then h
  else
    let l := sortBy (fun i => (h.s i).r.expiry.toNat)
      (h.handles.filter (fun i => (h.s i).r.state == S.halted && (h.s i).r.prior == S.parked && (h.s i).intakes == 0))
    (l.take h.evRate).foldl (fun h i => (h.dropSess i false).inc F.TIEREXPDROP_count) h

/-! ### Key rotation at the boundary (R432, R434) -/

/-- Units of a session's objects that name another generation than `g`. -/
def oldUnits (h : Hub) (i : Handle) (g : BitVec 16) : List (BitVec 32) :=
  let n := (h.s i).r.nsi.toNat
  (h.gr.units.filter (fun e => (e.2.key == objKey 1 n || e.2.key == objKey 2 n) && e.2.keygen != g)).map (fun e => BitVec.ofNat 32 e.1)

/-- Rotations are committed, again after a rollback. -/
def rotateAt (h : Hub) : Hub :=
  h.sec.rots.foldl (fun h e =>
    let i : Handle := BitVec.ofNat 18 e.1
    let q := e.2
    if (h.s i).r.state == S.free || (q.phase != 0 && (h.s i).r.keygen == q.newG) then h
    else
      let h := h.modR i (fun r => r.setKeygen q.newG)
      let h := h.devEv 0x0704 4 (q.newG.toNat + e.1 * 2 ^ 16)
      let left := h.oldUnits i q.newG
      { h with sec := { h.sec with rots := smPut h.sec.rots e.1 { q with phase := if left.isEmpty then 2 else 1, left := left } } }) h

/-! ### Channels of Millpond (R381) -/

/-- Copied channels take their spare's identity. -/
def switchChannels (h : Hub) : Hub :=
  let h := h.chReady.foldl (fun h c =>
    let k := c.1
    let s0 := if c.2.2 = 0 then c.2.1 else h.gi F.INTHBMMAP_spare0 k
    let s1 := if c.2.2 = 0 then h.gi F.INTHBMMAP_spare1 k else c.2.1
    let h := h.setReg (F.INTHBMMAP_spare0.a + F.INTHBMMAP_spare0.stride * k) (BitVec.ofNat 64 (pairOf 16 (s0 + 64 * s1)))
    (h.devEv 0x0602 4 (k + c.2.1 * 8 + c.2.2 * 512)).flag F.INTSTAT_hbm_spare 32) h
  { h with chReady := [] }

/-! ### Admission at the boundary -/

/-- One admission record: the device's own session begins or goes on with its STEP where it still may, and a draft buffer that is not
aligned is reported (R123); for another device's session the shards of its root index follow, their length up to the positions of the step
in flight, which is not confirmed (R72, R74, R108, R110). DESIGN CHOICE (log 163): where no frames are free for it the step runs all the same,
and what it would write beyond the free frames is not written. -/
def admitAt (h : Hub) (mine : Bool) (a : AdmRec) : Option Run × Hub :=
  let own := if mine then h.handles.find? (fun i => (h.rootIx (h.s i).r) == a.root && (h.s i).r.state != S.free) else none
  match own with
  | some i =>
    if !h.canStep i || (h.history i).length ≠ a.first.toNat + 1 then (none, h)
    else
      match h.reserve a.root (h.need a.root a.first.toNat a.k.toNat) with
      | none => (none, { h with grp := { h.grp with resFail := true } })
      | some h =>
        let n := ((h.s i).stepReq.map (·.n.toNat)).getD 0
        let h := if (h.s i).r.state == S.ready then h.trans i S.stepping St.ok 0x0020 n else h
        let crooked := ((h.s i).stepReq.map (fun q => decide (2 ≤ q.draft.toNat) && q.addr.toNat % 64 != 0)).getD false
        let h := if crooked then h.hstat F.HSTAT_rd_err else h
        (some { h := i, root := a.root, k := a.k.toNat, first := a.first, inputs := a.toks, bucket := a.bucket }, h.touch i)
  | none =>
    if mine then (none, h)
    else
      let h := if h.shards.all (fun sh => (h.root? a.root sh).isSome) then h else h.makeRoots a.root false
      let flying : List AdmRec := match h.grp.cur with
        | none => []
        | some c => c.adms.filter (fun b => b.root == a.root)
      let h := h.setKvLen a.root (flying.headD a).first.toNat
      match h.reserve a.root (h.need a.root a.first.toNat a.k.toNat) with
      | none => (none, { h with grp := { h.grp with resFail := true } })
      | some h => (none, h)

/-- All admission records of the frames, by group position. -/
def admitAll (h : Hub) (fs : List BFrame) : List Run × Hub :=
  fs.foldl (fun (acc : List Run × Hub) f =>
    f.adms.foldl (fun (acc : List Run × Hub) a =>
      let (r, h) := acc.2.admitAt (f.pos.toNat == h.position) a
      (acc.1 ++ r.toList, h)) acc) ([], h)

/-- A STEP that a boundary at or after DEADLINE, a deadline hold or an owner mismatch keeps out, with no token in flight, ends:
with equal states and data 0 where it was never admitted (R37, R44, R47, R108). -/
def endLate (h : Hub) (runs : List Run) (i : Handle) : Hub :=
  let x := h.s i
  let late := x.r.dlate || (x.r.deadline != 0 && decide (x.r.deadline ≤ h.nt))
  let flying := runs.any (fun r => r.h == i) || (h.grp.cur.map (fun c => c.runs.any (fun r => r.h == i))).getD false
  match x.stepReq with
  | none => h
  | some q =>
    if !(late || x.r.omm) || flying || !h.released || !(x.r.state == S.ready || x.r.state == S.stepping) then h
    else
      let st := if x.r.omm then St.ownerConflict else St.deadlineLate
      let h := if x.r.state == S.ready then (h.modR i (fun r => { r with lastStatus := st })).record i 0x0021 0
        else ((h.trans i S.ready st 0x0021 q.got).unreserve (h.rootIx x.r)).startFlush i
      (h.endStep i st).settled i

/-- The prefill grains that position 0 granted run in the coming step. How many of them are this device's own sessions' is outside this
module in a larger group: a free value (log 2). -/
def grantAll (h : Hub) (fs : List BFrame) : List PfRun × Hub :=
  let ps := (((fs.find? (fun f => f.pos == 0)).map (·.pGrants)).getD []).map (·.toNat)
  let alone := decide (h.groupN ≤ 1)
  let ps := if alone then ps else (ps.zipIdx).map (fun e => (Config.freeValue (h.free + e.2)).toNat % (e.1 + 1))
  let h : Hub := if alone then h else { h with free := h.free + 16 }
  if h.multiPart then
    (List.range 16).foldl (fun (acc : List PfRun × Hub) p =>
      let (l, h) := acc.2.grantPart (fun i => (acc.2.s i).r.part.toNat == p) (ps.getD p 0)
      (acc.1 ++ l, h)) ([], h)
  else
    h.grantPart (fun _ => true) (ps.getD 0 0)

/-! ### The boundary (R228, R229, R385, R386) -/

/-- The bucket of each partition at `b` (R365). -/
def refillPf (h : Hub) (b : Nat) : Hub :=
  let gain (p : Nat) : Nat :=
    if h.grp.pLast = 0 then 0 else (b - h.grp.pLast.toNat) * min 1000 (h.gi F.SLPF_share p) / 1000
  { h with grp := { h.grp with pBucket := (List.range 16).map (fun p => min (h.pfBurst p) (h.grp.pBucket.getD p 0 + gain p))
                               pLast := BitVec.ofNat 64 b } }

/-- Counts of the step that ends at `b` (R226, R513). -/
def stepCounts (h : Hub) (b : Nat) : Hub :=
  let h := h.p F.MOLBOUND_nt b
  match h.grp.cur, h.grp.ready with
  | some c, some r =>
    let len := b - c.start.toNat
    { h with diag := { h.diag.putBy (BitVec.ofNat 64 b) with
      steps := BitVec.ofNat 64 (satAdd 64 h.diag.steps.toNat 1), stepNs := BitVec.ofNat 64 (satAdd 64 h.diag.stepNs.toNat len)
      idleNs := BitVec.ofNat 64 (satAdd 64 h.diag.idleNs.toNat (b - r.toNat))
      stepMax := BitVec.ofNat 32 (min (2 ^ 32 - 1) (max h.diag.stepMax.toNat len)) } }
  | _, _ => h

/-- What a boundary leaves for the next one. -/
def nextStep (h : Hub) : Hub :=
  { h with landing := [], redOwn := []
           grp := { h.grp with ready := none, frames := [], landed := [], issued := [(0, 0), (0, 0), (0, 0), (0, 0)], stepEnds := 0
                               commits := [], bsent := 0, opened := [], closed := [] } }

/-- Removals from the prefix tree come before the bindings of the boundary (R81, R82). -/
def pruneTree (h : Hub) (fs : List BFrame) : Hub :=
  let free (nd : Nat) : Bool := match smLook h.kv.nodes nd with
    | none => false
    | some n => n.refs == 0 && n.children == 0
  let h := ((fs.find? (fun f => f.pos == 0)).map (·.evicts)).getD [] |>.foldl (fun h nd => if free nd.toNat then h.dropNode nd.toNat else h) h
  let h := h.kv.badNodes.foldl (fun h nd => h.killNode nd.toNat) h
  { h with kv := { h.kv with badNodes := [] } }

/-- A STEP outstanding in a prefill pool, which a recomposition has brought about, goes to the decode pool as its execution there would
(R170, R171, R174; log 122). -/
def handoffAt (h : Hub) (i : Handle) : Hub :=
  let x := h.s i
  if !h.inPrefill || x.r.state != S.ready || x.stepReq.isNone || x.demote || 0 < x.intakes || h.rotating i then h
  else
    let h := h.modS i (fun x => { x with stepReq := none })
    if h.on F.POOLCTL_handoff_en then h.startMig i h.handoffTo false none true
    else
      match x.blk with
      | some (.step d) => h.endInstr i (some (d, 0)) St.badState 0
      | _ => h

/-- The work of a boundary that neither retracts nor ends a first replay step, up to the cut. -/
def workAt (h : Hub) (fs : List BFrame) : Hub :=
  let first := h.grp.cur.isNone
  let h := h.heedCommits.foreignWork
  let h := match h.grp.prev with
    | none => h
    | some s =>
      let h := h.confirmStep s
      { h with grp := { h.grp with retracts := 0, prev := none } }
  let h := match h.grp.cur with
    | none => h.retireAll []
    | some c => if c.chkOk then ({ h with grp := { h.grp with cur := some { c with retire := [] } } }).retireAll c.retire else h.retireAll []
  let hs := h.handles
  let parking := hs.filter (fun i => (h.s i).r.state == S.parking)
  let h := hs.foldl (fun h i => h.parkAt fs i) h
  let refused := parking.filter (fun i => (h.s i).r.state == S.ready || (h.s i).r.state == S.waiting)
  let h := h.tierStat
  let h := hs.foldl (fun h i => h.reviveAt i) h
  let h := (h.evictAt fs refused).expiredDrops
  let h := { h with grp := { h.grp with resFail := false } }
  let h := ((h.migBoundary.switchTest.rotateAt).lazyRevives.adoptWaiting h.ck.adoptq.length).restoreDone
  let h := match h.rcmp with
    | none => h
    | some r =>
      if !r.active || (r.switched && !first) then h
      else
        let (v, h) := if r.lone && first then ((1 : W64), h) else h.fresh
        if v.getLsbD 0 then h.rcmpEnd St.ok else { h with rcmp := some { r with switched := false } }
  if h.faulted || h.switching then h.nextStep
  else
    let (runs, h) := h.admitAll fs
    let h := h.handles.foldl (fun h i => (h.endLate runs i).handoffAt i) h
    let h := h.foreignWork
    let pre := h.handles.filterMap (fun i => (h.s i).pfReq.map (fun q => (i.toNat, q)))
    let (pfs, h) := h.grantAll fs
    let (chunks, h) := h.foreignChunks (pfs.map (fun p => (p.root, p.first, p.count)))
    let h := if h.position = 0 then
        h.inc F.SLPFGRANT_count (((fs.find? (fun f => f.pos == 0)).map (fun f => (f.pGrants.map (·.toNat)).sum)).getD 0) else h
    let n := (h.stepNo + 1) % 2 ^ 48
    let h := h.p F.MOLSTEP_step n
    let s : StepRun := { step := BitVec.ofNat 48 n, start := h.nt, runs := runs, pfs := pfs, adms := fs.flatMap (·.adms)
                         chunks := chunks }
    let h := { h with grp := { h.grp with prev := h.grp.cur, cur := some s } }
    let h := h.nextStep
    match fs.find? (fun f => f.pos == 0) with
    | some f => if f.cut then h.takeCut f.cutEpoch pre else h
    | none => h

/-- A step boundary at `b`. -/
def boundary (h : Hub) (b : Nat) : Hub :=
  let fs := sortFrames h.grp.frames
  let h := ((h.stepCounts b).sampleBuckets.refillPf b).switchChannels
  let h := (h.pruneTree fs).noteDones fs
  match h.grp.cur, h.grp.prev with
  | some c, some s =>
    if c.replay = 1 then
      let h := h.p F.MOLSTEP_step ((h.stepNo + 1) % 2 ^ 48)
      let h := (h.retireAll []).startReplay s 2
      { h with grp := { h.grp with prev := some c } }.nextStep
    else if fs.all (·.chk) then h.workAt fs
    else (h.retract s c).nextStep
  | _, _ => h.workAt fs
where
  /-- Frames by group position. -/
  sortFrames (l : List BFrame) : List BFrame :=
    (List.range 64).flatMap (fun p => l.filter (fun f => f.pos.toNat == p))

/-- The boundary at `b` as the device makes it: its events are stamped `b`, and what was stamped `b` or later applies after them
(R228, R521). -/
def made (h : Hub) (b : Nat) : Hub :=
  let g := (({ h with nt := BitVec.ofNat 64 b } : Hub).boundary b).reportAds
  let g : Hub := { g with nt := h.nt }
  (g.handles.filter (fun i => !(g.s i).actions.isEmpty)).foldl settled g

end Hub

/-- DEVICE_READY: every bundle of the step has completed and the hub has sampled (R226). -/
def execDeviceReady (t : Nt) : State → Host.Outcome State Fault Refusal :=
  onHub t (fun h =>
    match h.plan with
    | none => h
    | some p => if h.isReady then h.makeReady p else h)

/-- BOUNDARY_FRAME: a frame of another device of the group (R226, R230); none arrives while the ports are not active (R246). -/
def execBoundaryFrame (t : Nt) (fr : BFrame) : State → Host.Outcome State Fault Refusal :=
  onHub t (fun h =>
    match h.plan with
    | none => h
    | some p =>
      if h.faulted || !h.on F.MOLCTL_enable || fr.pos.toNat = h.position || h.groupN ≤ fr.pos.toNat then h
      else
        let h := h.gatherRx p fr.pos.toNat
        if fr.bad then (h.inc F.INTCHKFAIL_count).syncFault
        else if fr.step.toNat ≠ h.stepNo || fr.slot.toNat ≠ h.g F.POOLPLAN_active then h.syncFault
        else if h.grp.frames.any (fun f => f.pos == fr.pos) then h
        else
          let h : Hub := { h with grp := { h.grp with frames := h.grp.frames ++ [fr] } }
          (if h.nf.expired then h else h.gatherNext p 3).gatherDone p)

/-- EXTENT_READ: the device's own extent has been read; `ok` says that no piece was uncorrectable or failed its check
(R156, R160). -/
def execExtentRead (t : Nt) (i : Handle) (ok : Bool) : State → Host.Outcome State Fault Refusal :=
  onHub t (fun h => h.extentRead i ok)

/-- The prefill windows of the step that has ended are closed, and stones that are still in the slice of a partition with an unfinished chunk
spill their scratch (R217). -/
def endWindows (h : Hub) (st : Stones) : Hub :=
  let h := h.closeWindows
  if h.multiPart then st.st.foldl (fun h e => h.spillStone e.1 e.2) h else h

/-- STEP_BOUNDARY (R228, R229). A stone whose logical number moves to a spare starts with the spare's scratch (log 3). -/
def execStepBoundary (t : Nt) (s : State) : Host.Outcome State Fault Refusal :=
  let h := s.hub.stamp t
  match h.plan with
  | none => .next { s with hub := h }
  | some p =>
    let b := h.boundNt p
    if h.faulted || h.switching || !h.gathered || h.grp.ready.isNone || decide (h.nt.toNat < b) then .next { s with hub := h }
    else
      let h' := (endWindows h s.stn).made b
      .next { s with hub := Hub.finish s.hub h', stn := { st := s.stn.st.filter (fun e => h'.physOf e.1 == h.physOf e.1) } }

end Sys2Proof.Machine
end

