-- ==== Sys2Proof/Machine/Loads.lean ====
section
/-! DEFINITION. Images that have been read from host memory: the measured boot log (R420), and the acceptance or refusal of
stop sets, programs, grammars, adapters, models and plans (R3, R52, R96, R127, R128, R210, R215, R223, R224, R247, R248,
R276, R418, R419). -/

namespace Sys2Proof.Machine

/-- 32 bytes of a digest. -/
def digestBytes (d : BitVec 256) : Bytes := le 32 d.toNat

namespace Hub

/-! ### The measured boot log (R420) -/

/-- Append an entry: the chain digest takes it, the first 1,024 entries are kept. -/
def logBoot (h : Hub) (comp idx secver : Nat) (digest : BitVec 256) : Hub :=
  let t := if h.on F.NFSTAT_nt_valid then h.nt.toNat else 0
  let e := padTo 64 (le 2 comp ++ le 2 idx ++ le 4 secver ++ le 8 t ++ digestBytes digest)
  { h with sec := { h.sec with log := if h.sec.log.length < 1024 then h.sec.log ++ [e] else h.sec.log
                               logCnt := h.sec.logCnt + 1, digest := Config.sha3 (digestBytes h.sec.digest ++ e) } }

/-! ### Stop sets and programs -/

/-- A stop-set image passes R128. -/
def stopSetOk (b : Bytes) (vocab : Nat) : Bool :=
  let lens := (List.range 16).map (fun n => field b (0x400 + n) 1)
  let toks := (List.range 16).map (fun n => field b (0x410 + 4 * n) 4)
  b.length == 1152 && (b.drop 0x450).all (fun x => x == 0) && toks.all (fun t => t == 0xFFFFFFFF || decide (t < vocab))
    && lens.all (fun n => decide (n ≤ 64))
    && (lens.zipIdx).all (fun e => (((b.drop (64 * e.2)).take 64).drop e.1).all (fun x => x == 0))

/-- The stop set of an image (R127). -/
def stopSetOf (b : Bytes) : StopSet :=
  { strs := (List.range 16).map (fun n => (b.drop (64 * n)).take (field b (0x400 + n) 1))
    toks := ((List.range 16).map (fun n => BitVec.ofNat 32 (field b (0x410 + 4 * n) 4))).filter (fun t => t != 0xFFFFFFFF)
    img := b }

/-- STOPLOAD with its image (R128). DESIGN CHOICE (log 138): an index in use answers before a fault of the image. -/
def loadStop (h : Hub) (c : Sub) (b : Bytes) : Hub :=
  let k := c.line.opd 40 2
  if h.anyRec (fun r => r.stopSet.toNat == k) then h.complete c St.stopsetBusy
  else if !stopSetOk b (h.g F.HOPVOCAB_v) then h.complete c St.stopsetFault
  else { h with im := { h.im with stopSets := smPut h.im.stopSets k (stopSetOf b) } }.complete c St.ok

/-- PROGLOAD with its image (R247, R248). A CRC mismatch counts as a digest failure of R276 (log 30). -/
def loadProg (h : Hub) (c : Sub) (b : Bytes) : Hub :=
  let k := c.line.opd 40 1
  let n := field b 4 4
  let body := b.drop 32
  let ws := (List.range n).map (fun j => BitVec.ofNat 64 (field body (8 * j) 8))
  if h.anyRec (fun r => r.prog.toNat == k) then h.complete c St.progBusy
  else if b.length < 32 || field b 0 4 ≠ 0x58454E42 || n = 0 || 131072 < n || body.length ≠ 8 * n || field b 12 20 ≠ 0 then
    h.complete c St.imageRefused 3
  else if crc32c body ≠ field b 8 4 then h.complete c St.imageRefused 2
  else
    match ws.findIdx? (fun w => !wordOk n k w) with
    | some j => h.complete c St.progRefused j
    | none =>
      let others := ((h.im.progs.filter (fun e => e.1 != k)).map (fun e => e.2.length)).sum
      if 131072 < others + n then h.complete c St.progRefused 0xFFFFFFFF
      else
        match (h.grnRelease (progKey k)).grnObject (progKey k) 5 b.length 0 with
        | none => h.complete c St.granaryFull
        | some h => (({ h with im := { h.im with progs := smPut h.im.progs k ws } }).logBoot 0x14 k 0 (Config.sha3 b)).complete c St.ok

/-! ### Grammars, adapters and models -/

/-- The detail of a refusal of an image that the owner key verifies; none where it passes (R276, R418, R419). -/
def imageBad (h : Hub) (sigOk digOk fmtOk : Bool) (secver : BitVec 32) (least : Nat) : Option Nat :=
  if !sigOk || !h.on F.SECSTAT_owner_set then some 1
  else if !digOk then some 2
  else if !fmtOk then some 3
  else if secver.toNat < least then some 4 else none

/-- An image is written to the Granary in place of what its key holds; without space that stays (R224, R276). The command waits for its
durability. -/
def storeImage (h : Hub) (c : Sub) (key kind bytes : Nat) (d : ReadData) : Hub :=
  match (h.grnRelease key).grnObject key kind bytes 0 with
  | none => h.complete c St.granaryFull
  | some h => h.addDur 4 bytes (.image c d)

/-! ### Plans -/

/-- The model's geometry is inside R52. -/
def geometryOk (m : Model) : Bool :=
  [1, 2, 4, 8, 16, 32, 64].contains m.nkv && [64, 128, 256].contains m.dim && decide (m.lg ≤ 248) && decide (m.lw ≤ 248)
    && (m.lw == 0 || (m.win % 64 == 0 && decide (64 ≤ m.win) && decide (m.win ≤ 32704))) && [1, 2, 4, 8].contains m.headH

/-- The tokenizer passes R96. -/
def tokenizerOk (m : Model) : Bool :=
  (List.range 256).all (fun b => m.vocab.any (fun t => !t.2 && t.1 == [BitVec.ofNat 8 b]))
    && decide (m.vocab.length ≤ 262144) && m.vocab.all (fun t => decide (1 ≤ t.1.length) && decide (t.1.length ≤ 128))
    && decide (m.vocab.map (·.1)).Nodup

/-- The slice table keeps R215, with the 900 steps of R437 between slices of different partitions on a cluster. -/
def slicesOk (p : Plan) : Bool :=
  let after (a b : Slice) : Bool := decide (a.start + a.len + 900 ≤ b.start)
  decide (p.slices.length ≤ 64) && p.grainsOk
    && p.slices.all (fun a => p.slices.all (fun b => a.part == b.part || (a.mask &&& b.mask) == 0 || after a b || after b a))

/-- The composition of an image fits the node and the images already in its slot (R15, R17, R18, R169). -/
def compositionOk (h : Hub) (slot : Nat) (p : Plan) : Bool :=
  let n := p.n.toNat
  let held := (smGet [] h.im.plans slot).filter (fun q => !(q.base == p.base && q.n == p.n))
  let meets (q : Plan) : Bool := decide (p.base.toNat < q.base.toNat + q.n.toNat ∧ q.base.toNat < p.base.toNat + n)
  (n == 16 || n == 32 || n == 64) && p.base.toNat % max 1 n == 0 && decide (p.base.toNat + n ≤ p.nodesize.toNat)
    && (p.role == 1 || p.role == 2) && decide (1 ≤ p.groups.toNat) && decide (p.groups.toNat ≤ 4)
    && p.nodesize.toNat == h.g F.NFNODE_active
    && held.all (fun q => q.setId == p.setId && q.groups == p.groups && q.nodesize == p.nodesize && !meets q
        && !(q.role == 1 && p.role == 1))
    && decide (held.length < p.groups.toNat)
    && (decide (held.length + 1 < p.groups.toNat) || ((p :: held).any (fun q => q.role == 1)
        && ((p :: held).map (fun q => q.n.toNat)).sum == p.nodesize.toNat))

/-- The frame pools of an image fit Millpond (R57, R145). -/
def carveOk (p : Plan) (m : Model) : Bool :=
  decide (p.gFrames.toNat * stride m m.lg + p.wFrames.toNat * stride m m.lw ≤ 1024 * 10 ^ 9)

/-- The fields of a leat entry lie in their ranges: a kind, a frame, a dimension, for a reduction an operation and a span, and reserved bits of
0 (R222). -/
def leatFields (w : W64) : Bool :=
  let e := leatOf w
  decide (e.kind ≤ 3 ∧ 1 ≤ e.frames ∧ e.dim ≤ 2 ∧ wf w 63 32 = 0) && (e.kind != 0 || decide (e.op ≤ 3 ∧ 1 ≤ e.span ∧ e.span ≤ 2))

/-- The reductions of a leat table can be formed on device `d` of a node of `n` (R240): each sends to every other coordinate of its aligned
block and receives from it. -/
def reducesOk (n d : Nat) (ls : List Leat) : Bool :=
  let toward (e : Leat) : Nat := coord ((wired n d e.lport).getD d) e.dim
  (ls.zipIdx).all (fun x =>
    let e := x.1
    let same := (ls.zipIdx).filter (fun y => y.1.kind == 0 && y.1.dim == e.dim && y.1.span == e.span && turnOf ls y.2 == turnOf ls x.2)
    let lo := coord d e.dim / 2 ^ e.span * 2 ^ e.span
    e.kind != 0 || (List.range' lo (2 ^ e.span)).all (fun c => c == coord d e.dim
      || same.any (fun y => !y.1.recv && toward y.1 == c) && same.any (fun y => y.1.recv && toward y.1 == c)))

/-- The logical ports of a leat table are those whose links stay inside the plan's group and its reductions can be formed (R224, R237, R240),
seen from this device where the group holds it. -/
def leatsOk (h : Hub) (p : Plan) : Bool :=
  let b := p.base.toNat
  let inside (d : Nat) : Bool := decide (b ≤ d ∧ d < b + p.n.toNat)
  let d := if inside h.dev then h.dev else b
  p.leatsFit && p.leats.all leatFields && reducesOk p.nodesize.toNat d (p.leats.map leatOf) && p.leats.all (fun e => match wired p.nodesize.toNat d (bitsOf e.toNat 3 0) with
    | none => false
    | some x => inside x)

/-- A plan with the fields of its image's 256-byte header, multi-byte fields little-endian (R7, R221). The section table must keep inside
the image and be empty from section 7 on, and reserved bytes are 0. -/
def withHeader (p : Plan) (b : Bytes) : Plan :=
  let f (o n : Nat) : Nat := field b o n
  let sect (j : Nat) : Bool := decide (f (0x80 + 8 * j) 4 + f (0x84 + 8 * j) 4 ≤ f 0x10 8) && (decide (j < 7) || f (0x80 + 8 * j) 8 == 0)
  { p with magic := BitVec.ofNat 32 (f 0 4), format := BitVec.ofNat 16 (f 4 2), hdrLen := BitVec.ofNat 16 (f 6 2)
           producer := BitVec.ofNat 32 (f 8 4), secver := BitVec.ofNat 32 (f 0xC 4), length := BitVec.ofNat 64 (f 0x10 8)
           n := BitVec.ofNat 8 (f 0x18 1), role := BitVec.ofNat 8 (f 0x19 1), base := BitVec.ofNat 8 (f 0x1A 1)
           groups := BitVec.ofNat 8 (f 0x1B 1), setId := BitVec.ofNat 32 (f 0x1C 4), family := BitVec.ofNat 256 (f 0x20 32)
           model := BitVec.ofNat 256 (f 0x40 32), arithrev := BitVec.ofNat 16 (f 0x60 2), positions := BitVec.ofNat 8 (f 0x62 1)
           depth := BitVec.ofNat 8 (f 0x63 1), chunk := BitVec.ofNat 32 (f 0x64 4), pfRate := BitVec.ofNat 32 (f 0x68 4)
           bq := BitVec.ofNat 16 (f 0x6C 2), allow := BitVec.ofNat 16 (f 0x6E 2), bframe := BitVec.ofNat 16 (f 0x70 2)
           admCap := BitVec.ofNat 16 (f 0x72 2), nodesize := BitVec.ofNat 8 (f 0x74 1)
           sectOk := p.sectOk && (List.range 12).all sect && f 0x75 11 == 0 && f 0xE0 32 == 0 && b.length == 256 }

/-- The header's values lie in their ranges (R221). -/
def headerOk (p : Plan) : Bool :=
  decide (1 ≤ p.positions.toNat ∧ p.positions.toNat ≤ 8) && decide (1 ≤ p.depth.toNat ∧ p.depth.toNat ≤ 4)
    && decide (0 < p.chunk.toNat) && p.chunk.toNat % 64 == 0 && decide (64 ≤ p.bq.toNat ∧ p.bq.toNat ≤ 4096)
    && decide (256 ≤ p.allow.toNat ∧ p.allow.toNat ≤ 8192)
    && p.bframe.toNat % 512 == 0 && decide (512 ≤ p.bframe.toNat ∧ p.bframe.toNat ≤ 16384) && p.sectOk

/-- A recomposition names the slot. -/
def rcmpNames (h : Hub) (slot : Nat) : Bool := match h.rcmp with
  | none => false
  | some r => r.slot.toNat == slot

/-- The model image that a plan names. -/
def modelOf (h : Hub) (p : Plan) : Option Model := h.im.models.find? (fun m => m.digest == p.model)

/-- The reason to refuse a plan image for a slot, in the order of R224; 0 where it is accepted. -/
def planReason (h : Hub) (slot : Nat) (p : Plan) : Nat :=
  if p.magic ≠ 0x4C504D56 || p.format ≠ 2 || p.hdrLen ≠ 0x100 || !p.streamOk then 1
  else if !p.sigOk || !h.on F.SECSTAT_owner_set then 2
  else if p.secver.toNat < h.g F.SECSVN_plan then 3
  else
    match h.modelOf p with
    | none => 4
    | some m =>
      if !geometryOk m then 5
      else if !tokenizerOk m then 6
      else if p.arithrev.toNat ≠ h.g F.ARITHREV_rev then 7
      else if h.im.plans.any (fun e => e.2.any (fun q => q.family != p.family)) then 8
      else if !slicesOk p then 9
      else if !h.compositionOk slot p then 0xA
      else if h.slotActive slot || h.rcmpNames slot then 0xB
      else if 2 ^ 31 < (((smGet [] h.im.plans slot).filter (fun q => q.base != p.base)).map (fun q => q.length.toNat)).sum + p.length.toNat
          || !carveOk p m then 0xC
      else if !h.leatsOk p then 0xD
      else if !headerOk p then 0xF else 0

/-- A stored plan joins its slot; a complete slot is loaded (R223). The QMEM and colour masks in force are sampled at plan
load (R338, R436). -/
def addPlan (h : Hub) (slot : Nat) (p : Plan) : Hub :=
  let ps := (smGet [] h.im.plans slot).filter (fun q => !(q.base == p.base && q.n == p.n)) ++ [p]
  let h := { h with im := { h.im with plans := smPut h.im.plans slot ps }, qn := { h.qn with mem := min 384 (h.g F.QMEM_gib) } }
  let h := h.p F.POOLPLAN_loaded (setBits (h.g F.POOLPLAN_loaded) slot slot (b2n (planSetOk ps)))
  let h := h.pi F.PLANSLOT_set_id slot p.setId.toNat
  let h := match h.modelOf p with
    | none => h
    | some m => h.p F.HOPVOCAB_v m.vocab.length
  let m (k : Nat) : Nat := h.gi F.SECCOL_channels k
  let clash := (List.range 16).any (fun a => (List.range a).any (fun b => m a &&& m b != 0))
  let all := (List.range 16).foldl (fun x k => x ||| m k) 0
  let h := if h.on F.SECCTL_colour_en && (clash || all == 2 ^ 32 - 1) then h.p F.SECSTAT_cfg_err 1 else h
  h.logBoot 0x10 slot p.secver.toNat p.digest

/-! ### An image read from host memory -/

/-- An image command goes on with what its read brought (R276). -/
def imageRead (h : Hub) (c : Sub) (d : Option ReadData) : Hub :=
  let l := c.line
  match c.op.toNat, d with
  | 0x16, none => h.complete c St.planRefused 0xE
  | 0x16, some (.plan b p) =>
    let p := withHeader p b
    let r := h.planReason (l.opd 48 1) p
    if r ≠ 0 then h.complete c St.planRefused r
    else
      let key := planKey (l.opd 48 1) p.base.toNat
      h.storeImage c key 4 p.length.toNat (.plan b p)
  | 0x16, some _ => h.complete c St.planRefused 1
  | _, none => h.complete c St.imageRefused
  | 0x10, some (.raw b) => h.loadStop c b
  | 0x13, some (.raw b) => h.loadProg c b
  | 0x11, some (.grammar s g f x) =>
    if h.anyRec (fun r => r.gramSlot.toNat == l.opd 48 2) then h.complete c St.badState
    else
      match h.imageBad s g f x.secver (h.g F.SECSVN_aux) with
      | some e => h.complete c St.imageRefused e
      | none => h.storeImage c (gramKey (l.opd 48 2)) 5 (l.opd 40 8) (.grammar s g f x)
  | 0x12, some (.adapter s g f sv b) =>
    match h.imageBad s g f sv (h.g F.SECSVN_aux) with
    | some e => h.complete c St.imageRefused e
    | none => (h.loadAd (l.opd 48 2) c sv b).logBoot 0x13 (l.opd 48 2) sv.toNat (Config.sha3 b)
  | 0x15, some (.model s g f m) =>
    match h.imageBad s g f m.secver (h.g F.SECSVN_model) with
    | some e => h.complete c St.imageRefused e
    | none => h.storeImage c (modelKey m.digest) 3 (l.opd 40 8) (.model s g f m)
  | _, some _ => h.complete c St.imageRefused 3

/-- A stored image is durable: it is in force and its command completes (R276). -/
def imageDurable (h : Hub) (c : Sub) (d : ReadData) : Hub :=
  match d with
  | .grammar _ _ _ x =>
    let k := c.line.opd 48 2
    (({ h with im := { h.im with grams := smPut h.im.grams k x } }).logBoot 0x12 k x.secver.toNat x.digest).complete c St.ok
  | .model _ _ _ m =>
    let ms := h.im.models.filter (fun x => x.digest != m.digest) ++ [m]
    (({ h with im := { h.im with models := ms } }).logBoot 0x11 0 m.secver.toNat m.digest).complete c St.ok
  | .plan b p => (h.addPlan (c.line.opd 48 1) (withHeader p b)).complete c St.ok
  | _ => h

end Hub

end Sys2Proof.Machine
end

