-- ==== Sys2Proof/Machine/Complete.lean ====
section
/-! DEFINITION. What ends a wait: timers of a session (R37, R42, R258), durability of Granary writes (R99, R102, R151, R153,
R182, R297, R315, R342), completions of CXL.cache reads and writes (R141, R276, R285, R288, R421, R423, R425, R426),
quantized completions (R441) and interrupt hold-off (R286). -/

namespace Sys2Proof.Machine

namespace Hub

/-! ### Record rings -/

/-- Sessions held for room in a partition's completion ring go on once its overflow has cleared (R285). -/
def ringFreed (old h : Hub) (p : Nat) : Hub :=
  if old.gi F.CMPSTAT_overflow p = 1 ∧ h.gi F.CMPSTAT_overflow p = 0 then
    h.handles.foldl (fun h i =>
      match (h.s i).blk with
      | some (.redo _) => if (h.s i).r.part.toNat = p then h.settled i else h
      | _ => h) h
  else h

/-- The consumed word of a ring has been read, or its read failed (R141, R285). -/
def ringRead (h : Hub) (stream : Bool) (p : Nat) (consumed : Option (BitVec 32)) : Hub :=
  let x := h.ring stream p
  match consumed with
  | none =>
    let t : Nt := h.nt + 10000
    ((h.setRing stream p { x with reading := false, retryAt := some t }).pi (ringRegs stream).err p 1).hstat F.HSTAT_rd_err
  | some c =>
    let g := h.setRing stream p { x with reading := false, retryAt := none, consumed := c }
    let g := (g.drain stream p x.backlog.length).ringLimit stream p
    if stream then g else ringFreed h g p

/-! ### Writes to host memory -/

/-- A CXL.cache write is visible, or has failed and is retried 10 µs later (R283, R286, R288). The completion of a JREAD carries
the NT of its first entry, which its submission holds (R512). -/
def wrDone (h : Hub) (id : Nat) (w : WrWait) (ok : Bool) : Hub :=
  if !ok then
    let t : Nt := h.nt + 10000
    ({ h with writes := smPut h.writes id { w with failed := true, retryAt := t } }).hstat F.HSTAT_wr_err
  else
    let h := { h with writes := smDel h.writes id }
    match w.first with
    | some (a, d) => h.hostWrite { w with addr := a, data := d, first := none, failed := false }
    | none =>
      let h := match w.vec with
        | none => h
        | some v => h.visible v
      let h := match w.sess with
        | none => h
        | some i => h.endHold i
      let h := match w.sub with
        | none => h
        | some (c, d) =>
          let t := h.nt
          let h := ({ h with nt := if c.op = 0x50 then c.nt else t } : Hub).complete c w.status d.toNat
            (if namesSession c.op then c.line.nsi else 0)
          { h with nt := t }
      match w.ins with
      | none => h
      | some (i, nsi, n) => h.qEnd (.ins i nsi) w.status 0 h.nt n

/-! ### Sealed contexts and reports -/

/-- "KCV", the key check value of K (R425). -/
def keyCheck (k : BitVec 256) : Nat := (Config.kmac (le 32 k.toNat) [0x4B, 0x43, 0x56]).toNat % 2 ^ 32

/-- SEALOPEN commits with its open block (R425). -/
def sealCommit (h : Hub) (c : Sub) (d : Option ReadData) : Hub :=
  let t := c.line.opd 40 3
  match d with
  | none => h.complete c St.imageRefused
  | some (.openBlock true true k) =>
    if (smLook h.sec.ctx t).isNone && decide (1024 ≤ h.sec.ctx.length) then h.complete c St.badState
    else
      let h := ({ h with sec := { h.sec with ctx := smPut h.sec.ctx t { k := k } } }).complete c St.ok (keyCheck k)
      (List.range 16).foldl (fun h p => (h.drain true p (h.ring true p).backlog.length).ringLimit true p) h
  | some _ => h.complete c St.badOperand

/-- A sealed buffer has been read: tag and counter, then its segments stand ready in Hopper's queue, where the intake has had its
place since it came (R98, R426, R443). -/
def sealedIn (h : Hub) (i : Handle) (c : Sub) (d : Option ReadData) : Hub :=
  let x := h.s i
  let ends (h : Hub) (st : BitVec 8) (n : Nat) : Hub :=
    ({ h with hopq := h.hopq.filter (fun q => !(q.sub == some c && !q.ready)) } : Hub).endIntake i (some c) st n
  match d with
  | some (.sealed tenant ctr tagOk segs) =>
    match smLook h.sec.ctx x.r.tenant.toNat with
    | none => ends h St.sealedRequired 0
    | some k =>
      let (hit, h) := h.fireInj 0x30 (fun j => j.a.toNat == x.r.tenant.toNat)
      if ctr.toNat ≤ k.inCtr.toNat then ends h St.intakeFault 2
      else if !tagOk || hit then
        ends ((h.inc F.SECTAGFAIL_count).flag F.SECSTAT_tag_fail 35) St.intakeFault 1
      else
        match segs with
        | none => ends h St.intakeFault 3
        | some ss =>
          if tenant != x.r.tenant || ss.isEmpty || decide (256 < ss.length) then ends h St.intakeFault 3
          else { h with hopq := h.hopq.map (fun q => if q.sub = some c ∧ !q.ready then { q with ready := true, count := ss.length, segs := some (ctr, ss) } else q) }
  | some _ => ends h St.intakeFault 3
  | none => ends h St.intakeFault 0

/-- The report of R421. -/
def report (h : Hub) (nonce : Bytes) : Bytes :=
  let pf := if h.g F.POOLROLE_size = 0 then 0 else (h.plan.map (fun p => p.family.toNat)).getD 0
  let md := if h.g F.POOLROLE_size = 0 then 0 else (h.plan.map (fun p => p.model.toNat)).getD 0
  let b := le 4 0x5456414B ++ le 2 1 ++ le 2 0 ++ le 4 0x1414 ++ le 4 h.sec.logCnt ++ padTo 32 (nonce.take 32)
    ++ le 8 Config.serial.toNat ++ le 1 (h.reg 0x10).toNat ++ le 1 (h.g F.SECPROFILE_active + h.g F.SECSTAT_ide_up * 2) ++ le 2 0
    ++ le 4 (h.reg 0x4).toNat ++ digestBytes h.sec.digest ++ le 4 (h.reg 0x4000C).toNat ++ le 4 0 ++ le 8 h.nt.toNat
    ++ ((List.range 4).map (fun k => le 8 (h.reg (0x40020 + 8 * k)).toNat)).flatten ++ le 32 pf ++ le 32 md ++ le 16 0
    ++ padTo 1184 ((Config.kemPublic h.nf.boots).take 1184) ++ padTo 1312 (Config.identityPublic.take 1312)
  b ++ padTo 2420 ((Config.identitySign (digestBytes (Config.sha3 b))).take 2420)

/-- ATTEST writes the retained log and then the report; the command completes when both are visible (R421, R442). -/
def attested (h : Hub) (c : Sub) (d : Option ReadData) : Hub :=
  match d with
  | some (.raw n) =>
    let a : W64 := BitVec.ofNat 64 (c.line.opd 40 8)
    let k : BitVec 32 := BitVec.ofNat 32 h.sec.log.length
    if h.sec.log.isEmpty then h.hostWrite { addr := a, data := h.report n, sub := some (c, k) }
    else h.hostWrite { addr := a + 0x1440, data := h.sec.log.flatten, sub := some (c, k), first := some (a, h.report n) }
  | _ => h.complete c St.imageRefused

/-- PROVISION takes its request; the later of two governs (R423, R444). -/
def provide (h : Hub) (c : Sub) (key : Option Bytes) : Hub :=
  let f := c.line.opd 32 1 == 1
  let e := c.line.opd 33 1 == 1
  let h := { h with sec := { h.sec with prov := some ⟨f, e, key⟩ } }
  let erase := e || (f != (h.g F.SECPROFILE_active == 1)) || (match key with
    | none => false
    | some b => (Config.sha3 b).toNat != (List.range 4).foldl (fun x k => x + (h.reg (0x40020 + 8 * k)).toNat * 2 ^ (64 * k)) 0
        || !h.on F.SECSTAT_owner_set)
  (((h.p F.SECPROFILE_pending 1).p F.SECPROFILE_pending_profile (b2n f)).p F.SECPROFILE_erase_pending (b2n erase)).complete c St.ok

/-! ### Reads of host memory -/

/-- The bytes of a read that is taken as it stands. -/
def rawOf (d : Option ReadData) : Option Bytes := match d with
  | some (.raw b) => some b
  | _ => none

/-- What a completed CXL.cache read does (R94, R123, R276, R340, R421, R423, R425, R426). -/
def rdDone (h : Hub) (w : RdWait) (d : Option ReadData) : Hub :=
  match w with
  | .image c => h.imageRead c d
  | .draft _ => h
  | .qreq who op k nt => h.qRead who op k nt (rawOf d)
  | .openBlk c => h.sealCommit c d
  | .sealed i c => h.sealedIn i c d
  | .nonce c => h.attested c d
  | .ownerKey c => match rawOf d with
    | none => h.complete c St.imageRefused
    | some b => h.provide c (some b)

/-! ### Durability -/

/-- A Granary write is not durable while units of its object wait for room in the tun, or, where it names no object here, while the tun is
short or others wait for room (R297, R298); extents and Quern writes wait also while the throttle factor is 0 (R315). -/
def durHeld (h : Hub) (w : DurWait) : Bool :=
  let short := h.tunShort || !h.gr.queue.isEmpty
  h.gr.queue.any (fun u => (smLook h.gr.units u).any (fun x => some x.key == h.durKey w)) ||
  match w with
  | .intake .. => false
  | .intakeMirror .. => true
  | .flush .. => false
  | .mirror _ => h.gr.queue.any h.logUnit
  | .extent _ | .foreign _ => h.g F.GRNTHROT_f == 0
  | .quern .. => short || h.g F.GRNTHROT_f == 0
  | .image .. => short
  | .staged .. => short
  | .buddy _ _ ok => short || !ok

/-- A demotion goes on to its end once the log is durable (R164). -/
def demoteOn (h : Hub) (i : Handle) : Hub :=
  let x := h.s i
  if x.demote then (if x.logDurable then h.endDemote i else h.startFlush i) else h

/-- Entries of a parent's log below the fork indices of its children are durable in their logs too (R48, log 146): `a` were, `b` are. -/
def childrenDurable (h : Hub) (i : Handle) (a b : Nat) : Hub :=
  let g := smGet 0 h.gens i.toNat
  let kid (x : Sess) : Bool := x.r.child && x.r.parH == i && x.r.parGen == g && x.r.parDev.toNat == h.dev && x.r.state != S.free
  (h.handles.filter (fun c => kid (h.s c))).foldl (fun h c =>
    let f := (h.s c).r.forkIndex.toNat
    (h.modS c (fun x => { x with durable := x.durable + BitVec.ofNat 32 (min f b - min f a) })).demoteOn c) h

/-- A log flush is durable: `n` entries leave logbuf; what has come since is flushed where R151 asks (R151, R164). -/
def flushed (h : Hub) (i : Handle) (n : Nat) : Hub :=
  let was := h.s i
  let h := h.modS i (fun x => { x with durable := x.durable + BitVec.ofNat 32 n, logbuf := x.logbuf.drop n, flushing := false })
  let a := was.r.committed.toNat - was.logbuf.length
  let h := h.childrenDurable i a (a + n)
  let x := h.s i
  if x.demote then h.demoteOn i
  else if x.r.state != S.stepping || decide (1024 ≤ x.logbuf.length) then h.startFlush i
  else h

/-- An append waits for the session's earlier ones, whose tokens come before its own (R98, R99). -/
def laterIntake (h : Hub) (id : Nat) (w : DurWait) : Bool :=
  match w with
  | .intake i .. => h.durs.any (fun e => decide (e.1 < id) && (match e.2 with
    | .intake j .. => j == i
    | .intakeMirror j .. => j == i
    | _ => false))
  | _ => false

/-- A Granary write is durable. -/
def durDone (h : Hub) (w : DurWait) : Hub :=
  match w with
  | .intake i c toks mir =>
    if (h.s i).r.state == S.faulted then h.endIntake i c St.badState 0
    else if mir then
      let (id, h) := h.newId
      ({ h with durs := smPut h.durs id (.intakeMirror i c toks) }).sendMirror i toks
    else h.landIntake i c toks
  | .intakeMirror .. => h
  | .flush i n => h.flushed i n
  | .extent i => h.modS i (fun x => { x with park := x.park.map (fun p => { p with extent := true }) })
  | .foreign r => h.modG (fun g => { g with fext := smMod g.fext r.toNat (fun x => { x with done := true }) })
  | .image c d => h.imageDurable c d
  | .staged k v src =>
    if src = h.me then h.stagedBy k.toNat v h.me else h.send src (.adapter (.report k v))
  | .mirror sk =>
    match smLook h.mirrors sk.toNat with
    | none => h
    | some m => h.send m.src (.mirror m.m)
  | .quern k item => h.qDurable k item
  | .buddy src e _ => h.copyDone src e

end Hub

/-! ### The commands -/

/-- WAIT_TIMEOUT: the WAIT in progress has reached its timeout (R37, R167, R519). -/
def execWaitTimeout (t : Nt) (i : Handle) : State → Host.Outcome State Fault Refusal :=
  onHub t (fun h =>
    let x := h.s i
    match x.blk with
    | some (.wait _) =>
      if x.r.waitExp != 0 && decide (x.r.waitExp ≤ h.nt) && !x.waitHit then (h.timeout i).settled i else h
    | _ => h)

/-- HOLD_TIMEOUT: the HOLD completes with destination and detail 0xFFFF (R258). -/
def execHoldTimeout (t : Nt) (i : Handle) : State → Host.Outcome State Fault Refusal :=
  onHub t (fun h =>
    match (h.s i).blk with
    | some (.hold d e) => if e != 0 && decide (e ≤ h.nt) then h.endInstr i (some (d, 0xFFFF)) St.ok 0xFFFF else h
    | _ => h)

/-- TTL_EXPIRE (R42). -/
def execTtlExpire (t : Nt) (i : Handle) : State → Host.Outcome State Fault Refusal :=
  onHub t (fun h =>
    let r := (h.s i).r
    if r.state == S.parked && r.ttlArmed && decide (r.expiry ≤ h.nt) then (h.expire i).settled i else h)

/-- WRITE_DURABLE (R297). -/
def execWriteDurable (t : Nt) (id : Nat) : State → Host.Outcome State Fault Refusal :=
  onHub t (fun h =>
    match smLook h.durs id with
    | none => h
    | some w => if h.durHeld w || h.grnWaits (.grn id) || h.laterIntake id w then h else ({ h with durs := smDel h.durs id }).durDone w)

/-- BACKLOG_DRAIN: the consumed word of a stream ring has been read (R141). -/
def execBacklogDrain (t : Nt) (p : BitVec 4) (consumed : Option (BitVec 32)) : State → Host.Outcome State Fault Refusal :=
  onHub t (fun h => if (h.ring true p.toNat).reading then h.ringRead true p.toNat consumed else h)

/-- COMPLETION_BACKLOG_DRAIN: the consumed word of a completion ring has been read (R285). -/
def execCompletionBacklogDrain (t : Nt) (p : BitVec 4) (consumed : Option (BitVec 32)) :
    State → Host.Outcome State Fault Refusal :=
  onHub t (fun h => if (h.ring false p.toNat).reading then h.ringRead false p.toNat consumed else h)

/-- CONSUMED_WORD_RETRY: a failed read of a consumed word is repeated 10 µs later, with what it brings (R144, R288). -/
def execConsumedWordRetry (t : Nt) (stream : Bool) (p : BitVec 4) (consumed : Option (BitVec 32)) :
    State → Host.Outcome State Fault Refusal :=
  onHub t (fun h =>
    match (h.ring stream p.toNat).retryAt with
    | none => h
    | some e =>
      if e ≤ h.nt then
        (h.emit (.wordRead stream p (BitVec.ofNat 64 (h.gi (ringRegs stream).cons p.toNat * 8)))).ringRead stream p.toNat consumed
      else h)

/-- WRITE_RETRY: a failed CXL.cache write is repeated 10 µs later (R288). -/
def execWriteRetry (t : Nt) (id : Nat) (ok : Bool) : State → Host.Outcome State Fault Refusal :=
  onHub t (fun h =>
    match smLook h.writes id with
    | none => h
    | some w =>
      if w.failed && decide (w.retryAt ≤ h.nt) then
        (h.emit (.hostWrite id w.addr w.data)).wrDone id { w with failed := false } ok
      else h)

/-- QUANTIZED_COMPLETION: the completions whose NT multiple of 1 ms has come are written; their nt is that NT (R441). -/
def execQuantizedCompletion (t : Nt) : State → Host.Outcome State Fault Refusal :=
  onHub t (fun h =>
    let now := h.nt
    let due := h.quant.filter (fun q => decide (q.1 ≤ now))
    let h := { h with quant := h.quant.filter (fun q => !decide (q.1 ≤ now)) }
    due.foldl (fun h q =>
      let h := ({ h with nt := q.1 } : Hub).complete q.2.1 q.2.2.1 q.2.2.2.1.toNat q.2.2.2.2
      { h with nt := now }) h)

/-- INTERRUPT_HOLDOFF (R286). -/
def execInterruptHoldoff (t : Nt) (v : BitVec 6) : State → Host.Outcome State Fault Refusal :=
  onHub t (fun h =>
    let q := smGet {} h.irq v.toNat
    match q.since with
    | none => h
    | some s =>
      if decide (0 < q.count) && decide (s.toNat + h.gi F.INTMOD_holdoff v.toNat * 1000 ≤ h.nt.toNat) then
        (h.p F.INTCAUSE_cause (h.g F.INTCAUSE_cause ||| 2 ^ v.toNat)).fire v
      else h)

/-- ITOMWR_COMPLETE. -/
def execItomwrComplete (t : Nt) (id : Nat) (ok : Bool) : State → Host.Outcome State Fault Refusal :=
  onHub t (fun h =>
    match smLook h.writes id with
    | none => h
    | some w => if w.failed then h else h.wrDone id w ok)

/-- RDCURR_COMPLETE: a failed read sets HSTAT.rd_err (R288). -/
def execRdcurrComplete (t : Nt) (id : Nat) (data : Option ReadData) : State → Host.Outcome State Fault Refusal :=
  onHub t (fun h =>
    match smLook h.reads id with
    | none => h
    | some (.draft _) => h
    | some w =>
      let h := { h with reads := smDel h.reads id }
      (if data.isNone then h.hstat F.HSTAT_rd_err else h).rdDone w data)

end Sys2Proof.Machine
end

