-- ==== Sys2Proof/Machine/Security.lean ====
section
/-! DEFINITION. Keridy's commands and events (17_security.md): reports, sealed contexts, partition clears, fuses, provisioning,
the sweep and the end of a key rotation, the TRNG's health tests, and the establishment of IDE (R269, R419 to R438). -/

namespace Sys2Proof.Machine

namespace Hub

/-- The lowest secver among the images of a fuse class that the device holds; none where it holds none (R419). -/
def leastSecver (h : Hub) (cls : Nat) : Option Nat :=
  let l : List Nat := match cls with
    | 1 => (h.im.plans.map (fun e => e.2.map (fun p => p.secver.toNat))).flatten
    | 2 => h.im.models.map (fun m => m.secver.toNat)
    | _ => h.im.grams.map (fun e => e.2.secver.toNat) ++ (h.im.adapters.map (fun e => e.2.vers.map (fun v => v.secver.toNat))).flatten
  l.foldl (fun b x => match b with
    | none => some x
    | some y => some (min x y)) none

/-- FUSEADV: the class minimum rises to the value; a value below it blows nothing (R419). -/
def fuseAdv (h : Hub) (c : Sub) : Hub :=
  let k := c.line.opd 32 1
  let v := c.line.opd 33 1
  let ok := if k = 0 then decide (v ≤ h.sec.fwSec.toNat) else
    match h.leastSecver k with
    | none => true
    | some m => decide (v ≤ m)
  if !ok then h.complete c St.badOperand
  else
    let a := 0x4000C
    let old := bitsOf (h.reg a).toNat (8 * k + 7) (8 * k)
    (h.setReg a (BitVec.ofNat 64 (setBits (h.reg a).toNat (8 * k + 7) (8 * k) (max old v)))).complete c St.ok

/-- The clusters that a partition's slices use in the active plan (R215). -/
def partClusters (h : Hub) (p : Nat) : List Nat :=
  match h.plan with
  | none => []
  | some q => (List.range 64).filter (fun c => (layout q).any (fun s => s.part.toNat == p && s.mask.getLsbD c))

/-- The logical stones of a partition's clusters. -/
def partStones (h : Hub) (p : Nat) : List Nat :=
  ((h.partClusters p).map (fun c => (List.range 32).map (fun k => 32 * c + k))).flatten

/-- PARTCLEAR: refused while a record that is not FREE names the partition; else its stones scrub and its spill
areas are released (R438). -/
def partClear (h : Hub) (c : Sub) : Hub :=
  let p := c.line.opd 32 1
  if h.anyRec (fun r => r.part.toNat == p) then h.complete c St.badState
  else
    let h := (h.partStones p).foldl (fun h l => h.scrubbed l) h
    let h := { h with kv := { h.kv with spill := h.kv.spill.filter (fun e => e.1 / 2048 != p) } }
    ({ h with sec := { h.sec with clear := some (BitVec.ofNat 4 p) } }.inc F.SECPCLEAR_count).complete c St.ok

/-- The unit of a rotating session is rewritten under the new generation; the last one moves the rotation to DRAINING (R432,
R433). -/
def sweepOne (h : Hub) (i : Handle) (u : BitVec 32) : Hub :=
  match smLook h.sec.rots i.toNat, smLook h.gr.units u.toNat with
  | some q, some x =>
    if q.phase != 1 || !q.left.contains u || (x.key / 2 ^ 72 == 1 && (h.s i).r.state == S.reviving) then h
    else
      let left := q.left.erase u
      let h := (h.modG (fun g => { g with
        units := smPut g.units u.toNat { x with keygen := q.newG, inTun := true, seq := g.wseq }
        wseq := g.wseq + 1
        tun := if g.tun.contains u.toNat || g.queue.contains u.toNat then g.tun else g.tun ++ [u.toNat] })).journalMap u.toNat (mapEntry x)
      let h := (h.grnPaid 2 unitBytes).inc F.SECSWEEP_count
      { h with sec := { h.sec with rots := smPut h.sec.rots i.toNat { q with left := left, phase := if left.isEmpty then 2 else 1 } } }
  | some q, none =>
    let left := q.left.erase u
    if q.phase != 1 then h
    else { h with sec := { h.sec with rots := smPut h.sec.rots i.toNat { q with left := left, phase := if left.isEmpty then 2 else 1 } } }
  | none, _ => h

/-- STABLE g′: the old generation is retired and KEYROTATE completes (R432). -/
def keyRetired (h : Hub) (i : Handle) : Hub :=
  match smLook h.sec.rots i.toNat with
  | none => h
  | some q =>
    if q.phase != 2 then h
    else
      let h := { h with sec := { h.sec with rots := smDel h.sec.rots i.toNat } }
      let h := (h.inc F.SECROTATIONS_count).devEv 0x0705 4 (q.newG.toNat + i.toNat * 2 ^ 16)
      let h := match q.sub with
        | none => h
        | some c => h.complete c St.ok q.newG.toNat (h.s i).r.nsi
      h.settled i

end Hub

/-! ### The commands -/

/-- ATTEST: the nonce is read first (R421). -/
def execAttest (t : Nt) (w : BitVec 8) (l : CmdLine) : State → Host.Outcome State Fault Refusal :=
  onHub t (fun h => h.line w 0x40 l (fun c h => h.hostRead (BitVec.ofNat 64 (l.opd 32 8)) 32 (.nonce c)))

/-- SEALOPEN: the open block is read first (R425); refused while fresh randomness is (R422), and in Profile F, which provides no sealed
I/O (R23): the status is the model's, DESIGN CHOICE (log 130). -/
def execSealopen (t : Nt) (w : BitVec 8) (l : CmdLine) : State → Host.Outcome State Fault Refusal :=
  onHub t (fun h => h.line w 0x41 l (fun c h =>
    if h.sec.trngBad || !h.profS then h.complete c St.badState else h.hostRead (BitVec.ofNat 64 (l.opd 32 8)) 1152 (.openBlk c)))

/-- SEALCLOSE (R425, R442). -/
def execSealclose (t : Nt) (w : BitVec 8) (l : CmdLine) : State → Host.Outcome State Fault Refusal :=
  onHub t (fun h => h.line w 0x42 l (fun c h =>
    let k := l.opd 40 3
    if (smLook h.sec.ctx k).isNone then h.complete c St.badState
    else ({ h with sec := { h.sec with ctx := smDel h.sec.ctx k } } : Hub).complete c St.ok))

/-- PARTCLEAR: the stones of the partition's clusters are wiped (R437, R438). -/
def execPartclear (t : Nt) (w : BitVec 8) (l : CmdLine) (s : State) : Host.Outcome State Fault Refusal :=
  let h := (s.hub.stamp t).line w 0x45 l (fun c h => h.partClear c)
  match h.sec.clear with
  | none => .next { s with hub := Hub.finish s.hub h }
  | some p =>
    let stn := (h.partStones p.toNat).foldl (fun stn k =>
      stn.set (BitVec.ofNat 11 k) (stn.get (BitVec.ofNat 11 k)).wiped) s.stn
    .next { s with hub := Hub.finish s.hub { h with sec := { h.sec with clear := none } }, stn := stn }

/-- FUSEADV (R419). -/
def execFuseadv (t : Nt) (w : BitVec 8) (l : CmdLine) : State → Host.Outcome State Fault Refusal :=
  onHub t (fun h => h.line w 0x46 l (fun c h => h.fuseAdv c))

/-- PROVISION: an owner key is read first (R423); with erase it is refused while fresh randomness is (R422). -/
def execProvision (t : Nt) (w : BitVec 8) (l : CmdLine) : State → Host.Outcome State Fault Refusal :=
  onHub t (fun h => h.line w 0x47 l (fun c h =>
    if l.opd 33 1 = 1 && h.sec.trngBad then h.complete c St.badState
    else if l.opd 40 8 = 0 then h.provide c none
    else h.hostRead (BitVec.ofNat 64 (l.opd 40 8)) 1312 (.ownerKey c)))

/-- SWEEP_REWRITE (R432). -/
def execSweepRewrite (t : Nt) (i : Handle) (unit : BitVec 32) : State → Host.Outcome State Fault Refusal :=
  onHub t (fun h => h.sweepOne i unit)

/-- KEY_RETIRE (R432). -/
def execKeyRetire (t : Nt) (i : Handle) : State → Host.Outcome State Fault Refusal := onHub t (fun h => h.keyRetired i)

/-- TRNG_HEALTH_TEST (R422, R443). -/
def execTrngHealthTest (t : Nt) (pass : Bool) : State → Host.Outcome State Fault Refusal :=
  onHub t (fun h =>
    let (inj, h) := h.fireInj 0x31 (fun _ => true)
    if pass && !inj then { h with sec := { h.sec with trngBad := false } }
    else ({ h with sec := { h.sec with trngBad := true } }.devEv 0x0706 4 (Hub.injBit inj)).flag F.SECSTAT_trng_fail 35)

/-- IDE_KM: CXL IDE is established (R269). -/
def execIdeKm (t : Nt) : State → Host.Outcome State Fault Refusal := onHub t (fun h => h.p F.SECSTAT_ide_up 1)

end Sys2Proof.Machine
end

