-- ==== Sys2Proof/Machine/Sluice.lean ====
section
/-! DEFINITION. Sluice (14_sluice.md): token buckets at refill instants (R358, R359, R362, R366), the deficit round robin of
each path (R356, R357, R360, R361, R364), depth and delay samples (R367). -/

namespace Sys2Proof.Machine

namespace Hub

/-! ### Token buckets -/

/-- The refill period in force in µs. -/
def slPeriod (h : Hub) : Nat := let p := h.slReg 0x34008 % 1024; if 1 ≤ p ∧ p ≤ 1000 then p else 1

/-- A bucket gains, and is limited to its burst. -/
def gain (m : SMap Int) (k : Nat) (gained burst : Nat) : SMap Int :=
  smSet 0 m k (min (smGet 0 m k + (gained : Int)) (burst : Int))

/-- Every shaper and policer bucket at a refill instant; a rate of 0 is unshaped (R358, R359, R362, R366). -/
def refill (h : Hub) : Hub :=
  let per := h.slPeriod
  let now := h.nt
  let h := { h with sl := { h.sl with force := h.sl.force.filter (fun e => decide (now ≤ e.2.2)), lastRefill := now } }
  let port := h.slReg 0x34014 % 2 ^ 20
  let dTok := if port = 0 then h.sl.dTok
    else (List.range 16).foldl (fun m n => gain m n (port * per) (max 1024 (h.slReg 0x34018))) h.sl.dTok
  let qTok := (List.range 16).foldl (fun m q =>
    let r := h.slReg (0x34104 + 16 * q) % 2 ^ 20
    if r = 0 then m
    else (List.range 16).foldl (fun m n => gain m (n * 16 + q) (r * per) (max 1024 (h.slReg (0x34108 + 16 * q)))) m) h.sl.qTok
  let gTok := (List.range 12).foldl (fun m c => match h.grnRate c with
    | none => m
    | some r => gain m c (r * per / 1000000) (h.slReg 0x34038)) h.sl.gTok
  let hTok := (List.range 16).foldl (fun m p =>
    let r := h.slReg (0x34304 + 16 * p) % 2 ^ 20
    if r = 0 then m else gain m p (r * per) (max 256 (h.slReg (0x34308 + 16 * p)))) h.sl.hTok
  let pol := (List.range 64).foldl (fun m k =>
    let r := h.slReg (0x34504 + 16 * k)
    smSet 0 m k (min (smGet 0 m k + r * per) (max 1 (h.slReg (0x34508 + 16 * k) % 2 ^ 16) * 1000000))) h.sl.pol
  { h with sl := { h.sl with dTok := dTok, qTok := qTok, gTok := gTok, hTok := hTok, pol := pol } }

/-! ### The scheduler -/

/-- What a scheduler asks of a path: its queues in order, eligibility, the counted length of a head, emptiness, quantum, and
the sending of a head. -/
structure DrrPath where
  key  : Nat
  n    : Nat
  elig : Hub → Nat → Bool
  len  : Hub → Nat → Nat
  none_ : Hub → Nat → Bool
  quant : Hub → Nat → Nat
  send : Hub → Nat → Hub

/-- The deficit of a queue of a path. -/
def defOf (h : Hub) (P : DrrPath) (q : Nat) : Nat := smGet 0 h.sl.defi (P.key * 16 + q)

/-- Set a deficit. -/
def setDef (h : Hub) (P : DrrPath) (q v : Nat) : Hub := { h with sl := { h.sl with defi := smSet 0 h.sl.defi (P.key * 16 + q) v } }

/-- The queue visited next and the queue being served (plus 1). -/
def setPtr (h : Hub) (P : DrrPath) (ptr serv : Nat) : Hub :=
  { h with sl := { h.sl with ptr := smSet 0 h.sl.ptr P.key (ptr % P.n), serv := smSet 0 h.sl.serv P.key serv } }

/-- Send the next item of a path: the queue being served goes on while its deficit covers its head; else the next eligible
queue is visited and gains its quantum (R357). -/
def drr (h : Hub) (P : DrrPath) : Nat → Hub
  | 0 => h
  | fuel + 1 =>
    match smGet 0 h.sl.serv P.key with
    | 0 =>
      let p := smGet 0 h.sl.ptr P.key
      match ((List.range P.n).map (fun k => (p + k) % P.n)).find? (fun q => P.elig h q) with
      | none => h
      | some q => drr ((h.setDef P q (h.defOf P q + P.quant h q)).setPtr P q (q + 1)) P fuel
    | q + 1 =>
      if P.elig h q && decide (P.len h q ≤ h.defOf P q) then
        let g := (P.send h q).setDef P q (h.defOf P q - P.len h q)
        if P.none_ g q then (g.setDef P q 0).setPtr P (q + 1) 0 else g
      else
        let g := if P.none_ h q then h.setDef P q 0 else h
        drr (g.setPtr P (q + 1) 0) P fuel

/-- What tells an object in transfer from the others. -/
def loadId (x : SlLoad) : Nat := match x with
  | .msg _ id _ => id.toNat
  | .frame f => f.tag.toNat
  | .grn id => id
  | .ext i => i.toNat
  | .weight => 0

/-! ### Molair dynamic egress (R243, R356, R360) -/

/-- A dynamic queue of a port. -/
def dynq (h : Hub) (n q : Nat) : List SlItem := smGet [] h.sl.dyn (n * 16 + q)

/-- Counted length of the head of a dynamic queue: valid bytes and SLDOVHD. -/
def dynLen (h : Hub) (n q : Nat) : Nat := match h.dynq n q with
  | [] => 0
  | x :: _ => x.head + h.slReg 0x34010 % 256

/-- A dynamic queue holds an item, its shapers have tokens above zero and it has a credit; no frame waits for room in the replay buffer,
since a static one goes first (R234, R243). -/
def dynElig (h : Hub) (n q : Nat) : Bool :=
  let pos (rate : Nat) (m : SMap Int) (k : Nat) : Bool := !h.shapeOn || rate == 0 || decide (0 < smGet 0 m k)
  !(h.dynq n q).isEmpty && h.portUp n && h.on F.MOLCTL_enable && decide (0 < (h.port n).credits.getD q 0)
    && decide ((h.port n).replay.length < 256) && (h.port n).waitq.isEmpty
    && pos (h.slReg 0x34014 % 2 ^ 20) h.sl.dTok n && pos (h.slReg (0x34104 + 16 * q) % 2 ^ 20) h.sl.qTok (n * 16 + q)

/-- The running check of an object goes on from the context that its interruption saved: that fails by its own CRC, or where an injection
hits it (R371, R392). -/
def resume (h : Hub) (key q : Nat) (x : SlItem) : Bool × Hub :=
  match x.ctx with
  | none => (false, h)
  | some c =>
    if smGet 0 h.sl.last key = q + 1 then (false, h)
    else
      let (inj, h) := h.fireInj 0x1A (fun _ => true)
      (inj || crc32c (le 8 c.value.toNat ++ le 4 c.count.toNat) != c.crc.toNat, h)

/-- What is left of an object, with its context after `count` bytes. -/
def partly (x : SlItem) (obj count : Nat) (bad : Bool) : SlItem :=
  let v := Config.runValue obj count
  { x with bad := x.bad || bad
           ctx := some { value := v, count := BitVec.ofNat 32 count, crc := BitVec.ofNat 32 (crc32c (le 8 v.toNat ++ le 4 (count % 2 ^ 32))) } }

/-- A message has left: with the last part of a migration the time for its ACK begins (R176). -/
def partLeft (h : Hub) (dst : BitVec 6) (m : Msg) : Hub :=
  match m with
  | .part sk .fin =>
    match h.findSk sk with
    | none => h
    | some i =>
      let due := BitVec.ofNat 64 (h.nt.toNat + h.migTmo)
      h.modS i (fun x => { x with migOut := x.migOut.map (fun q => if q.answered && q.target == dst then { q with due := due } else q) })
  | _ => h

/-- The head frame of a dynamic queue goes out; a message is out with its last frame (R243, R244, R392). The payloads are
the message's bytes in order. -/
def dynSend (h : Hub) (n q : Nat) : Hub :=
  match h.dynq n q with
  | [] => h
  | x :: rest =>
    let len := h.dynLen n q
    let sub (rate : Nat) (m : SMap Int) (k : Nat) : SMap Int := if rate = 0 then m else smSet 0 m k (smGet 0 m k - len)
    let done := match x.load with
      | .msg _ _ m => msgBytes m - x.rest
      | _ => x.head
    let (bad, h) := h.resume n q x
    let y := partly x (loadId x.load) done bad
    let left := if x.rest = 0 then rest else { y with head := min 512 x.rest, rest := x.rest - 512 } :: rest
    let h := { h with sl := { h.sl with
      dyn := smSet [] h.sl.dyn (n * 16 + q) left
      last := smPut h.sl.last n (q + 1)
      dTok := sub (h.slReg 0x34014 % 2 ^ 20) h.sl.dTok n
      qTok := sub (h.slReg (0x34104 + 16 * q) % 2 ^ 20) h.sl.qTok (n * 16 + q) } }
    let p := h.port n
    let h := (h.setPort n { p with credits := p.credits.set q (p.credits.getD q 0 - 1) }).inci F.MOLDTX_bytes n x.head
    match x.load with
    | .frame f => h.sendFrame n f
    | .msg dst id m =>
      let at_ := msgBytes m - x.head - x.rest
      let image := msgImage (BitVec.ofNat 6 h.dev) dst id x.enq m
      let h := h.sendFrame n { typ := 3, poison := false, unconf := false, last := decide (x.rest = 0)
                               src := BitVec.ofNat 6 h.dev, dst := dst, queue := BitVec.ofNat 4 q, lseq := 0, tag := id
                               valid := BitVec.ofNat 9 (x.head - 1)
                               frag := BitVec.ofNat 22 (cdiv at_ 512), payload := (image.drop at_).take x.head }
      if x.rest = 0 then
        let (inj, h) := h.fireInj 0x0B (fun i => i.a.toNat == msgCode m)
        (h.emit (.msg dst id m (!(inj || y.bad)))).partLeft dst m
      else h
    | _ => h

/-- The scheduler of a port's dynamic egress. -/
def dynPath (n : Nat) : DrrPath :=
  { key := n, n := 16, elig := fun h q => h.dynElig n q, len := fun h q => h.dynLen n q
    none_ := fun h q => (h.dynq n q).isEmpty, quant := fun h q => max 1024 (h.slReg (0x34100 + 16 * q) % 2 ^ 24)
    send := fun h q => h.dynSend n q }

/-! ### Granary paths (R356, R361, R362) -/

/-- The weight of a class; foreground GC raises that of GC writes (R362). -/
def grnWeight (h : Hub) (c : Nat) : Nat :=
  let w := max 1 (h.slReg (0x34200 + 16 * c) % 256)
  if c = 2 ∧ h.on F.GRNSTAT_fg_gc then w + (max w (h.slReg 0x34034 % 256) - w) * (1000 - h.g F.GRNTHROT_f) / 1000 else w

/-- The check of an object fails at its end because a context of it has failed (R371): the newest unit written cannot be read (R295,
R317), or the extent read fails (R160). -/
def spoil (h : Hub) (x : SlLoad) : Hub :=
  match x with
  | .ext i => h.modS i (fun s => { s with extent := s.extent.map (fun e => (e.1, true)) })
  | .grn id =>
    match ((smLook h.durs id).bind h.durKey).bind (fun k => (smLook h.gr.objs k).bind (fun o => o.units.getLast?)) with
    | none => h
    | some u => h.modG (fun g => { g with units := smMod g.units u (fun e => { e with poison := true }) })
  | _ => h

/-- The head of a Granary class: the bytes of at most one logical unit at a time. -/
def grnLen (h : Hub) (c : Nat) : Nat := match smGet [] h.sl.grn c with
  | [] => 0
  | x :: _ => min unitBytes x.head

/-- Bytes of the head of a Granary class go; the access leaves Sluice with its last ones. -/
def grnSend (h : Hub) (c : Nat) : Hub :=
  match smGet [] h.sl.grn c with
  | [] => h
  | x :: rest =>
    let n := min unitBytes x.head
    let key := if c < 6 then 16 else 17
    let (bad, h) := h.resume key c x
    let y := partly x (loadId x.load) ((x.ctx.map (·.count.toNat)).getD 0 + n) bad
    let left := if x.head ≤ unitBytes then rest else { y with head := x.head - n } :: rest
    let h := ({ h with sl := { h.sl with grn := smSet [] h.sl.grn c left, last := smPut h.sl.last key (c + 1) } } : Hub).grnPaid c n
    if x.head ≤ unitBytes ∧ y.bad then h.spoil x.load else h

/-- The scheduler of Granary writes (classes 0 to 5) or reads (6 to 11); a quantum is the weight in units of 64 KiB. -/
def grnPath (read : Bool) : DrrPath :=
  let o := if read then 6 else 0
  { key := if read then 17 else 16, n := 6
    elig := fun h q => !(smGet [] h.sl.grn (o + q)).isEmpty && h.grnPass (o + q), len := fun h q => h.grnLen (o + q)
    none_ := fun h q => (smGet [] h.sl.grn (o + q)).isEmpty, quant := fun h q => h.grnWeight (o + q) * unitBytes
    send := fun h q => h.grnSend (o + q) }

/-! ### Host records (R356, R364) -/

/-- The next record of a partition, completions first: its ring, where it can be written now. -/
def hostNext (h : Hub) (p : Nat) : Option Bool :=
  let writes (st : Bool) : Bool :=
    decide (((h.drain st p 1).ring st p).backlog.length < (h.ring st p).backlog.length)
  if writes false then some false else if writes true then some true else none

/-- The scheduler of host records. -/
def hostPath : DrrPath :=
  { key := 18, n := 16, elig := fun h p => (h.hostNext p).isSome
    len := fun h p => match h.hostNext p with
      | none => 0
      | some st => (((h.ring st p).backlog.head?).map (recLen st)).getD 0
    none_ := fun h p => (h.ring false p).backlog.isEmpty && (h.ring true p).backlog.isEmpty
    quant := fun h p => max 256 (h.slReg (0x34300 + 16 * p) % 2 ^ 16)
    send := fun h p => match h.hostNext p with
      | none => h
      | some st =>
        let g := (h.drain st p 1).ringLimit st p
        if st then g else ringFreed h g p }

/-- The depth and delay of one queue (R367). -/
def sampleOf (h : Hub) (i depth : Nat) (head : Option Nt) : Hub :=
  let delay := match head with
    | none => 0
    | some e => h.nt.toNat - e.toNat
  ((h.pi F.SLSMPD_depth i (min depth (2 ^ 32 - 1))).pi F.SLSMPD_delay i (min delay (2 ^ 32 - 1))).pi F.SLSMP_nt i h.nt.toNat

/-- Every queue of R356 is sampled (R367). A host record is counted from the NT it carries. -/
def sampleAll (h : Hub) : Hub :=
  let total (l : List SlItem) (o : Nat) : Nat := (l.map (fun x => x.head + x.rest + o)).sum
  let first (l : List SlItem) : Option Nt := l.head?.map (·.enq)
  let h := (List.range 256).foldl (fun h i =>
    let l := smGet [] h.sl.dyn i
    h.sampleOf i (total l (h.slReg 0x34010 % 256)) (first l)) h
  let h := (List.range 13).foldl (fun h c => let l := smGet [] h.sl.grn c; h.sampleOf (256 + c) (total l 0) (first l)) h
  let h := (List.range 16).foldl (fun h p =>
    let c := (h.ring false p).backlog
    let s := (h.ring true p).backlog
    let enq (st : Bool) (r : Rcd) : Nt := BitVec.ofNat 64 (field r.data (if st then 32 else 24) 8)
    let head := match c, s with
      | r :: _, _ => some (enq false r)
      | [], r :: _ => some (enq true r)
      | [], [] => none
    h.sampleOf (272 + p) ((c.map (recLen false)).sum + (s.map (recLen true)).sum) head) h
  (h.p F.SLSMPNT_nt h.nt.toNat)

end Hub

/-- REFILL_INSTANT: an NT multiple of SLREFILL (R358). -/
def execRefillInstant (t : Nt) : State → Host.Outcome State Fault Refusal :=
  onHub t (fun h =>
    if h.nt = t ∧ h.sl.lastRefill < t ∧ t.toNat % (h.slPeriod * 1000) = 0 then h.refill else h)

/-- DRR_SEND: the next eligible item of a path goes (R357). -/
def execDrrSend (t : Nt) (path : SlPath) : State → Host.Outcome State Fault Refusal :=
  onHub t (fun h => match path with
    | .molair n => h.drr (Hub.dynPath n.toNat) 36
    | .grnWrite => h.drr (Hub.grnPath false) 16
    | .grnRead => if (smGet [] h.sl.grn 12).isEmpty then h.drr (Hub.grnPath true) 16 else h.grnSend 12
    | .host => h.drr Hub.hostPath 36)

/-- SAMPLE_INSTANT: an NT multiple of SLSAMP (R367). -/
def execSampleInstant (t : Nt) : State → Host.Outcome State Fault Refusal :=
  onHub t (fun h =>
    let per := max 1 (h.slReg 0x3400C % 2 ^ 20) * 1000
    if h.on F.SLCTL_sample_en && h.nt == t && decide (h.sl.lastSample < t) && t.toNat % per == 0 then
      { h with sl := { h.sl with lastSample := t } }.sampleAll
    else h)

end Sys2Proof.Machine
end

