-- ==== Sys2Proof/Machine/Links.lean ====
section
/-! DEFINITION. Molair links (09_mill_plans_molair.md): frames received in link order, check failures, NAK and acknowledgment,
credits, the spare lane, port failure with its consequences, reassembly and forwarding of dynamic messages, and the group
fault frame (R232 to R244, R389). -/

namespace Sys2Proof.Machine

namespace Hub

/-- Another physical port that is up and leads to the same peer (R237). -/
def parallelPort (h : Hub) (n : Nat) : Option Nat :=
  (List.range 16).find? (fun k => k != n && h.portUp k && h.gi F.MOLPSTAT_peer k == h.gi F.MOLPSTAT_peer n)

/-- The destination and the message id of what a dynamic queue holds. -/
def loadDst (x : SlLoad) : Nat × Nat := match x with
  | .msg d id _ => (d.toNat, id.toNat)
  | .frame f => (f.dst.toNat, f.tag.toNat)
  | _ => (0, 0)

/-- What waits on a failed port takes the route that is left; without one it is discarded and counted (R236, R239). DESIGN CHOICE (log
139): MOLMSGDROP rises for each item of the queues, be it a message or one frame of a message of which others have gone. -/
def reroute (h : Hub) (n : Nat) : Hub :=
  (List.range 16).foldl (fun h q =>
    let items := smGet [] h.sl.dyn (n * 16 + q)
    let h : Hub := { h with sl := { h.sl with dyn := smDel h.sl.dyn (n * 16 + q) } }
    items.foldl (fun h x =>
      let d := loadDst x.load
      match h.route d.1 d.2 with
      | none => h.inc F.MOLMSGDROP_count
      | some k => { h with sl := { h.sl with dyn := smPut h.sl.dyn (k * 16 + q) (smGet [] h.sl.dyn (k * 16 + q) ++ [x]) } }) h) h

/-- A port fails (R236): 0 lane, 1 resend limit, 2 silence. Its logical port and the frames not acknowledged go to the parallel
port; without one, a port that the group's leats use faults the group. The ROUTE table follows (R239). -/
def portFail (h : Hub) (n cause : Nat) (injected : Bool := false) : Hub :=
  if !h.portUp n then h
  else
    let h := h.pi F.MOLPSTAT_state n 4
    let h := (h.devEv 0x0203 4 (n + cause * 256 + injBit injected)).p F.MOLSTAT_port_fail 1
    let a := h.gi F.MOLREMAP_primary n
    let b := h.gi F.MOLREMAP_second n
    let frames := (h.port n).replay.map (·.1) ++ (h.port n).waitq
    let h := h.setPort n { h.port n with replay := [], waitq := [], swap := none }
    let h := match h.parallelPort n with
      | some k =>
        let h := if a = 0xF then h else (h.setRemap k (h.gi F.MOLREMAP_primary k) a).setRemap n 0xF 0xF
        frames.foldl (fun (h : Hub) f => h.sendFrame k f) h
      | none => if h.groupPorts.contains a || h.groupPorts.contains b then h.raiseFault 6 else h
    h.rewriteRoutes.reroute n

/-- A logical lane fails (R235): the two ends agree a swap onto the spare; a spare in use, also from link-up on, or sparing disabled fails
the port. DESIGN CHOICE (log 140): a second report while a swap waits fails the port too. -/
def laneFail (h : Hub) (n lane : Nat) (injected : Bool := false) : Hub :=
  if !h.portUp n || 8 ≤ lane then h
  else if !h.on F.MOLCTL_lane_spare_en || h.gi F.MOLLANE_lane n ≠ 0xF || h.gi F.MOLPSTAT_state n = 3 || (h.port n).swap.isSome then h.portFail n 0 injected
  else (h.setPort n { h.port n with swap := some (BitVec.ofNat 4 lane) }).emit (.swapLane (BitVec.ofNat 4 n) (BitVec.ofNat 4 lane))

/-- Corrected symbols of a lane in a window: counted; above MOLLANETHR the lane is replaced (R235). -/
def symbolsSeen (h : Hub) (n lane k : Nat) (injected : Bool := false) : Hub :=
  let h := h.inci F.MOLFEC_count n k
  if max 1 (h.g F.MOLLANETHR_symbols) < k then h.laneFail n lane injected else h

/-- A frame fails its check: it is discarded and a NAK names the expected lseq (R234, R372). -/
def frameBad (h : Hub) (n : Nat) : Hub :=
  ((h.inci F.MOLCRC_count n 1).inc F.INTCHKFAIL_count).emit (.nakTo (BitVec.ofNat 4 n) (h.port n).recvSeq)

/-- A frame arrives with a good check (R234): one in order is acknowledged and accepted, one ahead is a gap and is NAKed, one
received before is acknowledged again. -/
def rxFrame (h : Hub) (n : Nat) (f : Frame) : Bool × Hub :=
  if !h.portUp n || !h.on F.MOLCTL_enable then (false, h)
  else
    let (bad, h) := h.fireInj 0x09 (fun x => x.a.toNat == n)
    if bad then (false, h.frameBad n)
    else
      let h := match h.fireAt 0x08 (fun x => x.a.toNat % 16 == n) with
        | (some x, h) => h.symbolsSeen n (bitsOf x.a.toNat 7 4) x.b.toNat true
        | (none, h) => h
      let p := h.port n
      let t := h.nt
      let ack (h : Hub) : Hub := h.emit (.ackTo (BitVec.ofNat 4 n) f.lseq)
      if f.lseq = p.recvSeq then
        (true, ack ((h.setPort n { p with recvSeq := p.recvSeq + 1, lastRx := t }).inci F.MOLRX_bytes n (f.valid.toNat + 1)))
      else if newer 32 f.lseq.toNat p.recvSeq.toNat then
        (false, (h.setPort n { p with lastRx := t }).emit (.nakTo (BitVec.ofNat 4 n) p.recvSeq))
      else (false, ack (h.setPort n { p with lastRx := t }))

/-- A cumulative acknowledgment releases frames up to the one it names (R234). -/
def acked (h : Hub) (n : Nat) (lseq : BitVec 32) : Hub :=
  let p := h.port n
  match p.replay.findIdx? (fun f => f.1.lseq == lseq) with
  | none => h
  | some k => (h.setPort n { p with replay := p.replay.drop (k + 1) }).sendWaiting n

/-- A NAK: frames before the one it names are acknowledged, the others are sent again; a frame that has been resent 8 times fails the
port (R234). -/
def naked (h : Hub) (n : Nat) (lseq : BitVec 32) : Hub :=
  let p := h.port n
  if !h.portUp n then h
  else
    match p.replay.findIdx? (fun f => f.1.lseq == lseq) with
    | none => h
    | some k =>
      let left := p.replay.drop k
      if left.any (fun f => decide (8 ≤ f.2)) then h.portFail n 1
      else
        let h := (h.setPort n { p with replay := left.map (fun f => (f.1, f.2 + 1)) }).inci F.MOLRETRY_count n left.length
        (left.foldl (fun h f => h.emit (.frame (BitVec.ofNat 4 n) f.1)) h).sendWaiting n

/-- A reassembled message is whole (R244): at most 256 MiB, its type is listed, its header names its id and its length, its reserved bytes
are 0, and its trailer is the CRC-64 with source, destination and message id folded in. -/
def messageOk (fs : List Frame) : Bool :=
  match fs.head? with
  | none => false
  | some f =>
    let b := (fs.map (fun x => (padTo 512 x.payload).take (x.valid.toNat + 1))).flatten
    let n := b.length
    decide (72 ≤ n ∧ n ≤ 2 ^ 28) && field b 1 3 == 0 && field b 4 4 == f.tag.toNat && field b 8 8 == n && field b 48 16 == 0 && [1, 2, 3, 4, 5, 6, 7, 8, 9, 0x10, 0x11, 0x12, 0x20].contains (field b 0 1)
      && field b (n - 8) 8 == crc64 (b.take (n - 8) ++ le 8 f.src.toNat ++ le 8 f.dst.toNat ++ le 8 f.tag.toNat)

/-- A dynamic frame in order: forwarded toward its destination, or kept until its message is whole (R239, R243, R244). What a
whole message does is the command of its type. DESIGN CHOICE (log 139): a message that finds no route here counts in MOLMSGDROP at its last
frame. -/
def dynFrame (h : Hub) (n : Nat) (f : Frame) : Hub :=
  let h := h.emit (.creditTo (BitVec.ofNat 4 n) f.queue 1)
  if f.dst.toNat = h.dev then
    let k := f.src.toNat * 2 ^ 32 + f.tag.toNat
    let fs := smGet [] h.reasm k ++ [f]
    if !f.last then { h with reasm := smPut h.reasm k fs }
    else
      let h := { h with reasm := smDel h.reasm k }
      if messageOk fs then h else (h.inc F.MOLMSGDROP_count).inc F.INTCHKFAIL_count
  else
    match h.route f.dst.toNat f.tag.toNat with
    | none => if f.last then h.inc F.MOLMSGDROP_count else h
    | some m =>
      let k := m * 16 + f.queue.toNat
      let it : SlItem := { enq := h.nt, head := f.valid.toNat + 1, load := .frame f }
      { h with sl := { h.sl with dyn := smPut h.sl.dyn k (smGet [] h.sl.dyn k ++ [it]) } }

end Hub

/-! ### The commands -/

/-- STATIC_FRAME: a payload of a leat of the step in progress lands; a stone whose receive leat is now whole takes it (R241).
The fragments of boundary frames are those of BOUNDARY_FRAME; a frame of an unknown type is a check failure (R233). -/
def execStaticFrame (t : Nt) (port : BitVec 4) (fr : Frame) (s : State) : Host.Outcome State Fault Refusal :=
  let n := port.toNat
  let h := s.hub.stamp t
  if 4 < fr.typ.toNat then .next { s with hub := if h.portUp n then h.frameBad n else h }
  else if fr.typ ≠ 1 then .next { s with hub := h }
  else
    let (ok, h) := h.rxFrame n fr
    if !ok || bitsOf fr.tag.toNat 31 16 ≠ h.stepNo % 2 ^ 16 then .next { s with hub := Hub.finish s.hub h }
    else
      let i := bitsOf fr.tag.toNat 15 0
      let h := { h with landing := smPut h.landing i (smGet [] h.landing i ++ [(padTo 512 fr.payload, fr.poison)]) }
      .next { s with hub := Hub.finish s.hub h, stn := landAll h s.stn }

/-- DYNAMIC_FRAME (R243, R244); a frame of an unknown type is a check failure (R233). -/
def execDynamicFrame (t : Nt) (port : BitVec 4) (fr : Frame) : State → Host.Outcome State Fault Refusal :=
  onHub t (fun h =>
    if 4 < fr.typ.toNat then (if h.portUp port.toNat then h.frameBad port.toNat else h)
    else if fr.typ ≠ 3 then h
    else
      let (ok, h) := h.rxFrame port.toNat fr
      if ok then h.dynFrame port.toNat fr else h)

/-- FRAME_CHECK_FAILURE: `symbols` were corrected in the frame (R234). -/
def execFrameCheckFailure (t : Nt) (port : BitVec 4) (symbols : BitVec 16) : State → Host.Outcome State Fault Refusal :=
  onHub t (fun h =>
    let n := port.toNat
    if !h.portUp n || !h.on F.MOLCTL_enable then h
    else
      let u := h.nt
      ((h.setPort n { h.port n with lastRx := u }).inci F.MOLFEC_count n symbols.toNat).frameBad n)

/-- A CONTROL frame has arrived: the port is not silent (R233, R236). -/
def Hub.heard (h : Hub) (n : Nat) : Hub :=
  let t := h.nt
  h.setPort n { h.port n with lastRx := t }

/-- NAK (R234). -/
def execNak (t : Nt) (port : BitVec 4) (lseq : BitVec 32) : State → Host.Outcome State Fault Refusal :=
  onHub t (fun h => (h.heard port.toNat).naked port.toNat lseq)

/-- ACKNOWLEDGMENT (R234). -/
def execAcknowledgment (t : Nt) (port : BitVec 4) (lseq : BitVec 32) : State → Host.Outcome State Fault Refusal :=
  onHub t (fun h => (h.heard port.toNat).acked port.toNat lseq)

/-- CREDIT (R243, R360). -/
def execCredit (t : Nt) (port : BitVec 4) (q : BitVec 4) (n : BitVec 8) : State → Host.Outcome State Fault Refusal :=
  onHub t (fun h =>
    let p := (h.heard port.toNat).port port.toNat
    h.setPort port.toNat { p with credits := p.credits.modify q.toNat (· + n.toNat) })

/-- LANE_SWAP: the agreed frame boundary is reached (R235). Which lane a swap replaces that the other end has asked for is outside this
module: a free value (log 2). -/
def execLaneSwap (t : Nt) (port : BitVec 4) : State → Host.Outcome State Fault Refusal :=
  onHub t (fun h =>
    let n := port.toNat
    let (v, h) := if (h.port n).swap.isSome then ((0 : W64), h) else h.fresh
    let lane : BitVec 4 := ((h.port n).swap).getD (BitVec.ofNat 4 (v.toNat % 8))
    if !h.portUp n || ((h.port n).swap.isNone && (h.gi F.MOLLANE_lane n ≠ 0xF || h.gi F.MOLPSTAT_state n = 3)) then h
    else
      let h := h.setPort n { h.port n with swap := none }
      let h := h.setReg (F.MOLLANE_lane.a + F.MOLLANE_lane.stride * n) (BitVec.ofNat 64 (pairOf 16 lane.toNat))
      ((h.pi F.MOLPSTAT_state n 3).devEv 0x0202 4 (n + lane.toNat * 16)).p F.MOLSTAT_lane_spared 1)

/-- LANE_LOCK_LOSS (R235). -/
def execLaneLockLoss (t : Nt) (port : BitVec 4) (lane : BitVec 4) : State → Host.Outcome State Fault Refusal :=
  onHub t (fun h => h.laneFail port.toNat lane.toNat)

/-- SYMBOL_WINDOW (R235). -/
def execSymbolWindow (t : Nt) (port : BitVec 4) (lane : BitVec 4) (symbols : BitVec 32) :
    State → Host.Outcome State Fault Refusal :=
  onHub t (fun h => if h.portUp port.toNat then h.symbolsSeen port.toNat lane.toNat symbols.toNat else h)

/-- PORT_SILENCE: no frame for 10 µs (R236). -/
def execPortSilence (t : Nt) (port : BitVec 4) : State → Host.Outcome State Fault Refusal :=
  onHub t (fun h =>
    if (h.port port.toNat).lastRx.toNat + 10000 ≤ h.nt.toNat then h.portFail port.toNat 2 else h)

/-- GROUP_FAULT_FRAME: a device of the group has raised a fault (R389). -/
def execGroupFaultFrame (t : Nt) (src : BitVec 6) (cause : BitVec 8) : State → Host.Outcome State Fault Refusal :=
  onHub t (fun h =>
    let base := h.dev - h.position
    if base ≤ src.toNat ∧ src.toNat < base + h.g F.POOLROLE_size then h.enterFault cause.toNat src.toNat else h)

end Sys2Proof.Machine
end

