-- ==== Sys2Proof/Machine/Diagnostics.lean ====
section
/-! DEFINITION. Black box, journals and counters (20_timing_diagnostics.md): copies to the Granary, JREAD, BBREAD, BBSNAP, CTRSNAP,
the console, the counter latch, rate windows, and clocks that stop and wake (R501 to R513). -/

namespace Sys2Proof.Machine

/-- A session journal entry's 32 bytes (R50). -/
def JEnt.bytes (e : JEnt) : Bytes :=
  le 8 e.nt.toNat ++ le 8 e.nsi.toNat ++ le 4 e.seq.toNat ++ le 2 e.code.toNat ++ le 1 e.states.toNat ++ le 1 e.status.toNat
    ++ le 8 e.data.toNat

/-- A device event record's 32 bytes (R506). -/
def DEnt.bytes (e : DEnt) : Bytes :=
  le 8 e.nt.toNat ++ le 2 e.code.toNat ++ le 1 e.die.toNat ++ le 1 e.status.toNat ++ le 4 e.seq.toNat ++ le 8 e.data.toNat
    ++ le 1 (b2n e.unsync) ++ le 5 0 ++ le 1 e.device.toNat ++ le 1 0

/-- A ring as it is read: oldest record first, 128 KiB. -/
def ringBytes (l : List DEnt) : Bytes := padTo 131072 ((l.reverse.map DEnt.bytes).flatten)

/-- A Granary slot of the black box (R509): the header with its CRC, then the five rings. -/
def BbSlot.bytes (s : BbSlot) (dev slot : Nat) : Bytes :=
  let seqs := (s.rings.map (fun l => le 4 ((l.head?.map (fun e => e.seq.toNat)).getD 0))).flatten
  let head := padTo 56 (le 8 s.nt.toNat ++ le 2 s.trig.toNat ++ le 1 dev ++ le 1 0 ++ padTo 20 (seqs.take 20))
  padTo 1048576 (head ++ le 8 (crc64 (head ++ le 8 (slot * 1048576))) ++ (s.rings.map ringBytes).flatten)

namespace Hub

/-! ### Black-box copies (R509) -/

/-- Start the next copy that has been triggered, where none is running: the records stamped before the trigger go to the slot
after the newest valid one. -/
def startCopy (h : Hub) : Hub :=
  match h.diag.copy, h.diag.trigs with
  | none, (t, code, sub) :: rest =>
    let any := h.diag.slots.any (fun e => e.2.valid)
    let k := if any then (h.diag.newest + 1) % 64 else 0
    let rings := h.diag.rings.map (fun l => l.filter (fun e => decide (e.nt < t)))
    let s : BbSlot := { nt := t, trig := BitVec.ofNat 16 code, rings := rings, valid := false }
    { h with diag := { h.diag with slots := smPut h.diag.slots k s, copy := some (k, sub), trigs := rest } }.p F.DGSTAT_bb_copying 1
  | _, _ => h

/-- The copy in progress writes its header: the slot is valid, and a waiting trigger starts the next copy. -/
def endCopy (h : Hub) : Hub :=
  match h.diag.copy with
  | none => h
  | some (k, sub) =>
    let code := ((smLook h.diag.slots k).map (fun s => s.trig.toNat)).getD 0
    let h : Hub := { h with diag := { h.diag with slots := smMod h.diag.slots k (fun s => { s with valid := true }), newest := k
                                                  copy := none } }
    let h := ((h.devEv 0x0902 4 (k + code * 256)).inc F.DGBBCOPIES_count).p F.DGSTAT_bb_copying 0
    let h := match sub with
      | none => h
      | some c => h.complete c St.ok
    h.startCopy

/-- A trigger of a copy: 0 command, 1 group fault, 2 power loss, 3 trip. -/
def trigger (h : Hub) (code : Nat) (sub : Option Sub) : Hub :=
  { h with diag := { h.diag with trigs := h.diag.trigs ++ [(h.nt, code, sub)] } }.startCopy

/-- A power loss or a trip: a copy that runs is abandoned, and the rings are copied before the rails go (R458, R515). -/
def lossCopy (h : Hub) (code : Nat) : Hub :=
  let h := match h.diag.copy with
    | none => h
    | some (k, _) =>
      ({ h with diag := { h.diag with slots := smDel h.diag.slots k, copy := none } } : Hub).p F.DGSTAT_bb_copy_err 1
  let t := h.nt
  ({ h with diag := { h.diag with trigs := [(t, code, none)] } } : Hub).startCopy.endCopy

/-! ### Reading journals and the black box (R512) -/

/-- The entries of a journal with their positions, in position order. -/
def positions {α : Type} (next : Nat) (l : List α) : List (Nat × α) :=
  (l.zipIdx.map (fun e => (next - 1 - e.2, e.1))).reverse

/-- JREAD: entries in position order from the first position still held at or after the one named. -/
def jread (h : Hub) (c : Sub) : Hub :=
  let v := c.line.opd
  let from_ := v 48 8
  let n := v 56 4
  let es : List (W64 × Bytes) :=
    if v 40 1 = 0 then
      ((positions (h.g F.DGJPOS_position) h.diag.sj).filter (fun e => decide (from_ ≤ e.1)
        && (v 41 1 == 0 || (nsiHandle e.2.nsi).toNat == v 44 4 % 2 ^ 18))).map (fun e => (e.2.nt, e.2.bytes))
    else ((positions (h.g F.DGDJPOS_position) h.diag.dj).filter (fun e => decide (from_ ≤ e.1))).map (fun e => (e.2.nt, e.2.bytes))
  let es := es.take n
  match es.head? with
  | none => h.complete c St.ok
  | some e => h.hostWrite { addr := BitVec.ofNat 64 (v 32 8), data := (es.map (·.2)).flatten
                            sub := some ({ c with nt := e.1 }, BitVec.ofNat 32 es.length) }

/-- BBREAD: the rings, or a slot with a valid header. -/
def bbread (h : Hub) (c : Sub) : Hub :=
  let v := c.line.opd
  let put (b : Bytes) : Hub := h.hostWrite { addr := BitVec.ofNat 64 (v 32 8), data := b, sub := some (c, 0) }
  if v 40 1 = 0 then put ((h.diag.rings.map ringBytes).flatten)
  else
    match smLook h.diag.slots (v 41 1) with
    | some s => if s.valid then put (s.bytes h.dev (v 41 1)) else h.complete c St.badState
    | none => h.complete c St.badState

/-- The record that DGBBSEL selects (R516). -/
def bbRecord (h : Hub) : Bytes :=
  let rings := if h.on F.DGBBSEL_source then
      match smLook h.diag.slots (h.g F.DGBBSEL_slot) with
      | some s => if s.valid then s.rings else []
      | none => []
    else h.diag.rings
  match ((rings.getD (h.g F.DGBBSEL_die) []).reverse)[h.g F.DGBBSEL_index]? with
  | none => List.replicate 32 0
  | some e => e.bytes

/-! ### The counter latch (R513) -/

/-- A latch is asked for: it comes at the next NT multiple of 1 µs. -/
def askLatch (h : Hub) (sub : Option Sub) : Hub :=
  let at_ := match h.diag.snapAt with
    | some t => t
    | none => BitVec.ofNat 64 ((h.nt.toNat / 1000 + 1) * 1000)
  { h with diag := { h.diag with snapAt := some at_, snapSubs := h.diag.snapSubs ++ sub.toList } }

/-- Every counter of the diagnostics block is latched with its value at `t`: events stamped before it (R11). -/
def latch (h : Hub) (t : Nt) : Hub :=
  let d := h.diag.snap.getD h.diag.live
  let h := (List.range 4).foldl (fun h k =>
    (h.pi F.DGBUSY_steps k (d.busy.getD k 0).toNat).pi F.DGHOLD_steps k (d.hold.getD k 0).toNat) h
  let h := ((h.p F.DGSTEPS_count d.steps.toNat).p F.DGSTEPNS_ns d.stepNs.toNat).p F.DGIDLENS_ns d.idleNs.toNat
  let h := (h.p F.DGSTEPMAX_ns d.stepMax.toNat).p F.DGSNAPNT_nt t.toNat
  let h := h.diag.snapSubs.foldl (fun h c => h.complete c St.ok) h
  { h with diag := { h.diag with snapAt := none, snap := none, snapSubs := [] } }

/-! ### Clock domains (R502, R504, R505) -/

/-- Domains of a class, in the order of R502. -/
def clockDomains : List Nat := [136, 16, 32, 32, 4, 4, 3, 9]

/-- A class and a domain that R502 lists. -/
def clockKnown (cls : BitVec 3) (dom : BitVec 8) : Bool := decide (dom.toNat < clockDomains.getD cls.toNat 0)

/-- The clock of a domain may stop: CXL, time-base and always-on domains never do (R505). -/
def clockStops (h : Hub) (cls : BitVec 3) (dom : BitVec 8) : Bool :=
  h.on F.DGCTL_autostop_en && clockKnown cls dom && !([4, 5, 6].contains cls.toNat) && !h.diag.stopped.contains (cls, dom)

end Hub

/-! ### The commands -/

/-- JREAD (R512). -/
def execJread (t : Nt) (w : BitVec 8) (l : CmdLine) : State → Host.Outcome State Fault Refusal :=
  onHub t (fun h => h.line w 0x50 l (fun c h => h.jread c))

/-- BBREAD (R512). -/
def execBbread (t : Nt) (w : BitVec 8) (l : CmdLine) : State → Host.Outcome State Fault Refusal :=
  onHub t (fun h => h.line w 0x51 l (fun c h => h.bbread c))

/-- BBSNAP (R509): completes when the slot's header is written. -/
def execBbsnap (t : Nt) (w : BitVec 8) (l : CmdLine) : State → Host.Outcome State Fault Refusal :=
  onHub t (fun h => h.line w 0x52 l (fun c h => h.trigger 0 (some c)))

/-- CTRSNAP (R513): completes when latched. -/
def execCtrsnap (t : Nt) (w : BitVec 8) (l : CmdLine) : State → Host.Outcome State Fault Refusal :=
  onHub t (fun h => h.line w 0x53 l (fun c h => h.askLatch (some c)))

/-- BB_CONSOLE: `bb <die>` on the management console prints a die's ring (R509). -/
def execBbConsole (t : Nt) (die : BitVec 3) : State → Host.Outcome State Fault Refusal :=
  onHub t (fun h => if die.toNat < 5 then h.emit (.console (h.diag.rings.getD die.toNat []).reverse) else h)

/-- BB_COPY: the copy in progress, or the one that a trigger has asked for, finishes (R509). -/
def execBbCopy (t : Nt) : State → Host.Outcome State Fault Refusal := onHub t (fun h => h.startCopy.endCopy)

/-- COUNTER_LATCH (R513). -/
def execCounterLatch (t : Nt) : State → Host.Outcome State Fault Refusal :=
  onHub t (fun h =>
    match h.diag.snapAt with
    | none => h
    | some a => if a ≤ h.nt then h.latch a else h)

/-- RATE_WINDOW: the rate of a die over the last 1 ms window (R501). -/
def execRateWindow (t : Nt) (die : BitVec 3) (msps : BitVec 12) : State → Host.Outcome State Fault Refusal :=
  onHub t (fun h =>
    let d := die.toNat
    if d < 5 then (h.pi F.DGRATE_msps d msps.toNat).pi F.DGRATEMIN_msps d (min (h.gi F.DGRATEMIN_msps d) msps.toNat) else h)

/-- CLOCK_DOMAIN_RESET: the crossings are flushed, what was in flight is discarded and counted, and is reissued by its owner
without loss or duplicate (R504). The clock runs again. -/
def execClockDomainReset (t : Nt) (cls : BitVec 3) (dom : BitVec 8) (entries : BitVec 16) :
    State → Host.Outcome State Fault Refusal :=
  onHub t (fun h =>
    if !Hub.clockKnown cls dom then h
    else
      let h : Hub := { h with diag := { h.diag with stopped := h.diag.stopped.filter (· != (cls, dom)) } }
      if entries = 0 then h
      else (h.inc F.DGXFLUSH_count entries.toNat).devEv 0x0901 4 (cls.toNat + dom.toNat * 256))

/-- CLOCK_STOP (R505). -/
def execClockStop (t : Nt) (cls : BitVec 3) (dom : BitVec 8) : State → Host.Outcome State Fault Refusal :=
  onHub t (fun h =>
    if h.clockStops cls dom then { h with diag := { h.diag with stopped := h.diag.stopped ++ [(cls, dom)] } } else h)

/-- CLOCK_WAKE: the clock of a stopped domain restarts; the core has been held on the crossing meanwhile (R502, R505). -/
def execClockWake (t : Nt) (cls : BitVec 3) (dom : BitVec 8) (ns : BitVec 16) : State → Host.Outcome State Fault Refusal :=
  onHub t (fun h =>
    if !h.diag.stopped.contains (cls, dom) then h
    else
      let h : Hub := { h with diag := { h.diag with stopped := h.diag.stopped.filter (· != (cls, dom)) } }
      let h := (h.inc F.DGWAKES_count).p F.DGWAKEMAX_ns (max (h.g F.DGWAKEMAX_ns) ns.toNat)
      h.inci F.DGXWAIT_ns cls.toNat ns.toNat)

end Sys2Proof.Machine
end

