-- ==== Sys2Proof/Machine/GranaryFlash.lean ====
section
/-! DEFINITION. Events of the Granary controller (12_granary_ftl.md): programs and their failures, verification, garbage
collection, wear, reads, the map, flushes, and the drain of the tun (R298 to R323). -/

namespace Sys2Proof.Machine

namespace Hub

/-- What was programmed at a place. -/
def slotAt (h : Hub) (p : Place) : Option Slot := (h.blk p.die p.block).bind (fun x => x.slots[p.unit]?)

/-! ### Poison (R318) -/

/-- The session that owns an object of kind 1 or 2. -/
def objSess (h : Hub) (key : Nat) : Option Handle :=
  let n : W64 := BitVec.ofNat 64 (key % 2 ^ 72)
  let i := nsiHandle n
  if (h.s i).r.state != S.free && (h.s i).r.nsi == n then some i else none

/-- The poison of a unit follows its data (R318, R160, R37). -/
def spreadPoison (h : Hub) (x : GUnit) : Hub :=
  match h.objSess x.key with
  | none => h
  | some i =>
    if x.kind == 1 then h.modS i (fun s => { s with extent := s.extent.map (fun e => (e.1, true)) })
    else if x.kind == 2 then
      h.modS i (fun s => { s with logBad := s.logBad ++
        ((List.range logEntries).map (· + x.idx * logEntries)).filter (fun k => decide (k < s.durable.toNat) && !s.logBad.contains k) })
    else h

/-- An uncorrectable unit keeps its place with poison in its map entry (R318). -/
def poisonUnit (h : Hub) (u : Nat) (injected : Bool) : Hub :=
  match smLook h.gr.units u with
  | none => h
  | some x =>
    if x.poison then h
    else
      let h := (h.modG (fun g => { g with units := smPut g.units u { x with poison := true } })).journalMap u (mapEntry x)
      ((h.inc F.GRNUNCORR_count).devEv 0x0402 4 (u + injBit injected)).spreadPoison x

/-! ### Programs (R298, R308, R314, R317) -/

/-- The next unit to leave the tun: the oldest that is complete, or the oldest of all above 75% occupancy (R298), of those whose write has
passed Sluice and the throttle (R315, R356) and whose map page is here (R305, R306). -/
def tunNext (h : Hub) : Option Nat :=
  let ready := h.gr.tun.filter (fun u => h.pageHere u && !((smLook h.gr.units u).any h.writeWaits))
  if 512 * 2 ^ 20 * 3 / 4 < h.tunBytes then ready.head?
  else ready.find? (fun u => match smLook h.gr.units u with
    | some x => x.full
    | none => false)

/-- A program fails on a block of an open stripe (R314, R317): it is retired, a fresh block of its die takes its place
and receives what the block held, from parity, from its sources, or recomputed. -/
def programFail (h : Hub) (d b : Nat) (injected : Bool) : Hub :=
  match h.blk d b with
  | none => h
  | some x =>
    if x.bad || x.closed then h
    else
      let h := h.retireBlk d b injected
      match smLook h.gr.stripes x.stripe, h.takeBlk d with
      | some s, some (nb, h) =>
        let sub (e : Nat × Nat) : Nat × Nat := if e = (d, b) then (d, nb) else e
        let h := h.modG (fun g => { g with stripes := smPut g.stripes x.stripe { s with data := s.data.map sub, parity := sub s.parity } })
        let h := h.setBlk d nb { x with bad := false, reads := 0 }
        let n := if x.parity then s.count / 15 else x.slots.length
        let h := h.inc F.GRNNANDW_bytes (unitBytes * n)
        let h := if x.gc && !x.parity then h.inc F.GRNGCUNITS_count x.slots.length
          else if x.parity then h else h.inc F.GRNPARREC_count (4 * x.slots.length)
        let move (p : Place) : Place := if p.die = d ∧ p.block = b then { p with block := nb } else p
        let h := h.modG (fun g => { g with units := g.units.map (fun e => (e.1, { e.2 with loc := e.2.loc.map move })) })
        h.weirs
      | _, _ => h

/-! ### Verification (R309, R310, R313) -/

/-- GRNVFYTHR in force. -/
def vfyThr (h : Hub) : Nat := let p := h.g F.GRNVFYTHR_pct; if 1 ≤ p ∧ p ≤ 100 then p else 60

/-- The parity block of a stripe whose 15 data blocks have all passed is released; one that failed, or was a victim first, counts once none of
its units is in use there (R309, R310). -/
def releaseParity (h : Hub) (id : Nat) : Hub :=
  match smLook h.gr.stripes id with
  | none => h
  | some s =>
    if s.data.all (fun e => match h.blk e.1 e.2 with
        | none => true
        | some x => x.stripe != id || x.verified || x.bad && (h.toCopy e.1 e.2).isEmpty) && s.count == 15 * 512 then
      let (d, b) := s.parity
      let h := h.modG (fun g => { g with stripes := smDel g.stripes id, blks := smDel g.blks (blkKey d b)
                                         erases := smPut g.erases (blkKey d b) (h.erases d b + 1) })
      (h.setDie d { h.gdie d with free := (h.gdie d).free ++ [b] }).weirs
    else h

/-- Copies of a verified GC block switch their map entries where those still hold the source and no write has come since (R313, R324). -/
def switchCopies (h : Hub) (d b : Nat) (x : GBlk) : Hub :=
  (x.slots.zip (List.range x.slots.length)).foldl (fun h e =>
    match e.1.src with
    | none => h
    | some src =>
      if h.mappedAt e.1.unit src && !((smLook h.gr.units e.1.unit).any (·.inTun)) then
        let was := h.entryOf e.1.unit
        (h.modG (fun g => { g with units := smMod g.units e.1.unit (fun u =>
          { u with loc := some ⟨d, b, e.2⟩, seq := e.1.seq }) })).journalMap e.1.unit was
      else h) h

/-- A closed block is read back: it passes, or every unit is rebuilt from parity as a relocation and the block is
retired; units at a position that two blocks of the stripe have lost are poisoned (R309, R310). -/
def verifyBlk (h : Hub) (d b pct : Nat) : Hub :=
  match h.blk d b with
  | none => h
  | some x =>
    if !x.closed || x.verified || x.bad || x.parity then h
    else
      let (inj, h) := h.fireInj 0x11 (fun q => q.a.toNat == d)
      if pct ≤ h.vfyThr ∧ !inj then
        let h := (h.setBlk d b { x with verified := true })
        (if x.gc then h.switchCopies d b x else h).releaseParity x.stripe
      else
        let lost := decide (100 < pct)
        let others := match smLook h.gr.stripes x.stripe with
          | none => []
          | some s => s.data.filter (fun e => e != (d, b) && ((h.blk e.1 e.2).map (·.lost)).getD false)
        let h := h.setBlk d b { x with lost := lost }
        let h := (h.inc F.GRNVFYFAIL_count).devEv 0x0403 4 (d + b * 2 ^ 8 + injBit inj)
        let h := if lost && !others.isEmpty then
            ((d, b) :: others).foldl (fun h e => (h.validUnits e.1 e.2).foldl (fun h u => h.poisonUnit u.1 false) h) h
          else h
        let h := (h.inc F.GRNPARREC_count (4 * (h.validUnits d b).length)).relocate d b
        (h.retireBlk d b inj).releaseParity x.stripe

/-! ### Garbage collection and wear (R311 to R313, R316) -/

/-- The victim of a die: closed, verified, fewest valid units, oldest close NT, lowest number (R312); a block that failed its verification
is one as long as it holds units that were not copied (R310). -/
def gcVictim (h : Hub) (d : Nat) : Option Nat :=
  let less (a b : Nat × GBlk) : Bool :=
    let x := (h.validUnits d a.1).length
    let y := (h.validUnits d b.1).length
    x < y || (x == y && (a.2.closeNt < b.2.closeNt || (a.2.closeNt == b.2.closeNt && a.1 < b.1)))
  (((h.dieBlks d).filter (fun e => e.2.closed && !e.2.victim && !e.2.parity
      && (if e.2.bad then !(h.toCopy d e.1).isEmpty else e.2.verified))).foldl
    (fun best e => match best with
      | none => some e
      | some c => if less e c then some e else some c) none).map (·.1)

/-- GC needs space on a die: foreground everywhere, idle where the die is below bg_pm (R311, R312). -/
def gcNeeds (h : Hub) (d : Nat) : Bool :=
  h.on F.GRNSTAT_fg_gc || (h.on F.GRNSTAT_bg_gc && h.on F.GRNCTL_bg_gc_en && decide (h.freePm d < h.gr.weir.1))

/-- The closed block of lowest erase count, oldest close NT first (R316); GC copies that have not switched are no valid units, and their
block no candidate (R313). -/
def coldBlk (h : Hub) (d : Nat) : Option Nat :=
  let less (a b : Nat × GBlk) : Bool :=
    let x := h.erases d a.1
    let y := h.erases d b.1
    x < y || (x == y && a.2.closeNt < b.2.closeNt)
  (((h.dieBlks d).filter (fun e => e.2.closed && !e.2.victim && !e.2.bad && !e.2.parity && (e.2.verified || !e.2.gc))).foldl
    (fun best e => match best with
      | none => some e
      | some c => if less e c then some e else some c) none).map (·.1)

/-- The difference of a die's highest and lowest erase counts. -/
def wearSpread (h : Hub) (d : Nat) : Nat :=
  let l := ((h.gdie d).free ++ (h.dieBlks d).map (·.1)).map (h.erases d)
  l.foldl max 0 - l.foldl min (l.headD 0)

/-- A victim with no unit referenced by the map is erased and free, or retired where the erase fails (R313, R317). -/
def eraseBlk (h : Hub) (d b : Nat) (ok : Bool) : Hub :=
  match h.blk d b with
  | none => h
  | some x =>
    if !x.victim || x.bad || !(h.validUnits d b).isEmpty then h
    else
      let (inj, h) := h.fireInj 0x10 (fun q => q.a.toNat == d)
      if ok && !inj then
        let h := h.modG (fun g => { g with blks := smDel g.blks (blkKey d b)
                                           erases := smPut g.erases (blkKey d b) (h.erases d b + 1) })
        (h.setDie d { h.gdie d with free := (h.gdie d).free ++ [b] }).weirs
      else h.retireBlk d b inj

/-! ### Reads (R317, R318, R316) -/

/-- A unit that still names the old generation of a rotation and has been read moves to the front of the sweep (R432). -/
def sweepFirst (h : Hub) (u : Nat) : Hub :=
  match h.sec.rots.find? (fun e => (e.2.left.drop 1).contains (BitVec.ofNat 32 u)) with
  | none => h
  | some (k, q) =>
    let v := BitVec.ofNat 32 u
    ({ h with sec := { h.sec with rots := smPut h.sec.rots k { q with left := v :: q.left.erase v } } } : Hub).inc F.SECLAZY_count

/-- A read of a unit on flash; it waits for its map page where that is in the host region or being rebuilt (R305, R306). -/
def readUnit (h : Hub) (u : Nat) (res : ReadTry) : Hub :=
  match smLook h.gr.units u with
  | none => h
  | some x =>
    if !h.pageHere u then h
    else
    let h := ((h.grnTraffic false).sweepFirst u).touchPage u
    match x.loc with
    | none => h
    | some p =>
      if x.inTun || x.poison then h
      else
        let b := (h.blk p.die p.block).getD {}
        let parity := (smLook h.gr.stripes b.stripe).isSome
        let h := match res with
          | .decoded _ => h
          | .parity => if parity then h.inc F.GRNPARREC_count else h.poisonUnit u false
          | .uncorrectable => h.poisonUnit u false
        let high := match res with
          | .decoded o => o
          | _ => true
        let n := b.reads + 1
        let h := h.setBlk p.die p.block { b with reads := n }
        if h.on F.GRNCTL_rd_reloc_en && b.closed && !b.victim && (high || decide (max 1 (h.g F.GRNRDTHR_reads) ≤ n)) then
          (h.relocate p.die p.block).inc F.GRNRDRELOC_count
        else h

/-! ### The map (R302 to R307) -/

/-- Map pages (R302). -/
def mapPages (_h : Hub) : Nat := if Config.cap64 then 63579 else 31790

/-- The slot of a page of the host region. DESIGN CHOICE (log 161): at a start the pages that are not hot fill the slots in order. -/
def pageSlot (h : Hub) (pg : Nat) : Nat := (smLook h.gr.slots pg).getD (pg - 16384)

/-- A map page is written to a slot of the host region by ItoMWr (R303, R305). -/
def writePage (h : Hub) (pg slot : Nat) : Hub :=
  h.hostWrite { addr := BitVec.ofNat 64 (h.g F.GRNHMBASE_base * 2 ^ 16 + slot * 65536), data := h.mapPage pg }

/-- The least recently used page of the hot set (R303). DESIGN CHOICE (log 161): pages not used since the start go first, the lowest of them. -/
def coldest (h : Hub) : Nat :=
  ((List.range 16384).find? (fun k => !h.gr.hot.contains k && !h.gr.cooled.contains k)).getD (h.gr.hot.getLast?.getD 0)

/-- A page that was fetched enters the hot set and frees its slot, which the page that it evicts takes (R303; log 161). -/
def heatPage (h : Hub) (pg : Nat) : Hub :=
  let out := h.coldest
  let slot := h.pageSlot pg
  (h.modG (fun g => { g with hot := pg :: g.hot.filter (· != out)
                             cooled := if out < 16384 ∧ !g.cooled.contains out then out :: g.cooled else g.cooled
                             slots := smPut (smDel g.slots pg) out slot })).writePage out slot

/-- A checkpoint writes the whole map to the other slot, its manifest last, and cuts the journal back (R307). -/
def mapCkpt (h : Hub) : Hub :=
  let m : SMap (BitVec 32) := h.gr.units.map (fun e => (e.1, mapEntry e.2))
  h.modG (fun g => { g with ckptB := !g.ckptB, journal := 0, jlog := []
                            ckA := if g.ckptB then some m else g.ckA, ckB := if g.ckptB then g.ckB else some m })

/-- Program every unit held in the tun (R322). -/
def emptyTun (h : Hub) : Hub := (h.gr.tun ++ h.gr.queue).foldl (fun h u => h.programTun u) h

/-- Units whose newest bytes are lost: one never programmed is absent, one with an earlier copy keeps it as of its last program (R323). -/
def loseUnits (h : Hub) (us : List Nat) : Hub :=
  us.foldl (fun h u =>
    match smLook h.gr.units u with
    | none => h
    | some x => h.modG (fun g => { g with
        units := match x.loc with
          | none => smDel g.units u
          | some p => smPut g.units u { x with inTun := false, keygen := ((h.slotAt p).map (·.keygen)).getD x.keygen }
        objs := if x.loc.isSome then g.objs else smMod g.objs x.key (fun o => { o with units := o.units.filter (· != u) })
        tun := g.tun.filter (· != u), queue := g.queue.filter (· != u) })) h

/-- R300: writes that wait for room in the tun are lost; the tun and the controller tables go to the drain slot not used by the previous drain; the manifest is written
last, and `ok` says that it was. -/
def tunDrain (h : Hub) (ok : Bool) : Hub := (h.loseUnits h.gr.queue).modG (fun g => { g with drainB := !g.drainB, drain := some { units := g.tun, manifest := if ok then BitVec.ofNat 64 (pairOf 32 g.tun.length) else 0 } })

/-- The slot used last holds a valid manifest: a slot without one is never used (R300). -/
def drained (h : Hub) : Bool := h.gr.drain.any (fun x => pairOk 32 x.manifest.toNat)

/-- Where no valid manifest exists, the writes in the tun are absent (R323). -/
def tunLost (h : Hub) : Hub := h.loseUnits h.gr.tun

end Hub

/-- NAND_PROGRAM: a unit leaves the tun (R298); an armed GRN_PROG fails its program (R314, R317). -/
def execNandProgram (t : Nt) : State → Host.Outcome State Fault Refusal :=
  onHub t (fun h =>
    match h.tunNext with
    | none => h
    | some u =>
      let stream := match smLook h.gr.units u with
        | some x => if x.kind == 2 then 0 else 1
        | none => 1
      match h.stripeFor stream with
      | none => h
      | some (id, h') =>
        match smLook h'.gr.stripes id with
        | none => h
        | some s =>
          let e := s.data.getD (s.count % 15) (0, 0)
          let (inj, h') := h'.fireInj 0x0F (fun q => q.a.toNat == e.1 && q.b.toNat == stream)
          if inj then h'.programFail e.1 e.2 true else (h.programTun u).weirs)

/-- PROGRAM_FAILURE (R314, R317). -/
def execProgramFailure (t : Nt) (die : BitVec 8) (block : BitVec 14) : State → Host.Outcome State Fault Refusal :=
  onHub t (fun h => h.programFail die.toNat block.toNat false)

/-- BLOCK_VERIFY (R309, R310, R313). -/
def execBlockVerify (t : Nt) (die : BitVec 8) (block : BitVec 14) (pct : BitVec 7) :
    State → Host.Outcome State Fault Refusal :=
  onHub t (fun h => h.verifyBlk die.toNat block.toNat pct.toNat)

/-- GC_IDLE (R311). -/
def execGcIdle (t : Nt) : State → Host.Outcome State Fault Refusal :=
  onHub t (fun h =>
    let idle := max 100 (h.g F.GRNIDLE_us) * 1000
    if h.on F.GRNCTL_bg_gc_en && decide (h.gr.lastNt.toNat + idle ≤ h.nt.toNat) && decide (h.fMin.1 < h.gr.weir.1) then
      h.p F.GRNSTAT_bg_gc 1
    else h)

/-- GC_RELOCATE (R312). -/
def execGcRelocate (t : Nt) (die : BitVec 8) : State → Host.Outcome State Fault Refusal :=
  onHub t (fun h =>
    if !h.gcNeeds die.toNat then h
    else
      match h.gcVictim die.toNat with
      | none => h
      | some b => h.relocate die.toNat b)

/-- VICTIM_ERASE (R313, R317). -/
def execVictimErase (t : Nt) (die : BitVec 8) (block : BitVec 14) (ok : Bool) : State → Host.Outcome State Fault Refusal :=
  onHub t (fun h => h.eraseBlk die.toNat block.toNat ok)

/-- STATIC_WEAR_LEVEL (R316). -/
def execStaticWearLevel (t : Nt) (die : BitVec 8) : State → Host.Outcome State Fault Refusal :=
  onHub t (fun h =>
    if !h.on F.GRNCTL_static_wl_en || h.wearSpread die.toNat ≤ max 1 (h.g F.GRNWLSPREAD_cycles) then h
    else
      match h.coldBlk die.toNat with
      | none => h
      | some b => h.relocate die.toNat b)

/-- GRANARY_READ (R316 to R318). -/
def execGranaryRead (t : Nt) (unit : BitVec 32) (res : ReadTry) : State → Host.Outcome State Fault Refusal :=
  onHub t (fun h => h.readUnit unit.toNat res)

/-- MAP_PAGE_FETCH (R303, R305, R306). Whether a bad fetch was a failed read is a free value (log 2). -/
def execMapPageFetch (t : Nt) (page : BitVec 16) (res : MapFetch) : State → Host.Outcome State Fault Refusal :=
  onHub t (fun h =>
    let pg := page.toNat
    if h.mapPages ≤ pg || h.inHot pg || !h.on F.GRNSTAT_ready then h
    else
      let h := h.inc F.GRNMAPMISS_count
      let (inj, h) := h.fireInj 0x12 (fun q => q.a.toNat == pg)
      let (v, h) := h.fresh
      let readBad (h : Hub) : Hub := if v.getLsbD 0 && !inj then h.p F.GRNSTAT_hm_err 1 else h
      match res with
      | .good => if inj then (h.inc F.GRNMAPMISS_count).heatPage pg else h.heatPage pg
      | .badThenGood => ((readBad h).inc F.GRNMAPMISS_count).heatPage pg
      | .badTwice => ((readBad h).inc F.GRNMAPMISS_count).modG (fun g => { g with rebuild := g.rebuild ++ [pg] }))

/-- MAP_PAGE_REBUILD: the rebuilt page is written to its slot (R305). -/
def execMapPageRebuild (t : Nt) (page : BitVec 16) : State → Host.Outcome State Fault Refusal :=
  onHub t (fun h =>
    let pg := page.toNat
    if !h.gr.rebuild.contains pg then h
    else
      let h := h.modG (fun g => { g with rebuild := g.rebuild.filter (· != pg) })
      (((h.writePage pg (h.pageSlot pg)).p F.GRNSTAT_map_check 1).inc F.GRNMAPCHK_count).devEv 0x0404 4 pg)

/-- MAP_CHECKPOINT: the journal has passed 3 GiB (R307). -/
def execMapCheckpoint (t : Nt) : State → Host.Outcome State Fault Refusal :=
  onHub t (fun h => if 3 * 2 ^ 30 < h.gr.journal then h.mapCkpt else h)

/-- An orderly flush: the tun is programmed, the map is checkpointed and the start after it is clean (R322). -/
def Hub.orderlyFlush (h : Hub) : Hub :=
  if h.on F.GRNSTAT_ready then (h.emptyTun.mapCkpt).p F.GRNSTAT_clean 1 else h

end Sys2Proof.Machine
end

