-- ==== Sys2Proof/Machine/Restart.lean ====
section
/-! DEFINITION. Resets (19_bringup.md, R475 to R478): what survives each of them, provisioning at a cold reset (R423), straps, and
the stages' bookkeeping (R449, R479, R497). -/

namespace Sys2Proof.Machine

/-! ### Registers across a reset (R476) -/

/-- Fields kept by a cold reset and by a warm one: provisioned, fused, persisted and always-on values. -/
def keptFields : List Fld :=
  [F.SECSTAT_owner_set, F.SECPROFILE_active, F.SECSVN_fw, F.SECSVN_plan, F.SECSVN_model, F.SECSVN_aux, F.SECOWNER_digest,
   F.HDEVIDX_profile, F.PWRLOSSES_count, F.PWRTRIPS_count, F.PWRSTRAP_slot, F.PWRSTRAP_testen, F.PWRSTAT_ploss, F.PWRSTAT_ttrip,
   F.GRNSTAT_readonly, F.GRNSTAT_spares_out, F.GRNSTAT_clean, F.TIERSTAT_readonly]

/-- 64-bit registers that are no counters. -/
def notCounters : List Nat :=
  [F.PLANFAM_digest.a, F.MOLBOUND_nt.a, F.SLSMPNT_nt.a, F.SLSMP_nt.a, F.INTFAULTNT_nt.a, F.CKPTCUTNT_nt.a, F.CKPTRESTNT_nt.a,
   F.NFLASTNT_nt.a, F.DGBBDATA_bytes.a, F.DGSNAPNT_nt.a, F.HNT_nt.a]

/-- The lock bits (R522). -/
def lockBit (a hi : Nat) : Bool := hi == 31 && [F.HCTL_lock.a, F.PWRCTL_lock.a, F.NFCTL_lock.a, F.DGCTL_lock.a].contains a

/-- A warm reset keeps a field of a row: RWL fields, lock bits, 64-bit counters, values that hold since a cold reset (R230, R278, R501),
the remap tables of R188, IDE, and the powered domains (R476). -/
def warmKeeps (r : RegRow) (f : FieldRow) : Bool :=
  f.acc == .rwl || lockBit r.a f.hi || (f.acc == .ro && f.lo == 0 && f.hi == 63 && !notCounters.contains r.a)
    || r.a == F.STONESPARE_spares.a || (decide (F.STONEMAP_phys.a ≤ r.a) && decide (r.a < F.STONEMAP_phys.a + 0x2000))
    || r.a == F.PWRDOM_on.a || [F.MOLSLACK_ns.a, F.HTKTMAX_ns.a, F.DGRATEMIN_msps.a].contains r.a

/-- The fields of the register at `a` that a reset keeps. -/
def keeps (warm : Bool) (a : Nat) : List (Nat × Nat) :=
  let own := (keptFields.filter (fun f => a == f.a || (f.stride != 0 && decide (f.a ≤ a) && decide (a < f.a + 4 * f.stride)
    && (a - f.a) % f.stride == 0))).map (fun f => (f.hi, f.lo))
  let row := match regRow a with
    | none => []
    | some r => if warm then (r.fields.filter (warmKeeps r)).map (fun f => (f.hi, f.lo)) else []
  own ++ row ++ (if warm && a == F.SECSTAT_ide_up.a then [(F.SECSTAT_ide_up.hi, F.SECSTAT_ide_up.lo)] else [])

/-- The registers after a reset. -/
def regsAfter (warm : Bool) (m : SMap W64) : SMap W64 :=
  m.foldl (fun acc e =>
    let v := (keeps warm e.1).foldl (fun x f => setBits x f.1 f.2 (bitsOf e.2.toNat f.1 f.2)) (regReset e.1).toNat
    smSet (regReset e.1) acc e.1 (BitVec.ofNat 64 v)) []

namespace Hub

/-! ### Stages (R479, R497) -/

/-- Stage `k` is done: its bit, its time in µs from PERST# deassertion, the lowest stage left. -/
def stageDone (h : Hub) (k : Nat) : Hub :=
  let d := setBits (h.g F.NFDONE_done) k k 1
  let h := (h.p F.NFDONE_done d).pi F.NFSTAGET_us k ((h.nt.toNat - h.nf.t0.toNat) / 1000)
  h.p F.NFSTAT_stage (((List.range 12).find? (fun j => bitsOf d j j == 0)).getD 0xC)

/-- Formation stops with a reason; its event carries `data` (R479, R497). -/
def stopForm (h : Hub) (reason : Nat) (data : Nat := 0) : Hub :=
  if h.on F.NFSTAT_stopped then h
  else
    let h := ((h.p F.NFSTAT_stopped 1).p F.NFSTAT_reason reason).devEv (0x0800 + reason) 4 data
    h.signal 33

/-- Formation goes on: PERST# deasserted, not stopped, stage `k` not done. -/
def forming (h : Hub) (k : Nat) : Bool := h.stage 0 && !h.on F.NFSTAT_stopped && !h.stage k

/-! ### What a reset leaves (R476) -/

/-- Free every Granary object of some kinds. -/
def freeKinds (h : Hub) (ks : List Nat) : Hub :=
  let h := (h.gr.objs.filter (fun e => ks.contains (e.1 / 2 ^ 72 % 256))).foldl (fun h e => h.grnFree e.1 h.gr.objs.length) h
  if ks.contains 1 then h.modG (fun g => { g with fext := [] }) else h

/-- A journal's capacity in entries for its size register (R510, R516). -/
def journalCap (mib least dflt : Nat) : Nat := (if least ≤ mib then mib else dflt) * 32768

/-- The adapter versions held in the Granary: those with a commit NT (R102, R492). -/
def keptAdapters (m : SMap AdSlot) : SMap AdSlot :=
  m.map (fun e => (e.1, { e.2 with heldLoads := [], vers := (e.2.vers.filter (fun v => v.commit.isSome)).map (fun v =>
    { v with staged := [], reports := [], counts := [], freeAt := none, counted := false, sub := none }) }))

/-- The hub after a cold or warm reset, PERST# aside. Millpond, records, rings, programs, stop sets, indexes, journals and
commands in progress are lost; the Granary, the key store, fuses and the always-on domain are kept (R476). -/
def resetState (h : Hub) (warm : Bool) : Hub :=
  let d := h.diag
  let last := if h.stage 9 then (if h.slotActive (h.g F.POOLPLAN_active) then some (BitVec.ofNat 3 (h.g F.POOLPLAN_active)) else none) else h.nf.lastSlot
  { nt := h.nt, free := h.free, out := h.out, nextId := h.nextId
    regs := regsAfter warm h.regs
    gens := if warm then h.gens else []
    wins := if warm then h.wins else []
    keySlots := if warm then h.keySlots else []
    grp := { largestPark := if warm then h.grp.largestPark else 0 }
    irq := if warm then h.irq.foldl (fun m e => smSet {} m e.1 { addr := e.2.addr, data := e.2.data, masked := e.2.masked }) [] else []
    im := { h.im with progs := [], stopSets := [], adapters := keptAdapters h.im.adapters }
    mirrors := h.mirrors
    fru := h.fru
    retired := if warm then h.retired else []
    seqMap := if warm then h.seqMap else (List.range 32).map (fun i => BitVec.ofNat 16 (pairOf 8 i))
    seqSpare := if warm then h.seqSpare else 0
    diag := { rings := d.rings, seqs := d.seqs, slots := d.slots, newest := d.newest
              trigs := d.trigs.map (fun t => (t.1, t.2.1, none)), copy := d.copy.map (fun c => (c.1, none))
              sjCap := if warm then d.sjCap else journalCap (h.g F.DGJSIZE_mib) 16 256
              djCap := if warm then d.djCap else journalCap (h.g F.DGDJSIZE_mib) 4 16
              busy := if warm then d.busy else [0, 0, 0, 0], hold := if warm then d.hold else [0, 0, 0, 0]
              steps := if warm then d.steps else 0, stepNs := if warm then d.stepNs else 0
              idleNs := if warm then d.idleNs else 0, stepMax := if warm then d.stepMax else 0 }
    sec := { rots := h.sec.rots.map (fun e => (e.1, { e.2 with sub := none })), prov := h.sec.prov
             log := if warm then h.sec.log else [], logCnt := if warm then h.sec.logCnt else 0
             digest := if warm then h.sec.digest else 0 }
    ck := { epoch := h.ck.epoch, bkv := h.ck.bkv, slotA := h.ck.slotA, slotB := h.ck.slotB, deferred := h.ck.deferred
            sends := h.ck.sends, claims := h.ck.claims }
    pw := { h.pw with reqs := [], grantAt := 0, offs := [], brkInj := none, hold := false, issued := [] }
    nf := { t0 := h.nf.t0, warm := warm, boots := h.nf.boots, lastSlot := last }
    gr := { h.gr with hot := [], rebuild := [] } }

/-- The settings of a register of the power block are RW, PW or RWL fields, and the lock bit (R470, R522). -/
def pwrSettings (r : RegRow) : List FieldRow := r.fields.filter (fun f => f.acc == .rw || f.acc == .pw || f.acc == .rwl || lockBit r.a f.hi)

/-- The device is held in reset, or its rails are off: what a cold reset loses is gone, but the settings of the power block, which the
management controller still serves, change only at the reset itself (R470, R475, R522). -/
def holdReset (h : Hub) : Hub :=
  h.regs.foldl (fun (g : Hub) e =>
    match (if 0x44000 ≤ e.1 ∧ e.1 < 0x48000 then regRow e.1 else none) with
    | none => g
    | some r => (pwrSettings r).foldl (fun (g : Hub) f =>
        g.setReg e.1 (BitVec.ofNat 64 (setBits (g.reg e.1).toNat f.hi f.lo (bitsOf e.2.toNat f.hi f.lo)))) g) (h.resetState false)

/-! ### Provisioning (R423) -/

/-- A provisioning request takes effect at a cold reset: profile and owner key, with a crypto-erase where it was asked for or
where the profile or the key changes. -/
def provisioned (h : Hub) : Hub :=
  match h.sec.prov with
  | none => h
  | some q =>
    let dig := q.key.map Config.sha3
    let old := (List.range 4).foldl (fun x k => x + (h.gi F.SECOWNER_digest k) * 2 ^ (64 * k)) 0
    let newKey := match dig with
      | none => false
      | some x => !h.on F.SECSTAT_owner_set || x.toNat != old
    let erase := q.erase || newKey || (h.g F.SECPROFILE_active == 1) != q.profile
    let h := { h with sec := { h.sec with prov := none } }
    let h := if erase then
        let h := h.freeKinds ([1, 2, 6, 7] ++ if newKey then [3, 4, 5] else [])
        { h with mirrors := [], ck := { h.ck with slotA := none, slotB := none, bkv := [] }
                 im := if newKey then {} else h.im }
      else h
    let h := (h.p F.SECPROFILE_active (b2n q.profile)).p F.HDEVIDX_profile (b2n q.profile)
    match dig with
    | none => h
    | some x => ((List.range 4).foldl (fun h k => h.pi F.SECOWNER_digest k (bitsOf x.toNat (64 * k + 63) (64 * k))) h).p F.SECSTAT_owner_set 1

/-- The domains that the POWER stage wakes (R479). -/
def bootDomains : List Nat := [0, 1, 4, 5, 6, 7] ++ (List.range 12).map (· + 12)

/-! ### Starts (R449, R455, R475, R479) -/

/-- The inputs in regulation from VAUX on without a gap: those are connected (R455). -/
def connected (m : BitVec 4) : Nat := ((List.range 4).find? (fun k => !m.getLsbD k)).getD 4

/-- An input reaches its band (R455, R456). Later inputs that have waited for it are connected with it and set the error bit;
with all four the rails come up, unless the module is off after a power loss (R459). -/
def inputUp (h : Hub) (i : Nat) : Hub :=
  let old := h.pw.inReg
  let new : BitVec 4 := BitVec.ofNat 4 (old.toNat ||| 2 ^ i)
  let late := (List.range (connected new)).filter (fun k => decide (i < k) && decide (connected old ≤ k))
  let h := { h with pw := { h.pw with inReg := new, ok := h.pw.ok || (!h.pw.off && decide (connected new = 4)) } }
  late.foldl (fun h k => (h.p F.PWRSTAT_seq_err 1).devEv 0x0811 4 k) h

/-- The straps are sampled; a slot above 71 is treated as 71 (R449). -/
def straps (h : Hub) (slot : BitVec 7) (testen : Bool) : Hub :=
  let h := (h.p F.PWRSTRAP_slot (min slot.toNat 71)).p F.PWRSTRAP_testen (b2n testen)
  if 71 < slot.toNat then h.p F.PWRSTAT_strap_err 1 else h

/-- RESET is done: POWER starts, and the boot domains ask for tokens, none of which is granted before the slot's stagger. -/
def startUp (h : Hub) (stagger : Bool) : Hub :=
  let h := h.stageDone 0
  let h := h.p F.NFSTAT_test (1 - h.g F.PWRSTRAP_testen)
  let at_ : Nt := if stagger then BitVec.ofNat 64 (h.nt.toNat + h.g F.PWRSTRAP_slot * h.g F.PWRSTAG_slot_us * 1000) else h.nt
  let h := { h with pw := { h.pw with grantAt := at_ } }
  let h := (h.p F.PWRVCORE_stone_mv 750).p F.PWRVCORE_hub_mv 750
  bootDomains.foldl (fun h d => h.wake d) h

end Hub

/-! ### The commands -/

/-- POWER_ON_RESET: VAUX is in regulation; the always-on domain is cleared too, and the straps are sampled (R449, R475, R476). -/
def execPowerOnReset (t : Nt) (slot : BitVec 7) (testen : Bool) (s : State) : Host.Outcome State Fault Refusal :=
  let h := (s.hub.stamp t).resetState false
  let h : Hub := { h with nt := 0, pw := { perst := h.pw.perst, brkPin := h.pw.brkPin, inReg := h.pw.inReg &&& 0xE }, nf := { boots := h.nf.boots, lastSlot := h.nf.lastSlot }
                          diag := { slots := h.diag.slots, newest := h.diag.newest, sjCap := h.diag.sjCap, djCap := h.diag.djCap } }
  let h := (((h.p F.PWRSTAT_ploss 0).p F.PWRSTAT_ttrip 0).straps slot testen).inputUp 0
  .next { s with hub := Hub.finish s.hub h, stn := {} }

/-- PERST_ASSERT: the device is held in reset; a warm reset in progress becomes a cold one (R479, R498). The state that a cold
reset loses goes now, but for the settings of the power block. -/
def execPerstAssert (t : Nt) (s : State) : Host.Outcome State Fault Refusal :=
  let h := s.hub.stamp t
  let h := h.holdReset
  let h := { h with pw := { h.pw with perst := true, tripPerst := h.pw.tripPerst || h.pw.trip } }
  .next { s with hub := Hub.finish s.hub h, stn := {} }

/-- PERST_DEASSERT: with PWR_OK high a cold reset, provisioning, and formation starts; else no effect but the error bit (R423,
R449, R456, R475). -/
def execPerstDeassert (t : Nt) (slot : BitVec 7) (testen : Bool) (s : State) : Host.Outcome State Fault Refusal :=
  let h := s.hub.stamp t
  if !h.pw.perst then .next { s with hub := h }
  else if !h.pw.ok then .next { s with hub := Hub.finish s.hub (h.p F.PWRSTAT_seq_err 1) }
  else
    let h := (h.resetState false).provisioned.straps slot testen
    let u := h.nt
    let h := { h with pw := { h.pw with perst := false, trip := false, tripPerst := false }, nf := { h.nf with t0 := u } }
    .next { s with hub := Hub.finish s.hub (h.startUp true), stn := {} }

/-- WARM_RESET: a valid paired-word write of 0xA5 to NFRESET.code; ignored while PERST# is asserted (R374, R475, R498). -/
def execWarmReset (t : Nt) (v : BitVec 32) (s : State) : Host.Outcome State Fault Refusal :=
  let h := s.hub.stamp t
  if !h.stage 0 then .next { s with hub := h }
  else if !pairOk 16 v.toNat then .next { s with hub := Hub.finish s.hub ((h.inc F.INTPWREJ_count).flag F.INTSTAT_pw_reject 32) }
  else if bitsOf v.toNat 7 0 ≠ 0xA5 then
    .next { s with hub := h.setReg F.NFRESET_code.a (BitVec.ofNat 64 (pairOf 16 (bitsOf v.toNat 7 0))) }
  else .next { s with hub := Hub.finish s.hub (((h.resetState true).inc F.NFRESETS_count).startUp false), stn := {} }

/-- CXL_PORT_RESET: the port alone is reset, its MSI-X table with it (log 5); ticket loads return nothing until the link is up again (R476,
R477). -/
def execCxlPortReset (t : Nt) : State → Host.Outcome State Fault Refusal :=
  onHub t (fun h =>
    { h with nf := { h.nf with portDown := true }
             irq := h.irq.foldl (fun m (e : Nat × Irq) => smSet {} m e.1 { count := e.2.count, since := e.2.since }) [] }.p F.SECSTAT_ide_up 0)

/-- CXL_LINK_UP: the link has retrained (R477). -/
def execCxlLinkUp (t : Nt) : State → Host.Outcome State Fault Refusal :=
  onHub t (fun h => { h with nf := { h.nf with portDown := false } })

end Sys2Proof.Machine
end

