-- ==== Sys2Proof/Machine/RegRead.lean ====
section
/-! DEFINITION. Loads from BAR0: the values that the device computes from its state at the load (R88, R288, R325, R355, R444,
R499, R516). SMBUS_READ is the one command that loads registers. -/

namespace Sys2Proof.Machine

namespace Hub

/-- Fields put together. -/
def packFields (l : List (Nat × Nat)) : Nat := (l.map (fun e => e.1 * 2 ^ e.2)).sum

/-- A word of Quern's registers of index `n`, at offset `o` (R355). -/
def idxWord (h : Hub) (n o : Nat) : Nat :=
  match smLook h.qn.idx n with
  | none => 0
  | some q =>
    let dead := (q.nodes.filter (fun e => e.2.del != 0xFFFFFFFFFFFFFFFF)).length
    match o with
    | 0x00 => packFields [(1, 0), (q.fmt, 1), (q.metric, 3), (q.dim, 8)]
    | 0x04 => packFields [(q.m, 0), (q.r, 16)]
    | 0x08 => q.cap
    | 0x0C => packFields [(q.tenant.toNat, 0), (q.part.toNat, 24)]
    | 0x10 => q.nodes.length - dead
    | 0x14 => q.side.length
    | 0x18 => (q.gens.head?.map (fun g => g.gen.toNat)).getD 0
    | 0x1C => dead
    | _ => 0

/-- Erase counts of every block of the module: number, sum, least and greatest (R316). -/
def wearOf (h : Hub) : Nat × Nat × Nat × Nat :=
  (List.range h.grnDies).foldl (fun acc d =>
    (Config.dataBlocks d ++ Config.spareBlocks d).foldl (fun (acc : Nat × Nat × Nat × Nat) b =>
      let e := h.erases d b
      (acc.1 + 1, acc.2.1 + e, min acc.2.2.1 e, max acc.2.2.2 e)) acc) (0, 0, 65535, 0)

/-- The value that the register at `a` shows. -/
def regVal (h : Hub) (a : Nat) : W64 :=
  let n (x : Nat) : W64 := BitVec.ofNat 64 x
  let nodes := h.kv.nodes.length
  if a = F.HNT_nt.a then (if h.ntEver then h.nt else 0)
  else if a = F.HBIFILL_entries.a then n h.snoop.length
  else if a = F.KVPFXCNT_nodes.a then n nodes
  else if a = F.TIERSTAT_granary_full.a then h.tierStat.reg a
  else if a = F.KVFREE_global.a then n (h.framesFree 0 + h.framesFree 1 * 2 ^ 32)
  else if a = F.GRNFREE_units.a then n (packFields [(h.grnFreeUnits, 0), (min 1023 h.fMin.1, 32), (h.fMin.2, 48)])
  else if a = F.GRNSPARE_blocks.a then
    let l := (List.range h.grnDies).map (fun d => (h.gdie d).spare.length)
    n (packFields [(l.sum, 0), (l.countP (· == 0), 32)])
  else if a = F.GRNWEAR_mean.a then
    let w := h.wearOf
    n (packFields [(w.2.1 / max 1 w.1, 0), (w.2.2.2, 16), (w.2.2.1, 32), (3000, 48)])
  else if a = F.AIXOCC_session.a then n (h.sess.countP (fun e => e.2.r.state != S.free))
  else if a = F.QUSED_items.a then n ((h.qn.idx.map (fun e => e.2.cap)).sum)
  else if F.QIDX_present.a ≤ a ∧ a < F.QIDX_present.a + 64 * 0x20 then n (h.idxWord ((a - F.QIDX_present.a) / 0x20) ((a - F.QIDX_present.a) % 0x20))
  else if a = F.SECSEALCNT_contexts.a then n h.sec.ctx.length
  else if a = F.SECROTACT_rotations.a then n h.sec.rots.length
  else if a = F.NFLASTNT_nt.a then h.nt
  else if F.DGBBDATA_bytes.a ≤ a ∧ a < F.DGBBDATA_bytes.a + 32 ∧ a % 8 = 0 then n (field h.bbRecord (a - F.DGBBDATA_bytes.a) 8)
  else if (regRow a).isSome then h.reg a
  else 0

/-- A 32-bit word of the MSI-X table or of the pending bit array (log 5). -/
def msixLoad (h : Hub) (a : Nat) : Nat :=
  let q := smGet {} h.irq ((a - 0x4000) / 16)
  if 0x5000 ≤ a then ((List.range 32).map (fun k => b2n (smGet {} h.irq ((a - 0x5000) * 8 + k)).pend * 2 ^ k)).sum
  else match a % 16 with
    | 0 => bitsOf q.addr.toNat 31 0
    | 4 => bitsOf q.addr.toNat 63 32
    | 8 => q.data.toNat
    | _ => b2n q.masked

/-- What a load of BAR0 at `a` gives (R287): the register there, the upper word of a 64-bit one, a word of the MSI-X table or pending bits. -/
def regRead (h : Hub) (a : Nat) : W64 :=
  if a % 4 = 0 ∧ (0x4000 ≤ a ∧ a < 0x4000 + 16 * 48 ∨ 0x5000 ≤ a ∧ a < 0x5008) then BitVec.ofNat 64 (h.msixLoad a)
  else if a % 8 = 4 ∧ (regRow a).isNone ∧ ((regRow (a - 4)).map (·.wide)).getD false then h.regVal (a - 4) >>> 32
  else h.regVal a

end Hub

end Sys2Proof.Machine
end

