-- ==== Sys2Proof/Machine/Power.lean ====
section
/-! DEFINITION. Supplies, the Brake governor and cooling (18_module_power.md): inputs and power loss, wake tokens, power windows
and capping, PWRBRK#, warnings and trips, and SMBus reads (R453 to R470). -/

namespace Sys2Proof.Machine

namespace Hub

/-! ### Power loss (R457 to R459) -/

/-- A power-loss event: 0 to 3 input, 4 fuse, 5 trip (R458). The tun is drained (whether
the hold-up lasts for it is outside this module: a free value, log 2; R300, R324), the black box copied, and everything but the
always-on domain goes off. The next start is unclean unless PERST# was asserted with GRNSTAT.clean set (R457). A loss while the
module is off changes nothing more (R459, R473). -/
def powerLost (h : Hub) (cause : Nat) : Hub :=
  if h.pw.off || !h.pw.ok then h
  else
    let h := (h.devEv 0x0810 4 cause).p F.PWRSTAT_ploss 1
    let (v, h) := h.fresh
    let h := (h.inc F.PWRLOSSES_count).tunDrain (v.getLsbD 0)
    let h := if h.pw.perst && h.on F.GRNSTAT_clean then h else h.p F.GRNSTAT_clean 0
    let h := (h.lossCopy (if cause = 5 then 3 else 2)).holdReset
    { h with pw := { h.pw with ok := false, off := true, windows := [] } }

/-- An input leaves its band (R458). -/
def inputDown (h : Hub) (i : Nat) : Hub :=
  ({ h with pw := { h.pw with inReg := BitVec.ofNat 4 (setBits h.pw.inReg.toNat i i 0) } } : Hub).powerLost i

/-! ### Temperatures (R468, R469) -/

/-- The warning threshold of the dies. -/
def tjWarnAt (h : Hub) : Nat := let v := h.g F.PWRTJWARN_degc; if 70 ≤ v ∧ v ≤ 100 then v else 95

/-- The °C that injections add to a sensor group: a die 0 to 4, or 8 + stack (R472). -/
def offsetOf (h : Hub) (k : Nat) : Nat := ((h.pw.offs.filter (fun o => o.1 == k)).map (fun o => o.2.1)).sum

/-- The temperature shown for a die or a stack. -/
def tempOf (h : Hub) (k : Nat) : Nat := if k < 8 then h.gi F.PWRTJ_degc k else h.gi F.PWRHBMT_degc (k - 8)

/-- A die or a stack that is listed. -/
def sensorKnown (k : Nat) : Bool := decide (k < 5) || (decide (8 ≤ k) && decide (k < 16))

/-- A reading is shown; the index of the die's hottest sensor is a free value (log 2). -/
def showTemp (h : Hub) (k v : Nat) : Hub :=
  if k < 8 then
    let (x, h) := h.fresh
    (h.pi F.PWRTJ_degc k (min v 255)).pi F.PWRTJ_sensor k (x.toNat % 8)
  else h.pi F.PWRHBMT_degc (k - 8) (min v 255)

/-- The warning and trip thresholds of a die or a stack. -/
def warnAt (h : Hub) (k : Nat) : Nat := if k < 8 then h.tjWarnAt else 95
def tripAt (k : Nat) : Nat := if k < 8 then 110 else 105

/-- A thermal trip (R469): THERMTRIP# and the power-loss sequence. -/
def thermTrip (h : Hub) : Hub :=
  let h := (h.p F.PWRSTAT_ttrip 1).inc F.PWRTRIPS_count
  let down := h.pw.perst
  let h := h.powerLost 5
  { h with pw := { h.pw with trip := true, tripPerst := h.pw.tripPerst || down } }

/-- A reading of a die or a stack, injected offsets included: warning, reduction and trip follow from it (R468, R469). -/
def sensed (h : Hub) (k v : Nat) (injected : Bool := false) : Hub :=
  let old := h.tempOf k
  let h := h.showTemp k v
  let h :=
    if v < h.warnAt k || (h.on F.PWRSTAT_tj_warn && decide (h.warnAt k ≤ old)) then h
    else
      let h := h.p F.PWRSTAT_tj_warn 1
      (h.devEv 0x0812 4 (k + min v 255 * 256 + injBit injected)).signal 34
  if tripAt k ≤ v ∧ !h.pw.trip then h.thermTrip else h

/-- A measured reading, to which injected offsets are added (R472). -/
def measured (h : Hub) (k v : Nat) : Hub := if sensorKnown k then h.sensed k (v + h.offsetOf k) else h

/-- Every sensor's reading, dies first. -/
def measuredAll (h : Hub) (vs : List (BitVec 8)) : Hub :=
  (([0, 1, 2, 3, 4] ++ (List.range 8).map (· + 8)).zip vs).foldl (fun (h : Hub) (e : Nat × BitVec 8) => h.showTemp e.1 (e.2.toNat + h.offsetOf e.1)) h

/-! ### Capping (R465, R466) -/

/-- The target in 0.1 W (R465). -/
def powerTarget (h : Hub) : Nat :=
  let clamp (w : Nat) : Nat := max 600 (min 1650 w) * 10
  let a := if h.on F.PWRCTL_cap_en then clamp (h.g F.PWRCAP_watts) else 16500
  if h.on F.PWRSTAT_braking then min a (clamp (h.g F.PWRBRKW_watts)) else a

/-- The mean of entry `k` of the last `n` windows. -/
def winAvg (h : Hub) (n k : Nat) : Nat :=
  let l := h.pw.windows.take n
  if l.isEmpty then 0 else (l.map (fun w => w.getD k 0)).sum / l.length

/-- Module power of the last ten windows in 0.1 W. -/
def avgPower (h : Hub) : Nat :=
  let l := h.pw.windows.take 10
  if l.isEmpty then 0 else (l.map (fun w => (w.drop 4).sum)).sum / l.length

/-- Module power of the last second in 0.1 W. -/
def avgPower1s (h : Hub) : Nat :=
  if h.pw.windows.isEmpty then 0 else (h.pw.windows.map (fun w => (w.drop 4).sum)).sum / h.pw.windows.length

/-- Limit and Peak of R453 by input, in 10 mA. -/
def inputLimits : List (Nat × Nat) := [(300, 300), (600, 600), (2000, 2000), (11000, 11500)]

/-- A current limit of R453 is passed. -/
def limitPassed (h : Hub) : Bool :=
  (inputLimits.zipIdx).any (fun e => decide (e.1.2 < h.winAvg 10 e.2) || decide (e.1.1 < h.winAvg 1000 e.2))

/-- The average is above the target. -/
def overTarget (h : Hub) : Bool := decide (h.powerTarget < h.avgPower) || h.limitPassed

/-- The average is below 97% of the target. -/
def underTarget (h : Hub) : Bool := decide (h.avgPower * 100 < 97 * h.powerTarget) && !h.limitPassed

/-- The mode's value of VDD_CORE (R465); in mode 1 the highest value. -/
def modeMv (h : Hub) : Nat :=
  let v := h.g F.PWRMODE_mv
  match h.g F.PWRMODE_mode with
  | 1 => 850
  | 2 => if 650 ≤ v ∧ v ≤ 850 then v else 750
  | _ => 750

/-- Set VDD_CORE of the stone dies and the hub die. -/
def setMv (h : Hub) (v : Nat) : Hub := (h.p F.PWRVCORE_stone_mv v).p F.PWRVCORE_hub_mv v

/-- A reduction is in force from the average or a temperature that asks for it until neither does and the voltage is back; entry
signals vector 34 (R465). -/
def capPass (h : Hub) : Hub :=
  let ask := h.overTarget || h.on F.PWRSTAT_tj_warn
  if ask then (if h.on F.PWRSTAT_capping then h else (h.p F.PWRSTAT_capping 1).signal 34)
  else if h.underTarget && (decide (h.modeMv ≤ h.g F.PWRVCORE_stone_mv) || h.g F.PWRMODE_mode == 1) then
    { h.p F.PWRSTAT_capping 0 with pw := { h.pw with hold := false } }
  else h

/-- PWRBRK# is asserted, at its pin or by injection, and honoured (R466). -/
def brakeAsked (h : Hub) : Bool := (h.pw.brkPin || h.pw.brkInj.isSome) && h.on F.PWRCTL_brk_en

/-- The brake follows the pin: at its start VDD_CORE drops and grain issue holds; at its end the normal target applies. -/
def brakePass (h : Hub) (injected : Bool := false) : Hub :=
  if h.brakeAsked && !h.on F.PWRSTAT_braking then
    let h := (((h.p F.PWRSTAT_braking 1).devEv 0x0813 4 (injBit injected)).inc F.PWRBRKS_count).setMv 650
    { h with pw := { h.pw with hold := true } }
  else if !h.brakeAsked && h.on F.PWRSTAT_braking then h.p F.PWRSTAT_braking 0
  else h

/-- A 1 ms window ends: voltage in mV, current in 10 mA and power in 0.1 W of each input (R465). -/
def powerWindow (h : Hub) (ins : List (BitVec 16 × BitVec 16 × BitVec 16)) : Hub :=
  let v (k : Nat) : BitVec 16 × BitVec 16 × BitVec 16 := ins.getD k (0, 0, 0)
  let w := (List.range 4).map (fun k => (v k).2.1.toNat) ++ (List.range 4).map (fun k => (v k).2.2.toNat)
  let h : Hub := { h with pw := { h.pw with windows := (w :: h.pw.windows).take 1000 } }
  let h := (List.range 4).foldl (fun (h : Hub) k =>
    ((h.pi F.PWRIN_mv k (v k).1.toNat).pi F.PWRIN_current k (v k).2.1.toNat).pi F.PWRIN_power k (min 65535 (h.winAvg 10 (4 + k)))) h
  let h := (h.p F.PWRTOTAL_avg10ms (min 65535 h.avgPower)).p F.PWRTOTAL_avg1s (min 65535 h.avgPower1s)
  let h := if h.on F.PWRSTAT_capping then h.inc F.PWRCAPUS_us 1000 else h
  h.capPass

/-- A voltage step (R465): down 5 mV each 100 µs while the average is above the target or a die is warm, to 650 mV and the hold of
grain issue; else up 5 mV each ms toward the mode's value. -/
def vcoreStep (h : Hub) : Hub :=
  let v := h.g F.PWRVCORE_stone_mv
  let t := h.nt
  let since (ns : Nat) : Bool := decide (h.pw.lastV.toNat + ns ≤ t.toNat)
  let stamped (h : Hub) : Hub := { h with pw := { h.pw with lastV := t } }
  if h.overTarget || h.on F.PWRSTAT_tj_warn then
    if !since 100000 then h
    else
      let h := (stamped h).setMv (max 650 (v - 5))
      if h.g F.PWRVCORE_stone_mv = 650 then { h with pw := { h.pw with hold := true } } else h
  else
    let h : Hub := if h.pw.hold && decide (h.avgPower < h.powerTarget) then { h with pw := { h.pw with hold := false } } else h
    if h.modeMv < v then ((stamped h).setMv h.modeMv).capPass
    else if h.underTarget && decide (v < h.modeMv) && since 1000000 then ((stamped h).setMv (min h.modeMv (v + 5))).capPass
    else h.capPass

/-! ### Wake tokens (R463) -/

/-- The wake request that is granted first: request NT, then domain. -/
def firstReq (l : List (Nt × Nat)) : Option (Nt × Nat) :=
  l.foldl (fun b r => match b with
    | none => some r
    | some q => if r.1 < q.1 ∨ (r.1 = q.1 ∧ r.2 < q.2) then some r else some q) none

end Hub

/-- A command that may take the module's power: the stones lose their contents with it. -/
def onModule (t : Nt) (f : Hub → Hub) (s : State) : Host.Outcome State Fault Refusal :=
  let h := Hub.finish s.hub (f (s.hub.stamp t))
  .next { s with hub := h, stn := if h.pw.off then {} else s.stn }

/-! ### The commands -/

/-- INPUT_IN_REGULATION (R455, R456). -/
def execInputInRegulation (t : Nt) (i : BitVec 2) : State → Host.Outcome State Fault Refusal :=
  onHub t (fun h => h.inputUp i.toNat)

/-- POWER_LOSS: an input leaves its band (R458). Fuse and trip are FUSE_OPEN and THERMAL_TRIP. -/
def execPowerLoss (t : Nt) (cause : BitVec 3) : State → Host.Outcome State Fault Refusal :=
  onModule t (fun h => if cause.toNat < 4 then h.inputDown cause.toNat else h)

/-- FUSE_OPEN (R454). -/
def execFuseOpen (t : Nt) (_i : BitVec 2) : State → Host.Outcome State Fault Refusal :=
  onModule t (fun h => (h.powerLost 4).p F.PWRSTAT_in_fault 1)

/-- POWER_RESTART: every input has been in regulation for 100 ms since a loss: a cold reset (R459, R475). -/
def execPowerRestart (t : Nt) : State → Host.Outcome State Fault Refusal :=
  onHub t (fun h =>
    if h.pw.off && decide (h.pw.inReg = 0xF) && !h.pw.trip then
      let h := h.resetState false
      { h with pw := { h.pw with off := false, ok := true } }
    else h)

/-- PWRBRK_ASSERT (R466). -/
def execPwrbrkAssert (t : Nt) : State → Host.Outcome State Fault Refusal :=
  onHub t (fun h => ({ h with pw := { h.pw with brkPin := true } } : Hub).brakePass)

/-- PWRBRK_DEASSERT (R466). -/
def execPwrbrkDeassert (t : Nt) : State → Host.Outcome State Fault Refusal :=
  onHub t (fun h => ({ h with pw := { h.pw with brkPin := false } } : Hub).brakePass)

/-- TJ_WARN: a reading of a die or a stack (R468). -/
def execTjWarn (t : Nt) (sensor : BitVec 4) (degc : BitVec 8) : State → Host.Outcome State Fault Refusal :=
  onModule t (fun h => (h.measured sensor.toNat degc.toNat).capPass)

/-- TJ_WARN_CLEAR: every die is 3 °C below PWRTJWARN and every stack below 92 °C (R468). -/
def execTjWarnClear (t : Nt) (degc : List (BitVec 8)) : State → Host.Outcome State Fault Refusal :=
  onHub t (fun h =>
    let h := h.measuredAll degc
    if (List.range 5).all (fun d => decide (h.tempOf d + 3 ≤ h.tjWarnAt)) && (List.range 8).all (fun k => decide (h.tempOf (8 + k) < 92))
    then (h.p F.PWRSTAT_tj_warn 0).capPass else h)

/-- THERMAL_TRIP: a reading at the trip threshold (R469). -/
def execThermalTrip (t : Nt) (sensor : BitVec 4) (degc : BitVec 8) : State → Host.Outcome State Fault Refusal :=
  onModule t (fun h => h.measured sensor.toNat degc.toNat)

/-- TRIP_RECOVERY: PERST# has been asserted since and every sensor reads 10 °C below PWRTJWARN; the rails come back under R459
(R469). -/
def execTripRecovery (t : Nt) (degc : List (BitVec 8)) : State → Host.Outcome State Fault Refusal :=
  onHub t (fun h =>
    let h := h.measuredAll degc
    let cool := (([0, 1, 2, 3, 4] ++ (List.range 8).map (· + 8)).all (fun k => decide (h.tempOf k + 10 ≤ h.tjWarnAt)))
    if h.pw.trip && h.pw.off && h.pw.tripPerst && cool && decide (h.pw.inReg = 0xF) then
      let h := h.resetState false
      { h with pw := { h.pw with off := false, ok := true } }
    else h)

/-- TOKEN_REFILL (R463). -/
def execTokenRefill (t : Nt) : State → Host.Outcome State Fault Refusal :=
  onHub t (fun h =>
    let x : Int := min (max 36 (h.g F.PWRSLEW_burst) : Nat) (h.pw.tokens + (max 1 (h.g F.PWRSLEW_rate) : Nat))
    { h with pw := { h.pw with tokens := x } })

/-- WAKE_GRANT: the first request that waits is granted (R463, R464); the stones of a cluster domain that wakes hold nothing,
those of one that only starts again keep what they hold. -/
def execWakeGrant (t : Nt) (s : State) : Host.Outcome State Fault Refusal :=
  let h := s.hub.stamp t
  match Hub.firstReq h.pw.reqs with
  | none => .next { s with hub := h }
  | some r =>
    if h.pw.tokens ≤ 0 ∨ h.nt < h.pw.grantAt then .next { s with hub := h }
    else
      let h := ({ h with pw := { h.pw with reqs := h.pw.reqs.erase r } } : Hub).grant r.2
      let ls := if 24 ≤ r.2 && !s.hub.powered r.2 then ((Hub.domClusters r.2).map (fun c => (List.range 32).map (fun k => 32 * c + k))).flatten else []
      .next { s with hub := h, stn := { s.stn with st := ls.foldl (fun m l => smDel m l) s.stn.st } }

/-- POWER_WINDOW (R465). -/
def execPowerWindow (t : Nt) (ins : List (BitVec 16 × BitVec 16 × BitVec 16)) : State → Host.Outcome State Fault Refusal :=
  onHub t (fun h => if h.pw.off then h else h.powerWindow ins)

/-- VCORE_STEP (R465). -/
def execVcoreStep (t : Nt) : State → Host.Outcome State Fault Refusal :=
  onHub t (fun h => if h.pw.off || !h.stage 0 then h else h.vcoreStep)

/-- SMBUS_READ: 8 B of the power block, or of HIDENT to HDEVIDX with bit 15 set (R470). An offset that is not aligned to 8 reads a
free value (log 2); the target answers while VAUX is present. -/
def execSmbusRead (t : Nt) (off : BitVec 16) : State → Host.Outcome State Fault Refusal :=
  onHub t (fun h =>
    let o := off.toNat % 2 ^ 15
    let host := off.getLsbD 15
    let a := if host then o else F.PWRCTL_cap_en.a + o
    if !h.pw.inReg.getLsbD 0 then h
    else if o % 8 ≠ 0 then
      let (v, h) := h.fresh
      h.emit (.smbus v)
    else if (if host then 0x10 < o else 0x1000 ≤ o) then h.emit (.smbus 0)
    else
      let wide := ((regRow a).map (·.wide)).getD false
      h.emit (.smbus (if wide then h.regRead a else BitVec.ofNat 64 ((h.regRead a).toNat % 2 ^ 32 + (h.regRead (a + 4)).toNat % 2 ^ 32 * 2 ^ 32))))

end Sys2Proof.Machine
end

