-- ==== Sys2Proof/Machine/Formation.lean ====
section
/-! DEFINITION. Node formation and node time (19_bringup.md): the stages from POWER to READY, HELLO and topology records, the map's
checks and its digest, the time master, coarse and fine exchanges, holdover, the Granary's start, plans reloaded and sessions
restored (R479 to R497, R520). -/

namespace Sys2Proof.Machine

namespace Hub

/-! ### Firmware and self-test (R417, R481) -/

/-- A 256-bit free value (log 2). -/
def fresh256 (h : Hub) : BitVec 256 × Hub :=
  let (a, h) := h.fresh
  let (b, h) := h.fresh
  let (c, h) := h.fresh
  let (d, h) := h.fresh
  (a ++ b ++ c ++ d, h)

/-- The image that the ROM starts: of the first two, the one with the higher secver among those that qualify (R417). -/
def bootImage (h : Hub) (imgs : List FwImage) : Option FwImage :=
  ((imgs.take 2).filter (fun f => f.sigOk && decide (h.g F.SECSVN_fw ≤ f.secver.toNat))).foldl (fun b f => match b with
    | none => some f
    | some g => if g.secver < f.secver then some f else some g) none

/-- Stones that fail the built-in tests give way to spares; none where a die runs out of them (R188, R481). -/
def testedStones (h : Hub) (fails : List (BitVec 2 × BitVec 10)) : Option Hub :=
  let bad := fails.map (fun e => e.1.toNat * 576 + e.2.toNat)
  let h : Hub := { h with retired := h.retired ++ bad.filter (fun p => !h.retired.contains p) }
  let h? := (List.range 2048).foldl (fun (acc : Option Hub) l => match acc with
    | none => none
    | some h =>
      let d := l / 512
      if !bad.contains (d * 576 + h.physOf l) then some h
      else (h.spareStone d).map (fun p => h.setReg (F.STONEMAP_phys.a + 4 * l) (BitVec.ofNat 64 (pairOf 16 p)))) (some h)
  h?.map (fun h => (List.range 4).foldl (fun (h : Hub) d =>
    let mapped := (List.range 512).map (fun l => h.physOf (512 * d + l))
    let left := (goodStones d).filter (fun p => !mapped.contains p && !h.retired.contains (d * 576 + p))
    h.pi F.STONESPARE_spares d left.length) h)

/-! ### HELLO and topology records (R482, R484) -/

/-- Where no peer is known, a record's entry names slot 127 (log 33). -/
def noPeer : BitVec 7 := 127

/-- The arguments of the device's HELLO on a port (R482). -/
def helloArg (h : Hub) (port : Nat) : Nat :=
  h.g F.PWRSTRAP_slot + port * 2 ^ 7 + h.g F.HDEVIDX_profile * 2 ^ 11 + h.g F.NFNODEID_id * 2 ^ 12

/-- The device's own topology record (R484). -/
def ownRec (h : Hub) : TopoRec :=
  let port (n : Nat) : BitVec 7 × BitVec 4 × BitVec 3 :=
    let q := (smLook h.nf.heard n).getD (noPeer, 0)
    (q.1, q.2, BitVec.ofNat 3 (h.gi F.MOLPSTAT_state n))
  { slot := BitVec.ofNat 7 (h.g F.PWRSTRAP_slot), serial := h.reg F.HSERIAL_serial.a, fwver := (h.reg F.HFWVER_patch.a).setWidth 32
    arith := BitVec.ofNat 16 (h.g F.ARITHREV_rev), profile := h.g F.HDEVIDX_profile == 1
    nodeId := BitVec.ofNat 12 (h.g F.NFNODEID_id), ports := (List.range 16).map port
    lastNt := if h.ntEver then h.nt else 0, grnNt := h.gr.lastNt, ok := true }

/-- A record joins the map: one of the same device is replaced (R484). -/
def addRec (h : Hub) (r : TopoRec) : Hub :=
  if h.nf.recs.contains r then h
  else
    let rest := h.nf.recs.filter (fun x => !(x.slot == r.slot && x.serial == r.serial))
    { h with nf := { h.nf with recs := rest ++ [r], added := true } }

/-- A record's 64 bytes (log 33). -/
def recBytes (r : TopoRec) : Bytes :=
  let b := padTo 28 (le 1 r.slot.toNat ++ le 8 r.serial.toNat ++ le 4 r.fwver.toNat ++ le 2 r.arith.toNat ++ le 1 (b2n r.profile)
    ++ le 2 r.nodeId.toNat) ++ ((r.ports.map (fun e => le 2 (e.1.toNat + e.2.1.toNat * 2 ^ 7 + e.2.2.toNat * 2 ^ 11))).flatten)
  b ++ le 4 (crc32c b)

/-- Records by slot. -/
def insertRec (r : TopoRec) : List TopoRec → List TopoRec
  | [] => [r]
  | x :: l => if r.slot < x.slot then r :: x :: l else x :: insertRec r l

/-- The CRC-64 of the map (R484). -/
def mapCrc (h : Hub) : W64 :=
  BitVec.ofNat 64 (crc64 (((h.nf.recs.foldl (fun l r => insertRec r l) []).map recBytes).flatten))

/-- The map is complete: every named peer has a record, and two rounds have added nothing (R484). -/
def mapComplete (h : Hub) : Bool :=
  h.nf.recs.all (fun r => r.ports.all (fun e => e.1 == noPeer || h.nf.recs.any (fun x => x.slot == e.1))) && decide (2 ≤ h.nf.quiet)

/-! ### The checks of the map (R483, R485, R486) -/

/-- A record of a slot is held. -/
def present (h : Hub) (slot : Nat) : Bool := h.nf.recs.any (fun r => r.slot.toNat == slot)

/-- N: the smallest of 16, 32 and 64 above the highest active slot present (R483). -/
def nodeN (h : Hub) : Nat :=
  let top := (h.nf.recs.filter (fun r => decide (r.slot.toNat < 64))).foldl (fun m r => max m r.slot.toNat) 0
  if top < 16 then 16 else if top < 32 then 32 else 64

/-- The spares present, by number. -/
def spareList (h : Hub) : List Nat := (List.range 8).filter (fun s => h.present (64 + s))

/-- The slot of a device index as wired, spares from `n`. -/
def slotOf (n d : Nat) : Nat := if d < n then d else 64 + (d - n)

/-- The device index of a slot. -/
def indexOf (n slot : Nat) : Nat := if slot < 64 then slot else n + (slot - 64)

/-- The ports of a record whose peer is not the one of R237 and R238; a failed port that heard a peer counts (R482). -/
def wrongPorts (n : Nat) (r : TopoRec) : List (Nat × BitVec 7 × BitVec 4) :=
  (r.ports.zipIdx).filterMap (fun x =>
    let e := x.1
    let up := e.2.2 == 2 || e.2.2 == 3 || (e.2.2 == 4 && e.1 != noPeer)
    let d := indexOf n r.slot.toNat
    let want := match wiredTo n d x.2, wiredPort n d x.2 with
      | some p, some q => e.1.toNat == slotOf n p && e.2.1.toNat == q && e.2.2 != 4
      | _, _ => false
    if up && !want then some (x.2, e.1, e.2.1) else none)

/-- Spares taking missing slots, one each, lowest first; none where a slot stays uncovered (R486). -/
def fillSlots (n : Nat) : List Nat → List Nat → Option (List (Nat × Nat))
  | [], _ => some []
  | d :: rest, ss =>
    match ss.find? (fun s => (covers n s).contains d) with
    | none => none
    | some s => (fillSlots n rest (ss.erase s)).map (fun l => (d, s) :: l)

/-- The active slots without a record. -/
def missing (h : Hub) : List Nat := (List.range h.nodeN).filter (fun d => !h.present d)

/-- The first check of R485 that fails: reason and event data; else the slots that spares take. -/
def formCheck (h : Hub) : (Nat × Nat) ⊕ List (Nat × Nat) :=
  let rs := h.nf.recs
  let n := h.nodeN
  let same {β : Type} [DecidableEq β] (f : TopoRec → β) : Bool := rs.all (fun a => rs.all (fun b => decide (f a = f b)))
  let sorted := rs.foldl (fun l r => insertRec r l) []
  if rs.any (fun a => rs.any (fun b => a.slot == b.slot && a != b)) then .inl (6, 0)
  else if 8 < (rs.filter (fun r => decide (64 ≤ r.slot.toNat))).length || 64 < n + h.spareList.length
      || rs.any (fun r => decide (72 ≤ r.slot.toNat)) then .inl (3, 0)
  else if !same (·.profile) || (16 < n && rs.any (fun r => !r.profile)) then .inl (4, 0)
  else if !same (fun r => bitsOf r.fwver.toNat 23 8) || !same (·.arith) then .inl (8, 0)
  else
    match sorted.findSome? (fun r => ((wrongPorts n r).head?).map (fun w => (r.slot.toNat, w))) with
    | some (s, p, fs, fp) => .inl (5, s + p * 2 ^ 7 + fs.toNat * 2 ^ 11 + fp.toNat * 2 ^ 18)
    | none =>
      if h.missing.isEmpty then .inr []
      else
        match (if h.on F.NFCTL_degraded_en then fillSlots n h.missing h.spareList else none) with
        | none => .inl (7, 0)
        | some l => .inr l

/-- The device takes its place (R483, R486, R238): index, node size, peers, and the remap of ports around filled slots. -/
def takePlace (h : Hub) (fills : List (Nat × Nat)) : Hub :=
  let n := h.nodeN
  let slot := h.g F.PWRSTRAP_slot
  let mine := if slot < 64 then none else (fills.find? (fun f => f.2 + 64 == slot)).map (·.1)
  let idx := mine.getD (indexOf n slot)
  let h := ((h.p F.HDEVIDX_index idx).p F.HDEVIDX_valid 1).p F.HDEVIDX_spare (b2n (decide (n ≤ idx)))
  let h := (h.p F.NFNODE_active n).p F.NFNODE_spares h.spareList.length
  let whose (s : Nat) : Nat := ((fills.find? (fun f => f.2 + 64 == s)).map (·.1)).getD (indexOf n s)
  let h := h.nf.heard.foldl (fun (h : Hub) (e : Nat × BitVec 7 × BitVec 4) => h.pi F.MOLPSTAT_peer e.1 (whose e.2.1.toNat % 64)) h
  match mine with
  | some d => ((h.spareRemap n (slot - 64) d).devEv 0x0703 4 d).rewriteRoutes
  | none => (fills.foldl (fun (h : Hub) f => h.peerRemap n f.2 f.1) h).rewriteRoutes

/-- The map is evaluated: its digest goes out, the checks decide (R484, R485). A device that comes back to a formed node joins late:
it waits where its identity is held by a spare, a free value, else it joins as a spare (R478, log 34). -/
def evaluate (h : Hub) : Hub :=
  let crc := h.mapCrc
  let t := h.nt
  let h := ({ h with nf := { h.nf with digest := some (crc, t) } } : Hub).emit (.digest crc)
  match h.formCheck with
  | .inl (r, d) => h.stopForm r d
  | .inr fills =>
    if h.nf.coarseNt = 0 then (h.takePlace fills).stageDone 5
    else
      let (v, h) := h.fresh
      if v.getLsbD 0 then ((h.p F.NFSTAT_join_wait 1).p F.NFSTAT_reason 0xC).devEv 0x080C 4 0
      else
        let h := (h.takePlace []).p F.HDEVIDX_spare 1
        (h.devEv 0x0703 4 h.dev).stageDone 5

/-! ### Node time (R487 to R489) -/

/-- The parent of a device for fine exchanges (R488). -/
def parentOf (h : Hub) : Nat :=
  let m := h.g F.NFNODE_master
  let d := h.dev
  if h.on F.HDEVIDX_spare then ((spareLinks (h.g F.NFNODE_active) (d - h.g F.NFNODE_active)).head?).getD m
  else
    match [0, 1, 2].find? (fun k => coord d k != coord m k) with
    | none => d
    | some k => setBits d (2 * k + 1) (2 * k) (coord m k)

/-- The device is its own time reference: it is the master, or in test mode (R488, R496). -/
def ownTime (h : Hub) : Bool := h.on F.NFSTAT_master || h.on F.NFSTAT_test

/-- The magnitude of a signed 16-bit offset. -/
def magnitude (o : BitVec 16) : Nat := o.toInt.natAbs

/-- A fine exchange with the parent gives an offset in ns (R488, R489); an armed NT_OFFSET replaces it, an injected FINE_DROP loses
it (R514). -/
def fineIn (h : Hub) (offset : BitVec 16) : Hub :=
  let lost := decide (h.nt < h.nf.dropNt)
  if !h.stage 6 || h.ownTime || lost then h
  else
    let (o, h) := match h.fireAt 0x28 (fun _ => true) with
      | (some x, h) => (x.b.setWidth 16, h)
      | (none, h) => (offset, h)
    let par := h.parentOf
    let h := (h.p F.NFOFFSET_ns o.toNat).p F.NFOFFSET_parent par
    let t := h.nt
    let h : Hub := { h with nf := { h.nf with good := if magnitude o ≤ 2 then h.nf.good + 1 else 0, fineNt := t, holdNt := none, expired := false } }
    let h := h.p F.NFSTAT_holdover 0
    let h := if h.stage 7 then (h.p F.NFSYNCMAX_ns (max (h.g F.NFSYNCMAX_ns) (magnitude o))).p F.NFSTAT_nt_valid 1 else h
    match (List.range 16).find? (fun p => h.portUp p && h.gi F.MOLPSTAT_peer p == par) with
    | none => h
    | some p => h.emit (.fine (BitVec.ofNat 4 p))

/-- The start value of node time (R487). -/
def ntStart (h : Hub) : Nat :=
  let l := h.nf.recs.foldl (fun m r => max m r.lastNt.toNat) 0
  let g := h.nf.recs.foldl (fun m r => if r.grnNt = 0 then m else max m (r.grnNt.toNat + 1000000000)) 0
  max (h.g F.NFNTINIT_nt) (max l g)

/-- Node time moves forward to `t`. -/
def setNt (h : Hub) (t : Nat) : Hub := { h with nt := if h.nt.toNat < t then BitVec.ofNat 64 t else h.nt, ntEver := true }

/-! ### The Granary's start (R304, R323) -/

/-- The stage starts: without the host region that the map needs, formation stops. -/
def grnStart (h : Hub) : Hub :=
  if h.nf.grnOn || !h.forming 8 || !h.stage 2 then h
  else
    let h : Hub := { h with nf := { h.nf with grnOn := true } }
    if h.g F.GRNHMSIZE_slots < h.g F.GRNHMNEED_slots then h.stopForm 9 else h

/-- The stage starts once it has been asked for and BOOT is done (R479, R498). -/
def askGrn (h : Hub) : Hub := ({ h with nf := { h.nf with grnGo := true } } : Hub).grnStart

/-- Images and slots whose objects lost units are gone. -/
def dropLost (h : Hub) (keys : List Nat) : Hub :=
  let gone (k : Nat) : Bool := keys.contains k
  { h with
    im := { h.im with
      models := h.im.models.filter (fun m => !gone (modelKey m.digest))
      plans := h.im.plans.map (fun e => (e.1, e.2.filter (fun p => !gone (planKey e.1 p.base.toNat))))
      grams := h.im.grams.filter (fun e => !gone (gramKey e.1))
      adapters := h.im.adapters.map (fun e => (e.1, { e.2 with vers := e.2.vers.filter (fun v => !gone (adKey e.1 v.ver)) })) }
    ck := { h.ck with slotA := if gone (objKey 6 0) then none else h.ck.slotA
                      slotB := if gone (objKey 6 1) then none else h.ck.slotB } }

/-- The controller restores its state: clean, or rebuilt with a valid drain, or rebuilt without what the tun held (R323); it fills the hot
set and the host region (R304). -/
def grnReady (h : Hub) (ms : Nat) : Hub :=
  let first := !h.gr.started
  let clean := if first then Config.startClean else h.on F.GRNSTAT_clean
  let valid := if first then Config.drainValid else h.drained
  let h := h.modG (fun g => { g with started := true, drain := none, hot := [], cooled := [], slots := [] })
  let h := h.emit (.mapFill (BitVec.ofNat 64 (h.g F.GRNHMBASE_base * 2 ^ 16)) (h.mapPages - 16384))
  let h := if clean then h
    else
      let h := (h.p F.GRNSTAT_rebuilt 1).p F.GRNREBUILD_ms ms
      if valid then h
      else
        let old := h.gr.objs
        let h := h.tunLost
        let n (k : Nat) : Nat := ((smLook h.gr.objs k).map (fun o => o.units.length)).getD 0
        let lost := (old.filter (fun e => decide (n e.1 < e.2.units.length))).map (·.1)
        ((h.dropLost lost).p F.GRNSTAT_drain_lost 1).devEv 0x0405 4 0
  ((h.p F.GRNSTAT_ready 1).weirs).stageDone 8

/-! ### PLAN and RESTORE (R491, R492) -/

/-- Every image of a slot passes its checks again. -/
def slotGood (h : Hub) (k : Nat) (ps : List Plan) : Bool := planSetOk ps && ps.all (fun p => h.planReason k p == 0)

/-- Images are reloaded from the Granary and measured; plan sets that pass are loaded (R420, R491). -/
def reloadImages (h : Hub) : Hub :=
  let h := h.im.models.foldl (fun h m => h.logBoot 0x11 0 m.secver.toNat m.digest) h
  let h := h.im.grams.foldl (fun h e => h.logBoot 0x12 e.1 e.2.secver.toNat e.2.digest) h
  let h := h.im.adapters.foldl (fun h e => e.2.vers.foldl (fun h v => h.logBoot 0x13 e.1 v.secver.toNat (Config.sha3 v.image)) h) h
  h.im.plans.foldl (fun h e => if h.slotGood e.1 e.2 then e.2.foldl (fun h p => h.addPlan e.1 p) h else h) h

/-- PLAN: `agree` says that every active device holds the slot last active with one set_id. -/
def planStage (h : Hub) (agree weightsOk : Bool) : Hub :=
  let h := h.reloadImages
  let h := match h.nf.lastSlot with
    | none => h
    | some k => if agree && bitsOf (h.g F.POOLPLAN_loaded) k.toNat k.toNat == 1 then h.activatePlan k.toNat else h
  if h.g F.POOLROLE_size ≠ 0 ∧ !weightsOk then h.stopForm 0xB else h.stageDone 9

/-- The units of a session's log that the Granary holds reach `n` tokens; a parent's log serves below fork_index (R48, R296). -/
def logReaches (h : Hub) (key n : Nat) : Nat → Bool
  | 0 => false
  | fuel + 1 =>
    match smLook h.gr.objs key with
    | none => n == 0
    | some o =>
      let own := o.units.filterMap (fun u => (smLook h.gr.units u).map (fun x => x.idx))
      let lo := (o.parent.map (·.2)).getD 0
      let up := match o.parent with
        | none => true
        | some (p, f) => logReaches h p (min f n) fuel
      up && (List.range (cdiv n logEntries)).all (fun k => own.contains k || decide ((k + 1) * logEntries ≤ lo))

/-- Versions that a reset leaves: the one current in each slot (R492). -/
def currentOnly (h : Hub) : Hub :=
  h.im.adapters.foldl (fun h e =>
    let cur := (e.2.vers.filter (fun v => v.commit.isSome && v.ended.isNone)).getLast?
    let drop := e.2.vers.filter (fun v => some v != cur)
    let h := h.setAd e.1 { h.adSlot e.1 with vers := cur.toList }
    drop.foldl (fun h v => h.grnRelease (adKey e.1 v.ver)) h) h

/-- RESTORE by the minutes path; `common` is the epoch that the group's slots have in common (R411, R492). -/
def restoreStage (h : Hub) (common : Option (BitVec 32)) : Hub :=
  let h := h.currentOnly
  if !h.on F.NFCTL_restore_en then
    let h := h.freeKinds [1, 2, 6, 7]
    { h with mirrors := [], ck := { h.ck with slotA := none, slotB := none, bkv := [], sends := [], claims := [], deferred := [] } }
  else
    let h := h.freeKinds [7]
    match (if h.g F.POOLROLE_size = 0 then none else h.slotImg common) with
    | none => h
    | some img =>
      let kv := h.kv
      let gens := h.gens
      let h := h.minutes img common.isSome
      let gens := h.handles.foldl (fun m i => smSet 0 m i.toNat (nsiGen (h.s i).r.nsi)) gens
      let h : Hub := { h with kv := kv, gens := gens }
      let same := h.gi F.PLANSLOT_set_id (h.g F.POOLPLAN_active) == img.setId.toNat
      let h := if same then h else h.handles.foldl (fun h i =>
        if (h.s i).r.state == S.parked && !(h.s i).r.logonly then (h.dropExtent i).modR i (fun r => { r with logonly := true }) else h) h
      let h := h.handles.foldl (fun h i =>
        let d := ((smLook img.sess i.toNat).map (fun x => x.durable.toNat)).getD 0
        if (h.s i).r.state == S.free || h.logReaches (objKey 2 (h.s i).r.nsi.toNat) d (h.gr.objs.length + 1) then h
        else h.modR i (fun r => { r with prior := r.state, state := S.faulted, lastStatus := St.poisoned })) h
      h.restored img 4 none (h.position == 0)

end Hub

/-! ### The commands: POWER to LINK -/

/-- POWER_STAGE: the stagger has elapsed and the boot domains are awake (R464, R479). -/
def execPowerStage (t : Nt) : State → Host.Outcome State Fault Refusal :=
  onHub t (fun h =>
    if h.forming 1 && decide (h.pw.grantAt ≤ h.nt) && Hub.bootDomains.all (fun d => h.powered d) then h.stageDone 1 else h)

/-- BOOT: the ROM starts an image, or stops with BOOT_FAIL (R417, R420, R480). The other domains then ask for tokens (log 35). -/
def execBoot (t : Nt) (imgs : List FwImage) : State → Host.Outcome State Fault Refusal :=
  onHub t (fun h =>
    if !h.forming 2 || !h.stage 1 then h
    else
      match h.bootImage imgs with
      | none => h.stopForm 1
      | some f =>
        let (rom, h) := h.fresh256
        let (prov, h) := h.fresh256
        let h := ((h.logBoot 1 0 0 rom).logBoot 2 0 f.secver.toNat f.digest).logBoot 3 0 0 prov
        let h := h.setReg F.HFWVER_patch.a (BitVec.ofNat 64 (setBits (h.reg F.HFWVER_patch.a).toNat 23 0 f.level.toNat))
        let u := h.nt
        let h : Hub := { h with sec := { h.sec with fwSec := f.secver }
                                nf := { h.nf with bootNt := u, boots := if h.nf.warm then h.nf.boots else h.nf.boots + 1 } }
        let h := h.stageDone 2
        let h := (List.range 16).foldl (fun (h : Hub) n => h.pi F.MOLPSTAT_state n 1) h
        let h := ([2, 3] ++ (List.range 4).map (· + 8) ++ (List.range 32).map (· + 24)).foldl (fun (h : Hub) d => h.wake d) h
        if h.nf.grnGo then h.grnStart else h)

/-- SELFTEST: passed, or a unit failed beyond its spares (R481). -/
def execSelftest (t : Nt) (fail : Option (BitVec 64)) (stoneFail : List (BitVec 2 × BitVec 10)) :
    State → Host.Outcome State Fault Refusal :=
  onHub t (fun h =>
    if !h.forming 3 || !h.stage 2 then h
    else
      match fail with
      | some u => h.stopForm 2 u.toNat
      | none =>
        match h.testedStones stoneFail with
        | none => h.stopForm 2 ((stoneFail.head?.map (fun e => e.1.toNat * 1024 + e.2.toNat)).getD 0)
        | some h => h.stageDone 3)

/-- LINK_WINDOW: every port is up, down or failed; a port that a HELLO has failed stays failed (R482). -/
def execLinkWindow (t : Nt) (states : List (BitVec 3)) : State → Host.Outcome State Fault Refusal :=
  onHub t (fun h =>
    if !h.forming 4 || !h.stage 2 then h
    else
      let u := h.nt
      let h := (List.range 16).foldl (fun (h : Hub) n =>
        let s := (states.getD n 0).toNat
        let h := h.setPort n { h.port n with lastRx := u }
        if h.gi F.MOLPSTAT_state n = 4 then h else h.pi F.MOLPSTAT_state n (if s = 2 ∨ s = 3 ∨ s = 0 then s else 4)) h
      let h := ({ h with nf := { h.nf with linkNt := u } } : Hub).stageDone 4
      h.addRec h.ownRec)

/-- HELLO: a port records its peer, or fails where the node IDs differ (R482). -/
def execHello (t : Nt) (port : BitVec 4) (arg : BitVec 24) : State → Host.Outcome State Fault Refusal :=
  onHub t (fun h =>
    let n := port.toNat
    let a := arg.toNat
    if !h.stage 2 || (smLook h.nf.heard n).isSome then h
    else
      let q : BitVec 7 × BitVec 4 := (BitVec.ofNat 7 (bitsOf a 6 0), BitVec.ofNat 4 (bitsOf a 10 7))
      let h : Hub := { h with nf := { h.nf with heard := smPut h.nf.heard n q } }
      let h := h.pi F.MOLPSTAT_peer_port n (bitsOf a 10 7)
      let h := if bitsOf a 23 12 = h.g F.NFNODEID_id then h else h.pi F.MOLPSTAT_state n 4
      if h.stage 4 then h.addRec h.ownRec else h)

/-- HELLO_SEND (R482). -/
def execHelloSend (t : Nt) (port : BitVec 4) : State → Host.Outcome State Fault Refusal :=
  onHub t (fun h =>
    if h.portUp port.toNat then h.emit (.control port 0x10 (BitVec.ofNat 24 (h.helloArg port.toNat))) else h)

/-! ### TOPOLOGY -/

/-- TOPOLOGY_RECORD: a record that fails its CRC is ignored (R484). -/
def execTopologyRecord (t : Nt) (r : TopoRec) : State → Host.Outcome State Fault Refusal :=
  onHub t (fun h => if r.ok && h.stage 2 && !h.stage 5 then h.addRec r else h)

/-- TOPOLOGY_RESEND: every record goes out again; a round that added nothing counts (R484). -/
def execTopologyResend (t : Nt) : State → Host.Outcome State Fault Refusal :=
  onHub t (fun h =>
    if !h.stage 4 then h
    else
      let h := h.nf.recs.foldl (fun (h : Hub) r => h.emit (.topo r)) h
      { h with nf := { h.nf with quiet := if h.nf.added then 0 else h.nf.quiet + 1, added := false } })

/-- TOPOLOGY_COMPLETE (R484, R485). In test mode the device is index 0 of 16 (R496). -/
def execTopologyComplete (t : Nt) : State → Host.Outcome State Fault Refusal :=
  onHub t (fun h =>
    if !h.forming 5 || !h.stage 4 || h.on F.NFSTAT_join_wait then h
    else if h.on F.NFSTAT_test then
      ((((h.p F.HDEVIDX_index 0).p F.HDEVIDX_valid 1).p F.HDEVIDX_spare 0).p F.NFNODE_active 16).stageDone 5
    else if h.mapComplete then h.evaluate else h)

/-- TOPOLOGY_TIMEOUT: the map is not complete NFTOPOTMO ms after LINK (R484). -/
def execTopologyTimeout (t : Nt) : State → Host.Outcome State Fault Refusal :=
  onHub t (fun h =>
    if !h.forming 5 || !h.stage 4 || h.on F.NFSTAT_join_wait || h.on F.NFSTAT_test then h
    else if h.nf.linkNt.toNat + max 1 (h.g F.NFTOPOTMO_ms) * 1000000 ≤ h.nt.toNat then h.evaluate else h)

/-- MAP_DIGEST: another device's map differs (R484, R498). -/
def execMapDigest (t : Nt) (crc : W64) : State → Host.Outcome State Fault Refusal :=
  onHub t (fun h =>
    match h.nf.digest with
    | none => h
    | some (own, _) => if own != crc && h.stage 0 && !h.stage 11 then h.stopForm 7 else h)

/-! ### Time -/

/-- ELECT: the lowest active index is the master; it sets the start of node time (R487, R496). A device that joins late keeps the
master it has heard. -/
def execElect (t : Nt) : State → Host.Outcome State Fault Refusal :=
  onHub t (fun h =>
    if !h.forming 6 || !h.stage 5 then h
    else
      let late := h.nf.coarseNt != 0
      let h := if late then h else (h.p F.NFNODE_master 0).p F.NFSTAT_master (b2n (h.dev == 0))
      let h := if h.ownTime then h.setNt h.ntStart else h
      let u := h.nt
      (({ h with nf := { h.nf with electNt := u } } : Hub).p F.NFOFFSET_parent h.parentOf).stageDone 6)

/-- SYNC: ten exchanges within ±2 ns (R488); the master and a device in test mode need none. -/
def execSync (t : Nt) : State → Host.Outcome State Fault Refusal :=
  onHub t (fun h =>
    if !h.forming 7 || !h.stage 6 then h
    else if h.ownTime || 10 ≤ h.nf.good then
      let u := h.nt
      (({ h with nf := { h.nf with fineNt := u } } : Hub).p F.NFSTAT_nt_valid 1).stageDone 7
    else h)

/-- SYNC_TIMEOUT (R488). -/
def execSyncTimeout (t : Nt) : State → Host.Outcome State Fault Refusal :=
  onHub t (fun h =>
    if h.forming 7 && h.stage 6 && decide (h.nf.electNt.toNat + 200000000 ≤ h.nt.toNat) then h.stopForm 0xA else h)

/-- COARSE_FRAME: the device aligns to the edge (R488). An armed NT_PAIR makes it fail its CRC (R514). -/
def execCoarseFrame (t : Nt) (edge : Nt) (master : BitVec 8) (flags : BitVec 8) (crcOk : Bool) :
    State → Host.Outcome State Fault Refusal :=
  onHub t (fun h =>
    let (bad, h) := h.fireInj 0x29 (fun _ => true)
    if bad || !crcOk || !h.stage 0 || h.ownTime then h
    else
      let h := if flags.getLsbD 0 then h.p F.NFNODE_master (master.toNat % 64) else h
      let h := if flags.getLsbD 0 || h.stage 6 then h.setNt edge.toNat else h
      let u := h.nt
      if flags.getLsbD 0 then { h with nf := { h.nf with coarseNt := u } } else h)

/-- COARSE_EDGE: the master drives the pair (R488). -/
def execCoarseEdge (t : Nt) : State → Host.Outcome State Fault Refusal :=
  onHub t (fun h =>
    if h.on F.NFSTAT_master && h.stage 6 then
      h.emit (.coarse (BitVec.ofNat 64 (h.nt.toNat / 1000000 * 1000000)) (BitVec.ofNat 8 h.dev)
        (BitVec.ofNat 8 (h.g F.NFSTAT_nt_valid + 2 * h.g F.NFSTAT_holdover)))
    else h)

/-- FINE_EXCHANGE (R488). -/
def execFineExchange (t : Nt) (offset : BitVec 16) : State → Host.Outcome State Fault Refusal :=
  onHub t (fun h => h.fineIn offset)

/-- HOLDOVER: no fine exchange for 20 ms (R489). -/
def execHoldover (t : Nt) : State → Host.Outcome State Fault Refusal :=
  onHub t (fun h =>
    if h.stage 7 && !h.ownTime && !h.on F.NFSTAT_holdover && decide (h.nf.fineNt.toNat + 20000000 ≤ h.nt.toNat) then
      let u := h.nt
      let h := (({ h with nf := { h.nf with holdNt := some u } } : Hub).p F.NFSTAT_holdover 1).inc F.NFHOLDOVERS_count
      h.devEv 0x0820 4 (h.g F.NFOFFSET_parent)
    else h)

/-- HOLDOVER_EXPIRY: 100 ms of holdover (R489). -/
def execHoldoverExpiry (t : Nt) : State → Host.Outcome State Fault Refusal :=
  onHub t (fun h =>
    match h.nf.holdNt with
    | none => h
    | some e =>
      if e.toNat + 100000000 ≤ h.nt.toNat then ({ h with nf := { h.nf with expired := true } } : Hub).p F.NFSTAT_nt_valid 0 else h)

/-- MASTER_SILENCE: the master has been silent on both paths for 3 ms; the lowest active device with valid time takes over (R489). -/
def execMasterSilence (t : Nt) (lowest : BitVec 6) : State → Host.Outcome State Fault Refusal :=
  onHub t (fun h =>
    if !h.stage 7 || h.ownTime || h.nt.toNat < max h.nf.coarseNt.toNat h.nf.fineNt.toNat + 3000000 then h
    else
      let h := h.p F.NFNODE_master lowest.toNat
      if lowest.toNat = h.dev ∧ h.on F.NFSTAT_nt_valid ∧ !h.on F.HDEVIDX_spare then
        let h : Hub := { h with nf := { h.nf with holdNt := none } }
        ((h.p F.NFSTAT_master 1).p F.NFSTAT_holdover 0).devEv 0x0821 4 lowest.toNat
      else h.p F.NFOFFSET_parent h.parentOf)

/-! ### GRANARY to READY -/

/-- GRANARY_START_TIMEOUT: 1.0 s after PERST# deassertion (R479). -/
def execGranaryStartTimeout (t : Nt) : State → Host.Outcome State Fault Refusal :=
  onHub t (fun h => if h.stage 0 && decide (h.nf.t0.toNat + 1000000000 ≤ h.nt.toNat) then h.askGrn else h)

/-- GRANARY_READY: the restored state is in service; `ms` is the rebuild's duration (R323, R490). -/
def execGranaryReady (t : Nt) (ms : BitVec 32) : State → Host.Outcome State Fault Refusal :=
  onHub t (fun h => if h.forming 8 && h.nf.grnOn then h.grnReady ms.toNat else h)

/-- PLAN_STAGE (R491). -/
def execPlanStage (t : Nt) (agree : Bool) (weightsOk : Bool) : State → Host.Outcome State Fault Refusal :=
  onHub t (fun h => if h.forming 9 && h.stage 3 && h.stage 7 && h.stage 8 then h.planStage agree weightsOk else h)

/-- RESTORE_STAGE: PLAN is done on every device (R492). -/
def execRestoreStage (t : Nt) (common : Option (BitVec 32)) : State → Host.Outcome State Fault Refusal :=
  onHub t (fun h => if h.forming 10 && h.stage 9 then (h.restoreStage common).stageDone 10 else h)

/-- READY: every group has taken its first boundary, a cut (R493). -/
def execReady (t : Nt) : State → Host.Outcome State Fault Refusal :=
  onHub t (fun h =>
    if h.forming 11 && h.stage 10 && (h.g F.POOLROLE_size == 0 || !h.ck.first) then
      ((h.p F.NFSTAT_ready 1).p F.NFSTAT_sessions_held 1).stageDone 11
    else h)

end Sys2Proof.Machine
end

