-- ==== Sys2Proof/Machine/Integrity.lean ====
section
/-! DEFINITION. Paired-word scrubs (R375), repairs of Millpond (R381), and the injection commands with the points that fire at once
(R391 to R393, R472, R514). -/

namespace Sys2Proof.Machine

namespace Hub

/-! ### Paired words (R375) -/

/-- The hardened registers (access PW). -/
def pwRegs : List Nat :=
  [F.STONERETIRE_stone.a, F.AIXBANKMAP_bank.a, F.PWRCAP_watts.a, F.NFRESET_code.a]
    ++ (List.range 16).map (fun n => F.MOLLANE_lane.a + F.MOLLANE_lane.stride * n)

/-- The remap tables that are registers. -/
def remapRegs : List Nat :=
  (List.range 16).map (fun n => F.MOLREMAP_primary.a + F.MOLREMAP_primary.stride * n)
    ++ (List.range 8).map (fun k => F.INTHBMMAP_spare0.a + F.INTHBMMAP_spare0.stride * k)
    ++ (List.range 2048).map (fun l => F.STONEMAP_phys.a + 4 * l)

/-- A mismatch is repaired and reported: PW_FAULT with the field's byte offset in its block. -/
def pwFixed (h : Hub) (off : Nat) (injected : Bool) : Hub :=
  ((h.devEv 0x0501 4 (1 + off % 2 ^ 24 * 2 ^ 8 + injBit injected)).inc F.INTPWFIX_count).flag F.INTSTAT_pw_fault 32

/-- Check one register; a mismatch is repaired from the latched copy or the source, which is the value half (log 36). -/
def pwCheck (h : Hub) (a : Nat) : Hub :=
  let v := (h.reg a).toNat
  if pairOk 16 v then h else (h.setReg a (BitVec.ofNat 64 (pairOf 16 (bitsOf v 15 0)))).pwFixed (a % 2 ^ 14) false

/-- The pass over registers and remap tables, with the armed points that corrupt them (R392). -/
def pwPass (h : Hub) : Hub :=
  let h := match h.fireAt 0x13 (fun x => pwRegs.contains (x.a.toNat + x.b.toNat)) with
    | (some x, h) => h.pwFixed x.b.toNat true
    | (none, h) => h
  let h := match h.fireAt 0x14 (fun _ => true) with
    | (some _, h) =>
      let (v, h) := h.fresh
      h.pwFixed v.toNat true
    | (none, h) => h
  let h := (pwRegs ++ remapRegs).foldl (fun h a => h.pwCheck a) h
  (List.range 32).foldl (fun (h : Hub) q =>
    let v := (h.seqMap.getD q 0).toNat
    if pairOk 8 v then h
    else
      let (u, h) := h.fresh
      ({ h with seqMap := h.seqMap.set q (BitVec.ofNat 16 (pairOf 8 (bitsOf v 7 0))) } : Hub).pwFixed u.toNat false) h

/-- The pass over the records (R35). -/
def recPass (h : Hub) : Hub :=
  h.handles.foldl (fun h i =>
    if (h.s i).r.state == S.free then h else h.useRec i) h

/-- The pass over the root entries: DIR and RINGT of every shard (R35, R64). -/
def rootPass (h : Hub) : Hub :=
  h.handles.foldl (fun h i =>
    if (h.s i).r.state == S.free || h.rootsOk (h.s i).r then h else (h.faultSess i St.recordFault 0x30).settled i) h

/-! ### Millpond (R379, R381) -/

/-- The lower free spare channel of a stack. -/
def freeSpare (h : Hub) (k : Nat) : Option Nat :=
  let busy := (h.chCopy ++ h.chReady).filterMap (fun c => if c.1 = k then some c.2.2 else none)
  let used (n : Nat) : Bool := if n = 0 then h.gi F.INTHBMMAP_spare0 k != 0x3F else h.gi F.INTHBMMAP_spare1 k != 0x3F
  [0, 1].find? (fun n => !used n && !busy.contains n)

/-- A channel fails: it is copied to a spare, or stays in service (R381). -/
def chanFail (h : Hub) (k c : Nat) (injected : Bool := false) : Hub :=
  if 8 ≤ k || 32 ≤ c || !h.on F.INTCTL_chan_spare_en || (h.chCopy ++ h.chReady).any (fun x => x.1 == k && x.2.1 == c) then h
  else
    match h.freeSpare k with
    | some s => { h with chCopy := h.chCopy ++ [(k, c, s)] }
    | none => (h.devEv 0x0603 4 (k + c * 8 + injBit injected)).flag F.INTSTAT_hbm_nospare 32

/-- An uncorrectable error in weights: the step is retracted and the unit is reloaded from the model image in the WEIGHT class (R148,
R361); where that copy is
poisoned too, the group faults (R379). -/
def weightError (h : Hub) (injected : Bool) : Hub :=
  let key := (h.model.map (fun m => modelKey m.digest)).getD 0
  if h.gr.units.any (fun u => u.2.key == key && u.2.poison) then h.raiseFault 9
  else
    let cur := h.grp.cur.map (fun c => { c with chkOk := false })
    let h := { h with grp := { h.grp with cur := cur } }
    (((h.inc F.INTWRELOAD_count).devEv 0x0502 4 (1 + injBit injected)).flag F.INTSTAT_wreload 32).grnAsk 12 unitBytes .weight

/-- The entry that a number chooses from a list. -/
def pick {α : Type} (l : List α) (n : Nat) : Option α := l[n % max 1 l.length]?

/-- A page-table entry is poisoned: its check no longer holds (R66, R379). -/
def spoilEntry (h : Hub) (n : Nat) : Hub :=
  match pick h.kv.roots n with
  | none => h
  | some (k, x) => match pick x.ptes (n / 2 ^ 16) with
    | none => h
    | some (p, e) => { h with kv := { h.kv with roots := smPut h.kv.roots k { x with ptes := smPut x.ptes p (e ^^^ BitVec.ofNat 64 (2 ^ 48)) } } }

/-- A node record or code of an index, or an adjacency block of its current generation, is poisoned (R353). -/
def spoilNode (h : Hub) (n : Nat) (adj : Bool) : Hub :=
  match pick h.qn.idx n with
  | none => h
  | some (k, q) => match pick q.nodes (n / 2 ^ 16), q.gens with
    | some (m, x), g :: old =>
      let q := if adj then { q with gens := { g with badAdj := m :: g.badAdj } :: old } else { q with nodes := smPut q.nodes m { x with bad := true } }
      { h with qn := { h.qn with idx := smPut h.qn.idx k q } }
    | _, _ => h

/-- A token-log entry in a session area is poisoned (R149, R379). -/
def spoilLog (h : Hub) (n : Nat) : Hub :=
  match pick (h.sess.filter (fun e => !e.2.logbuf.isEmpty)) n with
  | none => h
  | some (i, x) =>
    let k := x.r.committed.toNat - x.logbuf.length + n / 2 ^ 18 % x.logbuf.length
    h.modS (BitVec.ofNat 18 i) (fun x => { x with logBad := k :: x.logBad })

/-- An uncorrectable error at a Millpond address. What the address holds is the implementation's carve: a free value chooses among
weights, a page frame, a page-table entry, Quern's nodes and adjacency, a token-log entry and memory that nothing reads (R379, log 2). -/
def hbmError (h : Hub) (injected : Bool) : Hub :=
  let h := h.inc F.INTHBMUE_count
  let (v, h) := h.fresh
  let n := v.toNat / 8
  match v.toNat % 8 with
  | 0 => if h.g F.POOLROLE_size ≠ 0 then h.weightError injected else h
  | 1 => match pick h.kv.frames n with
    | none => h
    | some (k, f) => { h with kv := { h.kv with frames := smPut h.kv.frames k { f with poison := true } } }
  | 2 => h.spoilEntry n
  | 3 => h.spoilNode n false
  | 4 => h.spoilNode n true
  | 5 => h.spoilLog n
  | _ => h

/-! ### Points that fire at once (R392, R472, R514) -/

/-- The points. -/
def atOnce : List Nat := [0x06, 0x07, 0x0A, 0x0E, 0x1B, 0x20, 0x21, 0x23, 0x2A]

/-- What a firing does. -/
def pointAct (h : Hub) (x : Inj) : Hub :=
  let a := x.a.toNat
  let b := x.b.toNat
  let ends (ms : Nat) : Nt := BitVec.ofNat 64 (h.nt.toNat + ms * 1000000)
  match x.point.toNat with
  | 0x06 => h.hbmError true
  | 0x07 => h.chanFail a b true
  | 0x0A => if a < 16 then h.laneFail a b true else h
  | 0x0E => h.poisonUnit b true
  | 0x1B => h.raiseFault 0xB
  | 0x20 =>
    let d := bitsOf b 7 0
    if !sensorKnown a then h
    else (({ h with pw := { h.pw with offs := h.pw.offs ++ [(a, d, ends (bitsOf b 23 8))] } } : Hub).sensed a (h.tempOf a + d) true).capPass
  | 0x21 => ({ h with pw := { h.pw with brkInj := some (ends b) } } : Hub).brakePass true
  | 0x23 => h.powerLost 3
  | 0x2A => { h with nf := { h.nf with dropNt := ends b } }
  | _ => h

/-- A point fires at once: it is recorded and counted, and acts (R391). -/
def fireNow (h : Hub) (x : Inj) : Hub := ((h.devEv 0x0503 4 x.point.toNat).inc F.INTINJFIRE_count).pointAct x

/-- INJECT (R391, R393). -/
def arm (h : Hub) (c : Sub) : Hub :=
  let v := c.line.opd
  let x : Inj := { point := BitVec.ofNat 8 (v 32 1), mode := BitVec.ofNat 8 (v 33 1), count := v 34 2, a := BitVec.ofNat 32 (v 36 4)
                   b := BitVec.ofNat 64 (v 40 8), nt := BitVec.ofNat 64 (v 48 8) }
  if !h.on F.INTCTL_inject_en || 16 ≤ h.inj.length then h.complete c St.badState
  else
    let h := h.complete c St.ok
    if atOnce.contains x.point.toNat && (x.mode != 2 || decide (x.nt ≤ h.nt)) then h.fireNow x
    else { h with inj := h.inj ++ [x] }

/-- Armed points whose time has come fire. -/
def armedDue (h : Hub) : Hub :=
  let due (x : Inj) : Bool := atOnce.contains x.point.toNat && decide (x.nt ≤ h.nt)
  (h.inj.filter due).foldl (fun h x => h.fireNow x) { h with inj := h.inj.filter (fun x => !due x) }

/-- An injected condition ends. -/
def durationEnd (h : Hub) (point : Nat) : Hub :=
  match point with
  | 0x20 =>
    let over_ := h.pw.offs.filter (fun o => decide (o.2.2 ≤ h.nt))
    let h : Hub := { h with pw := { h.pw with offs := h.pw.offs.filter (fun o => !decide (o.2.2 ≤ h.nt)) } }
    over_.foldl (fun (h : Hub) o => h.showTemp o.1 (h.tempOf o.1 - o.2.1)) h
  | 0x21 => if h.pw.brkInj.any (fun e => decide (e ≤ h.nt)) then ({ h with pw := { h.pw with brkInj := none } } : Hub).brakePass else h
  | 0x2A => if h.nf.dropNt ≤ h.nt then { h with nf := { h.nf with dropNt := 0 } } else h
  | _ => h

end Hub

/-! ### The commands -/

/-- PW_SCRUB: pass 0 registers and remap tables, 1 records, 2 root entries (R375). -/
def execPwScrub (t : Nt) (pass : BitVec 2) : State → Host.Outcome State Fault Refusal :=
  onHub t (fun h =>
    match pass.toNat with
    | 0 => h.pwPass
    | 1 => h.recPass
    | 2 => h.rootPass
    | _ => h)

/-- ROW_REPAIR (R381). -/
def execRowRepair (t : Nt) (stack : BitVec 3) (chan : BitVec 6) (row : BitVec 16) : State → Host.Outcome State Fault Refusal :=
  onHub t (fun h =>
    if h.on F.INTCTL_row_rep_en then
      (h.inc F.INTHBMROWREP_count).devEv 0x0601 4 (stack.toNat + chan.toNat * 8 + row.toNat * 2 ^ 16)
    else h)

/-- HBM_CHANNEL_FAIL: by its errors or by its PHY (R381). -/
def execHbmChannelFail (t : Nt) (stack : BitVec 3) (chan : BitVec 6) (_phy : Bool) : State → Host.Outcome State Fault Refusal :=
  onHub t (fun h => h.chanFail stack.toNat chan.toNat)

/-- HBM_CHANNEL_COPY: the copy is complete; the next boundary switches the channel (R381). -/
def execHbmChannelCopy (t : Nt) (stack : BitVec 3) (chan : BitVec 6) : State → Host.Outcome State Fault Refusal :=
  onHub t (fun h =>
    let this (c : Nat × Nat × Nat) : Bool := c.1 == stack.toNat && c.2.1 == chan.toNat
    { h with chCopy := h.chCopy.filter (fun c => !this c), chReady := h.chReady ++ h.chCopy.filter this })

/-- INJECT (R391). -/
def execInject (t : Nt) (w : BitVec 8) (l : CmdLine) : State → Host.Outcome State Fault Refusal :=
  onModule t (fun h => h.line w 0x58 l (fun c h => h.arm c))

/-- INJCANCEL (R391). -/
def execInjcancel (t : Nt) (w : BitVec 8) (l : CmdLine) : State → Host.Outcome State Fault Refusal :=
  onHub t (fun h => h.line w 0x59 l (fun c h => ({ h with inj := [] } : Hub).complete c St.ok))

/-- INJECTION_TIME_REACHED (R391). -/
def execInjectionTimeReached (t : Nt) : State → Host.Outcome State Fault Refusal := onModule t (fun h => h.armedDue)

/-- INJECTION_DURATION_END (R472, R514). -/
def execInjectionDurationEnd (t : Nt) (point : BitVec 8) : State → Host.Outcome State Fault Refusal :=
  onHub t (fun h => h.durationEnd point.toNat)

end Sys2Proof.Machine
end

