-- ==== Sys2Proof/Machine/Writes.lean ====
section
/-! DEFINITION. Stores to BAR0: the access codes (R8, R9, R10, R374, R522), the freezes, and what a store starts: rings, Sluice
settings, retirements, bank and lane swaps, formation stages, the counter latch and the flush; SMBus writes (R470). -/

namespace Sys2Proof.Machine

/-! ### Fields under a write (R9) -/

/-- A field's bits as a mask. -/
def fieldMask (f : FieldRow) : W64 := BitVec.ofNat 64 ((2 ^ (f.hi + 1 - f.lo) - 1) * 2 ^ f.lo)

namespace Hub

/-- The lock bit that governs the block of address `a` (R9, R288). -/
def locked (h : Hub) (a : Nat) : Bool :=
  if 0x44000 ≤ a ∧ a < 0x48000 then h.on F.PWRCTL_lock
  else if 0x48000 ≤ a ∧ a < 0x4C000 then h.on F.NFCTL_lock
  else if 0x4C000 ≤ a ∧ a < 0x50000 then h.on F.DGCTL_lock
  else h.on F.HCTL_lock

/-- The ring of a completion ring's register, or of a stream ring's: which, its number, the offset in its row. -/
def ringAt (a : Nat) : Option (Bool × Nat × Nat) :=
  if 0x2000 ≤ a ∧ a < 0x2200 then some (false, (a - 0x2000) / 0x20, (a - 0x2000) % 0x20)
  else if 0x18100 ≤ a ∧ a < 0x18300 then some (true, (a - 0x18100) / 0x20, (a - 0x18100) % 0x20)
  else none

/-- A field that the state keeps as it is (R144, R288, R304, R393). -/
def frozen (h : Hub) (a : Nat) (f : FieldRow) (v : W64) : Bool :=
  match ringAt a with
  | some (stream, n, o) => h.gi (ringRegs stream).en n == 1 && (o == 0x00 || o == 0x10 || (o == 0x08 && f.lo == 0))
  | none =>
    if a = F.GRNHMBASE_base.a ∨ a = F.GRNHMSIZE_slots.a then h.on F.GRNSTAT_ready
    else if a = F.INTCTL_inject_en.a ∧ f.lo = 0 then v.getLsbD 0 && h.profS && !h.on F.NFSTAT_test
    else false

/-- The register's value with one field written: `m` are the bits that the access covers. -/
def fieldWrite (h : Hub) (a : Nat) (v m : W64) (smb : Bool) (x : W64) (f : FieldRow) : W64 :=
  let k := fieldMask f &&& m
  let stored := (x &&& ~~~k) ||| (v &&& k)
  match f.acc with
  | .rw => if lockBit a f.hi then x ||| (v &&& k) else if h.frozen a f v then x else stored
  | .rwl => if smb || h.locked a || h.frozen a f v then x else stored
  | .w1c => if smb then x else x &&& ~~~(v &&& k)
  | _ => x

/-! ### Paired words (R10, R374) -/

/-- A write to a PW field that is not a valid pair (R374). -/
def pwReject (h : Hub) : Hub := (h.inc F.INTPWREJ_count).flag F.INTSTAT_pw_reject 32

/-- A valid pair is written: it is stored, or it starts what its register names (R212, R213, R235, R335). -/
def pwWrite (h : Hub) (a : Nat) (x : Nat) : Hub :=
  if a = F.STONERETIRE_stone.a then
    let l := x % 2 ^ 11
    if h.gi F.STONESPARE_spares (l / 512) = 0 then h.p F.STONESTAT_retire_rej 1
    else
      let h := h.setReg a (BitVec.ofNat 64 (pairOf 16 l))
      { h with grp := { h.grp with retireQ := h.grp.retireQ ++ [BitVec.ofNat 11 l] } }
  else if F.MOLLANE_lane.a ≤ a ∧ a < F.MOLLANE_lane.a + 0x400 then
    let n := (a - F.MOLLANE_lane.a) / 0x40
    let lane := x % 16
    if !h.portUp n || 8 ≤ lane || !h.on F.MOLCTL_lane_spare_en || h.gi F.MOLLANE_lane n ≠ 0xF
        || h.gi F.MOLPSTAT_state n == 3 || (h.port n).swap.isSome then h
    else h.laneFail n lane
  else if a = F.AIXBANKMAP_bank.a then (if x % 32 < 16 then h.failBank (x % 32) else h)
  else if a = F.NFRESET_code.a then h.setReg a (BitVec.ofNat 64 (pairOf 16 (x % 2 ^ 8)))
  else h.setReg a (BitVec.ofNat 64 (pairOf 16 x))

/-! ### Sluice's settings (R359) -/

/-- A register of Sluice whose change waits for a refill instant. -/
def slWaits (a : Nat) : Bool :=
  a == 0x34008 || a == 0x34014 || a == 0x34018 || a == 0x34030 || a == 0x34034 || a == 0x34038
    || (decide (0x34100 ≤ a) && decide (a < 0x34400)) || (decide (0x34500 ≤ a) && decide (a < 0x34900))

/-- A value out of the range that the field's description states. -/
def slBad (h : Hub) (a v : Nat) : Bool :=
  if a = 0x34008 then v % 1024 == 0 || decide (1000 < v % 1024)
  else if a = 0x3400C then v % 2 ^ 20 == 0
  else if a = 0x34018 then decide (v < 1024)
  else if a = 0x34034 then decide (v % 256 < max 1 ((h.reg 0x34220).toNat % 256))
  else if 0x34100 ≤ a ∧ a < 0x34200 then
    if a % 16 = 0 then decide (v % 2 ^ 24 < 1024) else a % 16 == 8 && decide (v < 1024)
  else if 0x34200 ≤ a ∧ a < 0x342C0 then a % 16 == 0 && v % 256 == 0
  else if 0x34300 ≤ a ∧ a < 0x34400 then
    if a % 16 = 0 then decide (v % 2 ^ 16 < 256) else a % 16 == 8 && decide (v < 256)
  else if 0x34400 ≤ a ∧ a < 0x34480 then a % 8 == 0 && (decide (1000 < v % 1024) || bitsOf v 31 16 == 0)
  else if 0x34500 ≤ a ∧ a < 0x34900 then a % 16 == 8 && v % 2 ^ 16 == 0
  else false

/-- The old value stays in force until the first refill instant after the write. -/
def slHold (h : Hub) (a : Nat) : Hub :=
  let v := (smLook h.sl.force a).map (·.1)
  let t := h.nt
  { h with sl := { h.sl with force := smPut h.sl.force a (v.getD (h.reg a), t) } }

/-! ### What a store starts -/

/-- The limit of a ring is tested again; what waited for room in a completion ring goes on (R141, R285). -/
def ringTested (h : Hub) (stream : Bool) (n : Nat) : Hub :=
  if stream then h.ringLimit stream n else ringFreed h (h.ringLimit stream n) n

/-- A ring is enabled: P is 0, and what waits in its backlog is written (R139, R283, R285). -/
def enableRing (h : Hub) (stream : Bool) (n : Nat) : Hub :=
  let x := h.ring stream n
  let h := (h.pi (ringRegs stream).prod n 0).setRing stream n { x with consumed := 0 }
  (h.drain stream n (x.backlog.length + 1)).ringTested stream n

/-- PARTCTLp.mode after a write of 1: kept only where the window holds a chunk (R218). -/
def modeCheck (h : Hub) (p : Nat) : Hub :=
  let ok := match h.plan with
    | none => false
    | some pl => decide (pl.chunkGr ≤ h.gi F.PARTCTL_window p)
  if h.gi F.PARTCTL_mode p = 1 && !ok then (h.pi F.PARTCTL_mode p 0).pi F.PARTCTL_mode_err p 1 else h

/-- NFCTL.sessions_go: contexts run, and the commands that were held act (R493). -/
def sessionsGo (h : Hub) : Hub :=
  if h.on F.NFSTAT_sessions_held then
    h.handles.foldl (fun (h : Hub) i => h.settled i) (h.p F.NFSTAT_sessions_held 0)
  else h

/-- What follows the store of `v` in the register at `a`, which held `old`. -/
def afterWrite (h : Hub) (a : Nat) (old v : W64) : Hub :=
  match ringAt a with
  | some (stream, n, o) =>
    if o = 0x08 then (if !old.getLsbD 8 && h.gi (ringRegs stream).en n == 1 then h.enableRing stream n else h)
    else if o = 0x1C then h.ringTested stream n
    else h
  | none =>
    if a = F.GRNWEIR_bg_pm.a ∨ a = F.GRNCRIT_crit_pm.a then h.sampleWeir.gcModes
    else if F.PARTCTL_mode.a ≤ a ∧ a < F.PARTCTL_mode.a + 64 then
      (if v.getLsbD 0 then h.modeCheck ((a - F.PARTCTL_mode.a) / 4) else h)
    else if a = F.PWRCTL_brk_en.a then h.brakePass
    else if a = F.NFCTL_lock.a then
      let h := if v.getLsbD 2 then h.askGrn else h
      if v.getLsbD 3 then h.sessionsGo else h
    else if a = F.DGSNAP_go.a then (if v.getLsbD 0 then h.askLatch none else h)
    else if a = F.GRNFLUSH_go.a then (if v.getLsbD 0 then h.orderlyFlush else h)
    else h

/-- A store in the register at `a`: `v` at its place in the register, `m` the bits that the access covers. -/
def regStore (h : Hub) (a : Nat) (r : RegRow) (v m : W64) (smb : Bool := false) : Hub :=
  if r.fields.any (fun f => f.acc == .pw) then
    if pairOk 16 (v.toNat % 2 ^ 32) then h.pwWrite a (v.toNat % 2 ^ 16) else h.pwReject
  else
    let old := h.reg a
    let new := r.fields.foldl (h.fieldWrite a v m smb) old
    let h := if slWaits a && new != old then h.slHold a else h
    let h := if h.slBad a new.toNat then h.p F.SLSTAT_cfg_err 1 else h
    (h.setReg a new).afterWrite a old (v &&& m)

/-- A 32-bit store to a register or to half of a 64-bit one; offsets not listed ignore it (R287). -/
def store32 (h : Hub) (a v : Nat) (smb : Bool := false) : Hub :=
  match regRow a with
  | some r => h.regStore a r (BitVec.ofNat 64 v) 0xFFFFFFFF smb
  | none =>
    match (if 4 ≤ a then regRow (a - 4) else none) with
    | some r => if r.wide then h.regStore (a - 4) r (BitVec.ofNat 64 (v * 2 ^ 32)) 0xFFFFFFFF00000000 smb else h
    | none => h

/-- A 64-bit store: to a 64-bit register, or to two 32-bit ones, the lower first. -/
def store64 (h : Hub) (a v : Nat) : Hub :=
  match regRow a with
  | some r => if r.wide then h.regStore a r (BitVec.ofNat 64 v) (BitVec.allOnes 64) else (h.store32 a (v % 2 ^ 32)).store32 (a + 4) (v / 2 ^ 32)
  | none => (h.store32 a (v % 2 ^ 32)).store32 (a + 4) (v / 2 ^ 32)

/-- A word of the MSI-X table: a vector's address, data or mask bit (log 5); an unmasked vector sends what was pending. -/
def msixStore (h : Hub) (a v : Nat) : Hub :=
  if 0x4000 ≤ a ∧ a < 0x4000 + 16 * 48 ∧ a % 16 = 12 then
    let k := (a - 0x4000) / 16
    let q := smGet {} h.irq k
    let masked := v % 2 == 1
    if !masked && q.pend then
      ({ h with irq := smSet {} h.irq k { q with masked := false, pend := false } }).emit (.msix (BitVec.ofNat 6 k))
    else { h with irq := smSet {} h.irq k { q with masked := masked } }
  else if 0x4000 ≤ a ∧ a < 0x4000 + 16 * 48 ∧ a % 4 = 0 then
    let k := (a - 0x4000) / 16
    let q := smGet {} h.irq k
    let q := if a % 16 = 0 then { q with addr := BitVec.ofNat 64 (setBits q.addr.toNat 31 0 v) }
      else if a % 16 = 4 then { q with addr := BitVec.ofNat 64 (setBits q.addr.toNat 63 32 v) }
      else { q with data := BitVec.ofNat 32 v }
    { h with irq := smSet {} h.irq k q }
  else h

/-- Stores that reach their block: none in reset, and before BOOT is done only those to the host interface and node formation
blocks (R475, R520). -/
def reached (h : Hub) (a : Nat) : Bool :=
  h.stage 0 && !h.nf.portDown && (h.stage 2 || decide (a < 0x10000) || (decide (0x48000 ≤ a) && decide (a < 0x4C000)))

/-- A store to BAR0; one that is not aligned names no listed offset. -/
def store (h : Hub) (a v : Nat) (wide : Bool) : Hub :=
  if !h.reached a then h
  else if wide then
    if a % 8 ≠ 0 then h
    else if a < 0x4000 ∨ 0x5000 ≤ a then h.store64 a v
    else (h.msixStore a (v % 2 ^ 32)).msixStore (a + 4) (v / 2 ^ 32)
  else if a % 4 ≠ 0 then h
  else if a < 0x4000 ∨ 0x5000 ≤ a then h.store32 a (v % 2 ^ 32)
  else h.msixStore a (v % 2 ^ 32)

end Hub

/-! ### The commands -/

/-- HCTL_LOCK (R522). -/
def execHctlLock (t : Nt) (v : BitVec 32) : State → Host.Outcome State Fault Refusal :=
  onHub t (fun h => h.store F.HCTL_lock.a v.toNat false)

/-- PWRCTL_LOCK (R522). -/
def execPwrctlLock (t : Nt) (v : BitVec 32) : State → Host.Outcome State Fault Refusal :=
  onHub t (fun h => h.store F.PWRCTL_lock.a v.toNat false)

/-- NFCTL_LOCK (R522). -/
def execNfctlLock (t : Nt) (v : BitVec 32) : State → Host.Outcome State Fault Refusal :=
  onHub t (fun h => h.store F.NFCTL_lock.a v.toNat false)

/-- DGCTL_LOCK (R522). -/
def execDgctlLock (t : Nt) (v : BitVec 32) : State → Host.Outcome State Fault Refusal :=
  onHub t (fun h => h.store F.DGCTL_lock.a v.toNat false)

/-- GRN_GO: a write of NFCTL (R479). -/
def execGrnGo (t : Nt) (v : BitVec 32) : State → Host.Outcome State Fault Refusal :=
  onHub t (fun h => h.store F.NFCTL_grn_go.a v.toNat false)

/-- SESSIONS_GO: a write of NFCTL (R493). -/
def execSessionsGo (t : Nt) (v : BitVec 32) : State → Host.Outcome State Fault Refusal :=
  onHub t (fun h => h.store F.NFCTL_sessions_go.a v.toNat false)

/-- STONERETIRE (R212, R213). -/
def execStoneretire (t : Nt) (v : BitVec 32) : State → Host.Outcome State Fault Refusal :=
  onHub t (fun h => h.store F.STONERETIRE_stone.a v.toNat false)

/-- MOLLANE (R235). -/
def execMollane (t : Nt) (n : BitVec 4) (v : BitVec 32) : State → Host.Outcome State Fault Refusal :=
  onHub t (fun h => h.store (F.MOLLANE_lane.a + F.MOLLANE_lane.stride * n.toNat) v.toNat false)

/-- AIXBANKMAP (R335). -/
def execAixbankmap (t : Nt) (v : BitVec 32) : State → Host.Outcome State Fault Refusal :=
  onHub t (fun h => h.store F.AIXBANKMAP_bank.a v.toNat false)

/-- DGSNAP (R513). -/
def execDgsnap (t : Nt) (v : BitVec 32) : State → Host.Outcome State Fault Refusal :=
  onHub t (fun h => h.store F.DGSNAP_go.a v.toNat false)

/-- GRNFLUSH (R322). -/
def execGrnflush (t : Nt) (v : BitVec 32) : State → Host.Outcome State Fault Refusal :=
  onHub t (fun h => h.store F.GRNFLUSH_go.a v.toNat false)

/-- STREAM_RING_ENABLE (R139, R144). -/
def execStreamRingEnable (t : Nt) (n : BitVec 4) (v : BitVec 32) : State → Host.Outcome State Fault Refusal :=
  onHub t (fun h => h.store (F.STRSIZE_enable.a + F.STRSIZE_enable.stride * n.toNat) v.toNat false)

/-- COMPLETION_RING_ENABLE (R283, R288). -/
def execCompletionRingEnable (t : Nt) (n : BitVec 4) (v : BitVec 32) : State → Host.Outcome State Fault Refusal :=
  onHub t (fun h => h.store (F.CMPSIZE_enable.a + F.CMPSIZE_enable.stride * n.toNat) v.toNat false)

/-- PARTCTL_MODE (R218). -/
def execPartctlMode (t : Nt) (p : BitVec 4) (v : BitVec 32) : State → Host.Outcome State Fault Refusal :=
  onHub t (fun h => h.store (F.PARTCTL_mode.a + F.PARTCTL_mode.stride * p.toNat) v.toNat false)

/-- REGISTER_WRITE: a store of 4 or 8 bytes in BAR0 (R8, R9, R287); one to NFRESET may reset the module. -/
def execRegisterWrite (t : Nt) (addr : BitVec 20) (v : W64) (wide : Bool) (s : State) : Host.Outcome State Fault Refusal :=
  if addr.toNat = F.NFRESET_code.a then execWarmReset t (v.setWidth 32) s
  else onHub t (fun h => h.store addr.toNat v.toNat wide) s

/-- SMBUS_WRITE: RW and PW fields of the power block while PWRCTL.mgmt_wr_en = 1; any other write sets PWRSTAT.smb_rej (R470). -/
def execSmbusWrite (t : Nt) (off : BitVec 16) (v : BitVec 32) (pecOk : Bool) : State → Host.Outcome State Fault Refusal :=
  onHub t (fun h =>
    let a := F.PWRCTL_mgmt_wr_en.a + off.toNat
    let fits := match regRow a with
      | some r => r.fields.any (fun f => f.acc == .rw || f.acc == .pw)
      | none => false
    if !h.pw.inReg.getLsbD 0 then h
    else if pecOk && h.on F.PWRCTL_mgmt_wr_en && decide (off.toNat < 0x4000) && fits then h.store32 a v.toNat true
    else h.p F.PWRSTAT_smb_rej 1)

end Sys2Proof.Machine
end

