-- ==== Sys2Proof/Machine/Dispatch.lean ====
section
/-! DEFINITION. One arm for each command of the table. -/

namespace Sys2Proof.Machine

/-- The effect of a command on everything but the queue. -/
def exec (i : Instr) (s : State) : Host.Outcome State Fault Refusal :=
  match i with
  | .ticketLoad t h cacheable => Sys2Proof.Machine.execTicketLoad t h cacheable s
  | .keySlotStore t k sk => Sys2Proof.Machine.execKeySlotStore t k sk s
  | .keySlotLoad t k => Sys2Proof.Machine.execKeySlotLoad t k s
  | .ticketWindowStore t off => Sys2Proof.Machine.execTicketWindowStore t off s
  | .memwrptl t w => Sys2Proof.Machine.execMemwrptl t w s
  | .admitSession t w line => Sys2Proof.Machine.execAdmit t w line s
  | .dropCommand t w line => Sys2Proof.Machine.execDropCommand t w line s
  | .intakeCommand t w line => Sys2Proof.Machine.execIntakeCommand t w line s
  | .parkCommand t w line => Sys2Proof.Machine.execParkCommand t w line s
  | .reviveCommand t w line => Sys2Proof.Machine.execReviveCommand t w line s
  | .migrateCommand t w line => Sys2Proof.Machine.execMigrateCommand t w line s
  | .resume t w line => Sys2Proof.Machine.execResume t w line s
  | .signal t w line => Sys2Proof.Machine.execSignal t w line s
  | .update t w line => Sys2Proof.Machine.execUpdate t w line s
  | .bindCommand t w line => Sys2Proof.Machine.execBindCommand t w line s
  | .inspect t w line => Sys2Proof.Machine.execInspect t w line s
  | .reclaim t w line => Sys2Proof.Machine.execReclaim t w line s
  | .stopload t w line => Sys2Proof.Machine.execStopload t w line s
  | .gramload t w line => Sys2Proof.Machine.execGramload t w line s
  | .adapterload t w line => Sys2Proof.Machine.execAdapterload t w line s
  | .progload t w line => Sys2Proof.Machine.execProgload t w line s
  | .progdrop t w line => Sys2Proof.Machine.execProgdrop t w line s
  | .modelload t w line => Sys2Proof.Machine.execModelload t w line s
  | .planload t w line => Sys2Proof.Machine.execPlanload t w line s
  | .plandrop t w line => Sys2Proof.Machine.execPlandrop t w line s
  | .recompose t w line => Sys2Proof.Machine.execRecompose t w line s
  | .evacuate t w line => Sys2Proof.Machine.execEvacuate t w line s
  | .qcreate t w line => Sys2Proof.Machine.execQcreate t w line s
  | .qdestroy t w line => Sys2Proof.Machine.execQdestroy t w line s
  | .qsearchCommand t w line => Sys2Proof.Machine.execQsearchCommand t w line s
  | .qinsertCommand t w line => Sys2Proof.Machine.execQinsertCommand t w line s
  | .qdeleteCommand t w line => Sys2Proof.Machine.execQdeleteCommand t w line s
  | .qfilter t w line => Sys2Proof.Machine.execQfilter t w line s
  | .qmerge t w line => Sys2Proof.Machine.execQmerge t w line s
  | .cutCommand t w line => Sys2Proof.Machine.execCutCommand t w line s
  | .restoreCommand t w line => Sys2Proof.Machine.execRestoreCommand t w line s
  | .attest t w line => Sys2Proof.Machine.execAttest t w line s
  | .sealopen t w line => Sys2Proof.Machine.execSealopen t w line s
  | .sealclose t w line => Sys2Proof.Machine.execSealclose t w line s
  | .sealintake t w line => Sys2Proof.Machine.execSealintake t w line s
  | .keyrotate t w line => Sys2Proof.Machine.execKeyrotate t w line s
  | .partclear t w line => Sys2Proof.Machine.execPartclear t w line s
  | .fuseadv t w line => Sys2Proof.Machine.execFuseadv t w line s
  | .provision t w line => Sys2Proof.Machine.execProvision t w line s
  | .jread t w line => Sys2Proof.Machine.execJread t w line s
  | .bbread t w line => Sys2Proof.Machine.execBbread t w line s
  | .bbsnap t w line => Sys2Proof.Machine.execBbsnap t w line s
  | .ctrsnap t w line => Sys2Proof.Machine.execCtrsnap t w line s
  | .inject t w line => Sys2Proof.Machine.execInject t w line s
  | .injcancel t w line => Sys2Proof.Machine.execInjcancel t w line s
  | .nop t h w => Sys2Proof.Machine.execNop t h w s
  | .br t h w => Sys2Proof.Machine.execBr t h w s
  | .bcc t h w => Sys2Proof.Machine.execBcc t h w s
  | .cbr t h w => Sys2Proof.Machine.execCbr t h w s
  | .cbi t h w => Sys2Proof.Machine.execCbi t h w s
  | .bst t h w => Sys2Proof.Machine.execBst t h w s
  | .loopI t h w => Sys2Proof.Machine.execLoopI t h w s
  | .wait t h w => Sys2Proof.Machine.execWait t h w s
  | .parkInstruction t h w => Sys2Proof.Machine.execParkInstruction t h w s
  | .reviveInstruction t h w => Sys2Proof.Machine.execReviveInstruction t h w s
  | .migrateInstruction t h w => Sys2Proof.Machine.execMigrateInstruction t h w s
  | .fork t h w => Sys2Proof.Machine.execFork t h w s
  | .dropInstruction t h w => Sys2Proof.Machine.execDropInstruction t h w s
  | .getf t h w => Sys2Proof.Machine.execGetf t h w s
  | .setf t h w => Sys2Proof.Machine.execSetf t h w s
  | .intakeInstruction t h w => Sys2Proof.Machine.execIntakeInstruction t h w s
  | .prefill t h w => Sys2Proof.Machine.execPrefill t h w s
  | .step t h w => Sys2Proof.Machine.execStep t h w s
  | .emit t h w => Sys2Proof.Machine.execEmit t h w s
  | .hold t h w => Sys2Proof.Machine.execHold t h w s
  | .bindInstruction t h w => Sys2Proof.Machine.execBindInstruction t h w s
  | .qsearchInstruction t h w => Sys2Proof.Machine.execQsearchInstruction t h w s
  | .qinsertInstruction t h w => Sys2Proof.Machine.execQinsertInstruction t h w s
  | .qdeleteInstruction t h w => Sys2Proof.Machine.execQdeleteInstruction t h w s
  | .mov t h w => Sys2Proof.Machine.execMov t h w s
  | .ldi t h w => Sys2Proof.Machine.execLdi t h w s
  | .lui t h w => Sys2Proof.Machine.execLui t h w s
  | .add t h w => Sys2Proof.Machine.execAdd t h w s
  | .sub t h w => Sys2Proof.Machine.execSub t h w s
  | .andI t h w => Sys2Proof.Machine.execAndI t h w s
  | .orI t h w => Sys2Proof.Machine.execOrI t h w s
  | .xorI t h w => Sys2Proof.Machine.execXorI t h w s
  | .shl t h w => Sys2Proof.Machine.execShl t h w s
  | .shr t h w => Sys2Proof.Machine.execShr t h w s
  | .sar t h w => Sys2Proof.Machine.execSar t h w s
  | .cmp t h w => Sys2Proof.Machine.execCmp t h w s
  | .ntread t h w => Sys2Proof.Machine.execNtread t h w s
  | .post t h w => Sys2Proof.Machine.execPost t h w s
  | .sequencerActivation t h parity => Sys2Proof.Machine.execSequencerActivation t h parity s
  | .mma t l w bad => Sys2Proof.Machine.execMma t l w bad s
  | .mmai t l w bad => Sys2Proof.Machine.execMmai t l w bad s
  | .mqk t l w bad => Sys2Proof.Machine.execMqk t l w bad s
  | .mpv t l w bad => Sys2Proof.Machine.execMpv t l w bad s
  | .mcfg t l w => Sys2Proof.Machine.execMcfg t l w s
  | .vadd t l w bad => Sys2Proof.Machine.execVadd t l w bad s
  | .vsub t l w bad => Sys2Proof.Machine.execVsub t l w bad s
  | .vmul t l w bad => Sys2Proof.Machine.execVmul t l w bad s
  | .vfma t l w bad => Sys2Proof.Machine.execVfma t l w bad s
  | .vdiv t l w bad => Sys2Proof.Machine.execVdiv t l w bad s
  | .vsqrt t l w bad => Sys2Proof.Machine.execVsqrt t l w bad s
  | .vmin t l w bad => Sys2Proof.Machine.execVmin t l w bad s
  | .vmax t l w bad => Sys2Proof.Machine.execVmax t l w bad s
  | .vfn t l w bad => Sys2Proof.Machine.execVfn t l w bad s
  | .vscl t l w bad => Sys2Proof.Machine.execVscl t l w bad s
  | .vcvt t l w bad => Sys2Proof.Machine.execVcvt t l w bad s
  | .vqmx t l w bad => Sys2Proof.Machine.execVqmx t l w bad s
  | .vred t l w bad => Sys2Proof.Machine.execVred t l w bad s
  | .vtree t l w bad => Sys2Proof.Machine.execVtree t l w bad s
  | .vatt t l w bad => Sys2Proof.Machine.execVatt t l w bad s
  | .vcomb t l w bad => Sys2Proof.Machine.execVcomb t l w bad s
  | .xcopy t l w => Sys2Proof.Machine.execXcopy t l w s
  | .xwait t l w => Sys2Proof.Machine.execXwait t l w s
  | .xkvw t l w => Sys2Proof.Machine.execXkvw t l w s
  | .xhub t l w => Sys2Proof.Machine.execXhub t l w s
  | .lsend t l w => Sys2Proof.Machine.execLsend t l w s
  | .lrecv t l w => Sys2Proof.Machine.execLrecv t l w s
  | .lput t l w => Sys2Proof.Machine.execLput t l w s
  | .lwait t l w => Sys2Proof.Machine.execLwait t l w s
  | .grain t l w => Sys2Proof.Machine.execGrain t l w s
  | .gcommit t l w => Sys2Proof.Machine.execGcommit t l w s
  | .stepend t l w => Sys2Proof.Machine.execStepend t l w s
  | .stagingTransfer t die idx layer => Sys2Proof.Machine.execStagingTransfer t die idx layer s
  | .stagingLanded t die idx stalled lines => Sys2Proof.Machine.execStagingLanded t die idx stalled lines s
  | .deviceReady t => Sys2Proof.Machine.execDeviceReady t s
  | .gather t h logits poison => Sys2Proof.Machine.execGather t h logits poison s
  | .hostDraftRead t h ok data => Sys2Proof.Machine.execHostDraftRead t h ok data s
  | .boundaryFrame t fr => Sys2Proof.Machine.execBoundaryFrame t fr s
  | .stepBoundary t => Sys2Proof.Machine.execStepBoundary t s
  | .waitTimeout t h => Sys2Proof.Machine.execWaitTimeout t h s
  | .holdTimeout t h => Sys2Proof.Machine.execHoldTimeout t h s
  | .ttlExpire t h => Sys2Proof.Machine.execTtlExpire t h s
  | .hopperIntake t rd => Sys2Proof.Machine.execHopperIntake t rd s
  | .writeDurable t id => Sys2Proof.Machine.execWriteDurable t id s
  | .extentRead t h ok => Sys2Proof.Machine.execExtentRead t h ok s
  | .backlogDrain t p consumed => Sys2Proof.Machine.execBacklogDrain t p consumed s
  | .completionBacklogDrain t p consumed => Sys2Proof.Machine.execCompletionBacklogDrain t p consumed s
  | .consumedWordRetry t stream p consumed => Sys2Proof.Machine.execConsumedWordRetry t stream p consumed s
  | .writeRetry t id ok => Sys2Proof.Machine.execWriteRetry t id ok s
  | .quantizedCompletion t => Sys2Proof.Machine.execQuantizedCompletion t s
  | .interruptHoldoff t v => Sys2Proof.Machine.execInterruptHoldoff t v s
  | .offer t src m => Sys2Proof.Machine.execOffer t src m s
  | .accept t src sk => Sys2Proof.Machine.execAccept t src sk s
  | .refuse t src sk reason => Sys2Proof.Machine.execRefuse t src sk reason s
  | .part t src sk body crcOk => Sys2Proof.Machine.execPart t src sk body crcOk s
  | .ack t src sk epoch nsi => Sys2Proof.Machine.execAck t src sk epoch nsi s
  | .probe t src sk epoch => Sys2Proof.Machine.execProbe t src sk epoch s
  | .probeReply t src sk held => Sys2Proof.Machine.execProbeReply t src sk held s
  | .release t src sk epoch => Sys2Proof.Machine.execRelease t src sk epoch s
  | .event t src nsi bit => Sys2Proof.Machine.execEvent t src nsi bit s
  | .mirror t src m => Sys2Proof.Machine.execMirror t src m s
  | .adapter t src m => Sys2Proof.Machine.execAdapter t src m s
  | .drainPage t src epoch page data last => Sys2Proof.Machine.execDrainPage t src epoch page data last s
  | .drainDone t pos epoch => Sys2Proof.Machine.execDrainDone t pos epoch s
  | .drainSettled t src sk => Sys2Proof.Machine.execDrainSettled t src sk s
  | .drainRestored t src cutNt => Sys2Proof.Machine.execDrainRestored t src cutNt s
  | .buddy t src epoch key data => Sys2Proof.Machine.execBuddy t src epoch key data s
  | .ackTimeout t h => Sys2Proof.Machine.execAckTimeout t h s
  | .offerTimeout t h => Sys2Proof.Machine.execOfferTimeout t h s
  | .stagingTimeout t sk => Sys2Proof.Machine.execStagingTimeout t sk s
  | .probeInterval t sk => Sys2Proof.Machine.execProbeInterval t sk s
  | .adapterCommit t slot => Sys2Proof.Machine.execAdapterCommit t slot s
  | .bindingReport t slot ver => Sys2Proof.Machine.execBindingReport t slot ver s
  | .adapterFree t slot ver others => Sys2Proof.Machine.execAdapterFree t slot ver others s
  | .effectiveNt t => Sys2Proof.Machine.execEffectiveNt t s
  | .recomposeTimeout t => Sys2Proof.Machine.execRecomposeTimeout t s
  | .planActivation t slot => Sys2Proof.Machine.execPlanActivation t slot s
  | .ownSlotWrite t => Sys2Proof.Machine.execOwnSlotWrite t s
  | .autoRestore t info => Sys2Proof.Machine.execAutoRestore t info s
  | .nandProgram t => Sys2Proof.Machine.execNandProgram t s
  | .programFailure t die block => Sys2Proof.Machine.execProgramFailure t die block s
  | .blockVerify t die block pct => Sys2Proof.Machine.execBlockVerify t die block pct s
  | .gcIdle t => Sys2Proof.Machine.execGcIdle t s
  | .gcRelocate t die => Sys2Proof.Machine.execGcRelocate t die s
  | .victimErase t die block ok => Sys2Proof.Machine.execVictimErase t die block ok s
  | .staticWearLevel t die => Sys2Proof.Machine.execStaticWearLevel t die s
  | .granaryRead t unit res => Sys2Proof.Machine.execGranaryRead t unit res s
  | .mapPageFetch t page res => Sys2Proof.Machine.execMapPageFetch t page res s
  | .mapPageRebuild t page => Sys2Proof.Machine.execMapPageRebuild t page s
  | .mapCheckpoint t => Sys2Proof.Machine.execMapCheckpoint t s
  | .grnflush t v => Sys2Proof.Machine.execGrnflush t v s
  | .quernSearchStart t => Sys2Proof.Machine.execQuernSearchStart t s
  | .quernResult t unreadable => Sys2Proof.Machine.execQuernResult t unreadable s
  | .quernIndexFree t idx => Sys2Proof.Machine.execQuernIndexFree t idx s
  | .mergeCommit t idx => Sys2Proof.Machine.execMergeCommit t idx s
  | .bankSwap t bank => Sys2Proof.Machine.execBankSwap t bank s
  | .aixScrub t bad => Sys2Proof.Machine.execAixScrub t bad s
  | .pwScrub t pass => Sys2Proof.Machine.execPwScrub t pass s
  | .rowRepair t stack chan row => Sys2Proof.Machine.execRowRepair t stack chan row s
  | .hbmChannelFail t stack chan phy => Sys2Proof.Machine.execHbmChannelFail t stack chan phy s
  | .hbmChannelCopy t stack chan => Sys2Proof.Machine.execHbmChannelCopy t stack chan s
  | .sweepRewrite t h unit => Sys2Proof.Machine.execSweepRewrite t h unit s
  | .keyRetire t h => Sys2Proof.Machine.execKeyRetire t h s
  | .trngHealthTest t pass => Sys2Proof.Machine.execTrngHealthTest t pass s
  | .refillInstant t => Sys2Proof.Machine.execRefillInstant t s
  | .drrSend t path => Sys2Proof.Machine.execDrrSend t path s
  | .sampleInstant t => Sys2Proof.Machine.execSampleInstant t s
  | .staticFrame t port fr => Sys2Proof.Machine.execStaticFrame t port fr s
  | .nak t port lseq => Sys2Proof.Machine.execNak t port lseq s
  | .acknowledgment t port lseq => Sys2Proof.Machine.execAcknowledgment t port lseq s
  | .credit t port q n => Sys2Proof.Machine.execCredit t port q n s
  | .laneSwap t port => Sys2Proof.Machine.execLaneSwap t port s
  | .laneLockLoss t port lane => Sys2Proof.Machine.execLaneLockLoss t port lane s
  | .symbolWindow t port lane symbols => Sys2Proof.Machine.execSymbolWindow t port lane symbols s
  | .portSilence t port => Sys2Proof.Machine.execPortSilence t port s
  | .groupFaultFrame t src cause => Sys2Proof.Machine.execGroupFaultFrame t src cause s
  | .hello t port arg => Sys2Proof.Machine.execHello t port arg s
  | .helloSend t port => Sys2Proof.Machine.execHelloSend t port s
  | .topologyRecord t r => Sys2Proof.Machine.execTopologyRecord t r s
  | .topologyResend t => Sys2Proof.Machine.execTopologyResend t s
  | .mapDigest t crc => Sys2Proof.Machine.execMapDigest t crc s
  | .coarseFrame t edge master flags crcOk => Sys2Proof.Machine.execCoarseFrame t edge master flags crcOk s
  | .coarseEdge t => Sys2Proof.Machine.execCoarseEdge t s
  | .fineExchange t offset => Sys2Proof.Machine.execFineExchange t offset s
  | .holdover t => Sys2Proof.Machine.execHoldover t s
  | .holdoverExpiry t => Sys2Proof.Machine.execHoldoverExpiry t s
  | .masterSilence t lowest => Sys2Proof.Machine.execMasterSilence t lowest s
  | .powerOnReset t slot testen => Sys2Proof.Machine.execPowerOnReset t slot testen s
  | .perstAssert t => Sys2Proof.Machine.execPerstAssert t s
  | .perstDeassert t slot testen => Sys2Proof.Machine.execPerstDeassert t slot testen s
  | .warmReset t v => Sys2Proof.Machine.execWarmReset t v s
  | .cxlPortReset t => Sys2Proof.Machine.execCxlPortReset t s
  | .clockDomainReset t cls dom entries => Sys2Proof.Machine.execClockDomainReset t cls dom entries s
  | .clockStop t cls dom => Sys2Proof.Machine.execClockStop t cls dom s
  | .clockWake t cls dom ns => Sys2Proof.Machine.execClockWake t cls dom ns s
  | .rateWindow t die msps => Sys2Proof.Machine.execRateWindow t die msps s
  | .inputInRegulation t inp => Sys2Proof.Machine.execInputInRegulation t inp s
  | .powerLoss t cause => Sys2Proof.Machine.execPowerLoss t cause s
  | .fuseOpen t k => Sys2Proof.Machine.execFuseOpen t k s
  | .powerRestart t => Sys2Proof.Machine.execPowerRestart t s
  | .pwrbrkAssert t => Sys2Proof.Machine.execPwrbrkAssert t s
  | .pwrbrkDeassert t => Sys2Proof.Machine.execPwrbrkDeassert t s
  | .tjWarn t sensor degc => Sys2Proof.Machine.execTjWarn t sensor degc s
  | .tjWarnClear t degc => Sys2Proof.Machine.execTjWarnClear t degc s
  | .thermalTrip t sensor degc => Sys2Proof.Machine.execThermalTrip t sensor degc s
  | .tripRecovery t degc => Sys2Proof.Machine.execTripRecovery t degc s
  | .tokenRefill t => Sys2Proof.Machine.execTokenRefill t s
  | .wakeGrant t => Sys2Proof.Machine.execWakeGrant t s
  | .powerWindow t ins => Sys2Proof.Machine.execPowerWindow t ins s
  | .vcoreStep t => Sys2Proof.Machine.execVcoreStep t s
  | .smbusRead t off => Sys2Proof.Machine.execSmbusRead t off s
  | .smbusWrite t off v pecOk => Sys2Proof.Machine.execSmbusWrite t off v pecOk s
  | .bbConsole t die => Sys2Proof.Machine.execBbConsole t die s
  | .bbCopy t => Sys2Proof.Machine.execBbCopy t s
  | .counterLatch t => Sys2Proof.Machine.execCounterLatch t s
  | .powerStage t => Sys2Proof.Machine.execPowerStage t s
  | .boot t imgs => Sys2Proof.Machine.execBoot t imgs s
  | .selftest t fail stoneFail => Sys2Proof.Machine.execSelftest t fail stoneFail s
  | .linkWindow t states => Sys2Proof.Machine.execLinkWindow t states s
  | .topologyComplete t => Sys2Proof.Machine.execTopologyComplete t s
  | .topologyTimeout t => Sys2Proof.Machine.execTopologyTimeout t s
  | .elect t => Sys2Proof.Machine.execElect t s
  | .sync t => Sys2Proof.Machine.execSync t s
  | .syncTimeout t => Sys2Proof.Machine.execSyncTimeout t s
  | .grnGo t v => Sys2Proof.Machine.execGrnGo t v s
  | .granaryStartTimeout t => Sys2Proof.Machine.execGranaryStartTimeout t s
  | .granaryReady t ms => Sys2Proof.Machine.execGranaryReady t ms s
  | .planStage t agree weightsOk => Sys2Proof.Machine.execPlanStage t agree weightsOk s
  | .restoreStage t common => Sys2Proof.Machine.execRestoreStage t common s
  | .ready t => Sys2Proof.Machine.execReady t s
  | .sessionsGo t v => Sys2Proof.Machine.execSessionsGo t v s
  | .hctlLock t v => Sys2Proof.Machine.execHctlLock t v s
  | .pwrctlLock t v => Sys2Proof.Machine.execPwrctlLock t v s
  | .nfctlLock t v => Sys2Proof.Machine.execNfctlLock t v s
  | .dgctlLock t v => Sys2Proof.Machine.execDgctlLock t v s
  | .stoneretire t v => Sys2Proof.Machine.execStoneretire t v s
  | .mollane t n v => Sys2Proof.Machine.execMollane t n v s
  | .aixbankmap t v => Sys2Proof.Machine.execAixbankmap t v s
  | .dgsnap t v => Sys2Proof.Machine.execDgsnap t v s
  | .streamRingEnable t n v => Sys2Proof.Machine.execStreamRingEnable t n v s
  | .completionRingEnable t n v => Sys2Proof.Machine.execCompletionRingEnable t n v s
  | .partctlMode t p v => Sys2Proof.Machine.execPartctlMode t p v s
  | .registerWrite t addr v wide => Sys2Proof.Machine.execRegisterWrite t addr v wide s
  | .unknownOpcodeLine t w op line => Sys2Proof.Machine.execUnknownOpcodeLine t w op line s
  | .itomwrComplete t id ok => Sys2Proof.Machine.execItomwrComplete t id ok s
  | .rdcurrComplete t id data => Sys2Proof.Machine.execRdcurrComplete t id data s
  | .dynamicFrame t port fr => Sys2Proof.Machine.execDynamicFrame t port fr s
  | .frameCheckFailure t port symbols => Sys2Proof.Machine.execFrameCheckFailure t port symbols s
  | .ideKm t => Sys2Proof.Machine.execIdeKm t s
  | .cxlLinkUp t => Sys2Proof.Machine.execCxlLinkUp t s
  | .injectionTimeReached t => Sys2Proof.Machine.execInjectionTimeReached t s
  | .injectionDurationEnd t point => Sys2Proof.Machine.execInjectionDurationEnd t point s

end Sys2Proof.Machine
end

