-- ==== Sys2Proof/Safety.lean ====
section
/-! DEFINITION. The terms statements use: what reports and the entry into a group fault can change, when a command line is
accepted, the canonical form of the stones' scratch, and which commands act on the stones. -/

namespace Sys2Proof.Machine

/-- A session without what reports and the entry into a group fault change: the commands that wait on it. -/
def Sess.kept (x : Sess) : Sess := { x with actions := [], parkSubs := [], revSubs := [], intakes := 0 }

namespace Hub

/-- The hub without what a register write, an interrupt or something sent changes: its registers, interrupt vectors and
outputs. -/
def calm (h : Hub) : Hub := { h with regs := [], irq := [], out := [] }

/-- The hub without what a report changes: a record put on a ring, an event recorded, a host access issued, an armed injection
point that fires, an interrupt, a cached ticket invalidated. Sessions, images, steps, the Granary and everything else remain. -/
def still (h : Hub) : Hub :=
  { h with regs := [], irq := [], out := [], snoop := [], cring := [], sring := [], nextId := 0, reads := [], writes := []
           free := 0, diag := {}, inj := [], hubBad := false, sec := { h.sec with ctx := [] }, sl := { h.sl with hTok := [] } }

/-- The hub without what reports and the entry into a group fault change (R389): of the latter, the step in progress, the commands
that wait, the queue of intakes and the NT of the fault. -/
def rest (h : Hub) : Hub :=
  { h.still with sess := [], hopq := [], aix := { h.aix with held := [] }
                 grp := { h.grp with cur := none, prev := none, frames := [], ready := none }
                 ck := { h.ck with forced := [], faultNt := none } }

/-- Addresses of the registers that reports and the entry into a group fault write: causes and status of interrupts, counts of
records and of injections fired, the rings' positions and status, the position of the device journal, the group fault's
cause and NT. -/
def reportRegs : List Nat :=
  [F.INTCAUSE_cause.a, F.INTSTAT_rec_check.a, F.INTINJFIRE_count.a, F.TRRECS_count.a, F.TRSTOPS_count.a, F.DGDJPOS_position.a,
    F.POOLSTAT_group_fault.a, F.INTFAULT_cause.a, F.INTFAULTNT_nt.a]
  ++ (List.range 16).map (fun p => F.CMPPROD_p.a + F.CMPPROD_p.stride * p)
  ++ (List.range 16).map (fun p => F.STRPROD_p.a + F.STRPROD_p.stride * p)
  ++ (List.range 16).map (fun p => F.CMPSTAT_overflow.a + F.CMPSTAT_overflow.stride * p)
  ++ (List.range 16).map (fun p => F.STRSTAT_blocked.a + F.STRSTAT_blocked.stride * p)

end Hub

/-! ### Answers -/

/-- The command answers a next state, and `P` holds of it. -/
def Answers (c : Instr) (s : State) (P : State → Prop) : Prop := ∃ t, exec c s = .next t ∧ P t

/-- Nothing but the hub has changed. -/
def HubOnly (s t : State) : Prop := t.stn = s.stn ∧ t.pending = s.pending

/-- Beside reports the hub is as it was, node time moved to the stamp. -/
def OnlyReports (s t : State) (tm : Nt) : Prop := t.hub.still = (s.hub.stamp tm).still

/-- Two hubs that agree beside reports: on every session, on every register that reports do not write, and on all the hub holds. -/
def Hub.alike (a b : Hub) : Prop :=
  (∀ j, (a.s j).kept = (b.s j).kept) ∧ a.rest = b.rest ∧ ∀ r, r ∉ Hub.reportRegs → a.reg r = b.reg r

/-- The command answers a next state: beside reports its hub is `u`, and nothing but the hub has changed. -/
def Becomes (c : Instr) (s : State) (u : Hub) : Prop := Answers c s (fun t => t.hub.alike u ∧ HubOnly s t)

/-- The command answers the next state whose hub is `u`, closed as every command closes: held failures raised, cached tickets
invalidated, output pins following (R281, R373, R448). Nothing but the hub changes. -/
def Ends (c : Instr) (s : State) (u : Hub) : Prop := exec c s = .next { s with hub := Hub.finish s.hub u }

/-- The same, and the hub has sent `o`. -/
def BecomesSending (c : Instr) (s : State) (u : Hub) (o : Out) : Prop :=
  Answers c s (fun t => t.hub.alike u ∧ HubOnly s t ∧ o ∈ t.hub.out)

/-- The command answers with the hub `u`, closed as every command closes, and the stones `stn`. -/
def EndsWith (c : Instr) (s : State) (u : Hub) (stn : Stones) : Prop :=
  exec c s = .next { s with hub := Hub.finish s.hub u, stn := stn }

/-- The module has lost its power: its rails are down, its records and what its stones held are gone, and nothing waits in Hopper (R458). -/
def DownAfter (c : Instr) (s : State) (P : State → Prop) : Prop :=
  Answers c s (fun t => t.hub.pw.off = true ∧ t.hub.pw.ok = false ∧ t.hub.sess = [] ∧ t.hub.hopq = [] ∧ t.stn = {} ∧ t.pending = s.pending ∧ P t)

/-! ### Bundle slots -/

/-- Of all scratch only `n` lines from `D` on of stone `l` may have changed, and the queue is as it was. -/
def ScratchFrame (s t : State) (l : BitVec 11) (D n : Nat) : Prop :=
  (∀ k, k ≠ l → t.stn.get k = s.stn.get k)
  ∧ (∀ i, i < D ∨ D + n ≤ i → (t.stn.get l).line i = (s.stn.get l).line i)
  ∧ t.pending = s.pending

/-- What of a stone a slot leaves that writes scratch alone: its formats and scale, the sums and counts held beside scratch, the leats it
waits for, its grain and its place in the step. -/
def Stone.setup (x : Stone) : Stone := { x with lines := [], poison := [], next := 0, unit := [], inUse := [] }

/-- The hub without what reports, the entry into a group fault, a failed check of the step and a request for a wake token change. -/
def Hub.steady (h : Hub) : Hub :=
  let r := h.rest
  { r with resFails := [], pw := { r.pw with tokens := 0, reqs := [], grantAt := 0, issued := [] } }

/-- Of the hub a slot has changed nothing beside reports, the busy time of its die, the check of the step in progress with the failures
it remembers, the wake tokens of its cluster domain's start with the count of requests held (R463), and the registers `rs`. -/
def HubWorked (tm : Nt) (s t : State) (rs : List Fld) : Prop :=
  (∀ j, t.hub.s j = s.hub.s j)
  ∧ t.hub.steady = (s.hub.stamp tm).steady
  ∧ ∀ a, a ∉ Hub.reportRegs → a ∉ rs.map (·.a) → a ≠ F.PWRWAKEDLY_count.a → t.hub.reg a = s.hub.reg a

/-- A slot has changed at most the `n` lines from `D` on of its stone's scratch and, of the hub, the registers `rs`. -/
def SlotFrame (tm : Nt) (s t : State) (l : BitVec 11) (D n : Nat) (rs : List Fld) : Prop :=
  ScratchFrame s t l D n ∧ (t.stn.get l).setup = (s.stn.get l).setup ∧ HubWorked tm s t rs

/-- Counts of errors that a read of scratch meets (R376). -/
def scratchCounts : List Fld := [F.INTSCRCE_count, F.INTSCRUE_count]

/-- Counts that a matrix slot may raise (R196, R376, R384). -/
def matrixCounts : List Fld := [F.ARITHNAN_count, F.INTMRES_count, F.INTSCRCE_count, F.INTSCRUE_count]

/-- Counts that a vector slot may raise (R196, R376, R384). -/
def vectorCounts : List Fld := [F.ARITHNAN_count, F.INTVRES_count, F.INTSCRCE_count, F.INTSCRUE_count]

/-- An element-wise vector slot: over the 64 × count elements at dst stands `f` of the elements at src1, src2 and dst, all read
before any is written; nothing else changes. -/
def Elementwise (c : Instr) (tm : Nt) (s : State) (l : BitVec 11) (w : W64) (f : F32 → F32 → F32 → F32) : Prop :=
  let x := s.stn.get l
  Answers c s (fun t =>
    (∀ k, k < 64 * wf w 13 6 → (t.stn.get l).f32 (wf w 55 42) k =
      f (x.f32 (wf w 41 28) k) (x.f32 (wf w 27 14) k) (x.f32 (wf w 55 42) k))
    ∧ SlotFrame tm s t l (wf w 55 42) (4 * wf w 13 6) vectorCounts)

/-- The aligned binary tree over the 2 ^ k values from index `a` on (R200): the results of the two halves are combined. -/
def alignedTree (g : F32 → F32 → F32) (x : Nat → F32) : Nat → Nat → F32
  | 0, a => x a
  | k + 1, a => g (alignedTree g x k a) (alignedTree g x k (a + 2 ^ k))

/-! ### Session instructions -/

/-- The word of opcode `op` may run at NT `tm`: the session's program accepts it (R248), the context may execute (R252) and no boundary at
or before that NT is still to be made (R521). -/
def Runs (s : State) (tm : Nt) (i : Handle) (w : W64) (op : Nat) : Prop :=
  iw w 63 56 = op ∧ s.hub.accepts i w = true ∧ s.hub.runs i = true ∧ (s.hub.stamp tm).boundDue = false

/-- The command leaves session `i` as `x`, and beside reports nothing else changes: no other session, no register, nothing the hub
or a stone holds. -/
def RecordOnly (c : Instr) (tm : Nt) (i : Handle) (s : State) (x : Sess) : Prop :=
  Answers c s (fun t =>
    (t.hub.s i).kept = x.kept
    ∧ (∀ j, j ≠ i → (t.hub.s j).kept = (s.hub.s j).kept)
    ∧ t.hub.rest = (s.hub.stamp tm).rest
    ∧ (∀ a, a ∉ Hub.reportRegs → t.hub.reg a = s.hub.reg a)
    ∧ HubOnly s t)

/-- The hub once session `i`, otherwise as in `x`, has blocked on `b`: its context leaves its sequencer's queue (R251, R252). -/
def Hub.blocked (h : Hub) (i : Handle) (x : Sess) (b : Blk) : Hub :=
  { h.setS i { x with blk := some b, runnable := false } with seqq := h.seqq.filter (· != i) }

/-- The command leaves session `i` blocked on `b` and otherwise as `x`; beside reports nothing else changes. -/
def Blocks (c : Instr) (tm : Nt) (i : Handle) (s : State) (x : Sess) (b : Blk) : Prop := Becomes c s ((s.hub.stamp tm).blocked i x b)

/-- A session once an instruction that does not branch has written `v` to its destination. -/
def Sess.wrote (x : Sess) (w v : W64) : Sess :=
  { x with r := { x.r.wReg (BitVec.ofNat 4 (iw w 55 52)) v with pc := x.r.pc + 1 } }

/-- A session once a status-writing instruction that does not branch has completed (R249). -/
def Sess.ended (x : Sess) (st : BitVec 8) (detail : Nat) : Sess := { x with r := { x.r.wStat st detail with pc := x.r.pc + 1 } }

/-- A session whose program has branched to its word's target where `c`, and gone on otherwise. -/
def Sess.branched (x : Sess) (w : W64) (c : Bool) : Sess :=
  { x with r := { x.r with pc := if c then BitVec.ofNat 24 (iw w 23 0) else x.r.pc + 1 } }

/-- `x` stands in the relation of a condition code to `y` (R258). -/
def related (c : Nat) (x y : W64) : Bool :=
  match c with
  | 0 => decide (x = y)
  | 1 => decide (x ≠ y)
  | 2 => decide (x.toInt < y.toInt)
  | 3 => decide (y.toInt ≤ x.toInt)
  | 4 => decide (x.toNat < y.toNat)
  | _ => decide (y.toNat ≤ x.toNat)

/-! ### Command lines -/

/-- The command that a line of window `w` carries, with the partition and tenant of its window (R274, R290). -/
def Hub.subOf (h : Hub) (w op : BitVec 8) (l : CmdLine) : Sub :=
  { op := op, line := l, w := w, part := BitVec.ofNat 4 (h.gi F.CMDWIN_partition w.toNat)
    tenant := BitVec.ofNat 24 (h.gi F.CMDWIN_tenant w.toNat), nt := h.nt }

/-- The line reaches the device and is not discarded (R269, R272, R285, R520). -/
def Hub.hears (h : Hub) (w : BitVec 8) : Bool :=
  h.stage 2 && !h.ideWait && h.on F.HCTL_cmd_en && h.gi F.CMDWIN_enable w.toNat != 0
    && h.gi F.CMPSTAT_overflow (h.gi F.CMDWIN_partition w.toNat) != 1

/-- The hub once a line of window `w` is taken: the window's count and HCMDS rise by one (R272). -/
def Hub.took (h : Hub) (w : BitVec 8) : Hub :=
  let x := smGet {} h.wins w.toNat
  { h with wins := smPut h.wins w.toNat { x with taken := x.taken + 1 } }.inc F.HCMDS_count

/-- A command of a kind that the tenant's policer tests (R366). -/
def policedOp (op : BitVec 8) : Bool := sessionOp op || (0x22 ≤ op.toNat && op.toNat ≤ 0x26)

/-- The hub once a line is taken and policed. -/
def Hub.counted (h : Hub) (w op : BitVec 8) : Hub :=
  if policedOp op then ((h.took w).police (BitVec.ofNat 24 (h.gi F.CMDWIN_tenant w.toNat))).2 else h.took w

/-- A line passes every check of R273 to R275, R366 and R520, and acts. -/
def Hub.admits (h : Hub) (w op : BitVec 8) (l : CmdLine) : Bool :=
  h.hears w && decide (h.waiting w < 1024) && knownOp op && (!adminOp op || (h.took w).gi F.CMDWIN_admin w.toNat != 0)
    && (badByte op l).isNone
    && (!policedOp op || ((h.took w).police (BitVec.ofNat 24 (h.gi F.CMDWIN_tenant w.toNat))).1)
    && (h.counted w op).staged op && !(sessionOp op && (h.counted w op).faulted)

/-- A line acts on session `i` at once: it passes every check and names the session, by its NSI or its key, within its window's tenant
and partition (R31, R275); nothing holds it (R41), no boundary is due before it (R521), no action waits before it, the paired words of
the record and of its root entries are valid (R35, R64), and no injection is armed. -/
def Commands (s : State) (tm : Nt) (w op : BitVec 8) (l : CmdLine) (i : Handle) : Prop :=
  let h := s.hub.stamp tm
  let x := h.s i
  h.admits w op l = true ∧ h.inj = [] ∧ Hub.badPair x.r = none ∧ x.r.state ≠ S.free
  ∧ (l.flags.getLsbD 1 = true → h.findSk l.sk = some i ∧ x.born < h.nt)
  ∧ (l.flags.getLsbD 1 = false → h.findNsi l.nsi = some i)
  ∧ x.r.tenant = (h.subOf w op l).tenant ∧ x.r.part = (h.subOf w op l).part
  ∧ x.actions = [] ∧ x.relHeld = none ∧ x.dropHeld = false ∧ h.mustHold i op l.ops = false ∧ h.rootsOk x.r = true ∧ h.boundDue = false

/-- The command line that a command stores: its time, window, opcode and content. -/
def lineOf (c : Instr) : Option (Nt × BitVec 8 × BitVec 8 × CmdLine) :=
  match c with
  | .admitSession t w l => some (t, w, 0x01, l) | .dropCommand t w l => some (t, w, 0x02, l) | .intakeCommand t w l => some (t, w, 0x03, l)
  | .parkCommand t w l => some (t, w, 0x04, l) | .reviveCommand t w l => some (t, w, 0x05, l)
  | .migrateCommand t w l => some (t, w, 0x06, l) | .resume t w l => some (t, w, 0x07, l) | .signal t w l => some (t, w, 0x08, l)
  | .update t w l => some (t, w, 0x09, l) | .bindCommand t w l => some (t, w, 0x0A, l) | .inspect t w l => some (t, w, 0x0B, l)
  | .reclaim t w l => some (t, w, 0x0C, l) | .stopload t w l => some (t, w, 0x10, l) | .gramload t w l => some (t, w, 0x11, l)
  | .adapterload t w l => some (t, w, 0x12, l) | .progload t w l => some (t, w, 0x13, l) | .progdrop t w l => some (t, w, 0x14, l)
  | .modelload t w l => some (t, w, 0x15, l) | .planload t w l => some (t, w, 0x16, l) | .plandrop t w l => some (t, w, 0x17, l)
  | .recompose t w l => some (t, w, 0x18, l) | .evacuate t w l => some (t, w, 0x19, l) | .qcreate t w l => some (t, w, 0x20, l)
  | .qdestroy t w l => some (t, w, 0x21, l) | .qsearchCommand t w l => some (t, w, 0x22, l)
  | .qinsertCommand t w l => some (t, w, 0x23, l) | .qdeleteCommand t w l => some (t, w, 0x24, l)
  | .qfilter t w l => some (t, w, 0x25, l) | .qmerge t w l => some (t, w, 0x26, l) | .cutCommand t w l => some (t, w, 0x30, l)
  | .restoreCommand t w l => some (t, w, 0x31, l) | .attest t w l => some (t, w, 0x40, l) | .sealopen t w l => some (t, w, 0x41, l)
  | .sealclose t w l => some (t, w, 0x42, l) | .sealintake t w l => some (t, w, 0x43, l) | .keyrotate t w l => some (t, w, 0x44, l)
  | .partclear t w l => some (t, w, 0x45, l) | .fuseadv t w l => some (t, w, 0x46, l) | .provision t w l => some (t, w, 0x47, l)
  | .jread t w l => some (t, w, 0x50, l) | .bbread t w l => some (t, w, 0x51, l) | .bbsnap t w l => some (t, w, 0x52, l)
  | .ctrsnap t w l => some (t, w, 0x53, l) | .inject t w l => some (t, w, 0x58, l) | .injcancel t w l => some (t, w, 0x59, l)
  | _ => none

/-! ### Stores to registers -/

/-- A control register whose bit 31 locks the fields of mask `m`, after a write of `v`: nothing of it changes once it is locked (R522). -/
def lockStored (old v m : W64) : W64 :=
  if old.getLsbD 31 then old else (old &&& ~~~ m) ||| (v &&& (m ||| 0x80000000))

/-- A register whose write starts nothing by itself: no paired word, no lock bit, no setting of Sluice, of a ring, of a partition's mode or of
Weir, no bit that asks for an action, no field that a state of the block freezes. -/
def plainReg (a : Nat) (r : RegRow) : Bool :=
  !r.fields.any (fun f => f.acc == .pw || lockBit a f.hi) && decide (a < 0x34000 ∨ 0x35000 ≤ a) && (Hub.ringAt a).isNone
    && decide (a < F.PARTCTL_mode.a ∨ F.PARTCTL_mode.a + 64 ≤ a)
    && decide (a ∉ [F.GRNWEIR_bg_pm.a, F.GRNCRIT_crit_pm.a, F.PWRCTL_lock.a, F.NFCTL_lock.a, F.DGSNAP_go.a, F.GRNFLUSH_go.a, F.GRNHMBASE_base.a,
      F.GRNHMSIZE_slots.a, F.INTCTL_inject_en.a])

/-- A register's value `x` with one of its fields written by access code (R9), where the access covers the bits `m`: RW takes `v`, RWL
too unless its block is locked, W1C is cleared where `v` is 1, and the others keep their value. -/
def codeStored (locked : Bool) (v m x : W64) (f : FieldRow) : W64 :=
  let k := fieldMask f &&& m
  match f.acc with
  | .rw => (x &&& ~~~ k) ||| (v &&& k)
  | .rwl => if locked then x else (x &&& ~~~ k) ||| (v &&& k)
  | .w1c => x &&& ~~~ (v &&& k)
  | _ => x

/-- A ring's size register after a write of `v`: its size is kept while the ring is enabled (R144, R288). -/
def ringSized (old v : W64) : W64 :=
  let m : W64 := if old.getLsbD 8 then 0x100 else 0x11F
  (old &&& ~~~ m) ||| (v &&& m)

/-- A write to the paired-word register at `a` is ignored and reported (R9, R374): the register keeps its value, INTPWREJ rises by
one, INTSTAT.pw_reject is set. -/
def PairRejected (c : Instr) (tm : Nt) (s : State) (a : Nat) : Prop :=
  Answers c s (fun t =>
    t.hub.reg a = s.hub.reg a ∧ t.hub.g F.INTPWREJ_count = satAdd 64 (s.hub.g F.INTPWREJ_count) 1
    ∧ t.hub.on F.INTSTAT_pw_reject = true ∧ t.hub.rest = (s.hub.stamp tm).rest ∧ (∀ j, (t.hub.s j).kept = (s.hub.s j).kept)
    ∧ HubOnly s t)

/-- The registers with a PW field. -/
def Hub.pairRegs : List Nat :=
  [F.STONERETIRE_stone.a, F.AIXBANKMAP_bank.a, F.PWRCAP_watts.a, F.NFRESET_code.a]
  ++ (List.range 16).map (fun n => F.MOLLANE_lane.a + F.MOLLANE_lane.stride * n)

/-! ### Scheduling -/

/-- A scheduling path's head of queue `q` leaves: its length is taken from the queue's deficit; a queue left empty loses its deficit and the
next one is visited (R357). -/
def Hub.served (h : Hub) (P : Hub.DrrPath) (q : Nat) : Hub :=
  let g := (P.send h q).setDef P q (h.defOf P q - P.len h q)
  if P.none_ g q then (g.setDef P q 0).setPtr P (q + 1) 0 else g

/-- The scheduler that runs on a path (R356): none on the Granary's reads while reads of weights wait, which go first. -/
def Hub.pathOf (h : Hub) (p : SlPath) : Option Hub.DrrPath :=
  match p with
  | .molair n => some (Hub.dynPath n.toNat)
  | .grnWrite => some (Hub.grnPath false)
  | .grnRead => if (smGet [] h.sl.grn 12).isEmpty then some (Hub.grnPath true) else none
  | .host => some Hub.hostPath

/-! ### What a command touches -/

/-- The commands that act on the stones: bundle slots, staging, leat frames, the boundary that swaps stones, wakes of clusters,
a partition's clearing, and the resets. -/
def onStones (c : Instr) : Bool :=
  match c with
  | .mma .. | .mmai .. | .mqk .. | .mpv .. | .mcfg .. | .vadd .. | .vsub .. | .vmul .. | .vfma .. | .vdiv .. | .vsqrt ..
  | .vmin .. | .vmax .. | .vfn .. | .vscl .. | .vcvt .. | .vqmx .. | .vred .. | .vtree .. | .vatt .. | .vcomb .. | .xcopy ..
  | .xwait .. | .xkvw .. | .xhub .. | .lsend .. | .lrecv .. | .lput .. | .lwait .. | .grain .. | .gcommit .. | .stepend ..
  | .stagingLanded .. | .staticFrame .. | .stepBoundary .. | .wakeGrant .. | .partclear .. | .powerOnReset ..
  | .perstAssert .. | .perstDeassert .. | .warmReset .. | .registerWrite .. | .powerLoss .. | .fuseOpen .. | .tjWarn ..
  | .thermalTrip .. | .inject .. | .injectionTimeReached .. => true
  | _ => false

/-- The command carries a word that no image or bundle the device has accepted can hold (R248, R261): the session instruction's
for the program of its session, the slot's for every stone. -/
def unaccepted (h : Hub) (c : Instr) : Bool :=
  let ins (i : Handle) (w : W64) (op : Nat) : Bool := iw w 63 56 != op || !h.accepts i w
  match c with
  | .nop _ i w => ins i w 0x00 | .br _ i w => ins i w 0x01 | .bcc _ i w => ins i w 0x02 | .cbr _ i w => ins i w 0x03
  | .cbi _ i w => ins i w 0x04 | .bst _ i w => ins i w 0x05 | .loopI _ i w => ins i w 0x06 | .wait _ i w => ins i w 0x10
  | .parkInstruction _ i w => ins i w 0x20 | .reviveInstruction _ i w => ins i w 0x21
  | .migrateInstruction _ i w => ins i w 0x22 | .fork _ i w => ins i w 0x23 | .dropInstruction _ i w => ins i w 0x24
  | .getf _ i w => ins i w 0x25 | .setf _ i w => ins i w 0x26 | .intakeInstruction _ i w => ins i w 0x30
  | .prefill _ i w => ins i w 0x31 | .step _ i w => ins i w 0x32 | .emit _ i w => ins i w 0x33 | .hold _ i w => ins i w 0x34
  | .bindInstruction _ i w => ins i w 0x35 | .qsearchInstruction _ i w => ins i w 0x40
  | .qinsertInstruction _ i w => ins i w 0x41 | .qdeleteInstruction _ i w => ins i w 0x42 | .mov _ i w => ins i w 0x50
  | .ldi _ i w => ins i w 0x51 | .lui _ i w => ins i w 0x52 | .add _ i w => ins i w 0x53 | .sub _ i w => ins i w 0x54
  | .andI _ i w => ins i w 0x55 | .orI _ i w => ins i w 0x56 | .xorI _ i w => ins i w 0x57 | .shl _ i w => ins i w 0x58
  | .shr _ i w => ins i w 0x59 | .sar _ i w => ins i w 0x5A | .cmp _ i w => ins i w 0x5B | .ntread _ i w => ins i w 0x60
  | .post _ i w => ins i w 0x70
  | .mma _ _ w _ => !matrixOk 0x01 w | .mmai _ _ w _ => !matrixOk 0x02 w | .mqk _ _ w _ => !matrixOk 0x03 w
  | .mpv _ _ w _ => !matrixOk 0x04 w | .mcfg _ _ w => !matrixOk 0x0F w | .vadd _ _ w _ => !vectorOk 0x01 w
  | .vsub _ _ w _ => !vectorOk 0x02 w | .vmul _ _ w _ => !vectorOk 0x03 w | .vfma _ _ w _ => !vectorOk 0x04 w
  | .vdiv _ _ w _ => !vectorOk 0x05 w | .vsqrt _ _ w _ => !vectorOk 0x06 w | .vmin _ _ w _ => !vectorOk 0x07 w
  | .vmax _ _ w _ => !vectorOk 0x08 w | .vfn _ _ w _ => !vectorOk 0x09 w | .vscl _ _ w _ => !vectorOk 0x0A w
  | .vcvt _ _ w _ => !vectorOk 0x0B w | .vqmx _ _ w _ => !vectorOk 0x0C w | .vred _ _ w _ => !vectorOk 0x0D w
  | .vtree _ _ w _ => !vectorOk 0x0E w | .vatt _ _ w _ => !vectorOk 0x0F w | .vcomb _ _ w _ => !vectorOk 0x10 w
  | .xcopy _ _ w => !moveOk 0x01 w | .xwait _ _ w => !moveOk 0x02 w | .xkvw _ _ w => !moveOk 0x03 w
  | .xhub _ _ w => !moveOk 0x04 w | .lsend _ _ w => !linkOk 0x01 w | .lrecv _ _ w => !linkOk 0x02 w
  | .lput _ _ w => !linkOk 0x03 w | .lwait _ _ w => !linkOk 0x04 w | .grain _ _ w => !linkOk 0x05 w
  | .gcommit _ _ w => !linkOk 0x06 w | .stepend _ _ w => !linkOk 0x07 w
  | _ => false

/-- The canonical form of a stone's scratch: its lines, the sums held beside them, its arrival counts and the leats it waits for,
each listed once and in order, none of the first three zero. -/
def Stone.wf (x : Stone) : Bool := smWf 0 x.lines && smWf 0 x.acc48 && smWf 0 x.arr && keysFrom 0 x.lrecv

/-- Stones listed once and in order, each in its canonical form. -/
def Stones.wf (x : Stones) : Bool := keysFrom 0 x.st && x.st.all (fun e => e.2.wf)

end Sys2Proof.Machine
end

