-- ==== Sys2Proof/Certificates/Slice0/Obligations.lean ====
section
/-! DEFINITION. The statements for the provers. -/

open Sys2Proof Sys2Proof.Machine

/-! ### The block as a whole -/

/-- A step runs the command at the front of the queue on the state with the queue's rest. -/
def Obligations.StepRunsTheFront : Prop :=
  ∀ (c : Instr) (s : State), step { s with pending := c :: s.pending } = exec c s

/-- With no command waiting the block idles. The model's choice: log 1. -/
def Obligations.EmptyQueueIdles : Prop :=
  ∀ s : State, s.pending = [] → step s = .next s

/-- No command changes the queue of those that wait behind it. -/
def Obligations.ExecKeepsTheQueue : Prop :=
  ∀ (c : Instr) (s t : State), exec c s = .next t → t.pending = s.pending

/-- A command answers a next state unless it carries a word that the device refuses to load (R248, R261); it is then undefined and stops
the machine, and no command is refused. -/
def Obligations.OnlyUnacceptedWordsStop : Prop :=
  ∀ (c : Instr) (s : State),
    (unaccepted s.hub c = true → exec c s = .fault .undefinedEncoding)
    ∧ (unaccepted s.hub c = false → ∃ t, exec c s = .next t)

/-- Only bundle slots, staging, leat frames, the boundary that swaps stones, wakes, a partition's clearing and what resets the module or
takes its power touch the stones' scratch. -/
def Obligations.OtherCommandsKeepTheStones : Prop :=
  ∀ (c : Instr) (s t : State), onStones c = false → exec c s = .next t → t.stn = s.stn

/-- Every step keeps the canonical form of the stones' scratch. -/
def Obligations.StepKeepsScratchCanonical : Prop :=
  ∀ s t : State, s.stn.wf = true → step s = .next t → t.stn.wf = true

/-- The stones' scratch is in its canonical form at reset. -/
def Obligations.ResetScratchCanonical : Prop := State.reset.stn.wf = true

/-! ### Bundle slots -/

/-- The element-wise vector slots (R198, R199, R264): every element at dst is the operation on the elements at the sources, read before
any is written; nothing else of any scratch changes, nor of the hub beside reports and the counts of NaNs and of failed checks. -/
def Obligations.VectorElementwise : Prop :=
  ∀ (tm : Nt) (l : BitVec 11) (w : W64) (bad : Bool) (s : State),
    (vectorOk 0x01 w = true → Elementwise (.vadd tm l w bad) tm s l w (fun a b _ => add32 a b))
    ∧ (vectorOk 0x02 w = true → Elementwise (.vsub tm l w bad) tm s l w (fun a b _ => sub32 a b))
    ∧ (vectorOk 0x03 w = true → Elementwise (.vmul tm l w bad) tm s l w (fun a b _ => mul32 a b))
    ∧ (vectorOk 0x04 w = true → Elementwise (.vfma tm l w bad) tm s l w (fun a b d => fma32 a b d))
    ∧ (vectorOk 0x05 w = true → Elementwise (.vdiv tm l w bad) tm s l w (fun a b _ => div32 a b))
    ∧ (vectorOk 0x06 w = true → Elementwise (.vsqrt tm l w bad) tm s l w (fun a _ _ => sqrt32 a))
    ∧ (vectorOk 0x07 w = true → Elementwise (.vmin tm l w bad) tm s l w (fun a b _ => min32 a b))
    ∧ (vectorOk 0x08 w = true → Elementwise (.vmax tm l w bad) tm s l w (fun a b _ => max32 a b))
    ∧ (vectorOk 0x09 w = true → Elementwise (.vfn tm l w bad) tm s l w (fun a _ _ => fn32 (wf w 5 0) a))

/-- VSCL multiplies by element 0 of src2, VRED leaves one value at dst, VATT leaves p and after it the maximum and the exact sum (R202,
R205, R264). VCVT, VQMX, VTREE and VCOMB write the result of their operation from dst on (R85, R192, R193, R200, R264). Nothing else of
any scratch changes, nor of the hub beside reports and the counts of NaNs and of failed checks. -/
def Obligations.VectorScaleConvertReduce : Prop :=
  (∀ (tm : Nt) (l : BitVec 11) (w : W64) (bad : Bool) (s : State),
     let x := s.stn.get l
     let c := wf w 13 6
     let D := wf w 55 42
     let src := x.f32s (wf w 41 28) (64 * c)
     (vectorOk 0x0A w = true → Answers (.vscl tm l w bad) s (fun t =>
       (∀ k, k < 64 * c → (t.stn.get l).f32 D k = mul32 (x.f32 (wf w 41 28) k) (x.f32 (wf w 27 14) 0))
       ∧ SlotFrame tm s t l D (4 * c) vectorCounts))
     ∧ (vectorOk 0x0D w = true → Answers (.vred tm l w bad) s (fun t =>
       (t.stn.get l).f32 D 0 = vred (wf w 5 0) src c ∧ SlotFrame tm s t l D 1 vectorCounts))
     ∧ (vectorOk 0x0F w = true → Answers (.vatt tm l w bad) s (fun t =>
       let m := match src.filter (fun a => a != negInf32) with
         | [] => negInf32
         | a :: rest => rest.foldl max32 a
       let p (a : F32) : F32 := if a == negInf32 then zero32 else exp32 (sub32 a m)
       (∀ k, k < 64 * c → (t.stn.get l).f32 D k = p (x.f32 (wf w 41 28) k))
       ∧ (t.stn.get l).f32 (D + 4 * c) 0 = m
       ∧ (t.stn.get l).f32 (D + 4 * c) 1 = sumOnce ((src.map p).map dec32)
       ∧ SlotFrame tm s t l D (4 * c + 1) vectorCounts)))
  ∧ (∀ (tm : Nt) (l : BitVec 11) (w : W64) (bad : Bool) (s : State),
       let x := s.stn.get l
       let c := wf w 13 6
       let D := wf w 55 42
       let f := wf w 5 0
       let src := x.f32s (wf w 41 28) (64 * c)
       (vectorOk 0x0B w = true → Answers (.vcvt tm l w bad) s (fun t =>
         let n := cdiv (64 * c * fmtBits f) 512
         (t.stn.get l).lines = (x.putBytes D n (packBits (fmtBits f) (src.map (convert f)))).lines
         ∧ SlotFrame tm s t l D n vectorCounts))
       ∧ (vectorOk 0x0C w = true → Answers (.vqmx tm l w bad) s (fun t =>
         let q := (List.range (2 * c)).map (fun k => mxQuant f ((src.drop (32 * k)).take 32))
         let b := packBits (fmtBits f) ((q.map (·.1)).flatten) ++ q.map (fun e => BitVec.ofNat 8 e.2)
         (t.stn.get l).lines = (x.putBytes D (cdiv b.length 64) b).lines
         ∧ SlotFrame tm s t l D (cdiv b.length 64) vectorCounts))
       ∧ (vectorOk 0x0E w = true → Answers (.vtree tm l w bad) s (fun t =>
         let entries := (List.range c).map (fun k => x.f32s (wf w 41 28 + 4 * k) 64)
         let g (a b : List F32) : List F32 :=
           match f with
           | 0 => List.zipWith add32 a b
           | 1 => List.zipWith max32 a b
           | 2 => List.zipWith min32 a b
           | _ => attComb a b
         (t.stn.get l).lines = (x.putF32s D 4 (treeRoot g [] entries)).lines ∧ SlotFrame tm s t l D 4 vectorCounts))
       ∧ (vectorOk 0x10 w = true → Answers (.vcomb tm l w bad) s (fun t =>
         (t.stn.get l).lines = (x.putF32s D (4 * c) (attComb src (x.f32s (wf w 27 14) (64 * c)))).lines
         ∧ SlotFrame tm s t l D (4 * c) vectorCounts)))

/-- A vector reduction (R202): lane j combines its elements in ascending order, starting from +0 for sum and sum of squares, which takes
FMA(x, x, acc), and from minus infinity for max; the 64 lane results are combined by the aligned binary tree, and the root stands at
dst. -/
def Obligations.VectorReduction : Prop :=
  ∀ (tm : Nt) (l : BitVec 11) (w : W64) (bad : Bool) (s : State),
    let x := s.stn.get l
    let c := wf w 13 6
    let D := wf w 55 42
    let e (k : Nat) : F32 := x.f32 (wf w 41 28) k
    let lane (start : F32) (f : F32 → F32 → F32) (j : Nat) : F32 := (List.range c).foldl (fun acc k => f acc (e (j + 64 * k))) start
    let root (op : Nat) (v : F32) : Prop := wf w 5 0 = op → Answers (.vred tm l w bad) s (fun t =>
      (t.stn.get l).f32 D 0 = v ∧ ScratchFrame s t l D 1)
    vectorOk 0x0D w = true →
      root 0 (alignedTree add32 (lane zero32 add32) 6 0)
      ∧ root 1 (alignedTree max32 (lane negInf32 max32) 6 0)
      ∧ root 3 (alignedTree add32 (lane zero32 (fun acc a => fma32 a a acc)) 6 0)

/-- MMA in a floating-point mode (R195, R263): element j of row r of C is the grouped sum of row r of A and column j of B, on top of C
itself where the slot continues a sum. MCFG holds the formats and the score scale (R263). MMAI on INT8 operands (R197, R263): the exact
48-bit sum, on top of the sum held beside C where the slot continues one, is held there again and written to C as FP32, or as a
saturated INT32. In the other formats C takes values that the model leaves free (log 9). Nothing else of any scratch changes, nor of
the hub beside reports and the counts of NaNs and of failed checks. -/
def Obligations.MatrixMultiplies : Prop :=
  (∀ (tm : Nt) (l : BitVec 11) (w : W64) (bad : Bool) (s : State),
     let x := s.stn.get l
     let fa := x.afmt.toNat
     let fb := x.bfmt.toNat
     let K := 32 * wf w 10 3
     let C := wf w 27 14
     (matrixOk 0x01 w = true → Answers (.mma tm l w bad) s (fun t =>
       (∀ r j, fa ≠ 9 → fa ≠ 0xA → r < 2 ^ wf w 13 11 → j < 64 → (t.stn.get l).f32 C (64 * r + j) =
         accGroups (wf w 10 3) (if wf w 2 2 = 1 then x.f32 C (64 * r + j) else zero32)
           (rowVals x (wf w 55 42 + r * rowLines fa K) fa K) (rowVals x (wf w 41 28 + j * rowLines fb K) fb K))
       ∧ SlotFrame tm s t l C (4 * 2 ^ wf w 13 11) matrixCounts))
     ∧ (matrixOk 0x0F w = true → Answers (.mcfg tm l w) s (fun t =>
       (t.stn.get l).setup = { x.setup with afmt := BitVec.ofNat 8 (wf w 7 0), bfmt := BitVec.ofNat 8 (wf w 15 8)
                                            sigma := BitVec.ofNat 32 (wf w 47 16) }
       ∧ ScratchFrame s t l 0 0 ∧ HubWorked tm s t [])))
  ∧ (∀ (tm : Nt) (l : BitVec 11) (w : W64) (bad : Bool) (s : State),
       let x := s.stn.get l
       let K := 32 * wf w 10 3
       let C := wf w 27 14
       let n := 64 * 2 ^ wf w 13 11
       let row (i : Nat) : List Int := (List.range K).map (fun k => sint 8 (x.bitsAt i (8 * k) 8))
       let sum (r j : Nat) : BitVec 48 := BitVec.ofInt 48
         ((if wf w 2 2 = 1 then (smGet 0 x.acc48 (16 * C + (64 * r + j))).toInt else 0)
           + (List.zipWith (· * ·) (row (wf w 55 42 + r * cdiv (8 * K) 512)) (row (wf w 41 28 + j * cdiv (8 * K) 512))).sum)
       matrixOk 0x02 w = true → Answers (.mmai tm l w bad) s (fun t =>
         (∀ r j, x.afmt = 9 → x.bfmt = 9 → r < 2 ^ wf w 13 11 → j < 64 →
           smGet 0 (t.stn.get l).acc48 (16 * C + (64 * r + j)) = sum r j
           ∧ (t.stn.get l).f32 C (64 * r + j) =
             (if wf w 1 1 = 1 then BitVec.ofInt 32 (max (-2147483648) (min 2147483647 (sum r j).toInt)) else rne32 ⟨(sum r j).toInt, 0⟩))
         ∧ (∀ k, k < 16 * C ∨ 16 * C + n ≤ k → smGet 0 (t.stn.get l).acc48 k = smGet 0 x.acc48 k)
         ∧ { (t.stn.get l).setup with acc48 := [] } = { x.setup with acc48 := [] }
         ∧ ScratchFrame s t l C (4 * 2 ^ wf w 13 11) ∧ HubWorked tm s t matrixCounts))

/-- MQK and MPV on a staged block (R205, R263), in the geometry of the active model: the scores of the admitted slots and minus infinity
for the others; the weighted sums over the slots, exact with one rounding. Where the formats are not those of attention the values are
free (log 9). Nothing else of any scratch changes, nor of the hub beside reports and the counts of NaNs and of failed checks. -/
def Obligations.MatrixAttention : Prop :=
  ∀ (tm : Nt) (l : BitVec 11) (w : W64) (bad : Bool) (s : State),
    let x := s.stn.get l
    let Q := s.hub.kvGeom.1
    let d := s.hub.kvGeom.2
    let A := wf w 55 42
    let B := wf w 41 28
    let C := wf w 27 14
    let f := x.bfmt.toNat
    (matrixOk 0x03 w = true → Answers (.mqk tm l w bad) s (fun t =>
      (∀ r u, x.afmt = 0xA → r < 2 ^ wf w 13 11 → u < Q → (t.stn.get l).f32 (C + r * cdiv Q 16) u =
        if bitsOf (x.bitsAt B (fmtBits f * d * Q) 64) u u = 0 then negInf32
        else mul32 (accGroups (d / 32) zero32 ((x.f32s (A + r * cdiv d 16) d).map dec32)
          ((List.range d).map (kvVal x B f Q d u))) x.sigma)
      ∧ SlotFrame tm s t l C (2 ^ wf w 13 11 * cdiv Q 16) matrixCounts))
    ∧ (matrixOk 0x04 w = true → Answers (.mpv tm l w bad) s (fun t =>
      (∀ r e, x.afmt = 0xA → r < 2 ^ wf w 13 11 → e < d → (t.stn.get l).f32 (C + r * cdiv d 16) e =
        sumOnce ((((x.f32s (A + r * cdiv Q 16) Q).map dec32).zipIdx).filterMap (fun p =>
          if p.1.isZero then none else some (p.1.mul (kvVal x B f Q d p.2 e)))))
      ∧ SlotFrame tm s t l C (2 ^ wf w 13 11 * cdiv d 16) matrixCounts))

/-- Move slots (R146, R265): XCOPY copies lines, all read before any is written; XHUB puts the step's admission records into scratch,
filled up with zeros, or leaves scratch where it hands it to the hub; XWAIT leaves scratch and makes the layer of its transfer, where
that is later, the one its die computes. XKVW writes the rows of the positions it names, one layer and side, to the frames of the
stone's shard (R53, R265), and leaves scratch; where no run, model or shard is there it writes nothing. Which positions it names in a
prefill or commit grain is the model's choice (log 126). -/
def Obligations.MoveAndKvSlots : Prop :=
  (∀ (tm : Nt) (l : BitVec 11) (w : W64) (s : State),
     let x := s.stn.get l
     let D := wf w 55 42
     let h := s.hub.stamp tm
     let n := wf w 41 26
     let recs := (s.hub.grp.cur.map (fun c => (c.adms.map admBytes).flatten)).getD []
     let die := l.toNat / 512
     let q := s.hub.grp.issued.getD die (0, 0)
     let layer := max q.2 ((s.hub.layerOf (l.toNat / 512) (wf w 31 0)).getD q.2)
     (moveOk 0x01 w = true → Answers (.xcopy tm l w) s (fun t =>
       (∀ k, k < wf w 27 12 → (t.stn.get l).line (D + k) = x.line (wf w 41 28 + k))
       ∧ SlotFrame tm s t l D (wf w 27 12) scratchCounts))
     ∧ (moveOk 0x02 w = true → Answers (.xwait tm l w) s (fun t =>
       t.hub = { h.busy l 1 with grp := { s.hub.grp with issued := s.hub.grp.issued.set die (q.1, layer) } }
       ∧ ScratchFrame s t l 0 0 ∧ (t.stn.get l).setup = x.setup))
     ∧ (moveOk 0x04 w = true → wf w 25 24 = 0 → Answers (.xhub tm l w) s (fun t => SlotFrame tm s t l 0 0 scratchCounts))
     ∧ (moveOk 0x04 w = true → wf w 25 24 = 1 → Answers (.xhub tm l w) s (fun t =>
       (t.stn.get l).lines = (x.putBytes D n (padTo (64 * n) (recs.take (64 * n)))).lines
       ∧ SlotFrame tm s t l D n scratchCounts)))
  ∧ (∀ (tm : Nt) (l : BitVec 11) (w : W64) (s : State),
       let x := s.stn.get l
       let h := (s.hub.stamp tm).busy l (4 * wf w 15 12)
       let at_ := s.hub.kvTarget (x.grain.map (·.1)) (wf w 41 26)
       let others (t : State) : Prop := (∀ j, t.hub.s j = s.hub.s j)
         ∧ (∀ a, a ∉ [F.KVCOW_copies.a, F.KVSAT_count.a] → t.hub.reg a = s.hub.reg a)
         ∧ { t.hub.rest with kv := {}, ck := {} } = { h.rest with kv := {}, ck := {} }
         ∧ ScratchFrame s t l 0 0 ∧ (t.stn.get l).setup = x.setup
       (∀ (m : Model) (sh : Nat) (a : BitVec 32 × Nat), moveOk 0x03 w = true → s.hub.inj = [] → s.hub.model = some m →
         s.hub.stoneShard l.toNat = some sh → at_ = some a →
         Answers (.xkvw tm l w) s (fun t =>
           let row (k : Nat) : Nat := wf w 55 42 + k * cdiv m.dim 16
           t.hub.kv = ((List.range (wf w 15 12)).foldl (fun (h : Hub) k =>
             h.writeRow m a.1 sh (wf w 16 16) (wf w 25 18) (a.2 + k) (wf w 17 17 == 1) (x.f32s (row k) m.dim)
               (x.anyPoison (row k) (cdiv m.dim 16))) h).kv
           ∧ others t))
       ∧ (moveOk 0x03 w = true → at_ = none ∨ s.hub.model = none ∨ s.hub.stoneShard l.toNat = none →
         Answers (.xkvw tm l w) s (fun t => SlotFrame tm s t l 0 0 scratchCounts)))

/-- LPUT copies lines into another stone's scratch and counts the arrival there (R266). LSEND hands the frames of its leat to the leat's
port while the ports are active (log 157), as many as the replay buffer has room for at once (R234, R243, R266), and does nothing where its entry is not one to send (R222);
LRECV takes the payloads of its leat that have landed and waits for the others (R241); LWAIT changes no scratch. GRAIN opens its grain on
the stone, a grain that did not take its declared steps being a group fault (R267); GCOMMIT adds its id to the step's commits,
as a chunk's in a COMMIT grain; STEPEND marks the stone as ended and sets the place that grains count from (R268). Beside that the hub
changes in counts and reports alone. -/
def Obligations.LinkSlots : Prop :=
  (∀ (tm : Nt) (l : BitVec 11) (w : W64) (s : State),
     let d : BitVec 11 := BitVec.ofNat 11 (wf w 41 31)
     let rest (x : Stone) : Stone := { x.setup with arr := [] }
     linkOk 0x03 w = true → Answers (.lput tm l w) s (fun t =>
       (∀ i, (t.stn.get d).line i =
         if wf w 30 17 ≤ i ∧ i < wf w 30 17 + wf w 16 1 then (s.stn.get l).line (wf w 55 42 + (i - wf w 30 17))
         else (s.stn.get d).line i)
       ∧ (∀ k, smGet 0 (t.stn.get d).arr k = smGet 0 (s.stn.get d).arr k + (if k = l.toNat then (1 : Nat) else 0))
       ∧ (∀ k, k ≠ d → (t.stn.get k).lines = (s.stn.get k).lines ∧ (t.stn.get k).arr = (s.stn.get k).arr)
       ∧ (∀ k, rest (t.stn.get k) = rest (s.stn.get k))
       ∧ (∀ k, k ≠ d → k ≠ l → t.stn.get k = s.stn.get k)
       ∧ HubWorked tm s t scratchCounts ∧ t.pending = s.pending))
  ∧ (∀ (tm : Nt) (l : BitVec 11) (w : W64) (s : State),
       let h := s.hub.stamp tm
       let x := s.stn.get l
       let i := wf w 41 26
       let A := wf w 55 42
       let pay (e : Leat) : List (Bytes × Bool) := (List.range e.frames).map (fun k => (x.bytesAt (A + 8 * k) 512, x.anyPoison (A + 8 * k) 8))
       (∀ e, linkOk 0x01 w = true → s.hub.inj = [] → s.hub.leat i = some e → e.recv = false → Answers (.lsend tm l w) s (fun t =>
         let n := s.hub.portOf e.lport
         let frame (k : Nat) : Frame :=
           { typ := 1, poison := x.anyPoison (A + 8 * k) 8, unconf := true, last := decide (k + 1 = e.frames), src := BitVec.ofNat 6 s.hub.dev
             dst := s.hub.peerOf n, queue := 0, lseq := (s.hub.port n).sendSeq + BitVec.ofNat 32 k
             tag := BitVec.ofNat 32 (i % 2 ^ 16 + s.hub.stepNo % 2 ^ 16 * 2 ^ 16), valid := 511, frag := BitVec.ofNat 22 k
             payload := x.bytesAt (A + 8 * k) 512 }
         t.hub = (h.sendLeat i e (pay e)).busy l e.frames
         ∧ t.stn = landAll t.hub (s.stn.set l (x.issue { unit := unitLink, steps := e.frames, reads := [(A, 8 * e.frames)] }))
         ∧ (s.hub.on F.NFSTAT_test = false → s.hub.on F.MOLCTL_enable = true → n < s.hub.ports.length → (s.hub.port n).replay.length + e.frames ≤ 256 →
           t.hub.out = s.hub.out ++ (List.range e.frames).map (fun k => Out.frame (BitVec.ofNat 4 n) (frame k))
           ∧ t.hub.gi F.MOLSTX_bytes n = satAdd 64 (s.hub.gi F.MOLSTX_bytes n) (512 * e.frames))
         ∧ t.pending = s.pending))
       ∧ (linkOk 0x01 w = true → (∀ e, s.hub.leat i = some e → e.recv = true) → Answers (.lsend tm l w) s (fun t =>
         t.hub = h ∧ SlotFrame tm s t l 0 0 []))
       ∧ (linkOk 0x02 w = true → Answers (.lrecv tm l w) s (fun t =>
         let n := ((s.hub.leat i).map (·.frames)).getD 0
         t.hub = h.busy l n
         ∧ t.stn = landAll t.hub (s.stn.set l
           ({ x with lrecv := smPut x.lrecv i (A, 0) }.issue { unit := unitLink, steps := n, writes := [(A, 8 * n)] }))
         ∧ ((s.hub.landed i).length < n → smLook (t.stn.get l).lrecv i = some (A, (s.hub.landed i).length))
         ∧ (n ≤ (s.hub.landed i).length → s.hub.leat i ≠ none → smLook (t.stn.get l).lrecv i = none) ∧ t.pending = s.pending))
       ∧ (linkOk 0x04 w = true → Answers (.lwait tm l w) s (fun t => SlotFrame tm s t l 0 0 [])))
  ∧ (∀ (tm : Nt) (l : BitVec 11) (w : W64) (s : State),
       let h := s.hub.stamp tm
       let x := s.stn.get l
       let u : SlotUse := { unit := unitLink, steps := 1 }
       let opened := some (BitVec.ofNat 8 (wf w 55 48), BitVec.ofNat 15 (wf w 46 32), BitVec.ofNat 32 (wf w 31 0), x.issueAt u)
       let ended := s.hub.grp.stepEnds ||| 1#2048 <<< l.toNat
       let id := (decide (x.grain.map (·.1) = some 3), BitVec.ofNat 32 (wf w 31 0))
       let took : Prop := ∀ g, x.grain = some g → x.issueAt u - g.2.2.2 = g.2.1.toNat
       (linkOk 0x05 w = true → Answers (.grain tm l w) s (fun t =>
         (t.stn.get l).grain = opened ∧ (∀ k, k ≠ l → t.stn.get k = s.stn.get k) ∧ t.pending = s.pending
         ∧ (took → s.hub.multiPart = false → t.hub = Hub.finish s.hub (h.busy l 1)
           ∧ (∀ k, (t.stn.get l).line k = x.line k) ∧ { (t.stn.get l).setup with grain := none, part := none } =
             { x.setup with grain := none, part := none })
         ∧ (¬ took → s.hub.g F.POOLROLE_size ≠ 0 → t.hub.faulted = true)))
       ∧ (linkOk 0x06 w = true → Answers (.gcommit tm l w) s (fun t =>
         t.hub = { h.busy l 1 with grp := { s.hub.grp with commits := s.hub.grp.commits ++ [id] } }
         ∧ ScratchFrame s t l 0 0 ∧ (t.stn.get l).setup = x.setup))
       ∧ (linkOk 0x07 w = true → Answers (.stepend tm l w) s (fun t =>
         t.hub = { h.busy l 1 with grp := { s.hub.grp with stepEnds := ended } }
         ∧ (t.stn.get l).base = x.issueAt u + 1 ∧ ScratchFrame s t l 0 0
         ∧ { (t.stn.get l).setup with base := 0 } = { x.setup with base := 0 })))

/-- Staging (R146, R147): a transfer issues in its order within the plan's lead, and not otherwise; the landing of one that has issued is
counted with its stalls, the lines it names stand in scratch, without poison unless it brings KV that is bad (R66, R377, log 159), and no
other line has changed; any other changes nothing. -/
def Obligations.Staging : Prop :=
  (∀ (tm : Nt) (die : BitVec 2) (idx : BitVec 32) (layer : BitVec 9) (s : State),
    let h := s.hub.stamp tm
    let q := s.hub.grp.issued.getD die.toNat (0, 0)
    let next (p : Plan) : Prop := s.hub.plan = some p ∧ q.1 = idx.toNat ∧ (s.hub.layerOf die.toNat idx.toNat).getD layer.toNat ≤ q.2 + p.depth.toNat
    (∀ p, next p → exec (.stagingTransfer tm die idx layer) s =
      .next { s with hub := { h with grp := { s.hub.grp with issued := s.hub.grp.issued.set die.toNat (q.1 + 1, q.2) } } })
    ∧ ((∀ p, ¬ next p) → exec (.stagingTransfer tm die idx layer) s = .next { s with hub := h }))
  ∧ (∀ (tm : Nt) (die : BitVec 2) (idx : BitVec 32) (st : BitVec 16) (lines : List (BitVec 11 × BitVec 14 × BitVec 512)) (s : State),
    let h := s.hub.stamp tm
    let due : Prop := idx.toNat < (s.hub.grp.issued.getD die.toNat (0, 0)).1 ∧ (die.toNat, idx.toNat) ∉ s.hub.grp.landed
    let clean : Prop := s.hub.layerOf die.toNat idx.toNat ≠ none ∨ s.hub.kvSpoiled = false
    (due → (lines.map (fun e => (e.1, e.2.1))).Nodup →
      (∀ e ∈ lines, e.1.toNat / 512 = die.toNat ∧ e.2.1.toNat < scratchLines) →
      Answers (.stagingLanded tm die idx st lines) s (fun t =>
        t.hub.g F.TIERWSTALL_count = satAdd 64 (s.hub.g F.TIERWSTALL_count) st.toNat
        ∧ (∀ j, t.hub.s j = s.hub.s j)
        ∧ t.hub.rest = ({ h with grp := { h.grp with landed := h.grp.landed ++ [(die.toNat, idx.toNat)] } } : Hub).rest
        ∧ (∀ a, a ∉ Hub.reportRegs → a ≠ F.TIERWSTALL_count.a → a ≠ F.INTHBMCE_count.a → t.hub.reg a = s.hub.reg a)
        ∧ (∀ e ∈ lines, (t.stn.get e.1).line e.2.1.toNat = e.2.2 ∧ (clean → e.2.1.toNat ∉ (t.stn.get e.1).poison))
        ∧ (∀ l i, (∀ e ∈ lines, e.1 = l → e.2.1.toNat ≠ i) → (t.stn.get l).line i = (s.stn.get l).line i)
        ∧ t.pending = s.pending))
    ∧ (¬ due → exec (.stagingLanded tm die idx st lines) s = .next { s with hub := h }))

/-! ### Session instructions -/

/-- ADD, SUB, the logic and shift operations and CMP (R249, R250, R258): dst takes dst op src, CMP leaves it; Z and N tell the result, C
the carry or the unsigned borrow, V that the signed result does not fit; the PC advances and nothing else changes. MOV, LDI, LUI and
NTREAD (R258): dst takes the source, the immediate zero-extended, its own value with bits [63:48] replaced, or node time; rz discards
it, and no flag changes (R249, R250). -/
def Obligations.SessionArithmeticAndMoves : Prop :=
  (∀ (tm : Nt) (i : Handle) (w : W64) (s : State),
     let x := s.hub.s i
     let a := x.r.rReg (iw w 55 52) 0
     let b := x.r.rReg (iw w 51 48) (iImm w)
     let n := b.toNat % 64
     let fits (k : Int) : Bool := decide (-2 ^ 63 ≤ k ∧ k < 2 ^ 63)
     let flags (v : W64) (c o : Bool) : Sess := { x with r := { x.r with flags := Hub.withFlags x.r.flags (v == 0, v.msb, c, o) } }
     let less := flags (a - b) (decide (a.toNat < b.toNat)) (!fits (a.toInt - b.toInt))
     (Runs s tm i w 0x53 → RecordOnly (.add tm i w) tm i s
       ((flags (a + b) (decide (2 ^ 64 ≤ a.toNat + b.toNat)) (!fits (a.toInt + b.toInt))).wrote w (a + b)))
     ∧ (Runs s tm i w 0x54 → RecordOnly (.sub tm i w) tm i s (less.wrote w (a - b)))
     ∧ (Runs s tm i w 0x55 → RecordOnly (.andI tm i w) tm i s ((flags (a &&& b) false false).wrote w (a &&& b)))
     ∧ (Runs s tm i w 0x56 → RecordOnly (.orI tm i w) tm i s ((flags (a ||| b) false false).wrote w (a ||| b)))
     ∧ (Runs s tm i w 0x57 → RecordOnly (.xorI tm i w) tm i s ((flags (a ^^^ b) false false).wrote w (a ^^^ b)))
     ∧ (Runs s tm i w 0x58 → RecordOnly (.shl tm i w) tm i s ((flags (a <<< n) false false).wrote w (a <<< n)))
     ∧ (Runs s tm i w 0x59 → RecordOnly (.shr tm i w) tm i s ((flags (a >>> n) false false).wrote w (a >>> n)))
     ∧ (Runs s tm i w 0x5A → RecordOnly (.sar tm i w) tm i s ((flags (a.sshiftRight n) false false).wrote w (a.sshiftRight n)))
     ∧ (Runs s tm i w 0x5B → RecordOnly (.cmp tm i w) tm i s { less with r := { less.r with pc := x.r.pc + 1 } }))
  ∧ (∀ (tm : Nt) (i : Handle) (w : W64) (s : State),
       let x := s.hub.s i
       let old := (x.r.rReg (iw w 55 52) 0).toNat
       (Runs s tm i w 0x50 → RecordOnly (.mov tm i w) tm i s (x.wrote w (x.r.rReg (iw w 51 48) 0)))
       ∧ (Runs s tm i w 0x51 → RecordOnly (.ldi tm i w) tm i s (x.wrote w (BitVec.ofNat 64 (w.toNat % 2 ^ 48))))
       ∧ (Runs s tm i w 0x52 → RecordOnly (.lui tm i w) tm i s
         (x.wrote w (BitVec.ofNat 64 (old % 2 ^ 48 + w.toNat % 2 ^ 16 * 2 ^ 48))))
       ∧ (Runs s tm i w 0x60 → RecordOnly (.ntread tm i w) tm i s (x.wrote w (s.hub.stamp tm).nt)))

/-- The branches (R251, R258): the PC takes the target where the condition holds, and advances otherwise; CBR and CBI compare as signed
or unsigned numbers and leave FLAGS; LOOP counts down and branches until 0. Nothing else changes. -/
def Obligations.SessionBranches : Prop :=
  ∀ (tm : Nt) (i : Handle) (w : W64) (s : State),
    let x := s.hub.s i
    let f := x.r.flags
    let a := x.r.rReg (iw w 55 52) 0
    (Runs s tm i w 0x00 → RecordOnly (.nop tm i w) tm i s (x.branched w false))
    ∧ (Runs s tm i w 0x01 → RecordOnly (.br tm i w) tm i s (x.branched w true))
    ∧ (Runs s tm i w 0x02 → RecordOnly (.bcc tm i w) tm i s
      (x.branched w (Hub.cond (iw w 27 24) (f.getLsbD 0) (f.getLsbD 1) (f.getLsbD 2) (f.getLsbD 3))))
    ∧ (Runs s tm i w 0x03 → RecordOnly (.cbr tm i w) tm i s
      (x.branched w (related (iw w 27 24) a (x.r.rReg (iw w 51 48) 0))))
    ∧ (Runs s tm i w 0x04 → RecordOnly (.cbi tm i w) tm i s
      (x.branched w (related (iw w 27 24) a ((BitVec.ofNat 16 (iw w 47 32)).signExtend 64))))
    ∧ (Runs s tm i w 0x05 → RecordOnly (.bst tm i w) tm i s (x.branched w (decide (f.toNat / 2 ^ 8 % 2 ^ 8 = iw w 31 24))))
    ∧ (Runs s tm i w 0x06 → a ≠ 0 → a.toNat ≤ iw w 39 24 → RecordOnly (.loopI tm i w) tm i s
      ({ x with r := x.r.wReg (BitVec.ofNat 4 (iw w 55 52)) (a - 1) }.branched w (decide (a ≠ 1))))

/-- GETF and SETF (R257): dst takes the field that the selector names; a writable field takes the operand where the operand fits it, a
write of DEADLINE clearing a past lateness (R44); any other selector or operand ends with ST_BAD_OPERAND and changes nothing. While the
session is being demoted a SETF of another field than DEADLINE is held (R121, R164). -/
def Obligations.SessionFields : Prop :=
  ∀ (tm : Nt) (i : Handle) (w : W64) (s : State),
    let x := s.hub.s i
    let k := iw w 47 40
    let v := x.r.rReg (iw w 51 48) (BitVec.ofNat 64 (iw w 39 0))
    let got (n : Nat) : Prop := RecordOnly (.getf tm i w) tm i s
      { x with r := { (x.r.wReg (BitVec.ofNat 4 (iw w 55 52)) (BitVec.ofNat 64 n)).wStat St.ok 0 with pc := x.r.pc + 1 } }
    let set (r : Rec) : Prop := RecordOnly (.setf tm i w) tm i s ({ x with r := r }.ended St.ok 0)
    (Runs s tm i w 0x26 → x.demote = true → k ≠ 0x02 → Blocks (.setf tm i w) tm i s x (.redo w))
    ∧ (Runs s tm i w 0x25 →
      (k = 0x01 → got x.r.period.toNat) ∧ (k = 0x02 → got x.r.deadline.toNat) ∧ (k = 0x03 → got x.r.seed.toNat)
      ∧ (k = 0x04 → got (x.r.temp.toNat + x.r.topP.toNat * 2 ^ 16 + x.r.topK.toNat * 2 ^ 32))
      ∧ (k = 0x05 → got x.r.maxtok.toNat) ∧ (k = 0x06 → got (if x.r.autorevive then 1 else 0))
      ∧ (k = 0x10 → got x.r.stateWord) ∧ (k = 0x11 → got x.r.eventsWord) ∧ (k = 0x12 → got x.r.committed.toNat)
      ∧ (k = 0x13 → got x.r.turn.toNat) ∧ (k = 0x14 → got x.pendIn.toNat) ∧ (k = 0x15 → got x.r.steps.toNat)
      ∧ (k = 0x16 → got x.r.expiry.toNat) ∧ (k = 0x17 → got x.r.nsi.toNat) ∧ (k = 0x18 → got x.r.ownerWord)
      ∧ (k = 0x19 → got x.r.adapterWord) ∧ (k = 0x1A → got x.r.grammarWord) ∧ (k = 0x1B → got x.r.stopWord)
      ∧ (k = 0x1C → got x.r.parentWord) ∧ (k = 0x1D → got x.r.touch.toNat) ∧ (k = 0x1E → got x.r.stattok.toNat)
      ∧ (k = 0x1F → got x.r.admitNt.toNat)
      ∧ (k = 0 ∨ (0x06 < k ∧ k < 0x10) ∨ 0x1F < k → RecordOnly (.getf tm i w) tm i s (x.ended St.badOperand 0)))
    ∧ (Runs s tm i w 0x26 → x.demote = false ∨ k = 0x02 →
      (k = 0x01 → v.toNat < 2 ^ 32 → set { x.r with period := BitVec.ofNat 32 v.toNat })
      ∧ (k = 0x02 → set { x.r with deadline := v, dlate := false })
      ∧ (k = 0x03 → set { x.r with seed := v })
      ∧ (k = 0x04 → v.toNat < 2 ^ 48 → set { x.r with temp := BitVec.ofNat 16 v.toNat, topP := BitVec.ofNat 16 (v.toNat / 2 ^ 16)
                                                      topK := BitVec.ofNat 16 (v.toNat / 2 ^ 32) })
      ∧ (k = 0x05 → v.toNat < 2 ^ 32 → set { x.r with maxtok := BitVec.ofNat 32 v.toNat })
      ∧ (k = 0x06 → v.toNat < 2 → set { x.r with autorevive := v.toNat == 1 })
      ∧ (k = 0 ∨ 0x06 < k ∨ (k = 0x01 ∧ 2 ^ 32 ≤ v.toNat) ∨ (k = 0x04 ∧ 2 ^ 48 ≤ v.toNat) ∨ (k = 0x05 ∧ 2 ^ 32 ≤ v.toNat)
          ∨ (k = 0x06 ∧ 2 ≤ v.toNat) → RecordOnly (.setf tm i w) tm i s (x.ended St.badOperand 0)))

/-- WAIT consumes the lowest pending bit of its mask at once; with none pending it blocks, wait_mask and WAITEXP are set and a READY
session becomes WAITING (R256, R258, R519). While its session is being demoted a WAIT is held (R164). HOLD ends at once with 0 where every stream record of the session is visible in host memory,
and blocks otherwise (R258). -/
def Obligations.SessionWaits : Prop :=
  ∀ (tm : Nt) (i : Handle) (w : W64) (s : State),
    let x := s.hub.s i
    let dst : BitVec 4 := BitVec.ofNat 4 (iw w 55 52)
    let mask : BitVec 16 := BitVec.ofNat 16 (iw w 15 0)
    let now := (s.hub.stamp tm).nt.toNat
    let unit : Nat := if iw w 47 46 = 0 then 1000 else if iw w 47 46 = 1 then 1000000 else 1000000000
    (Runs s tm i w 0x10 → x.demote = true → Blocks (.wait tm i w) tm i s x (.redo w))
    ∧ (∀ b, Runs s tm i w 0x10 → x.demote = false → b < 16 → (x.r.pending &&& mask).getLsbD b = true →
      (∀ c, c < b → (x.r.pending &&& mask).getLsbD c = false) →
      RecordOnly (.wait tm i w) tm i s
        { x with r := { ({ x.r with pending := x.r.pending &&& ~~~ BitVec.ofNat 16 (2 ^ b) }.wReg dst (BitVec.ofNat 64 b)).wStat
                          St.ok b with pc := x.r.pc + 1 } })
    ∧ (Runs s tm i w 0x10 → x.demote = false → x.r.pending &&& mask = 0 → Answers (.wait tm i w) s (fun t =>
      let y := t.hub.s i
      y.blk = some (.wait dst) ∧ y.runnable = false ∧ y.r.waitMask = mask ∧ y.r.pending = x.r.pending ∧ y.r.pc = x.r.pc
      ∧ y.r.waitExp = (if iw w 47 46 = 3 then x.r.rReg (iw w 51 48) 0
          else if iw w 45 16 = 0 then 0 else BitVec.ofNat 64 (now + iw w 45 16 * unit))
      ∧ y.r.state = (if x.r.state = S.ready then S.waiting else x.r.state)
      ∧ (∀ j, j ≠ i → (t.hub.s j).kept = (s.hub.s j).kept) ∧ HubOnly s t))
    ∧ (Runs s tm i w 0x34 → s.hub.unseen i = false → RecordOnly (.hold tm i w) tm i s
      { x with r := { (x.r.wReg dst 0).wStat St.ok 0 with pc := x.r.pc + 1 } })
    ∧ (Runs s tm i w 0x34 → s.hub.unseen i = true → Answers (.hold tm i w) s (fun t =>
      let y := t.hub.s i
      y.blk = some (.hold dst (if iw w 45 16 = 0 then 0 else BitVec.ofNat 64 (now + iw w 45 16 * unit)))
      ∧ y.runnable = false ∧ y.r = x.r ∧ (∀ j, j ≠ i → (t.hub.s j).kept = (s.hub.s j).kept) ∧ HubOnly s t))

/-- PARK starts a park of a READY or WAITING session: PARKING, with the TTL armed from now where a period is set (R43, R153). REVIVE
starts the revive of a PARKED session and blocks: REVIVING, the TTL disarmed (R155, R258). MIGRATE blocks with its session MIGRATING
where the target can be reached (R176). -/
def Obligations.SessionTransitions : Prop :=
  ∀ (tm : Nt) (i : Handle) (w : W64) (s : State),
    let x := s.hub.s i
    let now := (s.hub.stamp tm).nt.toNat
    let dst : BitVec 4 := BitVec.ofNat 4 (iw w 55 52)
    let d : BitVec 6 := BitVec.ofNat 6 (x.r.rReg (iw w 51 48) 0).toNat
    (Runs s tm i w 0x20 → x.r.state = S.ready ∨ x.r.state = S.waiting → x.r.omm = false → x.demote = false → x.intakes = 0 →
      Answers (.parkInstruction tm i w) s (fun t =>
        let y := t.hub.s i
        y.r.state = S.parking ∧ y.r.prior = x.r.state ∧ y.rest = x.r.state ∧ y.r.pc = x.r.pc + 1
        ∧ (x.r.period = 0 → y.r.ttlArmed = false)
        ∧ (x.r.period ≠ 0 → y.r.ttlArmed = true ∧ y.r.expiry = BitVec.ofNat 64 (now + x.r.period.toNat * 1000000))
        ∧ y.r.flags.toNat / 2 ^ 8 % 2 ^ 8 = 0 ∧ (∀ j, j ≠ i → (t.hub.s j).kept = (s.hub.s j).kept) ∧ HubOnly s t))
    ∧ (Runs s tm i w 0x21 → x.r.state = S.parked → x.demote = false → x.r.logonly = false →
        (x.r.ttlArmed = true → now < x.r.expiry.toNat) →
      Answers (.reviveInstruction tm i w) s (fun t =>
        let y := t.hub.s i
        y.r.state = S.reviving ∧ y.r.prior = S.parked ∧ y.blk = some (.revive dst) ∧ y.runnable = false ∧ y.r.pc = x.r.pc
        ∧ y.r.ttlArmed = false ∧ y.r.expiry = 0 ∧ y.r.touch = (s.hub.stamp tm).nt
        ∧ (∀ j, j ≠ i → (t.hub.s j).kept = (s.hub.s j).kept) ∧ HubOnly s t))
    ∧ (Runs s tm i w 0x22 → x.r.state = S.ready ∨ x.r.state = S.waiting ∨ x.r.state = S.parked → s.hub.holds i = false →
        x.intakes = 0 → s.hub.rotating i = false → x.r.omm = false → d.toNat ≠ s.hub.dev → s.hub.isActive d = true →
        s.hub.reachable d = true → (iw w 0 0 = 1 → (s.hub.stamp tm).recomputable i = true) →
      Answers (.migrateInstruction tm i w) s (fun t =>
        let y := t.hub.s i
        y.r.state = S.migrating ∧ y.r.prior = x.r.state ∧ y.blk = some (.migrate dst) ∧ y.runnable = false ∧ y.r.pc = x.r.pc
        ∧ y.r.ownEpoch = x.r.ownEpoch ∧ (∀ j, j ≠ i → (t.hub.s j).kept = (s.hub.s j).kept) ∧ HubOnly s t))

/-- DROP frees the session itself, or a child of it once that may be dropped (R37, R258). FORK makes the child: READY under its own key
and NSI at the PC that the word names, a copy of the parent's registers, and the parent's dst holds the NSI (R48, R258). -/
def Obligations.SessionBirthAndDeath : Prop :=
  ∀ (tm : Nt) (i : Handle) (w : W64) (s : State),
    let x := s.hub.s i
    let free (c : Handle) : Prop :=
      (s.hub.s c).actions = [] ∧ (s.hub.s c).relHeld = none ∧ (s.hub.s c).intakes = 0 ∧ s.hub.holds c = false
    let k := iw w 51 48
    let key : BitVec 128 := x.r.rReg (k + 1) 0 ++ x.r.rReg k 0
    (Runs s tm i w 0x24 → iw w 0 0 = 0 → free i → Answers (.dropInstruction tm i w) s (fun t =>
      (t.hub.s i).r.state = S.free ∧ (t.hub.s i).kept = ({} : Sess).kept ∧ HubOnly s t))
    ∧ (∀ c, Runs s tm i w 0x24 → iw w 0 0 = 1 → s.hub.findNsi (x.r.rReg k 0) = some c → c ≠ i → (s.hub.s c).r.child = true →
        (s.hub.s c).r.parH = i → (s.hub.s c).r.parGen = nsiGen x.r.nsi → (s.hub.s c).r.parDev.toNat = s.hub.dev →
        (s.hub.s c).r.state ≠ S.migrating → free c → Answers (.dropInstruction tm i w) s (fun t =>
      (t.hub.s c).r.state = S.free ∧ (t.hub.s c).kept = ({} : Sess).kept ∧ HubOnly s t))
    ∧ (∀ c, Runs s tm i w 0x23 → k ≤ 5 → s.hub.inj = [] → x.r.state ≠ S.parked → s.hub.holds i = false → key ≠ 0 →
        iw w 23 0 < (smGet [] s.hub.im.progs (iw w 31 24)).length → s.hub.findSk key = none → s.hub.freeHandle = some c → c ≠ i →
      Answers (.fork tm i w) s (fun t =>
        let y := t.hub.s i
        let z := t.hub.s c
        let nsi := nsiOf s.hub.dev c (smGet 0 s.hub.gens c.toNat + 1) x.r.tenant
        z.r.state = S.ready ∧ z.r.sk = key ∧ z.r.nsi = nsi ∧ z.r.a = x.r.a ∧ z.r.pc.toNat = iw w 23 0 ∧ z.r.prog.toNat = iw w 31 24
        ∧ z.r.seed = x.r.rReg (k + 2) 0 ∧ z.r.committed = x.r.committed ∧ z.r.child = true ∧ z.r.parH = i ∧ z.r.turn = 0
        ∧ z.runnable = true ∧ y.r.state = x.r.state ∧ y.r.pc = x.r.pc + 1
        ∧ y.r.a = (x.r.wReg (BitVec.ofNat 4 (iw w 55 52)) nsi).a ∧ HubOnly s t))

/-- INTAKE, PREFILL, STEP and the Quern instructions block their context on the request they make (R94, R101, R108, R258, R339); a STEP
at the context limit ends with ST_MAX_TOKENS and 0 tokens (the model's choice: log 115). -/
def Obligations.SessionRequests : Prop :=
  ∀ (tm : Nt) (i : Handle) (w : W64) (s : State),
    let x := s.hub.s i
    let dst : BitVec 4 := BitVec.ofNat 4 (iw w 55 52)
    let src := x.r.rReg (iw w 51 48) 0
    let waits (t : State) (b : Blk) : Prop :=
      (t.hub.s i).blk = some b ∧ (t.hub.s i).runnable = false ∧ (t.hub.s i).r = x.r
      ∧ (∀ j, j ≠ i → (t.hub.s j).kept = (s.hub.s j).kept) ∧ HubOnly s t
    let now := (s.hub.stamp tm).nt
    let pf : PfReq :=
      { amode := BitVec.ofNat 2 (iw w 47 46), slot := BitVec.ofNat 10 (iw w 41 32), ver := BitVec.ofNat 16 (iw w 31 16), nt := now }
    (Runs s tm i w 0x30 → s.hub.holds i = false → s.hub.profS = false → s.hub.hubBad = false →
      Answers (.intakeInstruction tm i w) s (fun t => waits t (.intake dst)
        ∧ (iw w 47 46 = 0 → ∃ q ∈ t.hub.hopq, q.h = i ∧ q.nt = (s.hub.stamp tm).nt ∧ q.addr = src ∧ q.count = iw w 8 0 ∧ q.tok = none)
        ∧ (iw w 47 46 = 1 → ∃ q ∈ t.hub.hopq, q.h = i ∧ q.nt = (s.hub.stamp tm).nt ∧ q.tok = some (BitVec.ofNat 32 (iw w 31 0)))))
    ∧ (Runs s tm i w 0x31 → x.r.state = S.ready ∨ (x.r.state = S.admitted ∧ x.pendIn ≠ 0) → x.r.omm = false →
        s.hub.needsSeal x.r = false → s.hub.partHere x.r.part = true → s.hub.holds i = false →
        x.r.committed.toNat + x.pendIn.toNat ≤ s.hub.ctxLimit + 1 →
      Answers (.prefill tm i w) s (fun t => waits t (.prefill dst)
        ∧ (iw w 47 46 < 3 → (t.hub.s i).pfReq = some pf)
        ∧ (iw w 47 46 = 3 → (t.hub.s i).pfReq.isSome = true)))
    ∧ (Runs s tm i w 0x32 → x.r.state = S.ready → x.r.omm = false → x.r.dlate = false →
        (x.r.deadline ≠ 0 → (s.hub.stamp tm).nt < x.r.deadline) → s.hub.needsSeal x.r = false → s.hub.partHere x.r.part = true →
        s.hub.holds i = false →
      (s.hub.ctxLimit ≤ x.r.committed.toNat → Answers (.step tm i w) s (fun t =>
        (t.hub.s i).r.pc = x.r.pc + 1 ∧ (t.hub.s i).r.lastStatus = St.maxTokens ∧ (t.hub.s i).r.flags.toNat / 2 ^ 8 % 2 ^ 8 = St.maxTokens.toNat
        ∧ (t.hub.s i).r.a = (x.r.wReg dst 0).a ∧ (∀ j, j ≠ i → (t.hub.s j).kept = (s.hub.s j).kept) ∧ HubOnly s t))
      ∧ (x.r.committed.toNat < s.hub.ctxLimit → s.hub.inPrefill = false → Answers (.step tm i w) s (fun t => waits t (.step dst)
        ∧ ((t.hub.s i).stepReq.map (fun q => (q.n.toNat, q.draft.toNat, q.addr))) = some (iw w 15 0, iw w 17 16, src))))
    ∧ (∀ q, s.hub.on F.QCTL_enable = true → s.hub.stage 9 = true → s.hub.qFind (iw w 15 0) x.r.tenant x.r.part = some q →
        src.toNat % 64 = 0 → s.hub.hubBad = false →
      (Runs s tm i w 0x40 → Answers (.qsearchInstruction tm i w) s (fun t => waits t (.quern dst)
        ∧ Out.hostRead s.hub.nextId src (64 + q.vecBytes) ∈ t.hub.out))
      ∧ (Runs s tm i w 0x41 → Answers (.qinsertInstruction tm i w) s (fun t => waits t (.quern dst)
        ∧ Out.hostRead s.hub.nextId src (64 + q.vecBytes) ∈ t.hub.out))
      ∧ (Runs s tm i w 0x42 → Answers (.qdeleteInstruction tm i w) s (fun t => waits t (.quern dst)
        ∧ Out.hostRead s.hub.nextId src 64 ∈ t.hub.out)))

/-- EMIT queues a FLUSH record with the session's held bytes on its partition's stream ring and leaves nothing held (R133, R137, R140); in
HALTED it ends with the status that halted the session (R39). BIND binds a loaded grammar at its start state, or a loaded stop set after
the same flush where the set changes, value 0 unbinds, and an empty slot or set ends with ST_BAD_OPERAND (R118, R128, R258). POST queues a
PROGRAM record with the first registers on the partition's completion ring (R258, R283, R284) and is held while that is in overflow (R285).
While the session is being demoted each is held (R164). Nothing else changes. That a record counts as written once queued is the model's
choice (log 141). -/
def Obligations.SessionOutputs : Prop :=
  ∀ (tm : Nt) (i : Handle) (w : W64) (s : State),
    let x := s.hub.s i
    let h := s.hub.stamp tm
    let ok : Sess := x.ended St.ok 0
    let k := iw w 15 0
    let n := x.held.length
    let granules (m : Nat) : Nat := (m + 63) / 64
    let flush : Rcd :=
      { data := padTo (64 * granules (40 + n)) (le 1 (6 + (granules (40 + n) - 1) * 16) ++ le 1 0 ++ le 1 n ++ le 1 0
          ++ le 3 (x.r.seq + 1).toNat ++ le 1 0 ++ le 8 x.r.nsi.toNat ++ le 4 x.r.committed.toNat ++ le 4 0xFFFFFFFF ++ le 4 x.relOff ++ le 4 0
          ++ le 8 h.nt.toNat ++ x.held)
        h := some i, env := if s.hub.profS then some (x.r.tenant, x.r.nsi, n) else none }
    let flushed : Hub := ((h.setS i { x with relOff := x.relOff + n, r := { x.r with seq := x.r.seq + 1 } }).inc F.TRBYTES_count n).pushRec
      true x.r.part.toNat flush
    let ended (f : Rec → Rec) (y : Sess) : Sess :=
      { y with held := [], r := { (f { y.r with held := 0 }).wStat St.ok 0 with pc := x.r.pc + 1 } }
    let setStop (r : Rec) : Rec :=
      { r with stopSet := BitVec.ofNat 16 k
               stopCnt := BitVec.ofNat 5 (if k = 0 then 0 else ((smLook s.hub.im.stopSets k).map (fun c => c.strs.countP (fun b => !b.isEmpty))).getD 0) }
    (∀ op c, (op, c) ∈ [(0x33, Instr.emit tm i w), (0x35, Instr.bindInstruction tm i w), (0x70, Instr.post tm i w)] →
      Runs s tm i w op → x.demote = true → Blocks c tm i s x (.redo w))
    ∧ (Runs s tm i w 0x33 → x.demote = false →
      (x.r.state = S.halted → RecordOnly (.emit tm i w) tm i s (x.ended x.r.hstatus 0))
      ∧ (x.r.state ≠ S.halted → x.held = [] → RecordOnly (.emit tm i w) tm i s ok)
      ∧ (x.r.state ≠ S.halted → x.held ≠ [] → Ends (.emit tm i w) s (flushed.modS i (ended id))))
    ∧ (Runs s tm i w 0x35 → x.demote = false → iw w 47 46 = 0 →
      (k = 0 → RecordOnly (.bindInstruction tm i w) tm i s
        { ok with stack := [], r := { ok.r with gramSlot := 0, gramState := 0, gramDepth := 0 } })
      ∧ (∀ g, k ≠ 0 → smLook s.hub.im.grams k = some g → RecordOnly (.bindInstruction tm i w) tm i s
        { ok with stack := [], r := { ok.r with gramSlot := BitVec.ofNat 12 k, gramState := g.start, gramDepth := 0 } })
      ∧ (k ≠ 0 → smLook s.hub.im.grams k = none → RecordOnly (.bindInstruction tm i w) tm i s (x.ended St.badOperand 0)))
    ∧ (Runs s tm i w 0x35 → x.demote = false → iw w 47 46 = 1 →
      (k = 0 ∨ (smLook s.hub.im.stopSets k).isSome = true → x.r.stopSet.toNat = k ∨ x.held = [] →
        RecordOnly (.bindInstruction tm i w) tm i s { ok with r := setStop ok.r })
      ∧ (k = 0 ∨ (smLook s.hub.im.stopSets k).isSome = true → x.r.stopSet.toNat ≠ k → x.held ≠ [] →
        Ends (.bindInstruction tm i w) s (flushed.modS i (ended setStop)))
      ∧ (k ≠ 0 → smLook s.hub.im.stopSets k = none → RecordOnly (.bindInstruction tm i w) tm i s (x.ended St.badOperand 0)))
    ∧ (Runs s tm i w 0x70 → x.demote = false →
      let m := iw w 7 0
      let p := x.r.part.toNat
      let post : Rcd :=
        { data := padTo 128 (le 1 (2 * 2 + 16) ++ le 1 0 ++ le 1 0 ++ le 1 m ++ le 4 (iw w 23 8) ++ le 8 x.r.nsi.toNat ++ le 4 0 ++ le 4 0
            ++ le 8 h.nt.toNat ++ ((x.r.a.take m).map (fun v => le 8 v.toNat)).flatten)
          h := some i }
      (s.hub.gi F.CMPSTAT_overflow p = 1 → Blocks (.post tm i w) tm i s x (.redo w))
      ∧ (s.hub.gi F.CMPSTAT_overflow p ≠ 1 → Ends (.post tm i w) s ((h.pushRec false p post).modS i (fun y => y.ended St.ok 0))))

/-- An activation of the first runnable context of its sequencer executes the words from its PC on until one blocks (R252): a WAIT with
nothing to consume, and a HOLD with a record of its session unseen, block the context as they would by themselves, and 64 instructions
that do not block leave it runnable at the back of the queue. A PC past the program's end is a program fault (R255). A parity fault maps
the next spare sequencer in first (R254). For a context that is not first among those its sequencer serves, and at the NT of a boundary
still to be made (R521), nothing happens. -/
def Obligations.ActivationExecutes : Prop :=
  ∀ (tm : Nt) (i : Handle) (w : W64) (s : State),
    let x := s.hub.s i
    let h := s.hub.stamp tm
    let q := i.toNat % 32
    let k := s.hub.seqSpare
    let act (parity : Bool) : Instr := .sequencerActivation tm i parity
    let dst : BitVec 4 := BitVec.ofNat 4 (iw w 55 52)
    let mask : BitVec 16 := BitVec.ofNat 16 (iw w 15 0)
    let unit : Nat := if iw w 47 46 = 0 then 1000 else if iw w 47 46 = 1 then 1000000 else 1000000000
    let first := (s.hub.seqq.filter (fun j => s.hub.seqOf (j.toNat % 32) == s.hub.seqOf q)).head? = some i
    let hold : Blk := .hold dst (if iw w 45 16 = 0 then 0 else BitVec.ofNat 64 (h.nt.toNat + iw w 45 16 * unit))
    (¬ first ∨ h.boundDue = true → Ends (act false) s h)
    ∧ (first → h.boundDue = false → x.runnable = true → s.hub.runs i = true → s.hub.inj = [] → Hub.badPair x.r = none → h.rootsOk x.r = true →
      ((s.hub.prog i).length ≤ x.r.pc.toNat → x.relHeld = none → x.dropHeld = false → x.actions = [] → Answers (act false) s (fun t =>
        (t.hub.s i).r.state = S.faulted ∧ (t.hub.s i).r.lastStatus = St.programFault ∧ (t.hub.s i).r.pc = x.r.pc ∧ (t.hub.s i).runnable = false
        ∧ HubOnly s t))
      ∧ ((s.hub.prog i)[x.r.pc.toNat]? = some w →
        (iw w 63 56 = 0x10 → x.demote = false → x.r.pending &&& mask = 0 → Answers (act false) s (fun t =>
          let y := t.hub.s i
          y.blk = some (.wait dst) ∧ y.runnable = false ∧ y.r.waitMask = mask ∧ y.r.pending = x.r.pending ∧ y.r.pc = x.r.pc
          ∧ y.r.waitExp = (if iw w 47 46 = 3 then x.r.rReg (iw w 51 48) 0
              else if iw w 45 16 = 0 then 0 else BitVec.ofNat 64 (h.nt.toNat + iw w 45 16 * unit))
          ∧ y.r.state = (if x.r.state = S.ready then S.waiting else x.r.state)
          ∧ (∀ j, j ≠ i → (t.hub.s j).kept = (s.hub.s j).kept) ∧ HubOnly s t))
        ∧ (iw w 63 56 = 0x34 → s.hub.unseen i = true → Blocks (act false) tm i s x hold
          ∧ (k < 4 → Becomes (act true) s
            { h.blocked i x hold with seqMap := s.hub.seqMap.set q (BitVec.ofNat 16 (pairOf 8 (32 + k))), seqSpare := k + 1 }))
        ∧ (iw w 63 56 = 0x01 → iw w 23 0 = x.r.pc.toNat →
          Becomes (act false) s { h.setS i { x with since := h.nt } with seqq := s.hub.seqq.filter (· != i) ++ [i] })))

/-! ### Host lines -/

/-- A full line changes nothing before BOOT (R520). It is discarded while CXL service waits for IDE, on a window or a device that takes no
commands, and while the partition's completion ring is in overflow: its window's discards and HCMDDISC rise by one, HSTAT.window_off is
set in the second case alone, and nothing else changes (R269, R272, R285). A line of a window with 1,024 commands waiting completes with
ST_WINDOW_FULL and does nothing else but count (R274). -/
def Obligations.LinesDiscarded : Prop :=
  ∀ (c : Instr) (s : State) (tm : Nt) (w op : BitVec 8) (l : CmdLine),
    lineOf c = some (tm, w, op, l) → s.hub.sec.clear = none → s.hub.pw.off = false →
    let h := s.hub.stamp tm
    let x := smGet {} s.hub.wins w.toNat
    let gone := ({ h with wins := smPut s.hub.wins w.toNat { x with disc := x.disc + 1 } } : Hub).inc F.HCMDDISC_count
    let full : Hub := { h with wins := smPut s.hub.wins w.toNat { x with refused := x.refused + 1 } }
    (h.stage 2 = false → Ends c s h)
    ∧ (h.stage 2 = true → h.ideWait = true → Becomes c s gone)
    ∧ (h.stage 2 = true → h.ideWait = false → h.on F.HCTL_cmd_en = false ∨ h.gi F.CMDWIN_enable w.toNat = 0 →
      Becomes c s (gone.p F.HSTAT_window_off 1))
    ∧ (h.stage 2 = true → h.ideWait = false → h.on F.HCTL_cmd_en = true → h.gi F.CMDWIN_enable w.toNat ≠ 0 →
        h.gi F.CMPSTAT_overflow (h.gi F.CMDWIN_partition w.toNat) = 1 → Becomes c s gone)
    ∧ (h.hears w = true → 1024 ≤ h.waiting w → Ends c s (full.complete (h.subOf w op l) St.windowFull 0 (if namesSession op then l.nsi else 0)))

/-- A line that is taken and fails a check ends with that check's completion and does nothing else: the checks are of the window's
rights, of the line's bytes, of the tenant's policer, of the stages that the command needs and of a group fault, in this order (R273,
R275, R366, R380, R520). A line with an opcode that is not defined is taken and completes with ST_BAD_COMMAND and detail 0 (R273): one
COMMAND record, with its phase bit, goes to the next granule of its partition's completion ring, whose position advances (R139, R277,
R283). -/
def Obligations.LinesRefusedOrUnknown : Prop :=
  (∀ (c : Instr) (s : State) (tm : Nt) (w op : BitVec 8) (l : CmdLine),
     lineOf c = some (tm, w, op, l) → s.hub.sec.clear = none →
     let h := s.hub.stamp tm
     let k := h.subOf w op l
     let ends (g : Hub) (st : BitVec 8) (d : Nat) (n : W64) : Prop :=
       Answers c s (fun t => t.hub = Hub.finish s.hub (g.complete k st d n) ∧ (s.hub.pw.off = false → t.stn = s.stn) ∧ t.pending = s.pending)
     let rights := !adminOp op || (h.took w).gi F.CMDWIN_admin w.toNat != 0
     let passes := !policedOp op || ((h.took w).police k.tenant).1
     let g := h.counted w op
     let nsi : W64 := if namesSession op then l.nsi else 0
     h.hears w = true → h.waiting w < 1024 →
     (rights = false → ends (h.took w) St.badCommand 0xFFFF0002 0)
     ∧ (∀ o, rights = true → badByte op l = some o → ends (h.took w) St.badCommand o nsi)
     ∧ (rights = true → badByte op l = none → passes = false → ends g St.throttled 0 nsi)
     ∧ (rights = true → badByte op l = none → passes = true → g.staged op = false → ends g St.badState 0 nsi)
     ∧ (rights = true → badByte op l = none → passes = true → g.staged op = true → sessionOp op = true → g.faulted = true →
       ends g St.deviceFault 0 nsi))
  ∧ (∀ (tm : Nt) (w op : BitVec 8) (l : CmdLine) (s : State),
       let h := s.hub.stamp tm
       let p := h.gi F.CMDWIN_partition w.toNat
       let P := h.gi F.CMPPROD_p p
       let n := h.ringLog false p
       let used := (P + 2 ^ 32 - (h.ring false p).consumed.toNat) % 2 ^ 32
       knownOp op = false → h.hears w = true → h.waiting w < 1024 → s.hub.inj = [] → s.hub.hubBad = false →
       (h.ring false p).backlog = [] → h.gi F.CMPSIZE_enable p ≠ 0 → s.hub.shapeOn = false → used < 2 ^ n → p < 16 →
       Answers (.unknownOpcodeLine tm w op l) s (fun t =>
         t.hub.alike (h.took w)
         ∧ Out.hostWrite s.hub.nextId (BitVec.ofNat 64 (h.gi F.CMPBASE_base p * 64 + 64 * (P % 2 ^ n)))
             (padTo 64 (le 1 (2 + (1 - P / 2 ^ n % 2)) ++ le 1 St.badCommand.toNat ++ le 1 op.toNat ++ le 1 0 ++ le 4 l.tag.toNat ++ le 8 0 ++ le 4 0
               ++ le 4 0 ++ le 8 h.nt.toNat)) ∈ t.hub.out
         ∧ t.hub.gi F.CMPPROD_p p = (P + 1) % 2 ^ 32 ∧ HubOnly s t))

/-- A command that names a session by an NSI of another device, of a record that is free or of another generation has no effect and
completes with ST_STALE_NSI (R31). -/
def Obligations.StaleNsi : Prop :=
  ∀ (c : Instr) (s : State) (tm : Nt) (w op : BitVec 8) (l : CmdLine),
    lineOf c = some (tm, w, op, l) → namesSession op = true → l.flags.getLsbD 1 = false →
    let h := s.hub.stamp tm
    let i := nsiHandle l.nsi
    h.admits w op l = true →
    ¬ (nsiDev l.nsi = h.dev ∧ (h.s i).r.state ≠ S.free ∧ smGet 0 h.gens i.toNat = nsiGen l.nsi) →
    Answers c s (fun t =>
      t.hub = Hub.finish s.hub ((h.counted w op).complete (h.subOf w op l) St.staleNsi 0 l.nsi) ∧ HubOnly s t)

/-- HDM loads and stores (R271, R272, R278, R280): a ticket load answers the 64 bytes of the record's ticket, and a cacheable one enters
the snoop filter while that is on (R281); a key-slot load looks the key stored up and answers its session's ticket where the window may
see it, and the ticket that misses otherwise; both answer zeros while loads are answered and not served, and nothing while they are not
answered (R288, R477). A store to a key slot changes that slot, a store to the tickets and a partial line their bit of HSTAT and the
counts of discards, and none does anything before BOOT (R520). Nothing else changes. The service time that HTKTMAX may take is a free
value (log 2). -/
def Obligations.HdmAccesses : Prop :=
  ∀ (tm : Nt) (s : State),
    let h := s.hub.stamp tm
    let same (t : State) (counts : List Fld) : Prop :=
      (∀ j, t.hub.s j = s.hub.s j) ∧ t.hub.rest = h.rest
      ∧ (∀ a, a ∉ Hub.reportRegs → a ∉ counts.map (·.a) → t.hub.reg a = s.hub.reg a) ∧ HubOnly s t
    let answered (t : State) (b : Bytes) (counts : List Fld) : Prop :=
      Out.load b ∈ t.hub.out ∧ t.hub.g F.HTICKETS_count = satAdd 64 (s.hub.g F.HTICKETS_count) 1
      ∧ (∃ n, n ≤ 120 ∧ t.hub.g F.HTKTMAX_ns = max (s.hub.g F.HTKTMAX_ns) n)
      ∧ same t ([F.HTICKETS_count, F.HTKTMAX_ns] ++ counts)
    let sees (k : BitVec 12) (sk : BitVec 128) (i : Handle) : Prop :=
      smLook s.hub.keySlots k.toNat = some sk ∧ s.hub.gi F.CMDWIN_enable (k.toNat / 64) ≠ 0 ∧ s.hub.findSk sk = some i ∧ (s.hub.s i).born < h.nt
      ∧ (s.hub.s i).r.part.toNat = s.hub.gi F.CMDWIN_partition (k.toNat / 64)
      ∧ (s.hub.s i).r.tenant.toNat = s.hub.gi F.CMDWIN_tenant (k.toNat / 64)
    s.hub.hubBad = false → s.hub.inj = [] →
    (∀ i ca, h.loadsServed = true → Answers (.ticketLoad tm i ca) s (fun t => answered t (h.ticket i) []
      ∧ (ca = true → s.hub.on F.HCTL_bi_en = true → i ∈ t.hub.snoop)))
    ∧ (∀ k sk i, h.loadsServed = true → sees k sk i → Answers (.keySlotLoad tm k) s (fun t => answered t (h.ticket i) [F.AIXLOOKUPS_count]))
    ∧ (∀ k, h.loadsServed = true → (∀ sk i, ¬ sees k sk i) →
      Answers (.keySlotLoad tm k) s (fun t => answered t missTicket [F.AIXLOOKUPS_count]))
    ∧ (∀ c, c ∈ [fun (i : Handle) => Instr.ticketLoad tm i false, fun i => .ticketLoad tm i true, fun i => .keySlotLoad tm (i.setWidth 12)] →
      (h.answers = true → h.loadsServed = false → ∀ i, Answers (c i) s (fun t => Out.load (List.replicate 64 0) ∈ t.hub.out ∧ same t []))
      ∧ (h.answers = false → ∀ i, Ends (c i) s h))
    ∧ (∀ k sk, h.stage 2 = true → Becomes (.keySlotStore tm k sk) s { h with keySlots := smPut s.hub.keySlots k.toNat sk })
    ∧ (∀ off, h.stage 2 = true → Becomes (.ticketWindowStore tm off) s (h.p F.HSTAT_ticket_store 1))
    ∧ (∀ w : BitVec 8, h.stage 2 = true →
      let x := smGet {} s.hub.wins w.toNat
      Becomes (.memwrptl tm w) s
        (({ h with wins := smPut s.hub.wins w.toNat { x with disc := x.disc + 1 } }.inc F.HCMDDISC_count).p F.HSTAT_partial 1))
    ∧ (h.stage 2 = false → (∀ k sk, Ends (.keySlotStore tm k sk) s h) ∧ (∀ off, Ends (.ticketWindowStore tm off) s h)
      ∧ ∀ w, Ends (.memwrptl tm w) s h)

/-- ADMIT makes a session at the lowest free handle (R27, R29, R30, R276): ADMITTED, under the key, the window's tenant and partition
and a new generation, with the fields that the line gives and every other at its value for a new record, its context runnable. -/
def Obligations.AdmitMakesSession : Prop :=
  ∀ (tm : Nt) (w : BitVec 8) (l : CmdLine) (s : State) (i : Handle),
    let h := s.hub.stamp tm
    let k := h.subOf w 0x01 l
    let nsi := nsiOf s.hub.dev i (smGet 0 s.hub.gens i.toNat + 1) k.tenant
    h.admits w 0x01 l = true → s.hub.inj = [] → s.hub.findSk l.sk = none → s.hub.on F.HDEVIDX_spare = false →
    s.hub.freeHandle = some i →
    Answers (.admitSession tm w l) s (fun t =>
      let y := t.hub.s i
      y.r = ({ sk := l.sk, nsi := nsi, state := S.admitted, autorevive := l.opd 60 1 / 2 % 2 == 1, period := BitVec.ofNat 32 (l.opd 52 4),
               pc := BitVec.ofNat 24 (l.opd 56 3), prog := BitVec.ofNat 8 (l.opd 59 1), seed := BitVec.ofNat 64 (l.opd 32 8),
               temp := BitVec.ofNat 16 (l.opd 40 2), topP := BitVec.ofNat 16 (l.opd 42 2), topK := BitVec.ofNat 16 (l.opd 44 2),
               maxtok := BitVec.ofNat 32 (l.opd 48 4), part := k.part, touch := h.nt, admitNt := h.nt, jseq := 1 } : Rec).setOwner
                 (BitVec.ofNat 6 s.hub.dev) 0
      ∧ y.runnable = true ∧ y.share = (l.opd 60 1 % 2 == 1) ∧ smGet 0 t.hub.gens i.toNat = smGet 0 s.hub.gens i.toNat + 1
      ∧ (∀ j, j ≠ i → (t.hub.s j).kept = (s.hub.s j).kept) ∧ HubOnly s t)

/-! ### Session commands -/

/-- Session commands that change what their session is doing (R37, R153, R156, R176, R181, R276): DROP frees it, PARK, REVIVE and
MIGRATE enter their transient states, RESUME restarts a HALTED session at the PC it carries, RECLAIM gives a session in mismatch a newer
epoch. No other session changes. -/
def Obligations.SessionCommands : Prop :=
  ∀ (tm : Nt) (w : BitVec 8) (l : CmdLine) (s : State) (i : Handle),
    let x := s.hub.s i
    let now := (s.hub.stamp tm).nt
    let d : BitVec 6 := BitVec.ofNat 6 (l.opd 32 1)
    let ok (t : State) : Prop := (∀ j, j ≠ i → (t.hub.s j).kept = (s.hub.s j).kept) ∧ HubOnly s t
    let newer16 := newer 16 x.r.ownEpoch.toNat x.seen.toNat
    (Commands s tm w 0x02 l i → x.r.state ≠ S.migrating → Answers (.dropCommand tm w l) s (fun t =>
      (t.hub.s i).kept = ({} : Sess).kept ∧ HubOnly s t))
    ∧ (Commands s tm w 0x04 l i → x.r.state = S.ready ∨ x.r.state = S.waiting → x.r.omm = false →
      Answers (.parkCommand tm w l) s (fun t => ok t ∧ (t.hub.s i).r.state = S.parking ∧ (t.hub.s i).rest = x.r.state
        ∧ (x.r.period ≠ 0 → (t.hub.s i).r.ttlArmed = true
          ∧ (t.hub.s i).r.expiry = BitVec.ofNat 64 (now.toNat + x.r.period.toNat * 1000000))))
    ∧ (Commands s tm w 0x05 l i → x.r.state = S.parked → x.r.logonly = false → (x.r.ttlArmed = true → now < x.r.expiry) →
      Answers (.reviveCommand tm w l) s (fun t => ok t ∧ (t.hub.s i).r.state = S.reviving ∧ (t.hub.s i).r.ttlArmed = false
        ∧ (t.hub.s i).r.touch = now))
    ∧ (Commands s tm w 0x06 l i → x.r.state = S.ready ∨ x.r.state = S.waiting ∨ x.r.state = S.parked → x.r.omm = false →
        d.toNat ≠ s.hub.dev → s.hub.isActive d = true → s.hub.reachable d = true →
        (l.opd 33 1 = 1 → (s.hub.stamp tm).recomputable i = true) →
      Answers (.migrateCommand tm w l) s (fun t => ok t ∧ (t.hub.s i).r.state = S.migrating ∧ (t.hub.s i).r.prior = x.r.state
        ∧ (x.blk = none → (t.hub.s i).runnable = false)))
    ∧ (Commands s tm w 0x07 l i → x.r.state = S.halted → Answers (.resume tm w l) s (fun t => ok t
        ∧ (t.hub.s i).r.pc = BitVec.ofNat 24 (l.opd 32 3) ∧ (t.hub.s i).r.state = (if x.r.logonly then S.parked else S.ready)
        ∧ (t.hub.s i).runnable = true ∧ (t.hub.s i).blk = none ∧ (t.hub.s i).r.waitMask = 0))
    ∧ (Commands s tm w 0x0C l i → x.r.omm = true → x.r.state ≠ S.migrating → x.r.state ≠ S.faulted →
        l.opd 32 1 ≠ 0 ∨ newer16 = true → Answers (.reclaim tm w l) s (fun t => ok t
        ∧ (t.hub.s i).r.omm = false ∧ (t.hub.s i).r.ownEpoch = (if newer16 then x.r.ownEpoch else x.seen) + 1
        ∧ (t.hub.s i).r.state = x.r.state ∧ (t.hub.s i).seen = 0))

/-- Session commands that act on its record or hand it something (R94, R118, R257, R276, R426, R432): SIGNAL sets its event, UPDATE its
field, BIND its grammar; INSPECT writes the record to host memory; INTAKE and SEALINTAKE start an intake; KEYROTATE schedules a
rotation. -/
def Obligations.SessionRecordCommands : Prop :=
  ∀ (tm : Nt) (w : BitVec 8) (l : CmdLine) (s : State) (i : Handle),
    let x := s.hub.s i
    let now := (s.hub.stamp tm).nt
    let v : W64 := BitVec.ofNat 64 (l.opd 40 8)
    let addr : W64 := BitVec.ofNat 64 (l.opd 32 8)
    let still := x.r.state ≠ S.migrating ∧ x.r.state ≠ S.faulted
    let ok (t : State) : Prop := (∀ j, j ≠ i → (t.hub.s j).kept = (s.hub.s j).kept) ∧ HubOnly s t
    let only (t : State) (r : Rec) : Prop := ok t ∧ (t.hub.s i).r = r
    (∀ b, l.opd 32 1 = b → b < 16 → Commands s tm w 0x08 l i → still → x.r.waitMask.getLsbD b = false →
        (x.r.waitExp ≠ 0 → now < x.r.waitExp) → Answers (.signal tm w l) s (fun t =>
      only t { x.r with pending := x.r.pending ||| BitVec.ofNat 16 (2 ^ b) }))
    ∧ (∀ b d, l.opd 32 1 = b → b < 16 → Commands s tm w 0x08 l i → x.r.state = S.waiting → x.blk = some (.wait d) →
        x.r.waitMask.getLsbD b = true → x.waitHit = false → x.demote = false → (x.r.waitExp ≠ 0 → now < x.r.waitExp) →
      Answers (.signal tm w l) s (fun t => ok t ∧ (t.hub.s i).r.state = S.ready ∧ (t.hub.s i).blk = none
        ∧ (t.hub.s i).runnable = true ∧ (t.hub.s i).r.waitMask = 0 ∧ (t.hub.s i).r.waitExp = 0 ∧ (t.hub.s i).r.pc = x.r.pc + 1
        ∧ (t.hub.s i).r.a = (x.r.wReg d (BitVec.ofNat 64 b)).a))
    ∧ (Commands s tm w 0x09 l i → still → l.opd 32 1 = 2 → x.r.waitMask.getLsbD 3 = false → (x.r.waitExp ≠ 0 → now < x.r.waitExp) →
      Answers (.update tm w l) s (fun t => only t { x.r with deadline := v, dlate := false, pending := x.r.pending ||| 8 }))
    ∧ (Commands s tm w 0x09 l i → still → l.opd 32 1 ≠ 2 → ∀ r, setField x.r (l.opd 32 1) v = some r →
      Answers (.update tm w l) s (fun t => only t r))
    ∧ (Commands s tm w 0x0A l i → still → l.opd 32 1 = 0 → l.opd 34 2 ≠ 0 → ∀ g, smLook s.hub.im.grams (l.opd 34 2) = some g →
      Answers (.bindCommand tm w l) s (fun t =>
        only t { x.r with gramSlot := BitVec.ofNat 12 (l.opd 34 2), gramState := g.start, gramDepth := 0 }))
    ∧ (Commands s tm w 0x0A l i → still → l.opd 32 1 = 1 → l.opd 34 2 ≠ 0 → (smLook s.hub.im.stopSets (l.opd 34 2)).isSome = true →
      Answers (.bindCommand tm w l) s (fun t => ok t ∧ (t.hub.s i).r.stopSet = BitVec.ofNat 16 (l.opd 34 2)
        ∧ (x.r.stopSet.toNat ≠ l.opd 34 2 → (t.hub.s i).held = [])))
    ∧ (Commands s tm w 0x0B l i → s.hub.hubBad = false → l.opd 40 1 = 0 → Answers (.inspect tm w l) s (fun t =>
        only t x.r ∧ Out.hostWrite s.hub.nextId addr x.r.bytes ∈ t.hub.out))
    ∧ (∀ rt, Commands s tm w 0x0B l i → s.hub.hubBad = false → l.opd 40 1 ≠ 0 → s.hub.shards.contains (l.opd 41 1) = true →
        s.hub.root? (s.hub.rootIx x.r) (l.opd 41 1) = some rt → Answers (.inspect tm w l) s (fun t =>
        only t x.r ∧ Out.hostWrite s.hub.nextId addr rt.bytes ∈ t.hub.out))
    ∧ (Commands s tm w 0x03 l i → still → s.hub.profS = false → s.hub.hubBad = false → Answers (.intakeCommand tm w l) s (fun t =>
        only t x.r ∧ ∃ q ∈ t.hub.hopq, q.h = i ∧ q.nt = now ∧ q.w.toNat = w.toNat ∧ q.addr = addr ∧ q.count = l.opd 40 2
          ∧ q.tok = (if l.opd 42 1 = 1 then some (BitVec.ofNat 32 (l.opd 44 4)) else none)))
    ∧ (Commands s tm w 0x43 l i → still → (smLook s.hub.sec.ctx x.r.tenant.toNat).isSome = true → s.hub.hubBad = false →
      Answers (.sealintake tm w l) s (fun t => only t x.r ∧ Out.hostRead s.hub.nextId addr 32 ∈ t.hub.out
        ∧ ∃ q ∈ t.hub.hopq, q.h = i ∧ q.nt = now ∧ q.w.toNat = w.toNat ∧ q.ready = false))
    ∧ (Commands s tm w 0x44 l i → still → smLook s.hub.sec.rots i.toNat = none → s.hub.on F.SECCTL_rotate_en = true →
        s.hub.sec.rots.length < 4096 → Answers (.keyrotate tm w l) s (fun t => only t x.r
          ∧ (smLook t.hub.sec.rots i.toNat).map (fun q => (q.phase, q.newG)) = some (0, x.r.keygen + 1)))

/-! ### Images -/

/-- The loads (R102, R128, R223, R248, R276): where what they replace is not in use, the line is counted and the image is read from the
address it gives, and nothing else changes until the image has arrived. PROGDROP and PLANDROP empty their slot (R223, R276), and
RECOMPOSE schedules the switch of R172 for the NT it gives, and tells every other active device, where this device holds the plan and the
free value says the others do (log 2); that message's form is the model's choice (log 152). -/
def Obligations.ImageCommands : Prop :=
  (∀ (tm : Nt) (w : BitVec 8) (l : CmdLine) (s : State),
    let h := s.hub.stamp tm
    let reads (c : Instr) (op : BitVec 8) (n : Nat) : Prop := h.admits w op l = true → s.hub.hubBad = false →
      BecomesSending c s (h.counted w op) (.hostRead s.hub.nextId (BitVec.ofNat 64 (l.opd 32 8)) n)
    (s.hub.anyRec (fun r => r.stopSet.toNat == l.opd 40 2) = false → reads (.stopload tm w l) 0x10 1152)
    ∧ (s.hub.anyRec (fun r => r.gramSlot.toNat == l.opd 48 2) = false → reads (.gramload tm w l) 0x11 (l.opd 40 8))
    ∧ ((smGet {} s.hub.im.adapters (l.opd 48 2)).vers.countP (fun a => a.commit.isSome) < 4 → reads (.adapterload tm w l) 0x12 (l.opd 40 8))
    ∧ (s.hub.anyRec (fun r => r.prog.toNat == l.opd 40 1) = false → reads (.progload tm w l) 0x13 0)
    ∧ reads (.modelload tm w l) 0x15 (l.opd 40 8)
    ∧ reads (.planload tm w l) 0x16 (l.opd 40 8))
  ∧ (∀ (tm : Nt) (w : BitVec 8) (l : CmdLine) (s : State),
    let h := s.hub.stamp tm
    let k := l.opd 40 1
    let n := l.opd 48 1
    let m := l.opd 32 1
    (h.admits w 0x14 l = true → s.hub.anyRec (fun r => r.prog.toNat == k) = false →
      Becomes (.progdrop tm w l) s (({ h.counted w 0x14 with im := { s.hub.im with progs := smDel s.hub.im.progs k } } : Hub).grnRelease (progKey k)))
    ∧ (h.admits w 0x17 l = true → s.hub.slotActive n = false →
      let x := (smGet [] s.hub.im.plans n).foldl (fun x p => x.grnRelease (planKey n p.base.toNat)) (h.counted w 0x17)
      Becomes (.plandrop tm w l) s ((({ x with im := { x.im with plans := smDel x.im.plans n } } : Hub).p F.POOLPLAN_loaded
        (setBits (x.g F.POOLPLAN_loaded) n n 0)).pi F.PLANSLOT_set_id n 0))
    ∧ (h.admits w 0x18 l = true → bitsOf (s.hub.g F.POOLPLAN_loaded) m m = 1 → s.hub.rcmp = none →
      Answers (.recompose tm w l) s (fun t => HubOnly s t
        ∧ ((Config.freeValue s.hub.free).getLsbD 0 = true → t.hub.alike { h.counted w 0x18 with rcmp := t.hub.rcmp }
          ∧ t.hub.rcmp.map (fun r => (r.slot, r.demote, r.eff)) =
            some (BitVec.ofNat 3 m, l.opd 33 1 == 1, BitVec.ofNat 64 (l.opd 40 8))
          ∧ ∀ d : BitVec 6, d.toNat < s.hub.g F.NFNODE_active → d.toNat ≠ s.hub.dev →
            Out.recompose d (BitVec.ofNat 3 m) (l.opd 33 1 == 1) (BitVec.ofNat 64 (l.opd 40 8)) ∈ t.hub.out))))

/-! ### Migration and ownership -/

/-- The receiving side of a migration (R175 to R177, R182): an OFFER is refused for the first reason of R177 that holds, where space is
missing with eviction engaged (R176), or staged and accepted; of a session that this device holds under an older epoch it also tells the
owner mismatch (R180). A PART is staged, one for the shards of another device of the group opens a staging of its own, one of an unknown
migration is ignored, and a damaged one ends its migration with reason 0x0A; what is not continued in time is dropped, its reservations
released. A MIRROR is stored, its log written to the Granary, and tells a sender that its intake may complete (log 25). Beside that only
reports change. Whether other devices of the group have space is a free value (log 2). -/
def Obligations.MigrationReceives : Prop :=
  (∀ (tm : Nt) (src : BitVec 6) (m : OfferMsg) (i : Handle) (g : Hub) (s : State),
    let h := s.hub.stamp tm
    let d := h.dropStaged m.sk
    let window := (List.range 64).any (fun w =>
      s.hub.gi F.CMDWIN_enable w == 1 && s.hub.gi F.CMDWIN_partition w == m.part.toNat && s.hub.gi F.CMDWIN_tenant w == m.tenant.toNat)
    let gram := m.gram = 0 ∨ ∃ y, smLook s.hub.im.grams m.gram.toNat = some y ∧ y.digest = m.gramDig
    let stop := m.stop = 0 ∨ ∃ y, smLook s.hub.im.stopSets m.stop.toNat = some y ∧ Config.sha3 y.img = m.stopDig
    let present := s.hub.gi F.PARTCTL_present m.part.toNat = 1
    let refused (r : BitVec 8) : Prop := Becomes (.offer tm src m) s (d.send src (.refuse m.sk r))
    let older := newer 16 (m.epoch - 1).toNat (s.hub.s i).r.ownEpoch.toNat
    let asked := m.kvmode = false ∧ s.hub.sameGroup src = false ∧ 1 < s.hub.groupN
    let bit := (Config.freeValue s.hub.free).getLsbD 0
    let full : Hub := if s.hub.on F.TIERCTL_evict_en then { d with grp := { d.grp with evicting := true } } else d
    let y : MigIn := { src := src, offer := some m, root := s.hub.rootIndex i, units := g.offerUnits src m, lastNt := h.nt }
    (s.hub.findSk m.sk = some i → older = false ∨ (s.hub.s i).r.omm = true → refused 1)
    ∧ (s.hub.findSk m.sk = some i → older = true → (s.hub.s i).r.omm = false →
      Becomes (.offer tm src m) s (((h.ownerMismatch i (m.epoch - 1)).dropStaged m.sk).send src (.refuse m.sk 1)))
    ∧ (s.hub.findSk m.sk = none → s.hub.freeHandle = none → refused 2)
    ∧ (s.hub.findSk m.sk = none → s.hub.freeHandle = some i →
        (¬ gram → refused 3) ∧ (gram → ¬ stop → refused 4) ∧ (gram → stop → ¬ present ∨ window = false → refused 5)
        ∧ (gram → stop → present → window = true →
          (d.offerSpace src m (s.hub.rootIndex i) = none → Becomes (.offer tm src m) s (full.send src (.refuse m.sk 6)))
          ∧ (d.offerSpace src m (s.hub.rootIndex i) = some g →
            (asked → bit = true → Becomes (.offer tm src m) s (full.send src (.refuse m.sk 6)))
            ∧ (¬ asked ∨ bit = false →
              Becomes (.offer tm src m) s (({ g with migIn := smPut g.migIn m.sk.toNat y } : Hub).send src (.accept m.sk)))))))
  ∧ (∀ (tm : Nt) (src : BitVec 6) (sk : BitVec 128) (body : PartBody) (x : MigIn) (o : OfferMsg) (s : State),
    let h := s.hub.stamp tm
    let v := (Config.freeValue s.hub.free).setWidth 32
    let ofKv := (∃ sh kv hd hi b f, body = .root sh kv hd hi b f) ∨ ∃ sh r pg p po, body = .piece sh r pg p po
    (smLook s.hub.migIn sk.toNat = some x → body ≠ .fin → Becomes (.part tm src sk body true) s
        { h with migIn := smPut s.hub.migIn sk.toNat { x with parts := x.parts ++ [body], lastNt := h.nt } })
    ∧ (smLook s.hub.migIn sk.toNat = some x → Becomes (.part tm src sk .fin true) s
        { h with migIn := smPut s.hub.migIn sk.toNat { x with fin := true, lastNt := h.nt, id := v } })
    ∧ (smLook s.hub.migIn sk.toNat = none → ofKv → s.hub.groupN ≠ 1 → s.hub.findSk sk = none → Becomes (.part tm src sk body true) s
        { h with migIn := smPut s.hub.migIn sk.toNat { src := src, offer := none, root := v, parts := [body], lastNt := h.nt } })
    ∧ (smLook s.hub.migIn sk.toNat = none → (∃ b, body = .record b) ∨ s.hub.groupN = 1 ∨ s.hub.findSk sk ≠ none →
        Ends (.part tm src sk body true) s h)
    ∧ (smLook s.hub.migIn sk.toNat = some x → x.offer = some o → Becomes (.part tm src sk body false) s
        (((h.inc F.MOLMSGDROP_count).dropStaged sk).send x.src (.refuse o.sk 0x0A)))
    ∧ (smLook s.hub.migIn sk.toNat = some x → x.lastNt.toNat + s.hub.migTmo ≤ h.nt.toNat → Becomes (.stagingTimeout tm sk) s
        (({ h with migIn := smDel s.hub.migIn sk.toNat } : Hub).unreserve x.root))
    ∧ (smLook s.hub.migIn sk.toNat = some x → h.nt.toNat < x.lastNt.toNat + s.hub.migTmo → Ends (.stagingTimeout tm sk) s h))
  ∧ (∀ (tm : Nt) (src : BitVec 6) (mm : MirrorMsg) (i : Handle) (g : Hub) (id : Nat) (c : Option Sub) (toks : List (BitVec 32)) (s : State),
    let h := s.hub.stamp tm
    let r := Rec.ofBytes mm.image
    let mine (e : Nat × DurWait) : Bool := match e.2 with
      | .intakeMirror j _ _ => j == i
      | _ => false
    (s.hub.findSk r.sk = none → h.grnLog (objKey 2 r.nsi.toNat) 0 mm.toks.length r.keygen = some g → Becomes (.mirror tm src mm) s
        (({ g with mirrors := smPut g.mirrors r.sk.toNat ⟨src, mm⟩ } : Hub).addDur 1 (4 * mm.toks.length) (.mirror r.sk)))
    ∧ (s.hub.findSk r.sk = none → h.grnLog (objKey 2 r.nsi.toNat) 0 mm.toks.length r.keygen = none →
        Becomes (.mirror tm src mm) s (h.p F.TIERSTAT_logblk 1))
    ∧ (s.hub.findSk r.sk = some i → src ≠ r.ownDev → s.hub.durs.find? mine = some (id, .intakeMirror i c toks) →
        Ends (.mirror tm src mm) s (({ h with durs := smDel s.hub.durs id } : Hub).landIntake i c toks)))

/-- The sending side of a migration (R175 to R178): ACCEPT sends the parts and waits for the ACK, a second one does nothing; REFUSE and the
offer's timeout return the session to its prior state with the reason, counted, and beside its program's resumption change nothing else;
ACK frees the record, which forwards to the new NSI; the ACK's timeout aborts into an owner mismatch, once the last part has left. An ACK that
ends no migration tells of another holder, and a REFUSE for a damaged part may come from any device of the receiver's group. No other session
changes. -/
def Obligations.MigrationSends : Prop :=
  ∀ (tm : Nt) (src : BitVec 6) (sk : BitVec 128) (i : Handle) (m : MigOut) (nsi : W64) (epoch : BitVec 16) (reason : BitVec 8) (s : State),
    let h := s.hub.stamp tm
    let x := s.hub.s i
    let calm := x.queued = 0 ∧ x.waitHit = false ∧ x.actions = [] ∧ x.relHeld = none ∧ x.dropHeld = false
    let back (t : State) (r : Nat) : Prop := (t.hub.s i).r.state = x.r.prior ∧ (t.hub.s i).migOut = none ∧ HubOnly s t
      ∧ t.hub.g F.MIGABORT_count = satAdd 64 (s.hub.g F.MIGABORT_count) 1
      ∧ { t.hub.rest with seqq := [] } = { h.rest with seqq := [] }
      ∧ (∀ a, a ∉ Hub.reportRegs → a ∉ [F.MIGABORT_count.a, F.DGJPOS_position.a] → t.hub.reg a = s.hub.reg a)
      ∧ (∀ j, j ≠ i → (t.hub.s j).kept = (s.hub.s j).kept)
      ∧ (x.blk = none → x.r.prior ≠ S.faulted → (t.hub.s i).runnable = true)
      ∧ (∀ d, x.blk = some (.migrate d) → (t.hub.s i).r.a = (x.r.wReg d (BitVec.ofNat 64 r)).a
          ∧ (t.hub.s i).r.lastStatus = St.migrateAborted ∧ (t.hub.s i).r.pc = x.r.pc + 1)
    (s.hub.outTo src sk = some (i, m) → m.answered = false → Becomes (.accept tm src sk) s ((h.sendParts i m).modS i (fun x =>
        { x with migOut := some { m with answered := true, due := BitVec.ofNat 64 (h.nt.toNat + s.hub.migTmo) } })))
    ∧ (s.hub.outTo src sk = some (i, m) → m.answered = true → Ends (.accept tm src sk) s h)
    ∧ (s.hub.outTo src sk = some (i, m) → calm → Answers (.refuse tm src sk reason) s (fun t => back t reason.toNat))
    ∧ (s.hub.outTo src sk = none → (h.outBeside src sk = none ∨ reason ≠ 0x0A) → Ends (.refuse tm src sk reason) s h)
    ∧ (s.hub.outTo src sk = none → h.outBeside src sk = some (i, m) → calm → Answers (.refuse tm src sk 0x0A) s (fun t => back t 0x0A))
    ∧ (s.hub.outTo src sk = none → Ends (.ack tm src sk epoch nsi) s (h.otherHolder sk epoch))
    ∧ (x.migOut = some m → m.answered = true → s.hub.partsQueued x.r.sk m.target = true → Ends (.ackTimeout tm i) s h)
    ∧ (x.migOut = some m → m.answered = false → m.due ≤ h.nt → calm → Answers (.offerTimeout tm i) s (fun t => back t 8))
    ∧ (x.migOut = some m → h.nt < m.due → Ends (.offerTimeout tm i) s h ∧ Ends (.ackTimeout tm i) s h)
    ∧ (s.hub.outTo src sk = some (i, m) → Answers (.ack tm src sk (x.r.ownEpoch + 1) nsi) s (fun t =>
        (t.hub.s i).kept = ({ fwd := nsi } : Sess).kept ∧ HubOnly s t ∧ (∀ j, j ≠ i → (t.hub.s j).kept = (s.hub.s j).kept)))
    ∧ (x.migOut = some m → m.answered = true → s.hub.partsQueued x.r.sk m.target = false → m.due ≤ h.nt → calm → x.blk = none → Answers (.ackTimeout tm i) s (fun t =>
        (t.hub.s i).r.state = x.r.prior ∧ (t.hub.s i).r.omm = true ∧ (t.hub.s i).r.lastStatus = St.ownerConflict
        ∧ (t.hub.s i).seen = x.r.ownEpoch + 1 ∧ (t.hub.s i).probe.map (·.1) = some m.target
        ∧ HubOnly s t ∧ (∀ j, j ≠ i → (t.hub.s j).kept = (s.hub.s j).kept)))

/-- Ownership, each command's answer in every case (R49, R178, R180, R181, R183, R184). A PROBE is answered with the epoch held, or that none
is, and one of another epoch puts the session in mismatch. The reply that the probe waits for ends the mismatch or is remembered; another one
tells of a holder. A probe that is due is repeated. A newer RELEASE drops the session, one that is MIGRATING once it has left that state. An
EVENT reaches its record, is forwarded, or is lost. EVACUATE of a prefill pool in group fault adopts its mirrors on a decode device; one without a
FREE handle stays a mirror (the model's choice: log 154). -/
def Obligations.OwnershipMessages : Prop :=
  ∀ (tm : Nt) (src d : BitVec 6) (sk : BitVec 128) (epoch e : BitVec 16) (i : Handle) (due : Nt) (nsi : W64) (bit : BitVec 4) (w : BitVec 8)
    (l : CmdLine) (s : State),
    let h := s.hub.stamp tm
    let x := h.s i
    let calm := x.actions = [] ∧ x.relHeld = none ∧ x.dropHeld = false
    let others (t : State) : Prop := HubOnly s t ∧ ∀ j, j ≠ i → (t.hub.s j).kept = (s.hub.s j).kept
    let k := nsiHandle nsi
    let y := h.s k
    let mine := nsiDev nsi = h.dev ∧ smGet 0 h.gens k.toNat = nsiGen nsi
    let waits := x.probe.map (·.1) = some src
    let served : Sess := { x with probe := none, seen := 0, r := { x.r with omm := false, lastStatus := St.ok } }
    let told : BitVec 16 := match x.relHeld with
      | none => epoch
      | some f => if newer 16 epoch.toNat f.toNat then epoch else f
    let live := y.r.state ≠ S.free ∧ y.r.state ≠ S.migrating ∧ y.actions = [] ∧ y.relHeld = none ∧ y.dropHeld = false
      ∧ y.r.waitMask.getLsbD bit.toNat = false ∧ (y.r.waitExp ≠ 0 → h.nt < y.r.waitExp)
    -- PROBE
    (h.findSk sk = none → Ends (.probe tm src sk epoch) s (h.send src (.probeReply sk none)))
    ∧ (h.findSk sk = some i → x.r.ownEpoch = epoch ∨ x.r.omm = true →
        Ends (.probe tm src sk epoch) s (h.send src (.probeReply sk (some x.r.ownEpoch))))
    ∧ (h.findSk sk = some i → x.r.ownEpoch ≠ epoch → x.r.omm = false →
        Ends (.probe tm src sk epoch) s ((h.ownerMismatch i epoch).send src (.probeReply sk (some x.r.ownEpoch)))
        ∧ Answers (.probe tm src sk epoch) s (fun t => others t ∧ (t.hub.s i).r.omm = true ∧ (t.hub.s i).r.lastStatus = St.ownerConflict
          ∧ (t.hub.s i).seen = epoch ∧ (t.hub.s i).r.state = x.r.state))
    -- PROBE_REPLY
    ∧ (h.findSk sk = none → ∀ held, Ends (.probeReply tm src sk held) s h)
    ∧ (h.findSk sk = some i → ¬ waits → Ends (.probeReply tm src sk none) s h ∧ Ends (.probeReply tm src sk (some e)) s (h.otherHolder sk e))
    ∧ (h.findSk sk = some i → waits → Ends (.probeReply tm src sk none) s ((h.setS i served).settled i)
        ∧ (newer 16 e.toNat x.r.ownEpoch.toNat = false → Ends (.probeReply tm src sk (some e)) s ((h.setS i served).settled i))
        ∧ (newer 16 e.toNat x.r.ownEpoch.toNat = true → Ends (.probeReply tm src sk (some e)) s (h.setS i { x with probe := none, seen := e })))
    ∧ (h.findSk sk = some i → waits → newer 16 e.toNat x.r.ownEpoch.toNat = false → calm →
        Answers (.probeReply tm src sk (some e)) s (fun t => others t ∧ (t.hub.s i).r.omm = false ∧ (t.hub.s i).seen = 0
          ∧ (t.hub.s i).probe = none ∧ (t.hub.s i).r.lastStatus = St.ok ∧ (t.hub.s i).r.state = x.r.state))
    -- PROBE_INTERVAL
    ∧ (h.findSk sk = none ∨ h.findSk sk = some i ∧ (x.probe = none ∨ x.probe = some (d, due) ∧ h.nt < due) → Ends (.probeInterval tm sk) s h)
    ∧ (h.findSk sk = some i → x.probe = some (d, due) → due ≤ h.nt → Ends (.probeInterval tm sk) s
        ((h.setS i { x with probe := some (d, BitVec.ofNat 64 (h.nt.toNat + max 100 (h.g F.MIGPROBE_us) * 1000)) }).send d
          (.probe x.r.sk x.r.ownEpoch)))
    -- RELEASE
    ∧ (h.findSk sk = none ∨ h.findSk sk = some i ∧ newer 16 epoch.toNat x.r.ownEpoch.toNat = false → Ends (.release tm src sk epoch) s h)
    ∧ (h.findSk sk = some i → newer 16 epoch.toNat x.r.ownEpoch.toNat = true →
        Ends (.release tm src sk epoch) s ((h.setS i { x with relHeld := some told }).settled i)
        ∧ (calm → x.r.state ≠ S.free → x.r.state ≠ S.migrating →
          Answers (.release tm src sk epoch) s (fun t => (t.hub.s i).kept = ({} : Sess).kept ∧ HubOnly s t))
        ∧ (calm → x.r.state = S.migrating → Ends (.release tm src sk epoch) s (h.setS i { x with relHeld := some told })))
    -- EVENT
    ∧ (¬ mine ∨ mine ∧ y.r.state = S.free ∧ y.fwd = 0 → Ends (.event tm src nsi bit) s h)
    ∧ (mine → y.r.state = S.free → y.fwd ≠ 0 → Ends (.event tm src nsi bit) s (h.send (BitVec.ofNat 6 (nsiDev y.fwd)) (.event y.fwd bit)))
    ∧ (mine → y.r.state ≠ S.free → Ends (.event tm src nsi bit) s ((h.deliver k bit.toNat).settled k))
    ∧ (mine → live → Answers (.event tm src nsi bit) s (fun t => HubOnly s t ∧ (∀ j, j ≠ k → (t.hub.s j).kept = (s.hub.s j).kept)
        ∧ (t.hub.s k).r = { y.r with pending := y.r.pending ||| BitVec.ofNat 16 (2 ^ bit.toNat) }))
    ∧ (mine → y.r.state = S.migrating → (y.r.waitExp ≠ 0 → h.nt < y.r.waitExp) → Ends (.event tm src nsi bit) s
        ((h.setS k { y with queued := y.queued ||| BitVec.ofNat 16 (2 ^ bit.toNat) }).settled k))
    -- EVACUATE
    ∧ (let b := l.opd 32 1
       let c := h.subOf w 0x19 l
       let g := (h.counted w 0x19).fresh.2
       let pool := (smGet [] g.im.plans (g.g F.POOLPLAN_active)).find? (fun p => p.base.toNat == b)
       let inPool (d : BitVec 6) : Bool := match pool with
         | none => false
         | some p => decide (b ≤ d.toNat ∧ d.toNat < b + p.n.toNat)
       let isPool := ∃ p, pool = some p ∧ p.role = 2
       let fault := (if b = g.g F.POOLROLE_base ∧ g.g F.POOLROLE_size ≠ 0 then g.faulted else (h.counted w 0x19).fresh.1.getLsbD 0) = true
       let z := ((g.migIn.filter (fun e => inPool e.2.src)).map (·.1)).foldl (fun h k => h.dropStaged (BitVec.ofNat 128 k)) g
       h.admits w 0x19 l = true →
         (¬ isPool ∨ ¬ fault → Ends (.evacuate tm w l) s (g.complete c St.badState))
         ∧ (isPool → fault → g.inDecode = false → Ends (.evacuate tm w l) s (g.complete c St.ok))
         ∧ (isPool → fault → g.inDecode = true → Ends (.evacuate tm w l) s
             (((z.mirrors.filter (fun e => inPool e.2.src)).foldl (fun h e => h.adopt e.2) z).complete c St.ok)))

/-! ### Quern and AIX -/

/-- Quern's commands where Quern is enabled (R337 to R340, R348, R352): QCREATE makes an index or reads its codebook; QDESTROY marks it;
QSEARCH, QINSERT and QDELETE read their request block, an edit taking its place in order of intake; QFILTER reads the bytes it names;
QMERGE starts a merge. -/
def Obligations.QuernCommands : Prop :=
  ∀ (tm : Nt) (w : BitVec 8) (l : CmdLine) (q : QIdx) (s : State),
    let h := s.hub.stamp tm
    let v := l.opd
    let addr : W64 := BitVec.ofNat 64 (v 32 8)
    let side := max 4096 (s.hub.g F.QSIDECAP_entries)
    let made : QIdx := { dim := v 34 2, fmt := v 36 1, metric := v 37 1, m := v 38 2, r := v 40 1, cap := v 44 4, tenant := BitVec.ofNat 24 (v 48 3), part := BitVec.ofNat 4 (v 41 1), sideCap := side, ready := v 36 1 == 2, reading := if v 36 1 == 2 then 0 else 1 }
    let fits := (s.hub.qn.idx.map (fun e => quernBytes e.2.cap e.2.m e.2.r e.2.sideCap e.2.dim)).sum
        + quernBytes (v 44 4) (v 38 2) (v 40 1) side (v 34 2) ≤ s.hub.qn.mem * 2 ^ 30
      ∧ (s.hub.qn.idx.map (fun e => e.2.cap)).sum + v 44 4 ≤ 1073741824
    let put (op : BitVec 8) (k : Nat) (q : QIdx) : Hub := { h.counted w op with qn := { s.hub.qn with idx := smPut s.hub.qn.idx k q } }
    let found (op : BitVec 8) : Prop := h.admits w op l = true ∧ s.hub.hubBad = false
      ∧ s.hub.qFind (v 40 2) (h.subOf w op l).tenant (h.subOf w op l).part = some q
    let e (op : BitVec 8) : QEdit := { who := .cmd (h.subOf w op l), nt := h.nt, w := w.toNat + 1 }
    let before (a : QEdit) : Bool := Hub.qBefore (a.nt, a.w) (h.nt, w.toNat + 1)
    let edited (op : BitVec 8) : QIdx :=
      { q with reading := q.reading + 1, edits := q.edits.takeWhile before ++ [e op] ++ q.edits.dropWhile before }
    s.hub.on F.QCTL_enable = true →
    (h.admits w 0x20 l = true → s.hub.qidx (v 32 2) = none → fits → v 36 1 = 2 → Becomes (.qcreate tm w l) s (put 0x20 (v 32 2) made))
    ∧ (h.admits w 0x20 l = true → s.hub.hubBad = false → s.hub.qidx (v 32 2) = none → fits → v 36 1 ≠ 2 →
        BecomesSending (.qcreate tm w l) s (put 0x20 (v 32 2) made) (.hostRead s.hub.nextId (BitVec.ofNat 64 (v 56 8)) (512 * v 34 2)))
    ∧ (h.admits w 0x21 l = true → s.hub.qidx (v 32 2) = some q → q.destroy = none →
        Becomes (.qdestroy tm w l) s (put 0x21 (v 32 2) { q with destroy := some (h.subOf w 0x21 l) }))
    ∧ (found 0x22 → BecomesSending (.qsearchCommand tm w l) s (put 0x22 (v 40 2) { q with reading := q.reading + 1 })
        (.hostRead s.hub.nextId addr (64 + q.vecBytes)))
    ∧ (found 0x23 → BecomesSending (.qinsertCommand tm w l) s (put 0x23 (v 40 2) (edited 0x23))
        (.hostRead s.hub.nextId addr (64 + q.vecBytes)))
    ∧ (found 0x24 → BecomesSending (.qdeleteCommand tm w l) s (put 0x24 (v 40 2) (edited 0x24)) (.hostRead s.hub.nextId addr 64))
    ∧ (found 0x25 → BecomesSending (.qfilter tm w l) s (put 0x25 (v 40 2) { q with reading := q.reading + 1 })
        (.hostRead s.hub.nextId addr (v 48 4)))
    ∧ (found 0x26 → q.merge = none → Becomes (.qmerge tm w l) s
        ((put 0x26 (v 40 2) { q with merge := some (h.nt, [h.subOf w 0x26 l]) }).p F.QSTAT_merging 1))

/-- Quern's and AIX's events (R331, R334, R335, R339, R345, R351, R352): a waiting search takes its snapshot while fewer than 64 run; a
result is counted and written, its first granule last; a destroyed index on which nothing is in flight is freed; a merge's generation
becomes current, and the merge asked for meanwhile, or one that the side list still calls for, starts; a bank's copy completes; the scrubber repairs, a bank that cannot be repaired
starts its copy, and is a group fault where the spare is in use. Where there is nothing to do, nothing happens. -/
def Obligations.QuernEvents : Prop :=
  ∀ (tm : Nt) (x : QSearch) (rest : List QSearch) (q : QIdx) (bad : List (BitVec 32)) (k : BitVec 6) (c : Sub) (g : QGen) (old : List QGen)
      (n : Nt) (subs : List Sub) (bank : BitVec 4) (ent : BitVec 14) (bads : List (BitVec 4 × BitVec 14 × Bool)) (s : State),
    let h := s.hub.stamp tm
    let gen := ((q.gens.find? (fun g => decide (g.nt < h.nt))).orElse (fun _ => q.gens.getLast?)).getD {}
    let filt := (((smGet [] q.filters x.req.filter).find? (fun f => decide (f.1 < h.nt))).map (·.2)).getD []
    let ans := q.answer x (s.hub.g F.QBRUTE_items) (bad.map (·.toNat))
    let short := decide (ans.ents.length < x.req.k)
    let block := padTo (64 * cdiv (32 + 16 * ans.ents.length) 64) (Hub.qBlock x ans)
    let counts := (((({ h with qn := { s.hub.qn with taken := rest } } : Hub).inc F.QSEARCHES_count).inc F.QVISITS_count ans.cnt).inc
      F.QPOISON_count ans.bad).inc F.QSHORT_count (b2n short)
    let status := if short then St.filterShort else St.ok
    let done : WrWait := match x.who with
      | .cmd c => { addr := 0, data := [], status := status, sub := some (c, BitVec.ofNat 32 ans.ents.length) }
      | .ins i nsi => { addr := 0, data := [], status := status, ins := some (i, nsi, ans.ents.length) }
    let made := { q.mergeGen g n (s.hub.qStarts k.toNat) with nt := h.nt }
    let side := q.side.filter (fun a => (smLook made.adj a).isNone && !(q.purged n (s.hub.qStarts k.toNat)).contains a)
    let merged := ((h.setQ k.toNat { q with gens := made :: keepSeen (·.nt) h.nt (g :: old), side := side, merge := none, want := [] }).qSweep
      k.toNat).inc F.QMERGES_count
    (s.hub.qn.waiting = x :: rest → s.hub.qn.taken.length < 64 → s.hub.qidx x.idx = some q → Ends (.quernSearchStart tm) s
        { h with qn := { s.hub.qn with waiting := rest, taken := s.hub.qn.taken ++ [{ x with start := h.nt, gen := gen, filt := filt }] } })
    ∧ (s.hub.qn.waiting = [] ∨ 64 ≤ s.hub.qn.taken.length → Ends (.quernSearchStart tm) s h)
    ∧ (s.hub.qn.taken = [] → Ends (.quernResult tm bad) s h)
    ∧ (s.hub.qn.taken = x :: rest → s.hub.qidx x.idx = some q → block.length ≤ 64 → Ends (.quernResult tm bad) s
        (((counts.hostWrite { done with addr := x.req.result, data := block.take 64 }).qSweep x.idx).qGo x.idx))
    ∧ (s.hub.qn.taken = x :: rest → s.hub.qidx x.idx = some q → 64 < block.length → Ends (.quernResult tm bad) s
        (((counts.hostWrite { done with addr := x.req.result + 64, data := block.drop 64, first := some (x.req.result, block.take 64) }).qSweep
          x.idx).qGo x.idx))
    ∧ (s.hub.qidx k.toNat = some q → q.destroy = some c → s.hub.qIdle k.toNat q = true → Ends (.quernIndexFree tm k) s
        ((({ h with qn := { s.hub.qn with idx := smDel s.hub.qn.idx k.toNat } } : Hub).grnRelease (objKey 7 k.toNat)).complete c St.ok))
    ∧ (s.hub.qidx k.toNat = some q → q.merge = some (n, subs) → q.gens = g :: old →
        let told := subs.foldl (fun h c => h.complete c St.ok) (merged.p F.QSTAT_merging (b2n (merged.qn.idx.any (fun e => e.2.merge.isSome))))
        let full := told.on F.QCTL_merge_en && told.qThreshold q side.length
        Ends (.mergeCommit tm k) s ((if q.want.isEmpty && !full then told else told.qMerge k.toNat q.want).qGo k.toNat))
    ∧ (s.hub.qidx k.toNat = some q → q.destroy = none ∨ s.hub.qIdle k.toNat q = false → Ends (.quernIndexFree tm k) s h)
    ∧ (s.hub.qidx k.toNat = some q → q.merge = none → Ends (.mergeCommit tm k) s h)
    ∧ (s.hub.aix.swap ≠ some bank.toNat → Ends (.bankSwap tm bank) s h)
    ∧ (s.hub.aix.swap = some bank.toNat → Ends (.bankSwap tm bank) s
        ((((({ h with aix := { s.hub.aix with swap := none, spare := some bank.toNat } } : Hub).setReg 0x3000C
          (BitVec.ofNat 64 (pairOf 16 bank.toNat))).p F.AIXSTAT_spare_used 1).p F.AIXSTAT_shadow 1).devEv 0x0302 4 bank.toNat).afterSwap)
    ∧ (s.hub.on F.AIXCTL_scrub_en = true → (∀ b ∈ bads, b.2.2 = true) → Ends (.aixScrub tm bads) s
        (bads.foldl (fun h _ => h.inc F.AIXREPAIR_count) h))
    ∧ (s.hub.on F.AIXCTL_scrub_en = true → s.hub.on F.AIXCTL_spare_en = true → s.hub.aix.swap = none → s.hub.aix.spare = none →
        bank.toNat ∉ s.hub.aix.bad → Ends (.aixScrub tm [(bank, ent, false)]) s
          { h.inc F.AIXREPAIR_count with aix := { s.hub.aix with bad := s.hub.aix.bad ++ [bank.toNat], swap := some bank.toNat } })
    ∧ (s.hub.on F.AIXCTL_scrub_en = true → s.hub.aix.spare ≠ none → bank.toNat ∉ s.hub.aix.bad → Ends (.aixScrub tm [(bank, ent, false)]) s
        (((({ h.inc F.AIXREPAIR_count with aix := { s.hub.aix with bad := s.hub.aix.bad ++ [bank.toNat] } } : Hub).p F.AIXSTAT_nospare 1).devEv
          0x0303 4 bank.toNat).raiseFault 5))
    ∧ (s.hub.on F.AIXCTL_scrub_en = false → Ends (.aixScrub tm bads) s h)

/-! ### Checkpoints -/

/-- CUT waits for the next boundary and RESTORE for its group's agreement (R396, R404, R414). A drained page joins the copy that its
sender has open, and the last one completes it and is answered; position 0 notes what each position holds; a settled transfer leaves
both lists; a restored group takes back what was claimed from it after its cut; the buddy takes a delta; a finished slot write makes its
image that slot's, and the next starts; a group in fault restores by itself CKPTHOLD after the fault (R401, R402, R403, R405, R412).
When a slot's units are allocated is the model's choice (log 160). -/
def Obligations.CutsAndRestores : Prop :=
  (∀ (tm : Nt) (w : BitVec 8) (l : CmdLine) (s : State),
    let h := s.hub.stamp tm
    let a := h.counted w 0x30
    let b := h.counted w 0x31
    (h.admits w 0x30 l = true → a.g F.POOLROLE_size ≠ 0 → l.opd 32 1 = a.g F.POOLROLE_base → a.faulted = false →
      Ends (.cutCommand tm w l) s { a with ck := { a.ck with forced := a.ck.forced ++ [h.subOf w 0x30 l] } })
    ∧ (h.admits w 0x30 l = true → a.g F.POOLROLE_size = 0 ∨ l.opd 32 1 ≠ a.g F.POOLROLE_base ∨ a.faulted = true →
      Ends (.cutCommand tm w l) s (a.complete (h.subOf w 0x30 l) St.badState))
    ∧ (h.admits w 0x31 l = true → b.faulted = true → l.opd 32 1 = b.g F.POOLROLE_base → b.ck.restore = none →
      Ends (.restoreCommand tm w l) s
        (({ b with ck := { b.ck with restore := some (l.opd 33 1, some (h.subOf w 0x31 l)) } } : Hub).p F.CKPTSTAT_restoring 1)))
  ∧ (∀ (tm : Nt) (s : State),
    let h := s.hub.stamp tm
    (∀ src epoch page data last pages, h.ck.bcopies.find? (fun c => c.1 == epoch && !c.2.2) = some (epoch, pages, false) →
      let all := (epoch, smPut pages page data, last) :: h.ck.bcopies.filter (fun c => c.1 != epoch)
      let g : Hub := { h with ck := { h.ck with bcopies := all.filter (fun c => !c.2.2) ++ (all.filter (fun c => c.2.2)).take 2 } }
      Ends (.drainPage tm src epoch page data last) s
        (if last && !g.deltasWait src epoch then g.send src (.drainDone epoch) else g))
    ∧ (∀ pos epoch, h.g F.POOLROLE_size ≠ 0 → h.position = 0 → pos.toNat ≠ 0 →
      let g : Hub := { h with ck := { h.ck with held := smPut h.ck.held pos.toNat epoch } }
      Becomes (.drainDone tm pos epoch) s { g with ck := { g.ck with wait := g.ck.wait.filter (fun e => !g.allHeld e.1) } })
    ∧ (∀ pos epoch, h.g F.POOLROLE_size ≠ 0 → pos.toNat = h.position → Ends (.drainDone tm pos epoch) s (h.holdCut epoch))
    ∧ (∀ src sk, Ends (.drainSettled tm src sk) s
        { h with ck := { h.ck with sends := h.ck.sends.filter (fun e => !(e.target == src && e.sess.r.sk == sk))
                                   claims := h.ck.claims.filter (fun e => !(e.src == src && e.sk == sk)) } })
    ∧ (∀ src cut e i, h.ck.sends = [] → h.ck.claims = [e] → e.src = src → cut ≤ e.nt → h.findSk e.sk = some i → (h.s i).r.omm = false →
      Ends (.drainRestored tm src cut) s
        (({ h with ck := { h.ck with sends := [], claims := [] } } : Hub).ownerMismatch i (e.epoch + 1)))
    ∧ (∀ src epoch key data,
      let room := h.grnObject (objKey 6 (2 ^ 8 + key)) 6 data.length 0
      let g := (room.getD h).addDur 5 data.length (.buddy src epoch room.isSome)
      let cur := ((g.ck.bkv.find? (fun c => c.1 == epoch)).map (·.2)).getD ((g.ck.bkv.head?.map (·.2)).getD [])
      Ends (.buddy tm src epoch key data) s
        { g with ck := { g.ck with bkv := ((epoch, smPut cur key data) :: g.ck.bkv.filter (fun c => c.1 != epoch)).take 3 } })
    ∧ (∀ b img g, h.ck.writing = some (b, img) → h.grnObject (objKey 6 (b2n b)) 6 (4096 * (recPages img.sess).length + 64) 0 = some g →
      Ends (.ownSlotWrite tm) s ((({ g with ck := { g.ck with writing := none, slotA := (if b then g.ck.slotA else some img), slotB := (if b then some img else g.ck.slotB) } } : Hub).p F.CKPTEPOCH_own
        img.epoch.toNat).startSlot))
    ∧ (∀ b img, h.ck.writing = some (b, img) → h.grnObject (objKey 6 (b2n b)) 6 (4096 * (recPages img.sess).length + 64) 0 = none →
      Ends (.ownSlotWrite tm) s { h with ck := { h.ck with writing := none } })
    ∧ (h.ck.writing = none → Ends (.ownSlotWrite tm) s h)
    ∧ (∀ info f, h.ck.restore = none → h.on F.HDEVIDX_spare = false → h.ck.faultNt = some f → h.faulted = true →
        h.on F.CKPTCTL_auto_restore = true → f.toNat + h.g F.CKPTHOLD_ms * 1000000 ≤ h.nt.toNat →
      Ends (.autoRestore tm info) s (h.applyRestore info 0 0 none)))

/-! ### Security -/

/-- Keridy's commands and events (R419 to R423, R425, R432, R437, R438, R269): ATTEST, SEALOPEN and PROVISION with a key read their
block, SEALOPEN in Profile S alone (that it answers ST_BAD_STATE elsewhere is the model's choice: log 130); SEALCLOSE ends its context; PARTCLEAR wipes the stones of its partition's clusters, and no other, and releases its spill areas; FUSEADV raises its minimum;
PROVISION takes its request; the sweep rewrites a unit under the new generation; the last one retired completes; a failed health test of
the TRNG refuses randomness until one passes; IDE comes up. -/
def Obligations.SecurityCommandsAndEvents : Prop :=
  (∀ (tm : Nt) (w : BitVec 8) (l : CmdLine) (s : State),
     let h := s.hub.stamp tm
     let k (op : BitVec 8) := h.subOf w op l
     let g (op : BitVec 8) := h.counted w op
     let addr : W64 := BitVec.ofNat 64 (l.opd 32 8)
     (h.admits w 0x40 l = true → Ends (.attest tm w l) s ((g 0x40).hostRead addr 32 (.nonce (k 0x40))))
     ∧ (h.admits w 0x41 l = true → (g 0x41).sec.trngBad = false → s.hub.profS = true → Ends (.sealopen tm w l) s ((g 0x41).hostRead addr 1152 (.openBlk (k 0x41))))
     ∧ (h.admits w 0x41 l = true → (g 0x41).sec.trngBad = true ∨ s.hub.profS = false → Ends (.sealopen tm w l) s ((g 0x41).complete (k 0x41) St.badState))
     ∧ (∀ c, h.admits w 0x42 l = true → smLook (g 0x42).sec.ctx (l.opd 40 3) = some c → Ends (.sealclose tm w l) s
         (({ g 0x42 with sec := { (g 0x42).sec with ctx := smDel (g 0x42).sec.ctx (l.opd 40 3) } } : Hub).complete (k 0x42) St.ok))
     ∧ (h.admits w 0x45 l = true → (g 0x45).sec.clear = none → (g 0x45).inj = [] → l.opd 32 1 < 16 →
         (g 0x45).anyRec (fun r => r.part.toNat == l.opd 32 1) = false → Answers (.partclear tm w l) s (fun t =>
           (∀ x : BitVec 11, t.stn.get x =
             if x.toNat ∈ (g 0x45).partStones (l.opd 32 1) then (s.stn.get x).wiped else s.stn.get x)
           ∧ t.hub.g F.SECPCLEAR_count = satAdd 64 ((g 0x45).g F.SECPCLEAR_count) 1
           ∧ t.hub.kv.spill = (g 0x45).kv.spill.filter (fun e => e.1 / 2048 != l.opd 32 1) ∧ t.pending = s.pending))
     ∧ (∀ m, h.admits w 0x46 l = true → l.opd 32 1 ≠ 0 → (g 0x46).leastSecver (l.opd 32 1) = some m → l.opd 33 1 ≤ m →
         let c := l.opd 32 1
         let v := ((g 0x46).reg F.SECSVN_fw.a).toNat
         Ends (.fuseadv tm w l) s (((g 0x46).setReg F.SECSVN_fw.a
           (BitVec.ofNat 64 (setBits v (8 * c + 7) (8 * c) (max (bitsOf v (8 * c + 7) (8 * c)) (l.opd 33 1))))).complete (k 0x46) St.ok))
     ∧ (h.admits w 0x47 l = true → l.opd 33 1 = 0 → l.opd 40 8 = 0 →
         Ends (.provision tm w l) s (((((({ g 0x47 with sec := { (g 0x47).sec with prov := some ⟨l.opd 32 1 == 1, false, none⟩ } } : Hub).p
           F.SECPROFILE_pending 1).p F.SECPROFILE_pending_profile (b2n (l.opd 32 1 == 1))).p F.SECPROFILE_erase_pending
             (b2n ((l.opd 32 1 == 1) != ((g 0x47).g F.SECPROFILE_active == 1)))).complete (k 0x47) St.ok)))
     ∧ (h.admits w 0x47 l = true → l.opd 33 1 = 0 → l.opd 40 8 ≠ 0 →
         Ends (.provision tm w l) s ((g 0x47).hostRead (BitVec.ofNat 64 (l.opd 40 8)) 1312 (.ownerKey (k 0x47)))))
  ∧ (∀ (tm : Nt) (i : Handle) (u : BitVec 32) (q : Rot) (x : GUnit) (s : State),
       let h := s.hub.stamp tm
       let left := q.left.erase u
       let unit : GUnit := { x with keygen := q.newG, inTun := true, seq := h.gr.wseq }
       let tun := if h.gr.tun.contains u.toNat || h.gr.queue.contains u.toNat then h.gr.tun else h.gr.tun ++ [u.toNat]
       let moved : Hub := { h with gr := { h.gr with units := smPut h.gr.units u.toNat unit, wseq := h.gr.wseq + 1, tun := tun } }
       let paid := ((moved.journalMap u.toNat (Hub.mapEntry x)).grnPaid 2 unitBytes).inc F.SECSWEEP_count
       let over_ : Hub := ({ h with sec := { h.sec with rots := smDel h.sec.rots i.toNat } } : Hub).inc F.SECROTATIONS_count
       let told := over_.devEv 0x0705 4 (q.newG.toNat + i.toNat * 2 ^ 16)
       (smLook h.sec.rots i.toNat = some q → smLook h.gr.units u.toNat = some x → q.phase = 1 → u ∈ q.left → x.key / 2 ^ 72 ≠ 1 →
         Ends (.sweepRewrite tm i u) s
           { paid with sec := { paid.sec with rots := smPut paid.sec.rots i.toNat { q with left := left, phase := if left.isEmpty then 2 else 1 } } })
       ∧ (smLook h.sec.rots i.toNat = some q → q.phase = 2 → ∀ c, q.sub = some c →
         Ends (.keyRetire tm i) s ((told.complete c St.ok q.newG.toNat (told.s i).r.nsi).settled i))
       ∧ (s.hub.inj = [] → Ends (.trngHealthTest tm true) s { h with sec := { h.sec with trngBad := false } })
       ∧ (s.hub.inj = [] → Ends (.trngHealthTest tm false) s
           ((({ h with sec := { h.sec with trngBad := true } } : Hub).devEv 0x0706 4 0).flag F.SECSTAT_trng_fail 35))
       ∧ Ends (.ideKm tm) s (h.p F.SECSTAT_ide_up 1))

/-! ### Diagnostics -/

/-- Commands that read out the black box, the journals and the counters (R509, R512, R513), and the events of clocks, rates, the
console, the black box and the counter latch (R501, R502, R504, R505): JREAD writes the entries from a position on, BBREAD the rings or
a slot with a valid header, BBSNAP triggers a copy, CTRSNAP asks for a latch at the next microsecond, which latches every counter. -/
def Obligations.Diagnostics : Prop :=
  (∀ (tm : Nt) (w : BitVec 8) (l : CmdLine) (s : State),
    let h := s.hub.stamp tm
    let k (op : BitVec 8) := h.subOf w op l
    let g (op : BitVec 8) := h.counted w op
    let addr : W64 := BitVec.ofNat 64 (l.opd 32 8)
    (∀ e es, h.admits w 0x50 l = true → l.opd 40 1 ≠ 0 → ((Hub.positions ((g 0x50).g F.DGDJPOS_position) (g 0x50).diag.dj).filter
        (fun e => decide (l.opd 48 8 ≤ e.1))).take (l.opd 56 4) = e :: es →
      Ends (.jread tm w l) s ((g 0x50).hostWrite
        { addr := addr, data := ((e :: es).map (fun e => e.2.bytes)).flatten
          sub := some ({ k 0x50 with nt := e.2.nt }, BitVec.ofNat 32 (e :: es).length) }))
    ∧ (h.admits w 0x51 l = true → l.opd 40 1 = 0 → Ends (.bbread tm w l) s ((g 0x51).hostWrite
        { addr := addr, data := (((g 0x51).diag.rings.map ringBytes).flatten), sub := some (k 0x51, 0) }))
    ∧ (∀ b, h.admits w 0x51 l = true → l.opd 40 1 ≠ 0 → smLook (g 0x51).diag.slots (l.opd 41 1) = some b → b.valid = true →
      Ends (.bbread tm w l) s ((g 0x51).hostWrite
        { addr := addr, data := b.bytes (g 0x51).dev (l.opd 41 1), sub := some (k 0x51, 0) }))
    ∧ (h.admits w 0x52 l = true → Ends (.bbsnap tm w l) s
        ({ g 0x52 with diag := { (g 0x52).diag with trigs := (g 0x52).diag.trigs ++ [((g 0x52).nt, 0, some (k 0x52))] } } : Hub).startCopy)
    ∧ (h.admits w 0x53 l = true → (g 0x53).diag.snapAt = none → Ends (.ctrsnap tm w l) s
        { g 0x53 with diag := { (g 0x53).diag with snapAt := some (BitVec.ofNat 64 (((g 0x53).nt.toNat / 1000 + 1) * 1000))
                                                   snapSubs := (g 0x53).diag.snapSubs ++ [k 0x53] } }))
  ∧ (∀ (tm : Nt) (cls : BitVec 3) (dom : BitVec 8) (s : State),
    let h := s.hub.stamp tm
    let running : Hub := { h with diag := { h.diag with stopped := h.diag.stopped.filter (· != (cls, dom)) } }
    (∀ n : BitVec 16, n ≠ 0 → dom.toNat < Hub.clockDomains.getD cls.toNat 0 → Ends (.clockDomainReset tm cls dom n) s
        ((running.inc F.DGXFLUSH_count n.toNat).devEv 0x0901 4 (cls.toNat + dom.toNat * 256)))
    ∧ (h.on F.DGCTL_autostop_en = true → dom.toNat < Hub.clockDomains.getD cls.toNat 0 → cls.toNat ∉ [4, 5, 6] →
        (cls, dom) ∉ h.diag.stopped → Ends (.clockStop tm cls dom) s { h with diag := { h.diag with stopped := h.diag.stopped ++ [(cls, dom)] } })
    ∧ (cls.toNat ∈ [4, 5, 6] → Ends (.clockStop tm cls dom) s h)
    ∧ (∀ n : BitVec 16, (cls, dom) ∈ h.diag.stopped → Ends (.clockWake tm cls dom n) s
        (((running.inc F.DGWAKES_count).p F.DGWAKEMAX_ns (max (h.g F.DGWAKEMAX_ns) n.toNat)).inci F.DGXWAIT_ns cls.toNat n.toNat))
    ∧ (∀ (die : BitVec 3) (r : BitVec 12), die.toNat < 5 → Ends (.rateWindow tm die r) s
        ((h.pi F.DGRATE_msps die.toNat r.toNat).pi F.DGRATEMIN_msps die.toNat (min (h.gi F.DGRATEMIN_msps die.toNat) r.toNat)))
    ∧ (∀ die : BitVec 3, die.toNat < 5 → Ends (.bbConsole tm die) s (h.emit (.console (h.diag.rings.getD die.toNat []).reverse)))
    ∧ (∀ k c b, h.diag.copy = some (k, some c) → smLook h.diag.slots k = some b → h.diag.trigs = [] →
        let done : Hub := { h with diag := { h.diag with slots := smMod h.diag.slots k (fun s => { s with valid := true }), newest := k, copy := none } }
        Ends (.bbCopy tm) s
          (((((done.devEv 0x0902 4 (k + b.trig.toNat * 256)).inc F.DGBBCOPIES_count).p F.DGSTAT_bb_copying 0).complete c St.ok).startCopy))
    ∧ (∀ a, h.diag.snapAt = some a → a ≤ h.nt → Answers (.counterLatch tm) s (fun t =>
        let d := s.hub.diag.snap.getD s.hub.diag.live
        (∀ k, k < 4 → t.hub.gi F.DGBUSY_steps k = (d.busy.getD k 0).toNat ∧ t.hub.gi F.DGHOLD_steps k = (d.hold.getD k 0).toNat)
        ∧ t.hub.g F.DGSTEPS_count = d.steps.toNat ∧ t.hub.g F.DGSTEPNS_ns = d.stepNs.toNat
        ∧ t.hub.g F.DGIDLENS_ns = d.idleNs.toNat ∧ t.hub.g F.DGSTEPMAX_ns = d.stepMax.toNat
        ∧ t.hub.g F.DGSNAPNT_nt = a.toNat ∧ HubOnly s t)))

/-! ### Integrity -/

/-- Injection (R391): INJECT arms a point, at most 16 of them, and refuses while injection is off; a point without an opportunity of its
own fires when its time comes; INJCANCEL disarms all; an injected condition ends with its duration. -/
def Obligations.Injection : Prop :=
  ∀ (tm : Nt) (w : BitVec 8) (l : CmdLine) (s : State),
    let h := s.hub.stamp tm
    let k (op : BitVec 8) := h.subOf w op l
    let g (op : BitVec 8) := h.counted w op
    let x : Inj := { point := BitVec.ofNat 8 (l.opd 32 1), mode := BitVec.ofNat 8 (l.opd 33 1), count := l.opd 34 2, a := BitVec.ofNat 32 (l.opd 36 4),
                     b := BitVec.ofNat 64 (l.opd 40 8), nt := BitVec.ofNat 64 (l.opd 48 8) }
    let armed := (g 0x58).complete (k 0x58) St.ok
    let runs (c : Instr) (u : Hub) : Prop :=
      exec c s = .next { s with hub := Hub.finish s.hub u, stn := if (Hub.finish s.hub u).pw.off then {} else s.stn }
    (h.admits w 0x58 l = true → (g 0x58).on F.INTCTL_inject_en = true → (g 0x58).inj.length < 16 → x.point.toNat ∉ Hub.atOnce →
      runs (.inject tm w l) { armed with inj := armed.inj ++ [x] })
    ∧ (h.admits w 0x58 l = true → (g 0x58).on F.INTCTL_inject_en = true → (g 0x58).inj.length < 16 → x.point.toNat ∈ Hub.atOnce →
        x.mode ≠ 2 → runs (.inject tm w l) (((armed.devEv 0x0503 4 x.point.toNat).inc F.INTINJFIRE_count).pointAct x))
    ∧ (h.admits w 0x58 l = true → (g 0x58).on F.INTCTL_inject_en = false ∨ 16 ≤ (g 0x58).inj.length →
      runs (.inject tm w l) ((g 0x58).complete (k 0x58) St.badState))
    ∧ (h.admits w 0x59 l = true → Ends (.injcancel tm w l) s (({ g 0x59 with inj := [] } : Hub).complete (k 0x59) St.ok))
    ∧ (∀ y, s.hub.inj = [y] → y.point.toNat ∈ Hub.atOnce → y.nt ≤ h.nt → runs (.injectionTimeReached tm)
        (((({ h with inj := [] } : Hub).devEv 0x0503 4 y.point.toNat).inc F.INTINJFIRE_count).pointAct y))
    ∧ (h.nf.dropNt ≤ h.nt → Ends (.injectionDurationEnd tm 0x2A) s { h with nf := { h.nf with dropNt := 0 } })
    ∧ (∀ e, h.pw.brkInj = some e → e ≤ h.nt →
        Ends (.injectionDurationEnd tm 0x21) s (({ h with pw := { h.pw with brkInj := none } } : Hub).brakePass))

/-- INJECT completes with ST_BAD_STATE while INTCTL.inject_en = 0; in Profile S a write of 1 to inject_en is ignored, except in
single-device test mode (R393); where it is not ignored and nothing locks it, it is stored. -/
def Obligations.InjectionGate : Prop :=
  ∀ (tm : Nt) (s : State),
    let h := s.hub.stamp tm
    (∀ w l, h.admits w 0x58 l = true → h.on F.INTCTL_inject_en = false →
      exec (.inject tm w l) s =
        let u := Hub.finish s.hub ((h.counted w 0x58).complete (h.subOf w 0x58 l) St.badState)
        .next { s with hub := u, stn := if u.pw.off then {} else s.stn })
    ∧ (∀ (x : W64) (wide : Bool), h.reached F.INTCTL_inject_en.a = true → h.profS = true → h.on F.NFSTAT_test = false →
        x.getLsbD 0 = true → Answers (.registerWrite tm (BitVec.ofNat 20 F.INTCTL_inject_en.a) x wide) s (fun t =>
          t.hub.on F.INTCTL_inject_en = s.hub.on F.INTCTL_inject_en))
    ∧ (∀ (x : W64) (wide : Bool), h.reached F.INTCTL_inject_en.a = true → h.profS = false ∨ h.on F.NFSTAT_test = true →
        h.on F.HCTL_lock = false → Answers (.registerWrite tm (BitVec.ofNat 20 F.INTCTL_inject_en.a) x wide) s (fun t =>
          t.hub.on F.INTCTL_inject_en = x.getLsbD 0))

/-- Scrubs and repairs (R375, R381): a pass that finds every pair valid changes nothing; a register whose halves differ is repaired and
reported, the others stay; a record with an invalid pair, or with one in its root entries, is FAULTED with ST_RECORD_FAULT (R35, R64). A
row is repaired and counted while row_rep_en = 1; a failed channel starts its copy to the lower free spare of its stack while
chan_spare_en = 1, and stays in service where none is free; a finished copy waits for the next boundary. -/
def Obligations.ScrubsAndRepairs : Prop :=
  ∀ (tm : Nt) (stack : BitVec 3) (chan : BitVec 6) (row : BitVec 16) (phy : Bool) (s : State),
    let h := s.hub.stamp tm
    let named (c : Nat × Nat × Nat) : Bool := c.1 == stack.toNat && c.2.1 == chan.toNat
    let calm (i : Handle) : Prop := (h.s i).actions = [] ∧ (h.s i).relHeld = none ∧ (h.s i).dropHeld = false
    let bad (i : Handle) (t : State) : Prop := (t.hub.s i).r.state = S.faulted ∧ (t.hub.s i).r.prior = (h.s i).r.state
      ∧ (t.hub.s i).r.lastStatus = St.recordFault ∧ (t.hub.s i).runnable = false ∧ (∀ j, j ≠ i → (t.hub.s j).kept = (h.s j).kept) ∧ HubOnly s t
    (s.hub.inj = [] → (∀ r ∈ Hub.pwRegs ++ Hub.remapRegs, pairOk 16 (h.reg r).toNat = true) →
        (∀ q, q < 32 → pairOk 8 (h.seqMap.getD q 0).toNat = true) → Ends (.pwScrub tm 0) s h)
    ∧ (s.hub.inj = [] → (∀ i, (h.s i).r.state ≠ S.free → Hub.badPair (h.s i).r = none ∧ h.rootsOk (h.s i).r = true) → Ends (.pwScrub tm 1) s h)
    ∧ ((∀ i, (h.s i).r.state ≠ S.free → h.rootsOk (h.s i).r = true) → Ends (.pwScrub tm 2) s h ∧ Ends (.pwScrub tm 3) s h)
    ∧ (∀ i, i ∈ h.handles → (h.s i).r.state ≠ S.free → (h.s i).r.state ≠ S.faulted → calm i → s.hub.inj = [] →
        (∀ j, j ≠ i → (h.s j).r.state ≠ S.free → Hub.badPair (h.s j).r = none ∧ h.rootsOk (h.s j).r = true) →
      (Hub.badPair (h.s i).r ≠ none ∨ h.rootsOk (h.s i).r = false → Answers (.pwScrub tm 1) s (bad i))
      ∧ (h.rootsOk (h.s i).r = false → Answers (.pwScrub tm 2) s (bad i)))
    ∧ (∀ a ∈ Hub.pwRegs ++ Hub.remapRegs, s.hub.inj = [] → pairOk 16 (h.reg a).toNat = false →
        (∀ r ∈ Hub.pwRegs ++ Hub.remapRegs, r ≠ a → pairOk 16 (h.reg r).toNat = true) →
        (∀ q, q < 32 → pairOk 8 (h.seqMap.getD q 0).toNat = true) → Ends (.pwScrub tm 0) s
          ((((h.setReg a (BitVec.ofNat 64 (pairOf 16 (bitsOf (h.reg a).toNat 15 0)))).devEv 0x0501 4 (1 + a % 2 ^ 14 * 2 ^ 8)).inc
            F.INTPWFIX_count).flag F.INTSTAT_pw_fault 32))
    ∧ (h.on F.INTCTL_row_rep_en = true → Ends (.rowRepair tm stack chan row) s
        ((h.inc F.INTHBMROWREP_count).devEv 0x0601 4 (stack.toNat + chan.toNat * 8 + row.toNat * 2 ^ 16)))
    ∧ (h.on F.INTCTL_row_rep_en = false → Ends (.rowRepair tm stack chan row) s h)
    ∧ (32 ≤ chan.toNat ∨ h.on F.INTCTL_chan_spare_en = false ∨ (h.chCopy ++ h.chReady).any named = true →
        Ends (.hbmChannelFail tm stack chan phy) s h)
    ∧ (∀ n, chan.toNat < 32 → h.on F.INTCTL_chan_spare_en = true → (h.chCopy ++ h.chReady).any named = false →
        h.freeSpare stack.toNat = some n → Ends (.hbmChannelFail tm stack chan phy) s
          { h with chCopy := h.chCopy ++ [(stack.toNat, chan.toNat, n)] })
    ∧ (chan.toNat < 32 → h.on F.INTCTL_chan_spare_en = true → (h.chCopy ++ h.chReady).any named = false → h.freeSpare stack.toNat = none →
        Ends (.hbmChannelFail tm stack chan phy) s
          ((h.devEv 0x0603 4 (stack.toNat + chan.toNat * 8)).flag F.INTSTAT_hbm_nospare 32))
    ∧ Ends (.hbmChannelCopy tm stack chan) s
        { h with chCopy := h.chCopy.filter (fun c => !named c), chReady := h.chReady ++ h.chCopy.filter named }

/-! ### Steps -/

/-- The step's gather and boundary (R156, R160, R226, R228 to R230): a device that is ready makes its frame; a boundary frame in order is
gathered, goes on through the group's dimensions and ends the gather where it is the last; one that fails its check or names another step
or slot is a sync fault; one that is there already is only counted. A boundary that is due runs, and a stone keeps its scratch unless its
number has moved; one that is not due waits. An extent that was read installs its root entries; one that is not as it was written is
recomputed where the log allows, and leaves its poison in one piece where not. -/
def Obligations.StepBoundaries : Prop :=
  ∀ (tm : Nt) (fr : BFrame) (i : Handle) (p : Plan) (ok : Bool) (s : State),
    let h := s.hub.stamp tm
    let x := h.s i
    let mine := h.faulted = false ∧ h.on F.MOLCTL_enable = true ∧ fr.pos.toNat ≠ h.position ∧ fr.pos.toNat < h.groupN
    let rx := h.gatherRx p fr.pos.toNat
    let fits := fr.step.toNat = rx.stepNo ∧ fr.slot.toNat = rx.g F.POOLPLAN_active
    let held : Hub := { rx with grp := { rx.grp with frames := rx.grp.frames ++ [fr] } }
    let due := h.faulted = false ∧ h.switching = false ∧ h.gathered = true ∧ h.grp.ready.isSome = true ∧ h.boundNt p ≤ h.nt.toNat
    (h.plan = some p → h.isReady = true → Ends (.deviceReady tm) s (h.makeReady p))
    ∧ (h.plan = none ∨ h.isReady = false → Ends (.deviceReady tm) s h)
    ∧ (h.plan = some p → mine → fr.bad = false → fits → rx.grp.frames.any (fun f => f.pos == fr.pos) = false →
        Ends (.boundaryFrame tm fr) s ((if held.nf.expired then held else held.gatherNext p 3).gatherDone p))
    ∧ (h.plan = some p → mine → fr.bad = false → fits → rx.grp.frames.any (fun f => f.pos == fr.pos) = true →
        Ends (.boundaryFrame tm fr) s rx)
    ∧ (h.plan = some p → mine → fr.bad = true → Ends (.boundaryFrame tm fr) s ((rx.inc F.INTCHKFAIL_count).syncFault))
    ∧ (h.plan = some p → mine → fr.bad = false → ¬ fits → Ends (.boundaryFrame tm fr) s rx.syncFault)
    ∧ (h.plan = none ∨ ¬ mine → Ends (.boundaryFrame tm fr) s h)
    ∧ (h.plan = some p → due →
        let g := (endWindows h s.stn).made (h.boundNt p)
        exec (.stepBoundary tm) s =
          .next { s with hub := Hub.finish s.hub g, stn := { st := s.stn.st.filter (fun e => g.physOf e.1 == h.physOf e.1) } })
    ∧ (h.plan = none ∨ h.plan = some p ∧ ¬ due → exec (.stepBoundary tm) s = .next { s with hub := h })
    ∧ (∀ v, x.revive = some v → x.r.state = S.reviving → v.reserved = true → v.rc = false → v.read = false → h.grnWaits (.ext i) = false →
        let ext := (h.extentOf i).1
        let g := (h.extentOf i).2
        let whole := ok = true ∧ Hub.extHdrOk g x = true
        let noted := (x.extent.map (·.2)).getD false
        let clean := noted = false ∧ ext.any (fun e => e.pages.any (fun e => e.2.2) || e.rings.any (fun e => e.2.2)) = false
        let read (l : List ExtShard) : Hub :=
          (l.foldl (fun h e => h.installExt (h.rootIx x.r) e) (g.fresh.2.unreserve (g.fresh.2.rootIx x.r))).modS i
            (fun x => { x with revive := some { v with read := true } })
        let n := (ext.map (fun e => e.pages.length + e.rings.length)).sum
        (whole → clean → Ends (.extentRead tm i ok) s (read ext))
        ∧ (¬ (whole ∧ clean) → g.recomputable i = true →
          Ends (.extentRead tm i ok) s (g.modS i (fun x => { x with revive := some { v with rc := true } })))
        ∧ (¬ whole ∨ noted = true → g.recomputable i = false →
          Ends (.extentRead tm i ok) s (read (Hub.poisonPiece ext (g.fresh.1.toNat % max 1 n)))))
    ∧ (x.revive = none ∨ x.r.state ≠ S.reviving ∨ h.grnWaits (.ext i) = true → Ends (.extentRead tm i ok) s h)

/-- What feeds a session's steps (R94, R98, R99, R109, R117, R123, R380, R426): its owner samples the gathered logits, and reads its
draft buffer again where the run goes on; a run whose rows or root entries are poisoned is given up. A draft buffer is there once its read
has returned, and a failed read is reported. Hopper takes the oldest intake whose session may take it, once its buffer is read: it ends
without effect, or its tokens are written to the Granary. Where nothing waits, nothing changes. Which admission a draft
buffer serves is the model's choice (log 165). -/
def Obligations.SamplesDraftsIntakes : Prop :=
  ∀ (tm : Nt) (i : Handle) (c : StepRun) (r : Run) (logits : List (List F32)) (poison ok : Bool) (q : StepReq) (data : Bytes) (s : State),
    let h := s.hub.stamp tm
    let run := h.grp.cur = some c ∧ c.runs.find? (fun r => r.h == i && !r.done) = some r
    let spoilt := poison = true ∨ r.poison = true ∨ (h.kvFault r.root (r.first.toNat + r.k)).isSome = true
    let done := h.gatherPos r 0 logits
    let free (q : IntakeReq) : Bool := !((h.s q.h).r.state == S.prefill || (h.s q.h).r.state == S.stepping)
    (run → spoilt → Ends (.gather tm i logits poison) s (h.setRun { r with poison := true, done := true }))
    ∧ (∀ e, run → ¬ spoilt → done.samps.getLast?.map (·.ends) = some (some e) → Ends (.gather tm i logits poison) s
        ((h.setRun done).modS i (fun x => { x with stepReq := x.stepReq.map (fun q => { q with ended := some e }) })))
    ∧ (run → ¬ spoilt → done.samps.getLast?.map (·.ends) = some none →
        Ends (.gather tm i logits poison) s ((h.setRun done).readDraft i))
    ∧ (run → ¬ spoilt → done.samps = [] → Ends (.gather tm i logits poison) s (h.setRun done))
    ∧ (h.grp.cur = none ∨ h.grp.cur = some c ∧ c.runs.find? (fun r => r.h == i && !r.done) = none →
        Ends (.gather tm i logits poison) s h)
    ∧ ((h.s i).stepReq = some q → 2 ≤ q.draft.toNat → q.buf = none → q.addr.toNat % 64 = 0 →
        let g := h.modS i (fun x => { x with stepReq := some { q with buf := some (if ok then some data else none) } })
        let g : Hub := { g with reads := g.reads.filter (fun e => e.2 != .draft i) }
        Ends (.hostDraftRead tm i ok data) s (if ok then g else g.hstat F.HSTAT_rd_err))
    ∧ ((h.s i).stepReq = none ∨ (h.s i).stepReq = some q ∧ (q.draft.toNat < 2 ∨ q.buf ≠ none) → Ends (.hostDraftRead tm i ok data) s h)
    ∧ (∀ rd, h.hopq.find? free = none → Ends (.hopperIntake tm rd) s h)
    ∧ (∀ n rd, h.hopq.find? free = some n → n.ready = false → Ends (.hopperIntake tm rd) s h)
    ∧ (∀ n rd, h.hopq.find? free = some n → n.ready = true →
        let x := h.s n.h
        let rd' := match n.segs with
          | none => rd
          | some e => Hub.sealedRead e.2
        let out : Hub := { h with hopq := h.hopq.erase n }
        let unread := n.tok.isNone && (rd'.descs.isNone || rd'.segs.any (·.isNone)) && h.on F.HOPCTL_enable
        let a := (if unread then out.hstat F.HSTAT_rd_err else out).inc F.HOPBYTES_bytes ((rd'.segs.map (fun s => (s.getD []).length)).sum)
        let takes := x.r.state ∉ [S.free, S.faulted, S.migrating] ∧ a.sealBad n = none
        let len (ts : List (BitVec 32)) : Nat := x.r.committed.toNat + x.pendIn.toNat + h.appending n.h + ts.length
        (x.r.state = S.free → Ends (.hopperIntake tm rd) s a)
        ∧ (x.r.state ∈ [S.faulted, S.migrating] → Ends (.hopperIntake tm rd) s (a.endIntake n.h n.sub St.badState 0))
        ∧ (∀ st d, x.r.state ∉ [S.free, S.faulted, S.migrating] → a.sealBad n = some (st, d) →
          Ends (.hopperIntake tm rd) s (a.endIntake n.h n.sub st d))
        ∧ (∀ st, takes → a.intakeTokens n rd' = .inl st → Ends (.hopperIntake tm rd) s (a.endIntake n.h n.sub st 0))
        ∧ (∀ ts, takes → a.intakeTokens n rd' = .inr ts → h.ctxLimit < len ts →
          Ends (.hopperIntake tm rd) s (a.endIntake n.h n.sub St.maxTokens 0))
        ∧ (∀ ts, takes → a.intakeTokens n rd' = .inr ts → len ts ≤ h.ctxLimit →
          a.grnLog (objKey 2 x.r.nsi.toNat) (x.log.length + a.appending n.h) (x.log.length + a.appending n.h + ts.length) x.r.keygen = none →
          Ends (.hopperIntake tm rd) s ((a.p F.TIERSTAT_logblk 1).endIntake n.h n.sub St.granaryFull 0))
        ∧ (∀ ts g, takes → a.intakeTokens n rd' = .inr ts → len ts ≤ h.ctxLimit →
          a.grnLog (objKey 2 x.r.nsi.toNat) (x.log.length + a.appending n.h) (x.log.length + a.appending n.h + ts.length) x.r.keygen = some g →
          Ends (.hopperIntake tm rd) s
            ((g.sealTake n).addDur 1 (4 * ts.length) (.intake n.h n.sub ts (g.inPrefill && g.on F.POOLCTL_mirror_en)))))

/-! ### Waits that end -/

/-- Times that end waits (R37, R42, R258, R286, R441, R519): a WAIT past its timeout is met with 0xFFFF, a HOLD past its own completes
so; a PARKED session past its expiry is HALTED without its extent and its waiting requests are refused; quantized completions whose NT has
come are written with that NT, in order; an interrupt held off fires. Before its time each does nothing. -/
def Obligations.TimesReached : Prop :=
  ∀ (tm : Nt) (i : Handle) (v : BitVec 6) (s : State),
    let h := s.hub.stamp tm
    let x := h.s i
    (∀ d, x.blk = some (.wait d) → x.r.waitExp ≠ 0 → x.r.waitExp ≤ h.nt → x.waitHit = false →
      ((x.r.pending ||| x.queued) &&& x.r.waitMask = 0 →
        Ends (.waitTimeout tm i) s (((h.modS i (fun x => { x with waitHit := true })).meet i 0xFFFF).settled i))
      ∧ ((x.r.pending ||| x.queued) &&& x.r.waitMask ≠ 0 → Ends (.waitTimeout tm i) s (h.settled i)))
    ∧ (x.blk = none ∨ x.r.waitExp = 0 ∨ h.nt < x.r.waitExp ∨ x.waitHit = true → Ends (.waitTimeout tm i) s h)
    ∧ (∀ d e, x.blk = some (.hold d e) →
      (e ≠ 0 → e ≤ h.nt → Ends (.holdTimeout tm i) s (h.endInstr i (some (d, 0xFFFF)) St.ok 0xFFFF))
      ∧ (e = 0 ∨ h.nt < e → Ends (.holdTimeout tm i) s h))
    ∧ (x.blk = none → Ends (.holdTimeout tm i) s h)
    ∧ (x.r.state = S.parked → x.r.ttlArmed = true → x.r.expiry ≤ h.nt →
      Ends (.ttlExpire tm i) s (((((h.dropExtent i).modR i (fun r => { r with logonly := true })).trans i S.halted St.ttlExpired 0x0046
        x.r.expiry.toNat).refuseHeld i St.ttlExpired).settled i))
    ∧ (x.r.state ≠ S.parked ∨ x.r.ttlArmed = false ∨ h.nt < x.r.expiry → Ends (.ttlExpire tm i) s h)
    ∧ Ends (.quantizedCompletion tm) s
        ((s.hub.quant.filter (fun q => decide (q.1 ≤ h.nt))).foldl
          (fun g q => { ({ g with nt := q.1 } : Hub).complete q.2.1 q.2.2.1 q.2.2.2.1.toNat q.2.2.2.2 with nt := h.nt })
          { h with quant := s.hub.quant.filter (fun q => !decide (q.1 ≤ h.nt)) })
    ∧ (∀ e, (smGet {} h.irq v.toNat).since = some e →
        (0 < (smGet {} h.irq v.toNat).count → e.toNat + h.gi F.INTMOD_holdoff v.toNat * 1000 ≤ h.nt.toNat →
          Ends (.interruptHoldoff tm v) s ((h.p F.INTCAUSE_cause (h.g F.INTCAUSE_cause ||| 2 ^ v.toNat)).fire v))
        ∧ ((smGet {} h.irq v.toNat).count = 0 ∨ h.nt.toNat < e.toNat + h.gi F.INTMOD_holdoff v.toNat * 1000 →
          Ends (.interruptHoldoff tm v) s h))
    ∧ ((smGet {} h.irq v.toNat).since = none → Ends (.interruptHoldoff tm v) s h)

/-- What comes back to the device (R99, R141, R276, R283, R285, R286, R288, R297, R351): a Granary write is durable, unless it waits for
the Granary or for an earlier intake of its session; a read of a ring's consumed word lets the backlog drain; a read of host memory goes
to what asked for it; a write to host memory is visible to its interrupt vector, its session's HOLD, its command and its instruction, and
its first granule follows where that waits. A failed read of a consumed word and a failed write are repeated 10 µs later. -/
def Obligations.TransfersReturn : Prop :=
  ∀ (tm : Nt) (id : Nat) (p : BitVec 4) (n : BitVec 32) (s : State),
    let h := s.hub.stamp tm
    let later : Nt := h.nt + 10000
    let word (g : Hub) (st : Bool) : Hub := g.setRing st p.toNat { g.ring st p.toNat with reading := false, retryAt := none, consumed := n }
    let drained (g : Hub) (st : Bool) : Hub := ((word g st).drain st p.toNat (g.ring st p.toNat).backlog.length).ringLimit st p.toNat
    let freed (g : Hub) (st : Bool) : Hub := if st then drained g st else Hub.ringFreed g (drained g st) p.toNat
    let lost (g : Hub) (st : Bool) : Hub :=
      ((g.setRing st p.toNat { g.ring st p.toNat with reading := false, retryAt := some later }).pi (ringRegs st).err p.toNat 1).hstat
        F.HSTAT_rd_err
    let failed (g : Hub) (x : WrWait) : Hub :=
      ({ g with writes := smPut g.writes id { x with failed := true, retryAt := later } } : Hub).hstat F.HSTAT_wr_err
    let toVec (x : WrWait) (g : Hub) : Hub := match x.vec with
      | none => g
      | some v => g.visible v
    let toHold (x : WrWait) (g : Hub) : Hub := match x.sess with
      | none => g
      | some i => g.endHold i
    let toSub (x : WrWait) (g : Hub) : Hub := match x.sub with
      | none => g
      | some (c, d) => { ({ g with nt := if c.op = 0x50 then c.nt else g.nt } : Hub).complete c x.status d.toNat
            (if namesSession c.op then c.line.nsi else 0) with nt := g.nt }
    let toIns (x : WrWait) (g : Hub) : Hub := match x.ins with
      | none => g
      | some (i, nsi, k) => g.qEnd (.ins i nsi) x.status 0 g.nt k
    let gone (g : Hub) : Hub := { g with writes := smDel g.writes id }
    (∀ x, smLook h.durs id = some x →
      (h.durHeld x = false → h.grnWaits (.grn id) = false → h.laterIntake id x = false →
        Ends (.writeDurable tm id) s (({ h with durs := smDel h.durs id } : Hub).durDone x))
      ∧ (h.durHeld x = true ∨ h.grnWaits (.grn id) = true ∨ h.laterIntake id x = true → Ends (.writeDurable tm id) s h))
    ∧ (smLook h.durs id = none → Ends (.writeDurable tm id) s h)
    ∧ ((h.ring true p.toNat).reading = true →
        Ends (.backlogDrain tm p (some n)) s (freed h true) ∧ Ends (.backlogDrain tm p none) s (lost h true))
    ∧ ((h.ring false p.toNat).reading = true →
        Ends (.completionBacklogDrain tm p (some n)) s (freed h false) ∧ Ends (.completionBacklogDrain tm p none) s (lost h false))
    ∧ (∀ c, ((h.ring true p.toNat).reading = false → Ends (.backlogDrain tm p c) s h)
        ∧ ((h.ring false p.toNat).reading = false → Ends (.completionBacklogDrain tm p c) s h))
    ∧ (∀ st e, (h.ring st p.toNat).retryAt = some e →
        let asked := h.emit (.wordRead st p (BitVec.ofNat 64 (h.gi (ringRegs st).cons p.toNat * 8)))
        (e ≤ h.nt → Ends (.consumedWordRetry tm st p (some n)) s (freed asked st)
          ∧ Ends (.consumedWordRetry tm st p none) s (lost asked st))
        ∧ (h.nt < e → ∀ c, Ends (.consumedWordRetry tm st p c) s h))
    ∧ (∀ st c, (h.ring st p.toNat).retryAt = none → Ends (.consumedWordRetry tm st p c) s h)
    ∧ (∀ x, smLook h.writes id = some x →
        let again := h.emit (.hostWrite id x.addr x.data)
        (x.failed = false → Ends (.itomwrComplete tm id false) s (failed h x))
        ∧ (∀ e, x.failed = false → x.first = some e →
          Ends (.itomwrComplete tm id true) s ((gone h).hostWrite { x with addr := e.1, data := e.2, first := none }))
        ∧ (x.failed = false → x.first = none → Ends (.itomwrComplete tm id true) s (toIns x (toSub x (toHold x (toVec x (gone h))))))
        ∧ (x.failed = true → x.retryAt ≤ h.nt → Ends (.writeRetry tm id false) s (failed again x))
        ∧ (∀ e, x.failed = true → x.retryAt ≤ h.nt → x.first = some e → Ends (.writeRetry tm id true) s
          ((gone again).hostWrite { x with addr := e.1, data := e.2, first := none, failed := false }))
        ∧ (x.failed = true → x.retryAt ≤ h.nt → x.first = none →
          Ends (.writeRetry tm id true) s (toIns x (toSub x (toHold x (toVec x (gone again))))))
        ∧ (∀ ok, (x.failed = true → Ends (.itomwrComplete tm id ok) s h)
          ∧ (x.failed = false ∨ h.nt < x.retryAt → Ends (.writeRetry tm id ok) s h)))
    ∧ (smLook h.writes id = none → ∀ ok, Ends (.itomwrComplete tm id ok) s h ∧ Ends (.writeRetry tm id ok) s h)
    ∧ (∀ x d, smLook h.reads id = some x → (∀ i, x ≠ .draft i) → Ends (.rdcurrComplete tm id (some d)) s
        (({ h with reads := smDel h.reads id } : Hub).rdDone x (some d)))
    ∧ (∀ x, smLook h.reads id = some x → (∀ i, x ≠ .draft i) → Ends (.rdcurrComplete tm id none) s
        ((({ h with reads := smDel h.reads id } : Hub).hstat F.HSTAT_rd_err).rdDone x none))
    ∧ (smLook h.reads id = none → ∀ d, Ends (.rdcurrComplete tm id d) s h)

/-! ### Pools -/

/-- Adapters across the node (R102, R104): what each message of a load, a commit and a release does on its receiver; a commit NT that
has come completes its load, a version that is not current is reported from a device in no group, and a free NT that has come is resolved
by the version's coordinator and counted by every other device. Recomposition (R173, R174): its begin at the effective NT, its timeout
where S has not come, the activation of its plan set. Before its time each does nothing. That S waits for
intakes is the model's inference (log 155). -/
def Obligations.AdaptersAndPools : Prop :=
  (∀ (tm : Nt) (src : BitVec 6) (k : BitVec 10) (v : BitVec 16) (s : State),
    let h := s.hub.stamp tm
    (∀ sv b, ((h.adVer? k.toNat v).isSome = true → Ends (.adapter tm src (.image k v sv b)) s h)
      ∧ (h.adVer? k.toNat v = none → Ends (.adapter tm src (.image k v sv b)) s
          ((h.stageAd k.toNat { ver := v, commit := none, coord := src, secver := sv, image := b }).getD h)))
    ∧ Ends (.adapter tm src (.report k v)) s (h.stagedBy k.toNat v src)
    ∧ (∀ c, Ends (.adapter tm src (.commit k v c)) s (h.setCommit k.toNat v c))
    ∧ (∀ b, Ends (.adapter tm src (.binding k v b)) s (h.bindReport k.toNat v src b))
    ∧ (∀ f, Ends (.adapter tm src (.propose k v f)) s (h.modVer k.toNat v (fun a => { a with freeAt := some f })))
    ∧ (∀ b, Ends (.adapter tm src (.atFree k v b)) s
        (h.modVer k.toNat v (fun a => { a with counts := (src, b) :: a.counts.filter (fun r => r.1 != src) })))
    ∧ (∀ f, Ends (.adapter tm src (.resolve k v f)) s (h.resolveAd k.toNat v f))
    ∧ Ends (.adapterCommit tm k) s ((h.adSlot k.toNat).vers.foldl (fun g a =>
        match a.commit, a.sub with
        | some c, some q => if g.nt < c then g else (g.complete q St.ok a.ver.toNat).modVer k.toNat a.ver (fun a => { a with sub := none })
        | _, _ => g) h)
    ∧ (∀ a e, h.adVer? k.toNat v = some a → a.ended = some e →
        (h.g F.POOLROLE_size = 0 → e ≤ h.nt → Ends (.bindingReport tm k v) s (h.reportAd k.toNat a))
        ∧ (h.g F.POOLROLE_size ≠ 0 ∨ h.nt < e → Ends (.bindingReport tm k v) s h))
    ∧ (h.adVer? k.toNat v = none ∨ (∃ a, h.adVer? k.toNat v = some a ∧ a.ended = none) → Ends (.bindingReport tm k v) s h)
    ∧ (∀ a f others, h.adVer? k.toNat v = some a → a.freeAt = some f →
        let free := !(h.holdsAd k.toNat v || others || a.counts.any (·.2))
        (f ≤ h.nt → a.coord = h.me →
          Ends (.adapterFree tm k v others) s ((h.sendAll (.adapter (.resolve k v free))).resolveAd k.toNat v free))
        ∧ (f ≤ h.nt → a.coord ≠ h.me → a.counted = false → Ends (.adapterFree tm k v others) s
          ((h.modVer k.toNat v (fun a => { a with counted := true })).send a.coord (.adapter (.atFree k v (h.holdsAd k.toNat v)))))
        ∧ (h.nt < f ∨ a.coord ≠ h.me ∧ a.counted = true → Ends (.adapterFree tm k v others) s h))
    ∧ (∀ others, h.adVer? k.toNat v = none ∨ (∃ a, h.adVer? k.toNat v = some a ∧ a.freeAt = none) →
        Ends (.adapterFree tm k v others) s h))
  ∧ (∀ (tm : Nt) (k : BitVec 3) (r : Recomp) (s : State),
    let h := s.hub.stamp tm
    let late (g : Hub) : Hub :=
      let u := (({ g with rcmp := none } : Hub).p F.POOLSTAT_recomposing 0).p F.POOLSTAT_busy 1
      match r.sub with
      | none => u
      | some c => u.complete c St.poolBusy
    let expired := r.begun = true ∧ r.switched = false ∧ r.active = false ∧ r.eff.toNat + h.g F.POOLRCTMO_ms * 1000000 ≤ h.nt.toNat
    let told (g : Hub) : Hub := if g.g F.POOLROLE_size ≠ 0 then g else if g.fresh.1.getLsbD 0 then g.fresh.2.rcmpEnd St.ok else g.fresh.2
    let go := if r.switched then h.agreed else !h.changes k.toNat || h.g F.POOLROLE_size == 0
    let active : Hub := { h with rcmp := some { r with active := true } }
    (h.rcmp = none → Ends (.effectiveNt tm) s h ∧ Ends (.recomposeTimeout tm) s h ∧ Ends (.planActivation tm k) s h)
    ∧ (h.rcmp = some r →
      (r.begun = false → r.eff ≤ h.nt →
        Ends (.effectiveNt tm) s (({ h with rcmp := some { r with begun := true } } : Hub).p F.POOLSTAT_recomposing 1))
      ∧ (r.begun = true ∨ h.nt < r.eff → Ends (.effectiveNt tm) s h)
      ∧ (expired → h.changes r.slot.toNat = true → Ends (.recomposeTimeout tm) s (late h))
      ∧ (expired → h.changes r.slot.toNat = false →
        Ends (.recomposeTimeout tm) s (if h.fresh.1.getLsbD 0 then h.fresh.2 else late h.fresh.2))
      ∧ (¬ expired → Ends (.recomposeTimeout tm) s h)
      ∧ (r.slot = k → r.begun = true → r.active = false → go = true →
        Ends (.planActivation tm k) s (told (if h.changes k.toNat then active.activatePlan k.toNat else active.p F.POOLPLAN_active k.toNat)))
      ∧ (r.slot = k → r.begun = true → r.active = true → Ends (.planActivation tm k) s (told h))
      ∧ (r.slot ≠ k ∨ r.begun = false ∨ r.active = false ∧ go = false → Ends (.planActivation tm k) s h)))

/-! ### Granary -/

/-- The Granary's blocks (R298, R308 to R314, R316, R317): a unit leaves the tun for its stream's stripe, or its program fails; a block
that passes its verification is verified, and its copies switch the map; one that fails is rebuilt from parity and retired; a victim
without valid units is erased, its count rises and it is free, or it is retired; GC and wear levelling relocate the block that their rule
chooses; a program that failed has its block replaced from its die. Where the rule chooses nothing, nothing changes. -/
def Obligations.GranaryBlocks : Prop :=
  ∀ (tm : Nt) (die : BitVec 8) (block : BitVec 14) (x : GBlk) (pct : BitVec 7) (ok : Bool) (s : State),
    let h := s.hub.stamp tm
    let d := die.toNat
    let b := block.toNat
    let gone := h.retireBlk d b false
    let idle := h.on F.GRNCTL_bg_gc_en = true ∧ h.gr.lastNt.toNat + max 100 (h.g F.GRNIDLE_us) * 1000 ≤ h.nt.toNat ∧ h.fMin.1 < h.gr.weir.1
    let worn := h.on F.GRNCTL_static_wl_en = true ∧ max 1 (h.g F.GRNWLSPREAD_cycles) < h.wearSpread d
    (h.tunNext = none → Ends (.nandProgram tm) s h)
    ∧ (∀ u, h.tunNext = some u →
        let stream := if ((smLook h.gr.units u).map (fun x => x.kind == 2)).getD false then 0 else 1
        (h.stripeFor stream = none → Ends (.nandProgram tm) s h)
        ∧ (∀ id g, h.stripeFor stream = some (id, g) → smLook g.gr.stripes id = none → Ends (.nandProgram tm) s h)
        ∧ (∀ id g st, h.stripeFor stream = some (id, g) → smLook g.gr.stripes id = some st →
          let e := st.data.getD (st.count % 15) (0, 0)
          let hit := g.fireInj 0x0F (fun q => q.a.toNat == e.1 && q.b.toNat == stream)
          (hit.1 = false → Ends (.nandProgram tm) s ((h.programTun u).weirs))
          ∧ (hit.1 = true → Ends (.nandProgram tm) s (hit.2.programFail e.1 e.2 true))))
    ∧ (h.blk d b = some x → x.closed = true → x.verified = false → x.bad = false → x.parity = false →
        let hit := h.fireInj 0x11 (fun q => q.a.toNat == d)
        let kept := hit.2.setBlk d b { x with verified := true }
        let lost := decide (100 < pct.toNat)
        let others := match smLook hit.2.gr.stripes x.stripe with
          | none => []
          | some st => st.data.filter (fun e => e != (d, b) && ((hit.2.blk e.1 e.2).map (·.lost)).getD false)
        let failed := ((hit.2.setBlk d b { x with lost := lost }).inc F.GRNVFYFAIL_count).devEv 0x0403 4 (d + b * 2 ^ 8 + Hub.injBit hit.1)
        let struck := if lost && !others.isEmpty then
            ((d, b) :: others).foldl (fun g e => (g.validUnits e.1 e.2).foldl (fun g u => g.poisonUnit u.1 false) g) failed
          else failed
        let moved := (struck.inc F.GRNPARREC_count (4 * (struck.validUnits d b).length)).relocate d b
        (pct.toNat ≤ hit.2.vfyThr → hit.1 = false → Ends (.blockVerify tm die block pct) s
          ((if x.gc then kept.switchCopies d b x else kept).releaseParity x.stripe))
        ∧ (hit.2.vfyThr < pct.toNat ∨ hit.1 = true → Ends (.blockVerify tm die block pct) s
          ((moved.retireBlk d b hit.1).releaseParity x.stripe)))
    ∧ (h.blk d b = none ∨ h.blk d b = some x ∧ (x.closed = false ∨ x.verified = true ∨ x.bad = true ∨ x.parity = true) →
        Ends (.blockVerify tm die block pct) s h)
    ∧ (idle → Ends (.gcIdle tm) s (h.p F.GRNSTAT_bg_gc 1))
    ∧ (¬ idle → Ends (.gcIdle tm) s h)
    ∧ (∀ v, h.gcNeeds d = true → h.gcVictim d = some v → Ends (.gcRelocate tm die) s (h.relocate d v))
    ∧ (h.gcNeeds d = false ∨ h.gcVictim d = none → Ends (.gcRelocate tm die) s h)
    ∧ (h.blk d b = some x → x.victim = true → x.bad = false → h.validUnits d b = [] →
        let hit := h.fireInj 0x10 (fun q => q.a.toNat == d)
        let g : Hub := { hit.2 with gr := { hit.2.gr with
          blks := smDel hit.2.gr.blks (blkKey d b), erases := smPut hit.2.gr.erases (blkKey d b) (hit.2.erases d b + 1) } }
        (ok = true → hit.1 = false → Ends (.victimErase tm die block ok) s
          ((g.setDie d { g.gdie d with free := (g.gdie d).free ++ [b] }).weirs))
        ∧ (ok = false ∨ hit.1 = true → Ends (.victimErase tm die block ok) s (hit.2.retireBlk d b hit.1)))
    ∧ (h.blk d b = none ∨ h.blk d b = some x ∧ (x.victim = false ∨ x.bad = true ∨ h.validUnits d b ≠ []) →
        Ends (.victimErase tm die block ok) s h)
    ∧ (∀ v, worn → h.coldBlk d = some v → Ends (.staticWearLevel tm die) s (h.relocate d v))
    ∧ (¬ worn ∨ h.coldBlk d = none → Ends (.staticWearLevel tm die) s h)
    ∧ (h.blk d b = some x → x.bad = false → x.closed = false →
        (∀ st nb g, smLook gone.gr.stripes x.stripe = some st → gone.takeBlk d = some (nb, g) →
          let sub (e : Nat × Nat) : Nat × Nat := if e = (d, b) then (d, nb) else e
          let g : Hub := { g with gr := { g.gr with stripes := smPut g.gr.stripes x.stripe { st with data := st.data.map sub, parity := sub st.parity } } }
          let g := g.setBlk d nb { x with bad := false, reads := 0 }
          let g := g.inc F.GRNNANDW_bytes (unitBytes * (if x.parity then st.count / 15 else x.slots.length))
          let g := if x.gc && !x.parity then g.inc F.GRNGCUNITS_count x.slots.length
            else if x.parity then g else g.inc F.GRNPARREC_count (4 * x.slots.length)
          let move (p : Place) : Place := if p.die = d ∧ p.block = b then { p with block := nb } else p
          Ends (.programFailure tm die block) s
            ({ g with gr := { g.gr with units := g.gr.units.map (fun e => (e.1, { e.2 with loc := e.2.loc.map move })) } } : Hub).weirs)
        ∧ (smLook gone.gr.stripes x.stripe = none ∨ gone.takeBlk d = none → Ends (.programFailure tm die block) s gone))
    ∧ (h.blk d b = none ∨ h.blk d b = some x ∧ (x.bad = true ∨ x.closed = true) → Ends (.programFailure tm die block) s h)

/-- The Granary's reads and its map (R303, R305, R307, R316 to R318, R432): a read counts on its block; one that parity recovers is
counted, an uncorrectable one poisons its unit; a block read too often, or hard to read, is relocated. A page that passes its check is
hot, one that fails twice waits to be rebuilt, and is rebuilt with the check event; a checkpoint writes the other slot and cuts the
journal back. A read whose map page is not in the hot set or waits for its rebuild waits, and changes nothing, nor does what is not there to
read, to rebuild or to write. Which page leaves the hot set, and the slots of the pages: the model's choice, log 161. -/
def Obligations.GranaryReadsAndMap : Prop :=
  ∀ (tm : Nt) (u : BitVec 32) (x : GUnit) (p : Place) (res : ReadTry) (page : BitVec 16) (s : State),
    let h := s.hub.stamp tm
    let g := ((h.grnTraffic false).sweepFirst u.toNat).touchPage u.toNat
    let b := (g.blk p.die p.block).getD {}
    let met : Hub := match res with
      | .decoded _ => g
      | .parity => if (smLook g.gr.stripes b.stripe).isSome then g.inc F.GRNPARREC_count else g.poisonUnit u.toNat false
      | .uncorrectable => g.poisonUnit u.toNat false
    let hard : Bool := match res with
      | .decoded o => o
      | _ => true
    let read := met.setBlk p.die p.block { b with reads := b.reads + 1 }
    let often := read.on F.GRNCTL_rd_reloc_en && b.closed && !b.victim && (hard || decide (max 1 (read.g F.GRNRDTHR_reads) ≤ b.reads + 1))
    let pg := page.toNat
    let cold := pg < h.mapPages ∧ h.inHot pg = false ∧ h.on F.GRNSTAT_ready = true
    let hit := (h.inc F.GRNMAPMISS_count).fireInj 0x12 (fun q => q.a.toNat == pg)
    let fetched := hit.2.fresh.2
    let again := (if hit.2.fresh.1.getLsbD 0 && !hit.1 then fetched.p F.GRNSTAT_hm_err 1 else fetched).inc F.GRNMAPMISS_count
    (smLook h.gr.units u.toNat = none ∨ h.pageHere u.toNat = false → Ends (.granaryRead tm u res) s h)
    ∧ (smLook h.gr.units u.toNat = some x → h.pageHere u.toNat = true → x.loc = none ∨ x.inTun = true ∨ x.poison = true → Ends (.granaryRead tm u res) s g)
    ∧ (smLook h.gr.units u.toNat = some x → h.pageHere u.toNat = true → x.loc = some p → x.inTun = false → x.poison = false →
        (often = false → Ends (.granaryRead tm u res) s read)
        ∧ (often = true → Ends (.granaryRead tm u res) s ((read.relocate p.die p.block).inc F.GRNRDRELOC_count)))
    ∧ (cold → hit.1 = false → Ends (.mapPageFetch tm page .good) s (fetched.heatPage pg))
    ∧ (cold → hit.1 = true → Ends (.mapPageFetch tm page .good) s ((fetched.inc F.GRNMAPMISS_count).heatPage pg))
    ∧ (cold → Ends (.mapPageFetch tm page .badThenGood) s (again.heatPage pg))
    ∧ (cold → Ends (.mapPageFetch tm page .badTwice) s { again with gr := { again.gr with rebuild := again.gr.rebuild ++ [pg] } })
    ∧ (∀ r, ¬ cold → Ends (.mapPageFetch tm page r) s h)
    ∧ (pg ∈ h.gr.rebuild → Ends (.mapPageRebuild tm page) s
        ((((({ h with gr := { h.gr with rebuild := h.gr.rebuild.filter (· != pg) } } : Hub).writePage pg (h.pageSlot pg)).p
          F.GRNSTAT_map_check 1).inc F.GRNMAPCHK_count).devEv 0x0404 4 pg))
    ∧ (pg ∉ h.gr.rebuild → Ends (.mapPageRebuild tm page) s h)
    ∧ (3 * 2 ^ 30 < h.gr.journal → 
        let all := some (h.gr.units.map (fun e => (e.1, Hub.mapEntry e.2)))
        let a := if h.gr.ckptB then all else h.gr.ckA
        let b := if h.gr.ckptB then h.gr.ckB else all
        Ends (.mapCheckpoint tm) s { h with gr := { h.gr with ckptB := !h.gr.ckptB, journal := 0, jlog := [], ckA := a, ckB := b } })
    ∧ (h.gr.journal ≤ 3 * 2 ^ 30 → Ends (.mapCheckpoint tm) s h)

/-! ### Register stores -/

/-- The four lock registers (R522), the go bits of NFCTL, which each of its three commands writes, the counter latch and the flush (R322,
R479, R493, R513): the value stored, and what the store starts. A store that does not reach its block changes nothing (R475, R520). -/
def Obligations.ControlStores : Prop :=
  ∀ (tm : Nt) (v : BitVec 32) (s : State),
    let h := s.hub.stamp tm
    let x : W64 := v.setWidth 64
    let locks (f : Fld) (m : W64) : Hub := h.setReg f.a (lockStored (h.reg f.a) x m)
    let same (f : Fld) : Hub := h.setReg f.a (h.reg f.a)
    let ask (g : Hub) : Hub :=
      let w : Hub := { g with nf := { g.nf with grnGo := true } }
      let on : Hub := { w with nf := { w.nf with grnOn := true } }
      if w.nf.grnOn = true ∨ w.forming 8 = false ∨ w.stage 2 = false then w
      else if on.g F.GRNHMSIZE_slots < on.g F.GRNHMNEED_slots then on.stopForm 9 else on
    let go (g : Hub) : Hub :=
      if g.on F.NFSTAT_sessions_held then g.handles.foldl (fun (g : Hub) i => g.settled i) (g.p F.NFSTAT_sessions_held 0) else g
    let asked : Hub := if v.getLsbD 2 then ask (locks F.NFCTL_lock 3) else locks F.NFCTL_lock 3
    (h.reached F.HCTL_lock.a = true → Ends (.hctlLock tm v) s (locks F.HCTL_lock 7))
    ∧ (h.reached F.PWRCTL_lock.a = true → Ends (.pwrctlLock tm v) s (locks F.PWRCTL_lock 0xF).brakePass)
    ∧ (h.reached F.DGCTL_lock.a = true → Ends (.dgctlLock tm v) s (locks F.DGCTL_lock 1))
    ∧ (∀ c ∈ [Instr.nfctlLock tm v, .grnGo tm v, .sessionsGo tm v], h.reached F.NFCTL_lock.a = true →
        Ends c s (if v.getLsbD 3 then go asked else asked))
    ∧ (h.reached F.DGSNAP_go.a = true → v.getLsbD 0 = true → Ends (.dgsnap tm v) s
        { same F.DGSNAP_go with diag := { h.diag with
            snapAt := some (h.diag.snapAt.getD (BitVec.ofNat 64 ((h.nt.toNat / 1000 + 1) * 1000))) } })
    ∧ (h.reached F.DGSNAP_go.a = true → v.getLsbD 0 = false → Ends (.dgsnap tm v) s (same F.DGSNAP_go))
    ∧ (h.reached F.GRNFLUSH_go.a = true → v.getLsbD 0 = true → h.on F.GRNSTAT_ready = true →
        Ends (.grnflush tm v) s ((((same F.GRNFLUSH_go).emptyTun.mapCkpt).p F.GRNSTAT_clean 1)))
    ∧ (h.reached F.GRNFLUSH_go.a = true → v.getLsbD 0 = false ∨ h.on F.GRNSTAT_ready = false →
        Ends (.grnflush tm v) s (same F.GRNFLUSH_go))
    ∧ (∀ e ∈ [(Instr.hctlLock tm v, F.HCTL_lock), (.pwrctlLock tm v, F.PWRCTL_lock), (.dgctlLock tm v, F.DGCTL_lock),
        (.nfctlLock tm v, F.NFCTL_lock), (.grnGo tm v, F.NFCTL_lock), (.sessionsGo tm v, F.NFCTL_lock), (.dgsnap tm v, F.DGSNAP_go),
        (.grnflush tm v, F.GRNFLUSH_go)], h.reached e.2.a = false → Ends e.1 s h)

/-- Stores in BAR0 (R8, R9, R286, R287, R475, R520): a register whose write starts nothing takes its fields by their access codes, whole
or by halves; one that has a command of its own does as that command; a vector's mask bit lets its pending message go; an offset that
names no register ignores the store, and so does a block that is in reset. A ring that is enabled starts at 0, keeps its size and drains
its backlog (R139, R144, R283, R288); a partition's mode is kept where its window holds a chunk (R218). That a store which is not aligned
has no effect is the model's choice (log 44). -/
def Obligations.RegisterStores : Prop :=
  ∀ (tm : Nt) (s : State),
    let h := s.hub.stamp tm
    let listed (addr : BitVec 20) (x : W64) (wide : Bool) (r : RegRow) (m : W64) : Prop :=
      h.reached addr.toNat = true → regRow addr.toNat = some r → plainReg addr.toNat r = true →
      addr.toNat < 0x4000 ∨ 0x5000 ≤ addr.toNat → Ends (.registerWrite tm addr x wide) s (h.setReg addr.toNat
        (r.fields.foldl (codeStored (h.locked addr.toNat) (if wide then x else BitVec.ofNat 64 (x.toNat % 2 ^ 32)) m) (h.reg addr.toNat)))
    let ring (st : Bool) (n : BitVec 4) (v : BitVec 32) (c : Instr) : Prop :=
      let a := (ringRegs st).en.a + (ringRegs st).en.stride * n.toNat
      let old := h.reg a
      let g := h.setReg a (ringSized old (v.setWidth 64))
      h.reached a = true →
        (old.getLsbD 8 = true ∨ v.getLsbD 8 = false → Ends c s g)
        ∧ (old.getLsbD 8 = false → v.getLsbD 8 = true →
          Ends c s ((((g.pi (ringRegs st).prod n.toNat 0).setRing st n.toNat { h.ring st n.toNat with consumed := 0 }).drain st n.toNat
            ((h.ring st n.toNat).backlog.length + 1)).ringTested st n.toNat))
    let unread (st : Bool) (n : BitVec 4) (c : Instr) : Prop :=
      h.reached ((ringRegs st).en.a + (ringRegs st).en.stride * n.toNat) = false → Ends c s h
    let plain (addr : Nat) : Prop := addr < 0x4000 ∨ 0x5000 ≤ addr
    let own (tm : Nt) (v : BitVec 32) : List (Nat × Instr) :=
      [(F.HCTL_lock.a, .hctlLock tm v), (F.PWRCTL_lock.a, .pwrctlLock tm v), (F.NFCTL_lock.a, .nfctlLock tm v), (F.DGCTL_lock.a, .dgctlLock tm v),
        (F.DGSNAP_go.a, .dgsnap tm v), (F.GRNFLUSH_go.a, .grnflush tm v), (F.STONERETIRE_stone.a, .stoneretire tm v),
        (F.AIXBANKMAP_bank.a, .aixbankmap tm v), (F.NFRESET_code.a, .warmReset tm v)]
    (∀ (addr : BitVec 20) (x : W64) (r : RegRow), addr.toNat % 4 = 0 → listed addr x false r 0xFFFFFFFF)
    ∧ (∀ (addr : BitVec 20) (x : W64) (r : RegRow), addr.toNat % 8 = 0 → r.wide = true → listed addr x true r (BitVec.allOnes 64))
    ∧ (∀ (addr : BitVec 20) (x : W64), addr.toNat % 4 ≠ 0 ∨ (regRow addr.toNat = none ∧ regRow (addr.toNat - 4) = none ∧
        (addr.toNat < 0x4000 ∨ 0x5000 ≤ addr.toNat)) → Ends (.registerWrite tm addr x false) s h)
    ∧ (∀ (addr : BitVec 20) (x : W64) (r : RegRow), addr.toNat % 4 = 0 → 4 ≤ addr.toNat → h.reached addr.toNat = true → plain addr.toNat →
        regRow addr.toNat = none → regRow (addr.toNat - 4) = some r → plainReg (addr.toNat - 4) r = true →
        Ends (.registerWrite tm addr x false) s (if r.wide then h.setReg (addr.toNat - 4)
          (r.fields.foldl (codeStored (h.locked (addr.toNat - 4)) (BitVec.ofNat 64 (x.toNat % 2 ^ 32 * 2 ^ 32)) 0xFFFFFFFF00000000)
            (h.reg (addr.toNat - 4))) else h))
    ∧ (∀ (addr : BitVec 20) (x : W64), addr.toNat % 8 ≠ 0 → addr.toNat ≠ F.NFRESET_code.a → Ends (.registerWrite tm addr x true) s h)
    ∧ (∀ (v : BitVec 32) (x : W64), x.toNat % 2 ^ 32 = v.toNat → ∀ e ∈ own tm v,
        exec (.registerWrite tm (BitVec.ofNat 20 e.1) x false) s = exec e.2 s)
    ∧ (∀ (n : BitVec 4) (v : BitVec 32) (x : W64), x.toNat % 2 ^ 32 = v.toNat →
        ∀ e ∈ [(F.MOLLANE_lane, Instr.mollane tm n v), (F.STRSIZE_enable, .streamRingEnable tm n v), (F.CMPSIZE_enable, .completionRingEnable tm n v),
          (F.PARTCTL_mode, .partctlMode tm n v)],
        exec (.registerWrite tm (BitVec.ofNat 20 (e.1.a + e.1.stride * n.toNat)) x false) s = exec e.2 s)
    ∧ (∀ (addr : BitVec 20) (x : W64), h.reached addr.toNat = true → addr.toNat ≠ F.NFRESET_code.a → plain addr.toNat →
        (addr.toNat % 4 = 0 → Ends (.registerWrite tm addr x false) s (h.store32 addr.toNat (x.toNat % 2 ^ 32)))
        ∧ (addr.toNat % 8 = 0 → ((regRow addr.toNat).map (·.wide)).getD false = false → Ends (.registerWrite tm addr x true) s
          ((h.store32 addr.toNat (x.toNat % 2 ^ 32)).store32 (addr.toNat + 4) (x.toNat / 2 ^ 32))))
    ∧ (∀ (addr : BitVec 20) (x : W64), h.reached addr.toNat = true → ¬ plain addr.toNat → addr.toNat % 8 = 0 →
        Ends (.registerWrite tm addr x true) s ((h.msixStore addr.toNat (x.toNat % 2 ^ 32)).msixStore (addr.toNat + 4) (x.toNat / 2 ^ 32)))
    ∧ (∀ (k : BitVec 6) (x : W64), k.toNat < 48 → h.reached (0x4000 + 16 * k.toNat + 12) = true →
        let q := smGet {} h.irq k.toNat
        let mask := x.toNat % 2 == 1
        let free : Bool := !mask && q.pend
        let now : Irq := if free then { q with masked := false, pend := false } else { q with masked := mask }
        let g : Hub := { h with irq := smSet {} h.irq k.toNat now }
        Ends (.registerWrite tm (BitVec.ofNat 20 (0x4000 + 16 * k.toNat + 12)) x false) s (if free then g.emit (.msix k) else g))
    ∧ (∀ (k : BitVec 6) (o : Nat) (x : W64), k.toNat < 48 → o ∈ [0, 4, 8] → h.reached (0x4000 + 16 * k.toNat + o) = true →
        let q := smGet {} h.irq k.toNat
        let v := x.toNat % 2 ^ 32
        let now : Irq := if o = 8 then { q with data := BitVec.ofNat 32 v }
          else { q with addr := BitVec.ofNat 64 (if o = 0 then setBits q.addr.toNat 31 0 v else setBits q.addr.toNat 63 32 v) }
        Ends (.registerWrite tm (BitVec.ofNat 20 (0x4000 + 16 * k.toNat + o)) x false) s { h with irq := smSet {} h.irq k.toNat now })
    ∧ (∀ (addr : BitVec 20) (x : W64), addr.toNat % 4 = 0 → h.reached addr.toNat = true → ¬ plain addr.toNat → 0x4300 ≤ addr.toNat →
        Ends (.registerWrite tm addr x false) s h)
    ∧ (∀ (addr : BitVec 20) (x : W64) (wide : Bool), h.reached addr.toNat = false → addr.toNat ≠ F.NFRESET_code.a →
        Ends (.registerWrite tm addr x wide) s h)
    ∧ (∀ (n : BitVec 4) (v : BitVec 32), ring true n v (.streamRingEnable tm n v) ∧ ring false n v (.completionRingEnable tm n v)
        ∧ unread true n (.streamRingEnable tm n v) ∧ unread false n (.completionRingEnable tm n v))
    ∧ (∀ (p : BitVec 4) (v : BitVec 32), h.reached (F.PARTCTL_mode.a + F.PARTCTL_mode.stride * p.toNat) = false →
        Ends (.partctlMode tm p v) s h)
    ∧ (∀ (p : BitVec 4) (v : BitVec 32),
        let a := F.PARTCTL_mode.a + F.PARTCTL_mode.stride * p.toNat
        let x : W64 := v.setWidth 64
        let g := h.setReg a (((h.reg a &&& ~~~ 1) ||| (x &&& 1)) &&& ~~~ (x &&& 2))
        let holds : Prop := ∃ pl, h.plan = some pl ∧ pl.chunkGr ≤ h.gi F.PARTCTL_window p.toNat
        h.reached a = true →
          (v.getLsbD 0 = false ∨ holds → Ends (.partctlMode tm p v) s g)
          ∧ (v.getLsbD 0 = true → ¬ holds →
            Ends (.partctlMode tm p v) s ((g.pi F.PARTCTL_mode p.toNat 0).pi F.PARTCTL_mode_err p.toNat 1)))

/-- Writes of a valid pair (R212, R213, R235, R335) and the management port (R470): a stone is retired at the next step boundary, or the
request is rejected where its die has no spare; a Molair lane and a bank of AIX give way to their spares; SMBus writes what the power
block lets management write, its lock bit among them, and rejects the rest, and reads registers by eight bytes. The model's choices: logs 2, 45 and 48. -/
def Obligations.RepairsAndManagement : Prop :=
  ∀ (tm : Nt) (v : BitVec 32) (s : State),
    let h := s.hub.stamp tm
    let x := v.toNat % 2 ^ 16
    let good : Prop := pairOk 16 v.toNat = true
    let l := x % 2 ^ 11
    let b := x % 32
    let out : Hub := { h with aix := { h.aix with bad := h.aix.bad ++ [b] } }
    let vaux : Prop := h.pw.inReg.getLsbD 0 = true
    let spared : Prop := h.on F.AIXCTL_spare_en = true ∧ h.aix.swap = none ∧ h.aix.spare = none
    (good → h.reached F.STONERETIRE_stone.a = true →
        (h.gi F.STONESPARE_spares (l / 512) ≠ 0 → Ends (.stoneretire tm v) s
          { h.setReg F.STONERETIRE_stone.a (BitVec.ofNat 64 (pairOf 16 l)) with
            grp := { h.grp with retireQ := h.grp.retireQ ++ [BitVec.ofNat 11 l] } })
        ∧ (h.gi F.STONESPARE_spares (l / 512) = 0 → Ends (.stoneretire tm v) s (h.p F.STONESTAT_retire_rej 1)))
    ∧ (∀ n : BitVec 4, good → h.reached F.MOLLANE_lane.a = true →
        let k := n.toNat
        let fit : Prop := h.portUp k = true ∧ x % 16 < 8 ∧ h.on F.MOLCTL_lane_spare_en = true ∧ h.gi F.MOLLANE_lane k = 0xF
          ∧ h.gi F.MOLPSTAT_state k ≠ 3 ∧ (h.port k).swap = none
        (fit → Ends (.mollane tm n v) s ((h.setPort k { h.port k with swap := some (BitVec.ofNat 4 x) }).emit (.swapLane n (BitVec.ofNat 4 x))))
        ∧ (¬ fit → Ends (.mollane tm n v) s h))
    ∧ (good → h.reached F.AIXBANKMAP_bank.a = true →
        (b < 16 → b ∉ h.aix.bad → spared → Ends (.aixbankmap tm v) s { out with aix := { out.aix with swap := some b } })
        ∧ (b < 16 → b ∉ h.aix.bad → ¬ spared → Ends (.aixbankmap tm v) s (((out.p F.AIXSTAT_nospare 1).devEv 0x0303 4 b).raiseFault 5))
        ∧ (16 ≤ b ∨ b ∈ h.aix.bad → Ends (.aixbankmap tm v) s h))
    ∧ (h.reached F.STONERETIRE_stone.a = false → Ends (.stoneretire tm v) s h)
    ∧ (∀ n : BitVec 4, h.reached (F.MOLLANE_lane.a + F.MOLLANE_lane.stride * n.toNat) = false → Ends (.mollane tm n v) s h)
    ∧ (h.reached F.AIXBANKMAP_bank.a = false → Ends (.aixbankmap tm v) s h)
    ∧ (∀ (off : BitVec 16) (pec : Bool), vaux → pec = false ∨ h.on F.PWRCTL_mgmt_wr_en = false ∨ 0x4000 ≤ off.toNat
          ∨ ((regRow (F.PWRCTL_lock.a + off.toNat)).map (fun r => r.fields.any (fun f => f.acc == .rw || f.acc == .pw))).getD false = false →
        Ends (.smbusWrite tm off v pec) s (h.p F.PWRSTAT_smb_rej 1))
    ∧ (vaux → h.on F.PWRCTL_mgmt_wr_en = true → Ends (.smbusWrite tm 0 v true) s
        (h.setReg F.PWRCTL_lock.a (h.reg F.PWRCTL_lock.a ||| (v.setWidth 64 &&& 0x80000000))).brakePass)
    ∧ (good → vaux → h.on F.PWRCTL_mgmt_wr_en = true →
        Ends (.smbusWrite tm 8 v true) s (h.setReg F.PWRCAP_watts.a (BitVec.ofNat 64 (pairOf 16 x))))
    ∧ (∀ (off : BitVec 16) (r : RegRow), vaux → h.on F.PWRCTL_mgmt_wr_en = true → off.toNat < 0x4000 →
        regRow (F.PWRCTL_lock.a + off.toNat) = some r → plainReg (F.PWRCTL_lock.a + off.toNat) r = true →
        r.fields.any (fun f => f.acc == .rw) = true →
        let a := F.PWRCTL_lock.a + off.toNat
        let rw (y : W64) (f : FieldRow) : W64 := if f.acc = .rw then codeStored true (v.setWidth 64) 0xFFFFFFFF y f else y
        Ends (.smbusWrite tm off v true) s (h.setReg a (r.fields.foldl rw (h.reg a))))
    ∧ (∀ (off : BitVec 16) (pec : Bool), ¬ vaux → Ends (.smbusWrite tm off v pec) s h ∧ Ends (.smbusRead tm off) s h)
    ∧ (∀ off : BitVec 16,
        let o := off.toNat % 2 ^ 15
        let host := off.getLsbD 15
        let a := if host then o else F.PWRCTL_lock.a + o
        let past : Prop := (if host then 0x10 < o else 0x1000 ≤ o)
        let wide := ((regRow a).map (·.wide)).getD false
        let low (k : Nat) : Nat := (h.regRead k).toNat % 2 ^ 32
        (vaux → o % 8 = 0 → past → Ends (.smbusRead tm off) s (h.emit (.smbus 0)))
        ∧ (vaux → o % 8 = 0 → ¬ past → wide = true → Ends (.smbusRead tm off) s (h.emit (.smbus (h.regRead a))))
        ∧ (vaux → o % 8 = 0 → ¬ past → wide = false → Ends (.smbusRead tm off) s
          (h.emit (.smbus (BitVec.ofNat 64 (low a + low (a + 4) * 2 ^ 32)))))
        ∧ (vaux → o % 8 ≠ 0 → Ends (.smbusRead tm off) s
          (({ h with free := h.free + 1 } : Hub).emit (.smbus (Config.freeValue h.free)))))

/-- A write that carries no valid pair to a PW field, by a store of 4 bytes or of 8, by the command of its register, at a warm reset or
over SMBus, is ignored, sets INTSTAT.pw_reject and counts in INTPWREJ (R374). Every store covers both halves of a PW field. -/
def Obligations.PairedWordWrites : Prop :=
  ∀ (tm : Nt) (v : BitVec 32) (s : State),
    let h := s.hub.stamp tm
    let bad := pairOk 16 v.toNat = false
    s.hub.hubBad = false → bad →
    (∀ (addr : BitVec 20) (x : W64), addr.toNat ∈ Hub.pairRegs → h.reached addr.toNat = true → x.toNat % 2 ^ 32 = v.toNat →
      PairRejected (.registerWrite tm addr x false) tm s addr.toNat)
    ∧ (∀ (addr : BitVec 20) (x : W64), addr.toNat % 8 = 0 → addr.toNat ∈ Hub.pairRegs → h.reached addr.toNat = true →
        x.toNat % 2 ^ 32 = v.toNat → PairRejected (.registerWrite tm addr x true) tm s addr.toNat)
    ∧ (∀ (addr : BitVec 20) (x : W64), addr.toNat % 8 = 0 → addr.toNat + 4 ∈ Hub.pairRegs → h.reached addr.toNat = true →
        x.toNat / 2 ^ 32 = v.toNat → PairRejected (.registerWrite tm addr x true) tm s (addr.toNat + 4))
    ∧ (h.reached F.STONERETIRE_stone.a = true → PairRejected (.stoneretire tm v) tm s F.STONERETIRE_stone.a)
    ∧ (∀ n : BitVec 4, h.reached F.MOLLANE_lane.a = true →
        PairRejected (.mollane tm n v) tm s (F.MOLLANE_lane.a + F.MOLLANE_lane.stride * n.toNat))
    ∧ (h.reached F.AIXBANKMAP_bank.a = true → PairRejected (.aixbankmap tm v) tm s F.AIXBANKMAP_bank.a)
    ∧ (h.stage 0 = true → PairRejected (.warmReset tm v) tm s F.NFRESET_code.a)
    ∧ (h.pw.inReg.getLsbD 0 = true → h.on F.PWRCTL_mgmt_wr_en = true →
        PairRejected (.smbusWrite tm 8 v true) tm s F.PWRCAP_watts.a)

/-! ### Links -/

/-- Frames and control messages of a Molair link (R233 to R236, R239, R243, R244, R389): a frame in order is acknowledged, and its
payload lands, waits for its message or is forwarded; one that fails its check or leaves a gap is answered with a NAK; an acknowledgment
releases frames and those that waited for room go out, a NAK sends them again, or fails the port where one has been resent 8 times;
credits add up; a lane swap takes effect; a lane that fails gives way to the spare or fails its port, and a silent port fails; a device of
the group that has raised a fault brings the others into it. The model's choices: logs 93 and 139, that a swap that waits makes its port
fail (log 140), that nothing arrives while the ports are not active (log 157), and that a command whose condition does not hold changes nothing (log 60). -/
def Obligations.MolairLinks : Prop :=
  ∀ (tm : Nt) (port : BitVec 4) (fr : Frame) (s : State),
    let h := s.hub.stamp tm
    let n := port.toNat
    let p := h.port n
    let up : Prop := h.portUp n = true
    let on : Prop := up ∧ h.on F.MOLCTL_enable = true
    let next : Prop := on ∧ s.hub.inj = [] ∧ fr.lseq = p.recvSeq
    let taken : Hub := ((h.setPort n { p with recvSeq := p.recvSeq + 1, lastRx := h.nt }).inci F.MOLRX_bytes n (fr.valid.toNat + 1)).emit
      (.ackTo port fr.lseq)
    let credited : Hub := taken.emit (.creditTo port fr.queue 1)
    let q : Port := { p with lastRx := h.nt }
    let heard : Hub := h.setPort n q
    let bad (g : Hub) : Hub := ((g.inci F.MOLCRC_count n 1).inc F.INTCHKFAIL_count).emit (.nakTo port (g.port n).recvSeq)
    let free (g : Hub) : Prop := g.on F.MOLCTL_lane_spare_en = true ∧ g.gi F.MOLLANE_lane n = 0xF ∧ g.gi F.MOLPSTAT_state n ≠ 3
      ∧ (g.port n).swap = none
    let swap (g : Hub) (lane : BitVec 4) : Hub := (g.setPort n { g.port n with swap := some lane }).emit (.swapLane port lane)
    let base := h.dev - h.position
    -- frames
    (next → fr.typ = 1 → bitsOf fr.tag.toNat 31 16 = h.stepNo % 2 ^ 16 →
        let i := bitsOf fr.tag.toNat 15 0
        let u : Hub := { taken with landing := smPut h.landing i (smGet [] h.landing i ++ [(padTo 512 fr.payload, fr.poison)]) }
        EndsWith (.staticFrame tm port fr) s u (landAll u s.stn))
    ∧ (up → 4 < fr.typ.toNat → exec (.staticFrame tm port fr) s = .next { s with hub := bad h } ∧ Ends (.dynamicFrame tm port fr) s (bad h))
    ∧ (next → fr.typ = 3 → fr.dst.toNat = h.dev → fr.last = false →
        let k := fr.src.toNat * 2 ^ 32 + fr.tag.toNat
        Ends (.dynamicFrame tm port fr) s { credited with reasm := smPut h.reasm k (smGet [] h.reasm k ++ [fr]) })
    ∧ (next → fr.typ = 3 → fr.dst.toNat = h.dev → fr.last = true →
        let k := fr.src.toNat * 2 ^ 32 + fr.tag.toNat
        let g : Hub := { credited with reasm := smDel h.reasm k }
        Ends (.dynamicFrame tm port fr) s (if Hub.messageOk (smGet [] h.reasm k ++ [fr]) then g else (g.inc F.MOLMSGDROP_count).inc F.INTCHKFAIL_count))
    ∧ (∀ m, next → fr.typ = 3 → fr.dst.toNat ≠ h.dev → credited.route fr.dst.toNat fr.tag.toNat = some m →
        let k := m * 16 + fr.queue.toNat
        let it : SlItem := { enq := h.nt, head := fr.valid.toNat + 1, load := .frame fr }
        Ends (.dynamicFrame tm port fr) s { credited with sl := { h.sl with dyn := smPut h.sl.dyn k (smGet [] h.sl.dyn k ++ [it]) } })
    ∧ (on → s.hub.inj = [] → fr.typ = 3 → fr.lseq ≠ p.recvSeq → newer 32 fr.lseq.toNat p.recvSeq.toNat = true →
        Ends (.dynamicFrame tm port fr) s ((h.setPort n { p with lastRx := h.nt }).emit (.nakTo port p.recvSeq)))
    ∧ (∀ k : BitVec 16, on → Ends (.frameCheckFailure tm port k) s
        (bad ((h.setPort n { p with lastRx := h.nt }).inci F.MOLFEC_count n k.toNat)))
    ∧ (∀ k : BitVec 16, ¬ on → Ends (.frameCheckFailure tm port k) s h)
    -- acknowledgments, resends, credits
    ∧ (∀ (lseq : BitVec 32) (k : Nat), p.replay.findIdx? (fun f => f.1.lseq == lseq) = some k →
        let left := p.replay.drop k
        let again := left.map (fun f => (f.1, f.2 + 1))
        let tired : Prop := ∃ f ∈ left, 8 ≤ f.2
        Ends (.acknowledgment tm port lseq) s ((heard.setPort n { q with replay := p.replay.drop (k + 1) }).sendWaiting n)
        ∧ (p.waitq = [] → Ends (.acknowledgment tm port lseq) s (h.setPort n { q with replay := p.replay.drop (k + 1) }))
        ∧ (up → ¬ tired → Ends (.nak tm port lseq) s ((left.foldl (fun (g : Hub) f => g.emit (.frame port f.1))
          ((heard.setPort n { q with replay := again }).inci F.MOLRETRY_count n left.length)).sendWaiting n))
        ∧ (up → tired → Ends (.nak tm port lseq) s (heard.portFail n 1)))
    ∧ (∀ lseq : BitVec 32, p.replay.findIdx? (fun f => f.1.lseq == lseq) = none →
        Ends (.acknowledgment tm port lseq) s heard ∧ Ends (.nak tm port lseq) s heard)
    ∧ (∀ (c : BitVec 4) (k : BitVec 8), Ends (.credit tm port c k) s
        (h.setPort n { p with lastRx := h.nt, credits := p.credits.modify c.toNat (· + k.toNat) }))
    -- lanes and ports
    ∧ (∀ lane, up → p.swap = some lane → Ends (.laneSwap tm port) s
        (((((h.setPort n { p with swap := none }).setReg (F.MOLLANE_lane.a + F.MOLLANE_lane.stride * n) (BitVec.ofNat 64 (pairOf 16 lane.toNat))).pi
          F.MOLPSTAT_state n 3).devEv 0x0202 4 (n + lane.toNat * 16)).p F.MOLSTAT_lane_spared 1))
    ∧ (up → p.swap = none → h.gi F.MOLLANE_lane n = 0xF → h.gi F.MOLPSTAT_state n ≠ 3 → Ends (.laneSwap tm port) s
        ((((({ h with free := h.free + 1 } : Hub).setPort n { p with swap := none }).setReg (F.MOLLANE_lane.a + F.MOLLANE_lane.stride * n)
          (BitVec.ofNat 64 (pairOf 16 ((Config.freeValue h.free).toNat % 8)))).pi F.MOLPSTAT_state n 3).devEv 0x0202 4
            (n + (Config.freeValue h.free).toNat % 8 * 16) |>.p F.MOLSTAT_lane_spared 1))
    ∧ (∀ lane, ¬ up → p.swap = some lane → Ends (.laneSwap tm port) s h)
    ∧ (∀ lane : BitVec 4, up → lane.toNat < 8 →
        (free h → Ends (.laneLockLoss tm port lane) s (swap h lane)) ∧ (¬ free h → Ends (.laneLockLoss tm port lane) s (h.portFail n 0)))
    ∧ (∀ (lane : BitVec 4) (k : BitVec 32), up →
        let g := h.inci F.MOLFEC_count n k.toNat
        (k.toNat ≤ max 1 (h.g F.MOLLANETHR_symbols) → Ends (.symbolWindow tm port lane k) s g)
        ∧ (max 1 (h.g F.MOLLANETHR_symbols) < k.toNat → lane.toNat < 8 → free h → Ends (.symbolWindow tm port lane k) s (swap g lane)))
    ∧ (up → p.lastRx.toNat + 10000 ≤ h.nt.toNat →
        let g := ((h.pi F.MOLPSTAT_state n 4).devEv 0x0203 4 (n + 512)).p F.MOLSTAT_port_fail 1
        let g := g.setPort n { g.port n with replay := [], waitq := [], swap := none }
        Ends (.portSilence tm port) s (h.portFail n 2)
        ∧ (g.parallelPort n = none → g.groupPorts.contains (h.gi F.MOLREMAP_primary n) = false → g.groupPorts.contains (h.gi F.MOLREMAP_second n) = false →
        Ends (.portSilence tm port) s (g.rewriteRoutes.reroute n)))
    ∧ (h.nt.toNat < p.lastRx.toNat + 10000 → Ends (.portSilence tm port) s h)
    -- group faults
    ∧ (∀ (src : BitVec 6) (cause : BitVec 8), base ≤ src.toNat → src.toNat < base + h.g F.POOLROLE_size → h.faulted = false →
        Answers (.groupFaultFrame tm src cause) s (fun t => t.hub.faulted = true ∧ t.hub.g F.INTFAULT_cause = cause.toNat
          ∧ t.hub.g F.INTFAULT_device = src.toNat ∧ t.hub.g F.INTFAULTNT_nt = h.nt.toNat ∧ t.hub.grp.cur = none ∧ t.hub.grp.frames = []
          ∧ t.hub.hopq = [] ∧ t.hub.ck.faultNt = some h.nt ∧ HubOnly s t))
    ∧ (∀ (src : BitVec 6) (cause : BitVec 8), src.toNat < base ∨ base + h.g F.POOLROLE_size ≤ src.toNat →
        Ends (.groupFaultFrame tm src cause) s h)

/-! ### Sluice -/

/-- Sluice's instants (R357 to R359, R362, R366, R367, R371): at a refill instant every bucket of a shaped port, queue or ring and every
policer gains its rate, up to its burst; a queue sends while its deficit covers its head, else the next eligible one gains its quantum, and
an object whose bytes leave in parts goes on from its context; at a sample instant the queues are sampled, and at any other time nothing
happens. The model's choices: logs 60, 65 and 66. -/
def Obligations.SluiceInstants : Prop :=
  ∀ (tm : Nt) (s : State),
    let h := s.hub.stamp tm
    let f : Hub := { h with sl := { h.sl with force := h.sl.force.filter (fun e => decide (h.nt ≤ e.2.2)), lastRefill := h.nt } }
    let per := h.slPeriod
    let refills : Prop := h.nt = tm ∧ h.sl.lastRefill < tm ∧ tm.toNat % (per * 1000) = 0
    let every := max 1 (h.slReg 0x3400C % 2 ^ 20) * 1000
    let samples : Prop := h.on F.SLCTL_sample_en = true ∧ h.nt = tm ∧ h.sl.lastSample < tm ∧ tm.toNat % every = 0
    let most (path : SlPath) : Nat := match path with
      | .molair _ => 36
      | .host => 36
      | _ => 16
    (refills → Ends (.refillInstant tm) s h.refill)
    ∧ (refills → s.hub.hubBad = false → Answers (.refillInstant tm) s (fun t =>
      let z := t.hub.sl
      z.lastRefill = tm
      ∧ (∀ n, n < 16 → smGet 0 z.dTok n = if f.slReg 0x34014 % 2 ^ 20 = 0 then smGet 0 h.sl.dTok n
        else min (smGet 0 h.sl.dTok n + (f.slReg 0x34014 % 2 ^ 20 * per : Nat)) (max 1024 (f.slReg 0x34018) : Nat))
      ∧ (∀ n q, n < 16 → q < 16 → smGet 0 z.qTok (n * 16 + q) =
        if f.slReg (0x34104 + 16 * q) % 2 ^ 20 = 0 then smGet 0 h.sl.qTok (n * 16 + q)
        else min (smGet 0 h.sl.qTok (n * 16 + q) + (f.slReg (0x34104 + 16 * q) % 2 ^ 20 * per : Nat)) (max 1024 (f.slReg (0x34108 + 16 * q)) : Nat))
      ∧ (∀ p, p < 16 → smGet 0 z.hTok p = if f.slReg (0x34304 + 16 * p) % 2 ^ 20 = 0 then smGet 0 h.sl.hTok p
        else min (smGet 0 h.sl.hTok p + (f.slReg (0x34304 + 16 * p) % 2 ^ 20 * per : Nat)) (max 256 (f.slReg (0x34308 + 16 * p)) : Nat))
      ∧ (∀ k, k < 64 → smGet 0 z.pol k = min (smGet 0 h.sl.pol k + f.slReg (0x34504 + 16 * k) * per)
        (max 1 (f.slReg (0x34508 + 16 * k) % 2 ^ 16) * 1000000))
      ∧ z.dyn = h.sl.dyn ∧ z.grn = h.sl.grn ∧ HubOnly s t))
    ∧ (¬ refills → Ends (.refillInstant tm) s h)
    ∧ (∀ (path : SlPath) (P : Hub.DrrPath), h.pathOf path = some P →
        Ends (.drrSend tm path) s (h.drr P (most path))
        ∧ (∀ q, smGet 0 h.sl.serv P.key = q + 1 → P.elig h q = true → P.len h q ≤ h.defOf P q → Ends (.drrSend tm path) s (h.served P q))
        ∧ (∀ q, smGet 0 h.sl.serv P.key = 0 →
            ((List.range P.n).map (fun k => (smGet 0 h.sl.ptr P.key + k) % P.n)).find? (fun q => P.elig h q) = some q →
            let g := (h.setDef P q (h.defOf P q + P.quant h q)).setPtr P q (q + 1)
            P.elig g q = true → P.len g q ≤ g.defOf P q → Ends (.drrSend tm path) s (g.served P q))
        ∧ (smGet 0 h.sl.serv P.key = 0 → (∀ q, q < P.n → P.elig h q = false) → Ends (.drrSend tm path) s h))
    ∧ (∀ x l, smGet [] h.sl.grn 12 = x :: l →
        let k := min unitBytes x.head
        let r := h.resume 17 12 x
        let y := Hub.partly x (Hub.loadId x.load) ((x.ctx.map (·.count.toNat)).getD 0 + k) r.1
        let g := ({ r.2 with sl := { r.2.sl with
          grn := smSet [] r.2.sl.grn 12 (if x.head ≤ unitBytes then l else { y with head := x.head - k } :: l), last := smPut r.2.sl.last 17 13 } } :
          Hub).grnPaid 12 k
        Ends (.drrSend tm .grnRead) s (if x.head ≤ unitBytes ∧ y.bad then g.spoil x.load else g))
    ∧ (samples → Ends (.sampleInstant tm) s ({ h with sl := { h.sl with lastSample := tm } } : Hub).sampleAll)
    ∧ (¬ samples → Ends (.sampleInstant tm) s h)

/-! ### Power -/

/-- The supplies, the governor and the sensors (R453 to R469): inputs in their order, a loss at an input, a fuse or a trip, the restart,
PWRBRK#, warm dies and stacks, wake tokens and grants, power windows and steps of VDD_CORE. The model's choices: logs 60, 106 and 107.
-/
def Obligations.PowerAndSupplies : Prop :=
  ∀ (tm : Nt) (s : State),
    let h := s.hub.stamp tm
    let pw (u : Power) : Hub := { h with pw := u }
    let live : Prop := h.pw.off = false ∧ h.pw.ok = true
    let lost (cause : Nat) (t : State) : Prop :=
      t.hub.pw.inReg = (if cause < 4 then BitVec.ofNat 4 (setBits h.pw.inReg.toNat cause cause 0) else h.pw.inReg) ∧ t.hub.nt = h.nt
    let known (k : Nat) : Prop := k < 5 ∨ (8 ≤ k ∧ k < 16)
    let shown (k v : Nat) : Nat := v + h.offsetOf k
    let quiet (g : Hub) (c : Instr) : Prop := EndsWith c s g (if (Hub.finish s.hub g).pw.off then {} else s.stn)
    let from_ (m : BitVec 4) : Nat := ((List.range 4).find? (fun k => !m.getLsbD k)).getD 4
    let again (g : Hub) : Hub := let u := g.resetState false; { u with pw := { u.pw with off := false, ok := true } }
    let brake (g : Hub) : Hub :=
      let asked := (g.pw.brkPin || g.pw.brkInj.isSome) && g.on F.PWRCTL_brk_en
      let u := (((g.p F.PWRSTAT_braking 1).devEv 0x0813 4 0).inc F.PWRBRKS_count).setMv 650
      if asked && !g.on F.PWRSTAT_braking then { u with pw := { u.pw with hold := true } }
      else if !asked && g.on F.PWRSTAT_braking then g.p F.PWRSTAT_braking 0 else g
    let felt (k v : Nat) : Hub :=
      let g := h.showTemp k v
      if v < g.warnAt k || (g.on F.PWRSTAT_tj_warn && decide (g.warnAt k ≤ h.tempOf k)) then g
      else ((g.p F.PWRSTAT_tj_warn 1).devEv 0x0812 4 (k + min v 255 * 256)).signal 34
    -- inputs
    (∀ i : BitVec 2,
        let new : BitVec 4 := BitVec.ofNat 4 (h.pw.inReg.toNat ||| 2 ^ i.toNat)
        let late := (List.range (from_ new)).filter (fun k => decide (i.toNat < k) && decide (from_ h.pw.inReg ≤ k))
        Ends (.inputInRegulation tm i) s (late.foldl (fun g k => (g.p F.PWRSTAT_seq_err 1).devEv 0x0811 4 k)
          (pw { h.pw with inReg := new, ok := h.pw.ok || (!h.pw.off && decide (from_ new = 4)) })))
    ∧ (∀ cause : BitVec 3, cause.toNat < 4 → (live → DownAfter (.powerLoss tm cause) s (lost cause.toNat))
        ∧ (¬ live → quiet (pw { h.pw with inReg := BitVec.ofNat 4 (setBits h.pw.inReg.toNat cause.toNat cause.toNat 0) }) (.powerLoss tm cause)))
    ∧ (∀ cause : BitVec 3, 4 ≤ cause.toNat → quiet h (.powerLoss tm cause))
    ∧ (∀ i : BitVec 2, (live → DownAfter (.fuseOpen tm i) s (fun t => lost 4 t ∧ t.hub.on F.PWRSTAT_in_fault = true))
        ∧ (¬ live → quiet (h.p F.PWRSTAT_in_fault 1) (.fuseOpen tm i)))
    ∧ (h.pw.off = true → h.pw.inReg = 0xF → h.pw.trip = false → Ends (.powerRestart tm) s (again h))
    ∧ (h.pw.off = false ∨ h.pw.inReg ≠ 0xF ∨ h.pw.trip = true → Ends (.powerRestart tm) s h)
    -- PWRBRK#
    ∧ Ends (.pwrbrkAssert tm) s (brake (pw { h.pw with brkPin := true }))
    ∧ Ends (.pwrbrkDeassert tm) s (brake (pw { h.pw with brkPin := false }))
    -- sensors
    ∧ (∀ (k : BitVec 4) (v : BitVec 8), known k.toNat →
        let x := shown k.toNat v.toNat
        let u := ((felt k.toNat x).p F.PWRSTAT_ttrip 1).inc F.PWRTRIPS_count
        let tripped : Hub := { u with pw := { u.pw with trip := true, tripPerst := u.pw.tripPerst || u.pw.perst } }
        (x < Hub.tripAt k.toNat ∨ h.pw.trip = true → quiet (felt k.toNat x).capPass (.tjWarn tm k v) ∧ quiet (felt k.toNat x) (.thermalTrip tm k v))
        ∧ (Hub.tripAt k.toNat ≤ x → h.pw.trip = false → live →
          DownAfter (.thermalTrip tm k v) s (fun t => lost 5 t ∧ t.hub.pw.trip = true)
          ∧ DownAfter (.tjWarn tm k v) s (fun t => lost 5 t ∧ t.hub.pw.trip = true))
        ∧ (Hub.tripAt k.toNat ≤ x → h.pw.trip = false → ¬ live → quiet tripped.capPass (.tjWarn tm k v) ∧ quiet tripped (.thermalTrip tm k v)))
    ∧ (∀ (k : BitVec 4) (v : BitVec 8), ¬ known k.toNat → quiet h.capPass (.tjWarn tm k v) ∧ quiet h (.thermalTrip tm k v))
    ∧ (∀ degc : List (BitVec 8),
        let g := h.measuredAll degc
        let cold : Prop := (∀ d, d < 5 → g.tempOf d + 3 ≤ g.tjWarnAt) ∧ (∀ k, k < 8 → g.tempOf (8 + k) < 92)
        let cool : Prop := (∀ d, d < 5 → g.tempOf d + 10 ≤ g.tjWarnAt) ∧ (∀ k, k < 8 → g.tempOf (8 + k) + 10 ≤ g.tjWarnAt)
        (cold → Ends (.tjWarnClear tm degc) s (g.p F.PWRSTAT_tj_warn 0).capPass)
        ∧ (¬ cold → Ends (.tjWarnClear tm degc) s g)
        ∧ (g.pw.trip = true → g.pw.off = true → g.pw.tripPerst = true → g.pw.inReg = 0xF → cool → Ends (.tripRecovery tm degc) s (again g))
        ∧ (g.pw.trip = false ∨ g.pw.off = false ∨ g.pw.tripPerst = false ∨ g.pw.inReg ≠ 0xF ∨ ¬ cool → Ends (.tripRecovery tm degc) s g))
    -- tokens and the governor
    ∧ Ends (.tokenRefill tm) s (pw { h.pw with
        tokens := min (max 36 (h.g F.PWRSLEW_burst) : Nat) (h.pw.tokens + (max 1 (h.g F.PWRSLEW_rate) : Nat)) })
    ∧ (∀ r, Hub.firstReq h.pw.reqs = some r → 0 < h.pw.tokens → h.pw.grantAt ≤ h.nt → Answers (.wakeGrant tm) s (fun t =>
        t.hub = (let u := pw { h.pw with reqs := h.pw.reqs.erase r, tokens := h.pw.tokens - Hub.wakeCost r.2 }
          if s.hub.powered r.2 then u else u.p F.PWRDOM_on (setBits (h.g F.PWRDOM_on) r.2 r.2 1))
        ∧ (∀ l : BitVec 11, t.stn.get l = if 24 ≤ r.2 ∧ s.hub.powered r.2 = false ∧ l.toNat / 32 ∈ Hub.domClusters r.2 then {} else s.stn.get l) ∧ t.pending = s.pending))
    ∧ (Hub.firstReq h.pw.reqs = none ∨ h.pw.tokens ≤ 0 ∨ h.nt < h.pw.grantAt → exec (.wakeGrant tm) s = .next { s with hub := h })
    ∧ (∀ ins, h.pw.off = true → Ends (.powerWindow tm ins) s h)
    ∧ (∀ ins, h.pw.off = false →
        let v (k : Nat) : BitVec 16 × BitVec 16 × BitVec 16 := ins.getD k (0, 0, 0)
        let w := (List.range 4).map (fun k => (v k).2.1.toNat) ++ (List.range 4).map (fun k => (v k).2.2.toNat)
        let g := (List.range 4).foldl (fun (g : Hub) k =>
          ((g.pi F.PWRIN_mv k (v k).1.toNat).pi F.PWRIN_current k (v k).2.1.toNat).pi F.PWRIN_power k (min 65535 (g.winAvg 10 (4 + k))))
          (pw { h.pw with windows := (w :: h.pw.windows).take 1000 })
        let g := (g.p F.PWRTOTAL_avg10ms (min 65535 g.avgPower)).p F.PWRTOTAL_avg1s (min 65535 g.avgPower1s)
        Ends (.powerWindow tm ins) s (if g.on F.PWRSTAT_capping then g.inc F.PWRCAPUS_us 1000 else g).capPass)
    ∧ (h.pw.off = true ∨ h.stage 0 = false → Ends (.vcoreStep tm) s h)
    ∧ (h.pw.off = false → h.stage 0 = true →
        let v := h.g F.PWRVCORE_stone_mv
        let at_ (mv : Nat) : Hub := (pw { h.pw with lastV := h.nt }).setMv mv
        let hot : Prop := h.overTarget = true ∨ h.on F.PWRSTAT_tj_warn = true
        let let_ : Hub := if h.pw.hold && decide (h.avgPower < h.powerTarget) then pw { h.pw with hold := false } else h
        let up (mv : Nat) : Hub := ({ let_ with pw := { let_.pw with lastV := h.nt } } : Hub).setMv mv
        let rises : Prop := let_.underTarget = true ∧ v < let_.modeMv ∧ h.pw.lastV.toNat + 1000000 ≤ h.nt.toNat
        (hot → h.nt.toNat < h.pw.lastV.toNat + 100000 → Ends (.vcoreStep tm) s h)
        ∧ (hot → h.pw.lastV.toNat + 100000 ≤ h.nt.toNat → 655 < v → Ends (.vcoreStep tm) s (at_ (v - 5)))
        ∧ (hot → h.pw.lastV.toNat + 100000 ≤ h.nt.toNat → v ≤ 655 →
          Ends (.vcoreStep tm) s { at_ 650 with pw := { h.pw with lastV := h.nt, hold := true } })
        ∧ (¬ hot → let_.modeMv < v → Ends (.vcoreStep tm) s (up let_.modeMv).capPass)
        ∧ (¬ hot → v ≤ let_.modeMv → rises → Ends (.vcoreStep tm) s (up (min let_.modeMv (v + 5))).capPass)
        ∧ (¬ hot → v ≤ let_.modeMv → ¬ rises → Ends (.vcoreStep tm) s let_.capPass))

/-! ### Resets -/

/-- The resets (R423, R449, R456, R470, R475 to R477, R498, R522): what each leaves of the records, the stones, the queues and the time;
the Granary's objects, images and checkpoints stay; the straps are sampled; a provisioned profile takes effect at the cold reset; the power
block keeps its lock while the device is held in reset; a write of another code only stores it. The model's choices:
logs 60 and 99. -/
def Obligations.Resets : Prop :=
  ∀ (tm : Nt) (s : State),
    let h := s.hub.stamp tm
    let lost (t : State) : Prop := t.hub.sess = [] ∧ t.hub.cring = [] ∧ t.hub.sring = [] ∧ t.hub.hopq = [] ∧ t.hub.durs = []
      ∧ t.hub.reads = [] ∧ t.hub.writes = [] ∧ t.hub.grp.cur = none ∧ t.stn = {} ∧ t.pending = s.pending
    let cold (t : State) : Prop := t.hub.wins = [] ∧ t.hub.keySlots = [] ∧ t.hub.gens = [] ∧ t.hub.retired = []
    let kept (t : State) : Prop := t.hub.nt = h.nt ∧ t.hub.mirrors = h.mirrors ∧ t.hub.im.models = h.im.models ∧ t.hub.im.plans = h.im.plans
      ∧ t.hub.gr = { h.gr with hot := [], rebuild := [] } ∧ t.hub.ck.slotA = h.ck.slotA ∧ t.hub.ck.slotB = h.ck.slotB
    let strapped (slot : BitVec 7) (testen : Bool) (t : State) : Prop :=
      t.hub.g F.PWRSTRAP_slot = min slot.toNat 71 ∧ t.hub.g F.PWRSTRAP_testen = b2n testen
      ∧ (71 < slot.toNat → t.hub.on F.PWRSTAT_strap_err = true)
    (∀ (slot : BitVec 7) (testen : Bool), Answers (.powerOnReset tm slot testen) s (fun t => lost t ∧ cold t ∧ strapped slot testen t ∧ t.hub.nt = 0
        ∧ t.hub.pw.off = false ∧ t.hub.pw.inReg = h.pw.inReg ||| 1 ∧ t.hub.on F.PWRSTAT_ploss = false ∧ t.hub.on F.PWRSTAT_ttrip = false))
    ∧ Answers (.perstAssert tm) s (fun t => lost t ∧ cold t ∧ kept t
        ∧ (∀ x, (F.PWRCTL_lock.a, x) ∈ h.regs → (∀ e ∈ h.regs, e.1 = F.PWRCTL_lock.a → e.2 = x) → t.hub.on F.PWRCTL_lock = x.getLsbD 31)
        ∧ (∀ a, a < 0x44000 ∨ 0x48000 ≤ a → t.hub.reg a = ({ h with regs := regsAfter false h.regs } : Hub).reg a)
        ∧ t.hub.pw.perst = true ∧ t.hub.pw.tripPerst = (h.pw.tripPerst || h.pw.trip))
    ∧ (∀ (slot : BitVec 7) (testen : Bool), h.pw.perst = true → h.pw.ok = true → s.hub.sec.prov = none →
        Answers (.perstDeassert tm slot testen) s (fun t => lost t ∧ cold t ∧ kept t ∧ strapped slot testen t ∧ t.hub.stage 0 = true
          ∧ t.hub.pw.perst = false ∧ t.hub.pw.trip = false ∧ t.hub.nf.t0 = h.nt ∧ t.hub.on F.NFSTAT_test = !testen))
    ∧ (∀ (slot : BitVec 7) (testen : Bool) q, h.pw.perst = true → h.pw.ok = true → s.hub.sec.prov = some q →
        Answers (.perstDeassert tm slot testen) s (fun t => lost t ∧ cold t ∧ strapped slot testen t ∧ t.hub.stage 0 = true
          ∧ t.hub.pw.perst = false ∧ t.hub.sec.prov = none ∧ t.hub.g F.SECPROFILE_active = b2n q.profile
          ∧ t.hub.g F.HDEVIDX_profile = b2n q.profile ∧ (q.key.isSome = true → t.hub.on F.SECSTAT_owner_set = true)))
    ∧ (∀ (slot : BitVec 7) (testen : Bool), h.pw.perst = true → h.pw.ok = false →
        Ends (.perstDeassert tm slot testen) s (h.p F.PWRSTAT_seq_err 1))
    ∧ (∀ (slot : BitVec 7) (testen : Bool), h.pw.perst = false → exec (.perstDeassert tm slot testen) s = .next { s with hub := h })
    ∧ (∀ v : BitVec 32, h.stage 0 = true → pairOk 16 v.toNat = true → bitsOf v.toNat 7 0 = 0xA5 → Answers (.warmReset tm v) s (fun t =>
        lost t ∧ kept t ∧ t.hub.stage 0 = true ∧ t.hub.wins = h.wins ∧ t.hub.keySlots = h.keySlots ∧ t.hub.gens = h.gens
        ∧ t.hub.retired = h.retired ∧ t.hub.seqMap = h.seqMap ∧ t.hub.sec.log = h.sec.log ∧ t.hub.nf.warm = true))
    ∧ (∀ v : BitVec 32, h.stage 0 = true → pairOk 16 v.toNat = true → bitsOf v.toNat 7 0 ≠ 0xA5 → exec (.warmReset tm v) s =
        .next { s with hub := h.setReg F.NFRESET_code.a (BitVec.ofNat 64 (pairOf 16 (bitsOf v.toNat 7 0))) })
    ∧ (∀ v : BitVec 32, h.stage 0 = false → exec (.warmReset tm v) s = .next { s with hub := h })
    ∧ Ends (.cxlPortReset tm) s (({ h with nf := { h.nf with portDown := true }
                                           irq := h.irq.foldl (fun m e => smSet {} m e.1 { count := e.2.count, since := e.2.since }) [] } : Hub).p
        F.SECSTAT_ide_up 0)
    ∧ Ends (.cxlLinkUp tm) s { h with nf := { h.nf with portDown := false } }

/-! ### Node formation and node time -/

/-- Node formation up to SYNC (R417, R464, R479 to R488, R496 to R498): each stage's end where its conditions hold, its stop where a
check fails, the messages that a device sends and what those it receives leave; a device that comes back to a formed node waits or joins as
a spare (R478); a command that comes before its stage, or after it, changes nothing. The model's choices: logs 33, 34, 35 and 60. -/
def Obligations.FormationStages : Prop :=
  ∀ (tm : Nt) (s : State),
    let h := s.hub.stamp tm
    let sent : Hub := ({ h with nf := { h.nf with digest := some (h.mapCrc, h.nt) } } : Hub).emit (.digest h.mapCrc)
    let maps : Prop := h.forming 5 = true ∧ h.stage 4 = true ∧ h.on F.NFSTAT_join_wait = false
    let full : Prop := maps ∧ h.on F.NFSTAT_test = false ∧ h.mapComplete = true
    let late : Prop := maps ∧ h.on F.NFSTAT_test = false ∧ h.nf.linkNt.toNat + max 1 (h.g F.NFTOPOTMO_ms) * 1000000 ≤ h.nt.toNat
    let both (P : Instr → Prop) : Prop := (full → P (.topologyComplete tm)) ∧ (late → P (.topologyTimeout tm))
    -- POWER, BOOT, SELFTEST
    (h.forming 1 = true → h.pw.grantAt ≤ h.nt → (∀ d ∈ Hub.bootDomains, h.powered d = true) → Ends (.powerStage tm) s (h.stageDone 1))
    ∧ (h.forming 1 = false ∨ h.nt < h.pw.grantAt ∨ (∃ d ∈ Hub.bootDomains, h.powered d = false) → Ends (.powerStage tm) s h)
    ∧ (∀ imgs f, h.forming 2 = true → h.stage 1 = true → h.bootImage imgs = some f → Answers (.boot tm imgs) s (fun t =>
        t.hub.stage 2 = true ∧ t.hub.sec.fwSec = f.secver ∧ t.hub.nf.bootNt = h.nt
        ∧ t.hub.nf.boots = (if h.nf.warm then h.nf.boots else h.nf.boots + 1) ∧ HubOnly s t))
    ∧ (∀ imgs, h.forming 2 = true → h.stage 1 = true → h.bootImage imgs = none → Ends (.boot tm imgs) s (h.stopForm 1))
    ∧ (∀ imgs, h.forming 2 = false ∨ h.stage 1 = false → Ends (.boot tm imgs) s h)
    ∧ (∀ l g, h.forming 3 = true → h.stage 2 = true → h.testedStones l = some g → Ends (.selftest tm none l) s (g.stageDone 3))
    ∧ (∀ l, h.forming 3 = true → h.stage 2 = true → h.testedStones l = none → Ends (.selftest tm none l) s
        (h.stopForm 2 ((l.head?.map (fun e => e.1.toNat * 1024 + e.2.toNat)).getD 0)))
    ∧ (∀ f l, h.forming 3 = false ∨ h.stage 2 = false → Ends (.selftest tm f l) s h)
    ∧ (∀ l u, h.forming 3 = true → h.stage 2 = true → Ends (.selftest tm (some u) l) s (h.stopForm 2 u.toNat))
    -- LINK
    ∧ (∀ states : List (BitVec 3), h.forming 4 = true → h.stage 2 = true → Answers (.linkWindow tm states) s (fun t =>
        t.hub.stage 4 = true ∧ t.hub.nf.linkNt = h.nt
        ∧ (∀ n, n < 16 → t.hub.gi F.MOLPSTAT_state n =
          if h.gi F.MOLPSTAT_state n = 4 then 4 else if states.getD n 0 ∈ [0, 2, 3] then (states.getD n 0).toNat else 4)
        ∧ t.hub.ownRec ∈ t.hub.nf.recs ∧ HubOnly s t))
    ∧ (∀ states, h.forming 4 = false ∨ h.stage 2 = false → Ends (.linkWindow tm states) s h)
    ∧ (∀ (port : BitVec 4) (arg : BitVec 24), h.stage 2 = true → smLook h.nf.heard port.toNat = none →
        let n := port.toNat
        let peer := bitsOf arg.toNat 10 7
        let g := ({ h with nf := { h.nf with heard := smPut h.nf.heard n (BitVec.ofNat 7 (bitsOf arg.toNat 6 0), BitVec.ofNat 4 peer) } } : Hub).pi
          F.MOLPSTAT_peer_port n peer
        let g := if bitsOf arg.toNat 23 12 = h.g F.NFNODEID_id then g else g.pi F.MOLPSTAT_state n 4
        (h.stage 4 = false → Ends (.hello tm port arg) s g) ∧ (h.stage 4 = true → Ends (.hello tm port arg) s (g.addRec g.ownRec)))
    ∧ (∀ (port : BitVec 4) (arg : BitVec 24), h.stage 2 = false ∨ (smLook h.nf.heard port.toNat).isSome = true → Ends (.hello tm port arg) s h)
    ∧ (∀ port : BitVec 4,
        let arg := h.g F.PWRSTRAP_slot + port.toNat * 2 ^ 7 + h.g F.HDEVIDX_profile * 2 ^ 11 + h.g F.NFNODEID_id * 2 ^ 12
        (h.portUp port.toNat = true → Ends (.helloSend tm port) s (h.emit (.control port 0x10 (BitVec.ofNat 24 arg))))
        ∧ (h.portUp port.toNat = false → Ends (.helloSend tm port) s h))
    -- TOPOLOGY
    ∧ (∀ r : TopoRec, r.ok = true → h.stage 2 = true → h.stage 5 = false → r ∉ h.nf.recs → Ends (.topologyRecord tm r) s
        { h with nf := { h.nf with recs := h.nf.recs.filter (fun x => !(x.slot == r.slot && x.serial == r.serial)) ++ [r], added := true } })
    ∧ (∀ r : TopoRec, r.ok = false ∨ h.stage 2 = false ∨ h.stage 5 = true ∨ r ∈ h.nf.recs → Ends (.topologyRecord tm r) s h)
    ∧ (h.stage 4 = true → Ends (.topologyResend tm) s
        { h with out := h.out ++ h.nf.recs.map Out.topo
                 nf := { h.nf with quiet := if h.nf.added then 0 else h.nf.quiet + 1, added := false } })
    ∧ (h.stage 4 = false → Ends (.topologyResend tm) s h)
    ∧ (maps → h.on F.NFSTAT_test = true → Ends (.topologyComplete tm) s
        (((((h.p F.HDEVIDX_index 0).p F.HDEVIDX_valid 1).p F.HDEVIDX_spare 0).p F.NFNODE_active 16).stageDone 5))
    ∧ both (fun c => ∀ r d, sent.formCheck = .inl (r, d) → Ends c s (sent.stopForm r d))
    ∧ both (fun c => ∀ fills, sent.formCheck = .inr fills → h.nf.coarseNt = 0 → Ends c s ((sent.takePlace fills).stageDone 5))
    ∧ both (fun c => ∀ fills, sent.formCheck = .inr fills → h.nf.coarseNt ≠ 0 →
        let g := sent.fresh.2
        let joined := (g.takePlace []).p F.HDEVIDX_spare 1
        Ends c s (if sent.fresh.1.getLsbD 0 then ((g.p F.NFSTAT_join_wait 1).p F.NFSTAT_reason 0xC).devEv 0x080C 4 0
          else (joined.devEv 0x0703 4 joined.dev).stageDone 5))
    ∧ (maps → h.on F.NFSTAT_test = false → h.mapComplete = false → Ends (.topologyComplete tm) s h)
    ∧ (¬ maps → Ends (.topologyComplete tm) s h ∧ Ends (.topologyTimeout tm) s h)
    ∧ (h.on F.NFSTAT_test = true → Ends (.topologyTimeout tm) s h)
    ∧ (h.nt.toNat < h.nf.linkNt.toNat + max 1 (h.g F.NFTOPOTMO_ms) * 1000000 → Ends (.topologyTimeout tm) s h)
    ∧ (∀ (own crc : W64) (t : Nt), h.nf.digest = some (own, t) → own ≠ crc → h.stage 0 = true → h.stage 11 = false →
        Ends (.mapDigest tm crc) s (h.stopForm 7))
    ∧ (∀ (crc : W64) (t : Nt), h.nf.digest = some (crc, t) → Ends (.mapDigest tm crc) s h)
    ∧ (∀ crc : W64, h.nf.digest = none ∨ h.stage 0 = false ∨ h.stage 11 = true → Ends (.mapDigest tm crc) s h)
    -- ELECT, SYNC
    ∧ (h.forming 6 = true → h.stage 5 = true →
        let g := if h.nf.coarseNt = 0 then (h.p F.NFNODE_master 0).p F.NFSTAT_master (b2n (h.dev == 0)) else h
        let g := if g.ownTime then g.setNt g.ntStart else g
        let g : Hub := { g with nf := { g.nf with electNt := g.nt } }
        Ends (.elect tm) s ((g.p F.NFOFFSET_parent g.parentOf).stageDone 6))
    ∧ (h.forming 7 = true → h.stage 6 = true → h.ownTime = true ∨ 10 ≤ h.nf.good → Ends (.sync tm) s
        ((({ h with nf := { h.nf with fineNt := h.nt } } : Hub).p F.NFSTAT_nt_valid 1).stageDone 7))
    ∧ (h.forming 6 = false ∨ h.stage 5 = false → Ends (.elect tm) s h)
    ∧ (h.ownTime = false → h.nf.good < 10 → Ends (.sync tm) s h)
    ∧ (h.forming 7 = false ∨ h.stage 6 = false → Ends (.sync tm) s h ∧ Ends (.syncTimeout tm) s h)
    ∧ (h.forming 7 = true → h.stage 6 = true → h.nf.electNt.toNat + 200000000 ≤ h.nt.toNat → Ends (.syncTimeout tm) s (h.stopForm 0xA))
    ∧ (h.nt.toNat < h.nf.electNt.toNat + 200000000 → Ends (.syncTimeout tm) s h)

/-- Node time and the stages from GRANARY to READY (R304, R323, R479, R487 to R493, R514): coarse frames set the time, fine exchanges
the offset, the holdover and its expiry, a master that is silent; the Granary's start, clean or rebuilt; plans, the restore, and READY.
The model's choices: logs 60, 108 and 161. -/
def Obligations.TimeAndReadiness : Prop :=
  ∀ (tm : Nt) (s : State),
    let h := s.hub.stamp tm
    let silent : Prop := h.stage 7 = true ∧ h.ownTime = false ∧ max h.nf.coarseNt.toNat h.nf.fineNt.toNat + 3000000 ≤ h.nt.toNat
    let heard (lowest : BitVec 6) : Hub := h.p F.NFNODE_master lowest.toNat
    -- coarse and fine time
    (∀ (edge : Nt) (master flags : BitVec 8),
        let hit := h.fireInj 0x29 (fun _ => true)
        let u := hit.2
        let c (ok : Bool) : Instr := .coarseFrame tm edge master flags ok
        let takes : Prop := hit.1 = false ∧ u.stage 0 = true ∧ u.ownTime = false
        (takes → flags.getLsbD 0 = true → Ends (c true) s
          (let g := (u.p F.NFNODE_master (master.toNat % 64)).setNt edge.toNat
           { g with nf := { g.nf with coarseNt := g.nt } }))
        ∧ (takes → flags.getLsbD 0 = false → u.stage 6 = true → Ends (c true) s (u.setNt edge.toNat))
        ∧ (takes → flags.getLsbD 0 = false → u.stage 6 = false → Ends (c true) s u)
        ∧ (¬ takes → Ends (c true) s u) ∧ Ends (c false) s u)
    ∧ (h.on F.NFSTAT_master = true → h.stage 6 = true → Ends (.coarseEdge tm) s (h.emit (.coarse
        (BitVec.ofNat 64 (h.nt.toNat / 1000000 * 1000000)) (BitVec.ofNat 8 h.dev) (BitVec.ofNat 8 (h.g F.NFSTAT_nt_valid + 2 * h.g F.NFSTAT_holdover)))))
    ∧ (h.on F.NFSTAT_master = false ∨ h.stage 6 = false → Ends (.coarseEdge tm) s h)
    ∧ (∀ x : BitVec 16, h.stage 6 = true → h.ownTime = false → h.nf.dropNt ≤ h.nt →
        let o : BitVec 16 := ((h.fireAt 0x28 (fun _ => true)).1.map (fun i => i.b.setWidth 16)).getD x
        Answers (.fineExchange tm x) s (fun t =>
        t.hub.g F.NFOFFSET_ns = o.toNat ∧ t.hub.nf.good = (if o.toInt.natAbs ≤ 2 then h.nf.good + 1 else 0) ∧ t.hub.nf.fineNt = h.nt
        ∧ t.hub.nf.holdNt = none ∧ t.hub.nf.expired = false ∧ t.hub.on F.NFSTAT_holdover = false
        ∧ (h.stage 7 = true → t.hub.on F.NFSTAT_nt_valid = true ∧ t.hub.g F.NFSYNCMAX_ns = max (h.g F.NFSYNCMAX_ns) o.toInt.natAbs)
        ∧ HubOnly s t))
    ∧ (∀ o : BitVec 16, h.stage 6 = false ∨ h.ownTime = true ∨ h.nt < h.nf.dropNt → Ends (.fineExchange tm o) s h)
    ∧ (h.stage 7 = true → h.ownTime = false → h.on F.NFSTAT_holdover = false → h.nf.fineNt.toNat + 20000000 ≤ h.nt.toNat → Ends (.holdover tm) s
        (let g := (({ h with nf := { h.nf with holdNt := some h.nt } } : Hub).p F.NFSTAT_holdover 1).inc F.NFHOLDOVERS_count
         g.devEv 0x0820 4 (g.g F.NFOFFSET_parent)))
    ∧ (h.stage 7 = false ∨ h.ownTime = true ∨ h.on F.NFSTAT_holdover = true ∨ h.nt.toNat < h.nf.fineNt.toNat + 20000000 →
        Ends (.holdover tm) s h)
    ∧ (∀ e, h.nf.holdNt = some e → e.toNat + 100000000 ≤ h.nt.toNat → Ends (.holdoverExpiry tm) s
        (({ h with nf := { h.nf with expired := true } } : Hub).p F.NFSTAT_nt_valid 0))
    ∧ (∀ e, h.nf.holdNt = some e → h.nt.toNat < e.toNat + 100000000 → Ends (.holdoverExpiry tm) s h)
    ∧ (h.nf.holdNt = none → Ends (.holdoverExpiry tm) s h)
    ∧ (∀ lowest : BitVec 6, silent → lowest.toNat = h.dev → h.on F.NFSTAT_nt_valid = true → h.on F.HDEVIDX_spare = false →
        Ends (.masterSilence tm lowest) s
          ((((({ heard lowest with nf := { h.nf with holdNt := none } } : Hub).p F.NFSTAT_master 1).p F.NFSTAT_holdover 0).devEv 0x0821 4 lowest.toNat)))
    ∧ (∀ lowest : BitVec 6, silent → lowest.toNat ≠ h.dev ∨ h.on F.NFSTAT_nt_valid = false ∨ h.on F.HDEVIDX_spare = true → Ends (.masterSilence tm lowest) s
        ((heard lowest).p F.NFOFFSET_parent (heard lowest).parentOf))
    ∧ (∀ lowest : BitVec 6, ¬ silent → Ends (.masterSilence tm lowest) s h)
    -- GRANARY
    ∧ (h.stage 0 = true → h.nf.t0.toNat + 1000000000 ≤ h.nt.toNat →
        let asked : Hub := { h with nf := { h.nf with grnGo := true } }
        let begun : Hub := { h with nf := { h.nf with grnGo := true, grnOn := true } }
        let starts : Prop := h.stage 2 = true ∧ h.forming 8 = true ∧ h.nf.grnOn = false
        (starts → h.g F.GRNHMNEED_slots ≤ h.g F.GRNHMSIZE_slots → Ends (.granaryStartTimeout tm) s begun)
        ∧ (starts → h.g F.GRNHMSIZE_slots < h.g F.GRNHMNEED_slots → Ends (.granaryStartTimeout tm) s (begun.stopForm 9))
        ∧ (¬ starts → Ends (.granaryStartTimeout tm) s asked))
    ∧ (h.stage 0 = false ∨ h.nt.toNat < h.nf.t0.toNat + 1000000000 → Ends (.granaryStartTimeout tm) s h)
    ∧ (∀ ms : BitVec 32, h.forming 8 = true → h.nf.grnOn = true →
        let reset : Hub := { h with gr := { h.gr with started := true, drain := none, hot := [], cooled := [], slots := [] } }
        let g := reset.emit (.mapFill (BitVec.ofNat 64 (h.g F.GRNHMBASE_base * 2 ^ 16)) (h.mapPages - 16384))
        let clean : Prop := if h.gr.started then h.on F.GRNSTAT_clean = true else Config.startClean = true
        let valid : Prop := if h.gr.started then h.drained = true else Config.drainValid = true
        (clean → Ends (.granaryReady tm ms) s (((g.p F.GRNSTAT_ready 1).weirs).stageDone 8))
        ∧ (¬ clean → valid → Ends (.granaryReady tm ms) s
          (((((g.p F.GRNSTAT_rebuilt 1).p F.GRNREBUILD_ms ms.toNat).p F.GRNSTAT_ready 1).weirs).stageDone 8))
        ∧ (¬ clean → ¬ valid →
          let r := ((g.p F.GRNSTAT_rebuilt 1).p F.GRNREBUILD_ms ms.toNat)
          let u := r.tunLost
          let left (k : Nat) : Nat := ((smLook u.gr.objs k).map (fun o => o.units.length)).getD 0
          let lost := (r.gr.objs.filter (fun e => decide (left e.1 < e.2.units.length))).map (·.1)
          Ends (.granaryReady tm ms) s
            ((((((u.dropLost lost).p F.GRNSTAT_drain_lost 1).devEv 0x0405 4 0).p F.GRNSTAT_ready 1).weirs).stageDone 8)))
    ∧ (∀ ms : BitVec 32, h.forming 8 = false ∨ h.nf.grnOn = false → Ends (.granaryReady tm ms) s h)
    -- PLAN, RESTORE, READY
    ∧ (∀ agree weights : Bool, h.forming 9 = true → h.stage 3 = true → h.stage 7 = true → h.stage 8 = true →
        let g := h.reloadImages
        let u := match g.nf.lastSlot with
          | none => g
          | some k => if agree && bitsOf (g.g F.POOLPLAN_loaded) k.toNat k.toNat == 1 then g.activatePlan k.toNat else g
        (u.g F.POOLROLE_size = 0 ∨ weights = true → Ends (.planStage tm agree weights) s (u.stageDone 9))
        ∧ (u.g F.POOLROLE_size ≠ 0 → weights = false → Ends (.planStage tm agree weights) s (u.stopForm 0xB)))
    ∧ (∀ agree weights : Bool, h.forming 9 = false ∨ h.stage 3 = false ∨ h.stage 7 = false ∨ h.stage 8 = false →
        Ends (.planStage tm agree weights) s h)
    ∧ (∀ common, h.forming 10 = true → h.stage 9 = true → h.currentOnly.on F.NFCTL_restore_en = false →
        let g := h.currentOnly.freeKinds [1, 2, 6, 7]
        Ends (.restoreStage tm common) s (({ g with mirrors := []
                                                    ck := { g.ck with slotA := none, slotB := none, bkv := [], sends := [], claims := [], deferred := [] } } :
          Hub).stageDone 10))
    ∧ (∀ common, h.forming 10 = true → h.stage 9 = true → h.currentOnly.on F.NFCTL_restore_en = true →
        let g := h.currentOnly.freeKinds [7]
        (g.g F.POOLROLE_size = 0 ∨ g.slotImg common = none → Ends (.restoreStage tm common) s (g.stageDone 10))
        ∧ (∀ img, g.g F.POOLROLE_size ≠ 0 → g.slotImg common = some img → Ends (.restoreStage tm common) s ((h.restoreStage common).stageDone 10)))
    ∧ (∀ common, h.forming 10 = false ∨ h.stage 9 = false → Ends (.restoreStage tm common) s h)
    ∧ (h.forming 11 = true → h.stage 10 = true → h.g F.POOLROLE_size = 0 ∨ h.ck.first = false → Ends (.ready tm) s
        (((h.p F.NFSTAT_ready 1).p F.NFSTAT_sessions_held 1).stageDone 11))
    ∧ (h.forming 11 = false ∨ h.stage 10 = false ∨ (h.g F.POOLROLE_size ≠ 0 ∧ h.ck.first = true) → Ends (.ready tm) s h)
end

