-- ==== Sys2Proof/Laws/State.lean ====
section
/-! SUPPORT. What the plain updates of the hub leave: one lemma per field and update, each true by unfolding. -/

namespace Sys2Proof.Machine.Hub

variable (h : Hub)

/-! ### stamp -/

@[simp] theorem stamp_ntEver (t : Nt) : (h.stamp t).ntEver = h.ntEver := rfl
@[simp] theorem stamp_free (t : Nt) : (h.stamp t).free = h.free := rfl
@[simp] theorem stamp_out (t : Nt) : (h.stamp t).out = h.out := rfl
@[simp] theorem stamp_regs (t : Nt) : (h.stamp t).regs = h.regs := rfl
@[simp] theorem stamp_sess (t : Nt) : (h.stamp t).sess = h.sess := rfl
@[simp] theorem stamp_gens (t : Nt) : (h.stamp t).gens = h.gens := rfl
@[simp] theorem stamp_wins (t : Nt) : (h.stamp t).wins = h.wins := rfl
@[simp] theorem stamp_keySlots (t : Nt) : (h.stamp t).keySlots = h.keySlots := rfl
@[simp] theorem stamp_snoop (t : Nt) : (h.stamp t).snoop = h.snoop := rfl
@[simp] theorem stamp_cring (t : Nt) : (h.stamp t).cring = h.cring := rfl
@[simp] theorem stamp_sring (t : Nt) : (h.stamp t).sring = h.sring := rfl
@[simp] theorem stamp_irq (t : Nt) : (h.stamp t).irq = h.irq := rfl
@[simp] theorem stamp_nextId (t : Nt) : (h.stamp t).nextId = h.nextId := rfl
@[simp] theorem stamp_reads (t : Nt) : (h.stamp t).reads = h.reads := rfl
@[simp] theorem stamp_writes (t : Nt) : (h.stamp t).writes = h.writes := rfl
@[simp] theorem stamp_durs (t : Nt) : (h.stamp t).durs = h.durs := rfl
@[simp] theorem stamp_hopq (t : Nt) : (h.stamp t).hopq = h.hopq := rfl
@[simp] theorem stamp_quant (t : Nt) : (h.stamp t).quant = h.quant := rfl
@[simp] theorem stamp_seqq (t : Nt) : (h.stamp t).seqq = h.seqq := rfl
@[simp] theorem stamp_seqMap (t : Nt) : (h.stamp t).seqMap = h.seqMap := rfl
@[simp] theorem stamp_seqSpare (t : Nt) : (h.stamp t).seqSpare = h.seqSpare := rfl
@[simp] theorem stamp_im (t : Nt) : (h.stamp t).im = h.im := rfl
@[simp] theorem stamp_kv (t : Nt) : (h.stamp t).kv = h.kv := rfl
@[simp] theorem stamp_grp (t : Nt) : (h.stamp t).grp = h.grp := rfl
@[simp] theorem stamp_rcmp (t : Nt) : (h.stamp t).rcmp = h.rcmp := rfl
@[simp] theorem stamp_migIn (t : Nt) : (h.stamp t).migIn = h.migIn := rfl
@[simp] theorem stamp_mirrors (t : Nt) : (h.stamp t).mirrors = h.mirrors := rfl
@[simp] theorem stamp_diag (t : Nt) : (h.stamp t).diag = h.diag := rfl
@[simp] theorem stamp_msgId (t : Nt) : (h.stamp t).msgId = h.msgId := rfl
@[simp] theorem stamp_inj (t : Nt) : (h.stamp t).inj = h.inj := rfl
@[simp] theorem stamp_ports (t : Nt) : (h.stamp t).ports = h.ports := rfl
@[simp] theorem stamp_landing (t : Nt) : (h.stamp t).landing = h.landing := rfl
@[simp] theorem stamp_redOwn (t : Nt) : (h.stamp t).redOwn = h.redOwn := rfl
@[simp] theorem stamp_reasm (t : Nt) : (h.stamp t).reasm = h.reasm := rfl
@[simp] theorem stamp_resFails (t : Nt) : (h.stamp t).resFails = h.resFails := rfl
@[simp] theorem stamp_retired (t : Nt) : (h.stamp t).retired = h.retired := rfl
@[simp] theorem stamp_chCopy (t : Nt) : (h.stamp t).chCopy = h.chCopy := rfl
@[simp] theorem stamp_chReady (t : Nt) : (h.stamp t).chReady = h.chReady := rfl
@[simp] theorem stamp_hubBad (t : Nt) : (h.stamp t).hubBad = h.hubBad := rfl
@[simp] theorem stamp_fru (t : Nt) : (h.stamp t).fru = h.fru := rfl
@[simp] theorem stamp_sec (t : Nt) : (h.stamp t).sec = h.sec := rfl
@[simp] theorem stamp_ck (t : Nt) : (h.stamp t).ck = h.ck := rfl
@[simp] theorem stamp_sl (t : Nt) : (h.stamp t).sl = h.sl := rfl
@[simp] theorem stamp_pw (t : Nt) : (h.stamp t).pw = h.pw := rfl
@[simp] theorem stamp_nf (t : Nt) : (h.stamp t).nf = h.nf := rfl
@[simp] theorem stamp_aix (t : Nt) : (h.stamp t).aix = h.aix := rfl
@[simp] theorem stamp_gr (t : Nt) : (h.stamp t).gr = h.gr := rfl
@[simp] theorem stamp_qn (t : Nt) : (h.stamp t).qn = h.qn := rfl

/-! ### emit -/

@[simp] theorem emit_nt (o : Out) : (h.emit o).nt = h.nt := rfl
@[simp] theorem emit_ntEver (o : Out) : (h.emit o).ntEver = h.ntEver := rfl
@[simp] theorem emit_free (o : Out) : (h.emit o).free = h.free := rfl
@[simp] theorem emit_regs (o : Out) : (h.emit o).regs = h.regs := rfl
@[simp] theorem emit_sess (o : Out) : (h.emit o).sess = h.sess := rfl
@[simp] theorem emit_gens (o : Out) : (h.emit o).gens = h.gens := rfl
@[simp] theorem emit_wins (o : Out) : (h.emit o).wins = h.wins := rfl
@[simp] theorem emit_keySlots (o : Out) : (h.emit o).keySlots = h.keySlots := rfl
@[simp] theorem emit_snoop (o : Out) : (h.emit o).snoop = h.snoop := rfl
@[simp] theorem emit_cring (o : Out) : (h.emit o).cring = h.cring := rfl
@[simp] theorem emit_sring (o : Out) : (h.emit o).sring = h.sring := rfl
@[simp] theorem emit_irq (o : Out) : (h.emit o).irq = h.irq := rfl
@[simp] theorem emit_nextId (o : Out) : (h.emit o).nextId = h.nextId := rfl
@[simp] theorem emit_reads (o : Out) : (h.emit o).reads = h.reads := rfl
@[simp] theorem emit_writes (o : Out) : (h.emit o).writes = h.writes := rfl
@[simp] theorem emit_durs (o : Out) : (h.emit o).durs = h.durs := rfl
@[simp] theorem emit_hopq (o : Out) : (h.emit o).hopq = h.hopq := rfl
@[simp] theorem emit_quant (o : Out) : (h.emit o).quant = h.quant := rfl
@[simp] theorem emit_seqq (o : Out) : (h.emit o).seqq = h.seqq := rfl
@[simp] theorem emit_seqMap (o : Out) : (h.emit o).seqMap = h.seqMap := rfl
@[simp] theorem emit_seqSpare (o : Out) : (h.emit o).seqSpare = h.seqSpare := rfl
@[simp] theorem emit_im (o : Out) : (h.emit o).im = h.im := rfl
@[simp] theorem emit_kv (o : Out) : (h.emit o).kv = h.kv := rfl
@[simp] theorem emit_grp (o : Out) : (h.emit o).grp = h.grp := rfl
@[simp] theorem emit_rcmp (o : Out) : (h.emit o).rcmp = h.rcmp := rfl
@[simp] theorem emit_migIn (o : Out) : (h.emit o).migIn = h.migIn := rfl
@[simp] theorem emit_mirrors (o : Out) : (h.emit o).mirrors = h.mirrors := rfl
@[simp] theorem emit_diag (o : Out) : (h.emit o).diag = h.diag := rfl
@[simp] theorem emit_msgId (o : Out) : (h.emit o).msgId = h.msgId := rfl
@[simp] theorem emit_inj (o : Out) : (h.emit o).inj = h.inj := rfl
@[simp] theorem emit_ports (o : Out) : (h.emit o).ports = h.ports := rfl
@[simp] theorem emit_landing (o : Out) : (h.emit o).landing = h.landing := rfl
@[simp] theorem emit_redOwn (o : Out) : (h.emit o).redOwn = h.redOwn := rfl
@[simp] theorem emit_reasm (o : Out) : (h.emit o).reasm = h.reasm := rfl
@[simp] theorem emit_resFails (o : Out) : (h.emit o).resFails = h.resFails := rfl
@[simp] theorem emit_retired (o : Out) : (h.emit o).retired = h.retired := rfl
@[simp] theorem emit_chCopy (o : Out) : (h.emit o).chCopy = h.chCopy := rfl
@[simp] theorem emit_chReady (o : Out) : (h.emit o).chReady = h.chReady := rfl
@[simp] theorem emit_hubBad (o : Out) : (h.emit o).hubBad = h.hubBad := rfl
@[simp] theorem emit_fru (o : Out) : (h.emit o).fru = h.fru := rfl
@[simp] theorem emit_sec (o : Out) : (h.emit o).sec = h.sec := rfl
@[simp] theorem emit_ck (o : Out) : (h.emit o).ck = h.ck := rfl
@[simp] theorem emit_sl (o : Out) : (h.emit o).sl = h.sl := rfl
@[simp] theorem emit_pw (o : Out) : (h.emit o).pw = h.pw := rfl
@[simp] theorem emit_nf (o : Out) : (h.emit o).nf = h.nf := rfl
@[simp] theorem emit_aix (o : Out) : (h.emit o).aix = h.aix := rfl
@[simp] theorem emit_gr (o : Out) : (h.emit o).gr = h.gr := rfl
@[simp] theorem emit_qn (o : Out) : (h.emit o).qn = h.qn := rfl

/-! ### setReg -/

@[simp] theorem setReg_nt (a : Nat) (v : W64) : (h.setReg a v).nt = h.nt := rfl
@[simp] theorem setReg_ntEver (a : Nat) (v : W64) : (h.setReg a v).ntEver = h.ntEver := rfl
@[simp] theorem setReg_free (a : Nat) (v : W64) : (h.setReg a v).free = h.free := rfl
@[simp] theorem setReg_out (a : Nat) (v : W64) : (h.setReg a v).out = h.out := rfl
@[simp] theorem setReg_sess (a : Nat) (v : W64) : (h.setReg a v).sess = h.sess := rfl
@[simp] theorem setReg_gens (a : Nat) (v : W64) : (h.setReg a v).gens = h.gens := rfl
@[simp] theorem setReg_wins (a : Nat) (v : W64) : (h.setReg a v).wins = h.wins := rfl
@[simp] theorem setReg_keySlots (a : Nat) (v : W64) : (h.setReg a v).keySlots = h.keySlots := rfl
@[simp] theorem setReg_snoop (a : Nat) (v : W64) : (h.setReg a v).snoop = h.snoop := rfl
@[simp] theorem setReg_cring (a : Nat) (v : W64) : (h.setReg a v).cring = h.cring := rfl
@[simp] theorem setReg_sring (a : Nat) (v : W64) : (h.setReg a v).sring = h.sring := rfl
@[simp] theorem setReg_irq (a : Nat) (v : W64) : (h.setReg a v).irq = h.irq := rfl
@[simp] theorem setReg_nextId (a : Nat) (v : W64) : (h.setReg a v).nextId = h.nextId := rfl
@[simp] theorem setReg_reads (a : Nat) (v : W64) : (h.setReg a v).reads = h.reads := rfl
@[simp] theorem setReg_writes (a : Nat) (v : W64) : (h.setReg a v).writes = h.writes := rfl
@[simp] theorem setReg_durs (a : Nat) (v : W64) : (h.setReg a v).durs = h.durs := rfl
@[simp] theorem setReg_hopq (a : Nat) (v : W64) : (h.setReg a v).hopq = h.hopq := rfl
@[simp] theorem setReg_quant (a : Nat) (v : W64) : (h.setReg a v).quant = h.quant := rfl
@[simp] theorem setReg_seqq (a : Nat) (v : W64) : (h.setReg a v).seqq = h.seqq := rfl
@[simp] theorem setReg_seqMap (a : Nat) (v : W64) : (h.setReg a v).seqMap = h.seqMap := rfl
@[simp] theorem setReg_seqSpare (a : Nat) (v : W64) : (h.setReg a v).seqSpare = h.seqSpare := rfl
@[simp] theorem setReg_im (a : Nat) (v : W64) : (h.setReg a v).im = h.im := rfl
@[simp] theorem setReg_kv (a : Nat) (v : W64) : (h.setReg a v).kv = h.kv := rfl
@[simp] theorem setReg_grp (a : Nat) (v : W64) : (h.setReg a v).grp = h.grp := rfl
@[simp] theorem setReg_rcmp (a : Nat) (v : W64) : (h.setReg a v).rcmp = h.rcmp := rfl
@[simp] theorem setReg_migIn (a : Nat) (v : W64) : (h.setReg a v).migIn = h.migIn := rfl
@[simp] theorem setReg_mirrors (a : Nat) (v : W64) : (h.setReg a v).mirrors = h.mirrors := rfl
@[simp] theorem setReg_diag (a : Nat) (v : W64) : (h.setReg a v).diag = h.diag := rfl
@[simp] theorem setReg_msgId (a : Nat) (v : W64) : (h.setReg a v).msgId = h.msgId := rfl
@[simp] theorem setReg_inj (a : Nat) (v : W64) : (h.setReg a v).inj = h.inj := rfl
@[simp] theorem setReg_ports (a : Nat) (v : W64) : (h.setReg a v).ports = h.ports := rfl
@[simp] theorem setReg_landing (a : Nat) (v : W64) : (h.setReg a v).landing = h.landing := rfl
@[simp] theorem setReg_redOwn (a : Nat) (v : W64) : (h.setReg a v).redOwn = h.redOwn := rfl
@[simp] theorem setReg_reasm (a : Nat) (v : W64) : (h.setReg a v).reasm = h.reasm := rfl
@[simp] theorem setReg_resFails (a : Nat) (v : W64) : (h.setReg a v).resFails = h.resFails := rfl
@[simp] theorem setReg_retired (a : Nat) (v : W64) : (h.setReg a v).retired = h.retired := rfl
@[simp] theorem setReg_chCopy (a : Nat) (v : W64) : (h.setReg a v).chCopy = h.chCopy := rfl
@[simp] theorem setReg_chReady (a : Nat) (v : W64) : (h.setReg a v).chReady = h.chReady := rfl
@[simp] theorem setReg_hubBad (a : Nat) (v : W64) : (h.setReg a v).hubBad = h.hubBad := rfl
@[simp] theorem setReg_fru (a : Nat) (v : W64) : (h.setReg a v).fru = h.fru := rfl
@[simp] theorem setReg_sec (a : Nat) (v : W64) : (h.setReg a v).sec = h.sec := rfl
@[simp] theorem setReg_ck (a : Nat) (v : W64) : (h.setReg a v).ck = h.ck := rfl
@[simp] theorem setReg_sl (a : Nat) (v : W64) : (h.setReg a v).sl = h.sl := rfl
@[simp] theorem setReg_pw (a : Nat) (v : W64) : (h.setReg a v).pw = h.pw := rfl
@[simp] theorem setReg_nf (a : Nat) (v : W64) : (h.setReg a v).nf = h.nf := rfl
@[simp] theorem setReg_aix (a : Nat) (v : W64) : (h.setReg a v).aix = h.aix := rfl
@[simp] theorem setReg_gr (a : Nat) (v : W64) : (h.setReg a v).gr = h.gr := rfl
@[simp] theorem setReg_qn (a : Nat) (v : W64) : (h.setReg a v).qn = h.qn := rfl

/-! ### pi -/

@[simp] theorem pi_nt (f : Fld) (i v : Nat) : (h.pi f i v).nt = h.nt := rfl
@[simp] theorem pi_ntEver (f : Fld) (i v : Nat) : (h.pi f i v).ntEver = h.ntEver := rfl
@[simp] theorem pi_free (f : Fld) (i v : Nat) : (h.pi f i v).free = h.free := rfl
@[simp] theorem pi_out (f : Fld) (i v : Nat) : (h.pi f i v).out = h.out := rfl
@[simp] theorem pi_sess (f : Fld) (i v : Nat) : (h.pi f i v).sess = h.sess := rfl
@[simp] theorem pi_gens (f : Fld) (i v : Nat) : (h.pi f i v).gens = h.gens := rfl
@[simp] theorem pi_wins (f : Fld) (i v : Nat) : (h.pi f i v).wins = h.wins := rfl
@[simp] theorem pi_keySlots (f : Fld) (i v : Nat) : (h.pi f i v).keySlots = h.keySlots := rfl
@[simp] theorem pi_snoop (f : Fld) (i v : Nat) : (h.pi f i v).snoop = h.snoop := rfl
@[simp] theorem pi_cring (f : Fld) (i v : Nat) : (h.pi f i v).cring = h.cring := rfl
@[simp] theorem pi_sring (f : Fld) (i v : Nat) : (h.pi f i v).sring = h.sring := rfl
@[simp] theorem pi_irq (f : Fld) (i v : Nat) : (h.pi f i v).irq = h.irq := rfl
@[simp] theorem pi_nextId (f : Fld) (i v : Nat) : (h.pi f i v).nextId = h.nextId := rfl
@[simp] theorem pi_reads (f : Fld) (i v : Nat) : (h.pi f i v).reads = h.reads := rfl
@[simp] theorem pi_writes (f : Fld) (i v : Nat) : (h.pi f i v).writes = h.writes := rfl
@[simp] theorem pi_durs (f : Fld) (i v : Nat) : (h.pi f i v).durs = h.durs := rfl
@[simp] theorem pi_hopq (f : Fld) (i v : Nat) : (h.pi f i v).hopq = h.hopq := rfl
@[simp] theorem pi_quant (f : Fld) (i v : Nat) : (h.pi f i v).quant = h.quant := rfl
@[simp] theorem pi_seqq (f : Fld) (i v : Nat) : (h.pi f i v).seqq = h.seqq := rfl
@[simp] theorem pi_seqMap (f : Fld) (i v : Nat) : (h.pi f i v).seqMap = h.seqMap := rfl
@[simp] theorem pi_seqSpare (f : Fld) (i v : Nat) : (h.pi f i v).seqSpare = h.seqSpare := rfl
@[simp] theorem pi_im (f : Fld) (i v : Nat) : (h.pi f i v).im = h.im := rfl
@[simp] theorem pi_kv (f : Fld) (i v : Nat) : (h.pi f i v).kv = h.kv := rfl
@[simp] theorem pi_grp (f : Fld) (i v : Nat) : (h.pi f i v).grp = h.grp := rfl
@[simp] theorem pi_rcmp (f : Fld) (i v : Nat) : (h.pi f i v).rcmp = h.rcmp := rfl
@[simp] theorem pi_migIn (f : Fld) (i v : Nat) : (h.pi f i v).migIn = h.migIn := rfl
@[simp] theorem pi_mirrors (f : Fld) (i v : Nat) : (h.pi f i v).mirrors = h.mirrors := rfl
@[simp] theorem pi_diag (f : Fld) (i v : Nat) : (h.pi f i v).diag = h.diag := rfl
@[simp] theorem pi_msgId (f : Fld) (i v : Nat) : (h.pi f i v).msgId = h.msgId := rfl
@[simp] theorem pi_inj (f : Fld) (i v : Nat) : (h.pi f i v).inj = h.inj := rfl
@[simp] theorem pi_ports (f : Fld) (i v : Nat) : (h.pi f i v).ports = h.ports := rfl
@[simp] theorem pi_landing (f : Fld) (i v : Nat) : (h.pi f i v).landing = h.landing := rfl
@[simp] theorem pi_redOwn (f : Fld) (i v : Nat) : (h.pi f i v).redOwn = h.redOwn := rfl
@[simp] theorem pi_reasm (f : Fld) (i v : Nat) : (h.pi f i v).reasm = h.reasm := rfl
@[simp] theorem pi_resFails (f : Fld) (i v : Nat) : (h.pi f i v).resFails = h.resFails := rfl
@[simp] theorem pi_retired (f : Fld) (i v : Nat) : (h.pi f i v).retired = h.retired := rfl
@[simp] theorem pi_chCopy (f : Fld) (i v : Nat) : (h.pi f i v).chCopy = h.chCopy := rfl
@[simp] theorem pi_chReady (f : Fld) (i v : Nat) : (h.pi f i v).chReady = h.chReady := rfl
@[simp] theorem pi_hubBad (f : Fld) (i v : Nat) : (h.pi f i v).hubBad = h.hubBad := rfl
@[simp] theorem pi_fru (f : Fld) (i v : Nat) : (h.pi f i v).fru = h.fru := rfl
@[simp] theorem pi_sec (f : Fld) (i v : Nat) : (h.pi f i v).sec = h.sec := rfl
@[simp] theorem pi_ck (f : Fld) (i v : Nat) : (h.pi f i v).ck = h.ck := rfl
@[simp] theorem pi_sl (f : Fld) (i v : Nat) : (h.pi f i v).sl = h.sl := rfl
@[simp] theorem pi_pw (f : Fld) (i v : Nat) : (h.pi f i v).pw = h.pw := rfl
@[simp] theorem pi_nf (f : Fld) (i v : Nat) : (h.pi f i v).nf = h.nf := rfl
@[simp] theorem pi_aix (f : Fld) (i v : Nat) : (h.pi f i v).aix = h.aix := rfl
@[simp] theorem pi_gr (f : Fld) (i v : Nat) : (h.pi f i v).gr = h.gr := rfl
@[simp] theorem pi_qn (f : Fld) (i v : Nat) : (h.pi f i v).qn = h.qn := rfl

/-! ### p -/

@[simp] theorem p_nt (f : Fld) (v : Nat) : (h.p f v).nt = h.nt := rfl
@[simp] theorem p_ntEver (f : Fld) (v : Nat) : (h.p f v).ntEver = h.ntEver := rfl
@[simp] theorem p_free (f : Fld) (v : Nat) : (h.p f v).free = h.free := rfl
@[simp] theorem p_out (f : Fld) (v : Nat) : (h.p f v).out = h.out := rfl
@[simp] theorem p_sess (f : Fld) (v : Nat) : (h.p f v).sess = h.sess := rfl
@[simp] theorem p_gens (f : Fld) (v : Nat) : (h.p f v).gens = h.gens := rfl
@[simp] theorem p_wins (f : Fld) (v : Nat) : (h.p f v).wins = h.wins := rfl
@[simp] theorem p_keySlots (f : Fld) (v : Nat) : (h.p f v).keySlots = h.keySlots := rfl
@[simp] theorem p_snoop (f : Fld) (v : Nat) : (h.p f v).snoop = h.snoop := rfl
@[simp] theorem p_cring (f : Fld) (v : Nat) : (h.p f v).cring = h.cring := rfl
@[simp] theorem p_sring (f : Fld) (v : Nat) : (h.p f v).sring = h.sring := rfl
@[simp] theorem p_irq (f : Fld) (v : Nat) : (h.p f v).irq = h.irq := rfl
@[simp] theorem p_nextId (f : Fld) (v : Nat) : (h.p f v).nextId = h.nextId := rfl
@[simp] theorem p_reads (f : Fld) (v : Nat) : (h.p f v).reads = h.reads := rfl
@[simp] theorem p_writes (f : Fld) (v : Nat) : (h.p f v).writes = h.writes := rfl
@[simp] theorem p_durs (f : Fld) (v : Nat) : (h.p f v).durs = h.durs := rfl
@[simp] theorem p_hopq (f : Fld) (v : Nat) : (h.p f v).hopq = h.hopq := rfl
@[simp] theorem p_quant (f : Fld) (v : Nat) : (h.p f v).quant = h.quant := rfl
@[simp] theorem p_seqq (f : Fld) (v : Nat) : (h.p f v).seqq = h.seqq := rfl
@[simp] theorem p_seqMap (f : Fld) (v : Nat) : (h.p f v).seqMap = h.seqMap := rfl
@[simp] theorem p_seqSpare (f : Fld) (v : Nat) : (h.p f v).seqSpare = h.seqSpare := rfl
@[simp] theorem p_im (f : Fld) (v : Nat) : (h.p f v).im = h.im := rfl
@[simp] theorem p_kv (f : Fld) (v : Nat) : (h.p f v).kv = h.kv := rfl
@[simp] theorem p_grp (f : Fld) (v : Nat) : (h.p f v).grp = h.grp := rfl
@[simp] theorem p_rcmp (f : Fld) (v : Nat) : (h.p f v).rcmp = h.rcmp := rfl
@[simp] theorem p_migIn (f : Fld) (v : Nat) : (h.p f v).migIn = h.migIn := rfl
@[simp] theorem p_mirrors (f : Fld) (v : Nat) : (h.p f v).mirrors = h.mirrors := rfl
@[simp] theorem p_diag (f : Fld) (v : Nat) : (h.p f v).diag = h.diag := rfl
@[simp] theorem p_msgId (f : Fld) (v : Nat) : (h.p f v).msgId = h.msgId := rfl
@[simp] theorem p_inj (f : Fld) (v : Nat) : (h.p f v).inj = h.inj := rfl
@[simp] theorem p_ports (f : Fld) (v : Nat) : (h.p f v).ports = h.ports := rfl
@[simp] theorem p_landing (f : Fld) (v : Nat) : (h.p f v).landing = h.landing := rfl
@[simp] theorem p_redOwn (f : Fld) (v : Nat) : (h.p f v).redOwn = h.redOwn := rfl
@[simp] theorem p_reasm (f : Fld) (v : Nat) : (h.p f v).reasm = h.reasm := rfl
@[simp] theorem p_resFails (f : Fld) (v : Nat) : (h.p f v).resFails = h.resFails := rfl
@[simp] theorem p_retired (f : Fld) (v : Nat) : (h.p f v).retired = h.retired := rfl
@[simp] theorem p_chCopy (f : Fld) (v : Nat) : (h.p f v).chCopy = h.chCopy := rfl
@[simp] theorem p_chReady (f : Fld) (v : Nat) : (h.p f v).chReady = h.chReady := rfl
@[simp] theorem p_hubBad (f : Fld) (v : Nat) : (h.p f v).hubBad = h.hubBad := rfl
@[simp] theorem p_fru (f : Fld) (v : Nat) : (h.p f v).fru = h.fru := rfl
@[simp] theorem p_sec (f : Fld) (v : Nat) : (h.p f v).sec = h.sec := rfl
@[simp] theorem p_ck (f : Fld) (v : Nat) : (h.p f v).ck = h.ck := rfl
@[simp] theorem p_sl (f : Fld) (v : Nat) : (h.p f v).sl = h.sl := rfl
@[simp] theorem p_pw (f : Fld) (v : Nat) : (h.p f v).pw = h.pw := rfl
@[simp] theorem p_nf (f : Fld) (v : Nat) : (h.p f v).nf = h.nf := rfl
@[simp] theorem p_aix (f : Fld) (v : Nat) : (h.p f v).aix = h.aix := rfl
@[simp] theorem p_gr (f : Fld) (v : Nat) : (h.p f v).gr = h.gr := rfl
@[simp] theorem p_qn (f : Fld) (v : Nat) : (h.p f v).qn = h.qn := rfl

/-! ### inci -/

@[simp] theorem inci_nt (f : Fld) (i n : Nat) : (h.inci f i n).nt = h.nt := rfl
@[simp] theorem inci_ntEver (f : Fld) (i n : Nat) : (h.inci f i n).ntEver = h.ntEver := rfl
@[simp] theorem inci_free (f : Fld) (i n : Nat) : (h.inci f i n).free = h.free := rfl
@[simp] theorem inci_out (f : Fld) (i n : Nat) : (h.inci f i n).out = h.out := rfl
@[simp] theorem inci_sess (f : Fld) (i n : Nat) : (h.inci f i n).sess = h.sess := rfl
@[simp] theorem inci_gens (f : Fld) (i n : Nat) : (h.inci f i n).gens = h.gens := rfl
@[simp] theorem inci_wins (f : Fld) (i n : Nat) : (h.inci f i n).wins = h.wins := rfl
@[simp] theorem inci_keySlots (f : Fld) (i n : Nat) : (h.inci f i n).keySlots = h.keySlots := rfl
@[simp] theorem inci_snoop (f : Fld) (i n : Nat) : (h.inci f i n).snoop = h.snoop := rfl
@[simp] theorem inci_cring (f : Fld) (i n : Nat) : (h.inci f i n).cring = h.cring := rfl
@[simp] theorem inci_sring (f : Fld) (i n : Nat) : (h.inci f i n).sring = h.sring := rfl
@[simp] theorem inci_irq (f : Fld) (i n : Nat) : (h.inci f i n).irq = h.irq := rfl
@[simp] theorem inci_nextId (f : Fld) (i n : Nat) : (h.inci f i n).nextId = h.nextId := rfl
@[simp] theorem inci_reads (f : Fld) (i n : Nat) : (h.inci f i n).reads = h.reads := rfl
@[simp] theorem inci_writes (f : Fld) (i n : Nat) : (h.inci f i n).writes = h.writes := rfl
@[simp] theorem inci_durs (f : Fld) (i n : Nat) : (h.inci f i n).durs = h.durs := rfl
@[simp] theorem inci_hopq (f : Fld) (i n : Nat) : (h.inci f i n).hopq = h.hopq := rfl
@[simp] theorem inci_quant (f : Fld) (i n : Nat) : (h.inci f i n).quant = h.quant := rfl
@[simp] theorem inci_seqq (f : Fld) (i n : Nat) : (h.inci f i n).seqq = h.seqq := rfl
@[simp] theorem inci_seqMap (f : Fld) (i n : Nat) : (h.inci f i n).seqMap = h.seqMap := rfl
@[simp] theorem inci_seqSpare (f : Fld) (i n : Nat) : (h.inci f i n).seqSpare = h.seqSpare := rfl
@[simp] theorem inci_im (f : Fld) (i n : Nat) : (h.inci f i n).im = h.im := rfl
@[simp] theorem inci_kv (f : Fld) (i n : Nat) : (h.inci f i n).kv = h.kv := rfl
@[simp] theorem inci_grp (f : Fld) (i n : Nat) : (h.inci f i n).grp = h.grp := rfl
@[simp] theorem inci_rcmp (f : Fld) (i n : Nat) : (h.inci f i n).rcmp = h.rcmp := rfl
@[simp] theorem inci_migIn (f : Fld) (i n : Nat) : (h.inci f i n).migIn = h.migIn := rfl
@[simp] theorem inci_mirrors (f : Fld) (i n : Nat) : (h.inci f i n).mirrors = h.mirrors := rfl
@[simp] theorem inci_diag (f : Fld) (i n : Nat) : (h.inci f i n).diag = h.diag := rfl
@[simp] theorem inci_msgId (f : Fld) (i n : Nat) : (h.inci f i n).msgId = h.msgId := rfl
@[simp] theorem inci_inj (f : Fld) (i n : Nat) : (h.inci f i n).inj = h.inj := rfl
@[simp] theorem inci_ports (f : Fld) (i n : Nat) : (h.inci f i n).ports = h.ports := rfl
@[simp] theorem inci_landing (f : Fld) (i n : Nat) : (h.inci f i n).landing = h.landing := rfl
@[simp] theorem inci_redOwn (f : Fld) (i n : Nat) : (h.inci f i n).redOwn = h.redOwn := rfl
@[simp] theorem inci_reasm (f : Fld) (i n : Nat) : (h.inci f i n).reasm = h.reasm := rfl
@[simp] theorem inci_resFails (f : Fld) (i n : Nat) : (h.inci f i n).resFails = h.resFails := rfl
@[simp] theorem inci_retired (f : Fld) (i n : Nat) : (h.inci f i n).retired = h.retired := rfl
@[simp] theorem inci_chCopy (f : Fld) (i n : Nat) : (h.inci f i n).chCopy = h.chCopy := rfl
@[simp] theorem inci_chReady (f : Fld) (i n : Nat) : (h.inci f i n).chReady = h.chReady := rfl
@[simp] theorem inci_hubBad (f : Fld) (i n : Nat) : (h.inci f i n).hubBad = h.hubBad := rfl
@[simp] theorem inci_fru (f : Fld) (i n : Nat) : (h.inci f i n).fru = h.fru := rfl
@[simp] theorem inci_sec (f : Fld) (i n : Nat) : (h.inci f i n).sec = h.sec := rfl
@[simp] theorem inci_ck (f : Fld) (i n : Nat) : (h.inci f i n).ck = h.ck := rfl
@[simp] theorem inci_sl (f : Fld) (i n : Nat) : (h.inci f i n).sl = h.sl := rfl
@[simp] theorem inci_pw (f : Fld) (i n : Nat) : (h.inci f i n).pw = h.pw := rfl
@[simp] theorem inci_nf (f : Fld) (i n : Nat) : (h.inci f i n).nf = h.nf := rfl
@[simp] theorem inci_aix (f : Fld) (i n : Nat) : (h.inci f i n).aix = h.aix := rfl
@[simp] theorem inci_gr (f : Fld) (i n : Nat) : (h.inci f i n).gr = h.gr := rfl
@[simp] theorem inci_qn (f : Fld) (i n : Nat) : (h.inci f i n).qn = h.qn := rfl

/-! ### inc -/

@[simp] theorem inc_nt (f : Fld) (n : Nat) : (h.inc f n).nt = h.nt := rfl
@[simp] theorem inc_ntEver (f : Fld) (n : Nat) : (h.inc f n).ntEver = h.ntEver := rfl
@[simp] theorem inc_free (f : Fld) (n : Nat) : (h.inc f n).free = h.free := rfl
@[simp] theorem inc_out (f : Fld) (n : Nat) : (h.inc f n).out = h.out := rfl
@[simp] theorem inc_sess (f : Fld) (n : Nat) : (h.inc f n).sess = h.sess := rfl
@[simp] theorem inc_gens (f : Fld) (n : Nat) : (h.inc f n).gens = h.gens := rfl
@[simp] theorem inc_wins (f : Fld) (n : Nat) : (h.inc f n).wins = h.wins := rfl
@[simp] theorem inc_keySlots (f : Fld) (n : Nat) : (h.inc f n).keySlots = h.keySlots := rfl
@[simp] theorem inc_snoop (f : Fld) (n : Nat) : (h.inc f n).snoop = h.snoop := rfl
@[simp] theorem inc_cring (f : Fld) (n : Nat) : (h.inc f n).cring = h.cring := rfl
@[simp] theorem inc_sring (f : Fld) (n : Nat) : (h.inc f n).sring = h.sring := rfl
@[simp] theorem inc_irq (f : Fld) (n : Nat) : (h.inc f n).irq = h.irq := rfl
@[simp] theorem inc_nextId (f : Fld) (n : Nat) : (h.inc f n).nextId = h.nextId := rfl
@[simp] theorem inc_reads (f : Fld) (n : Nat) : (h.inc f n).reads = h.reads := rfl
@[simp] theorem inc_writes (f : Fld) (n : Nat) : (h.inc f n).writes = h.writes := rfl
@[simp] theorem inc_durs (f : Fld) (n : Nat) : (h.inc f n).durs = h.durs := rfl
@[simp] theorem inc_hopq (f : Fld) (n : Nat) : (h.inc f n).hopq = h.hopq := rfl
@[simp] theorem inc_quant (f : Fld) (n : Nat) : (h.inc f n).quant = h.quant := rfl
@[simp] theorem inc_seqq (f : Fld) (n : Nat) : (h.inc f n).seqq = h.seqq := rfl
@[simp] theorem inc_seqMap (f : Fld) (n : Nat) : (h.inc f n).seqMap = h.seqMap := rfl
@[simp] theorem inc_seqSpare (f : Fld) (n : Nat) : (h.inc f n).seqSpare = h.seqSpare := rfl
@[simp] theorem inc_im (f : Fld) (n : Nat) : (h.inc f n).im = h.im := rfl
@[simp] theorem inc_kv (f : Fld) (n : Nat) : (h.inc f n).kv = h.kv := rfl
@[simp] theorem inc_grp (f : Fld) (n : Nat) : (h.inc f n).grp = h.grp := rfl
@[simp] theorem inc_rcmp (f : Fld) (n : Nat) : (h.inc f n).rcmp = h.rcmp := rfl
@[simp] theorem inc_migIn (f : Fld) (n : Nat) : (h.inc f n).migIn = h.migIn := rfl
@[simp] theorem inc_mirrors (f : Fld) (n : Nat) : (h.inc f n).mirrors = h.mirrors := rfl
@[simp] theorem inc_diag (f : Fld) (n : Nat) : (h.inc f n).diag = h.diag := rfl
@[simp] theorem inc_msgId (f : Fld) (n : Nat) : (h.inc f n).msgId = h.msgId := rfl
@[simp] theorem inc_inj (f : Fld) (n : Nat) : (h.inc f n).inj = h.inj := rfl
@[simp] theorem inc_ports (f : Fld) (n : Nat) : (h.inc f n).ports = h.ports := rfl
@[simp] theorem inc_landing (f : Fld) (n : Nat) : (h.inc f n).landing = h.landing := rfl
@[simp] theorem inc_redOwn (f : Fld) (n : Nat) : (h.inc f n).redOwn = h.redOwn := rfl
@[simp] theorem inc_reasm (f : Fld) (n : Nat) : (h.inc f n).reasm = h.reasm := rfl
@[simp] theorem inc_resFails (f : Fld) (n : Nat) : (h.inc f n).resFails = h.resFails := rfl
@[simp] theorem inc_retired (f : Fld) (n : Nat) : (h.inc f n).retired = h.retired := rfl
@[simp] theorem inc_chCopy (f : Fld) (n : Nat) : (h.inc f n).chCopy = h.chCopy := rfl
@[simp] theorem inc_chReady (f : Fld) (n : Nat) : (h.inc f n).chReady = h.chReady := rfl
@[simp] theorem inc_hubBad (f : Fld) (n : Nat) : (h.inc f n).hubBad = h.hubBad := rfl
@[simp] theorem inc_fru (f : Fld) (n : Nat) : (h.inc f n).fru = h.fru := rfl
@[simp] theorem inc_sec (f : Fld) (n : Nat) : (h.inc f n).sec = h.sec := rfl
@[simp] theorem inc_ck (f : Fld) (n : Nat) : (h.inc f n).ck = h.ck := rfl
@[simp] theorem inc_sl (f : Fld) (n : Nat) : (h.inc f n).sl = h.sl := rfl
@[simp] theorem inc_pw (f : Fld) (n : Nat) : (h.inc f n).pw = h.pw := rfl
@[simp] theorem inc_nf (f : Fld) (n : Nat) : (h.inc f n).nf = h.nf := rfl
@[simp] theorem inc_aix (f : Fld) (n : Nat) : (h.inc f n).aix = h.aix := rfl
@[simp] theorem inc_gr (f : Fld) (n : Nat) : (h.inc f n).gr = h.gr := rfl
@[simp] theorem inc_qn (f : Fld) (n : Nat) : (h.inc f n).qn = h.qn := rfl

/-! ### setS -/

@[simp] theorem setS_nt (i : Handle) (x : Sess) : (h.setS i x).nt = h.nt := rfl
@[simp] theorem setS_ntEver (i : Handle) (x : Sess) : (h.setS i x).ntEver = h.ntEver := rfl
@[simp] theorem setS_free (i : Handle) (x : Sess) : (h.setS i x).free = h.free := rfl
@[simp] theorem setS_out (i : Handle) (x : Sess) : (h.setS i x).out = h.out := rfl
@[simp] theorem setS_regs (i : Handle) (x : Sess) : (h.setS i x).regs = h.regs := rfl
@[simp] theorem setS_gens (i : Handle) (x : Sess) : (h.setS i x).gens = h.gens := rfl
@[simp] theorem setS_wins (i : Handle) (x : Sess) : (h.setS i x).wins = h.wins := rfl
@[simp] theorem setS_keySlots (i : Handle) (x : Sess) : (h.setS i x).keySlots = h.keySlots := rfl
@[simp] theorem setS_snoop (i : Handle) (x : Sess) : (h.setS i x).snoop = h.snoop := rfl
@[simp] theorem setS_cring (i : Handle) (x : Sess) : (h.setS i x).cring = h.cring := rfl
@[simp] theorem setS_sring (i : Handle) (x : Sess) : (h.setS i x).sring = h.sring := rfl
@[simp] theorem setS_irq (i : Handle) (x : Sess) : (h.setS i x).irq = h.irq := rfl
@[simp] theorem setS_nextId (i : Handle) (x : Sess) : (h.setS i x).nextId = h.nextId := rfl
@[simp] theorem setS_reads (i : Handle) (x : Sess) : (h.setS i x).reads = h.reads := rfl
@[simp] theorem setS_writes (i : Handle) (x : Sess) : (h.setS i x).writes = h.writes := rfl
@[simp] theorem setS_durs (i : Handle) (x : Sess) : (h.setS i x).durs = h.durs := rfl
@[simp] theorem setS_hopq (i : Handle) (x : Sess) : (h.setS i x).hopq = h.hopq := rfl
@[simp] theorem setS_quant (i : Handle) (x : Sess) : (h.setS i x).quant = h.quant := rfl
@[simp] theorem setS_seqq (i : Handle) (x : Sess) : (h.setS i x).seqq = h.seqq := rfl
@[simp] theorem setS_seqMap (i : Handle) (x : Sess) : (h.setS i x).seqMap = h.seqMap := rfl
@[simp] theorem setS_seqSpare (i : Handle) (x : Sess) : (h.setS i x).seqSpare = h.seqSpare := rfl
@[simp] theorem setS_im (i : Handle) (x : Sess) : (h.setS i x).im = h.im := rfl
@[simp] theorem setS_kv (i : Handle) (x : Sess) : (h.setS i x).kv = h.kv := rfl
@[simp] theorem setS_grp (i : Handle) (x : Sess) : (h.setS i x).grp = h.grp := rfl
@[simp] theorem setS_rcmp (i : Handle) (x : Sess) : (h.setS i x).rcmp = h.rcmp := rfl
@[simp] theorem setS_migIn (i : Handle) (x : Sess) : (h.setS i x).migIn = h.migIn := rfl
@[simp] theorem setS_mirrors (i : Handle) (x : Sess) : (h.setS i x).mirrors = h.mirrors := rfl
@[simp] theorem setS_diag (i : Handle) (x : Sess) : (h.setS i x).diag = h.diag := rfl
@[simp] theorem setS_msgId (i : Handle) (x : Sess) : (h.setS i x).msgId = h.msgId := rfl
@[simp] theorem setS_inj (i : Handle) (x : Sess) : (h.setS i x).inj = h.inj := rfl
@[simp] theorem setS_ports (i : Handle) (x : Sess) : (h.setS i x).ports = h.ports := rfl
@[simp] theorem setS_landing (i : Handle) (x : Sess) : (h.setS i x).landing = h.landing := rfl
@[simp] theorem setS_redOwn (i : Handle) (x : Sess) : (h.setS i x).redOwn = h.redOwn := rfl
@[simp] theorem setS_reasm (i : Handle) (x : Sess) : (h.setS i x).reasm = h.reasm := rfl
@[simp] theorem setS_resFails (i : Handle) (x : Sess) : (h.setS i x).resFails = h.resFails := rfl
@[simp] theorem setS_retired (i : Handle) (x : Sess) : (h.setS i x).retired = h.retired := rfl
@[simp] theorem setS_chCopy (i : Handle) (x : Sess) : (h.setS i x).chCopy = h.chCopy := rfl
@[simp] theorem setS_chReady (i : Handle) (x : Sess) : (h.setS i x).chReady = h.chReady := rfl
@[simp] theorem setS_hubBad (i : Handle) (x : Sess) : (h.setS i x).hubBad = h.hubBad := rfl
@[simp] theorem setS_fru (i : Handle) (x : Sess) : (h.setS i x).fru = h.fru := rfl
@[simp] theorem setS_sec (i : Handle) (x : Sess) : (h.setS i x).sec = h.sec := rfl
@[simp] theorem setS_ck (i : Handle) (x : Sess) : (h.setS i x).ck = h.ck := rfl
@[simp] theorem setS_sl (i : Handle) (x : Sess) : (h.setS i x).sl = h.sl := rfl
@[simp] theorem setS_pw (i : Handle) (x : Sess) : (h.setS i x).pw = h.pw := rfl
@[simp] theorem setS_nf (i : Handle) (x : Sess) : (h.setS i x).nf = h.nf := rfl
@[simp] theorem setS_aix (i : Handle) (x : Sess) : (h.setS i x).aix = h.aix := rfl
@[simp] theorem setS_gr (i : Handle) (x : Sess) : (h.setS i x).gr = h.gr := rfl
@[simp] theorem setS_qn (i : Handle) (x : Sess) : (h.setS i x).qn = h.qn := rfl

/-! ### modS -/

@[simp] theorem modS_nt (i : Handle) (f : Sess → Sess) : (h.modS i f).nt = h.nt := rfl
@[simp] theorem modS_ntEver (i : Handle) (f : Sess → Sess) : (h.modS i f).ntEver = h.ntEver := rfl
@[simp] theorem modS_free (i : Handle) (f : Sess → Sess) : (h.modS i f).free = h.free := rfl
@[simp] theorem modS_out (i : Handle) (f : Sess → Sess) : (h.modS i f).out = h.out := rfl
@[simp] theorem modS_regs (i : Handle) (f : Sess → Sess) : (h.modS i f).regs = h.regs := rfl
@[simp] theorem modS_gens (i : Handle) (f : Sess → Sess) : (h.modS i f).gens = h.gens := rfl
@[simp] theorem modS_wins (i : Handle) (f : Sess → Sess) : (h.modS i f).wins = h.wins := rfl
@[simp] theorem modS_keySlots (i : Handle) (f : Sess → Sess) : (h.modS i f).keySlots = h.keySlots := rfl
@[simp] theorem modS_snoop (i : Handle) (f : Sess → Sess) : (h.modS i f).snoop = h.snoop := rfl
@[simp] theorem modS_cring (i : Handle) (f : Sess → Sess) : (h.modS i f).cring = h.cring := rfl
@[simp] theorem modS_sring (i : Handle) (f : Sess → Sess) : (h.modS i f).sring = h.sring := rfl
@[simp] theorem modS_irq (i : Handle) (f : Sess → Sess) : (h.modS i f).irq = h.irq := rfl
@[simp] theorem modS_nextId (i : Handle) (f : Sess → Sess) : (h.modS i f).nextId = h.nextId := rfl
@[simp] theorem modS_reads (i : Handle) (f : Sess → Sess) : (h.modS i f).reads = h.reads := rfl
@[simp] theorem modS_writes (i : Handle) (f : Sess → Sess) : (h.modS i f).writes = h.writes := rfl
@[simp] theorem modS_durs (i : Handle) (f : Sess → Sess) : (h.modS i f).durs = h.durs := rfl
@[simp] theorem modS_hopq (i : Handle) (f : Sess → Sess) : (h.modS i f).hopq = h.hopq := rfl
@[simp] theorem modS_quant (i : Handle) (f : Sess → Sess) : (h.modS i f).quant = h.quant := rfl
@[simp] theorem modS_seqq (i : Handle) (f : Sess → Sess) : (h.modS i f).seqq = h.seqq := rfl
@[simp] theorem modS_seqMap (i : Handle) (f : Sess → Sess) : (h.modS i f).seqMap = h.seqMap := rfl
@[simp] theorem modS_seqSpare (i : Handle) (f : Sess → Sess) : (h.modS i f).seqSpare = h.seqSpare := rfl
@[simp] theorem modS_im (i : Handle) (f : Sess → Sess) : (h.modS i f).im = h.im := rfl
@[simp] theorem modS_kv (i : Handle) (f : Sess → Sess) : (h.modS i f).kv = h.kv := rfl
@[simp] theorem modS_grp (i : Handle) (f : Sess → Sess) : (h.modS i f).grp = h.grp := rfl
@[simp] theorem modS_rcmp (i : Handle) (f : Sess → Sess) : (h.modS i f).rcmp = h.rcmp := rfl
@[simp] theorem modS_migIn (i : Handle) (f : Sess → Sess) : (h.modS i f).migIn = h.migIn := rfl
@[simp] theorem modS_mirrors (i : Handle) (f : Sess → Sess) : (h.modS i f).mirrors = h.mirrors := rfl
@[simp] theorem modS_diag (i : Handle) (f : Sess → Sess) : (h.modS i f).diag = h.diag := rfl
@[simp] theorem modS_msgId (i : Handle) (f : Sess → Sess) : (h.modS i f).msgId = h.msgId := rfl
@[simp] theorem modS_inj (i : Handle) (f : Sess → Sess) : (h.modS i f).inj = h.inj := rfl
@[simp] theorem modS_ports (i : Handle) (f : Sess → Sess) : (h.modS i f).ports = h.ports := rfl
@[simp] theorem modS_landing (i : Handle) (f : Sess → Sess) : (h.modS i f).landing = h.landing := rfl
@[simp] theorem modS_redOwn (i : Handle) (f : Sess → Sess) : (h.modS i f).redOwn = h.redOwn := rfl
@[simp] theorem modS_reasm (i : Handle) (f : Sess → Sess) : (h.modS i f).reasm = h.reasm := rfl
@[simp] theorem modS_resFails (i : Handle) (f : Sess → Sess) : (h.modS i f).resFails = h.resFails := rfl
@[simp] theorem modS_retired (i : Handle) (f : Sess → Sess) : (h.modS i f).retired = h.retired := rfl
@[simp] theorem modS_chCopy (i : Handle) (f : Sess → Sess) : (h.modS i f).chCopy = h.chCopy := rfl
@[simp] theorem modS_chReady (i : Handle) (f : Sess → Sess) : (h.modS i f).chReady = h.chReady := rfl
@[simp] theorem modS_hubBad (i : Handle) (f : Sess → Sess) : (h.modS i f).hubBad = h.hubBad := rfl
@[simp] theorem modS_fru (i : Handle) (f : Sess → Sess) : (h.modS i f).fru = h.fru := rfl
@[simp] theorem modS_sec (i : Handle) (f : Sess → Sess) : (h.modS i f).sec = h.sec := rfl
@[simp] theorem modS_ck (i : Handle) (f : Sess → Sess) : (h.modS i f).ck = h.ck := rfl
@[simp] theorem modS_sl (i : Handle) (f : Sess → Sess) : (h.modS i f).sl = h.sl := rfl
@[simp] theorem modS_pw (i : Handle) (f : Sess → Sess) : (h.modS i f).pw = h.pw := rfl
@[simp] theorem modS_nf (i : Handle) (f : Sess → Sess) : (h.modS i f).nf = h.nf := rfl
@[simp] theorem modS_aix (i : Handle) (f : Sess → Sess) : (h.modS i f).aix = h.aix := rfl
@[simp] theorem modS_gr (i : Handle) (f : Sess → Sess) : (h.modS i f).gr = h.gr := rfl
@[simp] theorem modS_qn (i : Handle) (f : Sess → Sess) : (h.modS i f).qn = h.qn := rfl

/-! ### modR -/

@[simp] theorem modR_nt (i : Handle) (f : Rec → Rec) : (h.modR i f).nt = h.nt := rfl
@[simp] theorem modR_ntEver (i : Handle) (f : Rec → Rec) : (h.modR i f).ntEver = h.ntEver := rfl
@[simp] theorem modR_free (i : Handle) (f : Rec → Rec) : (h.modR i f).free = h.free := rfl
@[simp] theorem modR_out (i : Handle) (f : Rec → Rec) : (h.modR i f).out = h.out := rfl
@[simp] theorem modR_regs (i : Handle) (f : Rec → Rec) : (h.modR i f).regs = h.regs := rfl
@[simp] theorem modR_gens (i : Handle) (f : Rec → Rec) : (h.modR i f).gens = h.gens := rfl
@[simp] theorem modR_wins (i : Handle) (f : Rec → Rec) : (h.modR i f).wins = h.wins := rfl
@[simp] theorem modR_keySlots (i : Handle) (f : Rec → Rec) : (h.modR i f).keySlots = h.keySlots := rfl
@[simp] theorem modR_snoop (i : Handle) (f : Rec → Rec) : (h.modR i f).snoop = h.snoop := rfl
@[simp] theorem modR_cring (i : Handle) (f : Rec → Rec) : (h.modR i f).cring = h.cring := rfl
@[simp] theorem modR_sring (i : Handle) (f : Rec → Rec) : (h.modR i f).sring = h.sring := rfl
@[simp] theorem modR_irq (i : Handle) (f : Rec → Rec) : (h.modR i f).irq = h.irq := rfl
@[simp] theorem modR_nextId (i : Handle) (f : Rec → Rec) : (h.modR i f).nextId = h.nextId := rfl
@[simp] theorem modR_reads (i : Handle) (f : Rec → Rec) : (h.modR i f).reads = h.reads := rfl
@[simp] theorem modR_writes (i : Handle) (f : Rec → Rec) : (h.modR i f).writes = h.writes := rfl
@[simp] theorem modR_durs (i : Handle) (f : Rec → Rec) : (h.modR i f).durs = h.durs := rfl
@[simp] theorem modR_hopq (i : Handle) (f : Rec → Rec) : (h.modR i f).hopq = h.hopq := rfl
@[simp] theorem modR_quant (i : Handle) (f : Rec → Rec) : (h.modR i f).quant = h.quant := rfl
@[simp] theorem modR_seqq (i : Handle) (f : Rec → Rec) : (h.modR i f).seqq = h.seqq := rfl
@[simp] theorem modR_seqMap (i : Handle) (f : Rec → Rec) : (h.modR i f).seqMap = h.seqMap := rfl
@[simp] theorem modR_seqSpare (i : Handle) (f : Rec → Rec) : (h.modR i f).seqSpare = h.seqSpare := rfl
@[simp] theorem modR_im (i : Handle) (f : Rec → Rec) : (h.modR i f).im = h.im := rfl
@[simp] theorem modR_kv (i : Handle) (f : Rec → Rec) : (h.modR i f).kv = h.kv := rfl
@[simp] theorem modR_grp (i : Handle) (f : Rec → Rec) : (h.modR i f).grp = h.grp := rfl
@[simp] theorem modR_rcmp (i : Handle) (f : Rec → Rec) : (h.modR i f).rcmp = h.rcmp := rfl
@[simp] theorem modR_migIn (i : Handle) (f : Rec → Rec) : (h.modR i f).migIn = h.migIn := rfl
@[simp] theorem modR_mirrors (i : Handle) (f : Rec → Rec) : (h.modR i f).mirrors = h.mirrors := rfl
@[simp] theorem modR_diag (i : Handle) (f : Rec → Rec) : (h.modR i f).diag = h.diag := rfl
@[simp] theorem modR_msgId (i : Handle) (f : Rec → Rec) : (h.modR i f).msgId = h.msgId := rfl
@[simp] theorem modR_inj (i : Handle) (f : Rec → Rec) : (h.modR i f).inj = h.inj := rfl
@[simp] theorem modR_ports (i : Handle) (f : Rec → Rec) : (h.modR i f).ports = h.ports := rfl
@[simp] theorem modR_landing (i : Handle) (f : Rec → Rec) : (h.modR i f).landing = h.landing := rfl
@[simp] theorem modR_redOwn (i : Handle) (f : Rec → Rec) : (h.modR i f).redOwn = h.redOwn := rfl
@[simp] theorem modR_reasm (i : Handle) (f : Rec → Rec) : (h.modR i f).reasm = h.reasm := rfl
@[simp] theorem modR_resFails (i : Handle) (f : Rec → Rec) : (h.modR i f).resFails = h.resFails := rfl
@[simp] theorem modR_retired (i : Handle) (f : Rec → Rec) : (h.modR i f).retired = h.retired := rfl
@[simp] theorem modR_chCopy (i : Handle) (f : Rec → Rec) : (h.modR i f).chCopy = h.chCopy := rfl
@[simp] theorem modR_chReady (i : Handle) (f : Rec → Rec) : (h.modR i f).chReady = h.chReady := rfl
@[simp] theorem modR_hubBad (i : Handle) (f : Rec → Rec) : (h.modR i f).hubBad = h.hubBad := rfl
@[simp] theorem modR_fru (i : Handle) (f : Rec → Rec) : (h.modR i f).fru = h.fru := rfl
@[simp] theorem modR_sec (i : Handle) (f : Rec → Rec) : (h.modR i f).sec = h.sec := rfl
@[simp] theorem modR_ck (i : Handle) (f : Rec → Rec) : (h.modR i f).ck = h.ck := rfl
@[simp] theorem modR_sl (i : Handle) (f : Rec → Rec) : (h.modR i f).sl = h.sl := rfl
@[simp] theorem modR_pw (i : Handle) (f : Rec → Rec) : (h.modR i f).pw = h.pw := rfl
@[simp] theorem modR_nf (i : Handle) (f : Rec → Rec) : (h.modR i f).nf = h.nf := rfl
@[simp] theorem modR_aix (i : Handle) (f : Rec → Rec) : (h.modR i f).aix = h.aix := rfl
@[simp] theorem modR_gr (i : Handle) (f : Rec → Rec) : (h.modR i f).gr = h.gr := rfl
@[simp] theorem modR_qn (i : Handle) (f : Rec → Rec) : (h.modR i f).qn = h.qn := rfl

/-! ### Registers read, and sessions, through the other updates -/

@[simp] theorem reg_stamp (t : Nt) (a : Nat) : (h.stamp t).reg a = h.reg a := rfl
@[simp] theorem reg_emit (o : Out) (a : Nat) : (h.emit o).reg a = h.reg a := rfl
@[simp] theorem reg_setS (i : Handle) (x : Sess) (a : Nat) : (h.setS i x).reg a = h.reg a := rfl
@[simp] theorem reg_modS (i : Handle) (f : Sess → Sess) (a : Nat) : (h.modS i f).reg a = h.reg a := rfl
@[simp] theorem reg_modR (i : Handle) (f : Rec → Rec) (a : Nat) : (h.modR i f).reg a = h.reg a := rfl
@[simp] theorem gi_stamp (t : Nt) (f : Fld) (i : Nat) : (h.stamp t).gi f i = h.gi f i := rfl
@[simp] theorem gi_emit (o : Out) (f : Fld) (i : Nat) : (h.emit o).gi f i = h.gi f i := rfl
@[simp] theorem gi_setS (i : Handle) (x : Sess) (f : Fld) (k : Nat) : (h.setS i x).gi f k = h.gi f k := rfl
@[simp] theorem gi_modS (i : Handle) (u : Sess → Sess) (f : Fld) (k : Nat) : (h.modS i u).gi f k = h.gi f k := rfl
@[simp] theorem gi_modR (i : Handle) (u : Rec → Rec) (f : Fld) (k : Nat) : (h.modR i u).gi f k = h.gi f k := rfl
@[simp] theorem g_stamp (t : Nt) (f : Fld) : (h.stamp t).g f = h.g f := rfl
@[simp] theorem g_emit (o : Out) (f : Fld) : (h.emit o).g f = h.g f := rfl
@[simp] theorem g_setS (i : Handle) (x : Sess) (f : Fld) : (h.setS i x).g f = h.g f := rfl
@[simp] theorem g_modS (i : Handle) (u : Sess → Sess) (f : Fld) : (h.modS i u).g f = h.g f := rfl
@[simp] theorem g_modR (i : Handle) (u : Rec → Rec) (f : Fld) : (h.modR i u).g f = h.g f := rfl
@[simp] theorem on_stamp (t : Nt) (f : Fld) : (h.stamp t).on f = h.on f := rfl
@[simp] theorem on_emit (o : Out) (f : Fld) : (h.emit o).on f = h.on f := rfl
@[simp] theorem on_setS (i : Handle) (x : Sess) (f : Fld) : (h.setS i x).on f = h.on f := rfl
@[simp] theorem on_modS (i : Handle) (u : Sess → Sess) (f : Fld) : (h.modS i u).on f = h.on f := rfl
@[simp] theorem on_modR (i : Handle) (u : Rec → Rec) (f : Fld) : (h.modR i u).on f = h.on f := rfl
@[simp] theorem s_stamp (t : Nt) (i : Handle) : (h.stamp t).s i = h.s i := rfl
@[simp] theorem s_emit (o : Out) (i : Handle) : (h.emit o).s i = h.s i := rfl
@[simp] theorem s_setReg (a : Nat) (v : W64) (i : Handle) : (h.setReg a v).s i = h.s i := rfl
@[simp] theorem s_pi (f : Fld) (k v : Nat) (i : Handle) : (h.pi f k v).s i = h.s i := rfl
@[simp] theorem s_p (f : Fld) (v : Nat) (i : Handle) : (h.p f v).s i = h.s i := rfl
@[simp] theorem s_inci (f : Fld) (k n : Nat) (i : Handle) : (h.inci f k n).s i = h.s i := rfl
@[simp] theorem s_inc (f : Fld) (n : Nat) (i : Handle) : (h.inc f n).s i = h.s i := rfl

/-- Node time after a stamp is the later of the two. -/
theorem stamp_nt (t : Nt) : (h.stamp t).nt = if h.nt < t then t else h.nt := rfl

@[simp] theorem emit_out (o : Out) : (h.emit o).out = h.out ++ [o] := rfl

end Sys2Proof.Machine.Hub
end

