-- ==== Sys2Proof/Laws/Table.lean ====
section
/-! SUPPORT. Laws of the sparse tables (read after write, frames, the canonical form) and of bit fields. -/

namespace Sys2Proof.Machine

variable {β : Type}

/-! ### Lookup after a change -/

@[simp] theorem smLook_nil (i : Nat) : smLook ([] : SMap β) i = none := rfl

@[simp] theorem smLook_smPut_same (m : SMap β) (i : Nat) (x : β) : smLook (smPut m i x) i = some x := by
  induction m with
  | nil => simp [smPut, smLook]
  | cons e m ih =>
    obtain ⟨k, v⟩ := e
    unfold smPut
    split
    · simp [smLook]
    · split
      · simp [smLook]
      · next h => simp [smLook, h, ih]

theorem smLook_smPut_ne (m : SMap β) (i j : Nat) (x : β) (h : j ≠ i) : smLook (smPut m i x) j = smLook m j := by
  induction m with
  | nil => simp [smPut, smLook, h]
  | cons e m ih =>
    obtain ⟨k, v⟩ := e
    unfold smPut
    split
    · simp [smLook, h]
    · split
      · next h' => subst h'; simp [smLook, h]
      · simp [smLook, ih]

@[simp] theorem smLook_smDel_same (m : SMap β) (i : Nat) : smLook (smDel m i) i = none := by
  induction m with
  | nil => rfl
  | cons e m ih =>
    obtain ⟨k, v⟩ := e
    unfold smDel
    split
    · exact ih
    · next h => simp [smLook, h, ih]

theorem smLook_smDel_ne (m : SMap β) (i j : Nat) (h : j ≠ i) : smLook (smDel m i) j = smLook m j := by
  induction m with
  | nil => rfl
  | cons e m ih =>
    obtain ⟨k, v⟩ := e
    unfold smDel
    split
    · next h' => subst h'; simp [smLook, h, ih]
    · simp [smLook, ih]

@[simp] theorem smGet_smSet_same [DecidableEq β] (d : β) (m : SMap β) (i : Nat) (x : β) :
    smGet d (smSet d m i x) i = x := by
  unfold smGet smSet
  split
  · next h => simp [h]
  · simp

theorem smGet_smSet_ne [DecidableEq β] (d d' : β) (m : SMap β) (i j : Nat) (x : β) (h : j ≠ i) :
    smGet d' (smSet d m i x) j = smGet d' m j := by
  unfold smGet smSet
  split
  · rw [smLook_smDel_ne m i j h]
  · rw [smLook_smPut_ne m i j x h]

@[simp] theorem smGet_smPut_same (d : β) (m : SMap β) (i : Nat) (x : β) : smGet d (smPut m i x) i = x := by
  simp [smGet]

theorem smGet_smPut_ne (d : β) (m : SMap β) (i j : Nat) (x : β) (h : j ≠ i) :
    smGet d (smPut m i x) j = smGet d m j := by
  simp [smGet, smLook_smPut_ne m i j x h]

/-! ### The canonical form -/

theorem keysFrom_mono (a b : Nat) (m : SMap β) (hab : a ≤ b) (h : keysFrom b m = true) : keysFrom a m = true := by
  cases m with
  | nil => rfl
  | cons e m =>
    obtain ⟨k, v⟩ := e
    simp only [keysFrom, Bool.and_eq_true, decide_eq_true_eq] at h ⊢
    exact ⟨by omega, h.2⟩

theorem keysFrom_smPut (m : SMap β) (lo i : Nat) (x : β) (hi : lo ≤ i) (h : keysFrom lo m = true) :
    keysFrom lo (smPut m i x) = true := by
  induction m generalizing lo with
  | nil => simp [smPut, keysFrom, hi]
  | cons e m ih =>
    obtain ⟨k, v⟩ := e
    simp only [keysFrom, Bool.and_eq_true, decide_eq_true_eq] at h
    unfold smPut
    split
    · next hk =>
      simp only [keysFrom, Bool.and_eq_true, decide_eq_true_eq]
      exact ⟨hi, by omega, h.2⟩
    · split
      · next hk => subst hk; simp [keysFrom, h.1, h.2]
      · simp only [keysFrom, Bool.and_eq_true, decide_eq_true_eq]
        exact ⟨h.1, ih (k + 1) (by omega) h.2⟩

theorem keysFrom_smDel (m : SMap β) (lo i : Nat) (h : keysFrom lo m = true) : keysFrom lo (smDel m i) = true := by
  induction m generalizing lo with
  | nil => rfl
  | cons e m ih =>
    obtain ⟨k, v⟩ := e
    simp only [keysFrom, Bool.and_eq_true, decide_eq_true_eq] at h
    unfold smDel
    split
    · exact ih lo (keysFrom_mono lo (k + 1) m (by omega) h.2)
    · simp only [keysFrom, Bool.and_eq_true, decide_eq_true_eq]
      exact ⟨h.1, ih (k + 1) h.2⟩

theorem all_smPut (m : SMap β) (i : Nat) (x : β) (p : Nat × β → Bool) (hx : p (i, x) = true) (h : m.all p = true) :
    (smPut m i x).all p = true := by
  induction m with
  | nil => simp [smPut, hx]
  | cons e m ih =>
    obtain ⟨k, v⟩ := e
    simp only [List.all_cons, Bool.and_eq_true] at h
    unfold smPut
    split
    · simp only [List.all_cons, Bool.and_eq_true]; exact ⟨hx, h.1, h.2⟩
    · split
      · simp only [List.all_cons, Bool.and_eq_true]; exact ⟨hx, h.2⟩
      · simp only [List.all_cons, Bool.and_eq_true]; exact ⟨h.1, ih h.2⟩

theorem all_smDel (m : SMap β) (i : Nat) (p : Nat × β → Bool) (h : m.all p = true) : (smDel m i).all p = true := by
  induction m with
  | nil => rfl
  | cons e m ih =>
    obtain ⟨k, v⟩ := e
    simp only [List.all_cons, Bool.and_eq_true] at h
    unfold smDel
    split
    · exact ih h.2
    · simp only [List.all_cons, Bool.and_eq_true]; exact ⟨h.1, ih h.2⟩

/-- A write keeps the canonical form of a table. -/
theorem smWf_smSet [DecidableEq β] (d : β) (m : SMap β) (i : Nat) (x : β) (h : smWf d m = true) :
    smWf d (smSet d m i x) = true := by
  simp only [smWf, Bool.and_eq_true] at h ⊢
  unfold smSet
  split
  · exact ⟨keysFrom_smDel m 0 i h.1, all_smDel m i _ h.2⟩
  · next hx => exact ⟨keysFrom_smPut m 0 i x (by omega) h.1, all_smPut m i x _ (by simp [hx]) h.2⟩

theorem smWf_nil [DecidableEq β] (d : β) : smWf d ([] : SMap β) = true := rfl

/-- Keeping some entries of a table keeps its keys rising. -/
theorem keysFrom_filter (m : SMap β) (lo : Nat) (p : Nat × β → Bool) (h : keysFrom lo m = true) :
    keysFrom lo (m.filter p) = true := by
  induction m generalizing lo with
  | nil => rfl
  | cons e m ih =>
    obtain ⟨k, v⟩ := e
    simp only [keysFrom, Bool.and_eq_true, decide_eq_true_eq] at h
    rw [List.filter_cons]
    split
    · simp only [keysFrom, Bool.and_eq_true, decide_eq_true_eq]; exact ⟨h.1, ih (k + 1) h.2⟩
    · exact ih lo (keysFrom_mono lo (k + 1) m (by omega) h.2)

/-- What a table lists satisfies what all its entries satisfy. -/
theorem all_of_smLook (m : SMap β) (i : Nat) (x : β) (p : β → Bool) (h : m.all (fun e => p e.2) = true)
    (hx : smLook m i = some x) : p x = true := by
  induction m with
  | nil => simp at hx
  | cons e m ih =>
    obtain ⟨k, v⟩ := e
    simp only [List.all_cons, Bool.and_eq_true] at h
    unfold smLook at hx
    split at hx
    · cases hx; exact h.1
    · exact ih h.2 hx

/-! ### Bit fields -/

/-- A field written reads back, cut to its width. -/
theorem bitsOf_setBits_same (x hi lo v : Nat) : bitsOf (setBits x hi lo v) hi lo = v % 2 ^ (hi + 1 - lo) := by
  unfold setBits bitsOf
  generalize hw : 2 ^ (hi + 1 - lo) = W
  generalize hl : 2 ^ lo = L
  have hL : 0 < L := by rw [← hl]; exact Nat.two_pow_pos lo
  have hW : 0 < W := by rw [← hw]; exact Nat.two_pow_pos _
  set q := x / L with hq
  set r := x % L with hr
  have hx : x = q * L + r := by rw [hq, hr, Nat.mul_comm]; exact (Nat.div_add_mod x L).symm
  have hle : q % W * L ≤ q * L := Nat.mul_le_mul_right L (Nat.mod_le q W)
  have hrL : r < L := Nat.mod_lt x hL
  have e1 : x - q % W * L + v % W * L = ((q - q % W) + v % W) * L + r := by
    have : (q - q % W) * L = q * L - q % W * L := Nat.sub_mul q (q % W) L
    rw [Nat.add_mul, this]; omega
  rw [e1, Nat.add_comm, Nat.add_mul_div_right r _ hL, Nat.div_eq_of_lt hrL, Nat.zero_add]
  have e2 : q - q % W = q / W * W := by
    have := Nat.div_add_mod q W
    rw [Nat.mul_comm] at this; omega
  rw [e2, Nat.add_comm, Nat.add_mul_mod_self_right, Nat.mod_mod]

/-- A field write leaves the bits above it and below it. -/
theorem bitsOf_setBits_ne (x hi lo v hi' lo' : Nat) (hlo : lo ≤ hi + 1) (h : hi < lo' ∨ hi' < lo) :
    bitsOf (setBits x hi lo v) hi' lo' = bitsOf x hi' lo' := by
  unfold setBits
  have hb : bitsOf x hi lo * 2 ^ lo ≤ x := by
    unfold bitsOf
    calc x / 2 ^ lo % 2 ^ (hi + 1 - lo) * 2 ^ lo ≤ x / 2 ^ lo * 2 ^ lo := Nat.mul_le_mul_right _ (Nat.mod_le _ _)
      _ ≤ x := Nat.div_mul_le_self x _
  rcases h with h | h
  · -- above: both are the part of x above bit hi
    have key : ∀ y : Nat, y < 2 ^ (hi + 1 - lo) →
        (x - bitsOf x hi lo * 2 ^ lo + y * 2 ^ lo) / 2 ^ lo' = x / 2 ^ lo' := by
      intro y hy
      have h1 : x - bitsOf x hi lo * 2 ^ lo + y * 2 ^ lo
          = x % 2 ^ lo + y * 2 ^ lo + x / 2 ^ (hi + 1) * 2 ^ (hi + 1) := by
        have d1 := Nat.div_add_mod x (2 ^ lo)
        have d2 := Nat.div_add_mod (x / 2 ^ lo) (2 ^ (hi + 1 - lo))
        have d3 : x / 2 ^ lo / 2 ^ (hi + 1 - lo) = x / 2 ^ (hi + 1) := by
          rw [Nat.div_div_eq_div_mul, ← Nat.pow_add]; congr 2; omega
        have d4 : (2 : Nat) ^ (hi + 1) = 2 ^ lo * 2 ^ (hi + 1 - lo) := by
          rw [← Nat.pow_add]; congr 1; omega
        unfold bitsOf at hb ⊢
        rw [d3] at d2
        have d5 : x / 2 ^ (hi + 1) * 2 ^ (hi + 1) + x / 2 ^ lo % 2 ^ (hi + 1 - lo) * 2 ^ lo + x % 2 ^ lo = x := by
          calc x / 2 ^ (hi + 1) * 2 ^ (hi + 1) + x / 2 ^ lo % 2 ^ (hi + 1 - lo) * 2 ^ lo + x % 2 ^ lo
              = 2 ^ lo * (2 ^ (hi + 1 - lo) * (x / 2 ^ (hi + 1)) + x / 2 ^ lo % 2 ^ (hi + 1 - lo)) + x % 2 ^ lo := by
                rw [d4]; ring
            _ = x := by rw [d2, d1]
        omega
      have hlt : x % 2 ^ lo + y * 2 ^ lo < 2 ^ (hi + 1) := by
        have a1 : x % 2 ^ lo < 2 ^ lo := Nat.mod_lt _ (Nat.two_pow_pos lo)
        have a2 : (y + 1) * 2 ^ lo ≤ 2 ^ (hi + 1 - lo) * 2 ^ lo := Nat.mul_le_mul_right _ hy
        have a3 : (2 : Nat) ^ (hi + 1 - lo) * 2 ^ lo = 2 ^ (hi + 1) := by rw [← Nat.pow_add]; congr 1; omega
        rw [Nat.add_mul] at a2; omega
      have e : (2 : Nat) ^ lo' = 2 ^ (hi + 1) * 2 ^ (lo' - (hi + 1)) := by rw [← Nat.pow_add]; congr 1; omega
      rw [h1, e, ← Nat.div_div_eq_div_mul, ← Nat.div_div_eq_div_mul, Nat.add_mul_div_right _ _ (Nat.two_pow_pos _),
        Nat.div_eq_of_lt hlt, Nat.zero_add]
    unfold bitsOf at *
    rw [key _ (Nat.mod_lt _ (Nat.two_pow_pos _))]
  · -- below: both agree modulo 2 ^ lo
    unfold bitsOf at *
    have hm : (x - x / 2 ^ lo % 2 ^ (hi + 1 - lo) * 2 ^ lo + v % 2 ^ (hi + 1 - lo) * 2 ^ lo) % 2 ^ lo = x % 2 ^ lo := by
      rw [Nat.add_mul_mod_self_right]
      conv_rhs => rw [← Nat.sub_add_cancel hb, Nat.add_mul_mod_self_right]
    generalize x - x / 2 ^ lo % 2 ^ (hi + 1 - lo) * 2 ^ lo + v % 2 ^ (hi + 1 - lo) * 2 ^ lo = y at hm
    by_cases hh : hi' + 1 ≤ lo'
    · have : hi' + 1 - lo' = 0 := by omega
      simp [this, Nat.mod_one]
    · have hp : (2 : Nat) ^ lo = 2 ^ lo' * 2 ^ (hi' + 1 - lo') * 2 ^ (lo - (hi' + 1)) := by
        rw [← Nat.pow_add, ← Nat.pow_add]; congr 1; omega
      have cut : ∀ z : Nat, z / 2 ^ lo' % 2 ^ (hi' + 1 - lo') = z % 2 ^ lo % (2 ^ lo' * 2 ^ (hi' + 1 - lo')) / 2 ^ lo' := by
        intro z
        rw [hp, Nat.mod_mul_right_mod, Nat.mod_mul_right_div_self]
      rw [cut, hm, ← cut]

/-- A field write fits where the word did. -/
theorem setBits_lt (x hi lo v n : Nat) (hlo : lo ≤ hi + 1) (hn : hi < n) (hx : x < 2 ^ n) : setBits x hi lo v < 2 ^ n := by
  by_contra hge
  have h1 : 0 < setBits x hi lo v / 2 ^ n := Nat.div_pos (by omega) (Nat.two_pow_pos n)
  have k := bitsOf_setBits_ne x hi lo v (setBits x hi lo v + n) n hlo (Or.inl hn)
  unfold bitsOf at k
  rw [Nat.div_eq_of_lt hx, Nat.zero_mod, Nat.mod_eq_of_lt] at k
  · omega
  · exact lt_of_le_of_lt (Nat.div_le_self _ _)
      (lt_of_lt_of_le Nat.lt_two_pow_self (Nat.pow_le_pow_right (by omega) (by omega)))

end Sys2Proof.Machine
end

