-- ==== Sys2Proof/Laws/Registers.lean ====
section
/-! SUPPORT. Laws of the hub's registers and sessions: what a read gives after a write, and what a write leaves. -/

namespace Sys2Proof.Machine.Hub

/-! ### Whole registers -/

@[simp] theorem reg_setReg_same (h : Hub) (a : Nat) (v : W64) : (h.setReg a v).reg a = v := by
  simp [reg, setReg]

theorem reg_setReg_ne (h : Hub) (a b : Nat) (v : W64) (hb : b ≠ a) : (h.setReg a v).reg b = h.reg b := by
  simp [reg, setReg, smGet_smSet_ne _ _ _ _ _ _ hb]

/-- A register other than the one that holds the field keeps its value. -/
theorem reg_pi_ne (h : Hub) (f : Fld) (i v b : Nat) (hb : b ≠ f.a + f.stride * i) : (h.pi f i v).reg b = h.reg b :=
  reg_setReg_ne h _ b _ hb

/-! ### Fields -/

/-- Two fields share no bit. -/
def apart (f : Fld) (i : Nat) (f' : Fld) (j : Nat) : Bool :=
  f'.a + f'.stride * j != f.a + f.stride * i || decide (f.hi < f'.lo) || decide (f'.hi < f.lo)

/-- A field lies within its register. -/
def inWord (f : Fld) : Bool := decide (f.lo ≤ f.hi) && decide (f.hi < 64)

/-- A field written reads back, cut to its width. -/
theorem gi_pi_same (h : Hub) (f : Fld) (i v : Nat) (hf : inWord f = true) :
    (h.pi f i v).gi f i = v % 2 ^ (f.hi + 1 - f.lo) := by
  simp only [inWord, Bool.and_eq_true, decide_eq_true_eq] at hf
  unfold gi pi
  rw [reg_setReg_same, BitVec.toNat_ofNat, Nat.mod_eq_of_lt, bitsOf_setBits_same]
  exact setBits_lt _ _ _ _ _ (by omega) hf.2 (BitVec.isLt _)

/-- A field write leaves every field that shares no bit with it. -/
theorem gi_pi_ne (h : Hub) (f f' : Fld) (i j v : Nat) (hf : inWord f = true) (ha : apart f i f' j = true) :
    (h.pi f i v).gi f' j = h.gi f' j := by
  simp only [inWord, Bool.and_eq_true, decide_eq_true_eq] at hf
  simp only [apart, Bool.or_eq_true, bne_iff_ne, decide_eq_true_eq] at ha
  unfold gi
  by_cases he : f'.a + f'.stride * j = f.a + f.stride * i
  · rw [he]
    unfold pi
    rw [reg_setReg_same, BitVec.toNat_ofNat, Nat.mod_eq_of_lt, bitsOf_setBits_ne]
    · omega
    · rcases ha with (ha | ha) | ha
      · exact absurd he ha
      · exact Or.inl ha
      · exact Or.inr ha
    · exact setBits_lt _ _ _ _ _ (by omega) hf.2 (BitVec.isLt _)
  · rw [reg_pi_ne h f i v _ he]

/-- A field written reads back, cut to its width. -/
theorem g_p_same (h : Hub) (f : Fld) (v : Nat) (hf : inWord f = true) : (h.p f v).g f = v % 2 ^ (f.hi + 1 - f.lo) :=
  gi_pi_same h f 0 v hf

/-- A field write leaves every field that shares no bit with it. -/
theorem g_p_ne (h : Hub) (f f' : Fld) (v : Nat) (hf : inWord f = true) (ha : apart f 0 f' 0 = true) :
    (h.p f v).g f' = h.g f' :=
  gi_pi_ne h f f' 0 0 v hf ha

theorem gi_p_ne (h : Hub) (f f' : Fld) (j v : Nat) (hf : inWord f = true) (ha : apart f 0 f' j = true) :
    (h.p f v).gi f' j = h.gi f' j :=
  gi_pi_ne h f f' 0 j v hf ha

theorem g_pi_ne (h : Hub) (f f' : Fld) (i v : Nat) (hf : inWord f = true) (ha : apart f i f' 0 = true) :
    (h.pi f i v).g f' = h.g f' :=
  gi_pi_ne h f f' i 0 v hf ha

/-- A one-bit field set to 1 is on. -/
theorem on_p_same (h : Hub) (f : Fld) (hf : inWord f = true) : (h.p f 1).on f = true := by
  have hw := hf
  simp only [inWord, Bool.and_eq_true, decide_eq_true_eq] at hw
  unfold on
  rw [g_p_same h f 1 hf, Nat.mod_eq_of_lt]
  · rfl
  · have : 2 ^ 1 ≤ 2 ^ (f.hi + 1 - f.lo) := Nat.pow_le_pow_right (by omega) (by omega)
    omega

theorem on_p_ne (h : Hub) (f f' : Fld) (v : Nat) (hf : inWord f = true) (ha : apart f 0 f' 0 = true) :
    (h.p f v).on f' = h.on f' := by
  unfold on; rw [g_p_ne h f f' v hf ha]

/-- A counter below its maximum rises by what is added to it. -/
theorem gi_inci_same (h : Hub) (f : Fld) (i n : Nat) (hf : inWord f = true) :
    (h.inci f i n).gi f i = satAdd (f.hi + 1 - f.lo) (h.gi f i) n := by
  unfold inci
  rw [gi_pi_same h f i _ hf, Nat.mod_eq_of_lt]
  unfold satAdd
  have := Nat.two_pow_pos (f.hi + 1 - f.lo)
  omega

theorem gi_inci_ne (h : Hub) (f f' : Fld) (i j n : Nat) (hf : inWord f = true) (ha : apart f i f' j = true) :
    (h.inci f i n).gi f' j = h.gi f' j :=
  gi_pi_ne h f f' i j _ hf ha

theorem g_inc_same (h : Hub) (f : Fld) (n : Nat) (hf : inWord f = true) :
    (h.inc f n).g f = satAdd (f.hi + 1 - f.lo) (h.g f) n :=
  gi_inci_same h f 0 n hf

theorem g_inc_ne (h : Hub) (f f' : Fld) (n : Nat) (hf : inWord f = true) (ha : apart f 0 f' 0 = true) :
    (h.inc f n).g f' = h.g f' :=
  gi_pi_ne h f f' 0 0 _ hf ha

/-! ### Sessions -/

theorem toNat_ne_of_ne {i j : Handle} (h : j ≠ i) : j.toNat ≠ i.toNat := fun e => h (BitVec.eq_of_toNat_eq e)

@[simp] theorem s_setS_same (h : Hub) (i : Handle) (x : Sess) : (h.setS i x).s i = x := by
  simp [s, setS]

theorem s_setS_ne (h : Hub) (i j : Handle) (x : Sess) (hj : j ≠ i) : (h.setS i x).s j = h.s j := by
  simp [s, setS, smGet_smSet_ne _ _ _ _ _ _ (toNat_ne_of_ne hj)]

@[simp] theorem s_modS_same (h : Hub) (i : Handle) (f : Sess → Sess) : (h.modS i f).s i = f (h.s i) := by
  simp [modS]

theorem s_modS_ne (h : Hub) (i j : Handle) (f : Sess → Sess) (hj : j ≠ i) : (h.modS i f).s j = h.s j :=
  s_setS_ne h i j _ hj

@[simp] theorem s_modR_same (h : Hub) (i : Handle) (f : Rec → Rec) :
    (h.modR i f).s i = { h.s i with r := f (h.s i).r } := by
  simp [modR]

theorem s_modR_ne (h : Hub) (i j : Handle) (f : Rec → Rec) (hj : j ≠ i) : (h.modR i f).s j = h.s j :=
  s_setS_ne h i j _ hj

end Sys2Proof.Machine.Hub
end

