-- ==== Sys2Proof/Laws/Ops.lean ====
section
/-! SUPPORT. What the shared operations on the hub can change: reports (interrupts, events, records, host accesses) leave the
hub beside reports alone, a transition changes one session, and what closes a command only sends and forgets. -/

namespace Sys2Proof.Machine

namespace Hub

variable (h : Hub)

/-! ### Registers, interrupts and outputs -/

@[simp] theorem calm_setReg (a : Nat) (v : W64) : (h.setReg a v).calm = h.calm := rfl
@[simp] theorem calm_pi (f : Fld) (i v : Nat) : (h.pi f i v).calm = h.calm := rfl
@[simp] theorem calm_p (f : Fld) (v : Nat) : (h.p f v).calm = h.calm := rfl
@[simp] theorem calm_inci (f : Fld) (i n : Nat) : (h.inci f i n).calm = h.calm := rfl
@[simp] theorem calm_inc (f : Fld) (n : Nat) : (h.inc f n).calm = h.calm := rfl
@[simp] theorem calm_emit (o : Out) : (h.emit o).calm = h.calm := rfl

@[simp] theorem calm_fire (v : BitVec 6) : (h.fire v).calm = h.calm := by
  unfold fire; dsimp only; split <;> rfl

@[simp] theorem calm_signal (v : BitVec 6) : (h.signal v).calm = h.calm := by simp [signal]

@[simp] theorem calm_flag (f : Fld) (v : BitVec 6) : (h.flag f v).calm = h.calm := by simp [flag]

@[simp] theorem calm_visible (v : BitVec 6) : (h.visible v).calm = h.calm := by
  unfold visible; dsimp only; split
  · rw [calm_fire, calm_p]; rfl
  · rfl

theorem still_of_calm {a b : Hub} (e : a.calm = b.calm) : a.still = b.still := by
  have : ∀ x : Hub, x.still = x.calm.still := fun _ => rfl
  rw [this a, this b, e]

/-- A signal changes registers, interrupt vectors and outputs; of the registers only INTCAUSE. -/
theorem reg_fire (v : BitVec 6) (a : Nat) : (h.fire v).reg a = h.reg a := by
  unfold fire; dsimp only; split <;> rfl

theorem reg_signal_ne (v : BitVec 6) (a : Nat) (ha : a ≠ F.INTCAUSE_cause.a) : (h.signal v).reg a = h.reg a := by
  unfold signal; dsimp only
  rw [reg_fire]
  exact reg_pi_ne h F.INTCAUSE_cause 0 _ a (by simpa using ha)

theorem gi_signal_ne (v : BitVec 6) (f : Fld) (j : Nat) (ha : f.a + f.stride * j ≠ F.INTCAUSE_cause.a) :
    (h.signal v).gi f j = h.gi f j := by
  unfold gi; rw [reg_signal_ne h v _ ha]

theorem g_signal_ne (v : BitVec 6) (f : Fld) (ha : f.a + f.stride * 0 ≠ F.INTCAUSE_cause.a) :
    (h.signal v).g f = h.g f := gi_signal_ne h v f 0 ha

/-- A status bit that is set and signalled is on. -/
theorem on_flag_same (f : Fld) (v : BitVec 6) (hf : inWord f = true) (ha : f.a + f.stride * 0 ≠ F.INTCAUSE_cause.a) :
    (h.flag f v).on f = true := by
  unfold flag on
  rw [g_signal_ne _ v f ha]
  exact on_p_same h f hf

/-! ### Reports -/

@[simp] theorem still_setReg (a : Nat) (v : W64) : (h.setReg a v).still = h.still := rfl
@[simp] theorem still_pi (f : Fld) (i v : Nat) : (h.pi f i v).still = h.still := rfl
@[simp] theorem still_p (f : Fld) (v : Nat) : (h.p f v).still = h.still := rfl
@[simp] theorem still_inci (f : Fld) (i n : Nat) : (h.inci f i n).still = h.still := rfl
@[simp] theorem still_inc (f : Fld) (n : Nat) : (h.inc f n).still = h.still := rfl
@[simp] theorem still_emit (o : Out) : (h.emit o).still = h.still := rfl
@[simp] theorem still_signal (v : BitVec 6) : (h.signal v).still = h.still := still_of_calm (calm_signal h v)
@[simp] theorem still_flag (f : Fld) (v : BitVec 6) : (h.flag f v).still = h.still := still_of_calm (calm_flag h f v)
@[simp] theorem still_visible (v : BitVec 6) : (h.visible v).still = h.still := still_of_calm (calm_visible h v)
@[simp] theorem still_fresh : h.fresh.2.still = h.still := rfl

@[simp] theorem still_devEv (code die data status : Nat) : (h.devEv code die data status).still = h.still := rfl

@[simp] theorem still_fireAt (p : Nat) (m : Inj → Bool) : (h.fireAt p m).2.still = h.still := by
  unfold fireAt; dsimp only; split
  · rfl
  · simp; rfl

@[simp] theorem still_fireInj (p : Nat) (m : Inj → Bool) : (h.fireInj p m).2.still = h.still := still_fireAt h p m

@[simp] theorem still_setRing (st : Bool) (p : Nat) (x : Ring) : (h.setRing st p x).still = h.still := by
  unfold setRing; split <;> rfl

@[simp] theorem still_hostWrite (w : WrWait) : (h.hostWrite w).still = h.still := rfl

@[simp] theorem still_hostRead (a : W64) (n : Nat) (w : RdWait) : (h.hostRead a n w).still = h.still := rfl

@[simp] theorem still_pads (base phase pos n fuel : Nat) : (h.pads base phase pos n fuel).still = h.still := by
  induction fuel generalizing h pos n with
  | zero => rfl
  | succ k ih =>
    unfold pads; split
    · rfl
    · rw [ih]; simp

@[simp] theorem still_hostPaid (p n : Nat) : (h.hostPaid p n).still = h.still := by
  unfold hostPaid; split <;> rfl

/-- Sealing a record changes its tenant's context alone. -/
theorem still_envelope (r : Rcd) (b : Bytes) (h' : Hub) (e : h.envelope r = some (b, h')) : h'.still = h.still := by
  unfold envelope at e
  split at e
  · cases e; rfl
  · split at e
    · cases e
    · cases e; rfl

@[simp] theorem still_ringLimit (st : Bool) (p : Nat) : (h.ringLimit st p).still = h.still := by
  unfold ringLimit; dsimp only; split
  · simp
  · split <;> simp

@[simp] theorem still_ringWrite (st : Bool) (p : Nat) (r : Rcd) (b : Bytes) (n : Nat) :
    (h.ringWrite st p r b n).still = h.still := by
  unfold ringWrite; dsimp only; split
  · split <;> simp
  · simp

@[simp] theorem still_recCheck (st : Bool) (p : Nat) : (h.recCheck st p).2.still = h.still := by
  unfold recCheck; dsimp only
  generalize (p + if st then 16 else 0) = k
  split
  · simp
  · split
    · generalize hq : (Hub.flag _ _ _).fireInj _ _ = q
      have : q.2.still = h.still := by rw [← hq]; simp
      exact this
    · simp

@[simp] theorem still_drainOne (st : Bool) (p : Nat) : (h.drainOne st p).2.still = h.still := by
  unfold drainOne; dsimp only
  split
  · rfl
  · split
    · rfl
    · split
      · split
        · rfl
        · next b h1 e =>
          have e1 := still_envelope h _ b h1 e
          split <;> simp [e1]
      · split <;> simp

@[simp] theorem still_drain (st : Bool) (p fuel : Nat) : (h.drain st p fuel).still = h.still := by
  induction fuel generalizing h with
  | zero => rfl
  | succ k ih =>
    unfold drain; dsimp only; split
    · rw [ih]; simp
    · simp

@[simp] theorem still_pushRec (st : Bool) (p : Nat) (r : Rcd) : (h.pushRec st p r).still = h.still := by
  simp [pushRec]

/-- Completing a command changes nothing beside reports. -/
@[simp] theorem still_complete (c : Sub) (st : BitVec 8) (d : Nat) (n : W64) : (h.complete c st d n).still = h.still := by
  unfold complete; split <;> simp

@[simp] theorem still_notice (i : Handle) (code data : Nat) : (h.notice i code data).still = h.still := by
  simp [notice]

/-! ### What follows from agreement beside reports -/

theorem nt_of_still {a b : Hub} (e : a.still = b.still) : a.nt = b.nt := by
  have q := congrArg Hub.nt e; exact q
theorem ntEver_of_still {a b : Hub} (e : a.still = b.still) : a.ntEver = b.ntEver := by
  have q := congrArg Hub.ntEver e; exact q
theorem sess_of_still {a b : Hub} (e : a.still = b.still) : a.sess = b.sess := by
  have q := congrArg Hub.sess e; exact q
theorem gens_of_still {a b : Hub} (e : a.still = b.still) : a.gens = b.gens := by
  have q := congrArg Hub.gens e; exact q
theorem wins_of_still {a b : Hub} (e : a.still = b.still) : a.wins = b.wins := by
  have q := congrArg Hub.wins e; exact q
theorem keySlots_of_still {a b : Hub} (e : a.still = b.still) : a.keySlots = b.keySlots := by
  have q := congrArg Hub.keySlots e; exact q
theorem durs_of_still {a b : Hub} (e : a.still = b.still) : a.durs = b.durs := by
  have q := congrArg Hub.durs e; exact q
theorem hopq_of_still {a b : Hub} (e : a.still = b.still) : a.hopq = b.hopq := by
  have q := congrArg Hub.hopq e; exact q
theorem quant_of_still {a b : Hub} (e : a.still = b.still) : a.quant = b.quant := by
  have q := congrArg Hub.quant e; exact q
theorem seqq_of_still {a b : Hub} (e : a.still = b.still) : a.seqq = b.seqq := by
  have q := congrArg Hub.seqq e; exact q
theorem seqMap_of_still {a b : Hub} (e : a.still = b.still) : a.seqMap = b.seqMap := by
  have q := congrArg Hub.seqMap e; exact q
theorem seqSpare_of_still {a b : Hub} (e : a.still = b.still) : a.seqSpare = b.seqSpare := by
  have q := congrArg Hub.seqSpare e; exact q
theorem im_of_still {a b : Hub} (e : a.still = b.still) : a.im = b.im := by
  have q := congrArg Hub.im e; exact q
theorem kv_of_still {a b : Hub} (e : a.still = b.still) : a.kv = b.kv := by
  have q := congrArg Hub.kv e; exact q
theorem grp_of_still {a b : Hub} (e : a.still = b.still) : a.grp = b.grp := by
  have q := congrArg Hub.grp e; exact q
theorem rcmp_of_still {a b : Hub} (e : a.still = b.still) : a.rcmp = b.rcmp := by
  have q := congrArg Hub.rcmp e; exact q
theorem migIn_of_still {a b : Hub} (e : a.still = b.still) : a.migIn = b.migIn := by
  have q := congrArg Hub.migIn e; exact q
theorem mirrors_of_still {a b : Hub} (e : a.still = b.still) : a.mirrors = b.mirrors := by
  have q := congrArg Hub.mirrors e; exact q
theorem msgId_of_still {a b : Hub} (e : a.still = b.still) : a.msgId = b.msgId := by
  have q := congrArg Hub.msgId e; exact q
theorem ports_of_still {a b : Hub} (e : a.still = b.still) : a.ports = b.ports := by
  have q := congrArg Hub.ports e; exact q
theorem landing_of_still {a b : Hub} (e : a.still = b.still) : a.landing = b.landing := by
  have q := congrArg Hub.landing e; exact q
theorem redOwn_of_still {a b : Hub} (e : a.still = b.still) : a.redOwn = b.redOwn := by
  have q := congrArg Hub.redOwn e; exact q
theorem reasm_of_still {a b : Hub} (e : a.still = b.still) : a.reasm = b.reasm := by
  have q := congrArg Hub.reasm e; exact q
theorem resFails_of_still {a b : Hub} (e : a.still = b.still) : a.resFails = b.resFails := by
  have q := congrArg Hub.resFails e; exact q
theorem retired_of_still {a b : Hub} (e : a.still = b.still) : a.retired = b.retired := by
  have q := congrArg Hub.retired e; exact q
theorem chCopy_of_still {a b : Hub} (e : a.still = b.still) : a.chCopy = b.chCopy := by
  have q := congrArg Hub.chCopy e; exact q
theorem chReady_of_still {a b : Hub} (e : a.still = b.still) : a.chReady = b.chReady := by
  have q := congrArg Hub.chReady e; exact q
theorem ck_of_still {a b : Hub} (e : a.still = b.still) : a.ck = b.ck := by
  have q := congrArg Hub.ck e; exact q
theorem pw_of_still {a b : Hub} (e : a.still = b.still) : a.pw = b.pw := by
  have q := congrArg Hub.pw e; exact q
theorem nf_of_still {a b : Hub} (e : a.still = b.still) : a.nf = b.nf := by
  have q := congrArg Hub.nf e; exact q
theorem aix_of_still {a b : Hub} (e : a.still = b.still) : a.aix = b.aix := by
  have q := congrArg Hub.aix e; exact q
theorem gr_of_still {a b : Hub} (e : a.still = b.still) : a.gr = b.gr := by
  have q := congrArg Hub.gr e; exact q
theorem qn_of_still {a b : Hub} (e : a.still = b.still) : a.qn = b.qn := by
  have q := congrArg Hub.qn e; exact q

theorem s_of_still {a b : Hub} (e : a.still = b.still) (i : Handle) : a.s i = b.s i := by
  have : a.sess = b.sess := sess_of_still e
  unfold s; rw [this]

@[simp] theorem s_complete (c : Sub) (st : BitVec 8) (d : Nat) (n : W64) (i : Handle) : (h.complete c st d n).s i = h.s i :=
  s_of_still (still_complete h c st d n) i

@[simp] theorem s_notice (k : Handle) (code data : Nat) (i : Handle) : (h.notice k code data).s i = h.s i :=
  s_of_still (still_notice h k code data) i

@[simp] theorem s_signal (v : BitVec 6) (i : Handle) : (h.signal v).s i = h.s i := s_of_still (still_signal h v) i
@[simp] theorem s_flag (f : Fld) (v : BitVec 6) (i : Handle) : (h.flag f v).s i = h.s i := s_of_still (still_flag h f v) i
@[simp] theorem s_devEv (code die data status : Nat) (i : Handle) : (h.devEv code die data status).s i = h.s i :=
  s_of_still (still_devEv h code die data status) i
@[simp] theorem s_hostWrite (w : WrWait) (i : Handle) : (h.hostWrite w).s i = h.s i := s_of_still (still_hostWrite h w) i
@[simp] theorem s_hostRead (a : W64) (n : Nat) (w : RdWait) (i : Handle) : (h.hostRead a n w).s i = h.s i :=
  s_of_still (still_hostRead h a n w) i
@[simp] theorem s_pushRec (st : Bool) (p : Nat) (r : Rcd) (i : Handle) : (h.pushRec st p r).s i = h.s i :=
  s_of_still (still_pushRec h st p r) i
@[simp] theorem s_fireInj (p : Nat) (m : Inj → Bool) (i : Handle) : (h.fireInj p m).2.s i = h.s i :=
  s_of_still (still_fireInj h p m) i

/-- Completing a command at the next quantum keeps every session. -/
@[simp] theorem s_completeQ (c : Sub) (st : BitVec 8) (d : Nat) (n : W64) (i : Handle) :
    (h.completeQ c st d n).s i = h.s i := by
  unfold completeQ; split
  · rfl
  · simp

/-! ### Transitions -/

/-- A journal entry of a session raises its record's JSEQ and changes no other session. -/
theorem s_jent_same (i : Handle) (code : Nat) (a b : BitVec 4) (data : Nat) :
    (h.jent i code a b data).s i = { h.s i with r := { (h.s i).r with jseq := (h.s i).r.jseq + 1 } } := by
  unfold jent; dsimp only
  rw [s_modR_same]; rfl

theorem s_jent_ne (i j : Handle) (code : Nat) (a b : BitVec 4) (data : Nat) (hj : j ≠ i) :
    (h.jent i code a b data).s j = h.s j := by
  unfold jent; dsimp only
  rw [s_modR_ne _ i j _ hj]; rfl

/-- What a transition leaves in its session (R37, R39, R50). -/
theorem s_trans_same (i : Handle) (dst : BitVec 4) (st : BitVec 8) (code data : Nat) :
    (h.trans i dst st code data).s i =
      { h.s i with r := { (h.s i).r with prior := (h.s i).r.state, state := dst, lastStatus := st
                                         hstatus := if dst == S.halted then st else (h.s i).r.hstatus
                                         jseq := (h.s i).r.jseq + 1 } } := by
  unfold trans; dsimp only
  split <;> simp [s_jent_same]

theorem s_trans_ne (i j : Handle) (dst : BitVec 4) (st : BitVec 8) (code data : Nat) (hj : j ≠ i) :
    (h.trans i dst st code data).s j = h.s j := by
  unfold trans; dsimp only
  split <;> simp [s_jent_ne _ i j _ _ _ _ hj, s_modR_ne _ i j _ hj]

/-- An event recorded without a transition leaves the record but for JSEQ. -/
theorem s_record_same (i : Handle) (code data : Nat) :
    (h.record i code data).s i = { h.s i with r := { (h.s i).r with jseq := (h.s i).r.jseq + 1 } } := by
  unfold record; dsimp only
  split <;> simp [s_jent_same]

theorem s_record_ne (i j : Handle) (code data : Nat) (hj : j ≠ i) : (h.record i code data).s j = h.s j := by
  unfold record; dsimp only
  split <;> simp [s_jent_ne _ i j _ _ _ _ hj]

/-! ### What closes a command -/

/-- The output pins that follow the state only send. -/
theorem pinPass_eq (old : Hub) : ∃ o : List Out, pinPass old h = { h with out := h.out ++ o } := by
  unfold pinPass
  generalize ((pinLevels old).zip (pinLevels h)).zipIdx = l
  induction l generalizing h with
  | nil => exact ⟨[], by simp⟩
  | cons e l ih =>
    rw [List.foldl_cons]
    split
    · exact ih h
    · obtain ⟨o, ho⟩ := ih (h.emit (.pin (BitVec.ofNat 2 e.2) e.1.2))
      exact ⟨Out.pin (BitVec.ofNat 2 e.2) e.1.2 :: o, by rw [ho]; simp [emit]⟩

/-- Invalidated tickets leave the snoop filter and are sent. -/
theorem snoopPass_eq (old : Hub) :
    ∃ (n : List Handle) (o : List Out), snoopPass old h = { h with snoop := n, out := h.out ++ o } := by
  unfold snoopPass; dsimp only
  split
  · exact ⟨h.snoop, [], by simp⟩
  · exact ⟨_, _, rfl⟩

/-- What closes a command changes the snoop filter and what is sent, and nothing else, unless a record failed its check
twice. -/
theorem finish_eq (old : Hub) (hb : h.hubBad = false) :
    ∃ (n : List Handle) (o : List Out), finish old h = { h with snoop := n, out := h.out ++ o } := by
  unfold finish
  rw [if_neg (by simp [hb])]
  obtain ⟨n, o, e⟩ := snoopPass_eq h old
  rw [e]
  obtain ⟨o', e'⟩ := pinPass_eq ({ h with snoop := n, out := h.out ++ o } : Hub) old
  refine ⟨n, o ++ o', ?_⟩
  rw [e', ← List.append_assoc]

end Hub

/-- A hub command answers a next state in which only the hub has changed. -/
theorem onHub_eq (t : Nt) (f : Hub → Hub) (s : State) :
    onHub t f s = .next { s with hub := Hub.finish s.hub (f (s.hub.stamp t)) } := rfl

/-- A hub command whose effect leaves the check of its records good answers that effect, beside tickets invalidated and things
sent. -/
theorem onHub_next (t : Nt) (f : Hub → Hub) (s : State) (hb : (f (s.hub.stamp t)).hubBad = false) :
    ∃ (n : List Handle) (o : List Out),
      onHub t f s = .next { s with hub := { f (s.hub.stamp t) with snoop := n, out := (f (s.hub.stamp t)).out ++ o } } := by
  obtain ⟨n, o, e⟩ := Hub.finish_eq (f (s.hub.stamp t)) s.hub hb
  exact ⟨n, o, by rw [onHub_eq, e]⟩

end Sys2Proof.Machine
end

