-- ==== Sys2Proof/Laws/Reports.lean ====
section
/-! SUPPORT. What reports and the entry into a group fault leave: the hub's other state, every session's record, and every
register but those that reports write. What closes a command leaves the same. -/

namespace Sys2Proof.Machine

/-! ### Mapped tables -/

theorem smLook_map {β γ : Type} (m : SMap β) (f : β → γ) (i : Nat) :
    smLook (m.map (fun e => (e.1, f e.2))) i = (smLook m i).map f := by
  induction m with
  | nil => rfl
  | cons e m ih =>
    obtain ⟨k, v⟩ := e
    simp only [List.map_cons, smLook]
    split
    · rfl
    · exact ih

namespace Hub

variable (h : Hub)

/-- A fold keeps what each of its steps keeps. -/
theorem foldl_keeps {α γ : Type} (φ : Hub → γ) (f : Hub → α → Hub) (hf : ∀ h e, φ (f h e) = φ h) (l : List α) :
    φ (l.foldl f h) = φ h := by
  induction l generalizing h with
  | nil => rfl
  | cons e l ih => rw [List.foldl_cons, ih, hf]

/-! ### Registers that reports leave -/

/-- The report registers by their place. -/
theorem notReport {a : Nat} (ha : a ∉ reportRegs) :
    a ≠ F.INTCAUSE_cause.a ∧ a ≠ F.INTSTAT_rec_check.a ∧ a ≠ F.INTINJFIRE_count.a ∧ a ≠ F.TRRECS_count.a ∧
    a ≠ F.TRSTOPS_count.a ∧ a ≠ F.DGDJPOS_position.a ∧ a ≠ F.POOLSTAT_group_fault.a ∧ a ≠ F.INTFAULT_cause.a ∧
    a ≠ F.INTFAULTNT_nt.a ∧
    (∀ p < 16, a ≠ F.CMPPROD_p.a + F.CMPPROD_p.stride * p) ∧ (∀ p < 16, a ≠ F.STRPROD_p.a + F.STRPROD_p.stride * p) ∧
    (∀ p < 16, a ≠ F.CMPSTAT_overflow.a + F.CMPSTAT_overflow.stride * p) ∧
    (∀ p < 16, a ≠ F.STRSTAT_blocked.a + F.STRSTAT_blocked.stride * p) := by
  simp only [reportRegs, List.mem_append, List.mem_cons, List.mem_map, List.mem_range, not_or, not_exists, not_and,
    List.not_mem_nil, not_false_eq_true, and_true] at ha
  obtain ⟨⟨⟨⟨⟨h1, h2, h3, h4, h5, h6, h7, h8, h9⟩, c⟩, d⟩, e⟩, f⟩ := ha
  exact ⟨h1, h2, h3, h4, h5, h6, h7, h8, h9, fun p hp e' => c p hp e'.symm, fun p hp e' => d p hp e'.symm,
    fun p hp e' => e p hp e'.symm, fun p hp e' => f p hp e'.symm⟩

variable {a : Nat}

theorem reg_p_ne (f : Fld) (v : Nat) (ha : a ≠ f.a) : (h.p f v).reg a = h.reg a :=
  reg_pi_ne h f 0 v a (by simpa using ha)

theorem reg_signal (v : BitVec 6) (ha : a ∉ reportRegs) : (h.signal v).reg a = h.reg a :=
  reg_signal_ne h v a (notReport ha).1

theorem reg_flag (f : Fld) (v : BitVec 6) (ha : a ∉ reportRegs) (hf : a ≠ f.a) : (h.flag f v).reg a = h.reg a := by
  unfold flag; rw [reg_signal _ v ha, reg_p_ne h f 1 hf]

theorem reg_devEv (code die data status : Nat) (ha : a ∉ reportRegs) :
    (h.devEv code die data status).reg a = h.reg a := by
  unfold devEv; dsimp only
  rw [reg_p_ne _ _ _ (notReport ha).2.2.2.2.2.1]; rfl

theorem reg_fireAt (p : Nat) (m : Inj → Bool) (ha : a ∉ reportRegs) : (h.fireAt p m).2.reg a = h.reg a := by
  unfold fireAt; dsimp only; split
  · rfl
  · unfold inc inci
    rw [reg_pi_ne _ _ _ _ _ (by simpa using (notReport ha).2.2.1), reg_devEv _ _ _ _ _ ha]; rfl

theorem reg_fireInj (p : Nat) (m : Inj → Bool) (ha : a ∉ reportRegs) : (h.fireInj p m).2.reg a = h.reg a :=
  reg_fireAt h p m ha

theorem reg_setRing (st : Bool) (p : Nat) (x : Ring) : (h.setRing st p x).reg a = h.reg a := by
  unfold setRing; split <;> rfl

theorem reg_pads (base phase pos n fuel : Nat) : (h.pads base phase pos n fuel).reg a = h.reg a := by
  induction fuel generalizing h pos n with
  | zero => rfl
  | succ k ih =>
    unfold pads; split
    · rfl
    · rw [ih]; rfl

theorem reg_hostPaid (p n : Nat) : (h.hostPaid p n).reg a = h.reg a := by
  unfold hostPaid; split <;> rfl

theorem reg_envelope (r : Rcd) (b : Bytes) (h' : Hub) (e : h.envelope r = some (b, h')) : h'.reg a = h.reg a := by
  unfold envelope at e
  split at e
  · cases e; rfl
  · split at e
    · cases e
    · cases e; rfl

theorem reg_ringLimit (st : Bool) (p : Nat) (hp : p < 16) (ha : a ∉ reportRegs) :
    (h.ringLimit st p).reg a = h.reg a := by
  obtain ⟨-, -, -, -, -, -, -, -, -, -, -, hc, hs⟩ := notReport ha
  have hne : a ≠ (ringRegs st).stat.a + (ringRegs st).stat.stride * p := by
    cases st
    · exact hc p hp
    · exact hs p hp
  unfold ringLimit; dsimp only; split
  · exact reg_pi_ne _ _ _ _ _ hne
  · split
    · exact reg_pi_ne _ _ _ _ _ hne
    · rfl

theorem reg_ringWrite (st : Bool) (p : Nat) (r : Rcd) (b : Bytes) (n : Nat) (hp : p < 16) (ha : a ∉ reportRegs) :
    (h.ringWrite st p r b n).reg a = h.reg a := by
  obtain ⟨-, -, -, hr, hst, -, -, -, -, hc, hs, -, -⟩ := notReport ha
  have hne : a ≠ (ringRegs st).prod.a + (ringRegs st).prod.stride * p := by
    cases st
    · exact hc p hp
    · exact hs p hp
  unfold ringWrite
  extract_lets R n P base phase h1 P' data addr h2 h3 h4
  have e3 : h3.reg a = h.reg a := by
    show (Hub.hostPaid _ _ _).reg a = _
    rw [reg_hostPaid, reg_pi_ne _ _ _ _ _ hne]
    show (Hub.pads _ _ _ _ _ _).reg a = _
    rw [reg_pads]
  have e4 : h4.reg a = h.reg a := by
    show (h3.inc F.TRRECS_count).reg a = _
    unfold inc inci
    rw [reg_pi_ne _ _ _ _ _ (by simpa using hr), e3]
  split
  · split
    · unfold inc inci
      rw [reg_pi_ne _ _ _ _ _ (by simpa using hst), e4]
    · exact e4
  · exact e3

theorem reg_recCheck (st : Bool) (p : Nat) (ha : a ∉ reportRegs) : (h.recCheck st p).2.reg a = h.reg a := by
  unfold recCheck; dsimp only
  generalize (p + if st then 16 else 0) = k
  split
  · exact reg_fireInj h _ _ ha
  · generalize hq : (Hub.flag _ _ _).fireInj _ _ = q
    have e : q.2.reg a = h.reg a := by
      rw [← hq, reg_fireInj _ _ _ ha, reg_flag _ _ _ ha (notReport ha).2.1, reg_fireInj _ _ _ ha]
    split
    · exact e
    · exact e

theorem reg_drainOne (st : Bool) (p : Nat) (hp : p < 16) (ha : a ∉ reportRegs) :
    (h.drainOne st p).2.reg a = h.reg a := by
  unfold drainOne; dsimp only
  split
  · rfl
  · split
    · rfl
    · split
      · split
        · rfl
        · next b h1 e =>
          have e1 := reg_envelope h (a := a) _ b h1 e
          split
          · dsimp only
            rw [reg_ringWrite _ _ _ _ _ _ hp ha, reg_setRing, reg_recCheck _ _ _ ha, e1]
          · dsimp only
            rw [reg_recCheck _ _ _ ha, e1]
      · split
        · rfl
        · dsimp only
          rw [reg_emit, reg_setRing]

theorem reg_drain (st : Bool) (p fuel : Nat) (hp : p < 16) (ha : a ∉ reportRegs) :
    (h.drain st p fuel).reg a = h.reg a := by
  induction fuel generalizing h with
  | zero => rfl
  | succ k ih =>
    unfold drain; dsimp only; split
    · rw [ih, reg_drainOne h st p hp ha]
    · exact reg_drainOne h st p hp ha

theorem reg_pushRec (st : Bool) (p : Nat) (r : Rcd) (hp : p < 16) (ha : a ∉ reportRegs) :
    (h.pushRec st p r).reg a = h.reg a := by
  unfold pushRec; dsimp only
  rw [reg_ringLimit _ _ _ hp ha, reg_drain _ _ _ _ hp ha, reg_setRing]

/-- Completing a command leaves every register that is no report register. -/
theorem reg_complete (c : Sub) (st : BitVec 8) (d : Nat) (n : W64) (ha : a ∉ reportRegs) :
    (h.complete c st d n).reg a = h.reg a := by
  unfold complete; split
  · rfl
  · exact reg_pushRec h _ _ _ c.part.isLt ha

theorem reg_completeQ (c : Sub) (st : BitVec 8) (d : Nat) (n : W64) (ha : a ∉ reportRegs) :
    (h.completeQ c st d n).reg a = h.reg a := by
  unfold completeQ; split
  · rfl
  · exact reg_complete h c st d n ha

theorem reg_notice (i : Handle) (code data : Nat) (ha : a ∉ reportRegs) : (h.notice i code data).reg a = h.reg a := by
  unfold notice; dsimp only
  exact reg_pushRec h _ _ _ (h.s i).r.part.isLt ha

/-! ### The entry into a group fault -/

theorem rest_of_still {a b : Hub} (e : a.still = b.still) : a.rest = b.rest := by
  have hr : ∀ x : Hub, x.rest = { x.still with
      sess := [], hopq := [], aix := { x.still.aix with held := [] }
      grp := { x.still.grp with cur := none, prev := none, frames := [], ready := none }
      ck := { x.still.ck with forced := [], faultNt := none } } := fun _ => rfl
  rw [hr a, hr b, e]

@[simp] theorem rest_complete (c : Sub) (st : BitVec 8) (d : Nat) (n : W64) : (h.complete c st d n).rest = h.rest :=
  rest_of_still (still_complete h c st d n)

theorem rest_emit (o : Out) : (h.emit o).rest = h.rest := rfl
@[simp] theorem rest_modS (i : Handle) (f : Sess → Sess) : (h.modS i f).rest = h.rest := rfl
@[simp] theorem rest_modR (i : Handle) (f : Rec → Rec) : (h.modR i f).rest = h.rest := rfl

/-- Waiting commands that end with ST_DEVICE_FAULT leave the rest. -/
theorem rest_failHeld : h.failHeld.rest = h.rest := by
  unfold failHeld
  extract_lets h1 h2 h3 h4 clear t
  have e1 : h1.rest = h.rest := foldl_keeps h Hub.rest _ (fun h e => foldl_keeps h Hub.rest _ (fun h c => rest_complete h _ _ _ _) _) _
  have e2 : h2.rest = h.rest := by
    refine (foldl_keeps h1 Hub.rest _ (fun h q => ?_) _).trans e1
    split
    · exact rest_complete h _ _ _ _
    · rfl
  have e3 : h3.rest = h.rest := (foldl_keeps h2 Hub.rest _ (fun h q => rest_modS h _ _) _).trans e2
  have e4 : h4.rest = h.rest := (foldl_keeps h3 Hub.rest _ (fun h c => rest_complete h _ _ _ _) _).trans e3
  rw [← e4]; rfl

theorem kept_smGet (m : SMap Sess) (f : Sess → Sess) (hf : ∀ x, (f x).kept = x.kept) (k : Nat) :
    (smGet {} (m.map (fun e => (e.1, f e.2))) k).kept = (smGet {} m k).kept := by
  unfold smGet
  rw [smLook_map]
  cases smLook m k with
  | none => rfl
  | some x => exact hf x

theorem kept_failHeld (i : Handle) : (h.failHeld.s i).kept = (h.s i).kept := by
  unfold failHeld
  extract_lets h1 h2 h3 h4 clear t
  have e1 : (h1.s i).kept = (h.s i).kept :=
    foldl_keeps h (fun h => (h.s i).kept) _ (fun h e => foldl_keeps h (fun h => (h.s i).kept) _ (fun h c => by rw [s_complete]) _) _
  have e2 : (h2.s i).kept = (h.s i).kept := by
    refine (foldl_keeps h1 (fun h => (h.s i).kept) _ (fun h q => ?_) _).trans e1
    split
    · rw [s_complete]
    · rfl
  have e3 : (h3.s i).kept = (h.s i).kept := by
    refine (foldl_keeps h2 (fun h => (h.s i).kept) _ (fun h q => ?_) _).trans e2
    by_cases hq : i = q.h
    · subst hq; rw [s_modS_same]; rfl
    · rw [s_modS_ne _ _ _ _ hq]
  have e4 : (h4.s i).kept = (h.s i).kept :=
    (foldl_keeps h3 (fun h => (h.s i).kept) _ (fun h c => by rw [s_complete]) _).trans e3
  rw [← e4]
  exact kept_smGet h4.sess clear (fun x => rfl) i.toNat

theorem reg_failHeld (ha : a ∉ reportRegs) : h.failHeld.reg a = h.reg a := by
  unfold failHeld
  extract_lets h1 h2 h3 h4 clear t
  have e1 : h1.reg a = h.reg a :=
    foldl_keeps h (fun h => h.reg a) _ (fun h e => foldl_keeps h (fun h => h.reg a) _ (fun h c => reg_complete h _ _ _ _ ha) _) _
  have e2 : h2.reg a = h.reg a := by
    refine (foldl_keeps h1 (fun h => h.reg a) _ (fun h q => ?_) _).trans e1
    split
    · exact reg_complete h _ _ _ _ ha
    · rfl
  have e3 : h3.reg a = h.reg a := (foldl_keeps h2 (fun h => h.reg a) _ (fun h q => reg_modS h _ _ _) _).trans e2
  have e4 : h4.reg a = h.reg a := (foldl_keeps h3 (fun h => h.reg a) _ (fun h c => reg_complete h _ _ _ _ ha) _).trans e3
  rw [← e4]; rfl

theorem rest_enterFault (cause dev : Nat) : (h.enterFault cause dev).rest = h.rest := by
  unfold enterFault; split
  · rfl
  · extract_lets h1 h2 h3 h4 h5
    have e : h5.rest = h.rest := (rest_failHeld _).trans (rest_of_still (by simp [h4, h3, h2, h1]))
    clear_value h5
    rw [← e]; rfl

theorem kept_enterFault (cause dev : Nat) (i : Handle) : ((h.enterFault cause dev).s i).kept = (h.s i).kept := by
  unfold enterFault; split
  · rfl
  · extract_lets h1 h2 h3 h4 h5
    have e : (h5.s i).kept = (h.s i).kept := (kept_failHeld _ i).trans (by simp [h4, h3, h2, h1])
    clear_value h5
    rw [← e]; rfl

theorem reg_enterFault (cause dev : Nat) (ha : a ∉ reportRegs) : (h.enterFault cause dev).reg a = h.reg a := by
  obtain ⟨hc, hi, -, -, -, -, hp, hf, hn, -⟩ := notReport ha
  unfold enterFault; split
  · rfl
  · extract_lets h1 h2 h3 h4 h5
    have e : h5.reg a = h.reg a := by
      refine (reg_failHeld _ ha).trans ?_
      rw [reg_signal _ _ ha]
      refine (reg_devEv _ _ _ _ _ ha).trans ?_
      simp only [h3, h2, h1]
      rw [reg_p_ne _ F.INTFAULTNT_nt _ hn, reg_p_ne _ F.INTFAULT_step _ hf, reg_p_ne _ F.INTFAULT_device _ hf,
        reg_p_ne _ F.INTFAULT_cause _ hf, reg_p_ne _ F.INTSTAT_group_fault _ hi, reg_p_ne _ F.POOLSTAT_group_fault _ hp]
    clear_value h5
    rw [← e]; rfl

/-- Raising a group fault leaves the rest of the hub. -/
theorem rest_raiseFault (cause : Nat) : (h.raiseFault cause).rest = h.rest := by
  unfold raiseFault; split
  · rfl
  · exact (foldl_keeps _ Hub.rest _ (fun h _ => rest_emit h _) _).trans (rest_enterFault h _ _)

theorem kept_raiseFault (cause : Nat) (i : Handle) : ((h.raiseFault cause).s i).kept = (h.s i).kept := by
  unfold raiseFault; split
  · rfl
  · exact (foldl_keeps _ (fun h => (h.s i).kept) _ (fun h _ => congrArg Sess.kept (s_emit h _ i)) _).trans (kept_enterFault h _ _ i)

theorem reg_raiseFault (cause : Nat) (ha : a ∉ reportRegs) : (h.raiseFault cause).reg a = h.reg a := by
  unfold raiseFault; split
  · rfl
  · exact (foldl_keeps _ (fun h => h.reg a) _ (fun h _ => reg_emit h _ a) _).trans (reg_enterFault h _ _ ha)

/-! ### What closes a command -/

theorem closing (old : Hub) :
    ∃ (n : List Handle) (o : List Out), finish old h =
      { (if h.hubBad then ({ h with hubBad := false } : Hub).raiseFault 0xA else h) with
        snoop := n, out := (if h.hubBad then ({ h with hubBad := false } : Hub).raiseFault 0xA else h).out ++ o } := by
  unfold finish
  generalize (if h.hubBad then ({ h with hubBad := false } : Hub).raiseFault 0xA else h) = k
  obtain ⟨n, o, e⟩ := snoopPass_eq k old
  rw [e]
  obtain ⟨o', e'⟩ := pinPass_eq ({ k with snoop := n, out := k.out ++ o } : Hub) old
  refine ⟨n, o ++ o', ?_⟩
  rw [e', ← List.append_assoc]

/-- What closes a command leaves all that reports and the entry into a group fault leave. -/
@[simp] theorem rest_finish (old : Hub) : (finish old h).rest = h.rest := by
  obtain ⟨n, o, e⟩ := closing h old
  rw [e]
  split
  · have := rest_raiseFault ({ h with hubBad := false } : Hub) 0xA
    exact this
  · rfl

/-- What closes a command leaves every session, but for the commands that wait on it. -/
@[simp] theorem kept_finish (old : Hub) (i : Handle) : ((finish old h).s i).kept = (h.s i).kept := by
  obtain ⟨n, o, e⟩ := closing h old
  rw [e]
  split
  · have := kept_raiseFault ({ h with hubBad := false } : Hub) 0xA i
    exact this
  · rfl

/-- What closes a command leaves every record. -/
@[simp] theorem rec_finish (old : Hub) (i : Handle) : ((finish old h).s i).r = (h.s i).r := by
  have := congrArg Sess.r (kept_finish h old i)
  exact this

@[simp] theorem s_share_finish (old : Hub) (i : Handle) : ((finish old h).s i).share = (h.s i).share := by
  have q := congrArg Sess.share (kept_finish h old i); exact q
@[simp] theorem s_born_finish (old : Hub) (i : Handle) : ((finish old h).s i).born = (h.s i).born := by
  have q := congrArg Sess.born (kept_finish h old i); exact q
@[simp] theorem s_pendIn_finish (old : Hub) (i : Handle) : ((finish old h).s i).pendIn = (h.s i).pendIn := by
  have q := congrArg Sess.pendIn (kept_finish h old i); exact q
@[simp] theorem s_seen_finish (old : Hub) (i : Handle) : ((finish old h).s i).seen = (h.s i).seen := by
  have q := congrArg Sess.seen (kept_finish h old i); exact q
@[simp] theorem s_fwd_finish (old : Hub) (i : Handle) : ((finish old h).s i).fwd = (h.s i).fwd := by
  have q := congrArg Sess.fwd (kept_finish h old i); exact q
@[simp] theorem s_stack_finish (old : Hub) (i : Handle) : ((finish old h).s i).stack = (h.s i).stack := by
  have q := congrArg Sess.stack (kept_finish h old i); exact q
@[simp] theorem s_logbuf_finish (old : Hub) (i : Handle) : ((finish old h).s i).logbuf = (h.s i).logbuf := by
  have q := congrArg Sess.logbuf (kept_finish h old i); exact q
@[simp] theorem s_held_finish (old : Hub) (i : Handle) : ((finish old h).s i).held = (h.s i).held := by
  have q := congrArg Sess.held (kept_finish h old i); exact q
@[simp] theorem s_relOff_finish (old : Hub) (i : Handle) : ((finish old h).s i).relOff = (h.s i).relOff := by
  have q := congrArg Sess.relOff (kept_finish h old i); exact q
@[simp] theorem s_rest_finish (old : Hub) (i : Handle) : ((finish old h).s i).rest = (h.s i).rest := by
  have q := congrArg Sess.rest (kept_finish h old i); exact q
@[simp] theorem s_durable_finish (old : Hub) (i : Handle) : ((finish old h).s i).durable = (h.s i).durable := by
  have q := congrArg Sess.durable (kept_finish h old i); exact q
@[simp] theorem s_log_finish (old : Hub) (i : Handle) : ((finish old h).s i).log = (h.s i).log := by
  have q := congrArg Sess.log (kept_finish h old i); exact q
@[simp] theorem s_logBad_finish (old : Hub) (i : Handle) : ((finish old h).s i).logBad = (h.s i).logBad := by
  have q := congrArg Sess.logBad (kept_finish h old i); exact q
@[simp] theorem s_flushing_finish (old : Hub) (i : Handle) : ((finish old h).s i).flushing = (h.s i).flushing := by
  have q := congrArg Sess.flushing (kept_finish h old i); exact q
@[simp] theorem s_runnable_finish (old : Hub) (i : Handle) : ((finish old h).s i).runnable = (h.s i).runnable := by
  have q := congrArg Sess.runnable (kept_finish h old i); exact q
@[simp] theorem s_xarea_finish (old : Hub) (i : Handle) : ((finish old h).s i).xarea = (h.s i).xarea := by
  have q := congrArg Sess.xarea (kept_finish h old i); exact q
@[simp] theorem s_blk_finish (old : Hub) (i : Handle) : ((finish old h).s i).blk = (h.s i).blk := by
  have q := congrArg Sess.blk (kept_finish h old i); exact q
@[simp] theorem s_stepReq_finish (old : Hub) (i : Handle) : ((finish old h).s i).stepReq = (h.s i).stepReq := by
  have q := congrArg Sess.stepReq (kept_finish h old i); exact q
@[simp] theorem s_pfReq_finish (old : Hub) (i : Handle) : ((finish old h).s i).pfReq = (h.s i).pfReq := by
  have q := congrArg Sess.pfReq (kept_finish h old i); exact q
@[simp] theorem s_relHeld_finish (old : Hub) (i : Handle) : ((finish old h).s i).relHeld = (h.s i).relHeld := by
  have q := congrArg Sess.relHeld (kept_finish h old i); exact q
@[simp] theorem s_dropHeld_finish (old : Hub) (i : Handle) : ((finish old h).s i).dropHeld = (h.s i).dropHeld := by
  have q := congrArg Sess.dropHeld (kept_finish h old i); exact q
@[simp] theorem s_dropPos_finish (old : Hub) (i : Handle) : ((finish old h).s i).dropPos = (h.s i).dropPos := by
  have q := congrArg Sess.dropPos (kept_finish h old i); exact q
@[simp] theorem s_waitHit_finish (old : Hub) (i : Handle) : ((finish old h).s i).waitHit = (h.s i).waitHit := by
  have q := congrArg Sess.waitHit (kept_finish h old i); exact q
@[simp] theorem s_park_finish (old : Hub) (i : Handle) : ((finish old h).s i).park = (h.s i).park := by
  have q := congrArg Sess.park (kept_finish h old i); exact q
@[simp] theorem s_revive_finish (old : Hub) (i : Handle) : ((finish old h).s i).revive = (h.s i).revive := by
  have q := congrArg Sess.revive (kept_finish h old i); exact q
@[simp] theorem s_demote_finish (old : Hub) (i : Handle) : ((finish old h).s i).demote = (h.s i).demote := by
  have q := congrArg Sess.demote (kept_finish h old i); exact q
@[simp] theorem s_migOut_finish (old : Hub) (i : Handle) : ((finish old h).s i).migOut = (h.s i).migOut := by
  have q := congrArg Sess.migOut (kept_finish h old i); exact q
@[simp] theorem s_queued_finish (old : Hub) (i : Handle) : ((finish old h).s i).queued = (h.s i).queued := by
  have q := congrArg Sess.queued (kept_finish h old i); exact q
@[simp] theorem s_probe_finish (old : Hub) (i : Handle) : ((finish old h).s i).probe = (h.s i).probe := by
  have q := congrArg Sess.probe (kept_finish h old i); exact q
@[simp] theorem s_extent_finish (old : Hub) (i : Handle) : ((finish old h).s i).extent = (h.s i).extent := by
  have q := congrArg Sess.extent (kept_finish h old i); exact q
@[simp] theorem s_exthdr_finish (old : Hub) (i : Handle) : ((finish old h).s i).exthdr = (h.s i).exthdr := by
  have q := congrArg Sess.exthdr (kept_finish h old i); exact q
@[simp] theorem s_kvx_finish (old : Hub) (i : Handle) : ((finish old h).s i).kvx = (h.s i).kvx := by
  have q := congrArg Sess.kvx (kept_finish h old i); exact q

/-- What closes a command leaves every register that is no report register. -/
theorem reg_finish (old : Hub) (ha : a ∉ reportRegs) : (finish old h).reg a = h.reg a := by
  obtain ⟨n, o, e⟩ := closing h old
  rw [e]
  split
  · have := reg_raiseFault ({ h with hubBad := false } : Hub) 0xA ha
    exact this
  · rfl

theorem gi_finish (old : Hub) (f : Fld) (j : Nat) (ha : f.a + f.stride * j ∉ reportRegs) :
    (finish old h).gi f j = h.gi f j := by
  unfold gi; rw [reg_finish h old ha]

theorem g_finish (old : Hub) (f : Fld) (ha : f.a + f.stride * 0 ∉ reportRegs) : (finish old h).g f = h.g f :=
  gi_finish h old f 0 ha

theorem on_finish (old : Hub) (f : Fld) (ha : f.a + f.stride * 0 ∉ reportRegs) : (finish old h).on f = h.on f := by
  unfold on; rw [g_finish h old f ha]

/-! ### Fields that what closes a command leaves -/

@[simp] theorem nt_finish (old : Hub) : (finish old h).nt = h.nt := by
  have q := congrArg Hub.nt (rest_finish h old); exact q
@[simp] theorem ntEver_finish (old : Hub) : (finish old h).ntEver = h.ntEver := by
  have q := congrArg Hub.ntEver (rest_finish h old); exact q
@[simp] theorem gens_finish (old : Hub) : (finish old h).gens = h.gens := by
  have q := congrArg Hub.gens (rest_finish h old); exact q
@[simp] theorem wins_finish (old : Hub) : (finish old h).wins = h.wins := by
  have q := congrArg Hub.wins (rest_finish h old); exact q
@[simp] theorem keySlots_finish (old : Hub) : (finish old h).keySlots = h.keySlots := by
  have q := congrArg Hub.keySlots (rest_finish h old); exact q
@[simp] theorem durs_finish (old : Hub) : (finish old h).durs = h.durs := by
  have q := congrArg Hub.durs (rest_finish h old); exact q
@[simp] theorem quant_finish (old : Hub) : (finish old h).quant = h.quant := by
  have q := congrArg Hub.quant (rest_finish h old); exact q
@[simp] theorem seqq_finish (old : Hub) : (finish old h).seqq = h.seqq := by
  have q := congrArg Hub.seqq (rest_finish h old); exact q
@[simp] theorem seqMap_finish (old : Hub) : (finish old h).seqMap = h.seqMap := by
  have q := congrArg Hub.seqMap (rest_finish h old); exact q
@[simp] theorem seqSpare_finish (old : Hub) : (finish old h).seqSpare = h.seqSpare := by
  have q := congrArg Hub.seqSpare (rest_finish h old); exact q
@[simp] theorem im_finish (old : Hub) : (finish old h).im = h.im := by
  have q := congrArg Hub.im (rest_finish h old); exact q
@[simp] theorem kv_finish (old : Hub) : (finish old h).kv = h.kv := by
  have q := congrArg Hub.kv (rest_finish h old); exact q
@[simp] theorem rcmp_finish (old : Hub) : (finish old h).rcmp = h.rcmp := by
  have q := congrArg Hub.rcmp (rest_finish h old); exact q
@[simp] theorem migIn_finish (old : Hub) : (finish old h).migIn = h.migIn := by
  have q := congrArg Hub.migIn (rest_finish h old); exact q
@[simp] theorem mirrors_finish (old : Hub) : (finish old h).mirrors = h.mirrors := by
  have q := congrArg Hub.mirrors (rest_finish h old); exact q
@[simp] theorem msgId_finish (old : Hub) : (finish old h).msgId = h.msgId := by
  have q := congrArg Hub.msgId (rest_finish h old); exact q
@[simp] theorem ports_finish (old : Hub) : (finish old h).ports = h.ports := by
  have q := congrArg Hub.ports (rest_finish h old); exact q
@[simp] theorem landing_finish (old : Hub) : (finish old h).landing = h.landing := by
  have q := congrArg Hub.landing (rest_finish h old); exact q
@[simp] theorem redOwn_finish (old : Hub) : (finish old h).redOwn = h.redOwn := by
  have q := congrArg Hub.redOwn (rest_finish h old); exact q
@[simp] theorem reasm_finish (old : Hub) : (finish old h).reasm = h.reasm := by
  have q := congrArg Hub.reasm (rest_finish h old); exact q
@[simp] theorem resFails_finish (old : Hub) : (finish old h).resFails = h.resFails := by
  have q := congrArg Hub.resFails (rest_finish h old); exact q
@[simp] theorem retired_finish (old : Hub) : (finish old h).retired = h.retired := by
  have q := congrArg Hub.retired (rest_finish h old); exact q
@[simp] theorem chCopy_finish (old : Hub) : (finish old h).chCopy = h.chCopy := by
  have q := congrArg Hub.chCopy (rest_finish h old); exact q
@[simp] theorem chReady_finish (old : Hub) : (finish old h).chReady = h.chReady := by
  have q := congrArg Hub.chReady (rest_finish h old); exact q
@[simp] theorem pw_finish (old : Hub) : (finish old h).pw = h.pw := by
  have q := congrArg Hub.pw (rest_finish h old); exact q
@[simp] theorem nf_finish (old : Hub) : (finish old h).nf = h.nf := by
  have q := congrArg Hub.nf (rest_finish h old); exact q
@[simp] theorem aix_finish (old : Hub) : { (finish old h).aix with held := [] } = { h.aix with held := [] } := by
  have q := congrArg Hub.aix (rest_finish h old); exact q
@[simp] theorem gr_finish (old : Hub) : (finish old h).gr = h.gr := by
  have q := congrArg Hub.gr (rest_finish h old); exact q
@[simp] theorem qn_finish (old : Hub) : (finish old h).qn = h.qn := by
  have q := congrArg Hub.qn (rest_finish h old); exact q

/-- What closes a command leaves the group's state but for the step in progress. -/
theorem grp_finish (old : Hub) :
    { (finish old h).grp with cur := none, prev := none, frames := [], ready := none } =
      { h.grp with cur := none, prev := none, frames := [], ready := none } := by
  have q := congrArg Hub.grp (rest_finish h old); exact q

theorem ck_finish (old : Hub) :
    { (finish old h).ck with forced := [], faultNt := none } = { h.ck with forced := [], faultNt := none } := by
  have q := congrArg Hub.ck (rest_finish h old); exact q

theorem sec_finish (old : Hub) : { (finish old h).sec with ctx := [] } = { h.sec with ctx := [] } := by
  have q := congrArg Hub.sec (rest_finish h old); exact q

theorem sl_finish (old : Hub) : { (finish old h).sl with hTok := [] } = { h.sl with hTok := [] } := by
  have q := congrArg Hub.sl (rest_finish h old); exact q

end Hub

end Sys2Proof.Machine
end

