-- ==== Sys2Proof/Laws/Scratch.lean ====
section
/-! SUPPORT. Laws of a stone's scratch: a line or an FP32 element read after a write, the lines a write leaves, and what issue and
poison leave. -/

namespace Sys2Proof.Machine

namespace Stone

variable (s : Stone)

@[simp] theorem line_setLine_same (i : Nat) (v : BitVec 512) : (s.setLine i v).line i = v := by
  simp [line, setLine]

theorem line_setLine_ne (i j : Nat) (v : BitVec 512) (h : j ≠ i) : (s.setLine i v).line j = s.line j := by
  simp [line, setLine, smGet_smSet_ne _ _ _ _ _ _ h]

@[simp] theorem line_setPoison (i n : Nat) (p : Bool) (k : Nat) : (s.setPoison i n p).line k = s.line k := rfl
@[simp] theorem line_issue (u : SlotUse) (k : Nat) : (s.issue u).line k = s.line k := rfl
@[simp] theorem f32_setPoison (i n : Nat) (p : Bool) (a k : Nat) : (s.setPoison i n p).f32 a k = s.f32 a k := rfl
@[simp] theorem f32_issue (u : SlotUse) (a k : Nat) : (s.issue u).f32 a k = s.f32 a k := rfl
@[simp] theorem lines_issue (u : SlotUse) : (s.issue u).lines = s.lines := rfl
@[simp] theorem lines_setPoison (i n : Nat) (p : Bool) : (s.setPoison i n p).lines = s.lines := rfl
@[simp] theorem poison_issue (u : SlotUse) : (s.issue u).poison = s.poison := rfl

/-! The poison marks of a stone are no part of its contents. -/

@[simp] theorem line_poison (p : List Nat) (k : Nat) : Stone.line { s with poison := p } k = s.line k := rfl
@[simp] theorem f32_poison (p : List Nat) (i k : Nat) : Stone.f32 { s with poison := p } i k = s.f32 i k := rfl
@[simp] theorem f32s_poison (p : List Nat) (i n : Nat) : Stone.f32s { s with poison := p } i n = s.f32s i n := rfl
@[simp] theorem bitsAt_poison (p : List Nat) (i o w : Nat) : Stone.bitsAt { s with poison := p } i o w = s.bitsAt i o w := rfl
@[simp] theorem rowVals_poison (p : List Nat) (i f n : Nat) : rowVals { s with poison := p } i f n = rowVals s i f n := rfl

/-- An element of a mapped list. -/
theorem map_getD {α β : Type} (f : α → β) (l : List α) (k : Nat) (d : β) (e : α) (h : k < l.length) :
    (l.map f).getD k d = f (l.getD k e) := by
  simp [h]

/-- Of `n` FP32 elements read the k-th is the k-th element. -/
theorem f32s_getD (i n k : Nat) (hk : k < n) : (s.f32s i n).getD k 0 = s.f32 i k := by
  simp [f32s, hk]

@[simp] theorem length_f32s (i n : Nat) : (s.f32s i n).length = n := by simp [f32s]

/-- Bits that lie below a second part are those of the first. -/
theorem low_bits (A B n o : Nat) (h : o + 32 ≤ n) : (A + B * 2 ^ n) / 2 ^ o % 2 ^ 32 = A / 2 ^ o % 2 ^ 32 := by
  have hp : (2 : Nat) ^ n = 2 ^ (n - o - 32) * 2 ^ 32 * 2 ^ o := by
    rw [← Nat.pow_add, ← Nat.pow_add]; congr 1; omega
  rw [hp, ← Nat.mul_assoc, Nat.add_mul_div_right _ _ (Nat.two_pow_pos _), ← Nat.mul_assoc, Nat.add_mul_mod_self_right]

/-- An FP32 element lies within one line. -/
theorem f32_eq (i k : Nat) :
    s.f32 i k = BitVec.ofNat 32 (bitsOf (s.line (i + k / 16)).toNat (32 * (k % 16) + 31) (32 * (k % 16))) := by
  unfold f32 bitsAt bitsOf
  dsimp only
  have e1 : 32 * k / 512 = k / 16 := by omega
  have e2 : 32 * k % 512 = 32 * (k % 16) := by omega
  have hk : k % 16 < 16 := Nat.mod_lt _ (by decide)
  have e3 : 32 * (k % 16) + 31 + 1 - 32 * (k % 16) = 32 := by omega
  rw [e1, e2, e3, low_bits _ _ 512 _ (by omega)]

/-- A stone with the same lines has the same FP32 elements. -/
theorem f32_congr (a b : Stone) (i k : Nat) (h : a.line (i + k / 16) = b.line (i + k / 16)) : a.f32 i k = b.f32 i k := by
  rw [f32_eq, f32_eq, h]

/-! ### Lines built from FP32 elements -/

theorem packFold (l : List F32) (k acc : Nat) (hk : k + l.length ≤ 16) (ha : acc < 2 ^ 512) :
    (l.zipIdx k).foldl (fun acc e => setBits acc (32 * e.2 + 31) (32 * e.2) e.1.toNat) acc < 2 ^ 512 ∧
    ∀ j < 16, bitsOf ((l.zipIdx k).foldl (fun acc e => setBits acc (32 * e.2 + 31) (32 * e.2) e.1.toNat) acc)
        (32 * j + 31) (32 * j) =
      if k ≤ j ∧ j < k + l.length then (l.getD (j - k) 0).toNat else bitsOf acc (32 * j + 31) (32 * j) := by
  induction l generalizing k acc with
  | nil => exact ⟨ha, fun j _ => by simp⟩
  | cons x l ih =>
    simp only [List.length_cons] at hk
    have hb : setBits acc (32 * k + 31) (32 * k) x.toNat < 2 ^ 512 :=
      setBits_lt _ _ _ _ _ (by omega) (by omega) ha
    obtain ⟨h1, h2⟩ := ih (k + 1) (setBits acc (32 * k + 31) (32 * k) x.toNat) (by omega) hb
    simp only [List.zipIdx_cons, List.foldl_cons]
    refine ⟨h1, fun j hj => ?_⟩
    rw [h2 j hj]
    by_cases hjk : j = k
    · subst hjk
      rw [if_neg (by omega), if_pos (by simp), bitsOf_setBits_same]
      have : 32 * j + 31 + 1 - 32 * j = 32 := by omega
      simp [this]
      exact x.isLt
    · by_cases hin : k + 1 ≤ j ∧ j < k + 1 + l.length
      · rw [if_pos hin, if_pos (by simp only [List.length_cons]; omega)]
        have : j - k = (j - (k + 1)) + 1 := by omega
        rw [this, List.getD_cons_succ]
      · rw [if_neg hin, if_neg (by simp only [List.length_cons]; omega)]
        exact bitsOf_setBits_ne _ _ _ _ _ _ (by omega) (by omega)

theorem bits_packLine (old : BitVec 512) (l : List F32) (hl : l.length ≤ 16) (j : Nat) (hj : j < 16) :
    bitsOf (packLine old l).toNat (32 * j + 31) (32 * j) =
      if j < l.length then (l.getD j 0).toNat else bitsOf old.toNat (32 * j + 31) (32 * j) := by
  obtain ⟨h1, h2⟩ := packFold l 0 old.toNat (by omega) old.isLt
  unfold packLine
  rw [BitVec.toNat_ofNat, Nat.mod_eq_of_lt h1, h2 j hj]
  simp

/-- FP32 elements written leave the lines outside the ones they may take. -/
theorem line_putF32s_ne (i n : Nat) (l : List F32) (k : Nat) (hk : k < i ∨ i + n ≤ k) :
    (s.putF32s i n l).line k = s.line k := by
  induction n generalizing s i l with
  | zero => rfl
  | succ n ih =>
    unfold putF32s
    split
    · rfl
    · rw [ih _ _ _ (by omega), line_setLine_ne _ _ _ _ (by omega)]

/-- FP32 elements written read back. -/
theorem f32_putF32s (i n : Nat) (l : List F32) (hl : l.length ≤ 16 * n) (k : Nat) (hk : k < l.length) :
    (s.putF32s i n l).f32 i k = l.getD k 0 := by
  induction n generalizing s i l k with
  | zero => omega
  | succ n ih =>
    unfold putF32s
    split
    · simp at hk
    · next hne =>
      by_cases hlow : k < 16
      · rw [f32_eq, line_putF32s_ne _ _ _ _ _ (by omega)]
        have e1 : i + k / 16 = i := by omega
        have e2 : k % 16 = k := by omega
        rw [e1, e2, line_setLine_same, bits_packLine _ _ (by simp) k hlow,
          if_pos (by rw [List.length_take]; omega)]
        have : (l.take 16).getD k 0 = l.getD k 0 := by
          simp [List.getD, hlow]
        rw [this]
        simp
      · have e := ih (s.setLine i (packLine (s.line i) (l.take 16))) (i + 1) (l.drop 16)
          (by rw [List.length_drop]; omega) (k - 16) (by rw [List.length_drop]; omega)
        have : (l.drop 16).getD (k - 16) 0 = l.getD k 0 := by
          simp only [List.getD, List.getElem?_drop]
          rw [show 16 + (k - 16) = k by omega]
        rw [this] at e
        rw [← e, f32_eq, f32_eq]
        have a1 : (k - 16) % 16 = k % 16 := by omega
        have a2 : i + 1 + (k - 16) / 16 = i + k / 16 := by omega
        rw [a1, a2]

/-- Bytes written leave the lines outside the ones they may take. -/
theorem line_putBytes_ne (i n : Nat) (b : Bytes) (k : Nat) (hk : k < i ∨ i + n ≤ k) :
    (s.putBytes i n b).line k = s.line k := by
  induction n generalizing s i b with
  | zero => rfl
  | succ n ih =>
    unfold putBytes
    split
    · rfl
    · dsimp only
      rw [ih _ _ _ (by omega), line_setLine_ne _ _ _ _ (by omega)]

/-- Writes to scratch do not look at the poison marks. -/
theorem lines_putBytes (a b : Stone) (h : a.lines = b.lines) (i n : Nat) (d : Bytes) :
    (a.putBytes i n d).lines = (b.putBytes i n d).lines := by
  induction n generalizing a b i d with
  | zero => exact h
  | succ n ih =>
    unfold putBytes
    split
    · exact h
    · refine ih _ _ ?_ _ _
      simp [setLine, line, h]

theorem lines_putF32s (a b : Stone) (h : a.lines = b.lines) (i n : Nat) (d : List F32) :
    (a.putF32s i n d).lines = (b.putF32s i n d).lines := by
  induction n generalizing a b i d with
  | zero => exact h
  | succ n ih =>
    unfold putF32s
    split
    · exact h
    · refine ih _ _ ?_ _ _
      simp [setLine, line, h]

@[simp] theorem acc48_putF32s (i n : Nat) (d : List F32) : (s.putF32s i n d).acc48 = s.acc48 := by
  induction n generalizing s i d with
  | zero => rfl
  | succ n ih =>
    unfold putF32s
    split
    · rfl
    · rw [ih]; rfl

/-! ### Rows of results -/

/-- An element of rows of equal length set one after the other. -/
theorem flatten_getD {α : Type} (n m r j : Nat) (g : Nat → List α) (d : α) (hg : ∀ r, (g r).length = m) (hr : r < n) (hj : j < m) :
    (((List.range n).map g).flatten).getD (m * r + j) d = (g r).getD j d := by
  induction n with
  | zero => omega
  | succ n ih =>
    have hl : (((List.range n).map g).flatten).length = m * n := by
      clear ih hr
      induction n with
      | zero => simp
      | succ n ih => rw [List.range_succ]; simp [ih, hg, Nat.mul_succ]
    rw [List.range_succ, List.map_append, List.flatten_append]
    by_cases h : r < n
    · rw [← ih h]
      have : m * r + j < m * n := by
        calc m * r + j < m * r + m := by omega
          _ = m * (r + 1) := by rw [Nat.mul_succ]
          _ ≤ m * n := Nat.mul_le_mul_left m h
      simp only [List.getD]
      rw [List.getElem?_append_left (by omega)]
    · have : r = n := by omega
      subst this
      simp only [List.getD]
      rw [List.getElem?_append_right (by omega), hl]
      simp

theorem flatten_length {α : Type} (n m : Nat) (g : Nat → List α) (hg : ∀ r, (g r).length = m) :
    (((List.range n).map g).flatten).length = m * n := by
  induction n with
  | zero => simp
  | succ n ih => rw [List.range_succ]; simp [ih, hg, Nat.mul_succ]

/-- Rows written one after the other, `m` lines each, leave the lines beyond them. -/
theorem line_putRows (C m n : Nat) (g : Nat → List F32) (i : Nat) (hi : i < C ∨ C + n * m ≤ i) :
    (((List.range n).map g).zipIdx.foldl (fun st e => st.putF32s (C + e.2 * m) m e.1) s).line i = s.line i := by
  induction n with
  | zero => rfl
  | succ n ih =>
    rw [Nat.succ_mul] at hi
    rw [List.range_succ, List.map_append, List.zipIdx_append, List.foldl_append]
    simp only [List.map_cons, List.map_nil, List.zipIdx_cons, List.zipIdx_nil, List.foldl_cons, List.foldl_nil,
      List.length_map, List.length_range, Nat.zero_add]
    rw [line_putF32s_ne _ _ _ _ _ (by omega), ih (by omega)]

/-- Rows written one after the other, `m` lines each, read back. -/
theorem f32_putRows (C m n k : Nat) (g : Nat → List F32) (hk : ∀ r, (g r).length = k) (hm : k ≤ 16 * m) (r j : Nat) (hr : r < n)
    (hj : j < k) :
    (((List.range n).map g).zipIdx.foldl (fun st e => st.putF32s (C + e.2 * m) m e.1) s).f32 (C + r * m) j = (g r).getD j 0 := by
  induction n with
  | zero => omega
  | succ n ih =>
    rw [List.range_succ, List.map_append, List.zipIdx_append, List.foldl_append]
    simp only [List.map_cons, List.map_nil, List.zipIdx_cons, List.zipIdx_nil, List.foldl_cons, List.foldl_nil,
      List.length_map, List.length_range, Nat.zero_add]
    by_cases h : r < n
    · rw [← ih h]
      refine f32_congr _ _ _ _ (line_putF32s_ne _ _ _ _ _ (Or.inl ?_))
      have h1 : j / 16 < m := by omega
      have h2 : (r + 1) * m ≤ n * m := Nat.mul_le_mul_right m h
      rw [Nat.succ_mul] at h2; omega
    · have : r = n := by omega
      subst this
      exact f32_putF32s _ _ _ _ (by rw [hk]; exact hm) _ (by rw [hk]; exact hj)

end Stone

/-! ### The stones -/

@[simp] theorem Stones.get_set_same (s : Stones) (l : BitVec 11) (x : Stone) : (s.set l x).get l = x := by
  simp [Stones.get, Stones.set]

theorem Stones.get_set_ne (s : Stones) (l k : BitVec 11) (x : Stone) (h : k ≠ l) : (s.set l x).get k = s.get k := by
  have : k.toNat ≠ l.toNat := fun e => h (BitVec.eq_of_toNat_eq e)
  simp [Stones.get, Stones.set, smGet_smSet_ne _ _ _ _ _ _ this]

end Sys2Proof.Machine
end

