-- ==== Sys2Proof/Laws/Slots.lean ====
section
/-! SUPPORT. What the shared operations of bundle slots and session instructions do: a slot's stone takes the operation's result
and nothing else of the stones changes; an accepted instruction has its effect on the hub. -/

namespace Sys2Proof.Machine

/-- A scratch read changes the stone's poison alone. -/
theorem scratchRead_fst (h : Hub) (l : BitVec 11) (st : Stone) (reads : List (Nat × Nat)) :
    ∃ p : List Nat, (h.scratchRead l st reads).1 = { st with poison := p } := by
  unfold Hub.scratchRead
  dsimp only
  split
  · exact ⟨st.poison, rfl⟩
  · exact ⟨_, rfl⟩

/-- A failed check of the step leaves the images and every register but reports' and its own count. -/
theorem im_checkFail (h : Hub) (c : Fld) (l : Nat) (b : Bool) : (h.checkFail c l b).im = h.im := by
  unfold Hub.checkFail
  extract_lets die h1 h2 h3 cur h4 ph win again h5 cur2
  have e3 : h3.im = h.im := by
    have : h3.still = h.still := by simp [h3, h2, h1]
    exact Hub.im_of_still this
  clear_value h3
  split
  · exact e3
  · split
    · exact e3
    · exact e3

theorem reg_checkFail (h : Hub) (c : Fld) (l : Nat) (b : Bool) (a : Nat) (ha : a ∉ Hub.reportRegs) (hc : a ≠ c.a) :
    (h.checkFail c l b).reg a = h.reg a := by
  unfold Hub.checkFail
  extract_lets die h1 h2 h3 cur h4 ph win again h5 cur2
  have e3 : h3.reg a = h.reg a := by
    show (h2.flag _ _).reg a = _
    rw [Hub.reg_flag _ F.INTSTAT_residue _ ha (Hub.notReport ha).2.1]
    show (h1.devEv _ _ _ _).reg a = _
    rw [Hub.reg_devEv _ _ _ _ _ ha]
    exact Hub.reg_pi_ne _ _ _ _ _ (by simpa using hc)
  clear_value h3
  split
  · exact e3
  · split
    · exact e3
    · exact e3

/-- A scratch read leaves the images and every register but reports' and the counts of scratch errors. -/
theorem im_scratchRead (h : Hub) (l : BitVec 11) (st : Stone) (r : List (Nat × Nat)) : (h.scratchRead l st r).2.im = h.im := by
  unfold Hub.scratchRead
  extract_lets mine
  generalize hq : h.fireInj 0x03 mine = q
  have e1 : q.2.im = h.im := by rw [← hq]; exact Hub.im_of_still (Hub.still_fireInj h 0x03 mine)
  obtain ⟨ce, h1⟩ := q
  dsimp only at e1 ⊢
  generalize hk : (if ce then h1.inc F.INTSCRCE_count else h1) = k
  have e2 : k.im = h.im := by rw [← hk, ← e1]; split <;> rfl
  generalize hq : k.fireAt 0x04 mine = q
  have e3 : q.2.im = h.im := by rw [← hq, ← e2]; exact Hub.im_of_still (Hub.still_fireAt k 0x04 mine)
  obtain ⟨o, h2⟩ := q
  cases o with
  | none => exact e3
  | some x => exact (im_checkFail _ _ _ _).trans e3

theorem reg_scratchRead (h : Hub) (l : BitVec 11) (st : Stone) (r : List (Nat × Nat)) (a : Nat) (ha : a ∉ Hub.reportRegs)
    (hc : a ≠ F.INTSCRCE_count.a) (hu : a ≠ F.INTSCRUE_count.a) : (h.scratchRead l st r).2.reg a = h.reg a := by
  unfold Hub.scratchRead
  extract_lets mine
  generalize hq : h.fireInj 0x03 mine = q
  have e1 : q.2.reg a = h.reg a := by rw [← hq]; exact Hub.reg_fireInj h 0x03 mine ha
  obtain ⟨ce, h1⟩ := q
  dsimp only at e1 ⊢
  generalize hk : (if ce then h1.inc F.INTSCRCE_count else h1) = k
  have e2 : k.reg a = h.reg a := by
    rw [← hk, ← e1]; split
    · exact Hub.reg_pi_ne _ _ _ _ _ (by simpa using hc)
    · rfl
  generalize hq : k.fireAt 0x04 mine = q
  have e3 : q.2.reg a = h.reg a := by rw [← hq, ← e2]; exact Hub.reg_fireAt k 0x04 mine ha
  obtain ⟨o, h2⟩ := q
  cases o with
  | none => exact e3
  | some x => exact (reg_checkFail _ _ _ _ _ ha hu).trans e3

/-- The geometry of the active model depends on the images and the registers that name the plan. -/
theorem kvGeom_congr (a b : Hub) (hi : a.im = b.im) (hr : a.reg F.POOLROLE_size.a = b.reg F.POOLROLE_size.a)
    (hp : a.reg F.POOLPLAN_active.a = b.reg F.POOLPLAN_active.a) : a.kvGeom = b.kvGeom := by
  have g1 : a.g F.POOLROLE_size = b.g F.POOLROLE_size := by unfold Hub.g Hub.gi; rw [Nat.mul_zero, Nat.add_zero, hr]
  have g2 : a.g F.POOLROLE_base = b.g F.POOLROLE_base := by
    unfold Hub.g Hub.gi; rw [Nat.mul_zero, Nat.add_zero]; rw [show F.POOLROLE_base.a = F.POOLROLE_size.a from rfl, hr]
  have g3 : a.g F.POOLPLAN_active = b.g F.POOLPLAN_active := by unfold Hub.g Hub.gi; rw [Nat.mul_zero, Nat.add_zero, hp]
  unfold Hub.kvGeom Hub.model Hub.plan
  rw [g1, g2, g3, hi]

theorem kvGeom_scratchRead (h : Hub) (l : BitVec 11) (st : Stone) (r : List (Nat × Nat)) :
    (h.scratchRead l st r).2.kvGeom = h.kvGeom :=
  kvGeom_congr _ _ (im_scratchRead h l st r)
    (reg_scratchRead h l st r _ (by decide) (by decide) (by decide)) (reg_scratchRead h l st r _ (by decide) (by decide) (by decide))

/-- With no injection armed a scratch read changes nothing. -/
theorem scratchRead_quiet (h : Hub) (l : BitVec 11) (st : Stone) (reads : List (Nat × Nat)) (hi : h.inj = []) :
    h.scratchRead l st reads = (st, h) := by
  unfold Hub.scratchRead Hub.fireInj Hub.fireAt
  simp [hi]

/-- A point that nothing accepts does not fire. -/
theorem fireAt_none (h : Hub) (p : Nat) (m : Inj → Bool) (hm : ∀ x, m x = false) : h.fireAt p m = (none, h) := by
  unfold Hub.fireAt
  dsimp only
  rw [List.find?_eq_none.2 (by intro x _; simp [hm])]

/-- A slot that reads no scratch meets no scratch error. -/
theorem scratchRead_none (h : Hub) (l : BitVec 11) (st : Stone) : h.scratchRead l st [] = (st, h) := by
  unfold Hub.scratchRead
  extract_lets mine
  have hm : ∀ x, mine x = false := by simp [mine]
  have hf : h.fireInj 3 mine = (false, h) := by unfold Hub.fireInj; rw [fireAt_none h 3 mine hm]; rfl
  rw [hf]
  show (match h.fireAt 4 mine with
    | (none, h) => (st, h)
    | (some x, h) => (st.setPoison x.b.toNat 1 true, h.checkFail F.INTSCRUE_count l.toNat true)) = (st, h)
  rw [fireAt_none h 4 mine hm]

/-- The stones after one is set agree with a frame over it. -/
theorem scratchFrame_set (s t : State) (l : BitVec 11) (D n : Nat) (y : Stone) (h1 : t.stn = s.stn.set l y)
    (h2 : t.pending = s.pending) (h3 : ∀ i, i < D ∨ D + n ≤ i → y.line i = (s.stn.get l).line i) : ScratchFrame s t l D n := by
  refine ⟨fun k hk => by rw [h1, Stones.get_set_ne _ _ _ _ hk], fun i hi => ?_, h2⟩
  rw [h1, Stones.get_set_same, h3 i hi]

/-- An accepted matrix or vector slot, its scratch read first. -/
theorem stoneOp_eq (tm : Nt) (l : BitVec 11) (bad : Bool) (cnt : Fld) (point : Nat) (f : Hub → Stone → OpRes) (s : State) :
    stoneOp tm l true bad cnt point f s =
      (fun q : Stone × Hub =>
        let r := f q.2 q.1
        let k := (q.2.inc F.ARITHNAN_count (nans r.out)).fireInj point (fun x => bitsOf x.a.toNat 10 0 == l.toNat)
        .next { s with hub := (if bad || k.1 then k.2.checkFail cnt l.toNat k.1 else k.2).busy l r.use.steps
                       stn := s.stn.set l (r.st.issue r.use) })
        ((s.hub.stamp tm).scratchRead l (s.stn.get l) (f (s.hub.stamp tm) (s.stn.get l)).use.reads) := rfl

/-- An accepted matrix or vector slot answers a next state in which its stone holds the operation's result, computed on the stone
as it was, up to poison; no other stone has changed, nor the queue. -/
theorem stoneOp_next (tm : Nt) (l : BitVec 11) (bad : Bool) (cnt : Fld) (point : Nat) (f : Hub → Stone → OpRes) (s : State) :
    ∃ (p : List Nat) (h' : Hub) (t : State),
      stoneOp tm l true bad cnt point f s = .next t
      ∧ t.stn = s.stn.set l ((f h' { s.stn.get l with poison := p }).st.issue (f h' { s.stn.get l with poison := p }).use)
      ∧ t.pending = s.pending ∧ h'.kvGeom = s.hub.kvGeom := by
  obtain ⟨p, hp⟩ := scratchRead_fst (s.hub.stamp tm) l (s.stn.get l) (f (s.hub.stamp tm) (s.stn.get l)).use.reads
  have hg := kvGeom_scratchRead (s.hub.stamp tm) l (s.stn.get l) (f (s.hub.stamp tm) (s.stn.get l)).use.reads
  rw [stoneOp_eq]
  generalize (s.hub.stamp tm).scratchRead l (s.stn.get l) (f (s.hub.stamp tm) (s.stn.get l)).use.reads = q at hp hg
  obtain ⟨st, h'⟩ := q
  dsimp only at hp hg ⊢
  subst hp
  exact ⟨p, h', _, rfl, rfl, rfl, hg⟩

/-- The same where the operation looks at the stone alone. -/
theorem stoneOp_next' (tm : Nt) (l : BitVec 11) (bad : Bool) (cnt : Fld) (point : Nat) (f : Stone → OpRes) (s : State) :
    ∃ (p : List Nat) (t : State),
      stoneOp tm l true bad cnt point (fun _ st => f st) s = .next t
      ∧ t.stn = s.stn.set l ((f { s.stn.get l with poison := p }).st.issue (f { s.stn.get l with poison := p }).use)
      ∧ t.pending = s.pending := by
  obtain ⟨p, _, t, h1, h2, h3, _⟩ := stoneOp_next tm l bad cnt point (fun _ st => f st) s
  exact ⟨p, t, h1, h2, h3⟩

/-- An accepted move slot leaves its stone with the slot's result, up to poison; no other stone has changed, nor the queue. -/
theorem moveExec_next (tm : Nt) (l : BitVec 11) (f : Stone → Stone × SlotUse) (s : State) :
    ∃ (p : List Nat) (t : State),
      moveExec tm l true f s = .next t
      ∧ t.stn = s.stn.set l ((f { s.stn.get l with poison := p }).1.issue (f { s.stn.get l with poison := p }).2)
      ∧ t.pending = s.pending := by
  obtain ⟨p, hp⟩ := scratchRead_fst (s.hub.stamp tm) l (s.stn.get l) (f (s.stn.get l)).2.reads
  have e : moveExec tm l true f s = (fun q : Stone × Hub =>
      .next { s with hub := q.2.busy l (f q.1).2.steps, stn := s.stn.set l ((f q.1).1.issue (f q.1).2) })
      ((s.hub.stamp tm).scratchRead l (s.stn.get l) (f (s.stn.get l)).2.reads) := rfl
  rw [e]
  generalize (s.hub.stamp tm).scratchRead l (s.stn.get l) (f (s.stn.get l)).2.reads = q at hp
  obtain ⟨st, h'⟩ := q
  dsimp only at hp ⊢
  subst hp
  exact ⟨p, _, rfl, rfl, rfl⟩

/-- Lines copied stand at their destination; every other line of the destination stone is as it was. -/
theorem line_copyLines (src dst : Stone) (a b n i : Nat) :
    (copyLines src dst a b n).line i = if b ≤ i ∧ i < b + n then src.line (a + (i - b)) else dst.line i := by
  unfold copyLines
  induction n with
  | zero => rw [if_neg (by omega)]; rfl
  | succ n ih =>
    rw [List.range_succ, List.foldl_append, List.foldl_cons, List.foldl_nil, Stone.line_setPoison]
    by_cases h : i = b + n
    · subst h
      rw [Stone.line_setLine_same, if_pos (by omega)]
      congr 1; omega
    · rw [Stone.line_setLine_ne _ _ _ _ h, ih]
      by_cases h' : b ≤ i ∧ i < b + n
      · rw [if_pos h', if_pos (by omega)]
      · rw [if_neg h', if_neg (by omega)]

/-- A hub with the same sessions and, beside reports, the same contents is as steady. -/
theorem steady_of_still {a b : Hub} (e : a.still = b.still) : a.sess = b.sess ∧ a.steady = b.steady :=
  ⟨Hub.sess_of_still e, congrArg (fun h : Hub => { h with resFails := [], pw := { h.pw with tokens := 0, reqs := [], grantAt := 0, issued := [] } }) (Hub.rest_of_still e)⟩

/-- A failed check of the step changes no session and, beside reports, only the step in progress and the failures remembered. -/
theorem steady_checkFail (h : Hub) (c : Fld) (l : Nat) (b : Bool) :
    (h.checkFail c l b).sess = h.sess ∧ (h.checkFail c l b).steady = h.steady := by
  unfold Hub.checkFail
  extract_lets die h1 h2 h3 cur g4 h4 ph win again g5 h5
  have e3 : h3.sess = h.sess ∧ h3.steady = h.steady := steady_of_still (by simp [h3, h2, h1])
  have e4 : h4.sess = h.sess ∧ h4.steady = h.steady := e3
  split
  · exact e4
  · split <;> exact e4

/-- A scratch read changes no session and, beside reports, what a failed check changes and the counts of scratch errors. -/
theorem steady_scratchRead (h : Hub) (l : BitVec 11) (st : Stone) (r : List (Nat × Nat)) :
    (h.scratchRead l st r).2.sess = h.sess ∧ (h.scratchRead l st r).2.steady = h.steady := by
  unfold Hub.scratchRead
  extract_lets mine
  generalize hq : h.fireInj 0x03 mine = q
  have e1 : q.2.still = h.still := by rw [← hq]; exact Hub.still_fireInj h 0x03 mine
  obtain ⟨ce, h1⟩ := q
  dsimp only at e1 ⊢
  generalize hk : (if ce then h1.inc F.INTSCRCE_count else h1) = k
  have e2 : k.still = h.still := by rw [← hk, ← e1]; split <;> rfl
  generalize hq : k.fireAt 0x04 mine = q
  have e3 : q.2.still = h.still := by rw [← hq, ← e2]; exact Hub.still_fireAt k 0x04 mine
  obtain ⟨o, h2⟩ := q
  have es := steady_of_still e3
  cases o with
  | none => exact es
  | some x =>
    obtain ⟨a, b⟩ := steady_checkFail h2 F.INTSCRUE_count l.toNat true
    exact ⟨a.trans es.1, b.trans es.2⟩

/-- A request for a wake token in a domain that is on changes the bucket, what waits for it and the count of what is held. -/
theorem steady_token (h : Hub) (d : Nat) (hd : ∀ u : Hub, u.reg F.PWRDOM_on.a = h.reg F.PWRDOM_on.a → u.powered d = true) :
    (h.token d).sess = h.sess ∧ (h.token d).steady = h.steady
    ∧ ∀ a, a ∉ Hub.reportRegs → a ≠ F.PWRWAKEDLY_count.a → (h.token d).reg a = h.reg a := by
  unfold Hub.token
  split
  · exact ⟨rfl, rfl, fun a _ _ => rfl⟩
  extract_lets h1
  have k : h1.sess = h.sess ∧ h1.steady = h.steady ∧ ∀ a, a ∉ Hub.reportRegs → h1.reg a = h.reg a := by
    have e := steady_of_still (Hub.still_fireAt h 0x22 (fun _ => true))
    have r := fun a ha => Hub.reg_fireAt h 0x22 (fun _ => true) (a := a) ha
    simp only [h1]
    generalize h.fireAt 0x22 (fun _ => true) = q at e r
    obtain ⟨o, g⟩ := q
    cases o with
    | none => exact ⟨e.1, e.2, r⟩
    | some x => exact ⟨e.1, e.2, r⟩
  have on : h1.powered d = true := hd h1 (k.2.2 _ (by decide))
  split
  · unfold Hub.grant
    rw [if_pos on]
    exact ⟨k.1, k.2.1, fun a ha _ => k.2.2 a ha⟩
  · refine ⟨k.1, k.2.1, fun a ha hw => ?_⟩
    rw [← k.2.2 a ha]
    exact Hub.reg_pi_ne _ _ _ _ _ (by simpa using hw)

/-- A slot that issues changes the busy time of its die and what the governor holds of the start of its cluster domain. -/
theorem steady_busy (h : Hub) (l : BitVec 11) (n : Nat) :
    (h.busy l n).sess = h.sess ∧ (h.busy l n).steady = h.steady
    ∧ ∀ a, a ∉ Hub.reportRegs → a ≠ F.PWRWAKEDLY_count.a → (h.busy l n).reg a = h.reg a := by
  unfold Hub.busy Hub.startIssue
  extract_lets d dg idle pw g1
  have k : g1.sess = h.sess ∧ g1.steady = h.steady ∧ ∀ a, g1.reg a = h.reg a := ⟨rfl, rfl, fun _ => rfl⟩
  split
  · rename_i hp
    have on : g1.powered d = true := by simp only [Bool.and_eq_true] at hp; exact hp.2
    obtain ⟨a, b, c⟩ := steady_token g1 d (fun u hu => by
      rw [← on]; unfold Hub.powered Hub.g Hub.gi; rw [Nat.mul_zero, Nat.add_zero, hu])
    exact ⟨a.trans k.1, b.trans k.2.1, fun x hx hy => (c x hx hy).trans (k.2.2 x)⟩
  · exact ⟨k.1, k.2.1, fun x _ _ => k.2.2 x⟩

/-- What a matrix or vector slot changes of the hub. -/
theorem stoneOp_worked (tm : Nt) (l : BitVec 11) (bad : Bool) (cnt : Fld) (point : Nat) (f : Hub → Stone → OpRes) (s t : State)
    (h : stoneOp tm l true bad cnt point f s = .next t) :
    HubWorked tm s t [F.ARITHNAN_count, cnt, F.INTSCRCE_count, F.INTSCRUE_count] := by
  rw [stoneOp_eq] at h
  obtain ⟨a1, a2⟩ := steady_scratchRead (s.hub.stamp tm) l (s.stn.get l) (f (s.hub.stamp tm) (s.stn.get l)).use.reads
  have a3 := reg_scratchRead (s.hub.stamp tm) l (s.stn.get l) (f (s.hub.stamp tm) (s.stn.get l)).use.reads
  generalize (s.hub.stamp tm).scratchRead l (s.stn.get l) (f (s.hub.stamp tm) (s.stn.get l)).use.reads = q at h a1 a2 a3
  obtain ⟨st, g⟩ := q
  dsimp only at h a1 a2 a3
  generalize hu : g.inc F.ARITHNAN_count (nans (f g st).out) = u at h
  have us : u.still = g.still := by rw [← hu]; rfl
  have ur : ∀ a, a ≠ F.ARITHNAN_count.a → u.reg a = g.reg a := by
    intro a ha; rw [← hu]; exact Hub.reg_pi_ne _ _ _ _ _ (by simpa using ha)
  generalize hk : u.fireInj point (fun x => bitsOf x.a.toNat 10 0 == l.toNat) = k at h
  have ks : k.2.still = g.still := by rw [← hk, ← us]; exact Hub.still_fireInj u _ _
  have kr : ∀ a, a ∉ Hub.reportRegs → a ≠ F.ARITHNAN_count.a → k.2.reg a = g.reg a := by
    intro a ha hb; rw [← ur a hb, ← hk]; exact Hub.reg_fireInj u _ _ ha
  generalize hv : (if bad || k.1 then k.2.checkFail cnt l.toNat k.1 else k.2) = v at h
  have vs : v.sess = g.sess ∧ v.steady = g.steady := by
    have e := steady_of_still ks
    rw [← hv]; split
    · obtain ⟨x, y⟩ := steady_checkFail k.2 cnt l.toNat k.1
      exact ⟨x.trans e.1, y.trans e.2⟩
    · exact e
  have vr : ∀ a, a ∉ Hub.reportRegs → a ≠ F.ARITHNAN_count.a → a ≠ cnt.a → v.reg a = g.reg a := by
    intro a ha hb hc; rw [← kr a ha hb, ← hv]; split
    · exact reg_checkFail _ _ _ _ _ ha hc
    · rfl
  have ht : t.hub = v.busy l (f g st).use.steps := by injection h with h; rw [← h]
  obtain ⟨b1, b2, b3⟩ := steady_busy v l (f g st).use.steps
  refine ⟨fun j => ?_, ?_, fun a ha hb hw => ?_⟩
  · rw [ht]; exact congrArg (fun m : SMap Sess => smGet {} m j.toNat) (b1.trans (vs.1.trans a1))
  · rw [ht]; exact b2.trans (vs.2.trans a2)
  · simp only [List.map_cons, List.map_nil, List.mem_cons, List.not_mem_nil, or_false, not_or] at hb
    rw [ht]; exact (b3 a ha hw).trans ((vr a ha hb.1 hb.2.1).trans (a3 a ha hb.2.2.1 hb.2.2.2))

/-- What a move slot changes of the hub. -/
theorem moveExec_worked (tm : Nt) (l : BitVec 11) (f : Stone → Stone × SlotUse) (s t : State) (h : moveExec tm l true f s = .next t) :
    HubWorked tm s t scratchCounts := by
  have e : moveExec tm l true f s = (fun q : Stone × Hub =>
      .next { s with hub := q.2.busy l (f q.1).2.steps, stn := s.stn.set l ((f q.1).1.issue (f q.1).2) })
      ((s.hub.stamp tm).scratchRead l (s.stn.get l) (f (s.stn.get l)).2.reads) := rfl
  rw [e] at h
  obtain ⟨a1, a2⟩ := steady_scratchRead (s.hub.stamp tm) l (s.stn.get l) (f (s.stn.get l)).2.reads
  have a3 := reg_scratchRead (s.hub.stamp tm) l (s.stn.get l) (f (s.stn.get l)).2.reads
  generalize (s.hub.stamp tm).scratchRead l (s.stn.get l) (f (s.stn.get l)).2.reads = q at h a1 a2 a3
  have ht : t.hub = q.2.busy l (f q.1).2.steps := by injection h with h; rw [← h]
  obtain ⟨b1, b2, b3⟩ := steady_busy q.2 l (f q.1).2.steps
  refine ⟨fun j => ?_, ?_, fun a ha hb hw => ?_⟩
  · rw [ht]; exact congrArg (fun m : SMap Sess => smGet {} m j.toNat) (b1.trans a1)
  · rw [ht]; exact b2.trans a2
  · simp only [scratchCounts, List.map_cons, List.map_nil, List.mem_cons, List.not_mem_nil, or_false, not_or] at hb
    rw [ht]; exact (b3 a ha hw).trans (a3 a ha hb.1 hb.2)

/-- An accepted instruction of a context that may execute, with no boundary due, has its effect. -/
theorem instr_next (tm : Nt) (i : Handle) (w : W64) (op : Nat) (f : Hub → Hub) (s : State) (hop : iw w 63 56 = op)
    (ha : s.hub.accepts i w = true) (hr : s.hub.runs i = true) (hd : (s.hub.stamp tm).boundDue = false) :
    instr tm i w op f s = .next { s with hub := Hub.finish s.hub (f (s.hub.stamp tm)) } := by
  have hr' : (s.hub.stamp tm).runs i = true := hr
  unfold instr
  rw [if_neg (by simp [hop, ha]), onHub_eq, if_pos (by simp [hr', hd])]

end Sys2Proof.Machine
end

