-- ==== Sys2Proof/Laws/Instr.lean ====
section
/-! SUPPORT. What a session instruction of a context that may run does, said once by the shape of its effect. -/

namespace Sys2Proof.Machine

/-- An instruction whose effect replaces its session and nothing else. -/
theorem recordOnly_of (c : Instr) (tm : Nt) (i : Handle) (w : W64) (op : Nat) (f : Hub → Hub) (s : State) (x : Sess)
    (hc : exec c s = instr tm i w op f s) (hr : Runs s tm i w op)
    (h1 : ((f (s.hub.stamp tm)).s i).kept = x.kept) (h2 : ∀ j, j ≠ i → (f (s.hub.stamp tm)).s j = s.hub.s j)
    (h3 : (f (s.hub.stamp tm)).rest = (s.hub.stamp tm).rest)
    (h4 : ∀ a, a ∉ Hub.reportRegs → (f (s.hub.stamp tm)).reg a = s.hub.reg a) : RecordOnly c tm i s x := by
  refine ⟨_, hc.trans (instr_next tm i w op f s hr.1 hr.2.1 hr.2.2.1 hr.2.2.2), ?_, ?_, ?_, ?_, rfl, rfl⟩
  · simp [h1]
  · intro j hj
    simp only [Hub.kept_finish, h2 j hj]
  · simp only [Hub.rest_finish, h3]
  · intro a ha
    simp only [Hub.reg_finish _ _ ha, h4 a ha]

/-- One change of its session's record. -/
theorem recordOnly_modR (c : Instr) (tm : Nt) (i : Handle) (w : W64) (op : Nat) (g : Rec → Rec) (f : Hub → Hub) (s : State)
    (x : Sess) (hc : exec c s = instr tm i w op f s) (hr : Runs s tm i w op)
    (hf : f (s.hub.stamp tm) = (s.hub.stamp tm).modR i g) (hx : x = { s.hub.s i with r := g (s.hub.s i).r }) :
    RecordOnly c tm i s x := by
  apply recordOnly_of c tm i w op f s x hc hr
  · rw [hf, hx, Hub.s_modR_same]; rfl
  · intro j hj; rw [hf, Hub.s_modR_ne _ i j _ hj]; rfl
  · rw [hf]; rfl
  · intro a _; rw [hf]; rfl

/-- Two changes of its session's record, one after the other. -/
theorem recordOnly_modR2 (c : Instr) (tm : Nt) (i : Handle) (w : W64) (op : Nat) (g g' : Rec → Rec) (f : Hub → Hub) (s : State)
    (x : Sess) (hc : exec c s = instr tm i w op f s) (hr : Runs s tm i w op)
    (hf : f (s.hub.stamp tm) = ((s.hub.stamp tm).modR i g).modR i g') (hx : x = { s.hub.s i with r := g' (g (s.hub.s i).r) }) :
    RecordOnly c tm i s x := by
  apply recordOnly_of c tm i w op f s x hc hr
  · rw [hf, hx, Hub.s_modR_same, Hub.s_modR_same]; rfl
  · intro j hj; rw [hf, Hub.s_modR_ne _ i j _ hj, Hub.s_modR_ne _ i j _ hj]; rfl
  · rw [hf]; rfl
  · intro a _; rw [hf]; rfl

/-- An instruction of a context that may run answers the close of its effect. -/
theorem instr_answers (c : Instr) (tm : Nt) (i : Handle) (w : W64) (op : Nat) (f : Hub → Hub) (s : State) (P : State → Prop)
    (hc : exec c s = instr tm i w op f s) (hr : Runs s tm i w op)
    (hp : P { s with hub := Hub.finish s.hub (f (s.hub.stamp tm)) }) : Answers c s P :=
  ⟨_, hc.trans (instr_next tm i w op f s hr.1 hr.2.1 hr.2.2.1 hr.2.2.2), hp⟩

/-! ### Fields of a record that FLAGS and register writes leave -/

@[simp] theorem wStat_sk (r : Rec) (st : BitVec 8) (d : Nat) : (r.wStat st d).sk = r.sk := rfl
@[simp] theorem wStat_nsi (r : Rec) (st : BitVec 8) (d : Nat) : (r.wStat st d).nsi = r.nsi := rfl
@[simp] theorem wStat_state (r : Rec) (st : BitVec 8) (d : Nat) : (r.wStat st d).state = r.state := rfl
@[simp] theorem wStat_prior (r : Rec) (st : BitVec 8) (d : Nat) : (r.wStat st d).prior = r.prior := rfl
@[simp] theorem wStat_dlate (r : Rec) (st : BitVec 8) (d : Nat) : (r.wStat st d).dlate = r.dlate := rfl
@[simp] theorem wStat_omm (r : Rec) (st : BitVec 8) (d : Nat) : (r.wStat st d).omm = r.omm := rfl
@[simp] theorem wStat_ttlArmed (r : Rec) (st : BitVec 8) (d : Nat) : (r.wStat st d).ttlArmed = r.ttlArmed := rfl
@[simp] theorem wStat_child (r : Rec) (st : BitVec 8) (d : Nat) : (r.wStat st d).child = r.child := rfl
@[simp] theorem wStat_autorevive (r : Rec) (st : BitVec 8) (d : Nat) : (r.wStat st d).autorevive = r.autorevive := rfl
@[simp] theorem wStat_logonly (r : Rec) (st : BitVec 8) (d : Nat) : (r.wStat st d).logonly = r.logonly := rfl
@[simp] theorem wStat_hstatus (r : Rec) (st : BitVec 8) (d : Nat) : (r.wStat st d).hstatus = r.hstatus := rfl
@[simp] theorem wStat_pending (r : Rec) (st : BitVec 8) (d : Nat) : (r.wStat st d).pending = r.pending := rfl
@[simp] theorem wStat_waitMask (r : Rec) (st : BitVec 8) (d : Nat) : (r.wStat st d).waitMask = r.waitMask := rfl
@[simp] theorem wStat_ownEpoch (r : Rec) (st : BitVec 8) (d : Nat) : (r.wStat st d).ownEpoch = r.ownEpoch := rfl
@[simp] theorem wStat_ownDev (r : Rec) (st : BitVec 8) (d : Nat) : (r.wStat st d).ownDev = r.ownDev := rfl
@[simp] theorem wStat_ownChk (r : Rec) (st : BitVec 8) (d : Nat) : (r.wStat st d).ownChk = r.ownChk := rfl
@[simp] theorem wStat_keygen (r : Rec) (st : BitVec 8) (d : Nat) : (r.wStat st d).keygen = r.keygen := rfl
@[simp] theorem wStat_keygenChk (r : Rec) (st : BitVec 8) (d : Nat) : (r.wStat st d).keygenChk = r.keygenChk := rfl
@[simp] theorem wStat_adSlot (r : Rec) (st : BitVec 8) (d : Nat) : (r.wStat st d).adSlot = r.adSlot := rfl
@[simp] theorem wStat_adVer (r : Rec) (st : BitVec 8) (d : Nat) : (r.wStat st d).adVer = r.adVer := rfl
@[simp] theorem wStat_adBound (r : Rec) (st : BitVec 8) (d : Nat) : (r.wStat st d).adBound = r.adBound := rfl
@[simp] theorem wStat_kvroot (r : Rec) (st : BitVec 8) (d : Nat) : (r.wStat st d).kvroot = r.kvroot := rfl
@[simp] theorem wStat_kvrootChk (r : Rec) (st : BitVec 8) (d : Nat) : (r.wStat st d).kvrootChk = r.kvrootChk := rfl
@[simp] theorem wStat_committed (r : Rec) (st : BitVec 8) (d : Nat) : (r.wStat st d).committed = r.committed := rfl
@[simp] theorem wStat_turn (r : Rec) (st : BitVec 8) (d : Nat) : (r.wStat st d).turn = r.turn := rfl
@[simp] theorem wStat_steps (r : Rec) (st : BitVec 8) (d : Nat) : (r.wStat st d).steps = r.steps := rfl
@[simp] theorem wStat_cut (r : Rec) (st : BitVec 8) (d : Nat) : (r.wStat st d).cut = r.cut := rfl
@[simp] theorem wStat_period (r : Rec) (st : BitVec 8) (d : Nat) : (r.wStat st d).period = r.period := rfl
@[simp] theorem wStat_expiry (r : Rec) (st : BitVec 8) (d : Nat) : (r.wStat st d).expiry = r.expiry := rfl
@[simp] theorem wStat_deadline (r : Rec) (st : BitVec 8) (d : Nat) : (r.wStat st d).deadline = r.deadline := rfl
@[simp] theorem wStat_pc (r : Rec) (st : BitVec 8) (d : Nat) : (r.wStat st d).pc = r.pc := rfl
@[simp] theorem wStat_prog (r : Rec) (st : BitVec 8) (d : Nat) : (r.wStat st d).prog = r.prog := rfl
@[simp] theorem wStat_a (r : Rec) (st : BitVec 8) (d : Nat) : (r.wStat st d).a = r.a := rfl
@[simp] theorem wStat_waitExp (r : Rec) (st : BitVec 8) (d : Nat) : (r.wStat st d).waitExp = r.waitExp := rfl
@[simp] theorem wStat_gramSlot (r : Rec) (st : BitVec 8) (d : Nat) : (r.wStat st d).gramSlot = r.gramSlot := rfl
@[simp] theorem wStat_gramState (r : Rec) (st : BitVec 8) (d : Nat) : (r.wStat st d).gramState = r.gramState := rfl
@[simp] theorem wStat_gramDepth (r : Rec) (st : BitVec 8) (d : Nat) : (r.wStat st d).gramDepth = r.gramDepth := rfl
@[simp] theorem wStat_stopSet (r : Rec) (st : BitVec 8) (d : Nat) : (r.wStat st d).stopSet = r.stopSet := rfl
@[simp] theorem wStat_stopCnt (r : Rec) (st : BitVec 8) (d : Nat) : (r.wStat st d).stopCnt = r.stopCnt := rfl
@[simp] theorem wStat_held (r : Rec) (st : BitVec 8) (d : Nat) : (r.wStat st d).held = r.held := rfl
@[simp] theorem wStat_seq (r : Rec) (st : BitVec 8) (d : Nat) : (r.wStat st d).seq = r.seq := rfl
@[simp] theorem wStat_seed (r : Rec) (st : BitVec 8) (d : Nat) : (r.wStat st d).seed = r.seed := rfl
@[simp] theorem wStat_temp (r : Rec) (st : BitVec 8) (d : Nat) : (r.wStat st d).temp = r.temp := rfl
@[simp] theorem wStat_topP (r : Rec) (st : BitVec 8) (d : Nat) : (r.wStat st d).topP = r.topP := rfl
@[simp] theorem wStat_topK (r : Rec) (st : BitVec 8) (d : Nat) : (r.wStat st d).topK = r.topK := rfl
@[simp] theorem wStat_maxtok (r : Rec) (st : BitVec 8) (d : Nat) : (r.wStat st d).maxtok = r.maxtok := rfl
@[simp] theorem wStat_part (r : Rec) (st : BitVec 8) (d : Nat) : (r.wStat st d).part = r.part := rfl
@[simp] theorem wStat_parH (r : Rec) (st : BitVec 8) (d : Nat) : (r.wStat st d).parH = r.parH := rfl
@[simp] theorem wStat_parGen (r : Rec) (st : BitVec 8) (d : Nat) : (r.wStat st d).parGen = r.parGen := rfl
@[simp] theorem wStat_parDev (r : Rec) (st : BitVec 8) (d : Nat) : (r.wStat st d).parDev = r.parDev := rfl
@[simp] theorem wStat_forkIndex (r : Rec) (st : BitVec 8) (d : Nat) : (r.wStat st d).forkIndex = r.forkIndex := rfl
@[simp] theorem wStat_touch (r : Rec) (st : BitVec 8) (d : Nat) : (r.wStat st d).touch = r.touch := rfl
@[simp] theorem wStat_stattok (r : Rec) (st : BitVec 8) (d : Nat) : (r.wStat st d).stattok = r.stattok := rfl
@[simp] theorem wStat_jseq (r : Rec) (st : BitVec 8) (d : Nat) : (r.wStat st d).jseq = r.jseq := rfl
@[simp] theorem wStat_parks (r : Rec) (st : BitVec 8) (d : Nat) : (r.wStat st d).parks = r.parks := rfl
@[simp] theorem wStat_revives (r : Rec) (st : BitVec 8) (d : Nat) : (r.wStat st d).revives = r.revives := rfl
@[simp] theorem wStat_replays (r : Rec) (st : BitVec 8) (d : Nat) : (r.wStat st d).replays = r.replays := rfl
@[simp] theorem wStat_recomputes (r : Rec) (st : BitVec 8) (d : Nat) : (r.wStat st d).recomputes = r.recomputes := rfl
@[simp] theorem wStat_admitNt (r : Rec) (st : BitVec 8) (d : Nat) : (r.wStat st d).admitNt = r.admitNt := rfl
@[simp] theorem wStat_lastStatus (r : Rec) (st : BitVec 8) (d : Nat) : (r.wStat st d).lastStatus = st := rfl
@[simp] theorem wReg_sk (r : Rec) (d : BitVec 4) (v : W64) : (r.wReg d v).sk = r.sk := by
  unfold Rec.wReg; split <;> rfl
@[simp] theorem wReg_nsi (r : Rec) (d : BitVec 4) (v : W64) : (r.wReg d v).nsi = r.nsi := by
  unfold Rec.wReg; split <;> rfl
@[simp] theorem wReg_state (r : Rec) (d : BitVec 4) (v : W64) : (r.wReg d v).state = r.state := by
  unfold Rec.wReg; split <;> rfl
@[simp] theorem wReg_prior (r : Rec) (d : BitVec 4) (v : W64) : (r.wReg d v).prior = r.prior := by
  unfold Rec.wReg; split <;> rfl
@[simp] theorem wReg_lastStatus (r : Rec) (d : BitVec 4) (v : W64) : (r.wReg d v).lastStatus = r.lastStatus := by
  unfold Rec.wReg; split <;> rfl
@[simp] theorem wReg_dlate (r : Rec) (d : BitVec 4) (v : W64) : (r.wReg d v).dlate = r.dlate := by
  unfold Rec.wReg; split <;> rfl
@[simp] theorem wReg_omm (r : Rec) (d : BitVec 4) (v : W64) : (r.wReg d v).omm = r.omm := by
  unfold Rec.wReg; split <;> rfl
@[simp] theorem wReg_ttlArmed (r : Rec) (d : BitVec 4) (v : W64) : (r.wReg d v).ttlArmed = r.ttlArmed := by
  unfold Rec.wReg; split <;> rfl
@[simp] theorem wReg_child (r : Rec) (d : BitVec 4) (v : W64) : (r.wReg d v).child = r.child := by
  unfold Rec.wReg; split <;> rfl
@[simp] theorem wReg_autorevive (r : Rec) (d : BitVec 4) (v : W64) : (r.wReg d v).autorevive = r.autorevive := by
  unfold Rec.wReg; split <;> rfl
@[simp] theorem wReg_logonly (r : Rec) (d : BitVec 4) (v : W64) : (r.wReg d v).logonly = r.logonly := by
  unfold Rec.wReg; split <;> rfl
@[simp] theorem wReg_hstatus (r : Rec) (d : BitVec 4) (v : W64) : (r.wReg d v).hstatus = r.hstatus := by
  unfold Rec.wReg; split <;> rfl
@[simp] theorem wReg_pending (r : Rec) (d : BitVec 4) (v : W64) : (r.wReg d v).pending = r.pending := by
  unfold Rec.wReg; split <;> rfl
@[simp] theorem wReg_waitMask (r : Rec) (d : BitVec 4) (v : W64) : (r.wReg d v).waitMask = r.waitMask := by
  unfold Rec.wReg; split <;> rfl
@[simp] theorem wReg_ownEpoch (r : Rec) (d : BitVec 4) (v : W64) : (r.wReg d v).ownEpoch = r.ownEpoch := by
  unfold Rec.wReg; split <;> rfl
@[simp] theorem wReg_ownDev (r : Rec) (d : BitVec 4) (v : W64) : (r.wReg d v).ownDev = r.ownDev := by
  unfold Rec.wReg; split <;> rfl
@[simp] theorem wReg_ownChk (r : Rec) (d : BitVec 4) (v : W64) : (r.wReg d v).ownChk = r.ownChk := by
  unfold Rec.wReg; split <;> rfl
@[simp] theorem wReg_keygen (r : Rec) (d : BitVec 4) (v : W64) : (r.wReg d v).keygen = r.keygen := by
  unfold Rec.wReg; split <;> rfl
@[simp] theorem wReg_keygenChk (r : Rec) (d : BitVec 4) (v : W64) : (r.wReg d v).keygenChk = r.keygenChk := by
  unfold Rec.wReg; split <;> rfl
@[simp] theorem wReg_adSlot (r : Rec) (d : BitVec 4) (v : W64) : (r.wReg d v).adSlot = r.adSlot := by
  unfold Rec.wReg; split <;> rfl
@[simp] theorem wReg_adVer (r : Rec) (d : BitVec 4) (v : W64) : (r.wReg d v).adVer = r.adVer := by
  unfold Rec.wReg; split <;> rfl
@[simp] theorem wReg_adBound (r : Rec) (d : BitVec 4) (v : W64) : (r.wReg d v).adBound = r.adBound := by
  unfold Rec.wReg; split <;> rfl
@[simp] theorem wReg_kvroot (r : Rec) (d : BitVec 4) (v : W64) : (r.wReg d v).kvroot = r.kvroot := by
  unfold Rec.wReg; split <;> rfl
@[simp] theorem wReg_kvrootChk (r : Rec) (d : BitVec 4) (v : W64) : (r.wReg d v).kvrootChk = r.kvrootChk := by
  unfold Rec.wReg; split <;> rfl
@[simp] theorem wReg_committed (r : Rec) (d : BitVec 4) (v : W64) : (r.wReg d v).committed = r.committed := by
  unfold Rec.wReg; split <;> rfl
@[simp] theorem wReg_turn (r : Rec) (d : BitVec 4) (v : W64) : (r.wReg d v).turn = r.turn := by
  unfold Rec.wReg; split <;> rfl
@[simp] theorem wReg_steps (r : Rec) (d : BitVec 4) (v : W64) : (r.wReg d v).steps = r.steps := by
  unfold Rec.wReg; split <;> rfl
@[simp] theorem wReg_cut (r : Rec) (d : BitVec 4) (v : W64) : (r.wReg d v).cut = r.cut := by
  unfold Rec.wReg; split <;> rfl
@[simp] theorem wReg_period (r : Rec) (d : BitVec 4) (v : W64) : (r.wReg d v).period = r.period := by
  unfold Rec.wReg; split <;> rfl
@[simp] theorem wReg_expiry (r : Rec) (d : BitVec 4) (v : W64) : (r.wReg d v).expiry = r.expiry := by
  unfold Rec.wReg; split <;> rfl
@[simp] theorem wReg_deadline (r : Rec) (d : BitVec 4) (v : W64) : (r.wReg d v).deadline = r.deadline := by
  unfold Rec.wReg; split <;> rfl
@[simp] theorem wReg_pc (r : Rec) (d : BitVec 4) (v : W64) : (r.wReg d v).pc = r.pc := by
  unfold Rec.wReg; split <;> rfl
@[simp] theorem wReg_prog (r : Rec) (d : BitVec 4) (v : W64) : (r.wReg d v).prog = r.prog := by
  unfold Rec.wReg; split <;> rfl
@[simp] theorem wReg_flags (r : Rec) (d : BitVec 4) (v : W64) : (r.wReg d v).flags = r.flags := by
  unfold Rec.wReg; split <;> rfl
@[simp] theorem wReg_waitExp (r : Rec) (d : BitVec 4) (v : W64) : (r.wReg d v).waitExp = r.waitExp := by
  unfold Rec.wReg; split <;> rfl
@[simp] theorem wReg_gramSlot (r : Rec) (d : BitVec 4) (v : W64) : (r.wReg d v).gramSlot = r.gramSlot := by
  unfold Rec.wReg; split <;> rfl
@[simp] theorem wReg_gramState (r : Rec) (d : BitVec 4) (v : W64) : (r.wReg d v).gramState = r.gramState := by
  unfold Rec.wReg; split <;> rfl
@[simp] theorem wReg_gramDepth (r : Rec) (d : BitVec 4) (v : W64) : (r.wReg d v).gramDepth = r.gramDepth := by
  unfold Rec.wReg; split <;> rfl
@[simp] theorem wReg_stopSet (r : Rec) (d : BitVec 4) (v : W64) : (r.wReg d v).stopSet = r.stopSet := by
  unfold Rec.wReg; split <;> rfl
@[simp] theorem wReg_stopCnt (r : Rec) (d : BitVec 4) (v : W64) : (r.wReg d v).stopCnt = r.stopCnt := by
  unfold Rec.wReg; split <;> rfl
@[simp] theorem wReg_held (r : Rec) (d : BitVec 4) (v : W64) : (r.wReg d v).held = r.held := by
  unfold Rec.wReg; split <;> rfl
@[simp] theorem wReg_seq (r : Rec) (d : BitVec 4) (v : W64) : (r.wReg d v).seq = r.seq := by
  unfold Rec.wReg; split <;> rfl
@[simp] theorem wReg_seed (r : Rec) (d : BitVec 4) (v : W64) : (r.wReg d v).seed = r.seed := by
  unfold Rec.wReg; split <;> rfl
@[simp] theorem wReg_temp (r : Rec) (d : BitVec 4) (v : W64) : (r.wReg d v).temp = r.temp := by
  unfold Rec.wReg; split <;> rfl
@[simp] theorem wReg_topP (r : Rec) (d : BitVec 4) (v : W64) : (r.wReg d v).topP = r.topP := by
  unfold Rec.wReg; split <;> rfl
@[simp] theorem wReg_topK (r : Rec) (d : BitVec 4) (v : W64) : (r.wReg d v).topK = r.topK := by
  unfold Rec.wReg; split <;> rfl
@[simp] theorem wReg_maxtok (r : Rec) (d : BitVec 4) (v : W64) : (r.wReg d v).maxtok = r.maxtok := by
  unfold Rec.wReg; split <;> rfl
@[simp] theorem wReg_part (r : Rec) (d : BitVec 4) (v : W64) : (r.wReg d v).part = r.part := by
  unfold Rec.wReg; split <;> rfl
@[simp] theorem wReg_parH (r : Rec) (d : BitVec 4) (v : W64) : (r.wReg d v).parH = r.parH := by
  unfold Rec.wReg; split <;> rfl
@[simp] theorem wReg_parGen (r : Rec) (d : BitVec 4) (v : W64) : (r.wReg d v).parGen = r.parGen := by
  unfold Rec.wReg; split <;> rfl
@[simp] theorem wReg_parDev (r : Rec) (d : BitVec 4) (v : W64) : (r.wReg d v).parDev = r.parDev := by
  unfold Rec.wReg; split <;> rfl
@[simp] theorem wReg_forkIndex (r : Rec) (d : BitVec 4) (v : W64) : (r.wReg d v).forkIndex = r.forkIndex := by
  unfold Rec.wReg; split <;> rfl
@[simp] theorem wReg_touch (r : Rec) (d : BitVec 4) (v : W64) : (r.wReg d v).touch = r.touch := by
  unfold Rec.wReg; split <;> rfl
@[simp] theorem wReg_stattok (r : Rec) (d : BitVec 4) (v : W64) : (r.wReg d v).stattok = r.stattok := by
  unfold Rec.wReg; split <;> rfl
@[simp] theorem wReg_jseq (r : Rec) (d : BitVec 4) (v : W64) : (r.wReg d v).jseq = r.jseq := by
  unfold Rec.wReg; split <;> rfl
@[simp] theorem wReg_parks (r : Rec) (d : BitVec 4) (v : W64) : (r.wReg d v).parks = r.parks := by
  unfold Rec.wReg; split <;> rfl
@[simp] theorem wReg_revives (r : Rec) (d : BitVec 4) (v : W64) : (r.wReg d v).revives = r.revives := by
  unfold Rec.wReg; split <;> rfl
@[simp] theorem wReg_replays (r : Rec) (d : BitVec 4) (v : W64) : (r.wReg d v).replays = r.replays := by
  unfold Rec.wReg; split <;> rfl
@[simp] theorem wReg_recomputes (r : Rec) (d : BitVec 4) (v : W64) : (r.wReg d v).recomputes = r.recomputes := by
  unfold Rec.wReg; split <;> rfl
@[simp] theorem wReg_admitNt (r : Rec) (d : BitVec 4) (v : W64) : (r.wReg d v).admitNt = r.admitNt := by
  unfold Rec.wReg; split <;> rfl

theorem wReg_flags_comm (r : Rec) (d : BitVec 4) (v : W64) (f : BitVec 32) :
    ({ r with flags := f } : Rec).wReg d v = { r.wReg d v with flags := f } := by
  unfold Rec.wReg; split <;> rfl

/-- Where the status and the detail stand in FLAGS (R249). -/
theorem wStat_flags (r : Rec) (st : BitVec 8) (d : Nat) :
    (r.wStat st d).flags.toNat / 2 ^ 8 % 2 ^ 8 = st.toNat ∧ (r.wStat st d).flags.toNat / 2 ^ 16 = d % 2 ^ 16 := by
  have h1 := r.flags.isLt; have h2 := st.isLt
  simp only [Rec.wStat, setBits, bitsOf, BitVec.toNat_ofNat]
  norm_num at *
  omega

/-! ### Arithmetic and fields -/

/-- The sum of two signed numbers does not fit where their signs agree and its own differs. -/
theorem add_over (a b : W64) : ((a.msb == b.msb) && ((a + b).msb != a.msb)) = !decide (-2 ^ 63 ≤ a.toInt + b.toInt ∧ a.toInt + b.toInt < 2 ^ 63) := by
  have e : (a + b).toInt = (a.toInt + b.toInt).bmod (2^64) := BitVec.toInt_add a b
  simp only [BitVec.msb_eq_toInt]
  have h1 := BitVec.toInt_lt (x := a); have h2 := BitVec.le_toInt (x := a)
  have h3 := BitVec.toInt_lt (x := b); have h4 := BitVec.le_toInt (x := b)
  rw [e, Int.bmod_def]
  rw [Bool.eq_iff_iff]
  simp only [Bool.and_eq_true, bne_iff_ne, beq_iff_eq, Bool.not_eq_true', decide_eq_true_eq, decide_eq_false_iff_not, decide_eq_decide, ne_eq]
  norm_num at *
  omega

/-- The difference of two signed numbers does not fit where their signs differ and its own is not the first one's. -/
theorem sub_over (a b : W64) : ((a.msb != b.msb) && ((a - b).msb != a.msb)) = !decide (-2 ^ 63 ≤ a.toInt - b.toInt ∧ a.toInt - b.toInt < 2 ^ 63) := by
  have e : (a - b).toInt = (a.toInt - b.toInt).bmod (2^64) := BitVec.toInt_sub
  simp only [BitVec.msb_eq_toInt]
  have h1 := BitVec.toInt_lt (x := a); have h2 := BitVec.le_toInt (x := a)
  have h3 := BitVec.toInt_lt (x := b); have h4 := BitVec.le_toInt (x := b)
  rw [e, Int.bmod_def]
  rw [Bool.eq_iff_iff]
  simp only [Bool.and_eq_true, bne_iff_ne, beq_iff_eq, Bool.not_eq_true', decide_eq_true_eq, decide_eq_false_iff_not, decide_eq_decide, ne_eq]
  norm_num at *
  omega

/-- The conditions on the flags of a difference are the relations of its operands. -/
theorem related_cond (c : Nat) (x y : W64) :
    Hub.cond c (Hub.subFlags x y).1 (Hub.subFlags x y).2.1 (Hub.subFlags x y).2.2.1 (Hub.subFlags x y).2.2.2 = related c x y := by
  have e : (x - y).toInt = (x.toInt - y.toInt).bmod (2^64) := BitVec.toInt_sub
  have h0 : (x - y == 0) = decide (x = y) := by
    rw [Bool.eq_iff_iff]; simp only [beq_iff_eq, decide_eq_true_eq]; exact sub_eq_zero
  have h1 := BitVec.toInt_lt (x := x); have h2 := BitVec.le_toInt (x := x)
  have h3 := BitVec.toInt_lt (x := y); have h4 := BitVec.le_toInt (x := y)
  have lt : ((x - y).msb != ((x.msb != y.msb) && ((x - y).msb != x.msb))) = decide (x.toInt < y.toInt) := by
    rw [sub_over]
    simp only [BitVec.msb_eq_toInt]
    rw [e, Int.bmod_def]
    rw [Bool.eq_iff_iff]
    simp only [bne_iff_ne, ne_eq, decide_eq_true_eq]
    rw [Bool.eq_iff_iff]
    simp only [decide_eq_true_eq, Bool.not_eq_true', decide_eq_false_iff_not]
    norm_num at *
    omega
  unfold Hub.cond related Hub.subFlags
  dsimp only
  split
  · exact h0
  · rw [h0]; simp
  · exact lt
  · have : ((x - y).msb == ((x.msb != y.msb) && ((x - y).msb != x.msb))) = !((x - y).msb != ((x.msb != y.msb) && ((x - y).msb != x.msb))) := by simp [bne]
    rw [this, lt, Bool.eq_iff_iff]; simp only [Bool.not_eq_true', decide_eq_false_iff_not, decide_eq_true_eq, not_lt]
  · rfl
  · have : (!decide (x.toNat < y.toNat)) = decide (y.toNat ≤ x.toNat) := by
      rw [Bool.eq_iff_iff]; simp only [Bool.not_eq_true', decide_eq_false_iff_not, decide_eq_true_eq, not_lt]
    first | exact this | (split <;> first | (exfalso; simp_all; done) | exact this)

/-- The lowest set bit. -/
theorem lowBit_eq (v : BitVec 16) (b : Nat) (hb : b < 16) (h : v.getLsbD b = true) (hl : ∀ c, c < b → v.getLsbD c = false) : Hub.lowBit v = b := by
  unfold Hub.lowBit
  have : (List.range 16).find? (fun b => v.getLsbD b) = some b := by
    rw [List.find?_range_eq_some]
    exact ⟨h, by simpa using hb, fun j hj => by simp [hl j hj]⟩
  rw [this]; rfl

/-- A field of a word fits its bits. -/
theorem iw_lt (w : W64) (hi lo : Nat) : iw w hi lo < 2 ^ (hi + 1 - lo) := by
  unfold iw bitsOf; exact Nat.mod_lt _ (by positivity)

/-- Selectors that name no field. -/
theorem getField_none (x : Sess) (k : Nat) (hk : k = 0 ∨ (0x06 < k ∧ k < 0x10) ∨ 0x1F < k) (hlt : k < 256) : getField x k = none := by
  unfold getField
  split <;> first | rfl | (exfalso; omega)

/-- Selectors that name no writable field. -/
theorem setWidth_none (k : Nat) (hk : 0x06 < k) : setWidth k = none := by
  unfold setWidth
  split <;> first | rfl | (exfalso; omega)

namespace Hub

variable (h : Hub)

@[simp] theorem s_unready_same (i : Handle) : (h.unready i).s i = { h.s i with runnable := false } := s_modS_same h i (fun x => { x with runnable := false })
theorem s_unready_ne (i j : Handle) (hj : j ≠ i) : (h.unready i).s j = h.s j :=
  s_modS_ne h i j (fun x => { x with runnable := false }) hj
@[simp] theorem s_block_same (i : Handle) (b : Blk) : (h.block i b).s i = { h.s i with blk := some b, runnable := false } := by
  unfold block; rw [s_unready_same, s_modS_same]
theorem s_block_ne (i j : Handle) (b : Blk) (hj : j ≠ i) : (h.block i b).s j = h.s j := by
  unfold block; rw [s_unready_ne _ i j hj, s_modS_ne _ i j _ hj]

/-- A branch changes the PC alone. -/
theorem branchIf_modR (h : Hub) (i : Handle) (w : W64) (c : Bool) :
    h.branchIf i w c = h.modR i (fun r => { r with pc := if c then BitVec.ofNat 24 (iw w 23 0) else r.pc + 1 }) := by
  cases c <;> rfl

theorem s_stat_same (h : Hub) (i : Handle) (st : BitVec 8) (d : Nat) :
    (h.stat i st d).s i = { h.s i with r := { (h.s i).r.wStat st d with pc := (h.s i).r.pc + 1 } } := s_modR_same h i _

theorem s_stat_ne (h : Hub) (i j : Handle) (st : BitVec 8) (d : Nat) (hj : j ≠ i) : (h.stat i st d).s j = h.s j := s_modR_ne h i j _ hj

theorem s_armTtl_same (h : Hub) (i : Handle) : (h.armTtl i).s i = { h.s i with r := if (h.s i).r.period = 0
    then { (h.s i).r with ttlArmed := false, expiry := 0 }
    else { (h.s i).r with ttlArmed := true, expiry := BitVec.ofNat 64 (h.nt.toNat + (h.s i).r.period.toNat * 1000000) } } := by
  unfold armTtl; dsimp only; rw [s_modR_same]

theorem s_armTtl_ne (h : Hub) (i j : Handle) (hj : j ≠ i) : (h.armTtl i).s j = h.s j := by
  unfold armTtl; dsimp only; rw [s_modR_ne _ i j _ hj]

theorem s_touch_same (h : Hub) (i : Handle) : (h.touch i).s i = { h.s i with r := { (h.s i).r with touch := h.nt } } := by
  unfold touch; dsimp only; rw [s_modR_same]

theorem s_touch_ne (h : Hub) (i j : Handle) (hj : j ≠ i) : (h.touch i).s j = h.s j := by
  unfold touch; dsimp only; rw [s_modR_ne _ i j _ hj]

@[simp] theorem nt_jent (i : Handle) (code : Nat) (a b : BitVec 4) (data : Nat) : (h.jent i code a b data).nt = h.nt := rfl
@[simp] theorem nt_modR (i : Handle) (f : Rec → Rec) : (h.modR i f).nt = h.nt := rfl
@[simp] theorem nt_notice (i : Handle) (code data : Nat) : (h.notice i code data).nt = h.nt := nt_of_still (still_notice h i code data)
@[simp] theorem nt_trans (i : Handle) (dst : BitVec 4) (st : BitVec 8) (code data : Nat) : (h.trans i dst st code data).nt = h.nt := by
  unfold trans; dsimp only; split <;> simp
@[simp] theorem nt_record (i : Handle) (code data : Nat) : (h.record i code data).nt = h.nt := by
  unfold record; dsimp only; split <;> simp

end Hub

end Sys2Proof.Machine
end

