-- ==== Sys2Proof/Laws/Frames.lean ====
section
/-! SUPPORT. What the shared operations leave as it is: the sessions, in operations on the Granary, on Millpond and on the
wire. -/

namespace Sys2Proof.Machine.Hub

variable (h : Hub)

/-! ### The sessions -/

theorem s_of_sess {a b : Hub} (e : a.sess = b.sess) (i : Handle) : a.s i = b.s i := by unfold s; rw [e]

theorem sess_foldl {α : Type} (f : Hub → α → Hub) (hf : ∀ h a, (f h a).sess = h.sess) (l : List α) (h : Hub) :
    (l.foldl f h).sess = h.sess := by
  induction l generalizing h with
  | nil => rfl
  | cons a l ih => rw [List.foldl_cons, ih, hf]

@[simp] theorem sess_stamp (t : Nt) : (h.stamp t).sess = h.sess := rfl
@[simp] theorem sess_modG (f : Gran → Gran) : (h.modG f).sess = h.sess := rfl
@[simp] theorem sess_touchPage (u : Nat) : (h.touchPage u).sess = h.sess := by unfold touchPage; dsimp only; split <;> rfl
@[simp] theorem sess_journalMap (u : Nat) (old : BitVec 32) : (h.journalMap u old).sess = h.sess := by simp [journalMap]
@[simp] theorem sess_pi (f : Fld) (i v : Nat) : (h.pi f i v).sess = h.sess := rfl
@[simp] theorem sess_inci (f : Fld) (i n : Nat) : (h.inci f i n).sess = h.sess := rfl
@[simp] theorem sess_p (f : Fld) (v : Nat) : (h.p f v).sess = h.sess := rfl
@[simp] theorem sess_inc (f : Fld) (n : Nat) : (h.inc f n).sess = h.sess := rfl
@[simp] theorem sess_devEv (code die data st : Nat) : (h.devEv code die data st).sess = h.sess := rfl
@[simp] theorem sess_emit (o : Out) : (h.emit o).sess = h.sess := rfl
@[simp] theorem sess_signal (v : BitVec 6) : (h.signal v).sess = h.sess := sess_of_still (still_signal h v)
@[simp] theorem sess_flag (f : Fld) (v : BitVec 6) : (h.flag f v).sess = h.sess := sess_of_still (still_flag h f v)
@[simp] theorem sess_pushRec (st : Bool) (p : Nat) (r : Rcd) : (h.pushRec st p r).sess = h.sess :=
  sess_of_still (still_pushRec h st p r)
@[simp] theorem sess_complete (c : Sub) (st : BitVec 8) (d : Nat) (n : W64) : (h.complete c st d n).sess = h.sess :=
  sess_of_still (still_complete h c st d n)
@[simp] theorem sess_fireInj (p : Nat) (m : Inj → Bool) : (h.fireInj p m).2.sess = h.sess := sess_of_still (still_fireInj h p m)
@[simp] theorem sess_hostRead (a : W64) (n : Nat) (w : RdWait) : (h.hostRead a n w).sess = h.sess := rfl
@[simp] theorem sess_hostWrite (w : WrWait) : (h.hostWrite w).sess = h.sess := rfl

@[simp] theorem sess_send (d : BitVec 6) (m : Msg) : (h.send d m).sess = h.sess := by
  unfold send; dsimp only; split <;> rfl

@[simp] theorem sess_grnTraffic (w : Bool) : (h.grnTraffic w).sess = h.sess := by
  unfold grnTraffic; dsimp only; split <;> rfl

@[simp] theorem sess_admitTun (n : Nat) : (h.admitTun n).sess = h.sess := by
  induction n generalizing h with
  | zero => rfl
  | succ n ih =>
    unfold admitTun
    split
    · rfl
    · rw [ih]; rfl

@[simp] theorem sess_dropUnits (us : List Nat) : (h.dropUnits us).sess = h.sess := by
  unfold dropUnits; dsimp only
  rw [sess_admitTun, sess_foldl _ (fun h e => sess_journalMap h _ _)]; rfl

@[simp] theorem sess_tunWrite (key idx kind : Nat) (full : Bool) (g : BitVec 16) : (h.tunWrite key idx kind full g).sess = h.sess := by
  simp [tunWrite]

theorem sess_grnWrite (key kind lo hi : Nat) (whole : Bool) (g : BitVec 16) (h' : Hub)
    (e : h.grnWrite key kind lo hi whole g = some h') : h'.sess = h.sess := by
  unfold grnWrite at e
  dsimp only at e
  split at e
  · cases e
  · cases e
    rw [sess_foldl _ (fun h j => sess_tunWrite h _ _ _ _ _)]
    simp

theorem sess_grnLog (key lo hi : Nat) (g : BitVec 16) (h' : Hub) (e : h.grnLog key lo hi g = some h') : h'.sess = h.sess := by
  unfold grnLog at e
  split at e
  · split at e <;> cases e; rfl
  · exact sess_grnWrite h _ _ _ _ _ _ _ e

@[simp] theorem sess_grnPaid (c n : Nat) : (h.grnPaid c n).sess = h.sess := by
  unfold grnPaid; dsimp only; split <;> rfl

@[simp] theorem sess_grnAsk (c n : Nat) (x : SlLoad) : (h.grnAsk c n x).sess = h.sess := by
  unfold grnAsk; split
  · simp
  · rfl

@[simp] theorem sess_addDur (c n : Nat) (w : DurWait) : (h.addDur c n w).sess = h.sess := by
  unfold addDur; dsimp only; rw [sess_grnAsk]; rfl

/-- The start of a log's flush changes its session's mark of it alone. -/
theorem s_startFlush_same (i : Handle) : ∃ b, (h.startFlush i).s i = { h.s i with flushing := b } := by
  unfold startFlush; dsimp only
  split
  · exact ⟨(h.s i).flushing, rfl⟩
  · split
    · exact ⟨(h.s i).flushing, rfl⟩
    · rename_i h' e
      refine ⟨true, ?_⟩
      rw [s_modS_same, s_of_sess (sess_addDur _ _ _ _), s_of_sess (sess_grnLog h _ _ _ _ _ e)]

theorem s_startFlush_ne (i j : Handle) (hj : j ≠ i) : (h.startFlush i).s j = h.s j := by
  unfold startFlush; dsimp only
  split
  · rfl
  · split
    · rfl
    · rename_i h' e
      rw [s_modS_ne _ i j _ hj, s_of_sess (sess_addDur _ _ _ _), s_of_sess (sess_grnLog h _ _ _ _ _ e)]

@[simp] theorem sess_putRoot (r : BitVec 32) (sh : Nat) (x : Root) : (h.putRoot r sh x).sess = h.sess := rfl
@[simp] theorem sess_setNodes (n : SMap Node) : (h.setNodes n).sess = h.sess := rfl

@[simp] theorem sess_addRef (c : Nat) (f : Nat) : (h.addRef c f).sess = h.sess := rfl

@[simp] theorem sess_takeTable (k : Nat) : (h.takeTable k).2.sess = h.sess := rfl

theorem sess_addNodeRefs (nd n : Nat) : (h.addNodeRefs nd n).sess = h.sess := by
  induction n generalizing h nd with
  | zero => rfl
  | succ n ih =>
    unfold addNodeRefs
    split
    · rfl
    · rw [ih]; rfl

theorem sess_copyRoots (a b : BitVec 32) : (h.copyRoots a b).sess = h.sess := by
  unfold copyRoots
  apply sess_foldl
  intro h sh
  split
  · rfl
  · rename_i x _
    dsimp only
    have key : ∀ (l : SMap W64) (acc : SMap W64 × Hub), acc.2.sess = h.sess →
        (l.foldl (fun (acc : SMap W64 × Hub) e =>
          ((acc.1 ++ [(e.1, mkEntry (acc.2.takeTable (rootKey b sh)).1 false e.1)], (acc.2.takeTable (rootKey b sh)).2) : SMap W64 × Hub))
          acc).2.sess = h.sess := by
      intro l
      induction l with
      | nil => intro acc ha; exact ha
      | cons a l ih => intro acc ha; rw [List.foldl_cons]; apply ih; rw [sess_takeTable, ha]
    rw [sess_putRoot]
    apply key
    have e1 : ∀ (l m : SMap W64) (g : Hub), g.sess = h.sess →
        (m.foldl (fun h e => addRef h 1 (entryFrame e.2)) (l.foldl (fun h e => addRef h 0 (entryFrame e.2)) g)).sess = h.sess := by
      intro l m g hg
      rw [sess_foldl _ (fun h a => sess_addRef h _ _), sess_foldl _ (fun h a => sess_addRef h _ _), hg]
    split
    · simp only [sess_takeTable]; exact e1 _ _ _ rfl
    · simp only [sess_takeTable]; exact e1 _ _ _ rfl

/-- A context that becomes runnable, since now if it was not. -/
theorem s_ready_same (i : Handle) :
    (h.ready i).s i = { h.s i with runnable := true, since := if (h.s i).runnable then (h.s i).since else h.nt } := by
  unfold ready
  by_cases e : (h.s i).runnable = true
  · rw [if_pos e, if_pos e, ← e]
  · rw [if_neg e, if_neg e]; exact s_modS_same h i (fun x => { x with runnable := true, since := h.nt })
theorem s_ready_ne (i j : Handle) (hj : j ≠ i) : (h.ready i).s j = h.s j := by
  unfold ready
  split
  · rfl
  · exact s_modS_ne h i j (fun x => { x with runnable := true, since := h.nt }) hj

/-- With no write of DEADLINE held, none applies. -/
theorem renewed_none (i : Handle) (ha : (h.s i).actions.any renews = false) : h.renewed i = h := by
  unfold renewed; dsimp only
  rw [if_pos (by simp only [ha, Bool.not_false, Bool.or_true])]

/-! ### What does not look at a session's state -/

/-- The position of the session journal and the counts of lines taken and of lookups. -/
def countRegs : List Nat := [F.DGJPOS_position.a, F.HCMDS_count.a, F.AIXLOOKUPS_count.a]

/-- Registers agree but for those. -/
def regsAlike (a b : Hub) : Prop := ∀ x, x ∉ countRegs → a.reg x = b.reg x

theorem gi_alike {a b : Hub} (e : regsAlike a b) (f : Fld) (i : Nat) (hf : f.a + f.stride * i ∉ countRegs) :
    a.gi f i = b.gi f i := by unfold gi; rw [e _ hf]

theorem g_alike {a b : Hub} (e : regsAlike a b) (f : Fld) (hf : f.a + f.stride * 0 ∉ countRegs) : a.g f = b.g f :=
  gi_alike e f 0 hf

theorem on_alike {a b : Hub} (e : regsAlike a b) (f : Fld) (hf : f.a + f.stride * 0 ∉ countRegs) : a.on f = b.on f := by
  unfold on; rw [g_alike e f hf]

theorem groupN_alike {a b : Hub} (e : regsAlike a b) : a.groupN = b.groupN := by
  unfold groupN; rw [on_alike e F.NFSTAT_test (by decide), g_alike e F.POOLROLE_size (by decide)]

theorem shards_alike {a b : Hub} (e : regsAlike a b) : a.shards = b.shards := by
  unfold shards position
  rw [g_alike e F.POOLROLE_size (by decide), g_alike e F.POOLROLE_position (by decide),
    on_alike e F.CKPTSTAT_buddy_mode (by decide), groupN_alike e]

/-- Whether a session can be recomputed depends on its cache, its log and the images (R158). -/
theorem recomputable_alike {a b : Hub} (e : regsAlike a b) (hk : a.kv = b.kv) (hi : a.im = b.im) (hn : a.nt = b.nt) (i : Handle)
    (h1 : (a.s i).r.kvroot = (b.s i).r.kvroot) (h2 : (a.s i).r.nsi = (b.s i).r.nsi) (h3 : (a.s i).log = (b.s i).log)
    (h4 : (a.s i).durable = (b.s i).durable) : a.recomputable i = b.recomputable i := by
  unfold recomputable rootOf root? rootIx rootIxAt Rec.rootIx position adLive Sess.logDurable
  dsimp only
  rw [shards_alike e, g_alike e F.POOLROLE_position (by decide), hk, hi, hn, h1, h2, h3, h4]

theorem portsTo_alike {a b : Hub} (e : regsAlike a b) (d : Nat) : a.portsTo d = b.portsTo d := by
  unfold portsTo portUp
  apply List.filter_congr
  intro n hn
  have hn' : n < 16 := by simpa using hn
  rw [gi_alike e F.MOLPSTAT_state n (by simp only [countRegs, F.MOLPSTAT_state, F.DGJPOS_position, F.HCMDS_count, F.AIXLOOKUPS_count, List.mem_cons, List.not_mem_nil, or_false, not_or]; omega),
    gi_alike e F.MOLPSTAT_peer n (by simp only [countRegs, F.MOLPSTAT_peer, F.DGJPOS_position, F.HCMDS_count, F.AIXLOOKUPS_count, List.mem_cons, List.not_mem_nil, or_false, not_or]; omega),
    gi_alike e F.MOLREMAP_primary n (by simp only [countRegs, F.MOLREMAP_primary, F.DGJPOS_position, F.HCMDS_count, F.AIXLOOKUPS_count, List.mem_cons, List.not_mem_nil, or_false, not_or]; omega)]

theorem route_alike {a b : Hub} (e : regsAlike a b) (d id : Nat) : a.route d id = b.route d id := by
  unfold route dev
  rw [g_alike e F.HDEVIDX_index (by decide), g_alike e F.NFNODE_active (by decide), on_alike e F.HDEVIDX_spare (by decide)]
  simp only [portsTo_alike e]

/-- What the next transition changes beside its session: the session journal and its position. -/
theorem regsAlike_trans (h : Hub) (i : Handle) (dst : BitVec 4) (st : BitVec 8) (code data : Nat) (hc : noticed code = false) :
    regsAlike (h.trans i dst st code data) h := by
  intro x hx
  unfold trans; dsimp only
  rw [if_neg (by simp [hc])]
  unfold jent; dsimp only
  exact reg_pi_ne _ F.DGJPOS_position 0 _ x (by intro h; exact hx (by simp [countRegs, h]))

theorem kv_trans (h : Hub) (i : Handle) (dst : BitVec 4) (st : BitVec 8) (code data : Nat) :
    (h.trans i dst st code data).kv = h.kv ∧ (h.trans i dst st code data).im = h.im := by
  unfold trans; dsimp only
  split
  · rw [kv_of_still (still_notice _ i code data), im_of_still (still_notice _ i code data)]; exact ⟨rfl, rfl⟩
  · exact ⟨rfl, rfl⟩

theorem reachable_alike {a b : Hub} (e : regsAlike a b) (d : BitVec 6) : a.reachable d = b.reachable d := by
  unfold reachable dev; rw [g_alike e F.HDEVIDX_index (by decide), route_alike e]

end Sys2Proof.Machine.Hub
end

