-- ==== Sys2Proof/Laws/Sessions.lean ====
section
/-! SUPPORT. What the shared operations on sessions do: parks, revives, migrations, drops, children. -/

namespace Sys2Proof.Machine

open Hub




/-- What a park arms and touches before it starts, as one hub (R43, R46). -/
theorem s_armed_same (h : Hub) (i : Handle) (ev : Bool) :
    ∃ t, (if ev then h.armTtl i else (h.armTtl i).touch i).s i
      = { (h.armTtl i).s i with r := { ((h.armTtl i).s i).r with touch := t } } := by
  cases ev
  · refine ⟨(h.armTtl i).nt, ?_⟩
    rw [if_neg (by decide), s_touch_same]
  · refine ⟨((h.armTtl i).s i).r.touch, ?_⟩
    rw [if_pos rfl]

theorem s_armed_ne (h : Hub) (i j : Handle) (ev : Bool) (hj : j ≠ i) :
    (if ev then h.armTtl i else (h.armTtl i).touch i).s j = h.s j := by
  cases ev
  · rw [if_neg (by decide), s_touch_ne _ i j hj, s_armTtl_ne h i j hj]
  · rw [if_pos rfl, s_armTtl_ne h i j hj]

/-- A park that starts: what its session holds (R43, R153). -/
theorem startPark_same (h : Hub) (i : Handle) (ev : Bool) (sub : Option Sub) :
    let x := h.s i
    let y := (h.startPark i ev sub).s i
    y.r.state = S.parking ∧ y.r.prior = x.r.state ∧ y.rest = x.r.state ∧ y.r.pc = x.r.pc ∧ y.r.flags = x.r.flags
    ∧ (x.r.period = 0 → y.r.ttlArmed = false)
    ∧ (x.r.period ≠ 0 → y.r.ttlArmed = true ∧ y.r.expiry = BitVec.ofNat 64 (h.nt.toNat + x.r.period.toNat * 1000000)) := by
  intro x y
  obtain ⟨t, ht⟩ := s_armed_same h i ev
  have hy0 : y = (((((if ev then h.armTtl i else (h.armTtl i).touch i).modS i (fun x => { x with rest := x.r.state, park := some { byEvict := ev, nt := h.nt }, parkSubs := x.parkSubs ++ sub.toList })).trans i S.parking St.ok 0x0040
      (((if ev then h.armTtl i else (h.armTtl i).touch i).s i).r.expiry.toNat)).startFlush i).s i) := rfl
  generalize (if ev then h.armTtl i else (h.armTtl i).touch i) = g at ht hy0
  obtain ⟨b, e⟩ := s_startFlush_same ((g.modS i (fun x => { x with rest := x.r.state, park := some { byEvict := ev, nt := h.nt }, parkSubs := x.parkSubs ++ sub.toList })).trans i S.parking St.ok 0x0040 (g.s i).r.expiry.toNat) i
  rw [hy0, e, s_trans_same, s_modS_same, ht, s_armTtl_same]
  by_cases hp : x.r.period = 0
  · have hp' : (h.s i).r.period = 0 := hp
    simp only [if_pos hp']
    exact ⟨trivial, rfl, rfl, rfl, rfl, fun _ => trivial, fun h => absurd hp h⟩
  · have hp' : (h.s i).r.period ≠ 0 := hp
    simp only [if_neg hp']
    exact ⟨trivial, rfl, rfl, rfl, rfl, fun h => absurd h hp, fun _ => ⟨trivial, rfl⟩⟩

/-- No other session changes. -/
theorem startPark_ne (h : Hub) (i j : Handle) (ev : Bool) (sub : Option Sub) (hj : j ≠ i) : (h.startPark i ev sub).s j = h.s j := by
  unfold startPark; dsimp only
  rw [s_startFlush_ne _ i j hj, s_trans_ne _ i j _ _ _ _ hj, s_modS_ne _ i j _ hj, s_armed_ne _ i j ev hj]

/-- A revive that is not refused: what its session holds (R155). -/
theorem startRevive_begun (h : Hub) (i : Handle) (cause : BitVec 2) (sub : Option Sub)
    (h1 : (h.s i).r.ttlArmed = true → h.nt < (h.s i).r.expiry) (h2 : (h.s i).r.logonly = false ∨ h.recomputable i = true) :
    (h.startRevive i cause sub).1 = none ∧
    (let x := h.s i
     let y := (h.startRevive i cause sub).2.s i
     y.r.state = S.reviving ∧ y.r.prior = x.r.state ∧ y.r.pc = x.r.pc ∧ y.r.ttlArmed = false ∧ y.r.expiry = 0 ∧ y.r.touch = h.nt)
    ∧ (∀ j, j ≠ i → (h.startRevive i cause sub).2.s j = h.s j) := by
  unfold startRevive; dsimp only
  have c1 : ((h.s i).r.ttlArmed && decide ((h.s i).r.expiry ≤ h.nt)) = false := by
    cases ha : (h.s i).r.ttlArmed
    · rfl
    · simpa using h1 ha
  have c2 : ((h.s i).r.logonly && !h.recomputable i) = false := by
    rcases h2 with h2 | h2 <;> simp [h2]
  simp only [c1, c2, Bool.false_eq_true, if_false]
  have hf (h : Hub) : ∀ k, (if h.groupN ≤ 1 then ((0 : W64), h) else h.fresh).2.s k = h.s k ∧
      (if h.groupN ≤ 1 then ((0 : W64), h) else h.fresh).2.nt = h.nt := by intro k; split <;> exact ⟨rfl, rfl⟩
  have h0 := hf h
  generalize (if h.groupN ≤ 1 then ((0 : W64), h) else h.fresh) = q0 at h0 ⊢
  have hq : ∀ k, (if q0.2.groupN ≤ 1 then ((0 : W64), q0.2) else q0.2.fresh).2.s k = h.s k ∧
      (if q0.2.groupN ≤ 1 then ((0 : W64), q0.2) else q0.2.fresh).2.nt = h.nt :=
    fun k => ⟨(hf q0.2 k).1.trans (h0 k).1, (hf q0.2 k).2.trans (h0 k).2⟩
  generalize (if q0.2.groupN ≤ 1 then ((0 : W64), q0.2) else q0.2.fresh) = q at hq
  refine ⟨trivial, ?_, ?_⟩
  · simp only [s_modS_same, s_touch_same, s_trans_same, s_modR_same, hq i]
    simp [hq i]
  · intro j hj
    rw [s_modS_ne _ i j _ hj, s_touch_ne _ i j hj, s_trans_ne _ i j _ _ _ _ hj, s_modR_ne _ i j _ hj]; exact (hq j).1


/-- A touch and the end of a context's run leave the registers, cached state, images and node time. -/
theorem unready_touch (g : Hub) (i : Handle) : (∀ x, ((g.touch i).unready i).reg x = g.reg x)
    ∧ (((g.touch i).unready i).kv = g.kv ∧ ((g.touch i).unready i).im = g.im) ∧ ((g.touch i).unready i).nt = g.nt := by
  dsimp only [unready, touch, modR, modS, setS]; exact ⟨fun _ => rfl, ⟨rfl, rfl⟩, rfl⟩

/-- A migration that can start: what its session holds (R176). -/
theorem startMig_begun (h : Hub) (i : Handle) (d : BitVec 6) (kvm : Bool) (sub : Option Sub) (ho : Bool)
    (h1 : h.reachable d = true) (h2 : kvm = true → h.recomputable i = true) :
    (let x := h.s i
     let y := (h.startMig i d kvm sub ho).s i
     y.r.state = S.migrating ∧ y.r.prior = x.r.state ∧ y.blk = x.blk ∧ y.runnable = false ∧ y.r.pc = x.r.pc ∧ y.r.ownEpoch = x.r.ownEpoch
     ∧ y.actions = x.actions ∧ y.relHeld = x.relHeld ∧ y.dropHeld = x.dropHeld)
    ∧ (∀ j, j ≠ i → (h.startMig i d kvm sub ho).s j = h.s j) := by
  unfold startMig; dsimp only
  generalize hg0 : (h.modS i fun x => { x with migOut := some { target := d, kvmode := kvm, sub := sub, handoff := ho, due := 0 } }) = g0
  generalize hg1 : (g0.trans i S.migrating St.ok 0x0050 (d.toNat + ((h.s i).r.ownEpoch + 1).toNat * 2 ^ 16)) = g1
  have e0 : g0.s i = { h.s i with migOut := some { target := d, kvmode := kvm, sub := sub, handoff := ho, due := 0 } } := by
    rw [← hg0, s_modS_same]
  have e1 := s_trans_same g0 i S.migrating St.ok 0x0050 (d.toNat + ((h.s i).r.ownEpoch + 1).toNat * 2 ^ 16)
  rw [hg1, e0] at e1
  have e2 := s_touch_same g1 i
  rw [e1] at e2
  have ra : regsAlike ((g1.touch i).unready i) h := by
    intro x hx
    have := regsAlike_trans g0 i S.migrating St.ok 0x0050 (d.toNat + ((h.s i).r.ownEpoch + 1).toNat * 2 ^ 16) (by decide) x hx
    rw [hg1] at this
    have t2 : g0.reg x = h.reg x := by rw [← hg0]; rfl
    rw [(unready_touch g1 i).1 x, this, t2]
  have kv : ((g1.touch i).unready i).kv = h.kv ∧ ((g1.touch i).unready i).im = h.im := by
    have := kv_trans g0 i S.migrating St.ok 0x0050 (d.toNat + ((h.s i).r.ownEpoch + 1).toNat * 2 ^ 16)
    rw [hg1] at this
    have t1 : g0.kv = h.kv ∧ g0.im = h.im := by rw [← hg0]; exact ⟨rfl, rfl⟩
    have t2 := (unready_touch g1 i).2.1
    exact ⟨t2.1.trans (this.1.trans t1.1), t2.2.trans (this.2.trans t1.2)⟩
  have hn : ((g1.touch i).unready i).nt = h.nt := by
    rw [(unready_touch g1 i).2.2, ← hg1, nt_trans, ← hg0]; rfl
  have rr : ((g1.touch i).unready i).reachable d = true := by rw [reachable_alike ra, h1]
  have rc : ((g1.touch i).unready i).recomputable i = h.recomputable i := by
    apply recomputable_alike ra kv.1 kv.2 hn <;> rw [s_unready_same, e2]
  rw [if_neg (by
    rw [rc]; cases hk : kvm
    · simp
    · simp [h2 hk]), if_neg (by simp [rr])]
  constructor
  · simp only [s_of_sess (sess_send _ _ _), s_modS_same, s_unready_same, e2]
    exact ⟨trivial, trivial, trivial, trivial, trivial, trivial, trivial, trivial, trivial⟩
  · intro j hj
    rw [s_of_sess (sess_send _ _ _), s_modS_ne _ i j _ hj, s_unready_ne _ i j hj, s_touch_ne _ i j hj, ← hg1, s_trans_ne _ i j _ _ _ _ hj, ← hg0,
      s_modS_ne _ i j _ hj]

/-- A dropped session's record is free. -/
theorem s_dropSess_same (h : Hub) (i : Handle) (rel : Bool) (hs : (h.s i).r.state ≠ S.free) : (h.dropSess i rel).s i = {} := by
  unfold dropSess; dsimp only
  rw [if_neg (by simpa using hs)]
  generalize ((h.discardHeld i).childDone (h.s i).r) = q
  obtain ⟨gone, h1⟩ := q
  dsimp only
  rw [s_setS_same]

/-- A session whose program's DROP may apply is dropped. -/
theorem settled_drop (h : Hub) (i : Handle) (h1 : (h.s i).relHeld = none) (h2 : (h.s i).intakes = 0) (h3 : h.holds i = false)
    (h4 : (h.s i).dropHeld = true) (h7 : (h.s i).dropPos = 0) (h5 : (h.s i).r.state ≠ S.free) (h6 : (h.s i).r.state ≠ S.migrating) :
    (h.settled i).s i = {} := by
  have e : (h.settle i ((h.s i).actions.length + 2)).s i = {} := by
    unfold settle; dsimp only
    rw [if_neg (by simpa using h5), h1]
    dsimp only
    rw [if_neg (by simp [h3]), if_pos (by simp [h4, h7, h6]), if_pos (by simp [h2])]
    rw [s_of_sess (sess_foldl _ (fun h a => sess_complete h _ _ _ _) _ _)]
    exact s_dropSess_same h i false h5
  unfold settled; rw [renewed_none _ i (by rw [e]; rfl), e]

/-- What a context that may run is not. -/
theorem runs_state {h : Hub} {i : Handle} (hr : h.runs i = true) :
    (h.s i).r.state ≠ S.free ∧ (h.s i).r.state ≠ S.faulted ∧ (h.s i).r.state ≠ S.migrating ∧ (h.s i).blk = none := by
  unfold runs at hr; dsimp only at hr
  simp only [Bool.and_eq_true, bne_iff_ne, Option.isNone_iff_eq_none] at hr
  exact ⟨hr.1.1.1.1.1.1, hr.1.1.1.1.1.2, hr.1.1.1.1.2, hr.1.1.1.2⟩

theorem holds_dropHeld (h : Hub) (c : Handle) (x : Sess) (hx : (h.s c).r.state = x.r.state) (hd : (h.s c).demote = x.demote) :
    (h.setS c x).holds c = h.holds c := by
  unfold holds; dsimp only
  rw [s_setS_same, hx, hd]; rfl

/-- With no injection armed none fires. -/
theorem fireInj_none (h : Hub) (hi : h.inj = []) (p : Nat) (m : Inj → Bool) : h.fireInj p m = (false, h) := by
  unfold fireInj fireAt; rw [hi]; rfl

/-- A lookup with no injection armed counts and finds. -/
theorem lookup_plain (h : Hub) (sk : BitVec 128) (hi : h.inj = []) :
    ∃ o, h.lookup sk = (false, o, h.inc F.AIXLOOKUPS_count) := by
  unfold lookup; dsimp only
  have hi' : (h.inc F.AIXLOOKUPS_count).inj = [] := hi
  rw [fireInj_none _ hi']; dsimp only
  simp only [Bool.false_eq_true, if_false]
  rw [fireInj_none _ hi']
  exact ⟨_, rfl⟩

/-- Writes agree on A0 to A7 where the records do. -/
theorem wReg_a_eq (r r' : Rec) (d : BitVec 4) (v : W64) (h : r.a = r'.a) : (r.wReg d v).a = (r'.wReg d v).a := by
  unfold Rec.wReg; split <;> simp [h]

/-- The NSI of a FORK child (R48). -/
theorem makeChild_nsi (h : Hub) (i c : Handle) (w : W64) (sk : BitVec 128) (seed : W64) :
    (h.makeChild i c w sk seed).1 = nsiOf h.dev c (smGet 0 h.gens c.toNat + 1) (h.s i).r.tenant := rfl

/-- The records of a FORK child and of its parent (R48). -/
theorem makeChild_s (h : Hub) (i c : Handle) (w : W64) (sk : BitVec 128) (seed : W64) (hc : c ≠ i) :
    (let x := h.s i
     let z := (h.makeChild i c w sk seed).2.s c
     z.r.state = S.ready ∧ z.r.sk = sk ∧ z.r.nsi = nsiOf h.dev c (smGet 0 h.gens c.toNat + 1) x.r.tenant ∧ z.r.a = x.r.a
     ∧ z.r.pc = BitVec.ofNat 24 (iw w 23 0) ∧ z.r.prog = BitVec.ofNat 8 (iw w 31 24)
     ∧ z.r.seed = seed ∧ z.r.committed = x.r.committed ∧ z.r.child = true ∧ z.r.parH = i ∧ z.r.turn = 0 ∧ z.runnable = true)
    ∧ (let y := (h.makeChild i c w sk seed).2.s i
       let x := h.s i
       y.r.state = x.r.state ∧ y.r.pc = x.r.pc ∧ y.r.a = x.r.a) := by
  have hic : i ≠ c := fun h => hc h.symm
  unfold makeChild bumpGen
  dsimp only
  have hs : ∀ (a : Hub) (b : Bool) (p q : BitVec 32) (nd n : Nat),
      (if b then (a.copyRoots p q).addNodeRefs nd n else a).sess = a.sess := by
    intro a b p q nd n; split
    · rw [sess_addNodeRefs, sess_copyRoots]
    · rfl
  generalize hgR : Rec.setRoot _ _ = R
  generalize hgG : Hub.setS _ c _ = G
  have gc : (G.s c).r = R := by rw [← hgG, s_setS_same]
  have gi : G.s i = h.s i := by rw [← hgG, s_setS_ne _ c i _ hic]; rfl
  simp only [s_touch_ne _ i c hc, s_touch_same, s_ready_same, s_ready_ne _ c i hic, s_modR_same, s_modR_ne _ c i _ hic, s_modR_ne _ i c _ hc, s_trans_same,
    s_trans_ne _ c i _ _ _ _ hic, s_record_ne _ i c _ _ hc, s_record_same, s_of_sess (hs _ _ _ _ _ _), gc, gi]
  refine ⟨⟨trivial, ?_, ?_, ?_, ?_, ?_, ?_, ?_, ?_, ?_, ?_, trivial⟩, trivial, trivial, trivial⟩ <;> rw [← hgR] <;> rfl

/-- What closes a command keeps the intakes that wait, while the check of its records is good. -/
theorem hopq_finish (h old : Hub) (hb : h.hubBad = false) : (finish old h).hopq = h.hopq := by
  obtain ⟨n, o, e⟩ := finish_eq h old hb; rw [e]
/-- What closes a command sends nothing back. -/
theorem mem_out_finish (h old : Hub) (hb : h.hubBad = false) (x : Out) (hx : x ∈ h.out) : x ∈ (finish old h).out := by
  obtain ⟨n, o, e⟩ := finish_eq h old hb; rw [e]; exact List.mem_append_left _ hx

theorem s_queueIntake_same (h : Hub) (q : IntakeReq) : (h.queueIntake q).s q.h = { h.s q.h with intakes := (h.s q.h).intakes + 1 } :=
  s_modS_same _ q.h _
theorem s_queueIntake_ne (h : Hub) (q : IntakeReq) (j : Handle) (hj : j ≠ q.h) : (h.queueIntake q).s j = h.s j := s_modS_ne _ q.h j _ hj

/-- A stream record moves its session's sequence number and offset alone. -/
theorem s_stream_same (h : Hub) (i : Handle) (kind : Nat) (st : BitVec 8) (fin late : Bool) (stop mark : BitVec 4) (off : BitVec 8)
    (ix tok : BitVec 32) (b : Bytes) :
    (h.stream i kind st fin late stop mark off ix tok b).s i =
      { h.s i with relOff := (h.s i).relOff + b.length, r := { (h.s i).r with seq := (h.s i).r.seq + 1 } } := by
  unfold stream; dsimp only
  rw [s_pushRec, s_of_sess (sess_inc _ _ _), s_modS_same]
theorem s_stream_ne (h : Hub) (i j : Handle) (kind : Nat) (st : BitVec 8) (fin late : Bool) (stop mark : BitVec 4) (off : BitVec 8)
    (ix tok : BitVec 32) (b : Bytes) (hj : j ≠ i) : (h.stream i kind st fin late stop mark off ix tok b).s j = h.s j := by
  unfold stream; dsimp only
  rw [s_pushRec, s_of_sess (sess_inc _ _ _), s_modS_ne _ i j _ hj]

/-- Releasing the held bytes (R133). -/
theorem flushHeld_same (h : Hub) (i : Handle) :
    ∃ q n, (h.flushHeld i).s i = { h.s i with held := [], relOff := (h.s i).relOff + (h.s i).held.length,
                                              r := { (h.s i).r with seq := q, held := n } } := by
  unfold flushHeld; dsimp only
  split
  · rename_i e
    have e' : (h.s i).held = [] := by simpa using e
    refine ⟨(h.s i).r.seq, (h.s i).r.held, ?_⟩
    generalize h.s i = x at e'
    cases x; cases e'; rfl
  · refine ⟨(h.s i).r.seq + 1, 0, ?_⟩
    rw [s_modS_same, s_stream_same]
theorem flushHeld_ne (h : Hub) (i j : Handle) (hj : j ≠ i) : (h.flushHeld i).s j = h.s j := by
  unfold flushHeld; dsimp only
  split
  · rfl
  · rw [s_modS_ne _ i j _ hj, s_stream_ne _ i j _ _ _ _ _ _ _ _ _ _ hj]

end Sys2Proof.Machine
end

