-- ==== Sys2Proof/Laws/Lines.lean ====
section
/-! SUPPORT. What a command line that passes its checks does before its command acts: what it counts, and what that leaves. -/

namespace Sys2Proof.Machine

open Hub

namespace Hub

variable (h : Hub)

/-- A line that passes its checks acts on the hub that has counted it. -/
theorem line_admitted (w op : BitVec 8) (l : CmdLine) (f : Sub → Hub → Hub) (ha : h.admits w op l = true) :
    h.line w op l f = f (h.subOf w op l) (h.counted w op) := by
  unfold admits hears at ha
  simp only [Bool.and_eq_true, Bool.or_eq_true, Bool.not_eq_true', bne_iff_ne, ne_eq, decide_eq_true_eq,
    Option.isNone_iff_eq_none] at ha
  obtain ⟨⟨⟨⟨⟨⟨⟨⟨⟨⟨⟨h1, h2⟩, h3⟩, h4⟩, h5⟩, h6⟩, h7⟩, h8⟩, h9⟩, h10⟩, h11⟩, h12⟩ := ha
  unfold line; dsimp only
  rw [h1, if_neg (by simp), h2, if_neg (by simp), h3, if_neg (by simp [h4]), if_neg h5, if_neg (by omega), h7, if_neg (by simp)]
  have t : ({ h with wins := smPut h.wins w.toNat { (smGet {} h.wins w.toNat) with
      taken := (smGet {} h.wins w.toNat).taken + 1 } } : Hub).inc F.HCMDS_count = h.took w := rfl
  rw [t, if_neg (by
    rcases h8 with h8 | h8
    · simp [h8]
    · simp only [Bool.and_eq_true, decide_eq_true_eq, not_and]; intro _; exact h8), h9]
  dsimp only
  have hc : (if policedOp op then (h.took w).police (h.subOf w op l).tenant else (true, h.took w)) = (true, h.counted w op) := by
    unfold counted
    by_cases hp : policedOp op = true
    · rw [if_pos hp, if_pos hp]
      rcases h10 with h10 | h10
      · rw [hp] at h10; cases h10
      · exact Prod.ext h10 rfl
    · rw [if_neg hp, if_neg hp]
  have hc' : (if sessionOp op || (0x22 ≤ op.toNat && op.toNat ≤ 0x26) then (h.took w).police (BitVec.ofNat 24 (h.gi F.CMDWIN_tenant w.toNat))
      else (true, h.took w)) = (true, h.counted w op) := hc
  rw [hc']
  dsimp only
  rw [if_neg (by simp), h11, if_neg (by simp), if_neg (by simpa using h12)]
  rfl

/-- What policing changes where it passes: a bucket. -/
theorem police_passed (t : BitVec 24) (hp : (h.police t).1 = true) :
    ∃ b, (h.police t).2 = { h with sl := { h.sl with pol := b } } := by
  unfold police at hp ⊢
  split
  · exact ⟨h.sl.pol, rfl⟩
  · rename_i he
    rw [if_neg he] at hp
    split
    · exact ⟨h.sl.pol, rfl⟩
    · rename_i k hk
      rw [hk] at hp
      dsimp only at hp ⊢
      split
      · exact ⟨_, rfl⟩
      · rename_i hn; rw [if_neg hn] at hp; cases hp

/-- What a line changes before its command acts: its window's count, HCMDS, a policer's bucket. -/
theorem counted_eq (w op : BitVec 8) (l : CmdLine) (ha : h.admits w op l = true) :
    ∃ b, h.counted w op = { h.took w with sl := { h.sl with pol := b } } := by
  unfold admits at ha
  simp only [Bool.and_eq_true, Bool.or_eq_true, Bool.not_eq_true'] at ha
  have h10 := ha.1.1.2
  unfold counted
  split
  · rename_i hp
    rcases h10 with h10 | h10
    · rw [hp] at h10; cases h10
    · exact police_passed (h.took w) _ h10
  · exact ⟨h.sl.pol, rfl⟩

theorem reg_counted (w op : BitVec 8) (l : CmdLine) (ha : h.admits w op l = true) (a : Nat) (hne : a ≠ F.HCMDS_count.a) :
    (h.counted w op).reg a = h.reg a := by
  obtain ⟨b, e⟩ := h.counted_eq w op l ha
  rw [e]
  exact reg_pi_ne { h with wins := _ } F.HCMDS_count 0 _ a (by simpa using hne)

theorem hcmds_counted (w op : BitVec 8) (l : CmdLine) (ha : h.admits w op l = true) :
    (h.counted w op).g F.HCMDS_count = satAdd 64 (h.g F.HCMDS_count) 1 := by
  obtain ⟨b, e⟩ := h.counted_eq w op l ha
  rw [e]
  exact g_inc_same { h with wins := _ } F.HCMDS_count 1 (by decide)

end Hub

theorem line_silent (h : Hub) (w op : BitVec 8) (l : CmdLine) (f : Sub → Hub → Hub) (h1 : h.stage 2 = false) : h.line w op l f = h := by
  unfold line; dsimp only; rw [h1, if_pos (by simp)]
theorem line_ide (h : Hub) (w op : BitVec 8) (l : CmdLine) (f : Sub → Hub → Hub) (h1 : h.stage 2 = true) (h2 : h.ideWait = true) :
    h.line w op l f = h.discard w.toNat := by
  unfold line; dsimp only; rw [h1, if_neg (by simp), h2, if_pos rfl]
theorem line_off (h : Hub) (w op : BitVec 8) (l : CmdLine) (f : Sub → Hub → Hub) (h1 : h.stage 2 = true) (h2 : h.ideWait = false)
    (h3 : h.on F.HCTL_cmd_en = false ∨ h.gi F.CMDWIN_enable w.toNat = 0) :
    h.line w op l f = (h.discard w.toNat).hstat F.HSTAT_window_off := by
  unfold line; dsimp only; rw [h1, if_neg (by simp), h2, if_neg (by simp), if_pos]
  rcases h3 with h3 | h3 <;> simp [h3]
theorem line_over (h : Hub) (w op : BitVec 8) (l : CmdLine) (f : Sub → Hub → Hub) (h1 : h.stage 2 = true) (h2 : h.ideWait = false)
    (h3 : h.on F.HCTL_cmd_en = true) (h4 : h.gi F.CMDWIN_enable w.toNat ≠ 0)
    (h5 : h.gi F.CMPSTAT_overflow (h.gi F.CMDWIN_partition w.toNat) = 1) :
    h.line w op l f = h.discard w.toNat := by
  unfold line; dsimp only; rw [h1, if_neg (by simp), h2, if_neg (by simp), if_neg (by simp [h3, h4]), if_pos h5]
theorem hears_iff (h : Hub) (w : BitVec 8) (ha : h.hears w = true) : h.stage 2 = true ∧ h.ideWait = false ∧ h.on F.HCTL_cmd_en = true
    ∧ h.gi F.CMDWIN_enable w.toNat ≠ 0 ∧ h.gi F.CMPSTAT_overflow (h.gi F.CMDWIN_partition w.toNat) ≠ 1 := by
  unfold hears at ha
  simp only [Bool.and_eq_true, Bool.not_eq_true', bne_iff_ne, ne_eq] at ha
  obtain ⟨⟨⟨⟨h1, h2⟩, h3⟩, h4⟩, h5⟩ := ha
  exact ⟨h1, h2, h3, h4, h5⟩
theorem line_full (h : Hub) (w op : BitVec 8) (l : CmdLine) (f : Sub → Hub → Hub) (ha : h.hears w = true) (h6 : 1024 ≤ h.waiting w) :
    h.line w op l f = ({ h with wins := smPut h.wins w.toNat { (smGet {} h.wins w.toNat) with
      refused := (smGet {} h.wins w.toNat).refused + 1 } } : Hub).complete (h.subOf w op l) St.windowFull 0 (if namesSession op then l.nsi else 0) := by
  obtain ⟨h1, h2, h3, h4, h5⟩ := hears_iff h w ha
  unfold line; dsimp only
  rw [h1, if_neg (by simp), h2, if_neg (by simp), if_neg (by simp [h3, h4]), if_neg h5, if_pos h6]
  rfl

/-- A taken line: the checks after it. -/
theorem line_taken (h : Hub) (w op : BitVec 8) (l : CmdLine) (f : Sub → Hub → Hub) (ha : h.hears w = true) (h6 : h.waiting w < 1024) :
    h.line w op l f =
      (if !knownOp op then (h.took w).complete (h.subOf w op l) St.badCommand
      else if adminOp op && (h.took w).gi F.CMDWIN_admin w.toNat = 0 then (h.took w).complete (h.subOf w op l) St.badCommand 0xFFFF0002
      else match badByte op l with
        | some o => (h.took w).complete (h.subOf w op l) St.badCommand o (if namesSession op then l.nsi else 0)
        | none =>
          if !(!policedOp op || ((h.took w).police (h.subOf w op l).tenant).1) then
            (h.counted w op).complete (h.subOf w op l) St.throttled 0 (if namesSession op then l.nsi else 0)
          else if !(h.counted w op).staged op then
            (h.counted w op).complete (h.subOf w op l) St.badState 0 (if namesSession op then l.nsi else 0)
          else if sessionOp op && (h.counted w op).faulted then
            (h.counted w op).complete (h.subOf w op l) St.deviceFault 0 (if namesSession op then l.nsi else 0)
          else f (h.subOf w op l) (h.counted w op)) := by
  obtain ⟨h1, h2, h3, h4, h5⟩ := hears_iff h w ha
  unfold line; dsimp only
  rw [h1, if_neg (by simp), h2, if_neg (by simp), if_neg (by simp [h3, h4]), if_neg h5, if_neg (by omega)]
  have t : ({ h with wins := smPut h.wins w.toNat { (smGet {} h.wins w.toNat) with
      taken := (smGet {} h.wins w.toNat).taken + 1 } } : Hub).inc F.HCMDS_count = h.took w := rfl
  rw [t]
  have hc : (if sessionOp op || (0x22 ≤ op.toNat && op.toNat ≤ 0x26) then (h.took w).police (BitVec.ofNat 24 (h.gi F.CMDWIN_tenant w.toNat))
      else (true, h.took w)) = (!policedOp op || ((h.took w).police (h.subOf w op l).tenant).1, h.counted w op) := by
    show (if policedOp op then _ else _) = _
    unfold counted
    by_cases hp : policedOp op = true
    · rw [if_pos hp, if_pos hp, hp]; rfl
    · rw [if_neg hp, if_neg hp]
      have : policedOp op = false := by simpa using hp
      rw [this]; rfl
  rw [hc]
  rfl

/-- Every row of command lines is its line with some meaning. -/
theorem lineOf_exec (c : Instr) (tm : Nt) (w op : BitVec 8) (l : CmdLine) (hl : lineOf c = some (tm, w, op, l)) (s : State)
    (hc : s.hub.sec.clear = none) :
    ∃ f : Sub → Hub → Hub, knownOp op = true ∧ ((((s.hub.stamp tm).line w op l f).sec.clear = none) →
      ∃ t, exec c s = .next t ∧ t.hub = Hub.finish s.hub ((s.hub.stamp tm).line w op l f) ∧ t.pending = s.pending) := by
  cases c
  case partclear a b d =>
    cases hl
    refine ⟨fun c h => h.partClear c, by decide, fun hn => ?_⟩
    show ∃ t, execPartclear tm w l s = .next t ∧ _
    unfold execPartclear; dsimp only
    rw [hn]
    exact ⟨_, rfl, rfl, rfl⟩
  all_goals first
    | (cases hl; done)
    | (cases hl; exact ⟨_, by decide, fun _ => ⟨_, rfl, rfl, rfl⟩⟩)

theorem clear_of_rest {a b : Hub} (e : a.rest = b.rest) : a.sec.clear = b.sec.clear := by
  have q := congrArg (fun x => x.sec.clear) e; exact q
theorem clear_complete (h : Hub) (c : Sub) (st : BitVec 8) (d : Nat) (n : W64) : (h.complete c st d n).sec.clear = h.sec.clear :=
  clear_of_rest (rest_complete h c st d n)
theorem clear_counted (h : Hub) (w op : BitVec 8) : (h.counted w op).sec.clear = h.sec.clear := by
  unfold counted police
  split
  · split
    · rfl
    · split
      · rfl
      · dsimp only; split <;> rfl
  · rfl

theorem ring_setRing (h : Hub) (st : Bool) (p : Nat) (x : Ring) : (h.setRing st p x).ring st p = x := by
  unfold ring setRing; cases st <;> simp

theorem recCheck_plain (h : Hub) (st : Bool) (p : Nat) (hi : h.inj = []) : h.recCheck st p = (true, h) := by
  unfold recCheck; dsimp only
  have e := fireInj_none h hi 0x19 (fun i => i.a.toNat == p + if st = true then 16 else 0)
  generalize h.fireInj 0x19 (fun i => i.a.toNat == p + if st = true then 16 else 0) = q at e
  rw [e]; rfl

/-- A record of one granule on an enabled ring with nothing waiting and room goes out at once (R139, R283). -/
theorem pushRec_out (h : Hub) (p : Nat) (r : Rcd) (b0 : Byte) (bs : Bytes) (hr : r.data = b0 :: bs) (hl : r.data.length = 64)
    (he : r.env = none) (hi : h.inj = []) (hb : (h.ring false p).backlog = []) (hen : h.gi F.CMPSIZE_enable p ≠ 0)
    (hsh : h.shapeOn = false)
    (hfit : (h.gi F.CMPPROD_p p + 2 ^ 32 - (h.ring false p).consumed.toNat) % 2 ^ 32 < 2 ^ h.ringLog false p) (hp : p < 16) :
    Out.hostWrite h.nextId (BitVec.ofNat 64 (h.gi F.CMPBASE_base p * 64 + 64 * (h.gi F.CMPPROD_p p % 2 ^ h.ringLog false p)))
      ((b0 ||| BitVec.ofNat 8 (1 - h.gi F.CMPPROD_p p / 2 ^ h.ringLog false p % 2)) :: bs) ∈ (h.pushRec false p r).out
    ∧ (h.pushRec false p r).gi F.CMPPROD_p p = (h.gi F.CMPPROD_p p + 1) % 2 ^ 32
    ∧ (h.pushRec false p r).hubBad = h.hubBad := by
  have hgr : granules r = 1 := by unfold granules; rw [he]; dsimp only; rw [hl]
  have hP : h.gi F.CMPPROD_p p < 2 ^ 32 := by
    unfold gi bitsOf; exact lt_of_lt_of_eq (Nat.mod_lt _ (by positivity)) (by decide)
  unfold pushRec; dsimp only
  rw [hb]
  generalize hg : h.setRing false p { (h.ring false p) with backlog := [] ++ [r] } = g
  have gi' : ∀ f j, g.gi f j = h.gi f j := by intro f j; rw [← hg]; rfl
  have gr : g.ring false p = { (h.ring false p) with backlog := [r] } := by rw [← hg, ring_setRing]; rfl
  have gl : g.ringLog false p = h.ringLog false p := by unfold ringLog; simp only [gi']
  have gs : g.shapeOn = false := by rw [← hg]; exact hsh
  have ginj : g.inj = [] := by rw [← hg]; exact hi
  have gpad : g.ringPad false p r = 0 := by
    unfold ringPad; rw [gl, hgr]; dsimp only [ringRegs]
    rw [gi']
    have : h.gi F.CMPPROD_p p % 2 ^ h.ringLog false p < 2 ^ h.ringLog false p := Nat.mod_lt _ (by positivity)
    rw [if_neg]
    simp only [Bool.false_eq_true, if_false]
    omega
  have gfit : g.ringFits false p r = true := by
    unfold ringFits; rw [gpad, gl, hgr, gr]; dsimp only [ringRegs]
    simp only [Bool.false_eq_true, if_false, gi']
    rw [decide_eq_true_eq]; omega
  have hd : g.drain false p 1 = (g.setRing false p { (h.ring false p) with backlog := [] }).ringWrite false p r r.data 0 := by
    unfold drain; dsimp only
    have : g.drainOne false p = (true, (g.setRing false p { (h.ring false p) with backlog := [] }).ringWrite false p r r.data 0) := by
      unfold drainOne; rw [gr]; dsimp only
      rw [if_neg (by
        dsimp only [ringRegs]
        simp only [Bool.false_eq_true, if_false, gi']
        unfold hostPass; rw [gs]; simp [hen]), gfit, if_pos rfl]
      unfold envelope; rw [he]; dsimp only
      rw [recCheck_plain _ _ _ ginj, gpad]; rfl
    rw [this]; simp only [if_true]
    unfold drain; rfl
  have h01 : (([] : List Rcd).length + 1) = 1 := rfl
  rw [h01, hd]
  generalize hk : g.setRing false p { (h.ring false p) with backlog := [] } = k
  have kgi : ∀ f j, k.gi f j = h.gi f j := by intro f j; rw [← hk, show (g.setRing false p { (h.ring false p) with backlog := [] }).gi f j = g.gi f j from rfl, gi']
  have kl : k.ringLog false p = h.ringLog false p := by unfold ringLog; simp only [kgi]
  have kn : k.nextId = h.nextId := by rw [← hk, ← hg]; rfl
  have kb : k.hubBad = h.hubBad := by rw [← hk, ← hg]; rfl
  have paid : ∀ (k : Hub) (n : Nat), (k.hostPaid p n).out = k.out ∧ (k.hostPaid p n).hubBad = k.hubBad
      ∧ (∀ f j, (k.hostPaid p n).gi f j = k.gi f j) := by
    intro k n; unfold hostPaid; split <;> exact ⟨rfl, rfl, fun _ _ => rfl⟩
  have lim : ∀ k : Hub, (k.ringLimit false p).out = k.out ∧ (k.ringLimit false p).hubBad = k.hubBad
      ∧ (k.ringLimit false p).gi F.CMPPROD_p p = k.gi F.CMPPROD_p p := by
    intro k
    have e : ∀ v, (k.pi F.CMPSTAT_overflow p v).gi F.CMPPROD_p p = k.gi F.CMPPROD_p p := by
      intro v; unfold gi; rw [reg_pi_ne k F.CMPSTAT_overflow p v _ (by simp only [F.CMPPROD_p, F.CMPSTAT_overflow]; omega)]
    unfold ringLimit; dsimp only [ringRegs]
    simp only [Bool.false_eq_true, if_false]
    split
    · exact ⟨rfl, rfl, e _⟩
    · split
      · exact ⟨rfl, rfl, e _⟩
      · exact ⟨rfl, rfl, rfl⟩
  have hP0 : (h.gi F.CMPPROD_p p + 0) % 2 ^ 32 = h.gi F.CMPPROD_p p := by omega
  obtain ⟨l1, l2, l3⟩ := lim (k.ringWrite false p r r.data 0)
  rw [l1, l2, l3, ← kb, ← kn]
  unfold ringWrite; dsimp only [ringRegs]
  simp only [Bool.false_eq_true, if_false]
  rw [kl, kgi, kgi, hP0, hr, hgr]
  have hl' : ¬ 64 < ((b0 ||| BitVec.ofNat 8 (1 - h.gi F.CMPPROD_p p / 2 ^ h.ringLog false p % 2)) :: bs).length := by
    rw [hr] at hl; rw [List.length_cons] at hl ⊢; omega
  simp only [if_neg hl']
  rw [(paid _ _).1, (paid _ _).2.1, (paid _ _).2.2, gi_pi_same _ _ _ _ (by decide)]
  refine ⟨?_, ?_, ?_⟩
  · exact List.mem_append_right _ (List.mem_singleton.mpr rfl)
  · exact Nat.mod_mod _ _
  · rfl

end Sys2Proof.Machine
end

