-- ==== Sys2Proof/Laws/Commands.lean ====
section
/-! SUPPORT. Session commands from the host (R31, R41, R273 to R276): a command that reaches its session acts at once, and what a
session's held actions leave behind. -/

namespace Sys2Proof.Machine
open Hub

theorem holds_alike {a b : Hub} (e : regsAlike a b) (i : Handle) (hs : a.s i = b.s i) : a.holds i = b.holds i := by
  unfold holds; rw [hs, on_alike e F.NFSTAT_sessions_held (by decide)]
theorem mustHold_alike {a b : Hub} (e : regsAlike a b) (i : Handle) (hs : a.s i = b.s i) (hr : a.sec.rots = b.sec.rots)
    (op : BitVec 8) (o : BitVec 256) : a.mustHold i op o = b.mustHold i op o := by
  unfold mustHold rotating; rw [hs, holds_alike e i hs, hr]

/-- What a hub that has counted a line and looked a key up agrees on with the hub before. -/
structure Alike (a b : Hub) : Prop where
  regs : regsAlike a b
  sess : a.sess = b.sess
  rest : { a.rest with wins := [], sl := {} } = { b.rest with wins := [], sl := {} }
  nextId : a.nextId = b.nextId
  out : a.out = b.out
  hopq : a.hopq = b.hopq
  inj : a.inj = b.inj
  hubBad : a.hubBad = b.hubBad
  sec : a.sec = b.sec
  grp : a.grp = b.grp

theorem Alike.nt {a b : Hub} (e : Alike a b) : a.nt = b.nt := by have q := congrArg Hub.nt e.rest; exact q
theorem Alike.kv {a b : Hub} (e : Alike a b) : a.kv = b.kv := by have q := congrArg Hub.kv e.rest; exact q
theorem Alike.im {a b : Hub} (e : Alike a b) : a.im = b.im := by have q := congrArg Hub.im e.rest; exact q
theorem Alike.gens {a b : Hub} (e : Alike a b) : a.gens = b.gens := by have q := congrArg Hub.gens e.rest; exact q
theorem Alike.qn {a b : Hub} (e : Alike a b) : a.qn = b.qn := by have q := congrArg Hub.qn e.rest; exact q
theorem Alike.gr {a b : Hub} (e : Alike a b) : a.gr = b.gr := by have q := congrArg Hub.gr e.rest; exact q
theorem Alike.rcmp {a b : Hub} (e : Alike a b) : a.rcmp = b.rcmp := by have q := congrArg Hub.rcmp e.rest; exact q
theorem Alike.s {a b : Hub} (e : Alike a b) (i : Handle) : a.s i = b.s i := s_of_sess e.sess i

theorem Alike.counted (h : Hub) (w op : BitVec 8) (l : CmdLine) (ha : h.admits w op l = true) : Alike (h.counted w op) h := by
  obtain ⟨b, e⟩ := counted_eq h w op l ha
  refine ⟨?_, ?_, ?_, ?_, ?_, ?_, ?_, ?_, ?_, ?_⟩
  · intro x hx
    exact reg_counted h w op l ha x (by intro hh; exact hx (by simp [countRegs, hh]))
  all_goals rw [e]; rfl

theorem Alike.looked (h : Hub) : Alike (h.inc F.AIXLOOKUPS_count) h := by
  refine ⟨?_, rfl, rfl, rfl, rfl, rfl, rfl, rfl, rfl, rfl⟩
  intro x hx
  exact reg_pi_ne h F.AIXLOOKUPS_count 0 _ x (by intro hh; exact hx (by simp [countRegs, hh]))

theorem Alike.trans {a b c : Hub} (e : Alike a b) (f : Alike b c) : Alike a c :=
  ⟨fun x hx => (e.regs x hx).trans (f.regs x hx), e.sess.trans f.sess, e.rest.trans f.rest, e.nextId.trans f.nextId, e.out.trans f.out,
    e.hopq.trans f.hopq, e.inj.trans f.inj, e.hubBad.trans f.hubBad, e.sec.trans f.sec, e.grp.trans f.grp⟩

theorem Alike.plan {a b : Hub} (e : Alike a b) : a.plan = b.plan := by
  unfold Hub.plan
  rw [g_alike e.regs F.POOLROLE_size (by decide), g_alike e.regs F.POOLPLAN_active (by decide),
    g_alike e.regs F.POOLROLE_base (by decide), e.im]

/-- A boundary is due on one where it is on the other. -/
theorem Alike.boundDue {a b : Hub} (e : Alike a b) : a.boundDue = b.boundDue := by
  unfold Hub.boundDue Hub.faulted Hub.switching Hub.gathered Hub.boundNt
  rw [e.plan, on_alike e.regs F.POOLSTAT_group_fault (by decide), e.rcmp, g_alike e.regs F.POOLPLAN_active (by decide),
    groupN_alike e.regs, e.grp, e.nt]

/-- The root entries of a record pass their check on one where they do on the other. -/
theorem Alike.rootsOk {a b : Hub} (e : Alike a b) (r : Rec) : a.rootsOk r = b.rootsOk r := by
  unfold Hub.rootsOk Hub.root? Hub.rootIx Hub.position
  rw [shards_alike e.regs, g_alike e.regs F.POOLROLE_position (by decide), e.kv]

/-- A use of a record whose paired words and root entries are valid, with no injection armed, changes nothing (R35). -/
theorem useRec_plain (h : Hub) (i : Handle) (hi : h.inj = []) (hp : badPair (h.s i).r = none) (hr : h.rootsOk (h.s i).r = true) :
    h.useRec i = h := by
  unfold useRec hitPair
  rw [fireInj_none _ hi]; dsimp only
  rw [if_neg (by simp)]; dsimp only
  rw [hp]; exact if_pos hr

theorem lookup_found (h : Hub) (sk : BitVec 128) (i : Handle) (hi : h.inj = []) (hf : h.findSk sk = some i) (hb : (h.s i).born < h.nt) :
    h.lookup sk = (false, some i, h.inc F.AIXLOOKUPS_count) := by
  obtain ⟨o, ho⟩ := lookup_plain h sk hi
  have h2 : (h.lookup sk).2.1 = ((h.findSk sk).filter (fun i => decide ((h.s i).born < h.nt))) := by
    unfold lookup; dsimp only
    have hi' : (h.inc F.AIXLOOKUPS_count).inj = [] := hi
    rw [fireInj_none _ hi']; simp only [Bool.false_eq_true, if_false]
    rw [fireInj_none _ hi']; rfl
  rw [ho] at h2
  dsimp only at h2
  rw [ho, h2, hf]
  have hb2 : decide ((h.s i).born < h.nt) = true := decide_eq_true hb
  simp only [Option.filter_some, hb2, if_true]

/-- A session command that acts at once, on a hub alike the one before (R31, R41, R275). -/
theorem sessLine_acts (s : State) (tm : Nt) (w op : BitVec 8) (l : CmdLine) (i : Handle) (hc : Commands s tm w op l i) :
    ∃ g, Alike g (s.hub.stamp tm) ∧
      (s.hub.stamp tm).sessLine w op l =
        (if op == 0x0B then g.inspect i ((s.hub.stamp tm).subOf w op l) else (g.act i ((s.hub.stamp tm).subOf w op l)).settled i) := by
  obtain ⟨ha, hi, hp, hfr, hk, hn, ht, hpt, h1, h2, h3, h4, h5, h6⟩ := hc
  have a1 := Alike.counted _ w op l ha
  have key : ∀ g, Alike g (s.hub.stamp tm) → (g.useRec i).submit i ((s.hub.stamp tm).subOf w op l) =
      (if op == 0x0B then g.inspect i ((s.hub.stamp tm).subOf w op l) else (g.act i ((s.hub.stamp tm).subOf w op l)).settled i) := by
    intro g hg
    rw [useRec_plain g i (by rw [hg.inj]; exact hi) (by rw [hg.s]; exact hp) (by rw [hg.s, hg.rootsOk]; exact h5)]
    unfold submit
    have e1 : ((s.hub.stamp tm).subOf w op l).op = op := rfl
    have e2 : ((s.hub.stamp tm).subOf w op l).line = l := rfl
    have e3 : (g.s i).actions = [] := by rw [hg.s]; exact h1
    rw [e1, e2, mustHold_alike hg.regs i (hg.s i) (by rw [hg.sec]), h4, e3, hg.boundDue, h6]
    by_cases hop : (op == 0x0B) = true
    · rw [if_pos hop, if_pos hop]
    · rw [if_neg hop, if_neg hop, if_neg (by simp)]
  have mine : ∀ g, Alike g (s.hub.stamp tm) → ((g.s i).r.tenant == ((s.hub.stamp tm).subOf w op l).tenant
      && (g.s i).r.part == ((s.hub.stamp tm).subOf w op l).part) = true := by
    intro g hg
    rw [hg.s]
    exact Bool.and_eq_true _ _ ▸ ⟨beq_iff_eq.mpr ht, beq_iff_eq.mpr hpt⟩
  by_cases hb : l.flags.getLsbD 1 = true
  · obtain ⟨hf, hbn⟩ := hk hb
    refine ⟨((s.hub.stamp tm).counted w op).inc F.AIXLOOKUPS_count, (Alike.looked _).trans a1, ?_⟩
    rw [← key _ ((Alike.looked _).trans a1)]
    unfold sessLine
    rw [line_admitted _ _ _ _ _ ha]; dsimp only
    rw [if_pos hb, lookup_found _ l.sk i (by rw [a1.inj]; exact hi) (by unfold findSk at hf ⊢; rw [a1.sess]; exact hf)
      (by rw [a1.s, a1.nt]; exact hbn)]
    dsimp only
    rw [if_pos (mine _ a1)]
  · have hf := hn (by simpa using hb)
    refine ⟨(s.hub.stamp tm).counted w op, a1, ?_⟩
    rw [← key _ a1]
    unfold sessLine
    rw [line_admitted _ _ _ _ _ ha]; dsimp only
    rw [if_neg hb]
    have : ((s.hub.stamp tm).counted w op).findNsi l.nsi = some i := by
      unfold findNsi dev at hf ⊢
      dsimp only at hf ⊢
      rw [g_alike a1.regs F.HDEVIDX_index (by decide), a1.s, a1.gens]; exact hf
    rw [this]; dsimp only
    rw [if_pos (mine _ a1)]

/-- What the end of an action leaves of the hub `a`, in `b`: at most a held instruction goes on. -/
structure Settles (a b : Hub) (i : Handle) : Prop where
  r : (b.s i).r = (a.s i).r
  rest : (b.s i).rest = (a.s i).rest
  held : (b.s i).held = (a.s i).held
  seen : (b.s i).seen = (a.s i).seen
  blk : (a.s i).blk = none → (b.s i).runnable = (a.s i).runnable ∧ (b.s i).blk = none
  mig : (b.s i).migOut = (a.s i).migOut
  probe : (b.s i).probe = (a.s i).probe
  calm : (a.s i).blk = none → (b.s i).kept = (a.s i).kept
  others : ∀ j, j ≠ i → b.s j = a.s j
  out : b.out = a.out
  hubBad : b.hubBad = a.hubBad
  hopq : b.hopq = a.hopq
  sec : b.sec = a.sec

theorem Settles.refl (a : Hub) (i : Handle) : Settles a a i :=
  ⟨rfl, rfl, rfl, rfl, fun h => ⟨rfl, h⟩, rfl, rfl, fun _ => rfl, fun _ _ => rfl, rfl, rfl, rfl, rfl⟩

theorem ready_plain (a : Hub) (i : Handle) : (a.ready i).out = a.out ∧ (a.ready i).hubBad = a.hubBad ∧ (a.ready i).hopq = a.hopq
    ∧ (a.ready i).sec = a.sec := by
  unfold ready; split <;> exact ⟨rfl, rfl, rfl, rfl⟩

theorem unhold_settles (h : Hub) (i : Handle) : Settles h (h.unhold i) i := by
  unfold unhold
  split
  · rename_i w hb
    split
    · exact Settles.refl h i
    · obtain ⟨r1, r2, r3, r4⟩ := ready_plain (h.modS i (fun x => { x with blk := none })) i
      have e := s_ready_same (h.modS i (fun x => { x with blk := none })) i
      rw [s_modS_same] at e
      refine ⟨by rw [e], by rw [e], by rw [e], by rw [e], fun hn => (by rw [hn] at hb; cases hb), by rw [e], by rw [e], fun hn => (by rw [hn] at hb; cases hb),
        fun j hj => ?_, r1, r2, r3, r4⟩
      rw [s_ready_ne _ i j hj, s_modS_ne _ i j _ hj]
  · exact Settles.refl h i

theorem actions_unhold (h : Hub) (i : Handle) : ((h.unhold i).s i).actions = (h.s i).actions := by
  unfold unhold; split
  · split
    · rfl
    · rw [s_ready_same, s_modS_same]
  · rfl

/-- A session with no action held and no RELEASE or DROP of its own held: at most a held instruction goes on (R41). -/
theorem settled_keeps (h : Hub) (i : Handle) (h1 : (h.s i).actions = []) (h2 : (h.s i).relHeld = none) (h3 : (h.s i).dropHeld = false) :
    Settles h (h.settled i) i := by
  unfold settled settle; dsimp only
  rw [h1, h2]; dsimp only
  by_cases hf : (h.s i).r.state == S.free
  · rw [if_pos hf]
    simp only [List.foldl_nil]
    rw [renewed_none _ i (by rw [s_modS_same]; rfl)]
    refine ⟨?_, ?_, ?_, ?_, fun hn => ?_, ?_, ?_, fun _ => ?_, fun j hj => s_modS_ne h i j _ hj, rfl, rfl, rfl, rfl⟩
    all_goals rw [s_modS_same]
    · exact ⟨rfl, hn⟩
    · rfl
  · rw [if_neg hf]
    by_cases hh : h.holds i
    · rw [if_pos hh, renewed_none _ i (by rw [h1]; rfl)]; exact Settles.refl h i
    · rw [if_neg hh, h3]; simp only [Bool.false_and, Bool.false_eq_true, if_false]
      rw [renewed_none _ i (by rw [actions_unhold, h1]; rfl)]
      exact unhold_settles h i

/-- The actions a session holds are the same once its park has started. -/
theorem startPark_held (h : Hub) (i : Handle) (ev : Bool) (sub : Option Sub) :
    ((h.startPark i ev sub).s i).actions = (h.s i).actions ∧ ((h.startPark i ev sub).s i).relHeld = (h.s i).relHeld
    ∧ ((h.startPark i ev sub).s i).dropHeld = (h.s i).dropHeld := by
  unfold startPark; dsimp only
  obtain ⟨t, ht⟩ := s_armed_same h i ev
  generalize (if ev then h.armTtl i else (h.armTtl i).touch i) = g at ht ⊢
  obtain ⟨b, e⟩ := s_startFlush_same ((g.modS i (fun x => { x with rest := x.r.state, park := some { byEvict := ev, nt := h.nt }, parkSubs := x.parkSubs ++ sub.toList })).trans i S.parking St.ok 0x0040 (g.s i).r.expiry.toNat) i
  rw [e, s_trans_same, s_modS_same, ht, s_armTtl_same]
  exact ⟨rfl, rfl, rfl⟩

/-- The actions a session holds are the same once its revive has started. -/
theorem startRevive_held (h : Hub) (i : Handle) (cause : BitVec 2) (sub : Option Sub) :
    ((h.startRevive i cause sub).2.s i).actions = (h.s i).actions ∧ ((h.startRevive i cause sub).2.s i).relHeld = (h.s i).relHeld
    ∧ ((h.startRevive i cause sub).2.s i).dropHeld = (h.s i).dropHeld := by
  unfold startRevive; dsimp only
  split
  · exact ⟨rfl, rfl, rfl⟩
  · split
    · dsimp only; rw [s_modR_same]; exact ⟨rfl, rfl, rfl⟩
    · dsimp only
      have hf (h : Hub) : ((if h.groupN ≤ 1 then ((0 : W64), h) else h.fresh).2.s i) = h.s i := by split <;> rfl
      have h0 := hf h
      generalize (if h.groupN ≤ 1 then ((0 : W64), h) else h.fresh) = q0 at h0 ⊢
      have hq := (hf q0.2).trans h0
      generalize (if q0.2.groupN ≤ 1 then ((0 : W64), q0.2) else q0.2.fresh) = q at hq ⊢
      rw [s_modS_same, s_touch_same, s_trans_same, s_modR_same, hq]; exact ⟨rfl, rfl, rfl⟩

/-- Where a session command acts at once, what its action leaves decides the outcome. -/
theorem cmd_answers (c : Instr) (s : State) (tm : Nt) (w op : BitVec 8) (l : CmdLine) (i : Handle) (P : State → Prop)
    (hc : Commands s tm w op l i) (he : ∀ s, exec c s = onHub tm (fun h => h.sessLine w op l) s) (ho : op ≠ 0x0B)
    (k : ∀ g, Alike g (s.hub.stamp tm) → ∃ q, g.act i ((s.hub.stamp tm).subOf w op l) = q ∧ (q.s i).actions = [] ∧ (q.s i).relHeld = none
      ∧ (q.s i).dropHeld = false ∧ ∀ b, Settles q b i → P { s with hub := Hub.finish s.hub b }) : Answers c s P := by
  obtain ⟨g, hg, e⟩ := sessLine_acts s tm w op l i hc
  obtain ⟨q, e1, q1, q2, q3, hp⟩ := k g hg
  refine ⟨_, ?_, hp _ (settled_keeps q i q1 q2 q3)⟩
  rw [he, onHub_eq, e, if_neg (by simpa using ho), e1]

/-- Messages to several devices leave every session. -/
theorem s_tell (l : List (BitVec 6)) (m : Msg) (h : Hub) (j : Handle) : (l.foldl (fun h d => h.send d m) h).s j = h.s j := by
  induction l generalizing h with
  | nil => rfl
  | cons a l ih => rw [List.foldl_cons, ih, s_of_sess (sess_send h a m)]

/-- The record a session command acts on, where its line may act at once. -/
theorem Commands.ready {s : State} {tm : Nt} {w op : BitVec 8} {l : CmdLine} {i : Handle} (hc : Commands s tm w op l i) :
    (s.hub.s i).actions = [] ∧ (s.hub.s i).relHeld = none ∧ (s.hub.s i).dropHeld = false ∧ (s.hub.s i).r.state ≠ S.free :=
  ⟨hc.2.2.2.2.2.2.2.2.1, hc.2.2.2.2.2.2.2.2.2.1, hc.2.2.2.2.2.2.2.2.2.2.1, hc.2.2.2.1⟩

/-- An event the session is not waiting for stays pending. -/
theorem deliver_plain (h : Hub) (i : Handle) (b : Nat) (hf : (h.s i).r.state ≠ S.free) (hm : (h.s i).r.state ≠ S.migrating)
    (hw : (h.s i).r.waitMask.getLsbD b = false) (hb : b < 16) (ht : (h.s i).r.waitExp ≠ 0 → h.nt < (h.s i).r.waitExp) :
    h.deliver i b = h.modR i (fun r => { r with pending := r.pending ||| BitVec.ofNat 16 (2 ^ b) }) := by
  have c1 : ((h.s i).r.waitExp != 0 && decide ((h.s i).r.waitExp ≤ h.nt) && !(h.s i).waitHit && (h.s i).r.state != S.free) = false := by
    by_cases hz : (h.s i).r.waitExp = 0
    · simp [hz]
    · have := ht hz
      have h2 : decide ((h.s i).r.waitExp ≤ h.nt) = false := by
        apply decide_eq_false; intro hle; exact absurd this (BitVec.not_lt.mpr hle)
      simp [h2]
  have c2 : ((h.s i).r.waitMask &&& BitVec.ofNat 16 (2 ^ b)) = 0 := by
    apply BitVec.eq_of_getLsbD_eq
    intro k hk
    rw [BitVec.getLsbD_and, BitVec.getLsbD_ofNat, Nat.testBit_two_pow]
    by_cases hkb : b = k
    · subst hkb; simp [hw]
    · simp [hkb]
  unfold deliver; dsimp only; rw [c1, if_neg (by simp)]
  unfold land; dsimp only
  rw [if_neg (by simpa using hf), if_neg (by simpa using hm), c2]; simp

theorem opd_nsi (l : CmdLine) (n : W64) (a b : Nat) : CmdLine.opd { l with nsi := n } a b = l.opd a b := rfl

/-- INSPECT of a record writes its bytes to host memory. -/
theorem inspect_rec (g : Hub) (i : Handle) (k : Sub) (h0 : k.line.opd 40 1 = 0) :
    ∃ c, g.inspect i k = g.hostWrite { addr := BitVec.ofNat 64 (k.line.opd 32 8), data := (g.s i).r.bytes, sub := c } := by
  unfold inspect; simp only [opd_nsi]; exact ⟨_, if_pos h0⟩

/-- INSPECT of a root entry writes its bytes to host memory. -/
theorem inspect_root (g : Hub) (i : Handle) (k : Sub) (rt : Root) (h0 : k.line.opd 40 1 ≠ 0)
    (h1 : g.shards.contains (k.line.opd 41 1) = true) (h2 : g.root? (g.rootIx (g.s i).r) (k.line.opd 41 1) = some rt) :
    ∃ c, g.inspect i k = g.hostWrite { addr := BitVec.ofNat 64 (k.line.opd 32 8), data := rt.bytes, sub := c } := by
  unfold inspect; simp only [opd_nsi, if_neg h0, h1, h2, Bool.not_true, Bool.false_eq_true, if_false]; exact ⟨_, rfl⟩

/-! ### Loads of the HDM region -/

/-- The line of a handle's ticket. -/
theorem hdmLine_ticket (h : Hub) (i : Handle) : h.hdmLine (0x1000000 + 64 * i.toNat) = (h.ticket i, h) := by
  have hi := i.isLt
  unfold hdmLine
  rw [if_neg (by omega), if_pos (by omega)]
  have : BitVec.ofNat 18 ((0x1000000 + 64 * i.toNat - 0x1000000) / 64) = i := by
    rw [Nat.add_sub_cancel_left, Nat.mul_div_cancel_left _ (by decide)]; simp
  rw [this]

/-- The line of a key slot. -/
theorem hdmLine_slot (h : Hub) (k : BitVec 12) : h.hdmLine (0x2000000 + 64 * k.toNat) = h.keySlot k.toNat := by
  have hk := k.isLt
  unfold hdmLine
  rw [if_neg (by omega), if_neg (by omega), if_pos (by omega), Nat.add_sub_cancel_left, Nat.mul_div_cancel_left _ (by decide)]

/-- The lines of the command windows and of the reserved area. -/
theorem hdmLine_window (h : Hub) (off : Nat) (ho : off < 0x1000000) : h.hdmLine off = (h.windowLine (off / 0x10000), h) := by
  unfold hdmLine; rw [if_pos ho]
theorem hdmLine_reserved (h : Hub) (off : Nat) (ho : 0x2040000 ≤ off) : h.hdmLine off = (List.replicate 64 0, h) := by
  unfold hdmLine; rw [if_neg (by omega), if_neg (by omega), if_neg (by omega)]

end Sys2Proof.Machine
end

