-- ==== Sys2Proof/Laws/Alike.lean ====
section
/-! SUPPORT. Hubs that agree beside reports: what reports leave, and which updates keep the agreement. -/

namespace Sys2Proof.Machine
open Hub

namespace Hub

variable {h a b c : Hub}

theorem alike_refl (h : Hub) : h.alike h := ⟨fun _ => rfl, rfl, fun _ _ => rfl⟩
theorem alike_trans (e : a.alike b) (f : b.alike c) : a.alike c :=
  ⟨fun j => (e.1 j).trans (f.1 j), e.2.1.trans f.2.1, fun r hr => (e.2.2 r hr).trans (f.2.2 r hr)⟩
theorem alike_symm (e : a.alike b) : b.alike a :=
  ⟨fun j => (e.1 j).symm, e.2.1.symm, fun r hr => (e.2.2 r hr).symm⟩

theorem alike_finish (old : Hub) (e : a.alike b) : (finish old a).alike b :=
  alike_trans ⟨fun j => kept_finish a old j, rest_finish a old, fun _ hr => reg_finish a old hr⟩ e

/-- Agreement from equal parts and registers. -/
theorem alike_of_still (e : a.still = b.still) (hr : ∀ r, r ∉ reportRegs → a.reg r = b.reg r) : a.alike b :=
  ⟨fun j => by rw [s_of_still e j], rest_of_still e, hr⟩

theorem alike_complete (k : Sub) (st : BitVec 8) (d : Nat) (n : W64) (e : a.alike b) : (a.complete k st d n).alike b :=
  alike_trans (alike_of_still (still_complete a k st d n) (fun _ hr => reg_complete a k st d n hr)) e
theorem alike_pushRec (st : Bool) (p : Nat) (r : Rcd) (hp : p < 16) (e : a.alike b) : (a.pushRec st p r).alike b :=
  alike_trans (alike_of_still (still_pushRec a st p r) (fun _ hr => reg_pushRec a st p r hp hr)) e
theorem alike_devEv (code die data st : Nat) (e : a.alike b) : (a.devEv code die data st).alike b :=
  alike_trans (alike_of_still (still_devEv a code die data st) (fun _ hr => reg_devEv a code die data st hr)) e
theorem alike_signal (v : BitVec 6) (e : a.alike b) : (a.signal v).alike b :=
  alike_trans (alike_of_still (still_signal a v) (fun _ hr => reg_signal a v hr)) e
theorem alike_notice (i : Handle) (code data : Nat) (e : a.alike b) : (a.notice i code data).alike b :=
  alike_trans (alike_of_still (still_notice a i code data) (fun _ hr => reg_notice a i code data hr)) e
theorem alike_fireInj (p : Nat) (m : Inj → Bool) (e : a.alike b) : (a.fireInj p m).2.alike b :=
  alike_trans (alike_of_still (still_fireInj a p m) (fun _ hr => reg_fireInj a p m hr)) e
theorem alike_fireAt (p : Nat) (m : Inj → Bool) (e : a.alike b) : (a.fireAt p m).2.alike b :=
  alike_trans (alike_of_still (still_fireAt a p m) (fun _ hr => reg_fireAt a p m hr)) e
theorem alike_emit (o : Out) (e : a.alike b) : (a.emit o).alike b := e
theorem alike_fresh (e : a.alike b) : a.fresh.2.alike b := e
theorem alike_hostRead (x : W64) (n : Nat) (w : RdWait) (e : a.alike b) : (a.hostRead x n w).alike b := e
theorem alike_hostWrite (w : WrWait) (e : a.alike b) : (a.hostWrite w).alike b := e
theorem alike_raiseFault (cause : Nat) (e : a.alike b) : (a.raiseFault cause).alike b :=
  alike_trans ⟨fun j => kept_raiseFault a cause j, rest_raiseFault a cause, fun _ hr => reg_raiseFault a cause hr⟩ e
theorem alike_enterFault (cause dev : Nat) (e : a.alike b) : (a.enterFault cause dev).alike b :=
  alike_trans ⟨fun j => kept_enterFault a cause dev j, rest_enterFault a cause dev, fun _ hr => reg_enterFault a cause dev hr⟩ e

/-- Equal registers of the fields' word give equal fields. -/
theorem gi_of_alike (e : a.alike b) (f : Fld) (i : Nat) (hf : f.a + f.stride * i ∉ reportRegs) : a.gi f i = b.gi f i := by
  unfold gi; rw [e.2.2 _ hf]
theorem g_of_alike (e : a.alike b) (f : Fld) (hf : f.a + f.stride * 0 ∉ reportRegs) : a.g f = b.g f := gi_of_alike e f 0 hf
theorem on_of_alike (e : a.alike b) (f : Fld) (hf : f.a + f.stride * 0 ∉ reportRegs) : a.on f = b.on f := by
  unfold on; rw [g_of_alike e f hf]

/-- The same write to a field keeps the agreement. -/
theorem alike_pi (f : Fld) (i v : Nat) (e : a.alike b) : (a.pi f i v).alike (b.pi f i v) := by
  refine ⟨e.1, e.2.1, fun r hr => ?_⟩
  by_cases hx : r = f.a + f.stride * i
  · subst hx
    unfold pi; rw [reg_setReg_same, reg_setReg_same, e.2.2 _ hr]
  · rw [reg_pi_ne a f i v r hx, reg_pi_ne b f i v r hx]; exact e.2.2 r hr
theorem alike_p (f : Fld) (v : Nat) (e : a.alike b) : (a.p f v).alike (b.p f v) := alike_pi f 0 v e

/-- A write to a register that reports write is one of theirs. -/
theorem alike_piR (f : Fld) (i v : Nat) (hf : f.a + f.stride * i ∈ reportRegs) (e : a.alike b) : (a.pi f i v).alike b := by
  refine ⟨e.1, e.2.1, fun r hr => ?_⟩
  rw [reg_pi_ne a f i v r (by intro h; subst h; exact hr hf)]; exact e.2.2 r hr
theorem alike_pR (f : Fld) (v : Nat) (hf : f.a + f.stride * 0 ∈ reportRegs) (e : a.alike b) : (a.p f v).alike b := alike_piR f 0 v hf e

theorem alike_flag (f : Fld) (v : BitVec 6) (e : a.alike b) : (a.flag f v).alike (b.p f 1) := alike_signal v (alike_p f 1 e)

theorem alike_modS (i : Handle) (f : Sess → Sess) (hf : ∀ x y : Sess, x.kept = y.kept → (f x).kept = (f y).kept) (e : a.alike b) :
    (a.modS i f).alike (b.modS i f) := by
  refine ⟨fun j => ?_, e.2.1, e.2.2⟩
  by_cases hj : j = i
  · subst hj; rw [s_modS_same, s_modS_same]; exact hf _ _ (e.1 j)
  · rw [s_modS_ne _ i j _ hj, s_modS_ne _ i j _ hj]; exact e.1 j

/-- A counter of reports, or one whose values agree, keeps the agreement. -/
theorem alike_inci (f : Fld) (i n : Nat) (hf : f.a + f.stride * i ∉ reportRegs) (e : a.alike b) : (a.inci f i n).alike (b.inci f i n) := by
  unfold inci; rw [gi_of_alike e f i hf]; exact alike_pi f i _ e
theorem alike_inc (f : Fld) (n : Nat) (hf : f.a + f.stride * 0 ∉ reportRegs) (e : a.alike b) : (a.inc f n).alike (b.inc f n) :=
  alike_inci f 0 n hf e

end Hub

/-- A hub command answers; what holds of its hub closed holds of the answer. -/
theorem answers_hub (c : Instr) (tm : Nt) (f : Hub → Hub) (s : State) (P : State → Prop) (u : Hub) (he : exec c s = onHub tm f s)
    (e : f (s.hub.stamp tm) = u) (hp : P { s with hub := finish s.hub u }) : Answers c s P :=
  ⟨{ s with hub := finish s.hub u }, by rw [he, onHub_eq, e], hp⟩

theorem becomes_hub (c : Instr) (tm : Nt) (f : Hub → Hub) (s : State) (u : Hub) (he : exec c s = onHub tm f s)
    (e : (f (s.hub.stamp tm)).alike u) : Becomes c s u :=
  ⟨{ s with hub := finish s.hub (f (s.hub.stamp tm)) }, by rw [he, onHub_eq], alike_finish s.hub e, rfl, rfl⟩

theorem becomes_sending (c : Instr) (tm : Nt) (f : Hub → Hub) (s : State) (u : Hub) (o : Out) (he : exec c s = onHub tm f s)
    (e : (f (s.hub.stamp tm)).alike u) (hb : (f (s.hub.stamp tm)).hubBad = false) (ho : o ∈ (f (s.hub.stamp tm)).out) :
    BecomesSending c s u o :=
  ⟨{ s with hub := finish s.hub (f (s.hub.stamp tm)) }, by rw [he, onHub_eq], alike_finish s.hub e, ⟨rfl, rfl⟩, mem_out_finish _ s.hub hb o ho⟩

/-- A counted line changes no record. -/
theorem anyRec_counted (h : Hub) (w op : BitVec 8) (l : CmdLine) (ha : h.admits w op l = true) (p : Rec → Bool) :
    (h.counted w op).anyRec p = h.anyRec p := by
  unfold anyRec; rw [(Alike.counted h w op l ha).sess]

/-- An image load that its line may start reads its image. -/
theorem image_reads (c : Instr) (tm : Nt) (w op : BitVec 8) (l : CmdLine) (n : Nat) (busy : Hub → Option (BitVec 8)) (s : State)
    (he : exec c s = onHub tm (fun h => h.imageLine w op l n busy) s) (ha : (s.hub.stamp tm).admits w op l = true)
    (hb : s.hub.hubBad = false) (hn : busy ((s.hub.stamp tm).counted w op) = none) :
    BecomesSending c s ((s.hub.stamp tm).counted w op) (.hostRead s.hub.nextId (BitVec.ofNat 64 (l.opd 32 8)) n) := by
  have a := Alike.counted _ w op l ha
  have e : (s.hub.stamp tm).imageLine w op l n busy =
      ((s.hub.stamp tm).counted w op).hostRead (BitVec.ofNat 64 (l.opd 32 8)) n (.image ((s.hub.stamp tm).subOf w op l)) := by
    unfold imageLine; rw [line_admitted _ _ _ _ _ ha, hn]
  refine becomes_sending c tm _ s _ _ he ?_ ?_ ?_
  · rw [e]; exact alike_refl _
  · rw [e]; exact a.hubBad.trans hb
  · rw [e]
    have : ((s.hub.stamp tm).counted w op).nextId = s.hub.nextId := a.nextId
    rw [← this]
    exact List.mem_append_right _ (List.mem_singleton.mpr rfl)

/-- Dropping what is staged leaves all but the staged parts and reservations. -/
theorem dropStaged_eq (h : Hub) (sk : BitVec 128) : ∃ m k, h.dropStaged sk = { h with migIn := m, kv := k } := by
  unfold dropStaged; split
  · exact ⟨h.migIn, h.kv, rfl⟩
  · exact ⟨_, _, rfl⟩
theorem not_bnot {b : Bool} (h : b = true) : ¬ (!b) = true := by simp [h]

/-- A message sent leaves every session. -/
theorem s_send (h : Hub) (d : BitVec 6) (m : Msg) (i : Handle) : (h.send d m).s i = h.s i := s_of_sess (sess_send h d m) i

/-- Only a session whose PREFILL waits is touched by the refusal of one (R47). -/
theorem refusePrefill_keeps (h : Hub) (i : Handle) (st : BitVec 8) (hb : ∀ d, (h.s i).blk ≠ some (.prefill d)) : h.refusePrefill i st = h := by
  unfold refusePrefill; dsimp only
  split
  · rename_i d e; exact absurd e (hb d)
  · rfl

theorem s_refusePrefill_ne (h : Hub) (i j : Handle) (st : BitVec 8) (hj : j ≠ i) : (h.refusePrefill i st).s j = h.s j := by
  unfold refusePrefill; dsimp only
  split
  · split
    · unfold endInstr; dsimp only; rw [s_ready_ne _ i j hj, s_modS_ne _ i j _ hj, s_modS_ne _ i j _ hj]
    · rfl
  · rfl

theorem s_ownerMismatch_same (h : Hub) (i : Handle) (seen : BitVec 16) (hb : ∀ d, (h.s i).blk ≠ some (.prefill d)) :
    (h.ownerMismatch i seen).s i = { h.s i with seen := seen, r := { (h.s i).r with omm := true, lastStatus := St.ownerConflict, jseq := (h.s i).r.jseq + 1 } } := by
  have e0 : ((h.modS i (fun x => { x with seen := seen, r := { x.r with omm := true, lastStatus := St.ownerConflict } })).inc F.OWNCONF_count).s i
      = { h.s i with seen := seen, r := { (h.s i).r with omm := true, lastStatus := St.ownerConflict } } :=
    (s_of_sess (sess_inc _ F.OWNCONF_count 1) i).trans (s_modS_same h i _)
  unfold ownerMismatch; dsimp only
  generalize (h.modS i (fun x => { x with seen := seen, r := { x.r with omm := true, lastStatus := St.ownerConflict } })).inc F.OWNCONF_count = g at e0 ⊢
  rw [refusePrefill_keeps, s_record_same, e0]
  rw [s_record_same, e0]; exact hb

theorem s_ownerMismatch_ne (h : Hub) (i j : Handle) (seen : BitVec 16) (hj : j ≠ i) : (h.ownerMismatch i seen).s j = h.s j := by
  unfold ownerMismatch; dsimp only
  rw [s_refusePrefill_ne _ i j _ hj, s_record_ne _ i j _ _ hj]
  exact (s_of_sess (sess_inc _ F.OWNCONF_count 1) j).trans (s_modS_ne h i j _ hj)

/-- A migration aborted by its sender: what its session holds, where no event is queued and no timeout has been reached (R177). -/
theorem abortMig_same (h : Hub) (i : Handle) (m : MigOut) (reason : Nat) (hm : (h.s i).migOut = some m) (hq : (h.s i).queued = 0)
    (hw : (h.s i).waitHit = false) :
    let x := h.s i
    let y := (h.abortMig i reason).s i
    y.r.state = x.r.prior ∧ y.migOut = none ∧ y.actions = x.actions ∧ y.relHeld = x.relHeld ∧ y.dropHeld = x.dropHeld
    ∧ (x.blk = none → x.r.prior ≠ S.faulted → y.runnable = true) ∧ (x.blk = none → y.blk = none)
    ∧ y.r.ownEpoch = x.r.ownEpoch ∧ y.r.sk = x.r.sk
    ∧ (∀ d, x.blk = some (.migrate d) → y.r.a = (x.r.wReg d (BitVec.ofNat 64 reason)).a ∧ y.r.lastStatus = St.migrateAborted
        ∧ y.r.pc = x.r.pc + 1 ∧ y.blk = none) := by
  intro x y
  have hm' : x.migOut = some m := hm
  have dq : ∀ g : Hub, (g.s i).queued = 0 → (g.s i).waitHit = false → (g.drainQueued i) = g.modS i (fun x => { x with queued := 0 }) := by
    intro g g1 g2
    unfold drainQueued; dsimp only
    rw [g1, s_modS_same, g2]
    simp
  generalize hg : (((h.trans i x.r.prior St.ok 0x0053 reason).inc F.MIGABORT_count).modS i (fun x => { x with migOut := none })).migRecord x.r m.sub St.migrateAborted reason 0 = g
  have gs : g.s i = { x with migOut := none, r := { x.r with prior := x.r.state, state := x.r.prior, lastStatus := St.ok, hstatus := if x.r.prior == S.halted then St.ok else x.r.hstatus, jseq := x.r.jseq + 1 } } := by
    rw [← hg]
    unfold migRecord; dsimp only
    rw [s_pushRec, s_modS_same]
    rw [show ((h.trans i x.r.prior St.ok 0x0053 reason).inc F.MIGABORT_count).s i = (h.trans i x.r.prior St.ok 0x0053 reason).s i from rfl, s_trans_same]
  have e : h.abortMig i reason = (match (g.s i).blk with
      | some (.migrate d) => g.endInstr i (some (d, BitVec.ofNat 64 reason)) St.migrateAborted reason
      | some (.step d) =>
        if m.handoff then (g.modS i (fun x => { x with stepReq := none })).endInstr i (some (d, 0)) St.migrateAborted 0
        else g
      | _ => if (g.s i).blk.isNone && x.r.prior != S.faulted then g.ready i else g).drainQueued i := by
    unfold abortMig; dsimp only
    rw [hm]; dsimp only
    rw [hg]
    all_goals rfl
  have gb : (g.s i).blk = x.blk := by rw [gs]
  have yy : y = (h.abortMig i reason).s i := rfl
  clear_value y
  rw [e, gb] at yy
  have ends : ∀ (g : Hub) (d : BitVec 4) (v : W64) (st : BitVec 8) (dt : Nat), ((g.endInstr i (some (d, v)) st dt).s i) =
      { g.s i with blk := none, runnable := true, since := if (g.s i).runnable then (g.s i).since else g.nt
                   r := { ((g.s i).r.wReg d v).wStat st dt with pc := (g.s i).r.pc + 1 } } := by
    intro g d v st dt; unfold endInstr; dsimp only; rw [s_ready_same, s_modS_same]; simp only [wReg_pc]; rfl
  cases hb : x.blk with
  | none =>
    rw [hb] at yy; dsimp only at yy
    by_cases hp : x.r.prior = S.faulted
    · rw [if_neg (by rw [hp]; simp), dq g (by rw [gs]; exact hq) (by rw [gs]; exact hw), s_modS_same, gs] at yy
      rw [yy]
      refine ⟨rfl, rfl, rfl, rfl, rfl, fun _ hn => absurd hp hn, fun _ => ?_, rfl, rfl, fun d hd => by cases hd⟩
      exact hb
    · rw [if_pos (by simp [hp]), dq (g.ready i) (by rw [s_ready_same, gs]; exact hq) (by rw [s_ready_same, gs]; exact hw), s_modS_same, s_ready_same, gs] at yy
      rw [yy]
      refine ⟨rfl, rfl, rfl, rfl, rfl, fun _ _ => rfl, fun _ => ?_, rfl, rfl, fun d hd => by cases hd⟩
      exact hb
  | some b =>
    rw [hb] at yy
    have plain : ∀ g' : Hub, g'.s i = g.s i → (some b : Option Blk) ≠ none → (∀ d, b ≠ .migrate d) → y = (g'.drainQueued i).s i → y.r.state = x.r.prior ∧ y.migOut = none ∧ y.actions = x.actions ∧ y.relHeld = x.relHeld ∧ y.dropHeld = x.dropHeld
        ∧ (some b = none → x.r.prior ≠ S.faulted → y.runnable = true) ∧ (some b = none → y.blk = none)
        ∧ y.r.ownEpoch = x.r.ownEpoch ∧ y.r.sk = x.r.sk
        ∧ (∀ d, some b = some (.migrate d) → y.r.a = (x.r.wReg d (BitVec.ofNat 64 reason)).a ∧ y.r.lastStatus = St.migrateAborted
            ∧ y.r.pc = x.r.pc + 1 ∧ y.blk = none) := by
      intro g' hg' _ hnm hy
      rw [dq g' (by rw [hg', gs]; exact hq) (by rw [hg', gs]; exact hw), s_modS_same, hg', gs] at hy
      rw [hy]
      exact ⟨rfl, rfl, rfl, rfl, rfl, (fun h => by cases h), (fun h => by cases h), rfl, rfl, fun d hd => absurd (Option.some.inj hd) (hnm d)⟩
    cases b
    case migrate d =>
      dsimp only at yy
      rw [dq _ (by rw [ends, gs]; exact hq) (by rw [ends, gs]; exact hw), s_modS_same, ends, gs] at yy
      rw [yy]
      refine ⟨by simp, rfl, rfl, rfl, rfl, (fun h => by cases h), (fun h => by cases h), by simp, by simp, fun d' hd => ?_⟩
      cases hd
      refine ⟨?_, rfl, rfl, rfl⟩
      simp only [wStat_a]; apply wReg_a_eq; rfl
    case step d =>
      dsimp only at yy
      by_cases hh : m.handoff = true
      · rw [if_pos hh] at yy
        rw [dq _ (by rw [ends, s_modS_same, gs]; exact hq) (by rw [ends, s_modS_same, gs]; exact hw), s_modS_same, ends, s_modS_same, gs] at yy
        rw [yy]
        exact ⟨by simp, rfl, rfl, rfl, rfl, (fun h => by cases h), (fun h => by cases h), by simp, by simp, fun d' hd => by cases hd⟩
      · rw [if_neg hh] at yy
        exact plain g rfl (by simp) (fun d => by simp) yy
    all_goals
      dsimp only at yy
      rw [if_neg (by simp)] at yy
      exact plain g rfl (by simp) (fun d => by simp) yy

theorem drainQueued_ne (h : Hub) (i j : Handle) (hq : (h.s i).queued = 0) (hw : (h.s i).waitHit = false) (hj : j ≠ i) :
    (h.drainQueued i).s j = h.s j := by
  unfold drainQueued; dsimp only
  rw [hq, s_modS_same, hw]
  simp [s_modS_ne _ i j _ hj]

theorem abortMig_ne (h : Hub) (i j : Handle) (reason : Nat) (hq : (h.s i).queued = 0) (hw : (h.s i).waitHit = false) (hj : j ≠ i) :
    (h.abortMig i reason).s j = h.s j := by
  unfold abortMig; dsimp only
  cases hm : (h.s i).migOut with
  | none => rfl
  | some m =>
    dsimp only
    generalize hg : (((h.trans i (h.s i).r.prior St.ok 0x0053 reason).inc F.MIGABORT_count).modS i (fun x => { x with migOut := none })).migRecord (h.s i).r m.sub St.migrateAborted reason 0 = g
    have gj : g.s j = h.s j := by
      rw [← hg]; unfold migRecord; dsimp only
      rw [s_pushRec, s_modS_ne _ i j _ hj]
      exact s_trans_ne h i j _ _ _ _ hj
    have gi : (g.s i).queued = 0 ∧ (g.s i).waitHit = false := by
      rw [← hg]; unfold migRecord; dsimp only
      rw [s_pushRec, s_modS_same]
      rw [show ((h.trans i (h.s i).r.prior St.ok 0x0053 reason).inc F.MIGABORT_count).s i = (h.trans i (h.s i).r.prior St.ok 0x0053 reason).s i from rfl, s_trans_same]
      exact ⟨hq, hw⟩
    have ej : ∀ (g : Hub) dst st dt, ((g.endInstr i dst st dt).s j) = g.s j := by
      intro g dst st dt; unfold endInstr; dsimp only; rw [s_ready_ne _ i j hj, s_modS_ne _ i j _ hj]
    have ei : ∀ (g : Hub) dst st dt, ((g.endInstr i dst st dt).s i).queued = (g.s i).queued ∧ ((g.endInstr i dst st dt).s i).waitHit = (g.s i).waitHit := by
      intro g dst st dt; unfold endInstr; dsimp only; rw [s_ready_same, s_modS_same]; exact ⟨rfl, rfl⟩
    split
    · rw [drainQueued_ne _ i j (by rw [(ei _ _ _ _).1]; exact gi.1) (by rw [(ei _ _ _ _).2]; exact gi.2) hj, ej, gj]
    · split
      · rw [drainQueued_ne _ i j (by rw [(ei _ _ _ _).1, s_modS_same]; exact gi.1) (by rw [(ei _ _ _ _).2, s_modS_same]; exact gi.2) hj, ej, s_modS_ne _ i j _ hj, gj]
      · rw [drainQueued_ne _ i j gi.1 gi.2 hj, gj]
    · split
      · rw [drainQueued_ne _ i j (by rw [s_ready_same]; exact gi.1) (by rw [s_ready_same]; exact gi.2) hj, s_ready_ne _ i j hj, gj]
      · rw [drainQueued_ne _ i j gi.1 gi.2 hj, gj]

namespace Hub
theorem sess_dropRef (h : Hub) (c i : Nat) : (h.dropRef c i).sess = h.sess := by
  unfold dropRef; dsimp only; split
  · rfl
  · split
    · split <;> rfl
    · rfl
theorem sess_modRoots (h : Hub) (r : BitVec 32) (f : Root → Root) : (h.modRoots r f).sess = h.sess :=
  sess_foldl _ (fun _ _ => by rfl) _ _
theorem sess_unbindGo (h : Hub) (n fuel : Nat) : (unbind.go h n fuel).sess = h.sess := by
  induction fuel generalizing h n with
  | zero => rfl
  | succ k ih =>
    unfold unbind.go; split
    · rfl
    · rw [ih]
theorem sess_unbind (h : Hub) (r : BitVec 32) : (h.unbind r).sess = h.sess := by
  unfold unbind; split
  · rfl
  · split
    · rfl
    · dsimp only; rw [sess_modRoots, sess_unbindGo]
theorem sess_dropFrames (h : Hub) (r : BitVec 32) (sh : Nat) : (h.dropFrames r sh).sess = h.sess := by
  unfold dropFrames; split
  · rfl
  · dsimp only
    rw [sess_putRoot]
    show (List.foldl _ (List.foldl _ h _) _).sess = h.sess
    rw [sess_foldl _ (fun h e => sess_dropRef h _ _), sess_foldl _ (fun h e => sess_dropRef h _ _)]
theorem sess_releaseFrames (h : Hub) (r : BitVec 32) : (h.releaseFrames r).sess = h.sess := by
  unfold releaseFrames; rw [sess_foldl _ (fun h e => sess_dropFrames h _ _), sess_unbind]
theorem sess_releaseRoots (h : Hub) (r : BitVec 32) : (h.releaseRoots r).sess = h.sess := by
  unfold releaseRoots; dsimp only
  rw [sess_foldl _ (fun h e => by rfl), sess_releaseFrames]
theorem sess_rekey (h : Hub) (a b : Nat) : (h.rekey a b).sess = h.sess := by
  unfold rekey; split <;> rfl
theorem sess_grnFree (h : Hub) (k fuel : Nat) : (h.grnFree k fuel).sess = h.sess := by
  induction fuel generalizing h k with
  | zero => rfl
  | succ n ih =>
    unfold grnFree; split
    · rfl
    · dsimp only; split
      · split
        · rw [sess_modG, sess_dropUnits]
        · split
          · rw [ih, sess_modG, sess_dropUnits]
          · rw [sess_modG, sess_dropUnits]
      · rw [sess_modG, sess_dropUnits]
theorem sess_grnRelease (h : Hub) (k : Nat) : (h.grnRelease k).sess = h.sess := by
  unfold grnRelease; dsimp only; split
  · exact sess_rekey h _ _
  · exact sess_grnFree h _ _
theorem sess_dropDurs (h : Hub) (i : Handle) : (h.dropDurs i).sess = h.sess := by
  unfold dropDurs
  extract_lets nsi stale h1 h2
  have st : ∀ (h : Hub) c, (stale h c).sess = h.sess := by
    intro h c; cases c with
    | none => rfl
    | some c => exact sess_complete h _ _ _ _
  have e1 : h1.sess = h.sess := sess_foldl _ (fun h q => by split; exact st _ _; rfl) _ _
  have e2 : h2.sess = h1.sess := sess_foldl _ (fun h q => by
    split
    · split
      · exact st _ _
      · rfl
    · split
      · exact st _ _
      · rfl
    · rfl) _ _
  show h2.sess = h.sess
  rw [e2, e1]
theorem sess_migRecord (h : Hub) (r : Rec) (c : Option Sub) (st : BitVec 8) (d : Nat) (n : W64) : (h.migRecord r c st d n).sess = h.sess := by
  unfold migRecord; dsimp only; exact sess_pushRec h _ _ _
theorem s_unlink_ne (h : Hub) (i j : Handle) (hj : j ≠ i) : (h.unlink i).s j = h.s j := by
  unfold unlink
  show (h.unready i).s j = h.s j
  exact s_unready_ne h i j hj
theorem s_dropExtent_ne (h : Hub) (i j : Handle) (hj : j ≠ i) : (h.dropExtent i).s j = h.s j := by
  unfold dropExtent
  rw [s_modS_ne _ i j _ hj]; exact s_of_sess (sess_grnRelease h _) j

/-- The sender's record leaves: it forwards, and no other session changes (R176, R178). -/
theorem sess_leaveExtent (h : Hub) (x : Sess) (root : BitVec 32) (nsi : W64) : (h.leaveExtent x root nsi).sess = h.sess := by
  unfold leaveExtent
  split
  · rfl
  · exact sess_rekey h _ _

theorem s_migDone (h : Hub) (i : Handle) (m : MigOut) (nsi : W64) :
    (h.migDone i m nsi).s i = { fwd := nsi } ∧ ∀ j, j ≠ i → (h.migDone i m nsi).s j = h.s j := by
  unfold migDone
  extract_lets x kv stays h1 h0 h2 h3 h4 h5 h6 h7 t ck h8
  refine ⟨s_setS_same _ i _, fun j hj => ?_⟩
  have a1 : h1.s j = h.s j := s_trans_ne h i j _ _ _ _ hj
  have a2 : h2.s j = h1.s j := by
    show (((h0.releaseRoots (h0.rootIx x.r)).unreserve (h0.rootIx x.r)).unlink i).s j = _
    rw [s_unlink_ne _ i j hj]
    show (h0.releaseRoots (h0.rootIx x.r)).s j = _
    rw [s_of_sess (sess_releaseRoots h0 _) j]
    show (if stays then h1.copyRoots _ _ else h1).s j = _
    split
    · exact s_of_sess (sess_copyRoots h1 _ _) j
    · rfl
  have a3 : h3.s j = h2.s j := by
    show (if h2.sameGroup m.target && !m.kvmode then h2.leaveExtent x _ nsi else h2.dropExtent i).s j = _
    split
    · exact s_of_sess (sess_leaveExtent h2 x _ nsi) j
    · exact s_dropExtent_ne h2 i j hj
  have a4 : h4.s j = h3.s j := by
    show ((h3.grnRelease _).dropDurs i).s j = _
    rw [s_of_sess (sess_dropDurs _ i) j]; exact s_of_sess (sess_grnRelease h3 _) j
  have a5 : h5.s j = h4.s j := by
    show ((h4.inc F.MIGOUT_count).migRecord x.r m.sub St.ok 0 nsi).s j = _
    rw [s_of_sess (sess_migRecord _ _ _ _ _ _) j]; exact s_of_sess (sess_inc h4 _ _) j
  have a6 : h6.s j = h5.s j := s_of_sess (sess_foldl _ (fun h c => sess_complete h _ _ _ _) _ _) j
  have a7 : h7.s j = h6.s j := s_of_sess (sess_foldl _ (fun h c => by split <;> first | exact sess_send _ _ _ | rfl) _ _) j
  rw [s_setS_ne _ i j _ hj]
  have a8 : h8.s j = h7.s j := by
    simp only [h8]
    split <;> rfl
  rw [a8, a7, a6, a5, a4, a3, a2, a1]
end Hub

/-- A newer RELEASE drops a session that is not MIGRATING (R181). -/
theorem settled_release (h : Hub) (i : Handle) (e : BitVec 16) (h1 : (h.s i).relHeld = some e) (h2 : (h.s i).r.state ≠ S.free)
    (h3 : (h.s i).r.state ≠ S.migrating) (h4 : newer 16 e.toNat (h.s i).r.ownEpoch.toNat = true) : (h.settled i).s i = {} := by
  have e' : (h.settle i ((h.s i).actions.length + 2)).s i = {} := by
    unfold settle; dsimp only
    rw [if_neg (by simpa using h2), h1]; dsimp only
    rw [if_neg (by simpa using h3), if_pos h4]
    rw [s_of_sess (sess_foldl _ (fun h a => sess_complete h _ _ _ _) _ _)]
    exact s_dropSess_same _ i true (by rw [s_modS_same]; exact h2)
  unfold settled; rw [renewed_none _ i (by rw [e']; rfl), e']

/-- A RELEASE is held while the session is MIGRATING. -/
theorem settled_held (h : Hub) (i : Handle) (e : BitVec 16) (h1 : (h.s i).relHeld = some e) (h3 : (h.s i).r.state = S.migrating)
    (ha : (h.s i).actions.any renews = false) : h.settled i = h := by
  unfold settled settle; dsimp only
  rw [if_neg (by rw [h3]; decide), h1]; dsimp only
  rw [if_pos (by rw [h3]; decide), renewed_none _ i ha]

/-- A command on the hub alone ends with what its effect makes. -/
theorem ends_hub (c : Instr) (tm : Nt) (f : Hub → Hub) (s : State) (u : Hub) (he : exec c s = onHub tm f s)
    (hf : f (s.hub.stamp tm) = u) : Ends c s u := by
  unfold Ends; rw [he]; unfold onHub; rw [hf]

/-- A line that passes every check ends with what its effect makes of the counted hub. -/
theorem ends_line (c : Instr) (tm : Nt) (w op : BitVec 8) (l : CmdLine) (f : Sub → Hub → Hub) (s : State) (u : Hub)
    (he : exec c s = onHub tm (fun h => h.line w op l f) s) (ha : (s.hub.stamp tm).admits w op l = true)
    (hf : f ((s.hub.stamp tm).subOf w op l) ((s.hub.stamp tm).counted w op) = u) : Ends c s u := by
  refine ends_hub c tm _ s u he ?_
  rw [line_admitted _ _ _ _ _ ha]; exact hf

theorem alike_hostRead_eq {a b : Hub} (h : a = b) (x : W64) (n : Nat) (w : RdWait) : (a.hostRead x n w).alike b := by
  subst h; exact alike_refl _

/-- A command that reads host memory once its line is counted. -/
theorem line_reads (c : Instr) (tm : Nt) (w op : BitVec 8) (l : CmdLine) (f : Sub → Hub → Hub) (s : State) (u : Hub) (x : W64) (n : Nat)
    (r : RdWait) (he : exec c s = onHub tm (fun h => h.line w op l f) s) (ha : (s.hub.stamp tm).admits w op l = true)
    (hb : u.hubBad = false) (hn : u.nextId = s.hub.nextId)
    (hf : f ((s.hub.stamp tm).subOf w op l) ((s.hub.stamp tm).counted w op) = u.hostRead x n r) :
    BecomesSending c s u (.hostRead s.hub.nextId x n) := by
  have e : (s.hub.stamp tm).line w op l f = u.hostRead x n r := by rw [line_admitted _ _ _ _ _ ha]; exact hf
  refine becomes_sending c tm _ s _ _ he ?_ ?_ ?_
  · rw [e]; exact alike_refl _
  · rw [e]; exact hb
  · rw [e, ← hn]; exact List.mem_append_right _ (List.mem_singleton.mpr rfl)

theorem line_becomes (c : Instr) (tm : Nt) (w op : BitVec 8) (l : CmdLine) (f : Sub → Hub → Hub) (s : State) (u : Hub)
    (he : exec c s = onHub tm (fun h => h.line w op l f) s) (ha : (s.hub.stamp tm).admits w op l = true)
    (hf : (f ((s.hub.stamp tm).subOf w op l) ((s.hub.stamp tm).counted w op)).alike u) : Becomes c s u := by
  refine becomes_hub c tm _ s _ he ?_
  rw [line_admitted _ _ _ _ _ ha]; exact hf

end Sys2Proof.Machine
end

