-- ==== Sys2Proof/WellFormed.lean ====
section
/-! DEFINITION. Well-formed commands: the instruction words an image may hold (R248), the slot words a load accepts (R261), and
operands whose sizes the spec fixes. A host line may hold anything: what is wrong with it the device itself says (R273). -/

namespace Sys2Proof

/-- A session instruction word with its row's opcode that R248 accepts, whatever the length of its image (R247). -/
def sessionWordOk (op : Nat) (w : W64) : Bool :=
  Machine.iw w 63 56 == op && Machine.wordOk 65536 256 w

/-- The sizes of a migration part (R33, R175). -/
def partBodyOk (b : PartBody) : Bool :=
  match b with
  | .record bytes => bytes.length == 256
  | .area stack held _ _ => decide (stack.length ≤ 65535) && decide (held.length ≤ 127)
  | .tokenLog .. | .piece .. | .root .. | .fin => true

/-- A wire frame carries at most 512 payload bytes (R232). -/
def frameOk (f : Frame) : Bool := decide (f.payload.length ≤ 512)

/-- A well-formed command. -/
def Instr.wellFormed (i : Instr) : Bool :=
  match i with
  | .nop _ _ w => sessionWordOk 0x00 w
  | .br _ _ w => sessionWordOk 0x01 w
  | .bcc _ _ w => sessionWordOk 0x02 w
  | .cbr _ _ w => sessionWordOk 0x03 w
  | .cbi _ _ w => sessionWordOk 0x04 w
  | .bst _ _ w => sessionWordOk 0x05 w
  | .loopI _ _ w => sessionWordOk 0x06 w
  | .wait _ _ w => sessionWordOk 0x10 w
  | .parkInstruction _ _ w => sessionWordOk 0x20 w
  | .reviveInstruction _ _ w => sessionWordOk 0x21 w
  | .migrateInstruction _ _ w => sessionWordOk 0x22 w
  | .fork _ _ w => sessionWordOk 0x23 w
  | .dropInstruction _ _ w => sessionWordOk 0x24 w
  | .getf _ _ w => sessionWordOk 0x25 w
  | .setf _ _ w => sessionWordOk 0x26 w
  | .intakeInstruction _ _ w => sessionWordOk 0x30 w
  | .prefill _ _ w => sessionWordOk 0x31 w
  | .step _ _ w => sessionWordOk 0x32 w
  | .emit _ _ w => sessionWordOk 0x33 w
  | .hold _ _ w => sessionWordOk 0x34 w
  | .bindInstruction _ _ w => sessionWordOk 0x35 w
  | .qsearchInstruction _ _ w => sessionWordOk 0x40 w
  | .qinsertInstruction _ _ w => sessionWordOk 0x41 w
  | .qdeleteInstruction _ _ w => sessionWordOk 0x42 w
  | .mov _ _ w => sessionWordOk 0x50 w
  | .ldi _ _ w => sessionWordOk 0x51 w
  | .lui _ _ w => sessionWordOk 0x52 w
  | .add _ _ w => sessionWordOk 0x53 w
  | .sub _ _ w => sessionWordOk 0x54 w
  | .andI _ _ w => sessionWordOk 0x55 w
  | .orI _ _ w => sessionWordOk 0x56 w
  | .xorI _ _ w => sessionWordOk 0x57 w
  | .shl _ _ w => sessionWordOk 0x58 w
  | .shr _ _ w => sessionWordOk 0x59 w
  | .sar _ _ w => sessionWordOk 0x5A w
  | .cmp _ _ w => sessionWordOk 0x5B w
  | .ntread _ _ w => sessionWordOk 0x60 w
  | .post _ _ w => sessionWordOk 0x70 w
  | .mma _ _ w _ => Machine.matrixOk 0x01 w
  | .mmai _ _ w _ => Machine.matrixOk 0x02 w
  | .mqk _ _ w _ => Machine.matrixOk 0x03 w
  | .mpv _ _ w _ => Machine.matrixOk 0x04 w
  | .mcfg _ _ w => Machine.matrixOk 0x0F w
  | .vadd _ _ w _ => Machine.vectorOk 0x01 w
  | .vsub _ _ w _ => Machine.vectorOk 0x02 w
  | .vmul _ _ w _ => Machine.vectorOk 0x03 w
  | .vfma _ _ w _ => Machine.vectorOk 0x04 w
  | .vdiv _ _ w _ => Machine.vectorOk 0x05 w
  | .vsqrt _ _ w _ => Machine.vectorOk 0x06 w
  | .vmin _ _ w _ => Machine.vectorOk 0x07 w
  | .vmax _ _ w _ => Machine.vectorOk 0x08 w
  | .vfn _ _ w _ => Machine.vectorOk 0x09 w
  | .vscl _ _ w _ => Machine.vectorOk 0x0A w
  | .vcvt _ _ w _ => Machine.vectorOk 0x0B w
  | .vqmx _ _ w _ => Machine.vectorOk 0x0C w
  | .vred _ _ w _ => Machine.vectorOk 0x0D w
  | .vtree _ _ w _ => Machine.vectorOk 0x0E w
  | .vatt _ _ w _ => Machine.vectorOk 0x0F w
  | .vcomb _ _ w _ => Machine.vectorOk 0x10 w
  | .xcopy _ _ w => Machine.moveOk 0x01 w
  | .xwait _ _ w => Machine.moveOk 0x02 w
  | .xkvw _ _ w => Machine.moveOk 0x03 w
  | .xhub _ _ w => Machine.moveOk 0x04 w
  | .lsend _ _ w => Machine.linkOk 0x01 w
  | .lrecv _ _ w => Machine.linkOk 0x02 w
  | .lput _ _ w => Machine.linkOk 0x03 w
  | .lwait _ _ w => Machine.linkOk 0x04 w
  | .grain _ _ w => Machine.linkOk 0x05 w
  | .gcommit _ _ w => Machine.linkOk 0x06 w
  | .stepend _ _ w => Machine.linkOk 0x07 w
  | .stagingLanded _ _ _ _ lines => lines.all (fun e => decide (e.2.1.toNat < Machine.scratchLines))
  | .gather _ _ logits _ => decide (logits.length ≤ 8)
  | .hostDraftRead _ _ ok data => !ok || data.length == 64
  | .part _ _ _ body _ => partBodyOk body
  | .mirror _ _ m => m.image.length == 256
  | .drainPage _ _ _ _ data _ => decide (data.length ≤ 65536)
  | .staticFrame _ _ fr => frameOk fr
  | .dynamicFrame _ _ fr => frameOk fr
  | .tjWarnClear _ degc => degc.length == 13
  | .tripRecovery _ degc => degc.length == 13
  | .powerWindow _ ins => ins.length == 4
  | .linkWindow _ states => states.length == 16
  | .selftest _ _ stoneFail => stoneFail.all (fun e => decide (e.2.toNat < 576))
  | .blockVerify _ _ _ pct => decide (pct.toNat ≤ 100)
  | .clockDomainReset _ cls dom _ => Machine.Hub.clockKnown cls dom
  | .clockStop _ cls dom => Machine.Hub.clockKnown cls dom
  | .clockWake _ cls dom _ => Machine.Hub.clockKnown cls dom
  | .unknownOpcodeLine _ _ op _ => !Machine.knownOp op
  | .ticketLoad .. | .keySlotStore .. | .keySlotLoad .. | .ticketWindowStore .. | .memwrptl .. | .admitSession .. | .dropCommand ..
  | .intakeCommand .. | .parkCommand .. | .reviveCommand .. | .migrateCommand .. | .resume .. | .signal .. | .update ..
  | .bindCommand .. | .inspect .. | .reclaim .. | .stopload .. | .gramload .. | .adapterload .. | .progload ..
  | .progdrop .. | .modelload .. | .planload .. | .plandrop .. | .recompose .. | .evacuate .. | .qcreate .. | .qdestroy ..
  | .qsearchCommand .. | .qinsertCommand .. | .qdeleteCommand .. | .qfilter .. | .qmerge .. | .cutCommand ..
  | .restoreCommand .. | .attest .. | .sealopen .. | .sealclose .. | .sealintake .. | .keyrotate .. | .partclear ..
  | .fuseadv .. | .provision .. | .jread .. | .bbread .. | .bbsnap .. | .ctrsnap .. | .inject .. | .injcancel ..
  | .sequencerActivation .. | .stagingTransfer .. | .deviceReady .. | .boundaryFrame .. | .stepBoundary .. | .waitTimeout ..
  | .holdTimeout .. | .ttlExpire .. | .hopperIntake .. | .writeDurable .. | .extentRead .. | .backlogDrain ..
  | .completionBacklogDrain .. | .consumedWordRetry .. | .writeRetry .. | .quantizedCompletion .. | .interruptHoldoff ..
  | .offer .. | .accept .. | .refuse .. | .ack .. | .probe .. | .probeReply .. | .release .. | .event .. | .adapter ..
  | .drainDone .. | .drainSettled .. | .drainRestored .. | .buddy .. | .ackTimeout .. | .offerTimeout ..
  | .stagingTimeout .. | .probeInterval .. | .adapterCommit .. | .bindingReport .. | .adapterFree .. | .effectiveNt ..
  | .recomposeTimeout .. | .planActivation .. | .ownSlotWrite .. | .autoRestore .. | .nandProgram .. | .programFailure ..
  | .gcIdle .. | .gcRelocate .. | .victimErase .. | .staticWearLevel .. | .granaryRead .. | .mapPageFetch ..
  | .mapPageRebuild .. | .mapCheckpoint .. | .grnflush .. | .quernSearchStart .. | .quernResult .. | .quernIndexFree ..
  | .mergeCommit .. | .bankSwap .. | .aixScrub .. | .pwScrub .. | .rowRepair .. | .hbmChannelFail .. | .hbmChannelCopy ..
  | .sweepRewrite .. | .keyRetire .. | .trngHealthTest .. | .refillInstant .. | .drrSend .. | .sampleInstant .. | .nak ..
  | .acknowledgment .. | .credit .. | .laneSwap .. | .laneLockLoss .. | .symbolWindow .. | .portSilence ..
  | .groupFaultFrame .. | .hello .. | .helloSend .. | .topologyRecord .. | .topologyResend .. | .mapDigest ..
  | .coarseFrame .. | .coarseEdge .. | .fineExchange .. | .holdover .. | .holdoverExpiry .. | .masterSilence ..
  | .powerOnReset .. | .perstAssert .. | .perstDeassert .. | .warmReset .. | .cxlPortReset .. | .rateWindow ..
  | .inputInRegulation .. | .powerLoss .. | .fuseOpen .. | .powerRestart .. | .pwrbrkAssert .. | .pwrbrkDeassert ..
  | .tjWarn .. | .thermalTrip .. | .tokenRefill .. | .wakeGrant .. | .vcoreStep .. | .smbusRead .. | .smbusWrite ..
  | .bbConsole .. | .bbCopy .. | .counterLatch .. | .powerStage .. | .boot .. | .topologyComplete .. | .topologyTimeout ..
  | .elect .. | .sync .. | .syncTimeout .. | .grnGo .. | .granaryStartTimeout .. | .granaryReady .. | .planStage ..
  | .restoreStage .. | .ready .. | .sessionsGo .. | .hctlLock .. | .pwrctlLock .. | .nfctlLock .. | .dgctlLock ..
  | .stoneretire .. | .mollane .. | .aixbankmap .. | .dgsnap .. | .streamRingEnable .. | .completionRingEnable ..
  | .partctlMode .. | .registerWrite .. | .itomwrComplete .. | .rdcurrComplete .. | .frameCheckFailure .. | .ideKm ..
  | .cxlLinkUp .. | .injectionTimeReached .. | .injectionDurationEnd ..  => true

end Sys2Proof
end

