-- ==== Sys2Proof/Laws/PerInstr.lean ====
section
/-! SUPPORT. One lemma per command of the family Shape: the place of a command's row in the opcode table fixes its kind, and
only the kinds that carry an encoded word have an opcode to check. -/

namespace Sys2Proof.Laws

/-- The kinds of rows of the opcode table: host lines, session instructions, bundle slots, and every other event. -/
inductive Kind where
  | line | instruction | slot | event
deriving DecidableEq, Repr

/-- The place of a command's row in the opcode table, from 0. -/
def row (i : Instr) : Nat :=
  match i with
  | .ticketLoad .. => 0
  | .keySlotStore .. => 1
  | .keySlotLoad .. => 2
  | .ticketWindowStore .. => 3
  | .memwrptl .. => 4
  | .admitSession .. => 5
  | .dropCommand .. => 6
  | .intakeCommand .. => 7
  | .parkCommand .. => 8
  | .reviveCommand .. => 9
  | .migrateCommand .. => 10
  | .resume .. => 11
  | .signal .. => 12
  | .update .. => 13
  | .bindCommand .. => 14
  | .inspect .. => 15
  | .reclaim .. => 16
  | .stopload .. => 17
  | .gramload .. => 18
  | .adapterload .. => 19
  | .progload .. => 20
  | .progdrop .. => 21
  | .modelload .. => 22
  | .planload .. => 23
  | .plandrop .. => 24
  | .recompose .. => 25
  | .evacuate .. => 26
  | .qcreate .. => 27
  | .qdestroy .. => 28
  | .qsearchCommand .. => 29
  | .qinsertCommand .. => 30
  | .qdeleteCommand .. => 31
  | .qfilter .. => 32
  | .qmerge .. => 33
  | .cutCommand .. => 34
  | .restoreCommand .. => 35
  | .attest .. => 36
  | .sealopen .. => 37
  | .sealclose .. => 38
  | .sealintake .. => 39
  | .keyrotate .. => 40
  | .partclear .. => 41
  | .fuseadv .. => 42
  | .provision .. => 43
  | .jread .. => 44
  | .bbread .. => 45
  | .bbsnap .. => 46
  | .ctrsnap .. => 47
  | .inject .. => 48
  | .injcancel .. => 49
  | .nop .. => 50
  | .br .. => 51
  | .bcc .. => 52
  | .cbr .. => 53
  | .cbi .. => 54
  | .bst .. => 55
  | .loopI .. => 56
  | .wait .. => 57
  | .parkInstruction .. => 58
  | .reviveInstruction .. => 59
  | .migrateInstruction .. => 60
  | .fork .. => 61
  | .dropInstruction .. => 62
  | .getf .. => 63
  | .setf .. => 64
  | .intakeInstruction .. => 65
  | .prefill .. => 66
  | .step .. => 67
  | .emit .. => 68
  | .hold .. => 69
  | .bindInstruction .. => 70
  | .qsearchInstruction .. => 71
  | .qinsertInstruction .. => 72
  | .qdeleteInstruction .. => 73
  | .mov .. => 74
  | .ldi .. => 75
  | .lui .. => 76
  | .add .. => 77
  | .sub .. => 78
  | .andI .. => 79
  | .orI .. => 80
  | .xorI .. => 81
  | .shl .. => 82
  | .shr .. => 83
  | .sar .. => 84
  | .cmp .. => 85
  | .ntread .. => 86
  | .post .. => 87
  | .sequencerActivation .. => 88
  | .mma .. => 89
  | .mmai .. => 90
  | .mqk .. => 91
  | .mpv .. => 92
  | .mcfg .. => 93
  | .vadd .. => 94
  | .vsub .. => 95
  | .vmul .. => 96
  | .vfma .. => 97
  | .vdiv .. => 98
  | .vsqrt .. => 99
  | .vmin .. => 100
  | .vmax .. => 101
  | .vfn .. => 102
  | .vscl .. => 103
  | .vcvt .. => 104
  | .vqmx .. => 105
  | .vred .. => 106
  | .vtree .. => 107
  | .vatt .. => 108
  | .vcomb .. => 109
  | .xcopy .. => 110
  | .xwait .. => 111
  | .xkvw .. => 112
  | .xhub .. => 113
  | .lsend .. => 114
  | .lrecv .. => 115
  | .lput .. => 116
  | .lwait .. => 117
  | .grain .. => 118
  | .gcommit .. => 119
  | .stepend .. => 120
  | .stagingTransfer .. => 121
  | .stagingLanded .. => 122
  | .deviceReady .. => 123
  | .gather .. => 124
  | .hostDraftRead .. => 125
  | .boundaryFrame .. => 126
  | .stepBoundary .. => 127
  | .waitTimeout .. => 128
  | .holdTimeout .. => 129
  | .ttlExpire .. => 130
  | .hopperIntake .. => 131
  | .writeDurable .. => 132
  | .extentRead .. => 133
  | .backlogDrain .. => 134
  | .completionBacklogDrain .. => 135
  | .consumedWordRetry .. => 136
  | .writeRetry .. => 137
  | .quantizedCompletion .. => 138
  | .interruptHoldoff .. => 139
  | .offer .. => 140
  | .accept .. => 141
  | .refuse .. => 142
  | .part .. => 143
  | .ack .. => 144
  | .probe .. => 145
  | .probeReply .. => 146
  | .release .. => 147
  | .event .. => 148
  | .mirror .. => 149
  | .adapter .. => 150
  | .drainPage .. => 151
  | .drainDone .. => 152
  | .drainSettled .. => 153
  | .drainRestored .. => 154
  | .buddy .. => 155
  | .ackTimeout .. => 156
  | .offerTimeout .. => 157
  | .stagingTimeout .. => 158
  | .probeInterval .. => 159
  | .adapterCommit .. => 160
  | .bindingReport .. => 161
  | .adapterFree .. => 162
  | .effectiveNt .. => 163
  | .recomposeTimeout .. => 164
  | .planActivation .. => 165
  | .ownSlotWrite .. => 166
  | .autoRestore .. => 167
  | .nandProgram .. => 168
  | .programFailure .. => 169
  | .blockVerify .. => 170
  | .gcIdle .. => 171
  | .gcRelocate .. => 172
  | .victimErase .. => 173
  | .staticWearLevel .. => 174
  | .granaryRead .. => 175
  | .mapPageFetch .. => 176
  | .mapPageRebuild .. => 177
  | .mapCheckpoint .. => 178
  | .grnflush .. => 179
  | .quernSearchStart .. => 180
  | .quernResult .. => 181
  | .quernIndexFree .. => 182
  | .mergeCommit .. => 183
  | .bankSwap .. => 184
  | .aixScrub .. => 185
  | .pwScrub .. => 186
  | .rowRepair .. => 187
  | .hbmChannelFail .. => 188
  | .hbmChannelCopy .. => 189
  | .sweepRewrite .. => 190
  | .keyRetire .. => 191
  | .trngHealthTest .. => 192
  | .refillInstant .. => 193
  | .drrSend .. => 194
  | .sampleInstant .. => 195
  | .staticFrame .. => 196
  | .nak .. => 197
  | .acknowledgment .. => 198
  | .credit .. => 199
  | .laneSwap .. => 200
  | .laneLockLoss .. => 201
  | .symbolWindow .. => 202
  | .portSilence .. => 203
  | .groupFaultFrame .. => 204
  | .hello .. => 205
  | .helloSend .. => 206
  | .topologyRecord .. => 207
  | .topologyResend .. => 208
  | .mapDigest .. => 209
  | .coarseFrame .. => 210
  | .coarseEdge .. => 211
  | .fineExchange .. => 212
  | .holdover .. => 213
  | .holdoverExpiry .. => 214
  | .masterSilence .. => 215
  | .powerOnReset .. => 216
  | .perstAssert .. => 217
  | .perstDeassert .. => 218
  | .warmReset .. => 219
  | .cxlPortReset .. => 220
  | .clockDomainReset .. => 221
  | .clockStop .. => 222
  | .clockWake .. => 223
  | .rateWindow .. => 224
  | .inputInRegulation .. => 225
  | .powerLoss .. => 226
  | .fuseOpen .. => 227
  | .powerRestart .. => 228
  | .pwrbrkAssert .. => 229
  | .pwrbrkDeassert .. => 230
  | .tjWarn .. => 231
  | .tjWarnClear .. => 232
  | .thermalTrip .. => 233
  | .tripRecovery .. => 234
  | .tokenRefill .. => 235
  | .wakeGrant .. => 236
  | .powerWindow .. => 237
  | .vcoreStep .. => 238
  | .smbusRead .. => 239
  | .smbusWrite .. => 240
  | .bbConsole .. => 241
  | .bbCopy .. => 242
  | .counterLatch .. => 243
  | .powerStage .. => 244
  | .boot .. => 245
  | .selftest .. => 246
  | .linkWindow .. => 247
  | .topologyComplete .. => 248
  | .topologyTimeout .. => 249
  | .elect .. => 250
  | .sync .. => 251
  | .syncTimeout .. => 252
  | .grnGo .. => 253
  | .granaryStartTimeout .. => 254
  | .granaryReady .. => 255
  | .planStage .. => 256
  | .restoreStage .. => 257
  | .ready .. => 258
  | .sessionsGo .. => 259
  | .hctlLock .. => 260
  | .pwrctlLock .. => 261
  | .nfctlLock .. => 262
  | .dgctlLock .. => 263
  | .stoneretire .. => 264
  | .mollane .. => 265
  | .aixbankmap .. => 266
  | .dgsnap .. => 267
  | .streamRingEnable .. => 268
  | .completionRingEnable .. => 269
  | .partctlMode .. => 270
  | .registerWrite .. => 271
  | .unknownOpcodeLine .. => 272
  | .itomwrComplete .. => 273
  | .rdcurrComplete .. => 274
  | .dynamicFrame .. => 275
  | .frameCheckFailure .. => 276
  | .ideKm .. => 277
  | .cxlLinkUp .. => 278
  | .injectionTimeReached .. => 279
  | .injectionDurationEnd .. => 280

/-- The kind of a command. -/
def kind (i : Instr) : Kind :=
  match i with
  | .admitSession .. | .dropCommand .. | .intakeCommand .. | .parkCommand .. | .reviveCommand .. | .migrateCommand .. | .resume ..
  | .signal .. | .update .. | .bindCommand .. | .inspect .. | .reclaim .. | .stopload .. | .gramload .. | .adapterload ..
  | .progload .. | .progdrop .. | .modelload .. | .planload .. | .plandrop .. | .recompose .. | .evacuate .. | .qcreate ..
  | .qdestroy .. | .qsearchCommand .. | .qinsertCommand .. | .qdeleteCommand .. | .qfilter .. | .qmerge .. | .cutCommand ..
  | .restoreCommand .. | .attest .. | .sealopen .. | .sealclose .. | .sealintake .. | .keyrotate .. | .partclear ..
  | .fuseadv .. | .provision .. | .jread .. | .bbread .. | .bbsnap .. | .ctrsnap .. | .inject .. | .injcancel ..
  | .unknownOpcodeLine ..  => .line
  | .nop .. | .br .. | .bcc .. | .cbr .. | .cbi .. | .bst .. | .loopI .. | .wait .. | .parkInstruction ..
  | .reviveInstruction .. | .migrateInstruction .. | .fork .. | .dropInstruction .. | .getf .. | .setf ..
  | .intakeInstruction .. | .prefill .. | .step .. | .emit .. | .hold .. | .bindInstruction .. | .qsearchInstruction ..
  | .qinsertInstruction .. | .qdeleteInstruction .. | .mov .. | .ldi .. | .lui .. | .add .. | .sub .. | .andI .. | .orI ..
  | .xorI .. | .shl .. | .shr .. | .sar .. | .cmp .. | .ntread .. | .post ..  => .instruction
  | .mma .. | .mmai .. | .mqk .. | .mpv .. | .mcfg .. | .vadd .. | .vsub .. | .vmul .. | .vfma .. | .vdiv .. | .vsqrt ..
  | .vmin .. | .vmax .. | .vfn .. | .vscl .. | .vcvt .. | .vqmx .. | .vred .. | .vtree .. | .vatt .. | .vcomb .. | .xcopy ..
  | .xwait .. | .xkvw .. | .xhub .. | .lsend .. | .lrecv .. | .lput .. | .lwait .. | .grain .. | .gcommit .. | .stepend ..  => .slot
  | .ticketLoad .. | .keySlotStore .. | .keySlotLoad .. | .ticketWindowStore .. | .memwrptl .. | .sequencerActivation ..
  | .stagingTransfer .. | .stagingLanded .. | .deviceReady .. | .gather .. | .hostDraftRead .. | .boundaryFrame ..
  | .stepBoundary .. | .waitTimeout .. | .holdTimeout .. | .ttlExpire .. | .hopperIntake .. | .writeDurable ..
  | .extentRead .. | .backlogDrain .. | .completionBacklogDrain .. | .consumedWordRetry .. | .writeRetry ..
  | .quantizedCompletion .. | .interruptHoldoff .. | .offer .. | .accept .. | .refuse .. | .part .. | .ack .. | .probe ..
  | .probeReply .. | .release .. | .event .. | .mirror .. | .adapter .. | .drainPage .. | .drainDone .. | .drainSettled ..
  | .drainRestored .. | .buddy .. | .ackTimeout .. | .offerTimeout .. | .stagingTimeout .. | .probeInterval ..
  | .adapterCommit .. | .bindingReport .. | .adapterFree .. | .effectiveNt .. | .recomposeTimeout .. | .planActivation ..
  | .ownSlotWrite .. | .autoRestore .. | .nandProgram .. | .programFailure .. | .blockVerify .. | .gcIdle ..
  | .gcRelocate .. | .victimErase .. | .staticWearLevel .. | .granaryRead .. | .mapPageFetch .. | .mapPageRebuild ..
  | .mapCheckpoint .. | .grnflush .. | .quernSearchStart .. | .quernResult .. | .quernIndexFree .. | .mergeCommit ..
  | .bankSwap .. | .aixScrub .. | .pwScrub .. | .rowRepair .. | .hbmChannelFail .. | .hbmChannelCopy .. | .sweepRewrite ..
  | .keyRetire .. | .trngHealthTest .. | .refillInstant .. | .drrSend .. | .sampleInstant .. | .staticFrame .. | .nak ..
  | .acknowledgment .. | .credit .. | .laneSwap .. | .laneLockLoss .. | .symbolWindow .. | .portSilence ..
  | .groupFaultFrame .. | .hello .. | .helloSend .. | .topologyRecord .. | .topologyResend .. | .mapDigest ..
  | .coarseFrame .. | .coarseEdge .. | .fineExchange .. | .holdover .. | .holdoverExpiry .. | .masterSilence ..
  | .powerOnReset .. | .perstAssert .. | .perstDeassert .. | .warmReset .. | .cxlPortReset .. | .clockDomainReset ..
  | .clockStop .. | .clockWake .. | .rateWindow .. | .inputInRegulation .. | .powerLoss .. | .fuseOpen .. | .powerRestart ..
  | .pwrbrkAssert .. | .pwrbrkDeassert .. | .tjWarn .. | .tjWarnClear .. | .thermalTrip .. | .tripRecovery ..
  | .tokenRefill .. | .wakeGrant .. | .powerWindow .. | .vcoreStep .. | .smbusRead .. | .smbusWrite .. | .bbConsole ..
  | .bbCopy .. | .counterLatch .. | .powerStage .. | .boot .. | .selftest .. | .linkWindow .. | .topologyComplete ..
  | .topologyTimeout .. | .elect .. | .sync .. | .syncTimeout .. | .grnGo .. | .granaryStartTimeout .. | .granaryReady ..
  | .planStage .. | .restoreStage .. | .ready .. | .sessionsGo .. | .hctlLock .. | .pwrctlLock .. | .nfctlLock ..
  | .dgctlLock .. | .stoneretire .. | .mollane .. | .aixbankmap .. | .dgsnap .. | .streamRingEnable ..
  | .completionRingEnable .. | .partctlMode .. | .registerWrite .. | .itomwrComplete .. | .rdcurrComplete ..
  | .dynamicFrame .. | .frameCheckFailure .. | .ideKm .. | .cxlLinkUp .. | .injectionTimeReached ..
  | .injectionDurationEnd ..  => .event

/-- The kind that a row's place in the table fixes. -/
def kindAt (k : Nat) : Kind :=
  if (5 ≤ k ∧ k ≤ 49) ∨ k = 272 then .line
  else if 50 ≤ k ∧ k ≤ 87 then .instruction
  else if 89 ≤ k ∧ k ≤ 120 then .slot
  else .event

end Sys2Proof.Laws

/-- The table has the command's row, and the row's place fixes the command's kind. -/
def Sys2Proof.Laws.Shape.Statement (i : Sys2Proof.Instr) : Prop :=
  Sys2Proof.Laws.row i < 281 ∧ Sys2Proof.Laws.kind i = Sys2Proof.Laws.kindAt (Sys2Proof.Laws.row i)

namespace Sys2Proof.Laws.Shape

theorem ticketLoad (t : Nt) (h : Handle) (cacheable : Bool) :
    Statement (.ticketLoad t h cacheable) := by
  show 0 < 281 ∧ Kind.event = kindAt 0; decide
theorem keySlotStore (t : Nt) (k : BitVec 12) (sk : BitVec 128) :
    Statement (.keySlotStore t k sk) := by
  show 1 < 281 ∧ Kind.event = kindAt 1; decide
theorem keySlotLoad (t : Nt) (k : BitVec 12) :
    Statement (.keySlotLoad t k) := by
  show 2 < 281 ∧ Kind.event = kindAt 2; decide
theorem ticketWindowStore (t : Nt) (off : BitVec 28) :
    Statement (.ticketWindowStore t off) := by
  show 3 < 281 ∧ Kind.event = kindAt 3; decide
theorem memwrptl (t : Nt) (w : BitVec 8) :
    Statement (.memwrptl t w) := by
  show 4 < 281 ∧ Kind.event = kindAt 4; decide
theorem admitSession (t : Nt) (w : BitVec 8) (line : CmdLine) :
    Statement (.admitSession t w line) := by
  show 5 < 281 ∧ Kind.line = kindAt 5; decide
theorem dropCommand (t : Nt) (w : BitVec 8) (line : CmdLine) :
    Statement (.dropCommand t w line) := by
  show 6 < 281 ∧ Kind.line = kindAt 6; decide
theorem intakeCommand (t : Nt) (w : BitVec 8) (line : CmdLine) :
    Statement (.intakeCommand t w line) := by
  show 7 < 281 ∧ Kind.line = kindAt 7; decide
theorem parkCommand (t : Nt) (w : BitVec 8) (line : CmdLine) :
    Statement (.parkCommand t w line) := by
  show 8 < 281 ∧ Kind.line = kindAt 8; decide
theorem reviveCommand (t : Nt) (w : BitVec 8) (line : CmdLine) :
    Statement (.reviveCommand t w line) := by
  show 9 < 281 ∧ Kind.line = kindAt 9; decide
theorem migrateCommand (t : Nt) (w : BitVec 8) (line : CmdLine) :
    Statement (.migrateCommand t w line) := by
  show 10 < 281 ∧ Kind.line = kindAt 10; decide
theorem resume (t : Nt) (w : BitVec 8) (line : CmdLine) :
    Statement (.resume t w line) := by
  show 11 < 281 ∧ Kind.line = kindAt 11; decide
theorem signal (t : Nt) (w : BitVec 8) (line : CmdLine) :
    Statement (.signal t w line) := by
  show 12 < 281 ∧ Kind.line = kindAt 12; decide
theorem update (t : Nt) (w : BitVec 8) (line : CmdLine) :
    Statement (.update t w line) := by
  show 13 < 281 ∧ Kind.line = kindAt 13; decide
theorem bindCommand (t : Nt) (w : BitVec 8) (line : CmdLine) :
    Statement (.bindCommand t w line) := by
  show 14 < 281 ∧ Kind.line = kindAt 14; decide
theorem inspect (t : Nt) (w : BitVec 8) (line : CmdLine) :
    Statement (.inspect t w line) := by
  show 15 < 281 ∧ Kind.line = kindAt 15; decide
theorem reclaim (t : Nt) (w : BitVec 8) (line : CmdLine) :
    Statement (.reclaim t w line) := by
  show 16 < 281 ∧ Kind.line = kindAt 16; decide
theorem stopload (t : Nt) (w : BitVec 8) (line : CmdLine) :
    Statement (.stopload t w line) := by
  show 17 < 281 ∧ Kind.line = kindAt 17; decide
theorem gramload (t : Nt) (w : BitVec 8) (line : CmdLine) :
    Statement (.gramload t w line) := by
  show 18 < 281 ∧ Kind.line = kindAt 18; decide
theorem adapterload (t : Nt) (w : BitVec 8) (line : CmdLine) :
    Statement (.adapterload t w line) := by
  show 19 < 281 ∧ Kind.line = kindAt 19; decide
theorem progload (t : Nt) (w : BitVec 8) (line : CmdLine) :
    Statement (.progload t w line) := by
  show 20 < 281 ∧ Kind.line = kindAt 20; decide
theorem progdrop (t : Nt) (w : BitVec 8) (line : CmdLine) :
    Statement (.progdrop t w line) := by
  show 21 < 281 ∧ Kind.line = kindAt 21; decide
theorem modelload (t : Nt) (w : BitVec 8) (line : CmdLine) :
    Statement (.modelload t w line) := by
  show 22 < 281 ∧ Kind.line = kindAt 22; decide
theorem planload (t : Nt) (w : BitVec 8) (line : CmdLine) :
    Statement (.planload t w line) := by
  show 23 < 281 ∧ Kind.line = kindAt 23; decide
theorem plandrop (t : Nt) (w : BitVec 8) (line : CmdLine) :
    Statement (.plandrop t w line) := by
  show 24 < 281 ∧ Kind.line = kindAt 24; decide
theorem recompose (t : Nt) (w : BitVec 8) (line : CmdLine) :
    Statement (.recompose t w line) := by
  show 25 < 281 ∧ Kind.line = kindAt 25; decide
theorem evacuate (t : Nt) (w : BitVec 8) (line : CmdLine) :
    Statement (.evacuate t w line) := by
  show 26 < 281 ∧ Kind.line = kindAt 26; decide
theorem qcreate (t : Nt) (w : BitVec 8) (line : CmdLine) :
    Statement (.qcreate t w line) := by
  show 27 < 281 ∧ Kind.line = kindAt 27; decide
theorem qdestroy (t : Nt) (w : BitVec 8) (line : CmdLine) :
    Statement (.qdestroy t w line) := by
  show 28 < 281 ∧ Kind.line = kindAt 28; decide
theorem qsearchCommand (t : Nt) (w : BitVec 8) (line : CmdLine) :
    Statement (.qsearchCommand t w line) := by
  show 29 < 281 ∧ Kind.line = kindAt 29; decide
theorem qinsertCommand (t : Nt) (w : BitVec 8) (line : CmdLine) :
    Statement (.qinsertCommand t w line) := by
  show 30 < 281 ∧ Kind.line = kindAt 30; decide
theorem qdeleteCommand (t : Nt) (w : BitVec 8) (line : CmdLine) :
    Statement (.qdeleteCommand t w line) := by
  show 31 < 281 ∧ Kind.line = kindAt 31; decide
theorem qfilter (t : Nt) (w : BitVec 8) (line : CmdLine) :
    Statement (.qfilter t w line) := by
  show 32 < 281 ∧ Kind.line = kindAt 32; decide
theorem qmerge (t : Nt) (w : BitVec 8) (line : CmdLine) :
    Statement (.qmerge t w line) := by
  show 33 < 281 ∧ Kind.line = kindAt 33; decide
theorem cutCommand (t : Nt) (w : BitVec 8) (line : CmdLine) :
    Statement (.cutCommand t w line) := by
  show 34 < 281 ∧ Kind.line = kindAt 34; decide
theorem restoreCommand (t : Nt) (w : BitVec 8) (line : CmdLine) :
    Statement (.restoreCommand t w line) := by
  show 35 < 281 ∧ Kind.line = kindAt 35; decide
theorem attest (t : Nt) (w : BitVec 8) (line : CmdLine) :
    Statement (.attest t w line) := by
  show 36 < 281 ∧ Kind.line = kindAt 36; decide
theorem sealopen (t : Nt) (w : BitVec 8) (line : CmdLine) :
    Statement (.sealopen t w line) := by
  show 37 < 281 ∧ Kind.line = kindAt 37; decide
theorem sealclose (t : Nt) (w : BitVec 8) (line : CmdLine) :
    Statement (.sealclose t w line) := by
  show 38 < 281 ∧ Kind.line = kindAt 38; decide
theorem sealintake (t : Nt) (w : BitVec 8) (line : CmdLine) :
    Statement (.sealintake t w line) := by
  show 39 < 281 ∧ Kind.line = kindAt 39; decide
theorem keyrotate (t : Nt) (w : BitVec 8) (line : CmdLine) :
    Statement (.keyrotate t w line) := by
  show 40 < 281 ∧ Kind.line = kindAt 40; decide
theorem partclear (t : Nt) (w : BitVec 8) (line : CmdLine) :
    Statement (.partclear t w line) := by
  show 41 < 281 ∧ Kind.line = kindAt 41; decide
theorem fuseadv (t : Nt) (w : BitVec 8) (line : CmdLine) :
    Statement (.fuseadv t w line) := by
  show 42 < 281 ∧ Kind.line = kindAt 42; decide
theorem provision (t : Nt) (w : BitVec 8) (line : CmdLine) :
    Statement (.provision t w line) := by
  show 43 < 281 ∧ Kind.line = kindAt 43; decide
theorem jread (t : Nt) (w : BitVec 8) (line : CmdLine) :
    Statement (.jread t w line) := by
  show 44 < 281 ∧ Kind.line = kindAt 44; decide
theorem bbread (t : Nt) (w : BitVec 8) (line : CmdLine) :
    Statement (.bbread t w line) := by
  show 45 < 281 ∧ Kind.line = kindAt 45; decide
theorem bbsnap (t : Nt) (w : BitVec 8) (line : CmdLine) :
    Statement (.bbsnap t w line) := by
  show 46 < 281 ∧ Kind.line = kindAt 46; decide
theorem ctrsnap (t : Nt) (w : BitVec 8) (line : CmdLine) :
    Statement (.ctrsnap t w line) := by
  show 47 < 281 ∧ Kind.line = kindAt 47; decide
theorem inject (t : Nt) (w : BitVec 8) (line : CmdLine) :
    Statement (.inject t w line) := by
  show 48 < 281 ∧ Kind.line = kindAt 48; decide
theorem injcancel (t : Nt) (w : BitVec 8) (line : CmdLine) :
    Statement (.injcancel t w line) := by
  show 49 < 281 ∧ Kind.line = kindAt 49; decide
theorem nop (t : Nt) (h : Handle) (w : W64) :
    Statement (.nop t h w) := by
  show 50 < 281 ∧ Kind.instruction = kindAt 50; decide
theorem br (t : Nt) (h : Handle) (w : W64) :
    Statement (.br t h w) := by
  show 51 < 281 ∧ Kind.instruction = kindAt 51; decide
theorem bcc (t : Nt) (h : Handle) (w : W64) :
    Statement (.bcc t h w) := by
  show 52 < 281 ∧ Kind.instruction = kindAt 52; decide
theorem cbr (t : Nt) (h : Handle) (w : W64) :
    Statement (.cbr t h w) := by
  show 53 < 281 ∧ Kind.instruction = kindAt 53; decide
theorem cbi (t : Nt) (h : Handle) (w : W64) :
    Statement (.cbi t h w) := by
  show 54 < 281 ∧ Kind.instruction = kindAt 54; decide
theorem bst (t : Nt) (h : Handle) (w : W64) :
    Statement (.bst t h w) := by
  show 55 < 281 ∧ Kind.instruction = kindAt 55; decide
theorem loopI (t : Nt) (h : Handle) (w : W64) :
    Statement (.loopI t h w) := by
  show 56 < 281 ∧ Kind.instruction = kindAt 56; decide
theorem wait (t : Nt) (h : Handle) (w : W64) :
    Statement (.wait t h w) := by
  show 57 < 281 ∧ Kind.instruction = kindAt 57; decide
theorem parkInstruction (t : Nt) (h : Handle) (w : W64) :
    Statement (.parkInstruction t h w) := by
  show 58 < 281 ∧ Kind.instruction = kindAt 58; decide
theorem reviveInstruction (t : Nt) (h : Handle) (w : W64) :
    Statement (.reviveInstruction t h w) := by
  show 59 < 281 ∧ Kind.instruction = kindAt 59; decide
theorem migrateInstruction (t : Nt) (h : Handle) (w : W64) :
    Statement (.migrateInstruction t h w) := by
  show 60 < 281 ∧ Kind.instruction = kindAt 60; decide
theorem fork (t : Nt) (h : Handle) (w : W64) :
    Statement (.fork t h w) := by
  show 61 < 281 ∧ Kind.instruction = kindAt 61; decide
theorem dropInstruction (t : Nt) (h : Handle) (w : W64) :
    Statement (.dropInstruction t h w) := by
  show 62 < 281 ∧ Kind.instruction = kindAt 62; decide
theorem getf (t : Nt) (h : Handle) (w : W64) :
    Statement (.getf t h w) := by
  show 63 < 281 ∧ Kind.instruction = kindAt 63; decide
theorem setf (t : Nt) (h : Handle) (w : W64) :
    Statement (.setf t h w) := by
  show 64 < 281 ∧ Kind.instruction = kindAt 64; decide
theorem intakeInstruction (t : Nt) (h : Handle) (w : W64) :
    Statement (.intakeInstruction t h w) := by
  show 65 < 281 ∧ Kind.instruction = kindAt 65; decide
theorem prefill (t : Nt) (h : Handle) (w : W64) :
    Statement (.prefill t h w) := by
  show 66 < 281 ∧ Kind.instruction = kindAt 66; decide
theorem step (t : Nt) (h : Handle) (w : W64) :
    Statement (.step t h w) := by
  show 67 < 281 ∧ Kind.instruction = kindAt 67; decide
theorem emit (t : Nt) (h : Handle) (w : W64) :
    Statement (.emit t h w) := by
  show 68 < 281 ∧ Kind.instruction = kindAt 68; decide
theorem hold (t : Nt) (h : Handle) (w : W64) :
    Statement (.hold t h w) := by
  show 69 < 281 ∧ Kind.instruction = kindAt 69; decide
theorem bindInstruction (t : Nt) (h : Handle) (w : W64) :
    Statement (.bindInstruction t h w) := by
  show 70 < 281 ∧ Kind.instruction = kindAt 70; decide
theorem qsearchInstruction (t : Nt) (h : Handle) (w : W64) :
    Statement (.qsearchInstruction t h w) := by
  show 71 < 281 ∧ Kind.instruction = kindAt 71; decide
theorem qinsertInstruction (t : Nt) (h : Handle) (w : W64) :
    Statement (.qinsertInstruction t h w) := by
  show 72 < 281 ∧ Kind.instruction = kindAt 72; decide
theorem qdeleteInstruction (t : Nt) (h : Handle) (w : W64) :
    Statement (.qdeleteInstruction t h w) := by
  show 73 < 281 ∧ Kind.instruction = kindAt 73; decide
theorem mov (t : Nt) (h : Handle) (w : W64) :
    Statement (.mov t h w) := by
  show 74 < 281 ∧ Kind.instruction = kindAt 74; decide
theorem ldi (t : Nt) (h : Handle) (w : W64) :
    Statement (.ldi t h w) := by
  show 75 < 281 ∧ Kind.instruction = kindAt 75; decide
theorem lui (t : Nt) (h : Handle) (w : W64) :
    Statement (.lui t h w) := by
  show 76 < 281 ∧ Kind.instruction = kindAt 76; decide
theorem add (t : Nt) (h : Handle) (w : W64) :
    Statement (.add t h w) := by
  show 77 < 281 ∧ Kind.instruction = kindAt 77; decide
theorem sub (t : Nt) (h : Handle) (w : W64) :
    Statement (.sub t h w) := by
  show 78 < 281 ∧ Kind.instruction = kindAt 78; decide
theorem andI (t : Nt) (h : Handle) (w : W64) :
    Statement (.andI t h w) := by
  show 79 < 281 ∧ Kind.instruction = kindAt 79; decide
theorem orI (t : Nt) (h : Handle) (w : W64) :
    Statement (.orI t h w) := by
  show 80 < 281 ∧ Kind.instruction = kindAt 80; decide
theorem xorI (t : Nt) (h : Handle) (w : W64) :
    Statement (.xorI t h w) := by
  show 81 < 281 ∧ Kind.instruction = kindAt 81; decide
theorem shl (t : Nt) (h : Handle) (w : W64) :
    Statement (.shl t h w) := by
  show 82 < 281 ∧ Kind.instruction = kindAt 82; decide
theorem shr (t : Nt) (h : Handle) (w : W64) :
    Statement (.shr t h w) := by
  show 83 < 281 ∧ Kind.instruction = kindAt 83; decide
theorem sar (t : Nt) (h : Handle) (w : W64) :
    Statement (.sar t h w) := by
  show 84 < 281 ∧ Kind.instruction = kindAt 84; decide
theorem cmp (t : Nt) (h : Handle) (w : W64) :
    Statement (.cmp t h w) := by
  show 85 < 281 ∧ Kind.instruction = kindAt 85; decide
theorem ntread (t : Nt) (h : Handle) (w : W64) :
    Statement (.ntread t h w) := by
  show 86 < 281 ∧ Kind.instruction = kindAt 86; decide
theorem post (t : Nt) (h : Handle) (w : W64) :
    Statement (.post t h w) := by
  show 87 < 281 ∧ Kind.instruction = kindAt 87; decide
theorem sequencerActivation (t : Nt) (h : Handle) (parity : Bool) :
    Statement (.sequencerActivation t h parity) := by
  show 88 < 281 ∧ Kind.event = kindAt 88; decide
theorem mma (t : Nt) (l : BitVec 11) (w : W64) (bad : Bool) :
    Statement (.mma t l w bad) := by
  show 89 < 281 ∧ Kind.slot = kindAt 89; decide
theorem mmai (t : Nt) (l : BitVec 11) (w : W64) (bad : Bool) :
    Statement (.mmai t l w bad) := by
  show 90 < 281 ∧ Kind.slot = kindAt 90; decide
theorem mqk (t : Nt) (l : BitVec 11) (w : W64) (bad : Bool) :
    Statement (.mqk t l w bad) := by
  show 91 < 281 ∧ Kind.slot = kindAt 91; decide
theorem mpv (t : Nt) (l : BitVec 11) (w : W64) (bad : Bool) :
    Statement (.mpv t l w bad) := by
  show 92 < 281 ∧ Kind.slot = kindAt 92; decide
theorem mcfg (t : Nt) (l : BitVec 11) (w : W64) :
    Statement (.mcfg t l w) := by
  show 93 < 281 ∧ Kind.slot = kindAt 93; decide
theorem vadd (t : Nt) (l : BitVec 11) (w : W64) (bad : Bool) :
    Statement (.vadd t l w bad) := by
  show 94 < 281 ∧ Kind.slot = kindAt 94; decide
theorem vsub (t : Nt) (l : BitVec 11) (w : W64) (bad : Bool) :
    Statement (.vsub t l w bad) := by
  show 95 < 281 ∧ Kind.slot = kindAt 95; decide
theorem vmul (t : Nt) (l : BitVec 11) (w : W64) (bad : Bool) :
    Statement (.vmul t l w bad) := by
  show 96 < 281 ∧ Kind.slot = kindAt 96; decide
theorem vfma (t : Nt) (l : BitVec 11) (w : W64) (bad : Bool) :
    Statement (.vfma t l w bad) := by
  show 97 < 281 ∧ Kind.slot = kindAt 97; decide
theorem vdiv (t : Nt) (l : BitVec 11) (w : W64) (bad : Bool) :
    Statement (.vdiv t l w bad) := by
  show 98 < 281 ∧ Kind.slot = kindAt 98; decide
theorem vsqrt (t : Nt) (l : BitVec 11) (w : W64) (bad : Bool) :
    Statement (.vsqrt t l w bad) := by
  show 99 < 281 ∧ Kind.slot = kindAt 99; decide
theorem vmin (t : Nt) (l : BitVec 11) (w : W64) (bad : Bool) :
    Statement (.vmin t l w bad) := by
  show 100 < 281 ∧ Kind.slot = kindAt 100; decide
theorem vmax (t : Nt) (l : BitVec 11) (w : W64) (bad : Bool) :
    Statement (.vmax t l w bad) := by
  show 101 < 281 ∧ Kind.slot = kindAt 101; decide
theorem vfn (t : Nt) (l : BitVec 11) (w : W64) (bad : Bool) :
    Statement (.vfn t l w bad) := by
  show 102 < 281 ∧ Kind.slot = kindAt 102; decide
theorem vscl (t : Nt) (l : BitVec 11) (w : W64) (bad : Bool) :
    Statement (.vscl t l w bad) := by
  show 103 < 281 ∧ Kind.slot = kindAt 103; decide
theorem vcvt (t : Nt) (l : BitVec 11) (w : W64) (bad : Bool) :
    Statement (.vcvt t l w bad) := by
  show 104 < 281 ∧ Kind.slot = kindAt 104; decide
theorem vqmx (t : Nt) (l : BitVec 11) (w : W64) (bad : Bool) :
    Statement (.vqmx t l w bad) := by
  show 105 < 281 ∧ Kind.slot = kindAt 105; decide
theorem vred (t : Nt) (l : BitVec 11) (w : W64) (bad : Bool) :
    Statement (.vred t l w bad) := by
  show 106 < 281 ∧ Kind.slot = kindAt 106; decide
theorem vtree (t : Nt) (l : BitVec 11) (w : W64) (bad : Bool) :
    Statement (.vtree t l w bad) := by
  show 107 < 281 ∧ Kind.slot = kindAt 107; decide
theorem vatt (t : Nt) (l : BitVec 11) (w : W64) (bad : Bool) :
    Statement (.vatt t l w bad) := by
  show 108 < 281 ∧ Kind.slot = kindAt 108; decide
theorem vcomb (t : Nt) (l : BitVec 11) (w : W64) (bad : Bool) :
    Statement (.vcomb t l w bad) := by
  show 109 < 281 ∧ Kind.slot = kindAt 109; decide
theorem xcopy (t : Nt) (l : BitVec 11) (w : W64) :
    Statement (.xcopy t l w) := by
  show 110 < 281 ∧ Kind.slot = kindAt 110; decide
theorem xwait (t : Nt) (l : BitVec 11) (w : W64) :
    Statement (.xwait t l w) := by
  show 111 < 281 ∧ Kind.slot = kindAt 111; decide
theorem xkvw (t : Nt) (l : BitVec 11) (w : W64) :
    Statement (.xkvw t l w) := by
  show 112 < 281 ∧ Kind.slot = kindAt 112; decide
theorem xhub (t : Nt) (l : BitVec 11) (w : W64) :
    Statement (.xhub t l w) := by
  show 113 < 281 ∧ Kind.slot = kindAt 113; decide
theorem lsend (t : Nt) (l : BitVec 11) (w : W64) :
    Statement (.lsend t l w) := by
  show 114 < 281 ∧ Kind.slot = kindAt 114; decide
theorem lrecv (t : Nt) (l : BitVec 11) (w : W64) :
    Statement (.lrecv t l w) := by
  show 115 < 281 ∧ Kind.slot = kindAt 115; decide
theorem lput (t : Nt) (l : BitVec 11) (w : W64) :
    Statement (.lput t l w) := by
  show 116 < 281 ∧ Kind.slot = kindAt 116; decide
theorem lwait (t : Nt) (l : BitVec 11) (w : W64) :
    Statement (.lwait t l w) := by
  show 117 < 281 ∧ Kind.slot = kindAt 117; decide
theorem grain (t : Nt) (l : BitVec 11) (w : W64) :
    Statement (.grain t l w) := by
  show 118 < 281 ∧ Kind.slot = kindAt 118; decide
theorem gcommit (t : Nt) (l : BitVec 11) (w : W64) :
    Statement (.gcommit t l w) := by
  show 119 < 281 ∧ Kind.slot = kindAt 119; decide
theorem stepend (t : Nt) (l : BitVec 11) (w : W64) :
    Statement (.stepend t l w) := by
  show 120 < 281 ∧ Kind.slot = kindAt 120; decide
theorem stagingTransfer (t : Nt) (die : BitVec 2) (idx : BitVec 32) (layer : BitVec 9) :
    Statement (.stagingTransfer t die idx layer) := by
  show 121 < 281 ∧ Kind.event = kindAt 121; decide
theorem stagingLanded (t : Nt) (die : BitVec 2) (idx : BitVec 32) (stalled : BitVec 16) (lines : List (BitVec 11 × BitVec 14 × BitVec 512)) :
    Statement (.stagingLanded t die idx stalled lines) := by
  show 122 < 281 ∧ Kind.event = kindAt 122; decide
theorem deviceReady (t : Nt) :
    Statement (.deviceReady t) := by
  show 123 < 281 ∧ Kind.event = kindAt 123; decide
theorem gather (t : Nt) (h : Handle) (logits : List (List F32)) (poison : Bool) :
    Statement (.gather t h logits poison) := by
  show 124 < 281 ∧ Kind.event = kindAt 124; decide
theorem hostDraftRead (t : Nt) (h : Handle) (ok : Bool) (data : Bytes) :
    Statement (.hostDraftRead t h ok data) := by
  show 125 < 281 ∧ Kind.event = kindAt 125; decide
theorem boundaryFrame (t : Nt) (fr : BFrame) :
    Statement (.boundaryFrame t fr) := by
  show 126 < 281 ∧ Kind.event = kindAt 126; decide
theorem stepBoundary (t : Nt) :
    Statement (.stepBoundary t) := by
  show 127 < 281 ∧ Kind.event = kindAt 127; decide
theorem waitTimeout (t : Nt) (h : Handle) :
    Statement (.waitTimeout t h) := by
  show 128 < 281 ∧ Kind.event = kindAt 128; decide
theorem holdTimeout (t : Nt) (h : Handle) :
    Statement (.holdTimeout t h) := by
  show 129 < 281 ∧ Kind.event = kindAt 129; decide
theorem ttlExpire (t : Nt) (h : Handle) :
    Statement (.ttlExpire t h) := by
  show 130 < 281 ∧ Kind.event = kindAt 130; decide
theorem hopperIntake (t : Nt) (rd : IntakeRead) :
    Statement (.hopperIntake t rd) := by
  show 131 < 281 ∧ Kind.event = kindAt 131; decide
theorem writeDurable (t : Nt) (id : Nat) :
    Statement (.writeDurable t id) := by
  show 132 < 281 ∧ Kind.event = kindAt 132; decide
theorem extentRead (t : Nt) (h : Handle) (ok : Bool) :
    Statement (.extentRead t h ok) := by
  show 133 < 281 ∧ Kind.event = kindAt 133; decide
theorem backlogDrain (t : Nt) (p : BitVec 4) (consumed : Option (BitVec 32)) :
    Statement (.backlogDrain t p consumed) := by
  show 134 < 281 ∧ Kind.event = kindAt 134; decide
theorem completionBacklogDrain (t : Nt) (p : BitVec 4) (consumed : Option (BitVec 32)) :
    Statement (.completionBacklogDrain t p consumed) := by
  show 135 < 281 ∧ Kind.event = kindAt 135; decide
theorem consumedWordRetry (t : Nt) (stream : Bool) (p : BitVec 4) (consumed : Option (BitVec 32)) :
    Statement (.consumedWordRetry t stream p consumed) := by
  show 136 < 281 ∧ Kind.event = kindAt 136; decide
theorem writeRetry (t : Nt) (id : Nat) (ok : Bool) :
    Statement (.writeRetry t id ok) := by
  show 137 < 281 ∧ Kind.event = kindAt 137; decide
theorem quantizedCompletion (t : Nt) :
    Statement (.quantizedCompletion t) := by
  show 138 < 281 ∧ Kind.event = kindAt 138; decide
theorem interruptHoldoff (t : Nt) (v : BitVec 6) :
    Statement (.interruptHoldoff t v) := by
  show 139 < 281 ∧ Kind.event = kindAt 139; decide
theorem offer (t : Nt) (src : BitVec 6) (m : OfferMsg) :
    Statement (.offer t src m) := by
  show 140 < 281 ∧ Kind.event = kindAt 140; decide
theorem accept (t : Nt) (src : BitVec 6) (sk : BitVec 128) :
    Statement (.accept t src sk) := by
  show 141 < 281 ∧ Kind.event = kindAt 141; decide
theorem refuse (t : Nt) (src : BitVec 6) (sk : BitVec 128) (reason : BitVec 8) :
    Statement (.refuse t src sk reason) := by
  show 142 < 281 ∧ Kind.event = kindAt 142; decide
theorem part (t : Nt) (src : BitVec 6) (sk : BitVec 128) (body : PartBody) (crcOk : Bool) :
    Statement (.part t src sk body crcOk) := by
  show 143 < 281 ∧ Kind.event = kindAt 143; decide
theorem ack (t : Nt) (src : BitVec 6) (sk : BitVec 128) (epoch : BitVec 16) (nsi : W64) :
    Statement (.ack t src sk epoch nsi) := by
  show 144 < 281 ∧ Kind.event = kindAt 144; decide
theorem probe (t : Nt) (src : BitVec 6) (sk : BitVec 128) (epoch : BitVec 16) :
    Statement (.probe t src sk epoch) := by
  show 145 < 281 ∧ Kind.event = kindAt 145; decide
theorem probeReply (t : Nt) (src : BitVec 6) (sk : BitVec 128) (held : Option (BitVec 16)) :
    Statement (.probeReply t src sk held) := by
  show 146 < 281 ∧ Kind.event = kindAt 146; decide
theorem release (t : Nt) (src : BitVec 6) (sk : BitVec 128) (epoch : BitVec 16) :
    Statement (.release t src sk epoch) := by
  show 147 < 281 ∧ Kind.event = kindAt 147; decide
theorem event (t : Nt) (src : BitVec 6) (nsi : W64) (bit : BitVec 4) :
    Statement (.event t src nsi bit) := by
  show 148 < 281 ∧ Kind.event = kindAt 148; decide
theorem mirror (t : Nt) (src : BitVec 6) (m : MirrorMsg) :
    Statement (.mirror t src m) := by
  show 149 < 281 ∧ Kind.event = kindAt 149; decide
theorem adapter (t : Nt) (src : BitVec 6) (m : AdapterMsg) :
    Statement (.adapter t src m) := by
  show 150 < 281 ∧ Kind.event = kindAt 150; decide
theorem drainPage (t : Nt) (src : BitVec 6) (epoch : BitVec 32) (page : Nat) (data : Bytes) (last : Bool) :
    Statement (.drainPage t src epoch page data last) := by
  show 151 < 281 ∧ Kind.event = kindAt 151; decide
theorem drainDone (t : Nt) (pos : BitVec 6) (epoch : BitVec 32) :
    Statement (.drainDone t pos epoch) := by
  show 152 < 281 ∧ Kind.event = kindAt 152; decide
theorem drainSettled (t : Nt) (src : BitVec 6) (sk : BitVec 128) :
    Statement (.drainSettled t src sk) := by
  show 153 < 281 ∧ Kind.event = kindAt 153; decide
theorem drainRestored (t : Nt) (src : BitVec 6) (cutNt : Nt) :
    Statement (.drainRestored t src cutNt) := by
  show 154 < 281 ∧ Kind.event = kindAt 154; decide
theorem buddy (t : Nt) (src : BitVec 6) (epoch : BitVec 32) (key : Nat) (data : Bytes) :
    Statement (.buddy t src epoch key data) := by
  show 155 < 281 ∧ Kind.event = kindAt 155; decide
theorem ackTimeout (t : Nt) (h : Handle) :
    Statement (.ackTimeout t h) := by
  show 156 < 281 ∧ Kind.event = kindAt 156; decide
theorem offerTimeout (t : Nt) (h : Handle) :
    Statement (.offerTimeout t h) := by
  show 157 < 281 ∧ Kind.event = kindAt 157; decide
theorem stagingTimeout (t : Nt) (sk : BitVec 128) :
    Statement (.stagingTimeout t sk) := by
  show 158 < 281 ∧ Kind.event = kindAt 158; decide
theorem probeInterval (t : Nt) (sk : BitVec 128) :
    Statement (.probeInterval t sk) := by
  show 159 < 281 ∧ Kind.event = kindAt 159; decide
theorem adapterCommit (t : Nt) (slot : BitVec 10) :
    Statement (.adapterCommit t slot) := by
  show 160 < 281 ∧ Kind.event = kindAt 160; decide
theorem bindingReport (t : Nt) (slot : BitVec 10) (ver : BitVec 16) :
    Statement (.bindingReport t slot ver) := by
  show 161 < 281 ∧ Kind.event = kindAt 161; decide
theorem adapterFree (t : Nt) (slot : BitVec 10) (ver : BitVec 16) (others : Bool) :
    Statement (.adapterFree t slot ver others) := by
  show 162 < 281 ∧ Kind.event = kindAt 162; decide
theorem effectiveNt (t : Nt) :
    Statement (.effectiveNt t) := by
  show 163 < 281 ∧ Kind.event = kindAt 163; decide
theorem recomposeTimeout (t : Nt) :
    Statement (.recomposeTimeout t) := by
  show 164 < 281 ∧ Kind.event = kindAt 164; decide
theorem planActivation (t : Nt) (slot : BitVec 3) :
    Statement (.planActivation t slot) := by
  show 165 < 281 ∧ Kind.event = kindAt 165; decide
theorem ownSlotWrite (t : Nt) :
    Statement (.ownSlotWrite t) := by
  show 166 < 281 ∧ Kind.event = kindAt 166; decide
theorem autoRestore (t : Nt) (info : RestoreInfo) :
    Statement (.autoRestore t info) := by
  show 167 < 281 ∧ Kind.event = kindAt 167; decide
theorem nandProgram (t : Nt) :
    Statement (.nandProgram t) := by
  show 168 < 281 ∧ Kind.event = kindAt 168; decide
theorem programFailure (t : Nt) (die : BitVec 8) (block : BitVec 14) :
    Statement (.programFailure t die block) := by
  show 169 < 281 ∧ Kind.event = kindAt 169; decide
theorem blockVerify (t : Nt) (die : BitVec 8) (block : BitVec 14) (pct : BitVec 7) :
    Statement (.blockVerify t die block pct) := by
  show 170 < 281 ∧ Kind.event = kindAt 170; decide
theorem gcIdle (t : Nt) :
    Statement (.gcIdle t) := by
  show 171 < 281 ∧ Kind.event = kindAt 171; decide
theorem gcRelocate (t : Nt) (die : BitVec 8) :
    Statement (.gcRelocate t die) := by
  show 172 < 281 ∧ Kind.event = kindAt 172; decide
theorem victimErase (t : Nt) (die : BitVec 8) (block : BitVec 14) (ok : Bool) :
    Statement (.victimErase t die block ok) := by
  show 173 < 281 ∧ Kind.event = kindAt 173; decide
theorem staticWearLevel (t : Nt) (die : BitVec 8) :
    Statement (.staticWearLevel t die) := by
  show 174 < 281 ∧ Kind.event = kindAt 174; decide
theorem granaryRead (t : Nt) (unit : BitVec 32) (res : ReadTry) :
    Statement (.granaryRead t unit res) := by
  show 175 < 281 ∧ Kind.event = kindAt 175; decide
theorem mapPageFetch (t : Nt) (page : BitVec 16) (res : MapFetch) :
    Statement (.mapPageFetch t page res) := by
  show 176 < 281 ∧ Kind.event = kindAt 176; decide
theorem mapPageRebuild (t : Nt) (page : BitVec 16) :
    Statement (.mapPageRebuild t page) := by
  show 177 < 281 ∧ Kind.event = kindAt 177; decide
theorem mapCheckpoint (t : Nt) :
    Statement (.mapCheckpoint t) := by
  show 178 < 281 ∧ Kind.event = kindAt 178; decide
theorem grnflush (t : Nt) (v : BitVec 32) :
    Statement (.grnflush t v) := by
  show 179 < 281 ∧ Kind.event = kindAt 179; decide
theorem quernSearchStart (t : Nt) :
    Statement (.quernSearchStart t) := by
  show 180 < 281 ∧ Kind.event = kindAt 180; decide
theorem quernResult (t : Nt) (unreadable : List (BitVec 32)) :
    Statement (.quernResult t unreadable) := by
  show 181 < 281 ∧ Kind.event = kindAt 181; decide
theorem quernIndexFree (t : Nt) (idx : BitVec 6) :
    Statement (.quernIndexFree t idx) := by
  show 182 < 281 ∧ Kind.event = kindAt 182; decide
theorem mergeCommit (t : Nt) (idx : BitVec 6) :
    Statement (.mergeCommit t idx) := by
  show 183 < 281 ∧ Kind.event = kindAt 183; decide
theorem bankSwap (t : Nt) (bank : BitVec 4) :
    Statement (.bankSwap t bank) := by
  show 184 < 281 ∧ Kind.event = kindAt 184; decide
theorem aixScrub (t : Nt) (bad : List (BitVec 4 × BitVec 14 × Bool)) :
    Statement (.aixScrub t bad) := by
  show 185 < 281 ∧ Kind.event = kindAt 185; decide
theorem pwScrub (t : Nt) (pass : BitVec 2) :
    Statement (.pwScrub t pass) := by
  show 186 < 281 ∧ Kind.event = kindAt 186; decide
theorem rowRepair (t : Nt) (stack : BitVec 3) (chan : BitVec 6) (row : BitVec 16) :
    Statement (.rowRepair t stack chan row) := by
  show 187 < 281 ∧ Kind.event = kindAt 187; decide
theorem hbmChannelFail (t : Nt) (stack : BitVec 3) (chan : BitVec 6) (phy : Bool) :
    Statement (.hbmChannelFail t stack chan phy) := by
  show 188 < 281 ∧ Kind.event = kindAt 188; decide
theorem hbmChannelCopy (t : Nt) (stack : BitVec 3) (chan : BitVec 6) :
    Statement (.hbmChannelCopy t stack chan) := by
  show 189 < 281 ∧ Kind.event = kindAt 189; decide
theorem sweepRewrite (t : Nt) (h : Handle) (unit : BitVec 32) :
    Statement (.sweepRewrite t h unit) := by
  show 190 < 281 ∧ Kind.event = kindAt 190; decide
theorem keyRetire (t : Nt) (h : Handle) :
    Statement (.keyRetire t h) := by
  show 191 < 281 ∧ Kind.event = kindAt 191; decide
theorem trngHealthTest (t : Nt) (pass : Bool) :
    Statement (.trngHealthTest t pass) := by
  show 192 < 281 ∧ Kind.event = kindAt 192; decide
theorem refillInstant (t : Nt) :
    Statement (.refillInstant t) := by
  show 193 < 281 ∧ Kind.event = kindAt 193; decide
theorem drrSend (t : Nt) (path : SlPath) :
    Statement (.drrSend t path) := by
  show 194 < 281 ∧ Kind.event = kindAt 194; decide
theorem sampleInstant (t : Nt) :
    Statement (.sampleInstant t) := by
  show 195 < 281 ∧ Kind.event = kindAt 195; decide
theorem staticFrame (t : Nt) (port : BitVec 4) (fr : Frame) :
    Statement (.staticFrame t port fr) := by
  show 196 < 281 ∧ Kind.event = kindAt 196; decide
theorem nak (t : Nt) (port : BitVec 4) (lseq : BitVec 32) :
    Statement (.nak t port lseq) := by
  show 197 < 281 ∧ Kind.event = kindAt 197; decide
theorem acknowledgment (t : Nt) (port : BitVec 4) (lseq : BitVec 32) :
    Statement (.acknowledgment t port lseq) := by
  show 198 < 281 ∧ Kind.event = kindAt 198; decide
theorem credit (t : Nt) (port : BitVec 4) (q : BitVec 4) (n : BitVec 8) :
    Statement (.credit t port q n) := by
  show 199 < 281 ∧ Kind.event = kindAt 199; decide
theorem laneSwap (t : Nt) (port : BitVec 4) :
    Statement (.laneSwap t port) := by
  show 200 < 281 ∧ Kind.event = kindAt 200; decide
theorem laneLockLoss (t : Nt) (port : BitVec 4) (lane : BitVec 4) :
    Statement (.laneLockLoss t port lane) := by
  show 201 < 281 ∧ Kind.event = kindAt 201; decide
theorem symbolWindow (t : Nt) (port : BitVec 4) (lane : BitVec 4) (symbols : BitVec 32) :
    Statement (.symbolWindow t port lane symbols) := by
  show 202 < 281 ∧ Kind.event = kindAt 202; decide
theorem portSilence (t : Nt) (port : BitVec 4) :
    Statement (.portSilence t port) := by
  show 203 < 281 ∧ Kind.event = kindAt 203; decide
theorem groupFaultFrame (t : Nt) (src : BitVec 6) (cause : BitVec 8) :
    Statement (.groupFaultFrame t src cause) := by
  show 204 < 281 ∧ Kind.event = kindAt 204; decide
theorem hello (t : Nt) (port : BitVec 4) (arg : BitVec 24) :
    Statement (.hello t port arg) := by
  show 205 < 281 ∧ Kind.event = kindAt 205; decide
theorem helloSend (t : Nt) (port : BitVec 4) :
    Statement (.helloSend t port) := by
  show 206 < 281 ∧ Kind.event = kindAt 206; decide
theorem topologyRecord (t : Nt) (r : TopoRec) :
    Statement (.topologyRecord t r) := by
  show 207 < 281 ∧ Kind.event = kindAt 207; decide
theorem topologyResend (t : Nt) :
    Statement (.topologyResend t) := by
  show 208 < 281 ∧ Kind.event = kindAt 208; decide
theorem mapDigest (t : Nt) (crc : W64) :
    Statement (.mapDigest t crc) := by
  show 209 < 281 ∧ Kind.event = kindAt 209; decide
theorem coarseFrame (t : Nt) (edge : Nt) (master : BitVec 8) (flags : BitVec 8) (crcOk : Bool) :
    Statement (.coarseFrame t edge master flags crcOk) := by
  show 210 < 281 ∧ Kind.event = kindAt 210; decide
theorem coarseEdge (t : Nt) :
    Statement (.coarseEdge t) := by
  show 211 < 281 ∧ Kind.event = kindAt 211; decide
theorem fineExchange (t : Nt) (offset : BitVec 16) :
    Statement (.fineExchange t offset) := by
  show 212 < 281 ∧ Kind.event = kindAt 212; decide
theorem holdover (t : Nt) :
    Statement (.holdover t) := by
  show 213 < 281 ∧ Kind.event = kindAt 213; decide
theorem holdoverExpiry (t : Nt) :
    Statement (.holdoverExpiry t) := by
  show 214 < 281 ∧ Kind.event = kindAt 214; decide
theorem masterSilence (t : Nt) (lowest : BitVec 6) :
    Statement (.masterSilence t lowest) := by
  show 215 < 281 ∧ Kind.event = kindAt 215; decide
theorem powerOnReset (t : Nt) (slot : BitVec 7) (testen : Bool) :
    Statement (.powerOnReset t slot testen) := by
  show 216 < 281 ∧ Kind.event = kindAt 216; decide
theorem perstAssert (t : Nt) :
    Statement (.perstAssert t) := by
  show 217 < 281 ∧ Kind.event = kindAt 217; decide
theorem perstDeassert (t : Nt) (slot : BitVec 7) (testen : Bool) :
    Statement (.perstDeassert t slot testen) := by
  show 218 < 281 ∧ Kind.event = kindAt 218; decide
theorem warmReset (t : Nt) (v : BitVec 32) :
    Statement (.warmReset t v) := by
  show 219 < 281 ∧ Kind.event = kindAt 219; decide
theorem cxlPortReset (t : Nt) :
    Statement (.cxlPortReset t) := by
  show 220 < 281 ∧ Kind.event = kindAt 220; decide
theorem clockDomainReset (t : Nt) (cls : BitVec 3) (dom : BitVec 8) (entries : BitVec 16) :
    Statement (.clockDomainReset t cls dom entries) := by
  show 221 < 281 ∧ Kind.event = kindAt 221; decide
theorem clockStop (t : Nt) (cls : BitVec 3) (dom : BitVec 8) :
    Statement (.clockStop t cls dom) := by
  show 222 < 281 ∧ Kind.event = kindAt 222; decide
theorem clockWake (t : Nt) (cls : BitVec 3) (dom : BitVec 8) (ns : BitVec 16) :
    Statement (.clockWake t cls dom ns) := by
  show 223 < 281 ∧ Kind.event = kindAt 223; decide
theorem rateWindow (t : Nt) (die : BitVec 3) (msps : BitVec 12) :
    Statement (.rateWindow t die msps) := by
  show 224 < 281 ∧ Kind.event = kindAt 224; decide
theorem inputInRegulation (t : Nt) (i : BitVec 2) :
    Statement (.inputInRegulation t i) := by
  show 225 < 281 ∧ Kind.event = kindAt 225; decide
theorem powerLoss (t : Nt) (cause : BitVec 3) :
    Statement (.powerLoss t cause) := by
  show 226 < 281 ∧ Kind.event = kindAt 226; decide
theorem fuseOpen (t : Nt) (i : BitVec 2) :
    Statement (.fuseOpen t i) := by
  show 227 < 281 ∧ Kind.event = kindAt 227; decide
theorem powerRestart (t : Nt) :
    Statement (.powerRestart t) := by
  show 228 < 281 ∧ Kind.event = kindAt 228; decide
theorem pwrbrkAssert (t : Nt) :
    Statement (.pwrbrkAssert t) := by
  show 229 < 281 ∧ Kind.event = kindAt 229; decide
theorem pwrbrkDeassert (t : Nt) :
    Statement (.pwrbrkDeassert t) := by
  show 230 < 281 ∧ Kind.event = kindAt 230; decide
theorem tjWarn (t : Nt) (sensor : BitVec 4) (degc : BitVec 8) :
    Statement (.tjWarn t sensor degc) := by
  show 231 < 281 ∧ Kind.event = kindAt 231; decide
theorem tjWarnClear (t : Nt) (degc : List (BitVec 8)) :
    Statement (.tjWarnClear t degc) := by
  show 232 < 281 ∧ Kind.event = kindAt 232; decide
theorem thermalTrip (t : Nt) (sensor : BitVec 4) (degc : BitVec 8) :
    Statement (.thermalTrip t sensor degc) := by
  show 233 < 281 ∧ Kind.event = kindAt 233; decide
theorem tripRecovery (t : Nt) (degc : List (BitVec 8)) :
    Statement (.tripRecovery t degc) := by
  show 234 < 281 ∧ Kind.event = kindAt 234; decide
theorem tokenRefill (t : Nt) :
    Statement (.tokenRefill t) := by
  show 235 < 281 ∧ Kind.event = kindAt 235; decide
theorem wakeGrant (t : Nt) :
    Statement (.wakeGrant t) := by
  show 236 < 281 ∧ Kind.event = kindAt 236; decide
theorem powerWindow (t : Nt) (ins : List (BitVec 16 × BitVec 16 × BitVec 16)) :
    Statement (.powerWindow t ins) := by
  show 237 < 281 ∧ Kind.event = kindAt 237; decide
theorem vcoreStep (t : Nt) :
    Statement (.vcoreStep t) := by
  show 238 < 281 ∧ Kind.event = kindAt 238; decide
theorem smbusRead (t : Nt) (off : BitVec 16) :
    Statement (.smbusRead t off) := by
  show 239 < 281 ∧ Kind.event = kindAt 239; decide
theorem smbusWrite (t : Nt) (off : BitVec 16) (v : BitVec 32) (pecOk : Bool) :
    Statement (.smbusWrite t off v pecOk) := by
  show 240 < 281 ∧ Kind.event = kindAt 240; decide
theorem bbConsole (t : Nt) (die : BitVec 3) :
    Statement (.bbConsole t die) := by
  show 241 < 281 ∧ Kind.event = kindAt 241; decide
theorem bbCopy (t : Nt) :
    Statement (.bbCopy t) := by
  show 242 < 281 ∧ Kind.event = kindAt 242; decide
theorem counterLatch (t : Nt) :
    Statement (.counterLatch t) := by
  show 243 < 281 ∧ Kind.event = kindAt 243; decide
theorem powerStage (t : Nt) :
    Statement (.powerStage t) := by
  show 244 < 281 ∧ Kind.event = kindAt 244; decide
theorem boot (t : Nt) (imgs : List FwImage) :
    Statement (.boot t imgs) := by
  show 245 < 281 ∧ Kind.event = kindAt 245; decide
theorem selftest (t : Nt) (fail : Option (BitVec 64)) (stoneFail : List (BitVec 2 × BitVec 10)) :
    Statement (.selftest t fail stoneFail) := by
  show 246 < 281 ∧ Kind.event = kindAt 246; decide
theorem linkWindow (t : Nt) (states : List (BitVec 3)) :
    Statement (.linkWindow t states) := by
  show 247 < 281 ∧ Kind.event = kindAt 247; decide
theorem topologyComplete (t : Nt) :
    Statement (.topologyComplete t) := by
  show 248 < 281 ∧ Kind.event = kindAt 248; decide
theorem topologyTimeout (t : Nt) :
    Statement (.topologyTimeout t) := by
  show 249 < 281 ∧ Kind.event = kindAt 249; decide
theorem elect (t : Nt) :
    Statement (.elect t) := by
  show 250 < 281 ∧ Kind.event = kindAt 250; decide
theorem sync (t : Nt) :
    Statement (.sync t) := by
  show 251 < 281 ∧ Kind.event = kindAt 251; decide
theorem syncTimeout (t : Nt) :
    Statement (.syncTimeout t) := by
  show 252 < 281 ∧ Kind.event = kindAt 252; decide
theorem grnGo (t : Nt) (v : BitVec 32) :
    Statement (.grnGo t v) := by
  show 253 < 281 ∧ Kind.event = kindAt 253; decide
theorem granaryStartTimeout (t : Nt) :
    Statement (.granaryStartTimeout t) := by
  show 254 < 281 ∧ Kind.event = kindAt 254; decide
theorem granaryReady (t : Nt) (ms : BitVec 32) :
    Statement (.granaryReady t ms) := by
  show 255 < 281 ∧ Kind.event = kindAt 255; decide
theorem planStage (t : Nt) (agree : Bool) (weightsOk : Bool) :
    Statement (.planStage t agree weightsOk) := by
  show 256 < 281 ∧ Kind.event = kindAt 256; decide
theorem restoreStage (t : Nt) (common : Option (BitVec 32)) :
    Statement (.restoreStage t common) := by
  show 257 < 281 ∧ Kind.event = kindAt 257; decide
theorem ready (t : Nt) :
    Statement (.ready t) := by
  show 258 < 281 ∧ Kind.event = kindAt 258; decide
theorem sessionsGo (t : Nt) (v : BitVec 32) :
    Statement (.sessionsGo t v) := by
  show 259 < 281 ∧ Kind.event = kindAt 259; decide
theorem hctlLock (t : Nt) (v : BitVec 32) :
    Statement (.hctlLock t v) := by
  show 260 < 281 ∧ Kind.event = kindAt 260; decide
theorem pwrctlLock (t : Nt) (v : BitVec 32) :
    Statement (.pwrctlLock t v) := by
  show 261 < 281 ∧ Kind.event = kindAt 261; decide
theorem nfctlLock (t : Nt) (v : BitVec 32) :
    Statement (.nfctlLock t v) := by
  show 262 < 281 ∧ Kind.event = kindAt 262; decide
theorem dgctlLock (t : Nt) (v : BitVec 32) :
    Statement (.dgctlLock t v) := by
  show 263 < 281 ∧ Kind.event = kindAt 263; decide
theorem stoneretire (t : Nt) (v : BitVec 32) :
    Statement (.stoneretire t v) := by
  show 264 < 281 ∧ Kind.event = kindAt 264; decide
theorem mollane (t : Nt) (n : BitVec 4) (v : BitVec 32) :
    Statement (.mollane t n v) := by
  show 265 < 281 ∧ Kind.event = kindAt 265; decide
theorem aixbankmap (t : Nt) (v : BitVec 32) :
    Statement (.aixbankmap t v) := by
  show 266 < 281 ∧ Kind.event = kindAt 266; decide
theorem dgsnap (t : Nt) (v : BitVec 32) :
    Statement (.dgsnap t v) := by
  show 267 < 281 ∧ Kind.event = kindAt 267; decide
theorem streamRingEnable (t : Nt) (n : BitVec 4) (v : BitVec 32) :
    Statement (.streamRingEnable t n v) := by
  show 268 < 281 ∧ Kind.event = kindAt 268; decide
theorem completionRingEnable (t : Nt) (n : BitVec 4) (v : BitVec 32) :
    Statement (.completionRingEnable t n v) := by
  show 269 < 281 ∧ Kind.event = kindAt 269; decide
theorem partctlMode (t : Nt) (p : BitVec 4) (v : BitVec 32) :
    Statement (.partctlMode t p v) := by
  show 270 < 281 ∧ Kind.event = kindAt 270; decide
theorem registerWrite (t : Nt) (addr : BitVec 20) (v : W64) (wide : Bool) :
    Statement (.registerWrite t addr v wide) := by
  show 271 < 281 ∧ Kind.event = kindAt 271; decide
theorem unknownOpcodeLine (t : Nt) (w : BitVec 8) (op : BitVec 8) (line : CmdLine) :
    Statement (.unknownOpcodeLine t w op line) := by
  show 272 < 281 ∧ Kind.line = kindAt 272; decide
theorem itomwrComplete (t : Nt) (id : Nat) (ok : Bool) :
    Statement (.itomwrComplete t id ok) := by
  show 273 < 281 ∧ Kind.event = kindAt 273; decide
theorem rdcurrComplete (t : Nt) (id : Nat) (data : Option ReadData) :
    Statement (.rdcurrComplete t id data) := by
  show 274 < 281 ∧ Kind.event = kindAt 274; decide
theorem dynamicFrame (t : Nt) (port : BitVec 4) (fr : Frame) :
    Statement (.dynamicFrame t port fr) := by
  show 275 < 281 ∧ Kind.event = kindAt 275; decide
theorem frameCheckFailure (t : Nt) (port : BitVec 4) (symbols : BitVec 16) :
    Statement (.frameCheckFailure t port symbols) := by
  show 276 < 281 ∧ Kind.event = kindAt 276; decide
theorem ideKm (t : Nt) :
    Statement (.ideKm t) := by
  show 277 < 281 ∧ Kind.event = kindAt 277; decide
theorem cxlLinkUp (t : Nt) :
    Statement (.cxlLinkUp t) := by
  show 278 < 281 ∧ Kind.event = kindAt 278; decide
theorem injectionTimeReached (t : Nt) :
    Statement (.injectionTimeReached t) := by
  show 279 < 281 ∧ Kind.event = kindAt 279; decide
theorem injectionDurationEnd (t : Nt) (point : BitVec 8) :
    Statement (.injectionDurationEnd t point) := by
  show 280 < 281 ∧ Kind.event = kindAt 280; decide

end Sys2Proof.Laws.Shape
end

