-- ==== Sys2Proof/Tests/Slice0.lean ====
section
/-! SUPPORT. Tests of the model: the well-formedness smoke tests, and for each statement with hypotheses a concrete state and operands that
meet them. Declarations here are checked one after the other, which keeps the memory the check takes low. -/

namespace Sys2Proof.Tests

open Sys2Proof.Machine

/-! ### Well-formedness: an ill-formed term for each check -/

/-- A session instruction whose word carries another row's opcode (R247, R248). -/
theorem test_wf_session_opcode :
    ([.nop 0 0 (1#64 <<< 56), .br 0 0 0, .bcc 0 0 0, .cbr 0 0 0, .cbi 0 0 0, .bst 0 0 0, .loopI 0 0 0, .wait 0 0 0,
      .parkInstruction 0 0 0, .reviveInstruction 0 0 0, .migrateInstruction 0 0 0, .fork 0 0 0, .dropInstruction 0 0 0, .getf 0 0 0,
      .setf 0 0 0, .intakeInstruction 0 0 0, .prefill 0 0 0, .step 0 0 0, .emit 0 0 0, .hold 0 0 0, .bindInstruction 0 0 0,
      .qsearchInstruction 0 0 0, .qinsertInstruction 0 0 0, .qdeleteInstruction 0 0 0, .mov 0 0 0, .ldi 0 0 0, .lui 0 0 0,
      .add 0 0 0, .sub 0 0 0, .andI 0 0 0, .orI 0 0 0, .xorI 0 0 0, .shl 0 0 0, .shr 0 0 0, .sar 0 0 0, .cmp 0 0 0, .ntread 0 0 0,
      .post 0 0 0] : List Instr).all (fun c => !c.wellFormed) = true := by decide

/-- A session instruction with a reserved bit set (R248). -/
theorem test_wf_session_reserved : (Instr.nop 0 0 1#64).wellFormed = false := by decide

/-- A slot whose word carries another row's opcode (R261). -/
theorem test_wf_slot_opcode :
    ([.mma 0 0 0 false, .mmai 0 0 0 false, .mqk 0 0 0 false, .mpv 0 0 0 false, .mcfg 0 0 0, .vadd 0 0 0 false, .vsub 0 0 0 false,
      .vmul 0 0 0 false, .vfma 0 0 0 false, .vdiv 0 0 0 false, .vsqrt 0 0 0 false, .vmin 0 0 0 false, .vmax 0 0 0 false,
      .vfn 0 0 0 false, .vscl 0 0 0 false, .vcvt 0 0 0 false, .vqmx 0 0 0 false, .vred 0 0 0 false, .vtree 0 0 0 false,
      .vatt 0 0 0 false, .vcomb 0 0 0 false, .xcopy 0 0 0, .xwait 0 0 0, .xkvw 0 0 0, .xhub 0 0 0, .lsend 0 0 0, .lrecv 0 0 0,
      .lput 0 0 0, .lwait 0 0 0, .grain 0 0 0, .gcommit 0 0 0, .stepend 0 0 0] : List Instr).all (fun c => !c.wellFormed) = true := by
  decide

/-- A line past the end of scratch in a staged transfer. -/
theorem test_wf_staging : (Instr.stagingLanded 0 0 0 0 [(0, 0x3FFF, 0)]).wellFormed = false := by decide

theorem test_wf_gather : (Instr.gather 0 0 (List.replicate 9 []) false).wellFormed = false := by decide

theorem test_wf_draft : (Instr.hostDraftRead 0 0 true []).wellFormed = false := by decide

theorem test_wf_part : (Instr.part 0 0 0 (.record []) false).wellFormed = false := by decide

theorem test_wf_tj : (Instr.tjWarnClear 0 []).wellFormed = false ∧ (Instr.tripRecovery 0 []).wellFormed = false := by decide

theorem test_wf_power_window : (Instr.powerWindow 0 []).wellFormed = false := by decide

theorem test_wf_link_window : (Instr.linkWindow 0 []).wellFormed = false := by decide

theorem test_wf_selftest : (Instr.selftest 0 none [(0, 576)]).wellFormed = false := by decide

theorem test_wf_verify : (Instr.blockVerify 0 0 0 101).wellFormed = false := by decide

theorem test_wf_clock : (Instr.clockDomainReset 0 0 255 1).wellFormed = false ∧ (Instr.clockStop 0 0 255).wellFormed = false
    ∧ (Instr.clockWake 0 0 255 1).wellFormed = false := by decide

/-- The first slot of a cluster domain that is on costs 36 W, a second one at once nothing, and one of another domain that is off asks
for none (R461, R463). -/
theorem test_start_takes_token :
    let h : Hub := ({ pw := { tokens := 100 } } : Hub).p F.PWRDOM_on (2 ^ 24)
    (h.busy 63 1).pw.tokens = 64 ∧ ((h.busy 63 1).busy 0 1).pw.tokens = 64 ∧ (h.busy 64 1).pw.tokens = 100 := by decide

/-- An unknown-opcode line cannot carry an opcode of the table (R273). -/
theorem test_wf_unknown (l : CmdLine) : (Instr.unknownOpcodeLine 0 0 0x01 l).wellFormed = false := rfl

theorem test_wf_mirror : (Instr.mirror 0 0 { image := [], toks := [], pend := 0, stack := [], held := [], relOff := 0, rest := 0 }).wellFormed
    = false := by decide

/-- A page of more than 64 KiB, a static and a dynamic frame of more than 512 payload bytes (R232). -/
theorem test_wf_lengths (b : Bytes) (f : Frame) (h : 65536 < b.length) (g : 512 < f.payload.length) :
    (Instr.drainPage 0 0 0 0 b false).wellFormed = false ∧ (Instr.staticFrame 0 0 f).wellFormed = false
      ∧ (Instr.dynamicFrame 0 0 f).wellFormed = false := by
  refine ⟨decide_eq_false (by omega), decide_eq_false (by omega), decide_eq_false (by omega)⟩

set_option Elab.async false

/-! ### States that meet the statements' hypotheses -/

/-- A hub in service: formed, ready, Profile O, window 0 enabled for tenant 5 and partition 0, rings enabled. -/
def wHub : Hub :=
  { nt := 1000
    regs := [(0x10, 0x140), (0x20, 7), (0x1000, 0x100000501), (0x2008, 0x10A), (0x18108, 0x10A), (0x20004, 0), (0x20008, 0), (0x30100, 1),
             (0x40004, 4), (0x40008, 1), (0x48000, 3), (0x48004, 0xA0), (0x48008, 0xFFF), (0x4800C, 64)] }

/-- A session of tenant 5 in a state, under the key 9, with handle 0 in its generation 1. -/
def wSess (st : BitVec 4) : Sess := { r := { sk := 9, nsi := nsiOf 0 0 1 5, state := st }, runnable := true }

/-- The hub in service with such a session, which runs a program of 16 words. -/
def wWith (x : Sess) : Hub := { wHub with sess := [(0, x)], gens := [(0, 1)], im := { progs := [(0, List.replicate 16 0)] } }

def wState (h : Hub) : State := { hub := h }

/-- The state of a session in `st` alone. -/
def wIn (st : BitVec 4) : State := wState (wWith (wSess st))

/-- Operands by their byte offset; a line with them that names no session, and one that names the session by its NSI. -/
def wOps (v : List (Nat × Nat)) : BitVec 256 := BitVec.ofNat 256 (v.map (fun e => e.2 * 2 ^ (8 * (e.1 - 32)))).sum
def wLine (v : List (Nat × Nat)) : CmdLine := { flags := 0, rsv := 0, tag := 7, nsi := 0, sk := 0, ops := wOps v }
def wNamed (v : List (Nat × Nat)) : CmdLine := { wLine v with nsi := nsiOf 0 0 1 5 }

/-- An instruction word: opcode, dst, src and the rest. -/
def wWord (op dst src rest : Nat) : W64 := BitVec.ofNat 64 (op * 2 ^ 56 + dst * 2 ^ 52 + src * 2 ^ 48 + rest)

/-- A vector slot's word: opcode, dst, src1, src2, count and sub; other slots place their fields themselves. -/
def wSlot (op dst a b c sub : Nat) : W64 := BitVec.ofNat 64 (op * 2 ^ 56 + dst * 2 ^ 42 + a * 2 ^ 28 + b * 2 ^ 14 + c * 2 ^ 6 + sub)

/-- A plan of a decode group of 64 devices with two leats on logical port 3: a reduce leat sends two frames, a move leat receives one. -/
def wPlan : Plan :=
  { magic := 0, format := 0, hdrLen := 0, producer := 0, secver := 0, length := 0, n := 64, role := 1, base := 0, groups := 1, setId := 0, family := 0
    model := 7, arithrev := 0, positions := 64, depth := 2, chunk := 0, pfRate := 0, bq := 1000, allow := 500, bframe := 0, admCap := 0, nodesize := 0
    digest := 0, sigOk := true, sectOk := true, streamOk := true, grainsOk := true, leatsFit := true, leats := [0x203, 0x153], slices := []
    buckets := [], windows := [], chunkGr := 4, grainSt := 1, gFrames := 64, wFrames := 0, sched := [], lanes := 1, buddyOk := false }

def wModel : Model :=
  { digest := 7, secver := 0, nkv := 1, dim := 64, lg := 1, lw := 0, win := 0, int4 := false, headH := 1, maxPos := 4096, sigma := 0, vocab := [] }

/-- The session's device as position 0 of the group of that plan, in slot 0. -/
def wMember (h : Hub) : Hub :=
  { h with regs := smPut h.regs 0x20004 0x400001, im := { h.im with plans := [(0, [wPlan])], models := [wModel] } }

/-- A step in flight with one admission record. -/
def wStep : StepRun :=
  { step := 3, start := 0, adms := [{ root := 1, bucket := 0, k := 1, part := 0, toks := [5], first := 2 }]
    runs := [{ h := 0, root := 1, k := 1, first := 2, inputs := [5], bucket := 0 }] }
def wStepping : Hub := { wMember (wWith (wSess S.stepping)) with grp := { cur := some wStep } }

/-- A state whose stone 0 holds the formats `f`. -/
def wStone (f : BitVec 8) : State := { wState (wMember wHub) with stn := { st := [(0, { afmt := f, bfmt := if f = 0xA then 3 else f })] } }

/-! ### Witnesses: the block as a whole, bundle slots, staging -/

theorem witness_block :
    State.reset.pending = [] ∧ unaccepted wHub (.nop 5 0 1#64) = true ∧ unaccepted wHub (.cxlLinkUp 5) = false
    ∧ onStones (.cxlLinkUp 5) = false ∧ { pending := [.cxlLinkUp 5], stn := (wStone 9).stn : State }.stn.wf = true := by decide +kernel

theorem witness_block_steps :
    ∃ t, exec (.cxlLinkUp 5) (wState wHub) = .next t ∧ step { wState wHub with pending := [.cxlLinkUp 5] } = .next t := ⟨_, rfl, rfl⟩

theorem witness_VectorElementwise : ∀ op, op < 9 → vectorOk (op + 1) (wSlot (op + 1) 8 16 24 2 0) = true := by decide +kernel

theorem witness_VectorScaleConvertReduce : ∀ op, op < 7 → vectorOk (op + 0xA) (wSlot (op + 0xA) 16 32 64 4 0) = true := by decide +kernel

theorem witness_VectorReduction : ∀ op, op ∈ [0, 1, 3] → vectorOk 0x0D (wSlot 0x0D 16 32 0 4 op) = true ∧ wf (wSlot 0x0D 16 32 0 4 op) 5 0 = op := by
  decide +kernel

theorem witness_MatrixMultiplies :
    matrixOk 0x01 (wSlot 1 8 16 64 0 8) = true ∧ ((wStone 3).stn.get 0).afmt.toNat = 3 ∧ matrixOk 0x0F (BitVec.ofNat 64 (0xF * 2 ^ 56 + 0x303)) = true
    ∧ matrixOk 0x02 (wSlot 2 8 16 64 0 8) = true ∧ ((wStone 9).stn.get 0).afmt = 9 ∧ ((wStone 9).stn.get 0).bfmt = 9 := by decide +kernel

theorem witness_MatrixAttention :
    matrixOk 0x03 (wSlot 3 8 16 64 0 0) = true ∧ matrixOk 0x04 (wSlot 4 8 16 64 0 0) = true ∧ ((wStone 0xA).stn.get 0).afmt = 0xA := by decide +kernel

theorem witness_MoveAndKvSlots :
    moveOk 0x01 (BitVec.ofNat 64 (2 ^ 56 + 8 * 2 ^ 42 + 16 * 2 ^ 28 + 4 * 2 ^ 12)) = true ∧ moveOk 0x02 (BitVec.ofNat 64 (2 * 2 ^ 56 + 3)) = true
    ∧ (∀ d, d < 2 → let w := BitVec.ofNat 64 (4 * 2 ^ 56 + 8 * 2 ^ 42 + 2 * 2 ^ 26 + d * 2 ^ 24); moveOk 0x04 w = true ∧ wf w 25 24 = d)
    ∧ (let w := BitVec.ofNat 64 (3 * 2 ^ 56 + 8 * 2 ^ 42 + 4 * 2 ^ 12)
       moveOk 0x03 w = true ∧ wStepping.inj = [] ∧ wStepping.grp.cur = some wStep ∧ wStepping.model = some wModel ∧ wStepping.stoneShard 0 = some 0
       ∧ (wStep.adms[wf w 41 26]?).isSome = true) := by decide +kernel

theorem witness_LinkSlots :
    linkOk 0x03 (BitVec.ofNat 64 (3 * 2 ^ 56 + 8 * 2 ^ 42 + 5 * 2 ^ 31 + 16 * 2 ^ 17 + 4 * 2)) = true
    ∧ (let w := BitVec.ofNat 64 (2 ^ 56 + 8 * 2 ^ 42)
       linkOk 0x01 w = true ∧ (wMember wHub).inj = [] ∧ ((wMember wHub).leat (wf w 41 26)).isSome = true ∧ (wMember wHub).on F.NFSTAT_test = false ∧ (wMember wHub).on F.MOLCTL_enable = true)
    ∧ (let w := BitVec.ofNat 64 (2 * 2 ^ 56 + 8 * 2 ^ 42 + 2 ^ 26)
       let g : Hub := { wMember wHub with landing := [(1, [([], false)])] }
       linkOk 0x02 w = true ∧ ((g.leat (wf w 41 26)).map (·.frames)).getD 0 = 1 ∧ (g.landed (wf w 41 26)).length = 1
       ∧ ((wMember wHub).landed (wf w 41 26)).length = 0)
    ∧ linkOk 0x04 (BitVec.ofNat 64 (4 * 2 ^ 56)) = true ∧ linkOk 0x05 (BitVec.ofNat 64 (5 * 2 ^ 56 + 2 ^ 48 + 100 * 2 ^ 32 + 9)) = true
    ∧ linkOk 0x06 (BitVec.ofNat 64 (6 * 2 ^ 56 + 9)) = true ∧ linkOk 0x07 (BitVec.ofNat 64 (7 * 2 ^ 56)) = true := by decide +kernel

theorem witness_Staging :
    let h := wMember wHub
    let l : List (BitVec 11 × BitVec 14 × BitVec 512) := [(3, 5, 1), (3, 6, 2)]
    let g : Grp := { issued := [(1, 0), (0, 0), (0, 0), (0, 0)] }
    (wStepping.kvSpoiled = false ∧ (h.layerOf 0 0).isNone = true)
    ∧ (h.plan = some wPlan ∧ (1 : Nat) < h.grp.issued.length ∧ (h.grp.issued.getD 1 (0, 0)).1 = 0 ∧ 2 ≤ (h.grp.issued.getD 1 (0, 0)).2 + wPlan.depth.toNat)
    ∧ (0 < (g.issued.getD 0 (0, 0)).1 ∧ (0, 0) ∉ g.landed)
    ∧ (l.map (fun e => (e.1, e.2.1))).Nodup ∧ ∀ e ∈ l, e.1.toNat / 512 = 0 ∧ e.2.1.toNat < scratchLines := by
  refine ⟨by decide +kernel, ⟨rfl, ?_⟩, by decide +kernel, by decide, by simp [scratchLines]⟩
  decide +kernel

/-! ### Witnesses: session instructions -/

theorem witness_SessionArithmeticAndMoves :
    ∀ op ∈ [0x50, 0x51, 0x52, 0x53, 0x54, 0x55, 0x56, 0x57, 0x58, 0x59, 0x5A, 0x5B, 0x60],
      Runs (wIn S.ready) 1005 0 (wWord op (if op = 0x5B then 1 else 1) (if op = 0x51 ∨ op = 0x52 ∨ op = 0x60 then 0 else 2) 0) op := by
  unfold Runs; decide +kernel

/-- A session whose register 1 holds `v`. -/
def wReg1 (st : BitVec 4) (v : W64) : State :=
  wState (wWith { wSess st with r := { (wSess st).r with a := [0, v, 0, 0, 0, 0, 0, 0] } })

theorem witness_SessionBranches :
    (∀ op ∈ [0, 1, 2, 5], Runs (wIn S.ready) 1005 0 (wWord op 0 0 (if op = 0 then 0 else 7)) op)
    ∧ (∀ op ∈ [3, 4], Runs (wIn S.ready) 1005 0 (wWord op 1 (if op = 3 then 2 else 0) 7) op)
    ∧ (let w := wWord 6 1 0 (3 * 2 ^ 24 + 7)
       Runs (wReg1 S.ready 3) 1005 0 w 0x06 ∧ ((wReg1 S.ready 3).hub.s 0).r.rReg (iw w 55 52) 0 = 3 ∧ 3 ≤ iw w 39 24) := by
  unfold Runs; decide +kernel

theorem witness_SessionFields :
    (∀ k, k < 0x20 → Runs (wIn S.ready) 1005 0 (wWord 0x25 1 0 (k * 2 ^ 40)) 0x25 ∧ iw (wWord 0x25 1 0 (k * 2 ^ 40)) 47 40 = k)
    ∧ (∀ k, k < 8 → let w := wWord 0x26 0 15 (k * 2 ^ 40 + 1)
       Runs (wIn S.ready) 1005 0 w 0x26 ∧ ((wIn S.ready).hub.s 0).r.rReg (iw w 51 48) (BitVec.ofNat 64 (iw w 39 0)) = 1) := by
  unfold Runs; decide +kernel

theorem witness_SessionWaits :
    let w := wWord 0x10 1 0 0x302
    let x := wSess S.ready
    let p : State := wState (wWith { x with r := { x.r with pending := 0x300 } })
    let u : State := wState { wWith x with writes := [(4, { addr := 0, data := [], sess := some 0 })] }
    Runs p 1005 0 w 0x10 ∧ ((p.hub.s 0).r.pending &&& BitVec.ofNat 16 (iw w 15 0)).getLsbD 8 = true
    ∧ (∀ c, c < 8 → ((p.hub.s 0).r.pending &&& BitVec.ofNat 16 (iw w 15 0)).getLsbD c = false)
    ∧ Runs (wIn S.ready) 1005 0 w 0x10 ∧ ((wIn S.ready).hub.s 0).r.pending &&& BitVec.ofNat 16 (iw w 15 0) = 0
    ∧ Runs (wIn S.ready) 1005 0 (wWord 0x34 1 0 0) 0x34 ∧ (wIn S.ready).hub.unseen 0 = false
    ∧ Runs u 1005 0 (wWord 0x34 1 0 0) 0x34 ∧ u.hub.unseen 0 = true := by
  unfold Runs; decide +kernel

/-- The hub with a link up: port 0 leads to device 1. -/
def wLinked (h : Hub) : Hub := (((h.pi F.MOLPSTAT_state 0 2).pi F.MOLPSTAT_peer 0 1).p F.MOLCTL_enable 1).p F.MOLCTL_dyn_en 1

theorem witness_SessionTransitions :
    Runs (wIn S.ready) 1005 0 (wWord 0x20 0 0 0) 0x20 ∧ ((wIn S.ready).hub.s 0).r.omm = false ∧ ((wIn S.ready).hub.s 0).demote = false
    ∧ Runs (wIn S.parked) 1005 0 (wWord 0x21 1 0 0) 0x21 ∧ ((wIn S.parked).hub.s 0).r.logonly = false ∧ ((wIn S.parked).hub.s 0).r.ttlArmed = false
    ∧ (let s := wState (wLinked (wReg1 S.ready 1).hub)
       Runs s 1005 0 (wWord 0x22 2 1 1) 0x22 ∧ s.hub.holds 0 = false ∧ s.hub.rotating 0 = false ∧ (s.hub.s 0).r.rReg 1 0 = 1 ∧ s.hub.dev = 0
       ∧ s.hub.isActive 1 = true ∧ s.hub.reachable 1 = true ∧ (s.hub.stamp 1005).recomputable 0 = true) := by
  unfold Runs; decide +kernel

/-- A parent and its child, under handles 0 and 1; register 1 of the parent names the child. -/
def wFamily : State :=
  let c : Sess := { r := { sk := 10, nsi := nsiOf 0 1 1 5, state := S.ready, child := true, parGen := 1 } }
  wState { wWith { wSess S.ready with r := { (wSess S.ready).r with a := [0, nsiOf 0 1 1 5, 0, 0, 0, 0, 0, 0] } } with
    sess := [(0, { wSess S.ready with r := { (wSess S.ready).r with a := [0, nsiOf 0 1 1 5, 0, 0, 0, 0, 0, 0] } }), (1, c)], gens := [(0, 1), (1, 1)] }

theorem witness_SessionBirthAndDeath :
    Runs (wIn S.ready) 1005 0 (wWord 0x24 0 0 0) 0x24 ∧ ((wIn S.ready).hub.s 0).relHeld = none ∧ (wIn S.ready).hub.holds 0 = false
    ∧ Runs wFamily 1005 0 (wWord 0x24 0 1 1) 0x24 ∧ wFamily.hub.findNsi ((wFamily.hub.s 0).r.rReg 1 0) = some 1 ∧ (wFamily.hub.s 1).r.child = true
    ∧ (wFamily.hub.s 1).r.parH = 0 ∧ (wFamily.hub.s 1).r.parGen = nsiGen (wFamily.hub.s 0).r.nsi ∧ (wFamily.hub.s 1).r.parDev.toNat = wFamily.hub.dev
    ∧ (wFamily.hub.s 1).intakes = 0 ∧ wFamily.hub.holds 1 = false
    ∧ (let s := wReg1 S.ready 11
       let w := wWord 0x23 2 1 7
       let key : BitVec 128 := (s.hub.s 0).r.rReg 2 0 ++ (s.hub.s 0).r.rReg 1 0
       Runs s 1005 0 w 0x23 ∧ iw w 51 48 ≤ 5 ∧ s.hub.inj = [] ∧ s.hub.holds 0 = false ∧ key ≠ 0
       ∧ iw w 23 0 < (smGet [] s.hub.im.progs (iw w 31 24)).length ∧ s.hub.findSk key = none ∧ s.hub.freeHandle = some 1) := by
  unfold Runs; decide +kernel

/-- A Quern index of tenant 5, ready. -/
def wIdx : QIdx := { dim := 64, fmt := 0, metric := 0, m := 8, r := 32, cap := 1000, tenant := 5, part := 0, sideCap := 4096 }

theorem witness_SessionRequests :
    let s : State := wState ({ wWith (wSess S.ready) with qn := { idx := [(0, wIdx)], mem := 64 } }.pi F.PARTCTL_present 0 1)
    Runs s 1005 0 (wWord 0x30 1 2 1) 0x30 ∧ Runs s 1005 0 (wWord 0x30 1 0 (2 ^ 46 + 5)) 0x30 ∧ s.hub.holds 0 = false ∧ s.hub.profS = false ∧ s.hub.hubBad = false
    ∧ Runs s 1005 0 (wWord 0x31 1 0 0) 0x31 ∧ Runs s 1005 0 (wWord 0x31 1 2 (3 * 2 ^ 46)) 0x31 ∧ (s.hub.s 0).r.omm = false
    ∧ s.hub.needsSeal (s.hub.s 0).r = false ∧ s.hub.partHere 0 = true ∧ (s.hub.s 0).r.committed.toNat + (s.hub.s 0).pendIn.toNat ≤ s.hub.ctxLimit + 1
    ∧ Runs s 1005 0 (wWord 0x32 1 0 5) 0x32 ∧ (s.hub.s 0).r.dlate = false ∧ (s.hub.s 0).r.deadline = 0 ∧ s.hub.inPrefill = false
    ∧ s.hub.on F.QCTL_enable = true ∧ s.hub.stage 9 = true ∧ s.hub.qFind 0 (s.hub.s 0).r.tenant (s.hub.s 0).r.part = some wIdx
    ∧ ∀ op ∈ [0x40, 0x41, 0x42], Runs s 1005 0 (wWord op 1 2 0) op := by
  unfold Runs; decide +kernel

def wGram : Grammar := { start := 4, limit := 8, moves := [], digest := 0, secver := 0 }
def wStop : StopSet := { strs := [], toks := [], img := [] }

theorem witness_SessionOutputs :
    let s : State := wState { wWith (wSess S.ready) with im := { (wWith (wSess S.ready)).im with grams := [(3, wGram)], stopSets := [(6, wStop)] } }
    Runs s 1005 0 (wWord 0x33 0 0 0) 0x33 ∧ Runs s 1005 0 (wWord 0x35 0 0 3) 0x35 ∧ smLook s.hub.im.grams 3 = some wGram
    ∧ Runs s 1005 0 (wWord 0x35 0 0 (2 ^ 46 + 6)) 0x35 ∧ smLook s.hub.im.stopSets 6 = some wStop
    ∧ Runs s 1005 0 (wWord 0x70 0 0 1) 0x70 ∧ s.hub.gi F.CMPSTAT_overflow 0 = 0 := by
  unfold Runs; decide +kernel

theorem witness_ActivationExecutes :
    let w := wWord 0x10 1 0 0x302
    let h : Hub := { wWith (wSess S.ready) with seqq := [1, 0], im := { progs := [(0, [w, 0])] } }
    (h.seqq.filter (fun j => h.seqOf (j.toNat % 32) == h.seqOf 0)).head? = some 0 ∧ (h.stamp 1005).boundDue = false ∧ (h.s 0).runnable = true ∧ h.inj = [] ∧ Hub.badPair (h.s 0).r = none
    ∧ (h.prog 0)[(h.s 0).r.pc.toNat]? = some w ∧ Runs (wState h) 1005 0 w 0x10 ∧ (h.s 0).r.pending &&& BitVec.ofNat 16 (iw w 15 0) = 0 := by
  unfold Runs; decide +kernel

/-! ### Witnesses: host lines and session commands -/

/-- A hub that has ended no stage after POWER. -/
def wCold : Hub := { wHub with regs := smPut wHub.regs 0x48008 1 }

theorem witness_LinesDiscarded :
    lineOf (.dropCommand 1005 0 (wNamed [])) = some (1005, 0, 0x02, wNamed []) ∧ wHub.sec.clear = none ∧ (wCold.stamp 1005).stage 2 = false
    ∧ (let h : Hub := { wHub with regs := smPut (smPut wHub.regs 0x10 0x40) 0x40004 0 }; h.stage 2 = true ∧ h.ideWait = true)
    ∧ (let h := wHub.p F.HCTL_cmd_en 0; h.stage 2 = true ∧ h.ideWait = false ∧ h.on F.HCTL_cmd_en = false)
    ∧ (let h := wHub.pi F.CMPSTAT_overflow 0 1
       h.stage 2 = true ∧ h.ideWait = false ∧ h.on F.HCTL_cmd_en = true ∧ h.gi F.CMDWIN_enable 0 ≠ 0
       ∧ h.gi F.CMPSTAT_overflow (h.gi F.CMDWIN_partition 0) = 1) := by decide +kernel

theorem witness_window_full :
    let q : Sub := { op := 2, line := wNamed [], w := 0, part := 0, tenant := 5, nt := 0 }
    let h := wWith { wSess S.parking with actions := List.replicate 1024 q }
    h.hears 0 = true ∧ 1024 ≤ h.waiting 0 := by decide +kernel

theorem witness_LinesRefusedOrUnknown :
    wHub.hears 0 = true ∧ wHub.waiting 0 = 0 ∧ knownOp 0x7F = false ∧ wHub.inj = [] ∧ wHub.hubBad = false ∧ (wHub.ring false 0).backlog = []
    ∧ wHub.gi F.CMPSIZE_enable 0 ≠ 0 ∧ (wHub.setReg 0x34000 0).shapeOn = false
    ∧ (wHub.gi F.CMPPROD_p 0 + 2 ^ 32 - (wHub.ring false 0).consumed.toNat) % 2 ^ 32 < 2 ^ wHub.ringLog false 0
    ∧ (wHub.took 0).gi F.CMDWIN_admin 0 ≠ 0 ∧ ((wHub.pi F.CMDWIN_admin 1 0).took 1).gi F.CMDWIN_admin 1 = 0 ∧ adminOp 0x30 = true
    ∧ badByte 0x02 (wNamed [(32, 1)]) = some 32 ∧ badByte 0x02 (wNamed []) = none ∧ (wHub.counted 0 0x02).staged 0x02 = true
    ∧ ((wHub.p F.NFSTAT_ready 0).counted 0 0x02).staged 0x02 = false ∧ sessionOp 0x02 = true
    ∧ ((wHub.p F.POOLSTAT_group_fault 1).counted 0 0x02).faulted = true
    ∧ (let h := (wHub.p F.SLCTL_police_en 1).setReg F.SLPOL_tenant.a 0x80000005; (h.police 5).1 = false) := by decide +kernel

theorem witness_StaleNsi :
    let h := (wIn S.ready).hub.stamp 1005
    let l := { wLine [] with nsi := nsiOf 0 0 7 5 }
    lineOf (.dropCommand 1005 0 l) = some (1005, 0, 0x02, l) ∧ namesSession 0x02 = true ∧ l.flags.getLsbD 1 = false ∧ h.admits 0 0x02 l = true
    ∧ nsiDev l.nsi = h.dev ∧ (h.s (nsiHandle l.nsi)).r.state ≠ S.free ∧ smGet 0 h.gens (nsiHandle l.nsi).toNat ≠ nsiGen l.nsi := by decide +kernel

theorem witness_HdmAccesses :
    let h : Hub := { (wIn S.ready).hub with keySlots := [(3, 9)] }
    h.hubBad = false ∧ h.inj = [] ∧ h.loadsServed = true ∧ smLook h.keySlots 3 = some 9 ∧ h.gi F.CMDWIN_enable 0 ≠ 0 ∧ h.findSk 9 = some 0
    ∧ (h.s 0).born < h.nt ∧ (h.s 0).r.part.toNat = h.gi F.CMDWIN_partition 0 ∧ (h.s 0).r.tenant.toNat = h.gi F.CMDWIN_tenant 0
    ∧ smLook h.keySlots 4 = none ∧ (wHub.p F.HCTL_ticket_en 0).answers = true ∧ (wHub.p F.HCTL_ticket_en 0).loadsServed = false := by decide +kernel

theorem witness_AdmitMakesSession :
    (wHub.stamp 1005).admits 0 0x01 { wLine [] with sk := 9 } = true ∧ wHub.inj = [] ∧ wHub.findSk 9 = none ∧ wHub.on F.HDEVIDX_spare = false
    ∧ wHub.freeHandle = some 0 := by decide +kernel

theorem witness_SessionCommands :
    Commands (wIn S.ready) 1005 0 0x02 (wNamed []) 0 ∧ Commands (wIn S.ready) 1005 0 0x04 (wNamed []) 0 := by
  unfold Commands; decide +kernel

theorem witness_SessionCommands_revive :
    Commands (wIn S.parked) 1005 0 0x05 (wNamed []) 0 ∧ Commands (wIn S.halted) 1005 0 0x07 (wNamed [(32, 3)]) 0 := by
  unfold Commands; decide +kernel

theorem witness_SessionCommands_records :
    (wSess S.ready).r.omm = false ∧ (wSess S.parked).r.logonly = false ∧ (wSess S.parked).r.ttlArmed = false := by decide

theorem witness_SessionCommands_migrate :
    let s := wState (wLinked (wWith (wSess S.ready)))
    Commands s 1005 0 0x06 (wNamed [(32, 1), (33, 1)]) 0 ∧ s.hub.dev ≠ 1 ∧ s.hub.isActive 1 = true ∧ s.hub.reachable 1 = true
    ∧ (s.hub.stamp 1005).recomputable 0 = true := by
  unfold Commands; decide +kernel

theorem witness_SessionCommands_reclaim :
    let s := wState (wWith { wSess S.ready with r := { (wSess S.ready).r with omm := true } })
    Commands s 1005 0 0x0C (wNamed [(32, 1)]) 0 ∧ (s.hub.s 0).r.omm = true := by
  unfold Commands; decide +kernel

/-- A READY session of a device that holds a grammar and a stop set, with an open context of tenant 5 and rotation enabled. -/
def wRich : State :=
  wState (({ wWith (wSess S.ready) with im := { grams := [(3, wGram)], stopSets := [(6, wStop)] }, sec := { ctx := [(5, { k := 1 })] } } : Hub).p
    F.SECCTL_rotate_en 1)

theorem witness_SessionRecordCommands_events :
    Commands wRich 1005 0 0x08 (wNamed [(32, 9)]) 0 ∧ (wSess S.ready).r.waitMask = 0 ∧ (wSess S.ready).r.waitExp = 0
    ∧ Commands (wState (wWith { wSess S.waiting with blk := some (.wait 1), r := { (wSess S.waiting).r with waitMask := 0x200 } })) 1005 0 0x08
        (wNamed [(32, 9)]) 0 := by
  unfold Commands; decide +kernel

theorem witness_SessionRecordCommands_deadline : Commands wRich 1005 0 0x09 (wNamed [(32, 2), (40, 77)]) 0 := by
  unfold Commands; decide +kernel

theorem witness_SessionRecordCommands_fields :
    Commands wRich 1005 0 0x09 (wNamed [(32, 5), (40, 77)]) 0 ∧ (setField (wSess S.ready).r 5 77).isSome = true := by
  unfold Commands; decide +kernel

theorem witness_SessionRecordCommands_grammar : Commands wRich 1005 0 0x0A (wNamed [(32, 0), (34, 3)]) 0 := by
  unfold Commands; decide +kernel

theorem witness_SessionRecordCommands_images :
    smLook wRich.hub.im.grams 3 = some wGram ∧ Commands wRich 1005 0 0x0A (wNamed [(32, 1), (34, 6)]) 0
    ∧ (smLook wRich.hub.im.stopSets 6).isSome = true ∧ Commands wRich 1005 0 0x0B (wNamed [(32, 64)]) 0 ∧ wRich.hub.hubBad = false := by
  unfold Commands; decide +kernel

theorem witness_SessionRecordCommands_intakes :
    Commands wRich 1005 0 0x03 (wNamed [(32, 64), (40, 2)]) 0 ∧ wRich.hub.profS = false
    ∧ Commands wRich 1005 0 0x43 (wNamed [(32, 64)]) 0 ∧ (smLook wRich.hub.sec.ctx 5).isSome = true := by
  unfold Commands; decide +kernel

theorem witness_SessionRecordCommands_rotate :
    Commands wRich 1005 0 0x44 (wNamed []) 0 ∧ smLook wRich.hub.sec.rots 0 = none ∧ wRich.hub.on F.SECCTL_rotate_en = true := by
  unfold Commands; decide +kernel

/-- A root entry whose paired words are valid. -/
def wRoot : Root := { dir := BitVec.ofNat 64 (pairOf 32 0), ringt := BitVec.ofNat 64 (pairOf 32 0) }

theorem witness_inspect_root :
    let x := wSess S.ready
    let s : State := wState { wMember (wWith x) with kv := { roots := [(rootKey ((wMember (wWith x)).rootIx x.r) 0, wRoot)] } }
    Commands s 1005 0 0x0B (wNamed [(32, 64), (40, 1)]) 0 ∧ s.hub.shards.contains 0 = true
    ∧ (s.hub.root? (s.hub.rootIx (s.hub.s 0).r) 0).isSome = true := by
  unfold Commands; decide +kernel

theorem witness_ImageCommands :
    let h := ((wIn S.ready).hub.p F.POOLPLAN_loaded 2).stamp 1005
    h.hubBad = false ∧ h.admits 0 0x10 (wLine [(40, 1)]) = true ∧ h.anyRec (fun r => r.stopSet.toNat == 1) = false
    ∧ h.admits 0 0x11 (wLine [(48, 1)]) = true ∧ h.anyRec (fun r => r.gramSlot.toNat == 1) = false
    ∧ h.admits 0 0x12 (wLine [(48, 1)]) = true ∧ (smGet {} h.im.adapters 1).vers.length < 4
    ∧ h.admits 0 0x13 (wLine [(40, 1)]) = true ∧ h.anyRec (fun r => r.prog.toNat == 1) = false ∧ h.admits 0 0x15 (wLine []) = true
    ∧ h.admits 0 0x16 (wLine [(48, 1)]) = true ∧ h.admits 0 0x14 (wLine [(40, 1)]) = true ∧ h.admits 0 0x17 (wLine [(48, 1)]) = true
    ∧ h.g F.POOLROLE_size = 0 ∧ h.admits 0 0x18 (wLine [(32, 1)]) = true ∧ bitsOf (h.g F.POOLPLAN_loaded) 1 1 = 1 ∧ h.rcmp = none := by decide +kernel

/-! ### Witnesses: migration and ownership -/

def wOffer : OfferMsg :=
  { sk := 12, epoch := 1, tenant := 5, part := 0, gram := 0, gramDig := 0, stop := 0, stopDig := 0, kvmode := true, kvLen := 0, state := S.ready, nsi := 0 }
def wMig : MigIn := { src := 1, offer := some wOffer, root := 0, lastNt := 0 }
def wOut : MigOut := { target := 1, kvmode := true }

/-- A session that is moving to device 1. -/
def wMoving (m : MigOut) : Hub := wWith { wSess S.migrating with migOut := some m, r := { (wSess S.migrating).r with prior := S.ready } }

theorem witness_MigrationReceives :
    let h := (wIn S.ready).hub.pi F.PARTCTL_present 0 1
    let m : Hub := { h with migIn := [(12, wMig)], nt := 0xFFFFFFFFFFFF }
    h.findSk 9 ≠ none ∧ h.findSk wOffer.sk = none ∧ h.freeHandle = some 1 ∧ wOffer.gram = 0 ∧ wOffer.stop = 0
    ∧ h.gi F.PARTCTL_present wOffer.part.toNat = 1
    ∧ ((List.range 64).any (fun w => h.gi F.CMDWIN_enable w == 1 && h.gi F.CMDWIN_partition w == wOffer.part.toNat
        && h.gi F.CMDWIN_tenant w == wOffer.tenant.toNat)) = true
    ∧ smLook h.im.grams 3 = none ∧ h.gi F.PARTCTL_present 1 = 0
    ∧ smLook m.migIn 12 = some wMig ∧ wMig.offer = some wOffer ∧ wMig.lastNt.toNat + m.migTmo ≤ m.nt.toNat := by
  refine ⟨?_, ?_, ?_, ?_, ?_, ?_, ?_, ?_, ?_, rfl, rfl, ?_⟩ <;> decide +kernel

theorem witness_MigrationSends :
    let h := wMoving wOut
    let a := wMoving { wOut with answered := true }
    h.outTo 1 9 = some (0, wOut) ∧ wOut.answered = false ∧ (h.s 0).queued = 0 ∧ (h.s 0).waitHit = false ∧ (h.s 0).actions = [] ∧ (h.s 0).relHeld = none
    ∧ (h.s 0).dropHeld = false ∧ (h.s 0).migOut = some wOut ∧ wOut.due ≤ h.nt ∧ (h.s 0).r.ownEpoch + 1 = 1
    ∧ (a.s 0).migOut = some { wOut with answered := true } ∧ (a.s 0).blk = none ∧ a.partsQueued (a.s 0).r.sk wOut.target = false
    ∧ ({ a with sl := { dyn := [(0, [{ enq := 0, head := 1, load := .msg wOut.target 0 (.part (a.s 0).r.sk .fin) }])] } } : Hub).partsQueued (a.s 0).r.sk wOut.target = true
    ∧ h.outTo 2 9 = none ∧ h.outBeside 2 9 = none ∧ h.outBeside wOut.target 9 = some (0, wOut) := by decide +kernel

theorem witness_OwnershipMessages :
    let h := (wIn S.ready).hub
    let x := wSess S.ready
    let p : Hub := wWith { x with probe := some (1, 500), r := { x.r with omm := true } }
    h.findSk 77 = none ∧ h.findSk 9 = some 0 ∧ (h.s 0).r.ownEpoch = 0 ∧ (h.s 0).r.omm = false ∧ newer 16 1 (h.s 0).r.ownEpoch.toNat = true
    ∧ (p.s 0).probe = some (1, 500) ∧ newer 16 0 (p.s 0).r.ownEpoch.toNat = false ∧ (p.s 0).actions = [] ∧ (500 : Nt) ≤ p.nt
    ∧ nsiDev (nsiOf 0 0 1 5) = h.dev ∧ smGet 0 h.gens (nsiHandle (nsiOf 0 0 1 5)).toNat = nsiGen (nsiOf 0 0 1 5) ∧ (h.s 0).r.waitMask = 0
    ∧ (h.s 0).r.waitExp = 0
    ∧ (let f : Hub := { wHub with sess := [(0, { fwd := 5 })], gens := [(0, 1)] }; (f.s 0).r.state = S.free ∧ (f.s 0).fwd ≠ 0)
    ∧ (let g : Hub := ({ wHub with im := { plans := [(0, [{ wPlan with role := 2, base := 0 }])] } } : Hub).p F.POOLROLE_role 1
       (g.stamp 1005).admits 0 0x19 (wLine []) = true ∧ g.inDecode = true
       ∧ ((smGet [] g.im.plans (g.g F.POOLPLAN_active)).find? (fun p => p.base.toNat == 0)).isSome = true) := by decide +kernel

theorem lowestFree_all (n : Nat) : ∀ k, lowestFree k ((List.range' k n).map (fun i => (i, ()))) = k + n := by
  induction n with
  | zero => intro k; rfl
  | succ n ih =>
    intro k
    rw [List.range'_succ, List.map_cons]
    simp [lowestFree, ih]
    omega

/-- A hub whose 262,144 handles are all taken, by sessions without a key. -/
def wFull : Hub := { wHub with sess := (List.range' 0 262144).map (fun i => (i, wSess S.ready)) }

theorem witness_MigrationReceives_full : wFull.findSk wOffer.sk = none ∧ wFull.freeHandle = none := by
  have live : ∀ e ∈ wFull.sess, e.2 = wSess S.ready := fun e he => by
    obtain ⟨i, _, rfl⟩ := List.mem_map.1 he
    rfl
  constructor
  · have n : wFull.sess.find? (fun e => e.2.r.state != S.free && e.2.r.sk == wOffer.sk) = none :=
      List.find?_eq_none.2 (fun e he => by rw [live e he]; decide)
    unfold Hub.findSk
    rw [n]
    rfl
  · have a : wFull.sess.filter (fun e => e.2.r.state != S.free) = wFull.sess :=
      List.filter_eq_self.2 (fun e he => by rw [live e he]; decide)
    have b : wFull.sess.map (fun e => (e.1, ())) = (List.range' 0 262144).map (fun i => (i, ())) := by
      unfold wFull
      exact List.map_map
    have c : lowestFree 0 (wFull.sess.map (fun e => (e.1, ()))) = 262144 := by rw [b, lowestFree_all]
    unfold Hub.freeHandle
    rw [a, c]
    rfl

/-! ### Witnesses: Quern, checkpoints, security, diagnostics, integrity -/

def wSub (op : BitVec 8) : Sub := { op := op, line := wLine [], w := 0, part := 0, tenant := 5, nt := 0 }
def wReq : QReq :=
  { op := 0x22, widen := false, rerank := false, brute := false, k := 1, lim := 16, r := 0, filter := 0, expand := 16, item := 0, result := 0, vec := [] }
def wSearch : QSearch := { who := .cmd (wSub 0x22), idx := 0, nt := 0, w := 1, req := wReq }
def wQuern (q : QIdx) : Hub := { wHub with qn := { idx := [(0, q)], mem := 64 } }

theorem witness_QuernCommands :
    let h := (wQuern wIdx).stamp 1005
    h.on F.QCTL_enable = true ∧ h.hubBad = false ∧ h.qidx 1 = none ∧ h.qidx 0 = some wIdx ∧ wIdx.destroy = none ∧ wIdx.merge = none
    ∧ h.admits 0 0x20 (wLine [(32, 1), (34, 64), (36, 2), (37, 2), (38, 8), (40, 32), (44, 1000), (48, 5)]) = true
    ∧ h.admits 0 0x20 (wLine [(32, 1), (34, 64), (36, 0), (37, 0), (38, 8), (40, 32), (44, 1000), (48, 5), (56, 64)]) = true
    ∧ h.admits 0 0x21 (wLine []) = true ∧ h.qFind 0 (h.subOf 0 0x22 (wLine [])).tenant (h.subOf 0 0x22 (wLine [])).part = some wIdx
    ∧ h.admits 0 0x22 (wLine [(32, 64)]) = true ∧ h.admits 0 0x23 (wLine [(32, 64)]) = true ∧ h.admits 0 0x24 (wLine [(32, 64)]) = true
    ∧ h.admits 0 0x25 (wLine [(32, 64), (42, 1), (48, 8)]) = true ∧ h.admits 0 0x26 (wLine []) = true
    ∧ (h.qn.idx.map (fun e => quernBytes e.2.cap e.2.m e.2.r e.2.sideCap e.2.dim)).sum + quernBytes 1000 8 32 (max 4096 (h.g F.QSIDECAP_entries)) 64
        ≤ h.qn.mem * 2 ^ 30
    ∧ (h.qn.idx.map (fun e => e.2.cap)).sum + 1000 ≤ 1073741824 := by decide +kernel

theorem witness_QuernEvents :
    (let h : Hub := { wHub with qn := { idx := [(0, wIdx)], waiting := [wSearch] } }
     h.qn.waiting = [wSearch] ∧ h.qn.taken.length < 64 ∧ h.qidx wSearch.idx = some wIdx)
    ∧ wSearch.who = .cmd (wSub 0x22)
    ∧ (let a := wIdx.answer wSearch (wHub.g F.QBRUTE_items) []
       (padTo (64 * cdiv (32 + 16 * a.ents.length) 64) (Hub.qBlock wSearch a)).length ≤ 64)
    ∧ (wQuern { wIdx with destroy := some (wSub 0x21) }).qIdle 0 { wIdx with destroy := some (wSub 0x21) } = true
    ∧ ({ wIdx with merge := some (4, [wSub 0x26]) } : QIdx).gens = [{}] ∧ ({ wHub with aix := { swap := some 3 } } : Hub).aix.swap = some 3
    ∧ (let h := (wHub.p F.AIXCTL_scrub_en 1).p F.AIXCTL_spare_en 1
       h.on F.AIXCTL_scrub_en = true ∧ h.on F.AIXCTL_spare_en = true ∧ h.aix.swap = none ∧ h.aix.spare = none ∧ 3 ∉ h.aix.bad) := by decide +kernel

/-- A member of the group in a group fault since NT 0. -/
def wFault : Hub := { (wMember wHub).p F.POOLSTAT_group_fault 1 with ck := { faultNt := some 0 }, nt := 0xFFFFFFFFFFFF }

theorem witness_CutsAndRestores :
    let h := (wMember wHub).stamp 1005
    let a := h.counted 0 0x30
    let b := wFault.counted 0 0x31
    h.admits 0 0x30 (wLine []) = true ∧ a.g F.POOLROLE_size ≠ 0 ∧ (wLine []).opd 32 1 = a.g F.POOLROLE_base ∧ a.faulted = false
    ∧ (wHub.stamp 1005).admits 0 0x30 (wLine []) = true ∧ ((wHub.stamp 1005).counted 0 0x30).g F.POOLROLE_size = 0
    ∧ wFault.admits 0 0x31 (wLine []) = true ∧ b.faulted = true ∧ b.g F.POOLROLE_base = 0 ∧ b.ck.restore.isNone = true := by decide +kernel

theorem witness_CutsAndRestores_drains :
    let c : Hub := { wHub with ck := { bcopies := [(4, [], false)] } }
    let e : MigClaim := { sk := 9, src := 1, epoch := 3, nt := 50 }
    let h : Hub := { wWith (wSess S.ready) with ck := { claims := [e] } }
    (c.ck.bcopies.find? (fun c => c.1 == 4 && !c.2.2)).isSome = true ∧ (wMember wHub).position = 0
    ∧ h.ck.claims.length = 1 ∧ e.src = 1 ∧ (10 : Nt) ≤ e.nt ∧ h.findSk e.sk = some 0 ∧ (h.s 0).r.omm = false
    ∧ wFault.on F.HDEVIDX_spare = false ∧ wFault.ck.faultNt = some 0
    ∧ (wFault.p F.CKPTCTL_auto_restore 1).on F.CKPTCTL_auto_restore = true ∧ 0 + wFault.g F.CKPTHOLD_ms * 1000000 ≤ wFault.nt.toNat := by decide +kernel

theorem witness_SecurityCommandsAndEvents :
    let h := { wWith (wSess S.ready) with sec := { ctx := [(5, { k := 1 })], trngBad := false }, im := { models := [{ wModel with secver := 9 }] } }.stamp 1005
    h.admits 0 0x40 (wLine [(40, 64)]) = true ∧ h.admits 0 0x41 (wLine [(40, 5)]) = true ∧ (h.counted 0 0x41).sec.trngBad = false
    ∧ h.admits 0 0x42 (wLine [(40, 5)]) = true ∧ (smLook (h.counted 0 0x42).sec.ctx 5).isSome = true
    ∧ h.admits 0 0x45 (wLine [(32, 3)]) = true ∧ (h.counted 0 0x45).sec.clear = none ∧ (h.counted 0 0x45).inj = []
    ∧ (h.counted 0 0x45).anyRec (fun r => r.part.toNat == 3) = false
    ∧ h.admits 0 0x46 (wLine [(32, 2), (33, 4)]) = true ∧ (h.counted 0 0x46).leastSecver 2 = some 9
    ∧ h.admits 0 0x47 (wLine [(32, 1)]) = true ∧ h.admits 0 0x47 (wLine [(32, 1), (40, 64)]) = true := by decide +kernel

theorem witness_sweep :
    let q (p : BitVec 2) (l : List (BitVec 32)) : Rot := { phase := p, newG := 1, sub := some (wSub 0x44), left := l }
    let h (r : Rot) : Hub := { wHub with sec := { rots := [(0, r)] }, gr := { units := [(7, { key := objKey 2 1, idx := 0, kind := 2 })] } }
    (smLook (h (q 1 [7])).sec.rots 0).map (·.phase) = some 1 ∧ (smLook (h (q 1 [7])).gr.units 7).isSome = true ∧ objKey 2 1 / 2 ^ 72 ≠ 1
    ∧ (7 : BitVec 32) ∈ (q 1 [7]).left ∧ (smLook (h (q 2 [])).sec.rots 0).map (fun r => (r.phase, r.sub.isSome)) = some (2, true) := by decide +kernel

def wEvent : DEnt := { nt := 4, code := 0x501, die := 0, status := 0, seq := 0, data := 0, unsync := false, device := 0 }

theorem witness_Diagnostics :
    let b : BbSlot := { nt := 4, trig := 0, rings := [], valid := true }
    let h := ({ wHub with diag := { dj := [wEvent], slots := [(2, b)] } } : Hub).p F.DGDJPOS_position 1
    let g := h.stamp 1005
    g.admits 0 0x50 (wLine [(40, 1), (56, 10)]) = true
    ∧ (((Hub.positions ((g.counted 0 0x50).g F.DGDJPOS_position) (g.counted 0 0x50).diag.dj).filter (fun e => decide (0 ≤ e.1))).take 10).length = 1
    ∧ g.admits 0 0x51 (wLine [(40, 0)]) = true ∧ g.admits 0 0x51 (wLine [(40, 1), (41, 2)]) = true
    ∧ (smLook (g.counted 0 0x51).diag.slots 2).map (·.valid) = some true ∧ g.admits 0 0x52 (wLine []) = true ∧ g.admits 0 0x53 (wLine []) = true
    ∧ (g.counted 0 0x53).diag.snapAt = none ∧ 0 < Hub.clockDomains.getD 0 0 ∧ (wHub.p F.DGCTL_autostop_en 1).on F.DGCTL_autostop_en = true
    ∧ ((0 : BitVec 3), (1 : BitVec 8)) ∉ wHub.diag.stopped
    ∧ (let c : Hub := { h with diag := { h.diag with copy := some (2, some (wSub 0x52)), snapAt := some 500 } }
       (c.diag.copy.map (·.1)) = some 2 ∧ (smLook c.diag.slots 2).isSome = true ∧ c.diag.trigs.length = 0 ∧ c.diag.snapAt = some 500 ∧ (500 : Nt) ≤ c.nt) := by
  decide +kernel

theorem witness_Injection :
    let on := (wHub.p F.INTCTL_inject_en 1).stamp 1005
    on.admits 0 0x58 (wLine [(32, 1)]) = true ∧ (on.counted 0 0x58).on F.INTCTL_inject_en = true ∧ (on.counted 0 0x58).inj.length < 16 ∧ 1 ∉ Hub.atOnce
    ∧ on.admits 0 0x58 (wLine [(32, 6)]) = true ∧ 6 ∈ Hub.atOnce ∧ on.admits 0 0x59 (wLine []) = true
    ∧ wHub.nf.dropNt ≤ wHub.nt ∧ ({ wHub with pw := { brkInj := some 4 } } : Hub).pw.brkInj = some 4 ∧ (4 : Nt) ≤ wHub.nt
    ∧ (let y : Inj := { point := 6, mode := 0, count := 1, a := 0, b := 0, nt := 4 }
       ({ wHub with inj := [y] } : Hub).inj.length = 1 ∧ y.point.toNat ∈ Hub.atOnce ∧ y.nt ≤ wHub.nt) := by decide +kernel

theorem witness_InjectionGate :
    let h := wHub.stamp 1005
    let u : Hub := { wHub with regs := smPut wHub.regs 0x10 0x40 }
    h.admits 0 0x58 (wLine [(32, 1)]) = true ∧ h.on F.INTCTL_inject_en = false ∧ h.reached F.INTCTL_inject_en.a = true ∧ h.profS = false
    ∧ h.on F.HCTL_lock = false ∧ u.reached F.INTCTL_inject_en.a = true ∧ u.profS = true ∧ u.on F.NFSTAT_test = false := by decide +kernel

theorem witness_ScrubsAndRepairs :
    wHub.inj = [] ∧ (∀ q, q < 32 → pairOk 8 (wHub.seqMap.getD q 0).toNat = true) ∧ Hub.badPair (wSess S.ready).r = none
    ∧ (wHub.p F.INTCTL_row_rep_en 1).on F.INTCTL_row_rep_en = true ∧ (wHub.p F.INTCTL_chan_spare_en 1).on F.INTCTL_chan_spare_en = true
    ∧ (wHub.chCopy ++ wHub.chReady).length = 0 ∧ (wHub.freeSpare 0).isSome = true := by decide +kernel

theorem pairOk_pairOf (x : Nat) : pairOk 16 (BitVec.ofNat 64 (pairOf 16 x)).toNat = true := by
  have k (y z : Nat) (hy : y < 65536) (hz : z < 65536) : (y + z * 65536) / 65536 % 65536 = z ∧ (y + z * 65536) / 1 % 65536 = y := by
    constructor <;> omega
  have hx : x % 65536 < 65536 := Nat.mod_lt _ (by decide)
  have hk := k (x % 65536) (65535 - x % 65536) hx (by omega)
  have e : pairOf 16 x = x % 65536 + (65535 - x % 65536) * 65536 := rfl
  rw [BitVec.toNat_ofNat, Nat.mod_eq_of_lt (by omega), e]
  show ((x % 65536 + (65535 - x % 65536) * 65536) / 65536 % 65536 == 65535 - (x % 65536 + (65535 - x % 65536) * 65536) / 1 % 65536) = true
  rw [hk.1, hk.2, beq_self_eq_true]

theorem stonemap_reset (x : Nat) (hx : x < 2048) :
    regReset (0x25000 + 4 * x) = BitVec.ofNat 64 (pairOf 16 ((goodStones (x / 512)).getD (x % 512) 0)) := by
  have e : specialReset (0x25000 + 4 * x) = some (pairOf 16 ((goodStones (x / 512)).getD (x % 512) 0)) := by
    have k : (0x25000 + 4 * x - 0x25000) / 4 = x := by omega
    unfold specialReset
    repeat rw [if_neg (by omega)]
    rw [if_pos (by omega)]
    simp only [k]
  unfold regReset
  rw [e]

theorem stonemap_unlisted (x : Nat) (hx : x < 2048) : wHub.reg (0x25000 + 4 * x) = regReset (0x25000 + 4 * x) := by
  have n (k : Nat) (hk : k < 0x25000 ∨ 0x27000 ≤ k) : ¬ (0x25000 + 4 * x = k) := by omega
  show (smLook wHub.regs _).getD _ = _
  simp [wHub, smLook, n]

theorem witness_ScrubsAndRepairs_pairs : ∀ r ∈ Hub.pwRegs ++ Hub.remapRegs, pairOk 16 (wHub.reg r).toNat = true := by
  have few : ∀ r ∈ Hub.pwRegs ++ Hub.remapRegs.take 24, pairOk 16 (wHub.reg r).toNat = true := by decide +kernel
  have split : Hub.remapRegs = Hub.remapRegs.take 24 ++ (List.range 2048).map (fun l => 0x25000 + 4 * l) := rfl
  intro r hr
  rw [split, ← List.append_assoc, List.mem_append] at hr
  rcases hr with hr | hr
  · exact few r hr
  · obtain ⟨x, hx, rfl⟩ := List.mem_map.1 hr
    have hx := List.mem_range.1 hx
    rw [stonemap_unlisted x hx, stonemap_reset x hx]
    exact pairOk_pairOf _

theorem witness_ScrubsAndRepairs_damaged :
    let h := wHub.setReg F.PWRCAP_watts.a 0x1234
    F.PWRCAP_watts.a ∈ Hub.pwRegs ++ Hub.remapRegs ∧ pairOk 16 (h.reg F.PWRCAP_watts.a).toNat = false
    ∧ ∀ r ∈ Hub.pwRegs ++ Hub.remapRegs, r ≠ F.PWRCAP_watts.a → pairOk 16 (h.reg r).toNat = true := by
  refine ⟨List.mem_append_left _ (by decide), by decide +kernel, fun r hr hn => ?_⟩
  rw [Hub.reg_setReg_ne _ _ _ _ hn]
  exact witness_ScrubsAndRepairs_pairs r hr

/-! ### Witnesses: steps, waits that end, pools, the Granary -/

def wBoundary : BFrame :=
  { readyNt := 900, step := 0, slot := 0, pos := 1, chk := true, cut := false, swAck := false, framePm := 0, grnFree := 0, cutEpoch := 0, adms := []
    evicts := [], dones := [], pGrants := [], bad := false }

theorem witness_StepBoundaries :
    let h := wMember wHub
    h.isReady = true ∧ h.faulted = false ∧ wBoundary.pos.toNat ≠ h.position ∧ wBoundary.pos.toNat < h.groupN ∧ wBoundary.step.toNat = h.stepNo
    ∧ wBoundary.slot.toNat = h.g F.POOLPLAN_active ∧ h.grp.frames.any (fun f => f.pos == wBoundary.pos) = false ∧ h.grp.frames.length + 1 < h.groupN
    ∧ (let g : Hub := { h with grp := { frames := (List.range 64).map (fun k => { wBoundary with pos := BitVec.ofNat 6 k }), ready := some 900 }, nt := 5000 }
       g.gathered = true ∧ g.grp.ready.isSome = true ∧ g.boundNt wPlan ≤ g.nt.toNat)
    ∧ (let x := { wSess S.reviving with revive := some { reserved := true } }
       (wWith x).grnWaits (.ext 0) = false ∧ (((wWith x).s 0).extent.map (·.2)).getD false = false
       ∧ ((wWith x).extentOf 0).1.any (fun e => e.pages.any (fun e => e.2.2) || e.rings.any (fun e => e.2.2)) = false) := by decide +kernel

theorem witness_StepBoundaries_plan : (wMember wHub).plan = some wPlan := rfl

theorem witness_SamplesDraftsIntakes :
    (wStep.runs.find? (fun r => r.h == 0 && !r.done)).map (fun r => (r.h, r.poison)) = some (0, false)
    ∧ (let q : StepReq := { n := 4, draft := 2, addr := 64 }; 2 ≤ q.draft.toNat ∧ q.buf = none ∧ q.addr.toNat % 64 = 0)
    ∧ (let n : IntakeReq := { h := 0, nt := 0, w := 0, sub := none, addr := 0, count := 1, tok := some 5 }
       let h : Hub := { wWith (wSess S.ready) with hopq := [n] }
       (h.hopq.find? (fun q => !((h.s q.h).r.state == S.prefill || (h.s q.h).r.state == S.stepping))).isSome = true ∧ n.segs.isNone = true
       ∧ (h.s n.h).r.state ∉ [S.free, S.faulted, S.migrating]) := by decide +kernel

theorem witness_SamplesDraftsIntakes_run : wStepping.grp.cur = some wStep := rfl

theorem witness_TimesReached :
    let w : Sess := { wSess S.waiting with blk := some (.wait 1), r := { (wSess S.waiting).r with waitMask := 0x200, waitExp := 500 } }
    let p : Sess := { wSess S.parked with r := { (wSess S.parked).r with ttlArmed := true, expiry := 500 } }
    let i : Irq := { count := 1, since := some 0 }
    w.waitHit = false ∧ (w.r.pending ||| w.queued) &&& w.r.waitMask = 0 ∧ w.r.waitExp ≤ wHub.nt
    ∧ ({ wSess S.ready with blk := some (.hold 1 500) } : Sess).blk = some (.hold 1 500) ∧ (500 : Nt) ≤ wHub.nt
    ∧ p.r.state = S.parked ∧ p.r.ttlArmed = true ∧ p.r.expiry ≤ wHub.nt
    ∧ i.since = some 0 ∧ 0 < i.count ∧ 0 + (wHub.pi F.INTMOD_holdoff 3 0).gi F.INTMOD_holdoff 3 * 1000 ≤ wHub.nt.toNat := by decide +kernel

theorem witness_TransfersReturn :
    let x : WrWait := { addr := 64, data := [], sub := some (wSub 0x51, 0) }
    let h : Hub := { wHub with durs := [(2, .image (wSub 0x13) (.raw []))], writes := [(3, x), (4, { x with failed := true, retryAt := 10 })]
                               reads := [(5, .nonce (wSub 0x40))] }
    (smLook h.durs 2).isSome = true ∧ h.grnWaits (.grn 2) = false ∧ smLook h.writes 3 = some x ∧ x.failed = false
    ∧ (smLook h.writes 4).map (fun x => (x.failed, decide (x.retryAt ≤ h.nt))) = some (true, true) ∧ (smLook h.reads 5).isSome = true
    ∧ x.vec = none ∧ x.first = none ∧ x.sess = none ∧ x.ins = none ∧ (wSub 0x51).op ≠ 0x50
    ∧ (let g : Hub := { wHub with sring := [(1, { reading := true })], cring := [(1, { reading := true, retryAt := some 4 })] }
       (g.ring true 1).reading = true ∧ (g.ring false 1).reading = true ∧ (g.ring false 1).retryAt = some 4 ∧ (4 : Nt) ≤ g.nt) := by decide +kernel

theorem witness_AdaptersAndPools :
    let a : AdVer := { ver := 1, commit := some 10, coord := 0, sub := some (wSub 0x12), ended := some 20, freeAt := some 30 }
    let h : Hub := { wHub with im := { adapters := [(4, { vers := [a] })] } }
    let r : Recomp := { slot := 1, demote := false, eff := 10, sub := none }
    (h.adVer? 4 2).isNone = true ∧ (h.adVer? 4 1).isSome = true ∧ (h.adSlot 4).vers.length = 1 ∧ (10 : Nt) ≤ h.nt ∧ h.g F.POOLROLE_size = 0
    ∧ a.coord = h.me ∧ ({ a with coord := 3 } : AdVer).coord ≠ h.me ∧ a.counted = false
    ∧ r.begun = false ∧ r.eff ≤ h.nt ∧ r.switched = false
    ∧ r.eff.toNat + h.g F.POOLRCTMO_ms * 1000000 ≤ (0xFFFFFFFFFFFF : Nt).toNat := by decide +kernel

theorem witness_GranaryBlocks :
    let x : GBlk := { closed := true, stripe := 0 }
    let h : Hub := ({ wHub with gr := { blks := [(blkKey 2 9, x)] }, nt := 0xFFFFFFFFFFFF } : Hub).p F.GRNCTL_bg_gc_en 1
    (h.blk 2 9).isSome = true ∧ x.verified = false ∧ x.bad = false ∧ x.parity = false ∧ x.gc = false ∧ h.inj = [] ∧ 0 ≤ h.vfyThr
    ∧ h.on F.GRNCTL_bg_gc_en = true ∧ h.gr.lastNt.toNat + max 100 (h.g F.GRNIDLE_us) * 1000 ≤ h.nt.toNat ∧ h.validUnits 2 9 = []
    ∧ ({ x with victim := true } : GBlk).victim = true ∧ ({ x with closed := false } : GBlk).closed = false := by decide +kernel

def wUnit : GUnit := { key := objKey 2 1, idx := 0, kind := 2, loc := some ⟨2, 9, 0⟩, inTun := false }

/-- A Granary that is ready, with one unit on flash, a page to be rebuilt and a long journal. -/
def wGran : Hub :=
  { wHub with gr := { units := [(7, wUnit)], blks := [(blkKey 2 9, {})], rebuild := [3], journal := 4 * 2 ^ 30 }, regs := smPut wHub.regs 0x2C004 1 }

theorem witness_GranaryReadsAndMap :
    (smLook wGran.gr.units 7).isSome = true ∧ wUnit.loc = some ⟨2, 9, 0⟩ ∧ wUnit.inTun = false ∧ wUnit.poison = false
    ∧ wGran.pageHere 7 = true ∧ ({ wGran with gr := { wGran.gr with cooled := [0] } } : Hub).pageHere 7 = false
    ∧ wGran.inHot 20000 = false ∧ wGran.on F.GRNSTAT_ready = true ∧ wGran.inj = [] ∧ 3 ∈ wGran.gr.rebuild ∧ 3 * 2 ^ 30 < wGran.gr.journal := by decide +kernel

theorem witness_GranaryReadsAndMap_page : 20000 < wGran.mapPages := by unfold Hub.mapPages; split <;> decide

theorem witness_GranaryReadsAndMap_reads :
    let g := ((wGran.grnTraffic false).sweepFirst 7).touchPage 7
    ((g.blk 2 9).getD {}).reads + 1 < max 1 (g.g F.GRNRDTHR_reads) := by
  have e : (((wGran.grnTraffic false).sweepFirst 7).touchPage 7).reg F.GRNRDTHR_reads.a = wGran.reg F.GRNRDTHR_reads.a :=
    Hub.reg_setReg_ne _ _ _ _ (by decide)
  have k : 1 < max 1 (bitsOf (wGran.reg F.GRNRDTHR_reads.a).toNat F.GRNRDTHR_reads.hi F.GRNRDTHR_reads.lo) := by decide +kernel
  rw [← e] at k
  exact k

/-! ### Witnesses: register stores -/

/-- The hub in service, no stage after LINK done. -/
def wForming (done : Nat) : Hub := { wHub with regs := smPut wHub.regs 0x48008 (BitVec.ofNat 64 done) }

theorem witness_ControlStores :
    (∀ a ∈ [F.HCTL_lock.a, F.PWRCTL_lock.a, F.DGCTL_lock.a, F.NFCTL_lock.a, F.DGSNAP_go.a, F.GRNFLUSH_go.a], wHub.reached a = true)
    ∧ (4 : BitVec 32).getLsbD 2 = true ∧ (4 : BitVec 32).getLsbD 3 = false ∧ (8 : BitVec 32).getLsbD 3 = true
    ∧ (wForming 1).stage 2 = false ∧ (wForming 1).reached F.NFCTL_lock.a = true
    ∧ (wForming 0xFF).stage 2 = true ∧ (wForming 0xFF).forming 8 = true ∧ (wForming 0xFF).nf.grnOn = false
    ∧ (wHub.p F.NFSTAT_sessions_held 1).on F.NFSTAT_sessions_held = true ∧ wHub.on F.NFSTAT_sessions_held = false
    ∧ wHub.diag.snapAt = none ∧ ({ wHub with regs := smPut wHub.regs 0x2C004 1 } : Hub).on F.GRNSTAT_ready = true
    ∧ ({ wHub with regs := smPut wHub.regs 0x2C004 0 } : Hub).on F.GRNSTAT_ready = false := by decide +kernel

theorem witness_ControlStores_host_memory :
    (let h : Hub := { wForming 0xFF with regs := smPut (wForming 0xFF).regs F.GRNHMNEED_slots.a 0 }; h.g F.GRNHMNEED_slots ≤ h.g F.GRNHMSIZE_slots)
    ∧ (let h : Hub := { wForming 0xFF with regs := smPut (wForming 0xFF).regs F.GRNHMNEED_slots.a 99 }
       h.g F.GRNHMSIZE_slots < h.g F.GRNHMNEED_slots) := by decide +kernel

theorem witness_RegisterStores :
    (let a := F.MIGTMO_us.a
     wHub.reached a = true ∧ a % 4 = 0 ∧ ((regRow a).map (plainReg a)) = some true ∧ 0x5000 ≤ a)
    ∧ (let a := 0x1000
       wHub.reached a = true ∧ a % 8 = 0 ∧ ((regRow a).map (fun r => (plainReg a r, r.wide))) = some (true, true) ∧ a < 0x4000)
    ∧ (regRow 0xFFFF0).isNone = true ∧ (regRow 0xFFFEC).isNone = true ∧ (wForming 1).reached 0x20004 = false ∧ 0x20004 ≠ F.NFRESET_code.a
    ∧ (let a := (ringRegs true).en.a
       wHub.reached a = true ∧ (wHub.reg a).getLsbD 8 = true
       ∧ ((wHub.setReg a 0x0A).reg a).getLsbD 8 = false ∧ (wHub.ring true 0).backlog = [])
    ∧ wHub.reached F.PARTCTL_mode.a = true
    ∧ ((wMember wHub).pi F.PARTCTL_window 0 8).plan.isSome = true ∧ wPlan.chunkGr ≤ ((wMember wHub).pi F.PARTCTL_window 0 8).gi F.PARTCTL_window 0
    ∧ (wMember wHub).plan.isSome = true ∧ ¬ wPlan.chunkGr ≤ ((wMember wHub).pi F.PARTCTL_window 0 0).gi F.PARTCTL_window 0 := by decide +kernel

theorem witness_RepairsAndManagement :
    let h : Hub := { wHub with regs := smPut wHub.regs F.STONESPARE_spares.a 3, pw := { inReg := 1 } }
    pairOk 16 (0xFFFC0003 : BitVec 32).toNat = true ∧ h.reached F.STONERETIRE_stone.a = true ∧ h.gi F.STONESPARE_spares 0 ≠ 0
    ∧ ({ h with regs := smPut h.regs F.STONESPARE_spares.a 0 } : Hub).gi F.STONESPARE_spares 0 = 0
    ∧ h.reached F.MOLLANE_lane.a = true
    ∧ (let g := ((h.pi F.MOLPSTAT_state 0 2).p F.MOLCTL_lane_spare_en 1)
       g.portUp 0 = true ∧ g.on F.MOLCTL_lane_spare_en = true ∧ g.gi F.MOLLANE_lane 0 = 0xF ∧ (g.port 0).swap = none)
    ∧ h.portUp 0 = false ∧ h.reached F.AIXBANKMAP_bank.a = true ∧ 3 ∉ h.aix.bad
    ∧ (let g := h.p F.AIXCTL_spare_en 1; g.on F.AIXCTL_spare_en = true ∧ g.aix.swap = none ∧ g.aix.spare = none)
    ∧ (h.p F.AIXCTL_spare_en 0).on F.AIXCTL_spare_en = false ∧ ({ h with aix := { bad := [3] } } : Hub).aix.bad = [3]
    ∧ h.pw.inReg.getLsbD 0 = true ∧ ({ h with pw := { inReg := 0 } } : Hub).pw.inReg.getLsbD 0 = false
    ∧ (h.p F.PWRCTL_mgmt_wr_en 1).on F.PWRCTL_mgmt_wr_en = true ∧ (h.p F.PWRCTL_mgmt_wr_en 0).on F.PWRCTL_mgmt_wr_en = false := by decide +kernel

theorem witness_RepairsAndManagement_smbus :
    let a := F.PWRSLEW_rate.a
    ((regRow a).map (fun r => (plainReg a r, r.fields.any (fun f => f.acc == .rw)))) = some (true, true) ∧ F.PWRCTL_lock.a ≤ a
    ∧ ((regRow 8).map (·.wide)).getD false = true ∧ ((regRow F.PWRCTL_lock.a).map (·.wide)).getD false = false := by decide +kernel

theorem witness_PairedWordWrites :
    pairOk 16 (0x12345678 : BitVec 32).toNat = false ∧ wHub.hubBad = false ∧ (∀ a ∈ Hub.pairRegs, wHub.reached a = true)
    ∧ (∃ a ∈ Hub.pairRegs, a % 8 = 0) ∧ (∃ a ∈ Hub.pairRegs, 4 ≤ a ∧ (a - 4) % 8 = 0) ∧ wHub.stage 0 = true
    ∧ wHub.pw.inReg.getLsbD 0 = true ∧ (wHub.p F.PWRCTL_mgmt_wr_en 1).on F.PWRCTL_mgmt_wr_en = true := by decide +kernel

/-! ### Witnesses: links, Sluice, power, resets, formation and time -/

def wFrame (typ : BitVec 4) (dst : BitVec 6) (lseq : BitVec 32) : Frame :=
  { typ := typ, poison := false, unconf := false, last := false, src := 1, dst := dst, queue := 2, lseq := lseq, tag := 0, valid := 511, frag := 0
    payload := [] }

theorem witness_MolairLinks :
    let h := wLinked (wMember wHub)
    h.portUp 0 = true ∧ h.on F.MOLCTL_enable = true ∧ h.inj = [] ∧ (wFrame 1 0 0).lseq = (h.port 0).recvSeq
    ∧ bitsOf (wFrame 1 0 0).tag.toNat 31 16 = h.stepNo % 2 ^ 16 ∧ 4 < (wFrame 9 0 0).typ.toNat ∧ (wFrame 3 0 0).dst.toNat = h.dev
    ∧ (wFrame 3 1 0).dst.toNat ≠ h.dev ∧ (h.route 1 0).isSome = true
    ∧ newer 32 (wFrame 3 0 4).lseq.toNat (h.port 0).recvSeq.toNat = true ∧ ¬ (wHub.portUp 0 = true)
    ∧ (let p : Port := { replay := [(wFrame 3 0 6, 8), (wFrame 3 0 7, 7)] }
       p.replay.findIdx? (fun f => f.1.lseq == 6) = some 0 ∧ (∃ f ∈ p.replay.drop 0, 8 ≤ f.2)
       ∧ p.replay.findIdx? (fun f => f.1.lseq == 7) = some 1 ∧ (∀ f ∈ p.replay.drop 1, f.2 < 8) ∧ p.waitq = []
       ∧ p.replay.findIdx? (fun f => f.1.lseq == 9) = none)
    ∧ (let g := h.p F.MOLCTL_lane_spare_en 1; g.on F.MOLCTL_lane_spare_en = true ∧ g.gi F.MOLLANE_lane 0 = 0xF ∧ (g.port 0).swap = none)
    ∧ h.nt.toNat < (h.port 0).lastRx.toNat + 10000 ∧ h.dev - h.position ≤ 1 ∧ 1 < h.dev - h.position + h.g F.POOLROLE_size ∧ h.faulted = false := by
  decide +kernel

theorem witness_MolairLinks_silence :
    let h : Hub := { wLinked (wMember wHub) with nt := 20000 }
    let u := ((h.pi F.MOLPSTAT_state 15 4).devEv 0x0203 4 (15 + 512)).p F.MOLSTAT_port_fail 1
    let g := u.setPort 15 { u.port 15 with replay := [], waitq := [], swap := none }
    (h.port 15).lastRx.toNat + 10000 ≤ h.nt.toNat ∧ (h.pi F.MOLPSTAT_state 15 2).portUp 15 = true ∧ g.parallelPort 15 = none
    ∧ g.groupPorts.contains (h.gi F.MOLREMAP_primary 15) = false ∧ g.groupPorts.contains (h.gi F.MOLREMAP_second 15) = false := by decide +kernel

theorem witness_SluiceInstants :
    let tm : Nt := 960000000
    let h := ((wHub.p F.SLCTL_sample_en 1).stamp tm)
    h.nt = tm ∧ h.sl.lastRefill < tm ∧ tm.toNat % (h.slPeriod * 1000) = 0 ∧ h.hubBad = false
    ∧ h.on F.SLCTL_sample_en = true ∧ h.sl.lastSample < tm ∧ tm.toNat % (max 1 (h.slReg 0x3400C % 2 ^ 20) * 1000) = 0
    ∧ (h.pathOf .host).isSome = true ∧ (h.pathOf .grnWrite).isSome = true ∧ (h.pathOf (.molair 0)).isSome = true
    ∧ smGet 0 h.sl.serv Hub.hostPath.key = 0 ∧ (∀ q, q < Hub.hostPath.n → Hub.hostPath.elig h q = false)
    ∧ (let it : SlItem := { enq := 0, head := 9000, load := .grn 2 }
       let g : Hub := { wHub with sl := { grn := [(12, [it])] } }; (smGet [] g.sl.grn 12).length = 1) := by decide +kernel

theorem witness_SluiceInstants_served :
    let it : SlItem := { enq := 0, head := 64, load := .frame (wFrame 3 1 0) }
    let h : Hub := { wLinked wHub with sl := { dyn := [(0, [it])], defi := [(0, 4096)], serv := [(0, 1)], dTok := [(0, 4096)], qTok := [(0, 4096)] }
                                       ports := List.replicate 16 { credits := List.replicate 16 8 } }
    smGet 0 h.sl.serv (Hub.dynPath 0).key = 0 + 1 ∧ (Hub.dynPath 0).elig h 0 = true ∧ (Hub.dynPath 0).len h 0 ≤ h.defOf (Hub.dynPath 0) 0 := by
  decide +kernel

theorem witness_PowerAndSupplies :
    let on : Hub := { wHub with pw := { inReg := 0xF, ok := true } }
    let off : Hub := { wHub with pw := { inReg := 0xF, off := true } }
    ({ inReg := 7 } : Power).inReg.toNat = 2 ^ 3 - 1 ∧ ({ inReg := 6 } : Power).inReg.getLsbD 0 = false
    ∧ on.pw.off = false ∧ on.pw.ok = true ∧ off.pw.off = true ∧ off.pw.inReg = 0xF ∧ off.pw.trip = false
    ∧ Hub.tripAt 0 ≤ 130 + on.offsetOf 0 ∧ 20 + on.offsetOf 8 < Hub.tripAt 8 ∧ 20 + on.offsetOf 8 < (on.showTemp 8 20).warnAt 8
    ∧ (on.showTemp 8 104).warnAt 8 ≤ 104 + on.offsetOf 8 ∧ 104 + on.offsetOf 8 < Hub.tripAt 8 ∧ (on.showTemp 8 104).on F.PWRSTAT_tj_warn = false
    ∧ (on.p F.PWRCTL_brk_en 1).on F.PWRCTL_brk_en = true ∧ on.on F.PWRSTAT_braking = false ∧ (on.p F.PWRSTAT_braking 1).on F.PWRSTAT_braking = true
    ∧ on.pw.brkInj = none
    ∧ (let r : Power := { reqs := [(0, 24)], tokens := 40 }; Hub.firstReq r.reqs = some (0, 24) ∧ 0 < r.tokens ∧ r.grantAt ≤ on.nt)
    ∧ Hub.firstReq [] = none ∧ on.stage 0 = true := by decide +kernel

theorem witness_PowerAndSupplies_warm :
    let on : Hub := { wHub with pw := { inReg := 0xF, ok := true }, nt := 0xFFFFFFFF }
    let g := on.measuredAll []
    let b := (on.pi F.PWRHBMT_degc 3 93).measuredAll []
    (∀ d, d < 5 → g.tempOf d + 10 ≤ g.tjWarnAt) ∧ (∀ k, k < 8 → g.tempOf (8 + k) + 10 ≤ g.tjWarnAt) ∧ (∀ k, k < 8 → g.tempOf (8 + k) < 92)
    ∧ ¬ (∀ k, k < 8 → b.tempOf (8 + k) < 92)
    ∧ on.pw.hold = false ∧ on.pw.lastV.toNat + 1000000 ≤ on.nt.toNat ∧ (on.p F.PWRSTAT_tj_warn 1).on F.PWRSTAT_tj_warn = true := by decide +kernel

theorem witness_Resets :
    let down : Hub := { wHub with pw := { perst := true, ok := true, inReg := 0xF } }
    down.pw.perst = true ∧ down.pw.ok = true ∧ down.sec.prov.isNone = true ∧ ({ down with pw := { perst := true } } : Hub).pw.ok = false
    ∧ ({ wHub with pw := { perst := false } } : Hub).pw.perst = false ∧ wHub.stage 0 = true ∧ pairOk 16 (0xFF5A00A5 : BitVec 32).toNat = true
    ∧ bitsOf (0xFF5A00A5 : BitVec 32).toNat 7 0 = 0xA5 ∧ pairOk 16 (0xFFFE0001 : BitVec 32).toNat = true
    ∧ bitsOf (0xFFFE0001 : BitVec 32).toNat 7 0 ≠ 0xA5 ∧ ({ wHub with regs := smPut wHub.regs 0x48008 0 } : Hub).stage 0 = false := by decide +kernel

/-- The hub while it forms: stage `k` is the next one. -/
def wStage (k : Nat) : Hub := { wForming (2 ^ k - 1) with regs := smPut (wForming (2 ^ k - 1)).regs 0x48004 0 }

def wTopo : TopoRec := { slot := 3, serial := 5, fwver := 0, arith := 0, profile := true, nodeId := 0, ports := [], lastNt := 0, grnNt := 0, ok := true }

theorem witness_FormationStages :
    (∀ k, 1 ≤ k → k < 12 → (wStage k).forming k = true ∧ ∀ j, j < k → (wStage k).stage j = true)
    ∧ (wStage 1).pw.grantAt ≤ (wStage 1).nt
    ∧ (let h := wHub.p F.PWRDOM_on 0xFFFFFFFF; (∀ d ∈ Hub.bootDomains, h.powered d = true))
    ∧ (wStage 3).testedStones [] ≠ none ∧ smLook (wStage 4).nf.heard 3 = none ∧ (wLinked (wStage 4)).portUp 0 = true
    ∧ wTopo.ok = true ∧ (wStage 4).stage 5 = false ∧ wTopo ∉ (wStage 4).nf.recs
    ∧ (wStage 5).on F.NFSTAT_join_wait = false ∧ (wStage 5).on F.NFSTAT_test = false ∧ ((wStage 5).p F.NFSTAT_test 1).on F.NFSTAT_test = true
    ∧ (let d : Hub := { wHub with nf := { digest := some (5, 0) } }; d.nf.digest = some (5, 0) ∧ d.stage 0 = true)
    ∧ (10 ≤ ({ good := 10 } : Form).good) ∧ (wStage 7).ownTime = false
    ∧ ({ wStage 7 with nt := 0xFFFFFFFF } : Hub).nf.electNt.toNat + 200000000 ≤ ({ wStage 7 with nt := 0xFFFFFFFF } : Hub).nt.toNat := by decide +kernel

theorem witness_TimeAndReadiness :
    let h : Hub := wHub.p F.NFSTAT_nt_valid 1
    let z : Hub := { h with nt := 0xFFFFFFFF }
    h.inj = [] ∧ h.stage 0 = true ∧ h.ownTime = false ∧ (h.p F.NFSTAT_master 1).on F.NFSTAT_master = true ∧ h.stage 6 = true
    ∧ (wStage 6).stage 6 = false ∧ h.nf.dropNt ≤ h.nt ∧ h.on F.NFSTAT_holdover = false ∧ z.nf.fineNt.toNat + 20000000 ≤ z.nt.toNat
    ∧ ({ holdNt := some 5 } : Form).holdNt = some 5 ∧ 5 + 100000000 ≤ z.nt.toNat
    ∧ z.stage 7 = true ∧ max z.nf.coarseNt.toNat z.nf.fineNt.toNat + 3000000 ≤ z.nt.toNat ∧ z.on F.NFSTAT_nt_valid = true
    ∧ z.on F.HDEVIDX_spare = false ∧ (0 : BitVec 6).toNat = z.dev ∧ (2 : BitVec 6).toNat ≠ z.dev
    ∧ (wStage 8).stage 2 = true ∧ (wStage 8).nf.grnOn = false ∧ z.nf.t0.toNat + 1000000000 ≤ z.nt.toNat
    ∧ ({ wStage 8 with nf := { grnOn := true } } : Hub).nf.grnOn = true
    ∧ ({ wStage 8 with gr := { started := true, drain := some ⟨[], 0xFFFFFFFF00000000⟩ } } : Hub).drained = true
    ∧ (wStage 9).forming 9 = true ∧ (wStage 9).stage 3 = true ∧ (wStage 9).stage 7 = true ∧ (wStage 9).stage 8 = true
    ∧ (wStage 10).forming 10 = true ∧ (wStage 10).stage 9 = true ∧ (wStage 11).forming 11 = true ∧ (wStage 11).stage 10 = true
    ∧ (wStage 11).g F.POOLROLE_size = 0 := by decide +kernel

/-! ### Witnesses: the statements' further clauses, block, sessions, lines, commands, transfers -/

/-- XKVW in a decode step, in a prefill grain, and where no run, model or shard is there. -/
theorem witness_MoveAndKvSlots_targets :
    let w := BitVec.ofNat 64 (3 * 2 ^ 56 + 8 * 2 ^ 42 + 4 * 2 ^ 12)
    let g : Hub := { wStepping with grp := { cur := some { wStep with chunks := [(1, 2, 64)] } } }
    wStepping.kvTarget none (wf w 41 26) = some (1, 2) ∧ g.kvTarget (some 2) 63 = some (1, 65) ∧ g.kvTarget (some 2) 64 = none
    ∧ wHub.kvTarget none 0 = none ∧ wHub.model = none ∧ wHub.stoneShard 0 = none := by decide +kernel

theorem witness_LinkSlots_frames :
    let h := wMember wHub
    let e := leatOf 0x203
    (h.leat 0).map (fun e => (e.lport, e.recv, e.frames)) = some (e.lport, e.recv, e.frames) ∧ e.recv = false ∧ h.on F.NFSTAT_test = false ∧ h.portOf e.lport < h.ports.length
    ∧ (h.port (h.portOf e.lport)).replay.length + e.frames ≤ 256
    ∧ (let p : Port := { replay := List.replicate 255 (wFrame 3 0 0, 0) }; ¬ p.replay.length + e.frames ≤ 256)
    ∧ (h.leat 2).isNone = true ∧ (h.leat 1).any (·.recv) = true ∧ (wHub.leat 0).isNone = true := by decide +kernel

theorem witness_LinkSlots_grains :
    let u : SlotUse := { unit := unitLink, steps := 1 }
    let x (n : Nat) : Stone := { grain := some (2, BitVec.ofNat 15 n, 0, 0) }
    (∀ g, (x ((x 0).issueAt u)).grain = some g → (x ((x 0).issueAt u)).issueAt u - g.2.2.2 = g.2.1.toNat)
    ∧ ¬ (∀ g, (x 9).grain = some g → (x 9).issueAt u - g.2.2.2 = g.2.1.toNat)
    ∧ (wMember wHub).multiPart = false ∧ (wMember wHub).g F.POOLROLE_size ≠ 0 := by
  refine ⟨?_, ?_, by decide +kernel, by decide +kernel⟩
  · intro g hg
    cases hg
    decide +kernel
  · intro h
    exact absurd (h _ rfl) (by decide +kernel)

theorem witness_Staging_not_due :
    (∀ p, ¬ (wHub.plan = some p)) ∧ ¬ ((0 : Nat) < (wHub.grp.issued.getD 0 (0, 0)).1) := by
  refine ⟨fun p h => ?_, by decide +kernel⟩
  have e : wHub.plan = none := by decide +kernel
  rw [e] at h
  cases h

/-- A session being demoted. -/
def wDemote : State := wState (wWith { wSess S.parked with demote := true })

theorem witness_SessionFields_held :
    (∀ k, k < 8 → Runs wDemote 1005 0 (wWord 0x26 0 15 (k * 2 ^ 40 + 1)) 0x26) ∧ (wDemote.hub.s 0).demote = true := by
  unfold Runs; decide +kernel

theorem witness_SessionFields_bounds :
    let s (v : W64) : State := wReg1 S.ready v
    let w (k : Nat) : W64 := wWord 0x26 0 1 (k * 2 ^ 40)
    (∀ k, k < 9 → Runs (s (2 ^ 32)) 1005 0 (w k) 0x26) ∧ ((s (2 ^ 32)).hub.s 0).r.rReg 1 0 = 2 ^ 32 ∧ ((s (2 ^ 32 - 1)).hub.s 0).r.rReg 1 0 = 2 ^ 32 - 1
    ∧ ((s (2 ^ 48)).hub.s 0).r.rReg 1 0 = 2 ^ 48 ∧ ((s 2).hub.s 0).r.rReg 1 0 = 2 ∧ Runs (s 2) 1005 0 (w 6) 0x26 ∧ Runs (s (2 ^ 48)) 1005 0 (w 4) 0x26 := by
  unfold Runs; decide +kernel

theorem witness_SessionWaits_held :
    Runs wDemote 1005 0 (wWord 0x10 1 0 0x302) 0x10 ∧ Runs wDemote 1005 0 (wWord 0x33 0 0 0) 0x33 ∧ Runs wDemote 1005 0 (wWord 0x35 0 0 3) 0x35
    ∧ Runs wDemote 1005 0 (wWord 0x70 0 0 1) 0x70 ∧ ((wIn S.ready).hub.s 0).demote = false := by
  unfold Runs; decide +kernel

theorem witness_SessionTransitions_more :
    let p : State := wState (wWith { wSess S.waiting with r := { (wSess S.waiting).r with period := 5 } })
    let t : State := wState (wWith { wSess S.parked with r := { (wSess S.parked).r with ttlArmed := true, expiry := 0xFFFF } })
    Runs p 1005 0 (wWord 0x20 0 0 0) 0x20 ∧ (p.hub.s 0).r.period ≠ 0 ∧ (p.hub.s 0).intakes = 0 ∧ ((wIn S.ready).hub.s 0).r.period = 0
    ∧ Runs t 1005 0 (wWord 0x21 1 0 0) 0x21 ∧ (t.hub.s 0).demote = false ∧ (t.hub.stamp 1005).nt.toNat < (t.hub.s 0).r.expiry.toNat
    ∧ (let s := wState (wLinked (wReg1 S.parked 1).hub)
       Runs s 1005 0 (wWord 0x22 2 1 0) 0x22 ∧ s.hub.holds 0 = false ∧ s.hub.rotating 0 = false ∧ (s.hub.s 0).intakes = 0) := by
  unfold Runs; decide +kernel

theorem witness_SessionBirthAndDeath_free :
    ((wIn S.ready).hub.s 0).actions = [] ∧ ((wIn S.ready).hub.s 0).intakes = 0
    ∧ (wFamily.hub.s 1).actions = [] ∧ (wFamily.hub.s 1).relHeld = none ∧ (wFamily.hub.s 1).r.state ≠ S.migrating := by decide +kernel

theorem witness_SessionRequests_forms :
    let s : State := wState { wWith (wSess S.ready) with im := { (wWith (wSess S.ready)).im with models := [{ wModel with maxPos := 4096 }] } }
    let f : State := wState ((wWith { wSess S.ready with r := { (wSess S.ready).r with committed := 0xFFFFFFFF } }))
    (s.hub.s 0).r.committed.toNat < s.hub.ctxLimit ∧ f.hub.ctxLimit ≤ (f.hub.s 0).r.committed.toNat ∧ Runs f 1005 0 (wWord 0x32 1 0 5) 0x32
    ∧ Runs s 1005 0 (wWord 0x32 1 0 5) 0x32 ∧ (f.hub.s 0).r.omm = false ∧ (f.hub.s 0).r.dlate = false ∧ f.hub.needsSeal (f.hub.s 0).r = false
    ∧ f.hub.holds 0 = false
    ∧ (let d : State := wState (wWith { wSess S.admitted with pendIn := 1 })
       Runs d 1005 0 (wWord 0x31 1 2 (3 * 2 ^ 46)) 0x31 ∧ (d.hub.s 0).pendIn ≠ 0) := by
  unfold Runs; decide +kernel

theorem witness_SessionOutputs_forms :
    let x := wSess S.ready
    let s : State := wState (wWith { x with held := [1, 2] })
    let o : State := wState ((wWith x).pi F.CMPSTAT_overflow 0 1)
    Runs s 1005 0 (wWord 0x33 0 0 0) 0x33 ∧ (s.hub.s 0).held ≠ [] ∧ (s.hub.s 0).demote = false ∧ ((wIn S.ready).hub.s 0).held = []
    ∧ Runs (wIn S.halted) 1005 0 (wWord 0x33 0 0 0) 0x33 ∧ Runs s 1005 0 (wWord 0x35 0 0 0) 0x35 ∧ Runs s 1005 0 (wWord 0x35 0 0 3) 0x35
    ∧ smLook s.hub.im.grams 3 = none ∧ Runs s 1005 0 (wWord 0x35 0 0 (2 ^ 46 + 6)) 0x35 ∧ smLook s.hub.im.stopSets 6 = none
    ∧ Runs s 1005 0 (wWord 0x35 0 0 (2 ^ 46)) 0x35 ∧ (s.hub.s 0).r.stopSet.toNat = 0 ∧ Runs o 1005 0 (wWord 0x70 0 0 1) 0x70
    ∧ o.hub.gi F.CMPSTAT_overflow 0 = 1 := by
  unfold Runs; decide +kernel

theorem witness_SessionOutputs_set :
    let x := wSess S.ready
    let s : State := wState { wWith { x with held := [1, 2] } with im := { (wWith x).im with stopSets := [(6, wStop)] } }
    Runs s 1005 0 (wWord 0x35 0 0 (2 ^ 46 + 6)) 0x35 ∧ (smLook s.hub.im.stopSets 6).isSome = true ∧ (s.hub.s 0).r.stopSet.toNat ≠ 6
    ∧ (s.hub.s 0).held ≠ [] := by
  unfold Runs; decide +kernel

theorem witness_ActivationExecutes_forms :
    let w := wWord 0x34 1 0 0
    let b := wWord 0x01 0 0 0
    let h (v : W64) : Hub := { wWith (wSess S.ready) with seqq := [1, 0], im := { progs := [(0, [v, 0])] } }
    let u : Hub := { h w with writes := [(4, { addr := 0, data := [], sess := some 0 })] }
    let e : Hub := { wWith { wSess S.ready with r := { (wSess S.ready).r with pc := 16 } } with seqq := [0] }
    (u.seqq.filter (fun j => u.seqOf (j.toNat % 32) == u.seqOf 0)).head? = some 0 ∧ (u.stamp 1005).boundDue = false ∧ u.runs 0 = true ∧ (u.stamp 1005).rootsOk (u.s 0).r = true ∧ u.unseen 0 = true
    ∧ (u.prog 0)[(u.s 0).r.pc.toNat]? = some w ∧ u.seqSpare < 4 ∧ iw b 63 56 = 0x01 ∧ iw b 23 0 = ((h b).s 0).r.pc.toNat
    ∧ ((h b).prog 0)[((h b).s 0).r.pc.toNat]? = some b ∧ (h b).runs 0 = true
    ∧ (e.prog 0).length ≤ (e.s 0).r.pc.toNat ∧ e.runs 0 = true ∧ (e.s 0).runnable = true ∧ (e.s 0).dropHeld = false
    ∧ ¬ ((wHub.seqq.filter (fun j => wHub.seqOf (j.toNat % 32) == wHub.seqOf 0)).head? = some 0) := by decide +kernel

theorem witness_LinesDiscarded_power : wHub.pw.off = false ∧ wCold.pw.off = false := by decide +kernel

theorem witness_HdmAccesses_forms :
    let h : Hub := { (wIn S.ready).hub with keySlots := [(3, 9), (67, 9)] }
    let o := wHub.p F.HCTL_ticket_en 0
    h.answers = true ∧ (wHub.p F.HCTL_bi_en 1).on F.HCTL_bi_en = true ∧ smLook h.keySlots 67 = some 9 ∧ h.gi F.CMDWIN_enable 1 = 0
    ∧ o.hubBad = false ∧ o.inj = [] ∧ o.answers = true ∧ o.loadsServed = false ∧ ({ wHub with nf := { portDown := true } } : Hub).answers = false ∧ wCold.stage 2 = false
    ∧ wHub.stage 2 = true := by decide +kernel

theorem witness_SessionCommands_reclaim_newer :
    let s := wState (wWith { wSess S.ready with seen := 1, r := { (wSess S.ready).r with omm := true } })
    Commands s 1005 0 0x0C (wNamed []) 0 ∧ newer 16 (s.hub.s 0).r.ownEpoch.toNat (s.hub.s 0).seen.toNat = false
    ∧ (let n := wState (wWith { wSess S.ready with seen := 1, r := { (wSess S.ready).r with omm := true }.setOwner 0 2 })
       Commands n 1005 0 0x0C (wNamed []) 0 ∧ newer 16 (n.hub.s 0).r.ownEpoch.toNat (n.hub.s 0).seen.toNat = true) := by
  unfold Commands; decide +kernel

theorem witness_SessionCommands_period :
    let s := wState (wWith { wSess S.waiting with r := { (wSess S.waiting).r with period := 1 } })
    let t := wState (wWith { wSess S.parked with r := { (wSess S.parked).r with ttlArmed := true, expiry := 1006 } })
    Commands s 1005 0 0x04 (wNamed []) 0 ∧ (s.hub.s 0).r.period ≠ 0 ∧ Commands t 1005 0 0x05 (wNamed []) 0
    ∧ (t.hub.stamp 1005).nt < (t.hub.s 0).r.expiry := by
  unfold Commands; decide +kernel

theorem witness_SessionCommands_parked :
    let s := wState (wLinked (wWith (wSess S.parked)))
    let g := wState (wWith { wSess S.halted with r := { (wSess S.halted).r with logonly := true } })
    Commands s 1005 0 0x06 (wNamed [(32, 1)]) 0 ∧ (s.hub.s 0).blk = none ∧ Commands g 1005 0 0x07 (wNamed [(32, 3)]) 0 := by
  unfold Commands; decide +kernel

theorem witness_SessionRecordCommands_expiry :
    let r := (wSess S.waiting).r
    let s := wState (wWith { wSess S.waiting with blk := some (.wait 1), r := { r with waitMask := 0x200, waitExp := 1006 } })
    Commands s 1005 0 0x08 (wNamed [(32, 9)]) 0 ∧ (s.hub.stamp 1005).nt < (s.hub.s 0).r.waitExp ∧ (s.hub.s 0).waitHit = false
    ∧ (s.hub.s 0).demote = false ∧ (s.hub.s 0).r.waitMask.getLsbD 9 = true
    ∧ Commands s 1005 0 0x08 (wNamed [(32, 15)]) 0 ∧ (s.hub.s 0).r.waitMask.getLsbD 15 = false := by
  unfold Commands; decide +kernel

theorem witness_SessionRecordCommands_held_bytes :
    let s := wState { wRich.hub with sess := [(0, { wSess S.ready with held := [1] })] }
    Commands s 1005 0 0x0A (wNamed [(32, 1), (34, 6)]) 0 ∧ (s.hub.s 0).r.stopSet.toNat ≠ 6 ∧ (s.hub.s 0).held ≠ []
    ∧ s.hub.sec.rots.length < 4096 := by
  unfold Commands; decide +kernel

theorem witness_ImageCommands_slots :
    let h := (wMember (wIn S.ready).hub).stamp 1005
    let l := wLine [(48, 0)]
    h.slotActive 0 = true ∧ h.slotActive 1 = false ∧ ((wIn S.ready).hub.stamp 1005).slotActive 1 = false
    ∧ (smGet {} h.im.adapters 1).vers.countP (fun a => a.commit.isSome) < 4 ∧ h.admits 0 0x17 l = true := by decide +kernel

/-- A device of a group of 16. -/
def wSmall (h : Hub) : Hub := { wMember h with regs := smPut h.regs 0x20004 0x100001 }

theorem witness_MigrationReceives_space :
    let h := (wIn S.ready).hub.pi F.PARTCTL_present 0 1
    let d := (wSmall h).dropStaged wOffer.sk
    (h.offerSpace 1 wOffer (h.rootIndex 1)).isSome = true ∧ h.groupN = 1
    ∧ (d.offerSpace 20 { wOffer with kvmode := false } (d.rootIndex 1)).isSome = true ∧ d.sameGroup 20 = false ∧ d.groupN = 16
    ∧ (d.offerSpace 20 { wOffer with kvmode := false, kvLen := 64 } (d.rootIndex 1)).isNone = true
    ∧ (h.p F.TIERCTL_evict_en 1).on F.TIERCTL_evict_en = true ∧ (h.p F.TIERCTL_evict_en 0).on F.TIERCTL_evict_en = false := by decide +kernel

theorem witness_MigrationReceives_older :
    let h := (wIn S.ready).hub
    h.findSk 9 = some 0 ∧ newer 16 ((0 : BitVec 16) - 1).toNat (h.s 0).r.ownEpoch.toNat = false
    ∧ newer 16 ((2 : BitVec 16) - 1).toNat (h.s 0).r.ownEpoch.toNat = true ∧ (h.s 0).r.omm = false
    ∧ (let g : Hub := { h with im := { h.im with grams := [(3, wGram)], stopSets := [(6, wStop)] } }
       (∃ y, smLook g.im.grams 3 = some y ∧ y.digest = 0) ∧ (smLook g.im.stopSets 6).isSome = true ∧ smLook g.im.stopSets 5 = none)
    ∧ ¬ (∃ y, smLook h.im.grams 3 = some y ∧ y.digest = 0) := by
  refine ⟨by decide +kernel, by decide +kernel, by decide +kernel, by decide +kernel, ⟨⟨wGram, by decide +kernel, by decide +kernel⟩, by decide +kernel,
    by decide +kernel⟩, ?_⟩
  rintro ⟨y, e, _⟩
  have n : smLook (wIn S.ready).hub.im.grams 3 = none := by decide +kernel
  rw [n] at e
  cases e

theorem witness_MigrationReceives_parts :
    let h := (wIn S.ready).hub
    let p : PartBody := .root 0 64 0 [] false false
    let r : PartBody := .record []
    (∃ sh kv hd hi b f, p = PartBody.root sh kv hd hi b f) ∧ (∃ b, r = .record b) ∧ smLook h.migIn 12 = none ∧ (wSmall h).groupN ≠ 1 ∧ h.groupN = 1
    ∧ h.findSk 12 = none ∧ p ≠ .fin ∧ (wMig.lastNt.toNat + h.migTmo ≤ (0 : Nt).toNat → False) := by
  refine ⟨⟨_, _, _, _, _, _, rfl⟩, ⟨_, rfl⟩, ?_, ?_, ?_, ?_, ?_, ?_⟩ <;> decide +kernel

theorem witness_MigrationReceives_mirror :
    let h := (wIn S.ready).hub
    let ro : Hub := { h with regs := smPut h.regs 0x2C004 3 }
    let rw : Hub := { h with regs := smPut h.regs 0x2C004 1 }
    let mine (e : Nat × DurWait) : Bool := match e.2 with
      | .intakeMirror j _ _ => j == 0
      | _ => false
    let q : Hub := { h with durs := [(4, .intakeMirror 0 none [7])] }
    rw.grnLog (objKey 2 5) 0 0 0 = some rw ∧ ro.grnLog (objKey 2 5) 0 0 0 = none ∧ h.findSk 12 = none
    ∧ q.findSk 9 = some 0 ∧ (1 : BitVec 6) ≠ (q.s 0).r.ownDev ∧ (q.durs.find? mine).map (·.1) = some 4 := by
  intro h ro rw mine q
  have a : rw.grnRo = false := by decide +kernel
  have b : ro.grnRo = true := by decide +kernel
  have c : rw.grnHeld = 0 := by decide +kernel
  refine ⟨by simp [Hub.grnLog, Hub.grnRoom, a, c], by simp [Hub.grnLog, Hub.grnRoom, b], ?_, ?_, ?_, ?_⟩ <;> decide +kernel

theorem witness_MigrationSends_more :
    let a := wMoving { wOut with answered := true }
    let z := wMoving { wOut with due := 1001 }
    let b : Hub := wWith { wSess S.migrating with migOut := some wOut, blk := some (.migrate 2), r := { (wSess S.migrating).r with prior := S.ready } }
    a.outTo 1 9 = some (0, { wOut with answered := true }) ∧ z.nt < ({ wOut with due := 1001 } : MigOut).due
    ∧ b.outTo 1 9 = some (0, wOut) ∧ (b.s 0).blk = some (.migrate 2) ∧ (a.s 0).r.prior ≠ S.faulted := by decide +kernel

theorem witness_OwnershipMessages_more :
    let h := (wIn S.ready).hub
    let x := wSess S.ready
    let n : Hub := wWith { x with probe := some (1, 500), r := ({ x.r with omm := true } : Rec).setOwner 0 3 }
    let g : Hub := ({ wHub with im := { plans := [(0, [{ wPlan with role := 2, base := 0 }])] } } : Hub).p F.POOLROLE_role 1
    newer 16 4 (n.s 0).r.ownEpoch.toNat = true ∧ (n.s 0).probe.map (·.1) = some 1 ∧ (n.s 0).r.omm = true
    ∧ ((wIn S.migrating).hub.s 0).r.state = S.migrating ∧ (wIn S.migrating).hub.findSk 9 = some 0 ∧ (h.s 0).relHeld = none
    ∧ ((wFault.p F.POOLROLE_role 1).g F.POOLROLE_size ≠ 0 ∧ (wFault.p F.POOLROLE_role 1).faulted = true)
    ∧ (g.g F.POOLROLE_size = 0) := by decide +kernel

theorem witness_OwnershipMessages_cases :
    let h := (wIn S.ready).hub
    let f : Hub := { wHub with sess := [(0, { fwd := 5 })], gens := [(0, 1)] }
    let g : Hub := ({ wHub with im := { plans := [(0, [{ wPlan with role := 2, base := 0 }])] } } : Hub).p F.POOLROLE_role 1
    let q := ((wMember wFault).p F.POOLROLE_role 2).stamp 1005
    (h.s 0).probe = none ∧ newer 16 0 (h.s 0).r.ownEpoch.toNat = false ∧ ¬ (nsiDev (nsiOf 1 0 1 5) = h.dev)
    ∧ (f.s 0).r.state = S.free ∧ (f.s 1).fwd = 0 ∧ smGet 0 f.gens 0 = 1 ∧ ((wIn S.migrating).hub.s 0).r.waitExp = 0
    ∧ ((g.stamp 1005).counted 0 0x19).fresh.2.inDecode = true ∧ ((wHub.stamp 1005).counted 0 0x19).fresh.2.inDecode = false
    ∧ (wHub.stamp 1005).admits 0 0x19 (wLine []) = true ∧ q.faulted = true := by decide +kernel

theorem witness_QuernCommands_places :
    let q : QIdx := { wIdx with edits := [{ who := .cmd (wSub 0x23), nt := 1005, w := 1 }, { who := .cmd (wSub 0x23), nt := 1005, w := 3 }] }
    q.edits.takeWhile (fun a => Hub.qBefore (a.nt, a.w) (1005, 2)) = q.edits.take 1 ∧ ({ wIdx with merge := some (4, []) } : QIdx).merge ≠ none
    ∧ ((wQuern wIdx).stamp 1005).qidx 0 = some wIdx ∧ ((wQuern wIdx).stamp 1005).qidx 63 = none := by decide +kernel

/-- An index of three items and a search that finds them all by its filter. -/
def wThree : QIdx :=
  let n (k : Nat) : QNode := { item := BitVec.ofNat 32 k, ins := 1, code := [], vec := [] }
  { wIdx with nodes := [(0, n 0), (1, n 1), (2, n 2)] }
def wFound : QSearch := { wSearch with req := { wReq with k := 3, filter := 1, brute := true }, start := 5, filt := [(0, 7)] }

theorem witness_QuernEvents_results :
    let a := wThree.answer wFound (wHub.g F.QBRUTE_items) []
    let h : Hub := { wHub with qn := { idx := [(0, wThree)], taken := [wFound] } }
    64 < (padTo (64 * cdiv (32 + 16 * a.ents.length) 64) (Hub.qBlock wFound a)).length ∧ h.qn.taken = [wFound] ∧ h.qidx wFound.idx = some wThree
    ∧ ({ wFound with who := .ins 0 5 } : QSearch).who = .ins 0 5 ∧ wHub.qn.taken = [] ∧ wHub.qn.waiting = [] := by decide +kernel

theorem witness_QuernEvents_nothing :
    (wQuern wIdx).qidx 0 = some wIdx ∧ wIdx.destroy = none ∧ wIdx.merge = none ∧ wHub.aix.swap ≠ some 3
    ∧ (let q : QIdx := { wIdx with destroy := some (wSub 0x21), reading := 1 }; (wQuern q).qIdle 0 q = false)
    ∧ (let q : QIdx := { wIdx with merge := some (4, [wSub 0x26]), want := [wSub 0x26] }; q.want.isEmpty = false ∧ q.gens = [{}])
    ∧ (wHub.p F.AIXCTL_scrub_en 0).on F.AIXCTL_scrub_en = false ∧ ({ wHub with aix := { spare := some 3 } } : Hub).aix.spare ≠ none := by
  decide +kernel

theorem witness_CutsAndRestores_more :
    let h := (wMember wHub).stamp 1005
    let c := (wFault.stamp 1005).counted 0 0x30
    (h.counted 0 0x30).g F.POOLROLE_size ≠ 0 ∧ (wLine [(32, 1)]).opd 32 1 ≠ (h.counted 0 0x30).g F.POOLROLE_base
    ∧ h.admits 0 0x30 (wLine [(32, 1)]) = true ∧ c.faulted = true ∧ wHub.ck.sends = [] ∧ (wMember wHub).g F.POOLROLE_size ≠ 0
    ∧ (let c : Hub := { wHub with ck := { bcopies := [(4, [], false)] } }
       c.ck.bcopies.find? (fun c => c.1 == 4 && !c.2.2) = some (4, [], false)) := by decide +kernel

theorem witness_CutsAndRestores_writes :
    let i : CutImg := { epoch := 4, step := 3, nt := 9, sess := [], gens := [], kv := {}, deferred := [] }
    let h : Hub := { wHub with ck := { writing := some (true, i) }, regs := smPut wHub.regs 0x2C004 1 }
    h.ck.writing = some (true, i) ∧ h.grnRo = false ∧ h.gr.objs = [] ∧ wHub.ck.writing = none
    ∧ (({ wHub with regs := smPut wHub.regs 0x2C004 2 } : Hub).grnObject (objKey 6 1) 6 64 0).isNone = true := by decide +kernel

theorem witness_SecurityCommandsAndEvents_more :
    let s : Hub := { wHub with regs := smPut (smPut wHub.regs 0x10 0x40) 0x40004 0x104, sec := { trngBad := true } }
    let h := s.stamp 1005
    h.profS = true ∧ wHub.profS = false ∧ h.sec.trngBad = true ∧ (wLine [(32, 16)]).opd 32 1 = 16 ∧ (wLine [(32, 2), (33, 0)]).opd 33 1 = 0
    ∧ ({ wHub with sec := { clear := none } } : Hub).sec.clear = none ∧ (wLine [(32, 1), (40, 64)]).opd 40 8 = 64 ∧ wHub.inj = [] := by
  decide +kernel

theorem witness_Diagnostics_more :
    (4 : BitVec 3).toNat ∈ [4, 5, 6] ∧ (0 : BitVec 3).toNat ∉ [4, 5, 6] ∧ ((wHub.stamp 1005).counted 0 0x51).diag.rings = wHub.diag.rings
    ∧ ({ wHub with diag := { stopped := [(0, 1)] } } : Hub).diag.stopped = [(0, 1)] ∧ (4 : BitVec 3).toNat < 5 := by decide +kernel

theorem witness_Injection_more :
    let on : Hub := { (wHub.p F.INTCTL_inject_en 1) with inj := List.replicate 16 { point := 1, mode := 0, count := 1, a := 0, b := 0, nt := 4 } }
    let off := wHub.p F.INTCTL_inject_en 0
    let t := ({ wHub with regs := smPut wHub.regs 0x10 0x40 } : Hub).p F.NFSTAT_test 1
    16 ≤ ((on.stamp 1005).counted 0 0x58).inj.length ∧ ((off.stamp 1005).counted 0 0x58).on F.INTCTL_inject_en = false
    ∧ ((off.stamp 1005).admits 0 0x58 (wLine [(32, 1)])) = true ∧ ((on.stamp 1005).admits 0 0x58 (wLine [(32, 1)])) = true
    ∧ t.on F.NFSTAT_test = true ∧ t.reached F.INTCTL_inject_en.a = true ∧ wHub.profS = false ∧ wHub.on F.HCTL_lock = false := by decide +kernel

/-- A session record one of whose paired words is damaged. -/
def wTorn : Sess := { wSess S.ready with r := { (wSess S.ready).r with ownChk := 5 } }

theorem witness_ScrubsAndRepairs_records :
    let h := wWith wTorn
    let g : Hub := { wMember (wWith (wSess S.ready)) with kv := { roots := [(rootKey ((wMember (wWith (wSess S.ready))).rootIx (wSess S.ready).r) 0, {})] } }
    Hub.badPair (h.s 0).r ≠ none ∧ 0 ∈ h.handles ∧ (h.s 0).actions = [] ∧ h.inj = [] ∧ h.handles.length = 1
    ∧ g.rootsOk (g.s 0).r = false ∧ (wIn S.ready).hub.rootsOk (wSess S.ready).r = true ∧ 0 ∈ g.handles := by decide +kernel

theorem witness_ScrubsAndRepairs_channels :
    let h := wHub.p F.INTCTL_chan_spare_en 1
    let g : Hub := { h with chCopy := [(0, 1, 0), (0, 2, 1)] }
    let named (c : Nat × Nat × Nat) : Bool := c.1 == 0 && c.2.1 == 3
    h.on F.INTCTL_chan_spare_en = true ∧ (h.chCopy ++ h.chReady).any named = false ∧ h.freeSpare 0 = some 0
    ∧ (g.chCopy ++ g.chReady).any named = false ∧ g.freeSpare 0 = none
    ∧ (g.chCopy ++ g.chReady).any (fun c => c.1 == 0 && c.2.1 == 2) = true ∧ 32 ≤ (32 : BitVec 6).toNat
    ∧ (wHub.p F.INTCTL_chan_spare_en 0).on F.INTCTL_chan_spare_en = false ∧ (wHub.p F.INTCTL_row_rep_en 0).on F.INTCTL_row_rep_en = false := by
  decide +kernel

theorem witness_StepBoundaries_frames :
    let h := wMember wHub
    let rx := h.gatherRx wPlan wBoundary.pos.toNat
    let two : Hub := { h with grp := { frames := [wBoundary] } }
    let last : Hub := { h with grp := { frames := (List.range 64).map (fun k => { wBoundary with pos := BitVec.ofNat 6 k }), ready := some 900 } }
    wBoundary.step.toNat = rx.stepNo ∧ wBoundary.slot.toNat = rx.g F.POOLPLAN_active ∧ rx.grp.frames.any (fun f => f.pos == wBoundary.pos) = false
    ∧ (two.gatherRx wPlan 1).grp.frames.any (fun f => f.pos == wBoundary.pos) = true ∧ (1 : BitVec 48).toNat ≠ rx.stepNo
    ∧ (0 : BitVec 6).toNat = h.position ∧ wHub.plan.isNone = true ∧ wHub.isReady = false ∧ last.isReady = false
    ∧ h.switching = false ∧ ¬ (h.gathered = true) ∧ last.gathered = true ∧ ¬ (last.boundNt wPlan ≤ last.nt.toNat)
    ∧ ({ last with nt := BitVec.ofNat 64 (last.boundNt wPlan) } : Hub).boundNt wPlan ≤ last.boundNt wPlan := by decide +kernel

theorem witness_StepBoundaries_extents :
    let x : Sess := { wSess S.reviving with revive := some { reserved := true } }
    let n : Sess := { x with extent := some (0, true) }
    let l : Sess := { n with log := [1] }
    x.r.state = S.reviving ∧ Hub.extHdrOk ((wWith x).extentOf 0).2 x = true ∧ (((wWith n).s 0).extent.map (·.2)).getD false = true
    ∧ ((wWith n).extentOf 0).2.recomputable 0 = true ∧ ((wWith l).extentOf 0).2.recomputable 0 = false
    ∧ (wSess S.reviving).revive = none ∧ Hub.extHdrOk (wWith x) { x with exthdr := [0] } = false := by decide +kernel

/-- A step of a session whose vocabulary is two tokens and which asks for `n` tokens. -/
def wSampling (n : BitVec 16) : Hub :=
  { wStepping.p F.HOPVOCAB_v 2 with sess := [(0, { wSess S.stepping with stepReq := some { n := n, draft := 0, addr := 0 } })] }
def wRun : Run := { h := 0, root := 1, k := 1, first := 2, inputs := [5], bucket := 0 }

theorem witness_SamplesDraftsIntakes_samples :
    let z : List (List F32) := [[0, 0x3F800000]]
    ((wSampling 1).gatherPos wRun 0 z).samps.getLast?.map (·.ends) = some (some St.ok)
    ∧ ((wSampling 4).gatherPos wRun 0 z).samps.getLast?.map (·.ends) = some none ∧ ((wSampling 4).gatherPos wRun 0 []).samps = []
    ∧ (wSampling 4).grp.cur = some wStep ∧ wStep.runs.find? (fun r => r.h == 0 && !r.done) = some wRun
    ∧ wStep.runs.find? (fun r => r.h == 1 && !r.done) = none ∧ wHub.grp.cur = none
    ∧ ((wSampling 4).kvFault wRun.root (wRun.first.toNat + wRun.k)).isSome = false := by decide +kernel

theorem witness_SamplesDraftsIntakes_drafts :
    let q : StepReq := { n := 4, draft := 2, addr := 64 }
    ((wWith { wSess S.stepping with stepReq := some q }).s 0).stepReq = some q ∧ ({ q with draft := 1 } : StepReq).draft.toNat < 2
    ∧ ({ q with buf := some none } : StepReq).buf ≠ none ∧ (wSess S.ready).stepReq = none := by decide +kernel

/-- An intake of one token, and a hub on which it waits. -/
def wIntake : IntakeReq := { h := 0, nt := 0, w := 0, sub := none, addr := 0, count := 1, tok := some 1 }
def wHopper (st : BitVec 4) (q : IntakeReq) : Hub := { (wWith (wSess st)).p F.HOPVOCAB_v 2 |>.p F.HOPCTL_enable 1 with hopq := [q] }

theorem witness_SamplesDraftsIntakes_intakes :
    let free (h : Hub) (q : IntakeReq) : Bool := !((h.s q.h).r.state == S.prefill || (h.s q.h).r.state == S.stepping)
    let h := wHopper S.ready wIntake
    let rd : IntakeRead := { descs := none, segs := [] }
    let w : IntakeReq := { wIntake with ready := false }
    let e : IntakeReq := { wIntake with segs := some (1, []) }
    h.hopq.find? (free h) = some wIntake ∧ wIntake.ready = true ∧ (wHopper S.prefill wIntake).hopq.find? (free (wHopper S.prefill wIntake)) = none
    ∧ (wHopper S.ready w).hopq.find? (free (wHopper S.ready w)) = some w ∧ ((wHopper S.faulted wIntake).s 0).r.state ∈ [S.faulted, S.migrating]
    ∧ ((wHopper S.free wIntake).s 0).r.state = S.free ∧ h.sealBad wIntake = none ∧ h.sealBad e = some (St.sealedRequired, 0)
    ∧ h.intakeTokens wIntake rd = .inr [1] ∧ h.intakeTokens { wIntake with tok := some 2 } rd = .inl St.badToken
    ∧ (h.s 0).r.committed.toNat + (h.s 0).pendIn.toNat + h.appending 0 + 1 ≤ (wMember h).ctxLimit ∧ h.ctxLimit < 2 ^ 32 := by decide +kernel

theorem witness_SamplesDraftsIntakes_granary :
    let ro : Hub := { wHub with regs := smPut wHub.regs 0x2C004 3 }
    let rw : Hub := { wHub with regs := smPut wHub.regs 0x2C004 1 }
    (∀ k, rw.grnLog k 0 0 0 = some rw) ∧ ∀ k n, ro.grnLog k 0 n 0 = none := by
  intro ro rw
  have a : rw.grnRo = false := by decide +kernel
  have b : ro.grnRo = true := by decide +kernel
  have c : rw.grnHeld = 0 := by decide +kernel
  exact ⟨fun k => by simp [Hub.grnLog, Hub.grnRoom, a, c], fun k n => by cases n <;> simp [Hub.grnLog, Hub.grnWrite, Hub.grnRoom, b]⟩

theorem witness_TimesReached_not_due :
    let w : Sess := { wSess S.waiting with blk := some (.wait 1), queued := 0x200, r := { (wSess S.waiting).r with waitMask := 0x200, waitExp := 1001 } }
    let p : Sess := { wSess S.parked with r := { (wSess S.parked).r with ttlArmed := true, expiry := 1001 } }
    (w.r.pending ||| w.queued) &&& w.r.waitMask ≠ 0 ∧ wHub.nt < w.r.waitExp ∧ ({ w with waitHit := true } : Sess).waitHit = true
    ∧ wHub.nt < (1001 : Nt) ∧ (wSess S.ready).blk = none ∧ wHub.nt < p.r.expiry ∧ (wSess S.parked).r.ttlArmed = false
    ∧ ({ count := 0, since := some 0 } : Irq).count = 0 ∧ (smGet {} wHub.irq 3).since = none
    ∧ wHub.nt.toNat < 0 + (wHub.pi F.INTMOD_holdoff 3 2).gi F.INTMOD_holdoff 3 * 1000 := by decide +kernel

theorem witness_TransfersReturn_waits :
    let d : DurWait := .intake 0 none [7] false
    let h : Hub := { wHub with durs := [(3, d), (4, d), (5, .intakeMirror 0 none [7])] }
    let b : Hub := { h with sl := { grn := [(1, [{ enq := 0, head := 64, load := .grn 3 }])] } }
    h.durHeld d = false ∧ h.grnWaits (.grn 3) = false ∧ h.laterIntake 3 d = false ∧ h.laterIntake 4 d = true ∧ b.grnWaits (.grn 3) = true
    ∧ h.durHeld (.intakeMirror 0 none [7]) = true ∧ smLook wHub.durs 3 = none ∧ (wHub.ring true 1).reading = false
    ∧ (wHub.ring false 1).reading = false ∧ (wHub.ring true 1).retryAt = none := by decide +kernel

theorem witness_TransfersReturn_writes :
    let w : WrWait := { addr := 0, data := [], sess := some 0 }
    let f : WrWait := { w with failed := true, retryAt := 1000 }
    w.failed = false ∧ w.first = none ∧ ({ w with first := some (64, []) } : WrWait).first = some (64, []) ∧ f.failed = true ∧ f.retryAt ≤ wHub.nt
    ∧ wHub.nt < ({ w with failed := true, retryAt := 1001 } : WrWait).retryAt ∧ smLook wHub.writes 4 = none ∧ smLook wHub.reads 4 = none
    ∧ smLook ({ wHub with reads := [(4, .draft 0)] } : Hub).reads 4 = some (.draft 0) := by decide +kernel

/-! ### Witnesses: further clauses, adapters, the Granary, register stores -/

theorem witness_AdaptersAndPools_forms :
    let a : AdVer := { ver := 1, commit := none, coord := 0, counted := true, freeAt := some 2000 }
    let h : Hub := { wHub with im := { adapters := [(4, { vers := [a] })] } }
    let r : Recomp := { slot := 0, demote := false, eff := 10, sub := none, begun := true }
    let m : Hub := wMember wHub
    h.adVer? 4 1 = some a ∧ a.ended = none ∧ h.nt < (2000 : Nt) ∧ (wMember h).g F.POOLROLE_size ≠ 0 ∧ h.nt < (1001 : Nt)
    ∧ a.counted = true ∧ ({ a with freeAt := none } : AdVer).freeAt = none ∧ (h.adVer? 5 1).isNone = true ∧ wHub.rcmp = none
    ∧ r.begun = true ∧ r.switched = false ∧ r.active = false ∧ m.changes 0 = false ∧ wHub.changes 0 = false ∧ m.changes 1 = true
    ∧ ¬ (r.eff.toNat + h.g F.POOLRCTMO_ms * 1000000 ≤ (10 : Nt).toNat) ∧ (!m.changes 0 || m.g F.POOLROLE_size == 0) = true
    ∧ (!m.changes 1 || m.g F.POOLROLE_size == 0) = false
    ∧ (let l : Hub := { m with grp := { frames := (List.range 64).map (fun k => { wBoundary with pos := BitVec.ofNat 6 k, swAck := true }) } }
       l.agreed = true) ∧ m.agreed = false ∧ ({ r with active := true } : Recomp).active = true := by decide +kernel

theorem fMin_le (h : Hub) (d : Nat) (hd : d < h.grnDies) : h.fMin.1 ≤ h.freePm d := by
  have k : ∀ (l : List Nat) (b : Nat × Nat), (l.foldl (fun best d => if h.freePm d < best.1 then (h.freePm d, d) else best) b).1 ≤ b.1
      ∧ ∀ d ∈ l, (l.foldl (fun best d => if h.freePm d < best.1 then (h.freePm d, d) else best) b).1 ≤ h.freePm d := by
    intro l
    induction l with
    | nil => intro b; exact ⟨Nat.le_refl _, fun d hd => by cases hd⟩
    | cons a l ih =>
      intro b
      rw [List.foldl_cons]
      obtain ⟨i, j⟩ := ih (if h.freePm a < b.1 then (h.freePm a, a) else b)
      have e : (if h.freePm a < b.1 then (h.freePm a, a) else b).1 ≤ b.1 ∧ (if h.freePm a < b.1 then (h.freePm a, a) else b).1 ≤ h.freePm a := by
        split <;> constructor <;> omega
      refine ⟨Nat.le_trans i e.1, fun d hd => ?_⟩
      rcases List.mem_cons.1 hd with rfl | hd
      · exact Nat.le_trans i e.2
      · exact j d hd
  exact (k (List.range h.grnDies) (1001, 0)).2 d (List.mem_range.2 hd)

/-- A die without a free block. -/
def wEmptyDie : Hub := { wHub with gr := { dies := [(0, ⟨[], []⟩), (2, ⟨[], []⟩)] } }

theorem witness_GranaryBlocks_idle :
    let h : Hub := { wEmptyDie.p F.GRNCTL_bg_gc_en 1 with nt := 0xFFFFFFFFFFFF }
    h.on F.GRNCTL_bg_gc_en = true ∧ h.gr.lastNt.toNat + max 100 (h.g F.GRNIDLE_us) * 1000 ≤ h.nt.toNat ∧ h.fMin.1 < h.gr.weir.1
    ∧ (wHub.p F.GRNCTL_bg_gc_en 0).on F.GRNCTL_bg_gc_en = false := by
  intro h
  refine ⟨by decide +kernel, by decide +kernel, ?_, by decide +kernel⟩
  have l := fMin_le h 0 (by unfold Hub.grnDies; split <;> decide)
  have z : h.freePm 0 = 0 := by decide +kernel
  have w : h.gr.weir.1 = 60 := rfl
  omega

/-- A Granary with a complete unit in its tun and an open stripe in every group; 2 is the stripe's first die, 9 its block there. -/
def wTun (st : SMap Stripe) : Hub :=
  { wHub with gr := { units := [(7, { key := objKey 2 1, idx := 0, kind := 2 })], tun := [7], stripes := st
                      opened := (List.range 48).map (fun k => (k, 0)), blks := [(blkKey 2 9, {})] } }

theorem witness_GranaryBlocks_tun :
    let st : Stripe := { stream := 0, group := 0, data := [(2, 9)], parity := (3, 9) }
    let h := wTun [(0, st)]
    let y : Inj := { point := 0x0F, mode := 0, count := 1, a := 2, b := 0, nt := 4 }
    let j : Hub := { h with inj := [y] }
    wHub.tunNext = none ∧ h.tunNext = some 7 ∧ h.stripeFor 0 = some (0, h.fresh.2) ∧ smLook h.fresh.2.gr.stripes 0 = some st
    ∧ (h.fresh.2.fireInj 0x0F (fun q => q.a.toNat == 2 && q.b.toNat == 0)).1 = false
    ∧ (j.fresh.2.fireInj 0x0F (fun q => q.a.toNat == 2 && q.b.toNat == 0)).1 = true
    ∧ (wTun []).stripeFor 0 = some (0, (wTun []).fresh.2) ∧ smLook (wTun []).fresh.2.gr.stripes 0 = none := by
  have o (h : Hub) (e : h.gr.opened = (List.range 48).map (fun k => (k, 0))) : h.stripeFor 0 = some (0, h.fresh.2) := by
    have all : ∀ g, g < 16 → smLook ((List.range 48).map (fun k => (k, 0))) (0 * 16 + g) = some 0 := by decide
    have m : h.fresh.1.toNat % (if Config.cap64 = true then 16 else 8) < 16 := by
      split
      · exact Nat.mod_lt _ (by decide)
      · exact Nat.lt_trans (Nat.mod_lt _ (by decide)) (by decide)
    have e' : h.fresh.2.gr.opened = (List.range 48).map (fun k => (k, 0)) := e
    have every : (List.range (if Config.cap64 = true then 16 else 8)).filter (h.groupServes 0) = List.range (if Config.cap64 = true then 16 else 8) := by
      refine List.filter_eq_self.2 (fun g hg => ?_)
      have lt : g < 16 := lt_of_lt_of_le (List.mem_range.1 hg) (by split <;> decide)
      unfold Hub.groupServes
      rw [e, all g lt]
      rfl
    have some_ : (List.range (if Config.cap64 = true then 16 else 8)).isEmpty = false := by split <;> rfl
    unfold Hub.stripeFor
    simp only [every, some_, List.length_range]
    rw [if_neg (by decide), List.getD_eq_getElem _ _ (by rw [List.length_range]; split <;> exact Nat.mod_lt _ (by decide)), List.getElem_range]
    simp only [e', all _ m]
  refine ⟨by decide +kernel, by decide +kernel, o _ rfl, by decide +kernel, by decide +kernel, by decide +kernel, o _ rfl, by decide +kernel⟩

theorem smLook_const {β : Type} (l : List Nat) (x : β) (d : Nat) (h : d ∈ l) : smLook (l.map (fun d => (d, x))) d = some x := by
  induction l with
  | nil => cases h
  | cons a l ih =>
    rw [List.map_cons]
    unfold smLook
    split
    · rfl
    · rename_i n
      rcases List.mem_cons.1 h with rfl | h
      · exact absurd rfl n
      · exact ih h

/-- A Granary no die of whose groups has a free block. -/
def wFullGran : Hub := { wHub with gr := { dies := ((List.range 16).flatMap Config.groupDies).map (fun d => (d, ⟨[], []⟩)) } }

theorem witness_GranaryBlocks_no_stripe : wFullGran.stripeFor 1 = none := by
  have k (g : Nat) (hg : g < 16) : wFullGran.groupServes 1 g = false := by
    have i : 16 * g ∈ (List.range 16).flatMap Config.groupDies :=
      List.mem_flatMap.2 ⟨g, List.mem_range.2 hg, List.mem_range'.2 ⟨0, by decide, by simp⟩⟩
    have z : wFullGran.gdie (16 * g) = ⟨[], []⟩ := by
      unfold Hub.gdie smGet
      show (smLook (((List.range 16).flatMap Config.groupDies).map (fun d => (d, (⟨[], []⟩ : GDie)))) (16 * g)).getD _ = _
      rw [smLook_const _ _ _ i]
      rfl
    have n : smLook wFullGran.gr.opened (1 * 16 + g) = none := rfl
    simp only [Hub.groupServes, n, Config.groupDies, List.range', List.all_cons, z]
    simp
  have none_ : (List.range (if Config.cap64 = true then 16 else 8)).filter (wFullGran.groupServes 1) = [] :=
    List.filter_eq_nil_iff.2 (fun g hg => by
      have lt : g < 16 := lt_of_lt_of_le (List.mem_range.1 hg) (by split <;> decide)
      simp [k g lt])
  unfold Hub.stripeFor
  simp only [none_]
  rfl

theorem witness_GranaryBlocks_verify :
    let x : GBlk := { closed := true }
    let y (p : BitVec 8) : Inj := { point := p, mode := 0, count := 1, a := 2, b := 0, nt := 4 }
    let h : Hub := { wHub with gr := { blks := [(blkKey 2 9, x)] } }
    let v : Hub := { wHub with gr := { blks := [(blkKey 2 9, { x with victim := true })] } }
    (h.fireInj 0x11 (fun q => q.a.toNat == 2)).1 = false
    ∧ (({ h with inj := [y 0x11] } : Hub).fireInj 0x11 (fun q => q.a.toNat == 2)).1 = true ∧ (h.fireInj 0x11 (fun q => q.a.toNat == 2)).2.vfyThr < 100
    ∧ h.blk 2 9 = some x ∧ h.blk 3 9 = none ∧ v.blk 2 9 = some { x with victim := true } ∧ v.validUnits 2 9 = []
    ∧ (v.fireInj 0x10 (fun q => q.a.toNat == 2)).1 = false
    ∧ (({ v with inj := [y 0x10] } : Hub).fireInj 0x10 (fun q => q.a.toNat == 2)).1 = true := by decide +kernel

theorem witness_GranaryBlocks_relocates :
    let x : GBlk := { closed := true, verified := true, slots := [{ unit := 7 }] }
    let g : Gran := { blks := [(blkKey 2 9, x), (blkKey 2 10, {})], erases := [(blkKey 2 9, 0), (blkKey 2 10, 5000)], dies := [(2, ⟨[], []⟩)]
                      units := [(7, { key := objKey 2 1, idx := 0, kind := 2, loc := some ⟨2, 9, 0⟩ })] }
    let h : Hub := { wHub with gr := g, regs := smPut wHub.regs 0x2C004 1 }
    let f : Hub := { h.p F.GRNCTL_static_wl_en 1 with regs := smPut (h.p F.GRNCTL_static_wl_en 1).regs 0x2C004 5 }
    f.gcNeeds 2 = true ∧ f.gcVictim 2 = some 9 ∧ f.gcVictim 3 = none ∧ f.coldBlk 2 = some 9 ∧ f.coldBlk 3 = none
    ∧ f.on F.GRNCTL_static_wl_en = true ∧ max 1 (f.g F.GRNWLSPREAD_cycles) < f.wearSpread 2 ∧ h.validUnits 2 9 ≠ []
    ∧ (h.p F.GRNCTL_static_wl_en 0).on F.GRNCTL_static_wl_en = false
    ∧ h.gcNeeds 2 = false := by decide +kernel

theorem witness_GranaryBlocks_failures :
    let st : Stripe := { stream := 0, group := 0, data := [(2, 9)], parity := (3, 9) }
    let h : Hub := { wHub with gr := { blks := [(blkKey 2 9, {})], stripes := [(0, st)], dies := [(2, ⟨[11], [12]⟩)], erases := [(blkKey 2 11, 0), (blkKey 2 12, 1)] },
                               regs := smPut wHub.regs 0x2C004 1 }
    let e : Hub := { wHub with gr := { blks := [(blkKey 2 9, { stripe := 5 })], stripes := [(0, st)] } }
    h.blk 2 9 = some {} ∧ (smLook h.gr.stripes 0).isSome = true ∧ (h.takeBlk 2).map (·.1) = some 11 ∧ smLook e.gr.stripes 5 = none
    ∧ ({ bad := true } : GBlk).bad = true := by decide +kernel

theorem witness_GranaryReadsAndMap_forms :
    let u : GUnit := { wUnit with inTun := true }
    let b : GBlk := { closed := true }
    let h : Hub := { wGran with gr := { wGran.gr with blks := [(blkKey 2 9, b)], hot := [5] } }
    let y : Inj := { point := 0x12, mode := 0, count := 1, a := 0, b := 0, nt := 4 }
    u.inTun = true ∧ ({ wUnit with loc := none } : GUnit).loc = none ∧ ({ wUnit with poison := true } : GUnit).poison = true
    ∧ (wGran.p F.GRNCTL_rd_reloc_en 1).on F.GRNCTL_rd_reloc_en = true ∧ b.closed = true ∧ b.victim = false ∧ smLook wHub.gr.units 7 = none
    ∧ h.inHot 5 = true ∧ ((wGran.inc F.GRNMAPMISS_count).fireInj 0x12 (fun q => q.a.toNat == 0)).1 = false
    ∧ ((({ wGran with inj := [y] } : Hub).inc F.GRNMAPMISS_count).fireInj 0x12 (fun q => q.a.toNat == 0)).1 = true
    ∧ 3 ∉ wHub.gr.rebuild ∧ wHub.gr.journal ≤ 3 * 2 ^ 30 := by decide +kernel

theorem witness_ControlStores_more :
    let d : Hub := { wHub with nf := { portDown := true } }
    let h : Hub := { wHub with regs := smPut wHub.regs 0x48008 0 }
    (∀ a ∈ [F.HCTL_lock.a, F.PWRCTL_lock.a, F.DGCTL_lock.a, F.NFCTL_lock.a, F.DGSNAP_go.a, F.GRNFLUSH_go.a], h.reached a = false ∨ d.reached a = false)
    ∧ (1 : BitVec 32).getLsbD 0 = true ∧ (2 : BitVec 32).getLsbD 0 = false
    ∧ ({ wHub with diag := { snapAt := some 2000 } } : Hub).diag.snapAt = some 2000 := by decide +kernel

theorem witness_RegisterStores_more :
    let w := (regRow 0x1000).map (fun r => (r.wide, plainReg 0x1000 r))
    w = some (true, true) ∧ (regRow 0x1004).isNone = true ∧ wHub.reached 0x1004 = true
    ∧ (regRow (F.MIGTMO_us.a + 4)).isSome = true ∧ ((regRow F.MIGTMO_us.a).map (·.wide)).getD false = false
    ∧ 0x1004 % 8 ≠ 0 ∧ 2 % 4 ≠ 0 ∧ wHub.reached (0x4000 + 12) = true ∧ (smGet {} wHub.irq 0).pend = false
    ∧ (let h : Hub := { wHub with irq := [(47, { pend := true, masked := true })] }
       (smGet {} h.irq 47).pend = true ∧ h.reached (0x4000 + 16 * 47 + 12) = true)
    ∧ wHub.reached 0x4008 = true ∧ 0x4008 = 0x4000 + 16 * 0 + 8 ∧ wHub.reached 0x4300 = true
    ∧ (wForming 1).reached ((ringRegs true).en.a + (ringRegs true).en.stride * 3) = false
    ∧ ({ wHub with regs := smPut wHub.regs 0x48008 0 } : Hub).reached ((ringRegs false).en.a + (ringRegs false).en.stride * 3) = false
    ∧ (wForming 1).reached (F.PARTCTL_mode.a + F.PARTCTL_mode.stride * 15) = false := by decide +kernel

theorem witness_RepairsAndManagement_more :
    let h : Hub := { wHub with pw := { inReg := 1 } }
    let g := ((h.pi F.MOLPSTAT_state 0 3).p F.MOLCTL_lane_spare_en 1)
    g.gi F.MOLPSTAT_state 0 = 3 ∧ g.portUp 0 = true ∧ pairOk 16 (0xFFF80007 : BitVec 32).toNat = true ∧ pairOk 16 (0xFFF70008 : BitVec 32).toNat = true
    ∧ pairOk 16 (0xFFEF0010 : BitVec 32).toNat = true ∧ (wForming 1).reached F.STONERETIRE_stone.a = false
    ∧ (wForming 1).reached F.MOLLANE_lane.a = false ∧ (wForming 1).reached F.AIXBANKMAP_bank.a = false
    ∧ (0x8008 : BitVec 16).toNat % 2 ^ 15 = 8 ∧ (0x8008 : BitVec 16).getLsbD 15 = true ∧ (0x8018 : BitVec 16).toNat % 2 ^ 15 = 0x18
    ∧ ((regRow 8).map (·.wide)).getD false = true ∧ ((regRow F.PWRCTL_lock.a).map (·.wide)).getD false = false
    ∧ 0x1000 ≤ (0x1000 : BitVec 16).toNat % 2 ^ 15 ∧ (9 : BitVec 16).toNat % 2 ^ 15 % 8 ≠ 0
    ∧ ((regRow (F.PWRCTL_lock.a + 8)).map (fun r => r.fields.any (fun f => f.acc == .rw || f.acc == .pw))).getD false = true
    ∧ ((regRow (F.PWRCTL_lock.a + 0x3FFC)).map (fun r => r.fields.any (fun f => f.acc == .rw || f.acc == .pw))).getD false = false := by
  decide +kernel

/-! ### Witnesses: further clauses, links, Sluice, power, resets, formation and time -/

theorem witness_MolairLinks_more :
    let h := wLinked (wMember wHub)
    let w : Hub := h.setPort 0 { h.port 0 with swap := some 3 }
    let g := h.p F.MOLCTL_lane_spare_en 0
    let f : Frame := { wFrame 3 0 0 with last := true }
    h.portUp 0 = true ∧ (w.port 0).swap = some 3 ∧ w.portUp 0 = true ∧ (h.port 0).swap = none ∧ h.gi F.MOLLANE_lane 0 = 0xF
    ∧ h.gi F.MOLPSTAT_state 0 ≠ 3 ∧ g.on F.MOLCTL_lane_spare_en = false ∧ (7 : BitVec 4).toNat < 8
    ∧ (0 : BitVec 32).toNat ≤ max 1 (h.g F.MOLLANETHR_symbols) ∧ max 1 (h.g F.MOLLANETHR_symbols) < (0xFFFFFFFF : BitVec 32).toNat
    ∧ f.last = true ∧ (wFrame 3 0 0).last = false ∧ (h.port 0).replay.findIdx? (fun f => f.1.lseq == 0) = none
    ∧ ¬ (wHub.portUp 0 = true ∧ wHub.on F.MOLCTL_enable = true)
    ∧ (let s := wSmall wHub; s.dev - s.position + s.g F.POOLROLE_size ≤ (16 : BitVec 6).toNat) := by decide +kernel

theorem witness_SluiceInstants_weights :
    let it (n : Nat) : SlItem := { enq := 0, head := n, load := .weight }
    let h (n : Nat) : Hub := { wHub with sl := { grn := [(12, [it n])] } }
    let g := (wHub.p F.SLCTL_sample_en 0).stamp 960000001
    smLook wHub.sl.grn 12 = none ∧ smGet [] (h 1).sl.grn 12 = [it 1] ∧ (it unitBytes).head ≤ unitBytes ∧ ¬ (it (unitBytes + 1)).head ≤ unitBytes
    ∧ (h 1).pathOf .grnRead = none ∧ (wHub.pathOf .grnRead).isSome = true ∧ g.on F.SLCTL_sample_en = false
    ∧ ¬ (960000001 % (g.slPeriod * 1000) = 0) := by decide +kernel

theorem witness_PowerAndSupplies_inputs :
    let up : Hub := { wHub with pw := { inReg := 0xF, ok := true } }
    let off : Hub := { wHub with pw := { inReg := 0xF, off := true } }
    (up.pw.off = false ∧ up.pw.ok = true) ∧ ¬ (off.pw.off = false ∧ off.pw.ok = true) ∧ (3 : BitVec 3).toNat < 4 ∧ 4 ≤ (4 : BitVec 3).toNat
    ∧ (off.pw.inReg = 0xF ∧ off.pw.trip = false) ∧ ({ inReg := 7, off := true } : Power).inReg ≠ 0xF
    ∧ (4 : Nat) < 5 ∧ ¬ ((5 : Nat) < 5 ∨ (8 ≤ 5 ∧ 5 < 16)) := by decide +kernel

theorem witness_PowerAndSupplies_sensors :
    let on : Hub := { wHub with pw := { inReg := 0xF, ok := true } }
    let t : Hub := { wHub with pw := { inReg := 0xF, ok := true, trip := true } }
    109 + on.offsetOf 4 < Hub.tripAt 4 ∧ Hub.tripAt 4 ≤ 110 + on.offsetOf 4 ∧ Hub.tripAt 8 ≤ 105 + on.offsetOf 8 ∧ 104 + on.offsetOf 15 < Hub.tripAt 15
    ∧ t.pw.trip = true ∧ on.pw.trip = false ∧ on.on F.PWRSTAT_tj_warn = false := by decide +kernel

theorem witness_PowerAndSupplies_cooling :
    let r : Hub := { wHub with pw := { inReg := 0xF, off := true, trip := true, tripPerst := true } }
    let g := r.measuredAll []
    g.pw.trip = true ∧ g.pw.off = true ∧ g.pw.tripPerst = true ∧ g.pw.inReg = 0xF
    ∧ (∀ d, d < 5 → g.tempOf d + 10 ≤ g.tjWarnAt) ∧ (∀ k, k < 8 → g.tempOf (8 + k) + 10 ≤ g.tjWarnAt)
    ∧ (∀ d, d < 5 → g.tempOf d + 3 ≤ g.tjWarnAt) ∧ (wHub.measuredAll []).pw.trip = false
    ∧ ¬ (∀ k, k < 8 → ((wHub.pi F.PWRHBMT_degc 3 93).measuredAll []).tempOf (8 + k) < 92) := by decide +kernel

theorem witness_PowerAndSupplies_core :
    let on : Hub := { wHub with pw := { inReg := 0xF, ok := true }, nt := 2000000 }
    let hot := (on.p F.PWRVCORE_stone_mv 750).p F.PWRSTAT_tj_warn 1
    let low := hot.p F.PWRVCORE_stone_mv 655
    let high := on.p F.PWRVCORE_stone_mv 760
    let slow := on.p F.PWRVCORE_stone_mv 700
    on.stage 0 = true ∧ hot.on F.PWRSTAT_tj_warn = true ∧ hot.pw.lastV.toNat + 100000 ≤ hot.nt.toNat ∧ 655 < hot.g F.PWRVCORE_stone_mv
    ∧ low.g F.PWRVCORE_stone_mv ≤ 655 ∧ (wHub.nt.toNat < wHub.pw.lastV.toNat + 100000) ∧ high.modeMv < high.g F.PWRVCORE_stone_mv
    ∧ high.overTarget = false ∧ slow.overTarget = false ∧ slow.underTarget = true ∧ slow.g F.PWRVCORE_stone_mv < slow.modeMv
    ∧ slow.pw.lastV.toNat + 1000000 ≤ slow.nt.toNat ∧ slow.on F.PWRSTAT_tj_warn = false ∧ ¬ (wHub.pw.lastV.toNat + 1000000 ≤ wHub.nt.toNat)
    ∧ ({ wHub with pw := { off := true } } : Hub).pw.off = true := by decide +kernel

theorem witness_PowerAndSupplies_grants :
    let r : Power := { reqs := [(0, 24)], tokens := 0 }
    r.tokens ≤ 0 ∧ wHub.nt < ({ r with tokens := 40, grantAt := 1001 } : Power).grantAt ∧ Hub.firstReq r.reqs = some (0, 24)
    ∧ Hub.firstReq [(1, 3), (1, 2)] = some (1, 2) := by decide +kernel

theorem witness_Resets_more :
    let h : Hub := { wHub with regs := smPut wHub.regs F.PWRCTL_lock.a 0x80000000 }
    let d : Hub := { wHub with pw := { perst := true, ok := true }, sec := { prov := some ⟨true, false, some []⟩ } }
    (F.PWRCTL_lock.a, (0x80000000 : W64)) ∈ h.regs ∧ (∀ e ∈ h.regs, e.1 = F.PWRCTL_lock.a → e.2 = 0x80000000)
    ∧ d.sec.prov = some ⟨true, false, some []⟩ ∧ d.pw.perst = true ∧ d.pw.ok = true ∧ (71 : BitVec 7).toNat = 71 ∧ 71 < (72 : BitVec 7).toNat := by
  decide +kernel

theorem witness_FormationStages_early :
    let b : Hub := { wStage 2 with regs := smPut (wStage 2).regs F.SECSVN_fw.a 0 }
    let f : FwImage := { sigOk := true, secver := 3, digest := 0, level := 0 }
    let p : Hub := { wStage 1 with pw := { grantAt := 1001 } }
    (wStage 2).forming 1 = false ∧ p.nt < p.pw.grantAt ∧ (b.bootImage [f]).isSome = true ∧ b.bootImage [{ f with sigOk := false }] = none
    ∧ (wStage 1).forming 2 = true ∧ (wStage 1).stage 1 = false ∧ (wStage 2).stage 2 = false ∧ (wStage 3).forming 3 = true ∧ (wStage 3).stage 2 = true
    ∧ (wStage 4).forming 3 = false ∧ (wStage 5).forming 4 = false ∧ (wStage 5).stage 4 = true
    ∧ (smLook ({ wStage 4 with nf := { heard := [(3, (0, 0))] } } : Hub).nf.heard 3).isSome = true ∧ (wStage 4).portUp 3 = false := by decide +kernel

/-- The first stone is bad and its die has no spare left. -/
theorem testedStones_none (h : Hub) (fails : List (BitVec 2 × BitVec 10)) (bad : List Nat) (eb : fails.map (fun e => e.1.toNat * 576 + e.2.toNat) = bad)
    (e : bad.contains (0 / 512 * 576 + h.physOf 0) = true)
    (n : ({ h with retired := h.retired ++ bad.filter (fun p => !h.retired.contains p) } : Hub).spareStone (0 / 512) = none) :
    h.testedStones fails = none := by
  obtain ⟨t, ht⟩ : ∃ t, List.range 2048 = 0 :: t := ⟨_, List.range_succ_eq_map⟩
  have stay (f : Option Hub → Nat → Option Hub) (h : ∀ k, f none k = none) (l : List Nat) : l.foldl f none = none := by
    induction l with
    | nil => rfl
    | cons a l ih => rw [List.foldl_cons, h, ih]
  have g0 (l : List Nat) : ({ h with retired := l } : Hub).physOf 0 = h.physOf 0 := rfl
  unfold Hub.testedStones
  simp only [ht, List.foldl_cons, eb, g0, e, n, Bool.not_true, Bool.false_eq_true, if_false, Option.map_none]
  rw [stay _ (fun _ => rfl)]
  rfl

theorem witness_FormationStages_stones :
    let all : List (BitVec 2 × BitVec 10) := (List.range 576).map (fun k => (0, BitVec.ofNat 10 k))
    let h : Hub := { wStage 3 with regs := smPut (wStage 3).regs F.STONEMAP_phys.a (BitVec.ofNat 64 (pairOf 16 5)) }
    h.testedStones all = none := by
  intro all h
  have b (p : Nat) (l : p < 576) : (all.map (fun e => e.1.toNat * 576 + e.2.toNat)).contains p = true := by
    refine List.contains_iff_mem.2 (List.mem_map.2 ⟨(0, BitVec.ofNat 10 p), List.mem_map.2 ⟨p, List.mem_range.2 l, rfl⟩, ?_⟩)
    have z : (0 : BitVec 2).toNat = 0 := rfl
    simp only [BitVec.toNat_ofNat, z]
    omega
  refine testedStones_none h all _ rfl (by decide +kernel) ?_
  have r : h.retired ++ (all.map (fun e => e.1.toNat * 576 + e.2.toNat)).filter (fun p => !h.retired.contains p)
      = all.map (fun e => e.1.toNat * 576 + e.2.toNat) := by
    have n : h.retired = [] := rfl
    rw [n]
    simp
  rw [r]
  unfold Hub.spareStone
  refine List.find?_eq_none.2 (fun p hp => ?_)
  have lt : p < 576 := List.mem_range.1 (List.mem_filter.1 hp).1
  have z : 0 / 512 * 576 + p = p := by omega
  rw [z, b p lt]
  simp

theorem witness_FormationStages_map :
    let own (k : Nat) : TopoRec := { wTopo with slot := BitVec.ofNat 7 k, serial := BitVec.ofNat 64 k }
    let h (l : List TopoRec) : Hub := { wStage 5 with nf := { recs := l, quiet := 2 } }
    let six := (List.range 16).map own
    (h six).mapComplete = true ∧ (h []).mapComplete = true ∧ ({ h six with nf := { recs := six, quiet := 1 } } : Hub).mapComplete = false
    ∧ ((h [wTopo, { wTopo with serial := 6 }]).formCheck).isLeft = true ∧ (h six).nf.coarseNt = 0
    ∧ ({ h six with nf := { recs := six, coarseNt := 9 } } : Hub).nf.coarseNt ≠ 0 ∧ (wStage 5).forming 5 = true ∧ (wStage 5).stage 4 = true
    ∧ ({ wTopo with ok := false } : TopoRec).ok = false ∧ (wStage 6).stage 5 = true
    ∧ (let z : Hub := { h six with nt := 0xFFFFFFFFFFFF }; z.nf.linkNt.toNat + max 1 (z.g F.NFTOPOTMO_ms) * 1000000 ≤ z.nt.toNat)
    ∧ wHub.nf.digest = none ∧ ¬ ((wStage 6).forming 5 = true)
    ∧ (wHub.nt.toNat < wHub.nf.linkNt.toNat + max 1 (wHub.g F.NFTOPOTMO_ms) * 1000000) := by decide +kernel

theorem witness_FormationStages_times :
    (wStage 6).forming 6 = true ∧ (wStage 6).stage 5 = true ∧ (wStage 7).forming 7 = true ∧ (wStage 7).stage 6 = true
    ∧ ({ wStage 7 with nf := { good := 9 } } : Hub).nf.good < 10 ∧ (wStage 8).forming 7 = false ∧ (wStage 7).forming 6 = false
    ∧ ((wStage 7).p F.NFSTAT_master 1).ownTime = true ∧ (wStage 7).nt.toNat < (wStage 7).nf.electNt.toNat + 200000000
    ∧ ({ wStage 6 with nf := { coarseNt := 9 } } : Hub).nf.coarseNt ≠ 0 := by decide +kernel

theorem witness_TimeAndReadiness_frames :
    let y (p : BitVec 8) : Inj := { point := p, mode := 0, count := 1, a := 0, b := 5, nt := 4 }
    let h (p : BitVec 8) : Hub := { wHub with inj := [y p] }
    (wHub.fireInj 0x29 (fun _ => true)).1 = false ∧ ((h 0x29).fireInj 0x29 (fun _ => true)).1 = true
    ∧ ((h 0x28).fireAt 0x28 (fun _ => true)).1.isSome = true ∧ (wHub.fireAt 0x28 (fun _ => true)).1 = none
    ∧ (1 : BitVec 8).getLsbD 0 = true ∧ (2 : BitVec 8).getLsbD 0 = false ∧ (wStage 6).stage 0 = true ∧ (wStage 6).stage 6 = false
    ∧ wHub.on F.NFSTAT_master = false ∧ (2 : BitVec 16).toInt.natAbs ≤ 2 ∧ ¬ ((0xFFFD : BitVec 16).toInt.natAbs ≤ 2)
    ∧ ({ wHub with nf := { dropNt := 1001 } } : Hub).nt < ({ wHub with nf := { dropNt := 1001 } } : Hub).nf.dropNt
    ∧ (wHub.p F.NFSTAT_holdover 1).on F.NFSTAT_holdover = true ∧ wHub.nt.toNat < wHub.nf.fineNt.toNat + 20000000
    ∧ wHub.nt.toNat < 5 + 100000000 ∧ wHub.nf.holdNt = none ∧ ({ wHub with regs := smPut wHub.regs 0x10 0x1C0 } : Hub).on F.HDEVIDX_spare = true
    ∧ (wHub.p F.NFSTAT_nt_valid 0).on F.NFSTAT_nt_valid = false := by decide +kernel

theorem witness_TimeAndReadiness_granary :
    let s (v : Nat) : Hub := { wStage 8 with regs := smPut (smPut (wStage 8).regs F.GRNHMNEED_slots.a (BitVec.ofNat 64 v)) F.GRNHMSIZE_slots.a 5 }
    let d (c : Nat) (v : Bool) : Hub :=
      { wStage 8 with regs := smPut (wStage 8).regs 0x2C004 (BitVec.ofNat 64 (c * 256)), gr := { started := true, drain := some ⟨[], if v then 0xFFFFFFFF00000000 else 0⟩ }, nf := { grnOn := true } }
    (s 5).g F.GRNHMNEED_slots ≤ (s 5).g F.GRNHMSIZE_slots ∧ (s 6).g F.GRNHMSIZE_slots < (s 6).g F.GRNHMNEED_slots
    ∧ ((wStage 8).stage 2 = true ∧ (wStage 8).forming 8 = true ∧ (wStage 8).nf.grnOn = false)
    ∧ ¬ ((d 0 true).nf.grnOn = false) ∧ (d 1 true).on F.GRNSTAT_clean = true ∧ (d 0 true).on F.GRNSTAT_clean = false
    ∧ (d 0 true).drained = true ∧ (d 0 false).drained = false ∧ (d 0 false).gr.started = true ∧ (wStage 9).forming 8 = false
    ∧ (wStage 8).nt.toNat < (wStage 8).nf.t0.toNat + 1000000000 := by decide +kernel

theorem witness_TimeAndReadiness_ready :
    let i : CutImg := { epoch := 4, step := 3, nt := 9, sess := [], gens := [], kv := {}, deferred := [] }
    let r : Hub := { wMember (wStage 10) with ck := { slotA := some i } }
    let g (h : Hub) : Hub := h.currentOnly.freeKinds [7]
    ((wStage 10).p F.NFCTL_restore_en 0).currentOnly.on F.NFCTL_restore_en = false
    ∧ ((wStage 10).p F.NFCTL_restore_en 1).currentOnly.on F.NFCTL_restore_en = true ∧ (g (wStage 10)).g F.POOLROLE_size = 0
    ∧ (g r).g F.POOLROLE_size ≠ 0 ∧ (g r).slotImg none = some i ∧ (g r).slotImg (some 5) = none
    ∧ (wStage 9).reloadImages.g F.POOLROLE_size = 0 ∧ (wMember (wStage 9)).reloadImages.g F.POOLROLE_size ≠ 0
    ∧ (wStage 9).reloadImages.nf.lastSlot = none ∧ (wStage 8).stage 8 = false ∧ (wStage 10).forming 9 = false ∧ (wStage 9).stage 9 = false
    ∧ (wStage 10).stage 10 = false ∧ (wStage 12).forming 11 = false
    ∧ (let m : Hub := { wMember (wStage 11) with ck := { first := true } }; m.g F.POOLROLE_size ≠ 0 ∧ m.ck.first = true) := by decide +kernel

end Sys2Proof.Tests
end

section
/-! Stores in BAR0: which block and register a store reaches, what it leaves there by the access codes (R8, R9, R287, R475, R520,
R522), and what it starts (R139, R218, R283, R322, R479, R493, R513). -/

namespace Sys2Proof.Machine

/-! ### Bits of a word -/

/-- `x` with the bits `k` taken from `v`: what an access code that stores leaves of a register (R9). -/
def taken (k v x : W64) : W64 := (x &&& ~~~k) ||| (v &&& k)

theorem getLsbD_taken (k v x : W64) (i : Nat) : (taken k v x).getLsbD i = if k.getLsbD i then v.getLsbD i else x.getLsbD i := by
  by_cases hi : i < 64
  · simp only [taken, BitVec.getLsbD_or, BitVec.getLsbD_and, BitVec.getLsbD_not, hi, decide_true, Bool.true_and]
    cases k.getLsbD i <;> simp
  · simp [BitVec.getLsbD_of_ge _ i (Nat.le_of_not_lt hi)]

@[simp] theorem taken_zero (v x : W64) : taken 0 v x = x := by
  apply BitVec.eq_of_getLsbD_eq
  intro i _
  simp [getLsbD_taken]

/-- Bits taken from the same word one after the other are taken at once. -/
theorem taken_taken (k n v x : W64) : taken n v (taken k v x) = taken (k ||| n) v x := by
  apply BitVec.eq_of_getLsbD_eq
  intro i _
  simp only [getLsbD_taken, BitVec.getLsbD_or]
  cases k.getLsbD i <;> cases n.getLsbD i <;> rfl

/-- A lock bit that is set stays as it is, whatever is written (R522). -/
theorem or_lockBit (x v : W64) (hx : x.getLsbD 31 = true) : x ||| (v &&& 0x80000000) = x := by
  have h31 : (0x80000000 : W64) = BitVec.twoPow 64 31 := by decide
  apply BitVec.eq_of_getLsbD_eq
  intro i _
  rw [h31, BitVec.getLsbD_or, BitVec.getLsbD_and, BitVec.getLsbD_twoPow]
  by_cases hi : 31 = i
  · subst hi; simp [hx]
  · simp [hi]

theorem ofNat_toNat_word (v : BitVec 32) : BitVec.ofNat 64 (v.toNat % 2 ^ 32) = v.setWidth 64 := by
  rw [Nat.mod_eq_of_lt v.isLt]
  exact BitVec.eq_of_toNat_eq (by simp)

theorem word_and_low (v : BitVec 32) : v.setWidth 64 &&& (0xFFFFFFFF : W64) = v.setWidth 64 := by
  apply BitVec.eq_of_toNat_eq
  have hv : v.toNat < 2 ^ 64 := Nat.lt_trans v.isLt (by decide)
  rw [BitVec.toNat_and, BitVec.toNat_setWidth, Nat.mod_eq_of_lt hv]
  exact (Nat.and_two_pow_sub_one_eq_mod v.toNat 32).trans (Nat.mod_eq_of_lt v.isLt)

theorem getLsbD_word (v : BitVec 32) (i : Nat) (hi : i < 64) : ((v.setWidth 64 : W64)).getLsbD i = v.getLsbD i := by
  simp [hi]

namespace Hub

variable (h : Hub)

/-- A one-bit field of a register is its bit. -/
theorem gi_one (f : Fld) (i : Nat) (hf : f.hi = f.lo) :
    (h.gi f i == 1) = (h.reg (f.a + f.stride * i)).getLsbD f.lo := by
  unfold gi bitsOf
  rw [hf, Nat.add_sub_cancel_left, BitVec.getLsbD, Nat.testBit_eq_decide_div_mod_eq, Nat.pow_one]
  rfl

theorem on_eq_getLsbD (f : Fld) (hf : f.hi = f.lo) : h.on f = (h.reg f.a).getLsbD f.lo := by
  have := gi_one h f 0 hf
  rwa [Nat.mul_zero, Nat.add_zero] at this

/-! ### The path of a store -/

/-- An address of BAR0 outside the block of the MSI-X table. -/
def listedBlock (a : Nat) : Prop := a < 0x4000 ∨ 0x5000 ≤ a

theorem store_unreached (a v : Nat) (w : Bool) (hr : h.reached a = false) : h.store a v w = h := by
  unfold store; rw [hr]; rfl

theorem store_unaligned (a v : Nat) (ha : a % 4 ≠ 0) : h.store a v false = h := by
  unfold store
  cases h.reached a
  · rfl
  · simp [ha]

theorem store_wide_unaligned (a v : Nat) (ha : a % 8 ≠ 0) : h.store a v true = h := by
  unfold store
  cases h.reached a
  · rfl
  · simp [ha]

theorem store_word (a v : Nat) (hr : h.reached a = true) (ha : a % 4 = 0) (hp : listedBlock a) :
    h.store a v false = h.store32 a (v % 2 ^ 32) := by
  have hp' : a < 0x4000 ∨ 0x5000 ≤ a := hp
  simp only [store, hr, ha, hp', Bool.not_true, Bool.false_eq_true, ne_eq, not_true, if_false, if_true]

theorem store_wide (a v : Nat) (hr : h.reached a = true) (ha : a % 8 = 0) (hp : listedBlock a) :
    h.store a v true = h.store64 a v := by
  have hp' : a < 0x4000 ∨ 0x5000 ≤ a := hp
  simp only [store, hr, ha, hp', Bool.not_true, Bool.false_eq_true, ne_eq, not_true, if_false, if_true]

theorem store_msix_word (a v : Nat) (hr : h.reached a = true) (ha : a % 4 = 0) (hp : ¬ listedBlock a) :
    h.store a v false = h.msixStore a (v % 2 ^ 32) := by
  have hp' : ¬ (a < 0x4000 ∨ 0x5000 ≤ a) := hp
  simp only [store, hr, ha, hp', Bool.not_true, Bool.false_eq_true, ne_eq, not_true, if_false]

theorem store_msix_wide (a v : Nat) (hr : h.reached a = true) (ha : a % 8 = 0) (hp : ¬ listedBlock a) :
    h.store a v true = (h.msixStore a (v % 2 ^ 32)).msixStore (a + 4) (v / 2 ^ 32) := by
  have hp' : ¬ (a < 0x4000 ∨ 0x5000 ≤ a) := hp
  simp only [store, hr, ha, hp', Bool.not_true, Bool.false_eq_true, ne_eq, not_true, if_false, if_true]

/-- A 4-byte store carries the low word of its value. -/
theorem store_low (a x v : Nat) (e : x % 2 ^ 32 = v % 2 ^ 32) : h.store a x false = h.store a v false := by
  simp only [store, e, Bool.false_eq_true, if_false]

theorem store32_row (a v : Nat) (r : RegRow) (hr : regRow a = some r) :
    h.store32 a v = h.regStore a r (BitVec.ofNat 64 v) 0xFFFFFFFF := by
  unfold store32; rw [hr]

theorem store32_upper (a v : Nat) (r : RegRow) (h4 : 4 ≤ a) (hn : regRow a = none) (hr : regRow (a - 4) = some r) :
    h.store32 a v = if r.wide then h.regStore (a - 4) r (BitVec.ofNat 64 (v * 2 ^ 32)) 0xFFFFFFFF00000000 else h := by
  unfold store32; rw [hn, if_pos h4, hr]

theorem store32_unlisted (a v : Nat) (hn : regRow a = none) (hn4 : regRow (a - 4) = none) : h.store32 a v = h := by
  unfold store32; rw [hn, hn4, ite_self]

theorem store_unlisted (a v : Nat) (hn : regRow a = none) (hn4 : regRow (a - 4) = none) (hb : listedBlock a) :
    h.store a v false = h := by
  by_cases ha : a % 4 = 0
  · cases hr : h.reached a
    · exact store_unreached h a v false hr
    · rw [store_word h a v hr ha hb, store32_unlisted h a _ hn hn4]
  · exact store_unaligned h a v ha

theorem store64_wide (a v : Nat) (r : RegRow) (hr : regRow a = some r) (hw : r.wide = true) :
    h.store64 a v = h.regStore a r (BitVec.ofNat 64 v) (BitVec.allOnes 64) := by
  unfold store64; rw [hr]; exact if_pos hw

/-- An 8-byte store that names no 64-bit register is its lower word and then its upper word. -/
theorem store64_words (a v : Nat) (hw : ((regRow a).map (·.wide)).getD false = false) :
    h.store64 a v = (h.store32 a (v % 2 ^ 32)).store32 (a + 4) (v / 2 ^ 32) := by
  unfold store64
  cases hr : regRow a with
  | none => rfl
  | some r =>
    rw [hr] at hw
    have hw' : r.wide = false := hw
    simp [hw']

/-! ### Fields by access code (R9) -/

variable (a : Nat) (v m x : W64) (f : FieldRow)

theorem fieldWrite_rw (hf : f.acc = .rw) (hl : lockBit a f.hi = false) :
    h.fieldWrite a v m false x f = if h.frozen a f v then x else taken (fieldMask f &&& m) v x := by
  unfold fieldWrite; rw [hf]; simp only [hl]; rfl

theorem fieldWrite_lock (hf : f.acc = .rw) (hl : lockBit a f.hi = true) :
    h.fieldWrite a v m false x f = x ||| (v &&& (fieldMask f &&& m)) := by
  unfold fieldWrite; rw [hf]; simp only [hl]; rfl

theorem fieldWrite_rwl (hf : f.acc = .rwl) :
    h.fieldWrite a v m false x f = if h.locked a || h.frozen a f v then x else taken (fieldMask f &&& m) v x := by
  unfold fieldWrite; rw [hf]; rfl

theorem fieldWrite_w1c (hf : f.acc = .w1c) : h.fieldWrite a v m false x f = x &&& ~~~(v &&& (fieldMask f &&& m)) := by
  unfold fieldWrite; rw [hf]; rfl

theorem fieldWrite_kept (hf : f.acc = .ro ∨ f.acc = .wo ∨ f.acc = .pw) : h.fieldWrite a v m false x f = x := by
  unfold fieldWrite
  rcases hf with hf | hf | hf <;> rw [hf]

/-- A register of no ring with no field that a state of its block freezes (R304, R393). -/
def thawed (a : Nat) : Bool :=
  (ringAt a).isNone && decide (a ∉ [F.GRNHMBASE_base.a, F.GRNHMSIZE_slots.a, F.INTCTL_inject_en.a])

theorem frozen_thawed (ha : thawed a = true) : h.frozen a f v = false := by
  simp only [thawed, Bool.and_eq_true, Option.isNone_iff_eq_none, decide_eq_true_eq, List.mem_cons, List.not_mem_nil, or_false,
    not_or] at ha
  obtain ⟨hr, hb, hs, hi⟩ := ha
  unfold frozen
  rw [hr]; dsimp only
  rw [if_neg (not_or.2 ⟨hb, hs⟩), if_neg (fun e => hi e.1)]

/-! ### Registers outside Sluice -/

theorem slWaits_outside (ha : a < 0x34000 ∨ 0x35000 ≤ a) : slWaits a = false := by
  simp only [slWaits, Bool.or_eq_false_iff, Bool.and_eq_false_iff, beq_eq_false_iff_ne, decide_eq_false_iff_not]
  omega

theorem slBad_outside (n : Nat) (ha : a < 0x34000 ∨ 0x35000 ≤ a) : h.slBad a n = false := by
  unfold slBad
  rw [if_neg (by omega), if_neg (by omega), if_neg (by omega), if_neg (by omega), if_neg (by omega), if_neg (by omega),
    if_neg (by omega), if_neg (by omega), if_neg (by omega)]

/-- A store to a register outside Sluice without paired words: its fields by their access codes, then what the store starts. -/
theorem regStore_outside (r : RegRow) (hp : r.fields.any (fun f => f.acc == .pw) = false) (ha : a < 0x34000 ∨ 0x35000 ≤ a) :
    h.regStore a r v m = (h.setReg a (r.fields.foldl (h.fieldWrite a v m false) (h.reg a))).afterWrite a (h.reg a) (v &&& m) := by
  unfold regStore
  rw [hp, slWaits_outside a ha]
  simp [slBad_outside h a _ ha]

/-- A 4-byte store of a word to a register outside Sluice without paired words. -/
theorem store_register (w : BitVec 32) (r : RegRow) (hr : h.reached a = true) (ha : a % 4 = 0) (hb : listedBlock a)
    (hs : a < 0x34000 ∨ 0x35000 ≤ a) (hrow : regRow a = some r) (hp : r.fields.any (fun f => f.acc == .pw) = false) :
    h.store a w.toNat false = (h.setReg a (r.fields.foldl (h.fieldWrite a (w.setWidth 64) 0xFFFFFFFF false) (h.reg a))).afterWrite a
      (h.reg a) (w.setWidth 64) := by
  rw [store_word h a _ hr ha hb, store32_row h a _ r hrow, ofNat_toNat_word, regStore_outside h a _ _ r hp hs, word_and_low]

end Hub

end Sys2Proof.Machine
end

section
/-! What the registers of BAR0 hold after a store and what the store starts: control registers with a lock bit, go bits, registers
whose write starts nothing, rings and partition modes. -/

namespace Sys2Proof.Machine.Hub

variable (h : Hub)

/-! ### Control registers with a lock bit (R522) -/

/-- The lock bit's row in a control register. -/
def lockField : FieldRow := ⟨31, 31, .rw, 0⟩

/-- The four control registers with a lock bit, and their other fields. -/
def controlRegs : List (Fld × List FieldRow) := [
  (F.HCTL_lock, [⟨0, 0, .rwl, 0⟩, ⟨1, 1, .rwl, 0⟩, ⟨2, 2, .rwl, 1⟩]),
  (F.PWRCTL_lock, [⟨0, 0, .rwl, 1⟩, ⟨1, 1, .rwl, 1⟩, ⟨2, 2, .rwl, 1⟩, ⟨3, 3, .rwl, 0⟩]),
  (F.NFCTL_lock, [⟨0, 0, .rwl, 1⟩, ⟨1, 1, .rwl, 1⟩, ⟨2, 2, .wo, 0⟩, ⟨3, 3, .wo, 0⟩]),
  (F.DGCTL_lock, [⟨0, 0, .rwl, 1⟩])]

/-- The bits of a register that its lock governs: those of its RWL fields. -/
def lockedBits : List FieldRow → W64
  | [] => 0
  | f :: fs => (if f.acc = .rwl then fieldMask f &&& 0xFFFFFFFF else 0) ||| lockedBits fs

theorem regRow_control : ∀ e ∈ controlRegs, regRow e.1.a = some ⟨e.1.a, 0, 1, false, e.2 ++ [lockField]⟩ := by decide +kernel

theorem control_fields : ∀ e ∈ controlRegs, (∀ f ∈ e.2, f.acc = .rwl ∨ f.acc = .wo) ∧ lockBit e.1.a 31 = true
    ∧ e.1.a % 4 = 0 ∧ thawed e.1.a = true ∧ e.1.hi = e.1.lo ∧ e.1.lo = 31 := by decide

theorem control_outside : ∀ e ∈ controlRegs, (e.1.a < 0x4000 ∨ 0x5000 ≤ e.1.a) ∧ (e.1.a < 0x34000 ∨ 0x35000 ≤ e.1.a) := by decide

/-- The lock bit of a control register locks the register's own block (R9). -/
theorem locked_control : ∀ e ∈ controlRegs, h.locked e.1.a = h.on e.1 := by
  simp only [controlRegs, List.forall_mem_cons]
  exact ⟨rfl, rfl, rfl, rfl, fun _ he => absurd he List.not_mem_nil⟩

/-- While the block is locked its RWL fields keep their values. -/
theorem foldl_locked (a : Nat) (v : W64) (fs : List FieldRow) (x : W64) (hl : h.locked a = true)
    (hfs : ∀ f ∈ fs, f.acc = .rwl ∨ f.acc = .wo) : fs.foldl (h.fieldWrite a v 0xFFFFFFFF false) x = x := by
  induction fs with
  | nil => rfl
  | cons f fs ih =>
    rw [List.forall_mem_cons] at hfs
    have hf : h.fieldWrite a v 0xFFFFFFFF false x f = x := by
      rcases hfs.1 with hf | hf
      · rw [fieldWrite_rwl h a v _ x f hf, hl]; rfl
      · exact fieldWrite_kept h a v _ x f (.inr (.inl hf))
    rw [List.foldl_cons, hf, ih hfs.2]

/-- While the block is not locked its RWL fields take what is written. -/
theorem foldl_unlocked (a : Nat) (v : W64) (fs : List FieldRow) (x : W64) (hl : h.locked a = false) (ht : thawed a = true)
    (hfs : ∀ f ∈ fs, f.acc = .rwl ∨ f.acc = .wo) :
    fs.foldl (h.fieldWrite a v 0xFFFFFFFF false) x = taken (lockedBits fs) v x := by
  induction fs generalizing x with
  | nil => exact (taken_zero v x).symm
  | cons f fs ih =>
    rw [List.forall_mem_cons] at hfs
    have hf : h.fieldWrite a v 0xFFFFFFFF false x f = taken (if f.acc = .rwl then fieldMask f &&& 0xFFFFFFFF else 0) v x := by
      rcases hfs.1 with hf | hf
      · rw [fieldWrite_rwl h a v _ x f hf, hl, frozen_thawed h a v f ht, if_pos hf]; rfl
      · rw [fieldWrite_kept h a v _ x f (.inr (.inl hf)), hf]; exact (taken_zero v x).symm
    rw [List.foldl_cons, hf, ih _ hfs.2, taken_taken]; rfl

/-- A write of a control register: nothing changes once it is locked (R522). -/
theorem foldl_control (e : Fld × List FieldRow) (he : e ∈ controlRegs) (v : W64) :
    (e.2 ++ [lockField]).foldl (h.fieldWrite e.1.a v 0xFFFFFFFF false) (h.reg e.1.a)
      = lockStored (h.reg e.1.a) v (lockedBits e.2) := by
  obtain ⟨hfs, hb, -, ht, h1, h31⟩ := control_fields e he
  have hl : h.locked e.1.a = (h.reg e.1.a).getLsbD 31 := by rw [locked_control h e he, on_eq_getLsbD h e.1 h1, h31]
  have hlast (x : W64) : h.fieldWrite e.1.a v 0xFFFFFFFF false x lockField = x ||| (v &&& 0x80000000) :=
    (fieldWrite_lock h e.1.a v _ x lockField rfl hb).trans (by rw [show fieldMask lockField &&& 0xFFFFFFFF = 0x80000000 by decide])
  rw [List.foldl_append, List.foldl_cons, List.foldl_nil, hlast]
  unfold lockStored
  cases hx : (h.reg e.1.a).getLsbD 31
  · rw [foldl_unlocked h _ v _ _ (hl.trans hx) ht hfs, taken, BitVec.or_assoc, ← BitVec.and_or_distrib_left]; rfl
  · rw [foldl_locked h _ v _ _ (hl.trans hx) hfs, or_lockBit _ v hx]; rfl

/-- A store to a control register, `k` the bits its lock governs: its value, then what the store starts. -/
theorem store_control (f : Fld) (fs : List FieldRow) (he : (f, fs) ∈ controlRegs) (k : W64) (hk : lockedBits fs = k) (v : BitVec 32)
    (hr : h.reached f.a = true) : h.store f.a v.toNat false
      = (h.setReg f.a (lockStored (h.reg f.a) (v.setWidth 64) k)).afterWrite f.a (h.reg f.a) (v.setWidth 64) := by
  obtain ⟨hfs, -, h4, -⟩ := control_fields _ he
  obtain ⟨hb, hs⟩ := control_outside _ he
  have hp : (fs ++ [lockField]).any (fun f => f.acc == .pw) = false := by
    rw [List.any_eq_false]
    intro g hg
    rcases List.mem_append.1 hg with hg | hg
    · rcases hfs g hg with hg | hg <;> rw [hg] <;> decide
    · rw [List.mem_singleton.1 hg]; decide
  rw [store_register h _ v _ hr h4 hb hs (regRow_control _ he) hp, foldl_control h _ he, hk]

/-! ### What a store starts -/

theorem afterWrite_hctl (old v : W64) : h.afterWrite F.HCTL_lock.a old v = h := rfl
theorem afterWrite_dgctl (old v : W64) : h.afterWrite F.DGCTL_lock.a old v = h := rfl
theorem afterWrite_pwrctl (old v : W64) : h.afterWrite F.PWRCTL_lock.a old v = h.brakePass := rfl
theorem afterWrite_nfctl (old v : W64) : h.afterWrite F.NFCTL_lock.a old v
    = (let g := if v.getLsbD 2 then h.askGrn else h; if v.getLsbD 3 then g.sessionsGo else g) := rfl
theorem afterWrite_dgsnap (old v : W64) : h.afterWrite F.DGSNAP_go.a old v = if v.getLsbD 0 then h.askLatch none else h := rfl
theorem afterWrite_grnflush (old v : W64) : h.afterWrite F.GRNFLUSH_go.a old v = if v.getLsbD 0 then h.orderlyFlush else h := rfl

theorem store_hctl (v : BitVec 32) (hr : h.reached F.HCTL_lock.a = true) : h.store F.HCTL_lock.a v.toNat false
    = h.setReg F.HCTL_lock.a (lockStored (h.reg F.HCTL_lock.a) (v.setWidth 64) 7) := by
  rw [store_control h F.HCTL_lock _ (.head _) 7 (by decide) v hr, afterWrite_hctl]

theorem store_pwrctl (v : BitVec 32) (hr : h.reached F.PWRCTL_lock.a = true) : h.store F.PWRCTL_lock.a v.toNat false
    = (h.setReg F.PWRCTL_lock.a (lockStored (h.reg F.PWRCTL_lock.a) (v.setWidth 64) 0xF)).brakePass := by
  rw [store_control h F.PWRCTL_lock _ (.tail _ (.head _)) 0xF (by decide) v hr, afterWrite_pwrctl]

theorem store_dgctl (v : BitVec 32) (hr : h.reached F.DGCTL_lock.a = true) : h.store F.DGCTL_lock.a v.toNat false
    = h.setReg F.DGCTL_lock.a (lockStored (h.reg F.DGCTL_lock.a) (v.setWidth 64) 1) := by
  rw [store_control h F.DGCTL_lock _ (.tail _ (.tail _ (.tail _ (.head _)))) 1 (by decide) v hr, afterWrite_dgctl]

/-- NFCTL's go bits start the Granary first, then the sessions (R479, R493). -/
theorem store_nfctl (v : BitVec 32) (hr : h.reached F.NFCTL_lock.a = true) :
    let g := h.setReg F.NFCTL_lock.a (lockStored (h.reg F.NFCTL_lock.a) (v.setWidth 64) 3)
    let asked := if v.getLsbD 2 then g.askGrn else g
    h.store F.NFCTL_lock.a v.toNat false = if v.getLsbD 3 then asked.sessionsGo else asked := by
  intro g asked
  rw [store_control h F.NFCTL_lock _ (.tail _ (.tail _ (.head _))) 3 (by decide) v hr, afterWrite_nfctl, getLsbD_word v 2 (by decide),
    getLsbD_word v 3 (by decide)]

theorem askGrn_eq : h.askGrn =
    (let w : Hub := { h with nf := { h.nf with grnGo := true } }
     let on : Hub := { w with nf := { w.nf with grnOn := true } }
     if w.nf.grnOn = true ∨ w.forming 8 = false ∨ w.stage 2 = false then w
     else if on.g F.GRNHMSIZE_slots < on.g F.GRNHMNEED_slots then on.stopForm 9 else on) := by
  unfold askGrn grnStart
  simp only [Bool.or_eq_true, Bool.not_eq_true', or_assoc]

/-- A latch that nobody waits for (R513). -/
theorem askLatch_none : h.askLatch none = { h with diag := { h.diag with
    snapAt := some (h.diag.snapAt.getD (BitVec.ofNat 64 ((h.nt.toNat / 1000 + 1) * 1000))) } } := by
  unfold askLatch
  cases hs : h.diag.snapAt <;> simp

/-! ### Go bits -/

theorem regRow_go : ∀ f ∈ [F.DGSNAP_go, F.GRNFLUSH_go], regRow f.a = some ⟨f.a, 0, 1, false, [⟨0, 0, .wo, 0⟩]⟩ := by decide +kernel

theorem go_outside : ∀ f ∈ [F.DGSNAP_go, F.GRNFLUSH_go],
    f.a % 4 = 0 ∧ (f.a < 0x4000 ∨ 0x5000 ≤ f.a) ∧ (f.a < 0x34000 ∨ 0x35000 ≤ f.a) := by decide

/-- A register that holds a go bit alone keeps its value. -/
theorem store_go (f : Fld) (hf : f ∈ [F.DGSNAP_go, F.GRNFLUSH_go]) (v : BitVec 32) (hr : h.reached f.a = true) :
    h.store f.a v.toNat false = (h.setReg f.a (h.reg f.a)).afterWrite f.a (h.reg f.a) (v.setWidth 64) := by
  obtain ⟨h4, hb, hs⟩ := go_outside f hf
  rw [store_register h _ v _ hr h4 hb hs (regRow_go f hf) rfl]; dsimp only
  rw [List.foldl_cons, List.foldl_nil, fieldWrite_kept _ _ _ _ _ _ (.inr (.inl rfl))]

theorem store_dgsnap (v : BitVec 32) (hr : h.reached F.DGSNAP_go.a = true) :
    let g := h.setReg F.DGSNAP_go.a (h.reg F.DGSNAP_go.a)
    h.store F.DGSNAP_go.a v.toNat false = if v.getLsbD 0 then g.askLatch none else g := by
  intro g
  rw [store_go h F.DGSNAP_go (.head _) v hr, afterWrite_dgsnap, getLsbD_word v 0 (by decide)]

/-- A flush is made only by a Granary that is ready (R322). -/
theorem store_grnflush (v : BitVec 32) (hr : h.reached F.GRNFLUSH_go.a = true) :
    let g := h.setReg F.GRNFLUSH_go.a (h.reg F.GRNFLUSH_go.a)
    h.store F.GRNFLUSH_go.a v.toNat false
      = if v.getLsbD 0 && h.on F.GRNSTAT_ready then (g.emptyTun.mapCkpt).p F.GRNSTAT_clean 1 else g := by
  intro g
  have hg : g.on F.GRNSTAT_ready = h.on F.GRNSTAT_ready := by
    rw [on_eq_getLsbD _ _ rfl, on_eq_getLsbD _ _ rfl, reg_setReg_ne _ _ _ _ (by decide)]
  rw [store_go h F.GRNFLUSH_go (.tail _ (.head _)) v hr, afterWrite_grnflush, getLsbD_word v 0 (by decide)]
  unfold orderlyFlush
  rw [hg]
  cases v.getLsbD 0 <;> rfl

end Sys2Proof.Machine.Hub
end

section
/-! Stores to the registers of BAR0 that start nothing, to a ring's size register, to a partition's mode and to the
MSI-X table. -/

namespace Sys2Proof.Machine.Hub

variable (h : Hub)

/-- A field depends on its own bits alone. -/
theorem bitsOf_congr (x y hi lo : Nat) (e : ∀ i, lo ≤ i → i ≤ hi → x.testBit i = y.testBit i) : bitsOf x hi lo = bitsOf y hi lo := by
  apply Nat.eq_of_testBit_eq
  intro i
  simp only [bitsOf, Nat.testBit_mod_two_pow, Nat.testBit_div_two_pow]
  by_cases hi' : i < hi + 1 - lo
  · rw [e _ (by omega) (by omega)]
  · simp [hi']

/-! ### Registers whose write starts nothing -/

theorem plainReg_fields {a : Nat} {r : RegRow} (hp : plainReg a r = true) :
    r.fields.any (fun f => f.acc == .pw) = false ∧ ∀ f ∈ r.fields, lockBit a f.hi = false := by
  simp only [plainReg, Bool.and_eq_true, Bool.not_eq_true', List.any_eq_false, Bool.or_eq_true, not_or] at hp
  obtain ⟨⟨⟨⟨hf, -⟩, -⟩, -⟩, -⟩ := hp
  exact ⟨List.any_eq_false.2 (fun f h => (hf f h).1), fun f h => Bool.eq_false_iff.2 (hf f h).2⟩

theorem plainReg_place {a : Nat} {r : RegRow} (hp : plainReg a r = true) :
    (a < 0x34000 ∨ 0x35000 ≤ a) ∧ ringAt a = none ∧ (a < F.PARTCTL_mode.a ∨ F.PARTCTL_mode.a + 64 ≤ a)
    ∧ a ∉ [F.GRNWEIR_bg_pm.a, F.GRNCRIT_crit_pm.a, F.PWRCTL_lock.a, F.NFCTL_lock.a, F.DGSNAP_go.a, F.GRNFLUSH_go.a, F.GRNHMBASE_base.a,
      F.GRNHMSIZE_slots.a, F.INTCTL_inject_en.a] := by
  simp only [plainReg, Bool.and_eq_true, decide_eq_true_eq, Option.isNone_iff_eq_none] at hp
  obtain ⟨⟨⟨⟨-, hs⟩, hr⟩, hm⟩, hn⟩ := hp
  exact ⟨hs, hr, hm, hn⟩

theorem thawed_plain {a : Nat} {r : RegRow} (hp : plainReg a r = true) : thawed a = true := by
  obtain ⟨-, hr, -, hn⟩ := plainReg_place hp
  simp only [List.mem_cons, List.not_mem_nil, or_false, not_or] at hn
  simp [thawed, hr, hn]

/-- A field of such a register is stored by its access code alone. -/
theorem fieldWrite_plain {a : Nat} {r : RegRow} (hp : plainReg a r = true) (v m x : W64) (f : FieldRow) (hf : f ∈ r.fields) :
    h.fieldWrite a v m false x f = codeStored (h.locked a) v m x f := by
  have hz := frozen_thawed h a v f (thawed_plain hp)
  have hl := (plainReg_fields hp).2 f hf
  unfold codeStored
  cases hc : f.acc
  case rw => rw [fieldWrite_rw h a v m x f hc hl, hz]; rfl
  case rwl => rw [fieldWrite_rwl h a v m x f hc, hz, Bool.or_false]; rfl
  case w1c => exact fieldWrite_w1c h a v m x f hc
  case ro => exact fieldWrite_kept h a v m x f (.inl hc)
  case wo => exact fieldWrite_kept h a v m x f (.inr (.inl hc))
  case pw => exact fieldWrite_kept h a v m x f (.inr (.inr hc))

theorem afterWrite_plain {a : Nat} {r : RegRow} (hp : plainReg a r = true) (old v : W64) : h.afterWrite a old v = h := by
  obtain ⟨-, hr, hm, hn⟩ := plainReg_place hp
  simp only [List.mem_cons, List.not_mem_nil, or_false, not_or] at hn
  obtain ⟨hweir, hcrit, hpwr, hnf, hsnap, hflush, -⟩ := hn
  unfold afterWrite
  rw [hr]; dsimp only
  rw [if_neg (not_or.2 ⟨hweir, hcrit⟩), if_neg (fun e => absurd e.2 (not_lt.2 (hm.resolve_left (not_lt.2 e.1)))), if_neg hpwr,
    if_neg hnf, if_neg hsnap, if_neg hflush]

/-- A store to such a register leaves its fields by their access codes and starts nothing. -/
theorem regStore_plain {a : Nat} {r : RegRow} (hp : plainReg a r = true) (v m : W64) :
    h.regStore a r v m = h.setReg a (r.fields.foldl (codeStored (h.locked a) v m) (h.reg a)) := by
  rw [regStore_outside h a v m r (plainReg_fields hp).1 (plainReg_place hp).1, afterWrite_plain _ hp,
    List.foldl_ext _ _ _ (fun x f hf => fieldWrite_plain h hp v m x f hf)]

/-! ### Size registers of rings (R139, R144, R283, R288) -/

/-- The address of ring `n`'s size register. -/
def ringSizeAt (st : Bool) (n : Nat) : Nat := (ringRegs st).en.a + (ringRegs st).en.stride * n

theorem regRow_ringSize : ∀ st, ∀ n < 16, regRow (ringSizeAt st n)
    = some ⟨(ringRegs st).en.a, 0x20, 16, false, [⟨4, 0, .rw, 0xA⟩, ⟨8, 8, .rw, 0⟩]⟩ := by decide +kernel

theorem ringAt_ringSize : ∀ st, ∀ n < 16, ringAt (ringSizeAt st n) = some (st, n, 8) := by decide +kernel

theorem ringSize_place : ∀ st, ∀ n < 16, ringSizeAt st n % 4 = 0 ∧ (ringSizeAt st n < 0x4000 ∨ 0x5000 ≤ ringSizeAt st n)
    ∧ ringSizeAt st n < 0x34000 ∧ lockBit (ringSizeAt st n) 4 = false ∧ lockBit (ringSizeAt st n) 8 = false := by decide +kernel

theorem gi_enable (st : Bool) (n : Nat) : (h.gi (ringRegs st).en n == 1) = (h.reg (ringSizeAt st n)).getLsbD 8 := by
  cases st
  · exact gi_one h F.CMPSIZE_enable n rfl
  · exact gi_one h F.STRSIZE_enable n rfl

theorem frozen_ringSize (st : Bool) (n : Nat) (hn : n < 16) (v : W64) (f : FieldRow) :
    h.frozen (ringSizeAt st n) f v = ((h.reg (ringSizeAt st n)).getLsbD 8 && f.lo == 0) := by
  unfold frozen
  rw [ringAt_ringSize st n hn]; dsimp only
  rw [gi_enable]; simp

theorem foldl_ringSize (st : Bool) (n : Nat) (hn : n < 16) (v : W64) :
    [(⟨4, 0, .rw, 0xA⟩ : FieldRow), ⟨8, 8, .rw, 0⟩].foldl (h.fieldWrite (ringSizeAt st n) v 0xFFFFFFFF false) (h.reg (ringSizeAt st n))
      = ringSized (h.reg (ringSizeAt st n)) v := by
  obtain ⟨-, -, -, hl4, hl8⟩ := ringSize_place st n hn
  rw [List.foldl_cons, List.foldl_cons, List.foldl_nil, fieldWrite_rw _ _ _ _ _ _ rfl hl4,
    fieldWrite_rw _ _ _ _ _ _ rfl hl8, frozen_ringSize h st n hn, frozen_ringSize h st n hn]
  unfold ringSized
  cases (h.reg (ringSizeAt st n)).getLsbD 8
  · exact taken_taken _ _ v _
  · rfl

theorem afterWrite_ringSize (st : Bool) (n : Nat) (hn : n < 16) (old v : W64) :
    h.afterWrite (ringSizeAt st n) old v
      = if !old.getLsbD 8 && h.gi (ringRegs st).en n == 1 then h.enableRing st n else h := by
  unfold afterWrite
  rw [ringAt_ringSize st n hn]; rfl

/-- A ring's enable bit takes what is written. -/
theorem getLsbD_ringSized (old v : W64) : (ringSized old v).getLsbD 8 = v.getLsbD 8 := by
  have e : ringSized old v = taken (if old.getLsbD 8 then 0x100 else 0x11F) v old := rfl
  rw [e, getLsbD_taken]
  cases old.getLsbD 8 <;> rfl

/-- A store to a ring's size register: its size is kept while it is enabled, and a ring that becomes enabled starts. -/
theorem store_ringSize (st : Bool) (n : Nat) (hn : n < 16) (v : BitVec 32) (hr : h.reached (ringSizeAt st n) = true) :
    let old := h.reg (ringSizeAt st n)
    let g := h.setReg (ringSizeAt st n) (ringSized old (v.setWidth 64))
    h.store (ringSizeAt st n) v.toNat false = if !old.getLsbD 8 && v.getLsbD 8 then g.enableRing st n else g := by
  obtain ⟨h4, hb, hs, -⟩ := ringSize_place st n hn
  intro old g
  rw [store_register h _ v _ hr h4 hb (.inl hs) (regRow_ringSize st n hn) rfl]; dsimp only
  rw [foldl_ringSize h st n hn, afterWrite_ringSize _ st n hn, gi_enable, reg_setReg_same, getLsbD_ringSized,
    getLsbD_word v 8 (by decide)]

/-! ### Modes of partitions (R218) -/

/-- The address of partition `p`'s control register. -/
def partctlAt (p : Nat) : Nat := F.PARTCTL_mode.a + F.PARTCTL_mode.stride * p

theorem regRow_partctl : ∀ p < 16, regRow (partctlAt p)
    = some ⟨F.PARTCTL_mode.a, 4, 16, false, [⟨0, 0, .rw, 0⟩, ⟨1, 1, .w1c, 0⟩, ⟨2, 2, .ro, 0⟩, ⟨15, 8, .ro, 0⟩]⟩ := by
  decide +kernel

theorem partctl_place : ∀ p < 16, partctlAt p % 4 = 0 ∧ 0x5000 ≤ partctlAt p ∧ partctlAt p < 0x34000
    ∧ thawed (partctlAt p) = true ∧ lockBit (partctlAt p) 0 = false := by decide +kernel

theorem afterWrite_partctl (p : Nat) (hp : p < 16) (old v : W64) :
    h.afterWrite (partctlAt p) old v = if v.getLsbD 0 then h.modeCheck p else h := by
  have hr : ringAt (partctlAt p) = none := by
    have ht := (partctl_place p hp).2.2.2.1
    simp only [thawed, Bool.and_eq_true, Option.isNone_iff_eq_none] at ht
    exact ht.1
  have e : partctlAt p = F.PARTCTL_mode.a + 4 * p := rfl
  have hn : (partctlAt p - F.PARTCTL_mode.a) / 4 = p := by rw [e]; omega
  unfold afterWrite
  rw [hr, hn]; dsimp only
  have hm : F.PARTCTL_mode.a = 0x24080 := rfl
  have hw : F.GRNWEIR_bg_pm.a = 0x2C00C ∧ F.GRNCRIT_crit_pm.a = 0x2C010 := ⟨rfl, rfl⟩
  rw [if_neg (by omega), if_pos (by omega)]

/-- A partition's control register after a store: mode is stored, mode_err is cleared where 1 is written. -/
def modeStored (old v : W64) : W64 := ((old &&& ~~~1) ||| (v &&& 1)) &&& ~~~(v &&& 2)

theorem store_partctl (p : Nat) (hp : p < 16) (v : BitVec 32) (hr : h.reached (partctlAt p) = true) :
    let g := h.setReg (partctlAt p) (modeStored (h.reg (partctlAt p)) (v.setWidth 64))
    h.store (partctlAt p) v.toNat false = if v.getLsbD 0 then g.modeCheck p else g := by
  obtain ⟨h4, hb, hs, ht, hl⟩ := partctl_place p hp
  have hz := frozen_thawed h (partctlAt p) (v.setWidth 64) ⟨0, 0, .rw, 0⟩ ht
  have hfold : [(⟨0, 0, .rw, 0⟩ : FieldRow), ⟨1, 1, .w1c, 0⟩, ⟨2, 2, .ro, 0⟩, ⟨15, 8, .ro, 0⟩].foldl
      (h.fieldWrite (partctlAt p) (v.setWidth 64) 0xFFFFFFFF false) (h.reg (partctlAt p))
      = modeStored (h.reg (partctlAt p)) (v.setWidth 64) := by
    rw [List.foldl_cons, fieldWrite_rw _ _ _ _ _ _ rfl hl, hz]; rfl
  intro g
  rw [store_register h _ v _ hr h4 (.inr hb) (.inl hs) (regRow_partctl p hp) rfl]; dsimp only
  rw [hfold, afterWrite_partctl _ p hp, getLsbD_word v 0 (by decide)]

/-- The window of partition `p` holds a chunk of the active plan (R218). -/
def windowHolds (p : Nat) : Prop := ∃ pl, h.plan = some pl ∧ pl.chunkGr ≤ h.gi F.PARTCTL_window p

theorem modeCheck_holds (p : Nat) (hw : h.windowHolds p) : h.modeCheck p = h := by
  obtain ⟨pl, hpl, hle⟩ := hw
  unfold modeCheck
  rw [hpl]; simp [hle]

theorem modeCheck_lacks (p : Nat) (hm : h.gi F.PARTCTL_mode p = 1) (hw : ¬ h.windowHolds p) :
    h.modeCheck p = (h.pi F.PARTCTL_mode p 0).pi F.PARTCTL_mode_err p 1 := by
  unfold modeCheck
  cases hpl : h.plan with
  | none => simp [hm]
  | some pl =>
    have hlt : ¬ pl.chunkGr ≤ h.gi F.PARTCTL_window p := fun hle => hw ⟨pl, hpl, hle⟩
    simp [hm, hlt]

theorem plan_partctl (p : Nat) (hp : p < 16) (v : W64) : (h.setReg (partctlAt p) v).plan = h.plan := by
  have e : partctlAt p = F.PARTCTL_mode.a + 4 * p := rfl
  have hg (f : Fld) (hf : f.a < F.PARTCTL_mode.a) (hs : f.stride = 0) : (h.setReg (partctlAt p) v).g f = h.g f := by
    unfold g gi
    rw [reg_setReg_ne h _ _ _ (by rw [hs, e]; omega)]
  unfold plan
  rw [hg F.POOLROLE_size (by decide) rfl, hg F.POOLROLE_base (by decide) rfl, hg F.POOLPLAN_active (by decide) rfl, setReg_im]

theorem getLsbD_modeStored (old v : W64) (i : Nat) : (modeStored old v).getLsbD i
    = if i = 0 then v.getLsbD 0 else if i = 1 then old.getLsbD 1 && !v.getLsbD 1 else old.getLsbD i := by
  have h2 : (2 : W64) = BitVec.twoPow 64 1 := rfl
  have e : modeStored old v = taken 1 v old &&& ~~~(v &&& 2) := rfl
  by_cases hi : i < 64
  · rw [e, BitVec.getLsbD_and, getLsbD_taken, BitVec.getLsbD_not, BitVec.getLsbD_and, h2, BitVec.getLsbD_twoPow]
    by_cases h0 : i = 0
    · subst h0; simp
    · by_cases h1 : i = 1
      · subst h1; simp
      · simp [h0, h1, Ne.symm h1, hi]
  · rw [if_neg (by omega), if_neg (by omega), BitVec.getLsbD_of_ge _ i (by omega), BitVec.getLsbD_of_ge _ i (by omega)]

theorem gi_mode_stored (p : Nat) (v : W64) :
    ((h.setReg (partctlAt p) (modeStored (h.reg (partctlAt p)) v)).gi F.PARTCTL_mode p == 1) = v.getLsbD 0 := by
  refine (gi_one _ F.PARTCTL_mode p rfl).trans ?_
  rw [← partctlAt, reg_setReg_same, getLsbD_modeStored]; rfl

theorem gi_window_stored (p : Nat) (v : W64) :
    (h.setReg (partctlAt p) (modeStored (h.reg (partctlAt p)) v)).gi F.PARTCTL_window p = h.gi F.PARTCTL_window p := by
  have e : F.PARTCTL_window.a + F.PARTCTL_window.stride * p = partctlAt p := rfl
  unfold gi
  rw [e, reg_setReg_same]
  apply bitsOf_congr
  intro i hlo _
  have hi : 8 ≤ i := hlo
  have := getLsbD_modeStored (h.reg (partctlAt p)) v i
  rwa [if_neg (by omega), if_neg (by omega)] at this

theorem windowHolds_stored (p : Nat) (hp : p < 16) (v : W64) :
    (h.setReg (partctlAt p) (modeStored (h.reg (partctlAt p)) v)).windowHolds p = h.windowHolds p := by
  unfold windowHolds
  rw [plan_partctl h p hp, gi_window_stored]

/-! ### The MSI-X table (R286) -/

section
variable (k v : Nat) (hk : k < 48)
include hk

theorem msixStore_mask : h.msixStore (0x4000 + 16 * k + 12) v =
    (let q := smGet {} h.irq k
     if !(v % 2 == 1) && q.pend then
       ({ h with irq := smSet {} h.irq k { q with masked := false, pend := false } } : Hub).emit (.msix (BitVec.ofNat 6 k))
     else { h with irq := smSet {} h.irq k { q with masked := v % 2 == 1 } }) := by
  have hd : (0x4000 + 16 * k + 12 - 0x4000) / 16 = k := by omega
  unfold msixStore
  rw [if_pos ⟨by omega, by omega, by omega⟩, hd]

theorem msixStore_word (o : Nat) (ho : o = 0 ∨ o = 4 ∨ o = 8) : h.msixStore (0x4000 + 16 * k + o) v =
    (let q := smGet {} h.irq k
     let now : Irq := if o = 8 then { q with data := BitVec.ofNat 32 v }
       else { q with addr := BitVec.ofNat 64 (if o = 0 then setBits q.addr.toNat 31 0 v else setBits q.addr.toNat 63 32 v) }
     { h with irq := smSet {} h.irq k now }) := by
  have hd : (0x4000 + 16 * k + o - 0x4000) / 16 = k := by omega
  have hm : (0x4000 + 16 * k + o) % 16 = o := by omega
  unfold msixStore
  rw [if_neg (by omega), if_pos ⟨by omega, by omega, by omega⟩, hd, hm]
  rcases ho with rfl | rfl | rfl <;> simp

end

/-- The block ends with the last vector. -/
theorem msixStore_past (a v : Nat) (ha : 0x4300 ≤ a) : h.msixStore a v = h := by
  unfold msixStore
  rw [if_neg (by omega), if_neg (by omega)]

end Sys2Proof.Machine.Hub
end

section
/-! The statements on stores: O51 and O52. -/

namespace Sys2Proof.Machine

open Hub

/-! ### Commands that store -/

/-- The command stores the word `v` in the register at `a`. -/
def Stores (c : Instr) (tm : Nt) (a : Nat) (v : BitVec 32) : Prop :=
  ∀ s, exec c s = onHub tm (fun h => h.store a v.toNat false) s

section
variable {c : Instr} {tm : Nt} {a : Nat} {v : BitVec 32} (hc : Stores c tm a v) (s : State)
include hc

theorem Stores.ends {u : Hub} (hu : (s.hub.stamp tm).store a v.toNat false = u) : Ends c s u := ends_hub c tm _ s u (hc s) hu

theorem Stores.ends_unreached (hr : (s.hub.stamp tm).reached a = false) : Ends c s (s.hub.stamp tm) :=
  hc.ends s (store_unreached _ a _ false hr)

end

theorem stores_hctlLock (tm : Nt) (v : BitVec 32) : Stores (.hctlLock tm v) tm F.HCTL_lock.a v := fun _ => rfl
theorem stores_pwrctlLock (tm : Nt) (v : BitVec 32) : Stores (.pwrctlLock tm v) tm F.PWRCTL_lock.a v := fun _ => rfl
theorem stores_nfctlLock (tm : Nt) (v : BitVec 32) : Stores (.nfctlLock tm v) tm F.NFCTL_lock.a v := fun _ => rfl
theorem stores_grnGo (tm : Nt) (v : BitVec 32) : Stores (.grnGo tm v) tm F.NFCTL_lock.a v := fun _ => rfl
theorem stores_sessionsGo (tm : Nt) (v : BitVec 32) : Stores (.sessionsGo tm v) tm F.NFCTL_lock.a v := fun _ => rfl
theorem stores_dgctlLock (tm : Nt) (v : BitVec 32) : Stores (.dgctlLock tm v) tm F.DGCTL_lock.a v := fun _ => rfl
theorem stores_dgsnap (tm : Nt) (v : BitVec 32) : Stores (.dgsnap tm v) tm F.DGSNAP_go.a v := fun _ => rfl
theorem stores_grnflush (tm : Nt) (v : BitVec 32) : Stores (.grnflush tm v) tm F.GRNFLUSH_go.a v := fun _ => rfl
theorem stores_stoneretire (tm : Nt) (v : BitVec 32) : Stores (.stoneretire tm v) tm F.STONERETIRE_stone.a v := fun _ => rfl
theorem stores_aixbankmap (tm : Nt) (v : BitVec 32) : Stores (.aixbankmap tm v) tm F.AIXBANKMAP_bank.a v := fun _ => rfl
theorem stores_mollane (tm : Nt) (n : BitVec 4) (v : BitVec 32) :
    Stores (.mollane tm n v) tm (F.MOLLANE_lane.a + F.MOLLANE_lane.stride * n.toNat) v := fun _ => rfl
theorem stores_streamRing (tm : Nt) (n : BitVec 4) (v : BitVec 32) :
    Stores (.streamRingEnable tm n v) tm (ringSizeAt true n.toNat) v := fun _ => rfl
theorem stores_completionRing (tm : Nt) (n : BitVec 4) (v : BitVec 32) :
    Stores (.completionRingEnable tm n v) tm (ringSizeAt false n.toNat) v := fun _ => rfl
theorem stores_partctlMode (tm : Nt) (p : BitVec 4) (v : BitVec 32) : Stores (.partctlMode tm p v) tm (partctlAt p.toNat) v := fun _ => rfl

/-! ### O51 -/

/-- Settles O51, register by register: what the store leaves, then what it starts. -/
theorem controlStores : Obligations.ControlStores := by
  unfold Obligations.ControlStores
  intro tm v s
  dsimp only
  refine ⟨fun hr => ?_, fun hr => ?_, fun hr => ?_, fun c hc hr => ?_, fun hr hv => ?_, fun hr hv => ?_, fun hr hv hg => ?_,
    fun hr hv => ?_, ?_⟩
  · exact (stores_hctlLock tm v).ends s (store_hctl _ v hr)
  · exact (stores_pwrctlLock tm v).ends s (store_pwrctl _ v hr)
  · exact (stores_dgctlLock tm v).ends s (store_dgctl _ v hr)
  · have hs : Stores c tm F.NFCTL_lock.a v := by
      simp only [List.mem_cons, List.not_mem_nil, or_false] at hc
      rcases hc with rfl | rfl | rfl
      · exact stores_nfctlLock tm v
      · exact stores_grnGo tm v
      · exact stores_sessionsGo tm v
    refine hs.ends s ((store_nfctl _ v hr).trans ?_)
    simp only [askGrn_eq, sessionsGo]
  · exact (stores_dgsnap tm v).ends s ((store_dgsnap _ v hr).trans (by rw [if_pos hv, askLatch_none]; rfl))
  · exact (stores_dgsnap tm v).ends s ((store_dgsnap _ v hr).trans (by rw [hv]; rfl))
  · exact (stores_grnflush tm v).ends s ((store_grnflush _ v hr).trans (by rw [hv, hg]; rfl))
  · refine (stores_grnflush tm v).ends s ((store_grnflush _ v hr).trans ?_)
    rcases hv with hv | hv
    · rw [hv]; rfl
    · rw [hv, Bool.and_false]; rfl
  · simp only [List.forall_mem_cons]
    exact ⟨(stores_hctlLock tm v).ends_unreached s, (stores_pwrctlLock tm v).ends_unreached s, (stores_dgctlLock tm v).ends_unreached s,
      (stores_nfctlLock tm v).ends_unreached s, (stores_grnGo tm v).ends_unreached s, (stores_sessionsGo tm v).ends_unreached s,
      (stores_dgsnap tm v).ends_unreached s, (stores_grnflush tm v).ends_unreached s, fun _ he => absurd he List.not_mem_nil⟩

/-! ### O52 -/

theorem toNat_addr (a : Nat) (ha : a < 2 ^ 20) : (BitVec.ofNat 20 a).toNat = a := by
  rw [BitVec.toNat_ofNat, Nat.mod_eq_of_lt ha]

/-- NFRESET holds a paired word. -/
theorem regRow_nfreset : ∃ r, regRow F.NFRESET_code.a = some r ∧ plainReg F.NFRESET_code.a r = false :=
  ⟨⟨F.NFRESET_code.a, 0, 1, false, [⟨7, 0, .pw, 0⟩, ⟨15, 8, .pw, 0⟩, ⟨31, 16, .pw, 0xFFFF⟩]⟩, by decide +kernel,
    by decide +kernel⟩

theorem ne_nfreset_of_plain {a : Nat} {r : RegRow} (hr : regRow a = some r) (hp : plainReg a r = true) : a ≠ F.NFRESET_code.a := by
  rintro rfl
  obtain ⟨r', hr', hp'⟩ := regRow_nfreset
  rw [hr', Option.some.injEq] at hr
  rw [← hr, hp'] at hp
  exact Bool.false_ne_true hp

theorem ne_nfreset_of_unlisted {a : Nat} (hr : regRow a = none) : a ≠ F.NFRESET_code.a := by
  rintro rfl
  obtain ⟨r, hr', -⟩ := regRow_nfreset
  rw [hr] at hr'; cases hr'

/-- A store to any register but NFRESET is a command on the hub alone. -/
theorem exec_registerWrite (tm : Nt) (addr : BitVec 20) (x : W64) (w : Bool) (s : State) (hn : addr.toNat ≠ F.NFRESET_code.a) :
    exec (.registerWrite tm addr x w) s = onHub tm (fun h => h.store addr.toNat x.toNat w) s := by
  have e : exec (.registerWrite tm addr x w) s = execRegisterWrite tm addr x w s := rfl
  rw [e, execRegisterWrite, if_neg hn]

theorem ends_registerWrite {tm : Nt} {addr : BitVec 20} {x : W64} {w : Bool} {s : State} {u : Hub} (hn : addr.toNat ≠ F.NFRESET_code.a)
    (hu : (s.hub.stamp tm).store addr.toNat x.toNat w = u) : Ends (.registerWrite tm addr x w) s u :=
  ends_hub _ tm _ s u (exec_registerWrite tm addr x w s hn) hu

/-- A register that has a command of its own: a store to it does as that command. -/
theorem Stores.registerWrite {c : Instr} {tm : Nt} {a : Nat} {v : BitVec 32} (hc : Stores c tm a v) (s : State) (x : W64)
    (ha : a < 2 ^ 20) (hn : a ≠ F.NFRESET_code.a) (hx : x.toNat % 2 ^ 32 = v.toNat) :
    exec (.registerWrite tm (BitVec.ofNat 20 a) x false) s = exec c s := by
  have e := toNat_addr a ha
  have hlow (h : Hub) : h.store a x.toNat false = h.store a v.toNat false :=
    store_low h a _ _ (hx.trans (Nat.mod_eq_of_lt v.isLt).symm)
  rw [hc s, exec_registerWrite tm _ x false s (by rwa [e]), e]
  simp only [hlow]

/-- The fields in whose rows of like registers each register has a command of its own. -/
def unitFields : List Fld := [F.MOLLANE_lane, F.STRSIZE_enable, F.CMPSIZE_enable, F.PARTCTL_mode]

theorem unitFields_place : ∀ f ∈ unitFields, ∀ n < 16, f.a + f.stride * n < 2 ^ 20 ∧ f.a + f.stride * n ≠ F.NFRESET_code.a := by
  decide +kernel

theorem ne_nfreset_of_msix {a : Nat} (hb : ¬ listedBlock a) : a ≠ F.NFRESET_code.a :=
  fun e => hb (e ▸ .inr (by decide))

/-- The words of a vector in the MSI-X table. -/
theorem msix_addr (k : Nat) (hk : k < 48) (o : Nat) (ho : o < 16) (h4 : o % 4 = 0) :
    (BitVec.ofNat 20 (0x4000 + 16 * k + o)).toNat = 0x4000 + 16 * k + o ∧ (0x4000 + 16 * k + o) % 4 = 0
    ∧ ¬ listedBlock (0x4000 + 16 * k + o) := by
  refine ⟨toNat_addr _ (by omega), by omega, ?_⟩
  unfold listedBlock; omega

/-- A ring's size register: its size is kept while it is enabled, and a ring that becomes enabled starts at 0 and drains its backlog
(R139, R144, R283, R288). -/
theorem Stores.ends_ring {c : Instr} {tm : Nt} {st : Bool} {n : Nat} {v : BitVec 32} (hc : Stores c tm (ringSizeAt st n) v) (hn : n < 16)
    (s : State) (hr : (s.hub.stamp tm).reached (ringSizeAt st n) = true) :
    let h := s.hub.stamp tm
    let old := h.reg (ringSizeAt st n)
    let g := h.setReg (ringSizeAt st n) (ringSized old (v.setWidth 64))
    (old.getLsbD 8 = true ∨ v.getLsbD 8 = false → Ends c s g)
    ∧ (old.getLsbD 8 = false → v.getLsbD 8 = true → Ends c s ((((g.pi (ringRegs st).prod n 0).setRing st n
        { h.ring st n with consumed := 0 }).drain st n ((h.ring st n).backlog.length + 1)).ringTested st n)) := by
  intro h old g
  have hst := store_ringSize h st n hn v hr
  refine ⟨fun hv => hc.ends s (hst.trans (if_neg ?_)), fun ho hv => hc.ends s (hst.trans (if_pos ?_))⟩
  · rw [Bool.and_eq_true_iff, Bool.not_eq_true']
    rintro ⟨ho, hnew⟩
    rcases hv with hv | hv
    · exact Bool.false_ne_true (ho.symm.trans hv)
    · exact Bool.false_ne_true (hv.symm.trans hnew)
  · exact Bool.and_eq_true_iff.2 ⟨congrArg not ho, hv⟩

/-- A partition's mode: a write of 1 is kept where its window holds a chunk, and refused with mode_err elsewhere (R218). -/
theorem Stores.ends_partctl {c : Instr} {tm : Nt} {p : Nat} {v : BitVec 32} (hc : Stores c tm (partctlAt p) v) (hp : p < 16) (s : State)
    (hr : (s.hub.stamp tm).reached (partctlAt p) = true) :
    let h := s.hub.stamp tm
    let g := h.setReg (partctlAt p) (modeStored (h.reg (partctlAt p)) (v.setWidth 64))
    (v.getLsbD 0 = false ∨ h.windowHolds p → Ends c s g)
    ∧ (v.getLsbD 0 = true → ¬ h.windowHolds p → Ends c s ((g.pi F.PARTCTL_mode p 0).pi F.PARTCTL_mode_err p 1)) := by
  intro h g
  have hst := store_partctl h p hp v hr
  have hwin : g.windowHolds p = h.windowHolds p := windowHolds_stored h p hp _
  have hmode : g.gi F.PARTCTL_mode p = 1 ↔ v.getLsbD 0 = true := by
    rw [← beq_iff_eq, gi_mode_stored, getLsbD_word v 0 (by decide)]
  refine ⟨fun hv => hc.ends s (hst.trans ?_), fun hv hw => hc.ends s (hst.trans ?_)⟩
  · rcases hv with hv | hw
    · exact if_neg (by rw [hv]; exact Bool.false_ne_true)
    · rw [modeCheck_holds g p (hwin.symm ▸ hw), ite_self]
  · rw [if_pos hv, modeCheck_lacks g p (hmode.2 hv) (hwin.symm ▸ hw)]

/-- A write of NFRESET is a warm reset's command (R374, R498). -/
theorem exec_registerWrite_nfreset (tm : Nt) (v : BitVec 32) (s : State) (x : W64) (hx : x.toNat % 2 ^ 32 = v.toNat) :
    exec (.registerWrite tm (BitVec.ofNat 20 F.NFRESET_code.a) x false) s = exec (.warmReset tm v) s := by
  have e : x.setWidth 32 = v := BitVec.eq_of_toNat_eq (by rw [BitVec.toNat_setWidth, hx])
  rw [← e]; rfl

/-- Settles O52, clause by clause: the path of the store to its register, then what that register takes and starts. -/
theorem registerStores : Obligations.RegisterStores := by
  unfold Obligations.RegisterStores
  intro tm s
  dsimp only
  refine ⟨?word, ?wide, ?ignored, ?upper, ?unaligned, ?own, ?unit, ?store, ?msixWide, ?msixMask, ?msixWord, ?msixPast, ?unreached, ?rings,
    ?modeUnreached, ?mode⟩
  case word =>
    intro addr x r ha hr hrow hp hb
    refine ends_registerWrite (ne_nfreset_of_plain hrow hp) ?_
    rw [store_word _ _ _ hr ha hb, store32_row _ _ _ r hrow, regStore_plain _ hp]; rfl
  case wide =>
    intro addr x r ha hw hr hrow hp hb
    refine ends_registerWrite (ne_nfreset_of_plain hrow hp) ?_
    rw [store_wide _ _ _ hr ha hb, store64_wide _ _ _ r hrow hw, regStore_plain _ hp, BitVec.ofNat_toNat, BitVec.setWidth_eq]; rfl
  case ignored =>
    rintro addr x (ha | ⟨hn, hn4, hb⟩)
    · exact ends_registerWrite (fun e => ha (e.symm ▸ rfl)) (store_unaligned _ _ _ ha)
    · exact ends_registerWrite (ne_nfreset_of_unlisted hn) (store_unlisted _ _ _ hn hn4 hb)
  case upper =>
    intro addr x r ha h4 hr hb hn hrow hp
    refine ends_registerWrite (ne_nfreset_of_unlisted hn) ?_
    rw [store_word _ _ _ hr ha hb, store32_upper _ _ _ r h4 hn hrow, regStore_plain _ hp]
  case unaligned =>
    intro addr x ha hn
    exact ends_registerWrite hn (store_wide_unaligned _ _ _ ha)
  case own =>
    intro v x hx
    simp only [List.forall_mem_cons]
    exact ⟨(stores_hctlLock tm v).registerWrite s x (by decide) (by decide) hx,
      (stores_pwrctlLock tm v).registerWrite s x (by decide) (by decide) hx,
      (stores_nfctlLock tm v).registerWrite s x (by decide) (by decide) hx,
      (stores_dgctlLock tm v).registerWrite s x (by decide) (by decide) hx,
      (stores_dgsnap tm v).registerWrite s x (by decide) (by decide) hx,
      (stores_grnflush tm v).registerWrite s x (by decide) (by decide) hx,
      (stores_stoneretire tm v).registerWrite s x (by decide) (by decide) hx,
      (stores_aixbankmap tm v).registerWrite s x (by decide) (by decide) hx,
      exec_registerWrite_nfreset tm v s x hx, fun _ he => absurd he List.not_mem_nil⟩
  case unit =>
    intro n v x hx
    have hp : ∀ f ∈ unitFields, f.a + f.stride * n.toNat < 2 ^ 20 ∧ f.a + f.stride * n.toNat ≠ F.NFRESET_code.a :=
      fun f hf => unitFields_place f hf n.toNat n.isLt
    simp only [unitFields, List.forall_mem_cons] at hp ⊢
    obtain ⟨hlane, hstr, hcmp, hmode, -⟩ := hp
    exact ⟨(stores_mollane tm n v).registerWrite s x hlane.1 hlane.2 hx, (stores_streamRing tm n v).registerWrite s x hstr.1 hstr.2 hx,
      (stores_completionRing tm n v).registerWrite s x hcmp.1 hcmp.2 hx, (stores_partctlMode tm n v).registerWrite s x hmode.1 hmode.2 hx,
      fun _ he => absurd he List.not_mem_nil⟩
  case store =>
    intro addr x hr hn hb
    refine ⟨fun ha => ends_registerWrite hn (store_word _ _ _ hr ha hb), fun ha hw => ends_registerWrite hn ?_⟩
    rw [store_wide _ _ _ hr ha hb, store64_words _ _ _ hw]
  case msixWide =>
    intro addr x hr hb ha
    exact ends_registerWrite (ne_nfreset_of_msix hb) (store_msix_wide _ _ _ hr ha hb)
  case msixMask =>
    intro k x hk hr
    obtain ⟨e, h4, hb⟩ := msix_addr k.toNat hk 12 (by decide) (by decide)
    refine ends_registerWrite (ne_nfreset_of_msix (by rwa [e])) ?_
    rw [e, store_msix_word _ _ _ hr h4 hb, msixStore_mask _ _ _ hk, Nat.mod_mod_of_dvd _ (by decide), BitVec.ofNat_toNat,
      BitVec.setWidth_eq]
    dsimp only
    split
    · rfl
    · rfl
  case msixWord =>
    intro k o x hk ho hr
    simp only [List.mem_cons, List.not_mem_nil, or_false] at ho
    obtain ⟨e, h4, hb⟩ := msix_addr k.toNat hk o (by omega) (by omega)
    refine ends_registerWrite (ne_nfreset_of_msix (by rwa [e])) ?_
    rw [e, store_msix_word _ _ _ hr h4 hb, msixStore_word _ _ _ hk o ho]
  case msixPast =>
    intro addr x ha hr hb hp
    exact ends_registerWrite (ne_nfreset_of_msix hb) ((store_msix_word _ _ _ hr ha hb).trans (msixStore_past _ _ _ hp))
  case unreached =>
    intro addr x w hr hn
    exact ends_registerWrite hn (store_unreached _ _ _ w hr)
  case rings =>
    intro n v
    exact ⟨(stores_streamRing tm n v).ends_ring n.isLt s, (stores_completionRing tm n v).ends_ring n.isLt s,
      (stores_streamRing tm n v).ends_unreached s, (stores_completionRing tm n v).ends_unreached s⟩
  case modeUnreached => exact fun p v => (stores_partctlMode tm p v).ends_unreached s
  case mode => exact fun p v => (stores_partctlMode tm p v).ends_partctl p.isLt s

end Sys2Proof.Machine
end

section
/-! Session instructions that change what a session is doing: PARK, REVIVE and MIGRATE (O20). -/

namespace Sys2Proof.Machine
open Hub

namespace Hub

variable (h : Hub) (i : Handle) (w : W64)

/-! ### The case of each instruction in which it acts -/

/-- PARK of a READY or WAITING session that nothing holds starts its park (R153). -/
theorem iPark_starts (hs : (h.s i).r.state = S.ready ∨ (h.s i).r.state = S.waiting) (ho : (h.s i).r.omm = false)
    (hd : (h.s i).demote = false) (hn : (h.s i).intakes = 0) :
    h.iPark i w = (h.startPark i false none).stat i St.ok 0 := by
  unfold iPark
  rcases hs with hs | hs <;> simp [hs, ho, hd, hn, S.ready, S.waiting, S.parking, S.parked, S.reviving]

/-- REVIVE of a PARKED session whose revive is not refused blocks on it (R155). -/
theorem iRevive_blocks (hs : (h.s i).r.state = S.parked) (hd : (h.s i).demote = false) (hq : (h.startRevive i 0 none).1 = none) :
    h.iRevive i w = (h.startRevive i 0 none).2.block i (.revive (dstOf w)) := by
  unfold iRevive
  dsimp only
  rw [hs, hd, if_neg (by decide), if_pos (by decide), hq]

/-- A block leaves the registers, cached state, images and node time. -/
theorem block_keeps (b : Blk) :
    (∀ a, (h.block i b).reg a = h.reg a) ∧ (h.block i b).kv = h.kv ∧ (h.block i b).im = h.im ∧ (h.block i b).nt = h.nt := by
  dsimp only [block, unready, modS, setS, reg]
  exact ⟨fun _ => rfl, rfl, rfl, rfl⟩

/-- A session that blocks can be recomputed where it could before. -/
theorem recomputable_block (b : Blk) : (h.block i b).recomputable i = h.recomputable i := by
  obtain ⟨hr, hk, hi, hn⟩ := block_keeps h i b
  refine recomputable_alike (fun a _ => hr a) hk hi hn i ?_ ?_ ?_ ?_ <;> rw [s_block_same]

/-- A session that blocks reaches the devices it could reach before. -/
theorem reachable_block (b : Blk) (d : BitVec 6) : (h.block i b).reachable d = h.reachable d :=
  reachable_alike (fun a _ => (block_keeps h i b).1 a) d

/-- MIGRATE of a session at rest that this device owns, to another active device, blocks on its migration (R176). -/
theorem iMigrate_starts (hs : (h.s i).r.state = S.ready ∨ (h.s i).r.state = S.waiting ∨ (h.s i).r.state = S.parked)
    (hh : h.holds i = false) (hn : (h.s i).intakes = 0) (hr : h.rotating i = false) (ho : (h.s i).r.omm = false)
    (hd : (BitVec.ofNat 6 (h.srcVal i w 0).toNat : BitVec 6).toNat ≠ h.dev)
    (ha : h.isActive (BitVec.ofNat 6 (h.srcVal i w 0).toNat) = true) :
    h.iMigrate i w =
      (h.block i (.migrate (dstOf w))).startMig i (BitVec.ofNat 6 (h.srcVal i w 0).toNat) (iw w 0 0 == 1) none false := by
  unfold iMigrate
  have hrest : ((h.s i).r.state == S.ready || (h.s i).r.state == S.waiting || (h.s i).r.state == S.parked) = true := by
    rcases hs with hs | hs | hs <;> simp [hs]
  dsimp only
  rw [if_neg (by simp [hh, hn, hr]), if_neg (by simp [hrest]), if_neg (by simp [ho]), if_neg (by rw [ha]; simpa using hd)]

end Hub

/-- Settles O20: each instruction takes its one acting case, and the laws of parks, revives and migrations say what that leaves. -/
theorem sessionTransitions : Obligations.SessionTransitions := by
  intro tm i w s x now dst d
  refine ⟨fun hr hs ho hd hn => ?park, fun hr hs hd hl ht => ?revive, fun hr hs hh hn hrot ho hd ha hre hk => ?migrate⟩
  case park =>
    refine instr_answers _ tm i w 0x20 _ s _ rfl hr ?_
    obtain ⟨p1, p2, p3, p4, -, p6, p7⟩ := startPark_same (s.hub.stamp tm) i false none
    have e := iPark_starts (s.hub.stamp tm) i w hs ho hd hn
    dsimp only
    simp only [rec_finish, s_rest_finish, kept_finish, e, s_stat_same]
    simp only [wStat_state, wStat_prior, wStat_ttlArmed, wStat_expiry]
    refine ⟨p1, p2, p3, by rw [p4, s_stamp], p6, p7, (wStat_flags _ _ _).1, fun j hj => ?_, rfl, rfl⟩
    rw [s_stat_ne _ i j _ _ hj, startPark_ne _ i j _ _ hj, s_stamp]
  case revive =>
    refine instr_answers _ tm i w 0x21 _ s _ rfl hr ?_
    obtain ⟨q, ⟨p1, p2, p3, p4, p5, p6⟩, po⟩ := startRevive_begun (s.hub.stamp tm) i 0 none (fun h => BitVec.lt_def.2 (ht h)) (.inl hl)
    have e := iRevive_blocks (s.hub.stamp tm) i w hs hd q
    dsimp only
    simp only [rec_finish, s_blk_finish, s_runnable_finish, kept_finish, e, s_block_same]
    refine ⟨p1, p2.trans hs, rfl, trivial, p3, p4, p5, p6, fun j hj => ?_, rfl, rfl⟩
    rw [s_block_ne _ i j _ hj, po j hj, s_stamp]
  case migrate =>
    refine instr_answers _ tm i w 0x22 _ s _ rfl hr ?_
    have e := iMigrate_starts (s.hub.stamp tm) i w hs hh hn hrot ho hd ha
    obtain ⟨⟨p1, p2, p3, p4, p5, p6, -, -, -⟩, po⟩ :=
      startMig_begun ((s.hub.stamp tm).block i (.migrate (dstOf w))) i d (iw w 0 0 == 1) none false
        ((reachable_block _ i _ d).trans hre) (fun hb => (recomputable_block _ i _).trans (hk (by simpa using hb)))
    rw [s_block_same] at p2 p3 p5 p6
    dsimp only
    simp only [rec_finish, s_blk_finish, s_runnable_finish, kept_finish, e]
    exact ⟨p1, p2, p3, p4, p5, p6, fun j hj => congrArg Sess.kept ((po j hj).trans (s_block_ne _ i j _ hj)), rfl, rfl⟩

end Sys2Proof.Machine
end

section
/-! Session instructions that end and begin a session: DROP and FORK (O21). -/

namespace Sys2Proof.Machine
open Hub

/-- A parent's record once its FORK has written the child's NSI `v` (R48, R249). -/
def Rec.forked (r : Rec) (d : BitVec 4) (v : W64) : Rec := { (r.wReg d v).wStat St.ok 0 with pc := r.pc + 1 }

theorem forked_state (r : Rec) (d : BitVec 4) (v : W64) : (r.forked d v).state = r.state := wReg_state r d v
theorem forked_pc (r : Rec) (d : BitVec 4) (v : W64) : (r.forked d v).pc = r.pc + 1 := rfl
theorem forked_a (r : Rec) (d : BitVec 4) (v : W64) : (r.forked d v).a = (r.wReg d v).a := rfl

namespace Hub

variable (h : Hub) (i c : Handle) (w : W64)

/-- A hold depends on the session's state, on its demotion and on the hold of every session (R41). -/
theorem holds_congr {a b : Hub} (hs : (a.s i).r.state = (b.s i).r.state) (hd : (a.s i).demote = (b.s i).demote)
    (hr : ∀ x, a.reg x = b.reg x) : a.holds i = b.holds i := by
  unfold holds on g gi; dsimp only
  rw [hs, hd, hr]

/-- The mark that a program's DROP leaves until it applies (R37, R258). -/
def dropMarked : Hub := h.modS c (fun x => { x with dropHeld := true, dropPos := x.actions.length })

/-- A marked session whose DROP nothing holds back is freed. -/
theorem s_settled_marked (g : Hub) (b : Bool)
    (hg : g.s c = { h.s c with runnable := b, dropHeld := true, dropPos := (h.s c).actions.length })
    (hr : ∀ x, g.reg x = h.reg x) (ha : (h.s c).actions = []) (hrel : (h.s c).relHeld = none) (hn : (h.s c).intakes = 0)
    (hh : h.holds c = false) (hs : (h.s c).r.state ≠ S.free) (hm : (h.s c).r.state ≠ S.migrating) : (g.settled c).s c = {} := by
  have hold : g.holds c = false := (holds_congr c (by rw [hg]) (by rw [hg]) hr).trans hh
  have pos : (g.s c).dropPos = 0 := by rw [hg]; exact congrArg List.length ha
  exact settled_drop g c (by rw [hg]; exact hrel) (by rw [hg]; exact hn) hold (by rw [hg]) pos (by rw [hg]; exact hs) (by rw [hg]; exact hm)

theorem reg_unready (a : Nat) : (h.unready i).reg a = h.reg a := by dsimp only [unready, modS, setS, reg]

/-- DROP of the session itself (R258). -/
theorem iDrop_self (hw : iw w 0 0 = 0) : h.iDrop i w = ((h.dropMarked i).unready i).settled i := by
  unfold iDrop; rw [if_pos hw]; rfl

/-- DROP of a child that is this session's (R48, R258). -/
theorem iDrop_child (hw : iw w 0 0 = 1) (hf : h.findNsi (h.srcVal i w 0) = some c) (hc : (h.s c).r.child = true)
    (hp : (h.s c).r.parH = i) (hg : (h.s c).r.parGen = nsiGen (h.s i).r.nsi) (hd : (h.s c).r.parDev.toNat = h.dev)
    (hm : (h.s c).r.state ≠ S.migrating) : h.iDrop i w = ((h.stat i St.ok 0).dropMarked c).settled c := by
  unfold iDrop
  rw [if_neg (by omega), hf]; dsimp only
  rw [if_neg (by simp [hc, hp, hg, hd, hm])]; rfl

/-- A session found by its NSI is live (R31). -/
theorem findNsi_live {n : W64} (hf : h.findNsi n = some c) : (h.s c).r.state ≠ S.free := by
  unfold findNsi at hf; dsimp only at hf
  split at hf
  · rename_i hc; cases hf; exact hc.2.1
  · cases hf

/-- A lookup's count leaves the device's index. -/
theorem dev_looked : (h.inc F.AIXLOOKUPS_count).dev = h.dev := g_inc_ne h F.AIXLOOKUPS_count F.HDEVIDX_index 1 (by decide) (by decide)

/-- FORK of a free key with a handle for the child makes it and writes its NSI to the parent's dst (R48). -/
theorem iFork_makes (hk : iw w 51 48 ≤ 5) (hi : h.inj = []) (hs : (h.s i).r.state ≠ S.parked) (hh : h.holds i = false)
    (sk : BitVec 128) (hsk : (h.s i).r.rReg (iw w 51 48 + 1) 0 ++ (h.s i).r.rReg (iw w 51 48) 0 = sk) (h0 : sk ≠ 0)
    (hl : iw w 23 0 < (smGet [] h.im.progs (iw w 31 24)).length) (hf : h.findSk sk = none) (hc : h.freeHandle = some c) :
    h.iFork i w = ((h.inc F.AIXLOOKUPS_count).makeChild i c w sk ((h.s i).r.rReg (iw w 51 48 + 2) 0)).2.modR i
      (·.forked (dstOf w) (nsiOf h.dev c (smGet 0 h.gens c.toNat + 1) (h.s i).r.tenant)) := by
  obtain ⟨o, ho⟩ := lookup_plain h sk hi
  have hf' : (h.inc F.AIXLOOKUPS_count).findSk sk = none := hf
  have hc' : (h.inc F.AIXLOOKUPS_count).freeHandle = some c := hc
  unfold iFork; dsimp only
  rw [if_neg (by omega), if_neg (by simpa using hs), if_neg (by simp [hh]), hsk,
    if_neg (by simp only [h0, decide_false, Bool.false_or, decide_eq_true_eq]; omega), ho]
  dsimp only
  rw [if_neg (by simp), hf', if_neg (by simp), hc', ← dev_looked h]
  rfl

end Hub

/-- Settles O21: a DROP that applies at once, on the session itself or on its child, and the law of FORK's child. -/
theorem sessionBirthAndDeath : Obligations.SessionBirthAndDeath := by
  intro tm i w s
  dsimp only
  refine ⟨fun hr hw hf => ?self, fun c hr hw hn hci hch hp hg hd hm hf => ?child, fun c hr hk hi hs hh h0 hl hf hc hci => ?fork⟩
  case self =>
    refine instr_answers _ tm i w 0x24 _ s _ rfl hr ?_
    obtain ⟨ha, hrel, hn, hh⟩ := hf
    obtain ⟨hfree, -, hmig, -⟩ := runs_state hr.2.2.1
    have := s_settled_marked (s.hub.stamp tm) i (((s.hub.stamp tm).dropMarked i).unready i) false
      (by rw [s_unready_same, dropMarked, s_modS_same]) (fun a => reg_unready _ i a) ha hrel hn hh hfree hmig
    dsimp only
    rw [rec_finish, kept_finish, iDrop_self _ i w hw, this]
    exact ⟨rfl, rfl, rfl, rfl⟩
  case child =>
    refine instr_answers _ tm i w 0x24 _ s _ rfl hr ?_
    obtain ⟨ha, hrel, hn', hh⟩ := hf
    have hfree := findNsi_live s.hub c hn
    have := s_settled_marked (s.hub.stamp tm) c (((s.hub.stamp tm).stat i St.ok 0).dropMarked c) (s.hub.s c).runnable
      (by rw [dropMarked, s_modS_same, s_stat_ne _ i c _ _ hci]; rfl) (fun _ => by rw [dropMarked, reg_modS, stat, reg_modR]) ha hrel hn' hh hfree hm
    dsimp only
    rw [rec_finish, kept_finish, iDrop_child (s.hub.stamp tm) i c w hw hn hch hp hg hd hm, this]
    exact ⟨rfl, rfl, rfl, rfl⟩
  case fork =>
    refine instr_answers _ tm i w 0x23 _ s _ rfl hr ?_
    have e := iFork_makes (s.hub.stamp tm) i c w hk hi hs hh _ rfl h0 hl hf hc
    have m := makeChild_s ((s.hub.stamp tm).inc F.AIXLOOKUPS_count) i c w ((s.hub.s i).r.rReg (iw w 51 48 + 1) 0 ++ (s.hub.s i).r.rReg (iw w 51 48) 0)
      ((s.hub.s i).r.rReg (iw w 51 48 + 2) 0) hci
    simp only [dev_looked, inc_gens, stamp_gens, s_inc, s_stamp] at m e
    obtain ⟨⟨c1, c2, c3, c4, c5, c6, c7, c8, c9, c10, c11, c12⟩, y1, y2, y3⟩ := m
    dsimp only
    simp only [rec_finish, s_runnable_finish, e, s_modR_ne _ i c _ hci, s_modR_same, forked_state, forked_pc, forked_a]
    refine ⟨c1, c2, c3, c4, ?_, ?_, c7, c8, c9, c10, c11, c12, y1, by rw [y2], wReg_a_eq _ _ _ _ y3, rfl, rfl⟩
    · rw [c5, BitVec.toNat_ofNat, Nat.mod_eq_of_lt (iw_lt w 23 0)]
    · rw [c6, BitVec.toNat_ofNat, Nat.mod_eq_of_lt (iw_lt w 31 24)]

end Sys2Proof.Machine
end

section
/-! Lines that name or make a session: a stale NSI (O27) and ADMIT (O29). -/

namespace Sys2Proof.Machine
open Hub

/-- A line whose opcode names a session is a session line (R273). -/
theorem exec_sessLine (c : Instr) (tm : Nt) (w op : BitVec 8) (l : CmdLine) (hl : lineOf c = some (tm, w, op, l))
    (hn : namesSession op = true) (s : State) : exec c s = onHub tm (fun h => h.sessLine w op l) s := by
  cases c
  case dropCommand | intakeCommand | parkCommand | reviveCommand | migrateCommand | resume | signal | update | bindCommand | inspect
    | reclaim | sealintake | keyrotate => cases hl; rfl
  all_goals cases hl <;> cases hn

namespace Hub

variable (h : Hub)

/-- A counted line leaves what its NSI finds. -/
theorem findNsi_counted (w op : BitVec 8) (l : CmdLine) (ha : h.admits w op l = true) (n : W64) :
    (h.counted w op).findNsi n = h.findNsi n := by
  have a := Alike.counted h w op l ha
  unfold findNsi dev; dsimp only
  rw [g_alike a.regs F.HDEVIDX_index (by decide), a.s, a.gens]

/-- A session line whose NSI finds no session completes with ST_STALE_NSI and has no other effect (R31). -/
theorem sessLine_stale (w op : BitVec 8) (l : CmdLine) (ha : h.admits w op l = true) (hf : l.flags.getLsbD 1 = false)
    (hn : h.findNsi l.nsi = none) :
    h.sessLine w op l = (h.counted w op).complete (h.subOf w op l) St.staleNsi 0 l.nsi := by
  unfold sessLine
  rw [line_admitted _ _ _ _ _ ha]; dsimp only
  rw [if_neg (by rw [hf]; decide), findNsi_counted h w op l ha, hn]

end Hub

/-- Settles O27: such an NSI finds no session, and the line then only completes. -/
theorem staleNsi : Obligations.StaleNsi := by
  intro c s tm w op l hl hn hf h i ha hne
  have none_ : h.findNsi l.nsi = none := by unfold findNsi; exact if_neg hne
  refine answers_hub c tm _ s _ _ (exec_sessLine c tm w op l hl hn s) (sessLine_stale h w op l ha hf none_) ?_
  exact ⟨rfl, rfl, rfl⟩

/-! ### ADMIT -/

/-- The record that ADMIT of command `c` makes with NSI `nsi` on device `dev` at NT `t`, before it enters ADMITTED (R27, R276). -/
def Sub.newRec (c : Sub) (nsi : W64) (dev : Nat) (t : Nt) : Rec :=
  ({ sk := c.line.sk, nsi := nsi, autorevive := c.line.opd 60 1 / 2 % 2 == 1, period := BitVec.ofNat 32 (c.line.opd 52 4)
     pc := BitVec.ofNat 24 (c.line.opd 56 3), prog := BitVec.ofNat 8 (c.line.opd 59 1), seed := BitVec.ofNat 64 (c.line.opd 32 8)
     temp := BitVec.ofNat 16 (c.line.opd 40 2), topP := BitVec.ofNat 16 (c.line.opd 42 2), topK := BitVec.ofNat 16 (c.line.opd 44 2)
     maxtok := BitVec.ofNat 32 (c.line.opd 48 4), part := c.part, touch := t, admitNt := t } : Rec).setOwner (BitVec.ofNat 6 dev) 0

namespace Hub

variable (h : Hub) (c : Sub) (i : Handle)

/-- The NSI of the next session at a handle (R30). -/
def nextNsi : W64 := nsiOf h.dev i (smGet 0 h.gens i.toNat + 1) c.tenant

/-- The hub with the session that ADMIT makes put at handle `i`, under a new generation. -/
def admitted : Hub :=
  ({ h.inc F.AIXLOOKUPS_count with gens := smSet 0 h.gens i.toNat (smGet 0 h.gens i.toNat + 1) } : Hub).setS i
    { r := c.newRec (h.nextNsi c i) h.dev h.nt, share := c.line.opd 60 1 % 2 == 1, born := h.nt }

/-- ADMIT under a free key, with a handle for it, makes the session ADMITTED and its context runnable (R276). -/
theorem admitSession_makes (hi : h.inj = []) (hf : h.findSk c.line.sk = none) (hs : h.on F.HDEVIDX_spare = false)
    (hc : h.freeHandle = some i) :
    h.admitSession c = ((((h.admitted c i).trans i S.admitted St.ok 0x0001 (c.line.sk.toNat % 2 ^ 64)).modR i
      (fun r => { r with prior := 0 })).ready i).complete c St.ok 0 (h.nextNsi c i) := by
  obtain ⟨o, ho⟩ := lookup_plain h c.line.sk hi
  have hf' : (h.inc F.AIXLOOKUPS_count).findSk c.line.sk = none := hf
  have hc' : (h.inc F.AIXLOOKUPS_count).freeHandle = some i := hc
  have hs' : (h.inc F.AIXLOOKUPS_count).on F.HDEVIDX_spare = false := by
    unfold on at hs ⊢; rw [g_inc_ne h F.AIXLOOKUPS_count F.HDEVIDX_spare 1 (by decide) (by decide)]; exact hs
  have low : ∀ x, bitsOf x 0 0 = x % 2 := fun x => by simp [bitsOf]
  have hd : (h.inc F.AIXLOOKUPS_count).dev = h.dev := g_inc_ne h F.AIXLOOKUPS_count F.HDEVIDX_index 1 (by decide) (by decide)
  unfold admitSession; dsimp only
  rw [ho]; dsimp only
  rw [if_neg (by simp), hf', if_neg (by simp), hs', if_neg (by simp), hc']; dsimp only
  simp only [low, nextNsi, admitted, Sub.newRec, ← hd]
  rfl

/-- What the session at `i` holds once ADMIT has made it. -/
theorem admitSession_same (hi : h.inj = []) (hf : h.findSk c.line.sk = none) (hs : h.on F.HDEVIDX_spare = false)
    (hc : h.freeHandle = some i) :
    ((h.admitSession c).s i).r = { c.newRec (h.nextNsi c i) h.dev h.nt with state := S.admitted, jseq := 1 }
    ∧ ((h.admitSession c).s i).runnable = true ∧ ((h.admitSession c).s i).share = (c.line.opd 60 1 % 2 == 1) := by
  rw [admitSession_makes h c i hi hf hs hc, s_complete, s_ready_same, s_modR_same, s_trans_same, admitted, s_setS_same]
  exact ⟨rfl, rfl, rfl⟩

theorem admitSession_ne (hi : h.inj = []) (hf : h.findSk c.line.sk = none) (hs : h.on F.HDEVIDX_spare = false)
    (hc : h.freeHandle = some i) (j : Handle) (hj : j ≠ i) : (h.admitSession c).s j = h.s j := by
  rw [admitSession_makes h c i hi hf hs hc, s_complete, s_ready_ne _ i j hj, s_modR_ne _ i j _ hj, s_trans_ne _ i j _ _ _ _ hj,
    admitted, s_setS_ne _ i j _ hj]
  rfl

theorem gens_trans (dst : BitVec 4) (st : BitVec 8) (code data : Nat) : (h.trans i dst st code data).gens = h.gens := by
  unfold trans; dsimp only
  split
  · exact (gens_of_still (still_notice _ i code data)).trans rfl
  · rfl

theorem gens_ready : (h.ready i).gens = h.gens := by
  unfold ready; split
  · rfl
  · dsimp only [modS, setS]

theorem admitSession_gen (hi : h.inj = []) (hf : h.findSk c.line.sk = none) (hs : h.on F.HDEVIDX_spare = false)
    (hc : h.freeHandle = some i) : smGet 0 (h.admitSession c).gens i.toNat = smGet 0 h.gens i.toNat + 1 := by
  rw [admitSession_makes h c i hi hf hs hc, gens_of_still (still_complete _ _ _ _ _), gens_ready, modR_gens, gens_trans, admitted,
    setS_gens, smGet_smSet_same]

end Hub

/-- Settles O29: the counted line agrees with the hub before on all that ADMIT reads, and the session it makes is the one named. -/
theorem admitMakesSession : Obligations.AdmitMakesSession := by
  intro tm w l s i
  dsimp only
  intro ha hi hf hs hc
  have a := Alike.counted _ w 0x01 l ha
  generalize hg : (s.hub.stamp tm).counted w 0x01 = g at a
  have e : (s.hub.stamp tm).line w 0x01 l (fun c h => h.admitSession c) = g.admitSession ((s.hub.stamp tm).subOf w 0x01 l) := by
    rw [line_admitted _ _ _ _ _ ha, hg]
  have hi' : g.inj = [] := a.inj.trans hi
  have hf' : g.findSk l.sk = none := by unfold findSk at hf ⊢; rw [a.sess]; exact hf
  have hs' : g.on F.HDEVIDX_spare = false := by rw [on_alike a.regs F.HDEVIDX_spare (by decide), on_stamp, hs]
  have hc' : g.freeHandle = some i := by unfold freeHandle at hc ⊢; rw [a.sess]; exact hc
  have hd : g.dev = s.hub.dev := by unfold dev; rw [g_alike a.regs F.HDEVIDX_index (by decide), g_stamp]
  have hgens : g.gens = s.hub.gens := by rw [a.gens, stamp_gens]
  obtain ⟨r1, r2, r3⟩ := admitSession_same g ((s.hub.stamp tm).subOf w 0x01 l) i hi' hf' hs' hc'
  refine answers_hub (.admitSession tm w l) tm (fun h => h.line w 0x01 l (fun c h => h.admitSession c)) s _ _ rfl e ?_
  dsimp only
  rw [rec_finish, s_runnable_finish, s_share_finish, gens_finish]
  refine ⟨?_, r2, r3, ?_, fun j hj => ?_, rfl, rfl⟩
  · rw [r1, nextNsi, hd, hgens, a.nt]; rfl
  · rw [admitSession_gen g _ i hi' hf' hs' hc', hgens]
  · rw [kept_finish, admitSession_ne g _ i hi' hf' hs' hc' j hj, a.s]; rfl

end Sys2Proof.Machine
end

section
/-! Session instructions that put out or bind: EMIT, BIND and POST (O23). -/

namespace Sys2Proof.Machine
open Hub

/-! ### A record written twice -/

section
variable {β : Type}

theorem smPut_smPut (m : SMap β) (i : Nat) (x y : β) : smPut (smPut m i x) i y = smPut m i y := by
  induction m with
  | nil => simp [smPut]
  | cons e m ih =>
    obtain ⟨k, v⟩ := e
    by_cases h1 : i < k
    · simp [smPut, h1]
    · by_cases h2 : i = k
      · simp [smPut, h2]
      · simp [smPut, h1, h2, ih]

theorem smDel_smPut (m : SMap β) (i : Nat) (x : β) : smDel (smPut m i x) i = smDel m i := by
  induction m with
  | nil => simp [smPut, smDel]
  | cons e m ih =>
    obtain ⟨k, v⟩ := e
    by_cases h1 : i < k
    · simp [smPut, smDel, h1]
    · by_cases h2 : i = k
      · simp [smPut, smDel, h2]
      · simp [smPut, smDel, h1, h2, ih]

/-- Of two writes at one place the first leaves nothing, where it did not delete. -/
theorem smSet_smSet [DecidableEq β] (d : β) (m : SMap β) (i : Nat) (x y : β) (hx : x ≠ d) : smSet d (smSet d m i x) i y = smSet d m i y := by
  unfold smSet
  rw [if_neg hx, smDel_smPut, smPut_smPut]

end

/-- A live session is not the value of a free record. -/
theorem ne_default_of_live {x : Sess} (hx : x.r.state ≠ S.free) : x ≠ {} := fun e => hx (by rw [e]; rfl)

namespace Hub

variable (h : Hub) (i : Handle) (w : W64)

/-- Of two writes of a session, the first of a live one, the second alone remains. -/
theorem setS_setS (x y : Sess) (hx : x.r.state ≠ S.free) : (h.setS i x).setS i y = h.setS i y := by
  unfold setS; dsimp only
  rw [smSet_smSet _ _ _ _ _ (ne_default_of_live hx)]

theorem modS_setS (x : Sess) (f : Sess → Sess) (hx : x.r.state ≠ S.free) : (h.setS i x).modS i f = h.setS i (f x) := by
  unfold modS; rw [s_setS_same, setS_setS h i _ _ hx]

theorem stat_setS (x : Sess) (st : BitVec 8) (d : Nat) (hx : x.r.state ≠ S.free) : (h.setS i x).stat i st d = h.setS i (x.ended st d) := by
  unfold stat modR; exact modS_setS h i x _ hx

theorem stat_eq (st : BitVec 8) (d : Nat) : h.stat i st d = h.setS i ((h.s i).ended st d) := rfl

/-! ### A context that blocks -/

theorem alike_blocked (b : Blk) : (h.block i b).alike (h.blocked i (h.s i) b) := by
  refine ⟨fun j => ?_, ?_, fun a _ => ?_⟩
  · by_cases hj : j = i
    · subst hj
      rw [s_block_same]
      show _ = ((h.setS j { h.s j with blk := some b, runnable := false }).s j).kept
      rw [s_setS_same]
    · rw [s_block_ne h i j b hj]
      show _ = ((h.setS i { h.s i with blk := some b, runnable := false }).s j).kept
      rw [s_setS_ne h i j _ hj]
  · dsimp only [block, unready, blocked, modS, setS, rest, still]
  · dsimp only [block, unready, blocked, modS, setS, reg]

end Hub

/-! ### The answers of an instruction -/

section
variable {c : Instr} {tm : Nt} {i : Handle} {w : W64} {op : Nat} {f : Hub → Hub} {s : State}
  (hc : exec c s = instr tm i w op f s) (hr : Runs s tm i w op)
include hc hr

/-- An instruction held is tried again: its context blocks on its word (R41, R164). -/
theorem blocks_redo (hf : f (s.hub.stamp tm) = (s.hub.stamp tm).hold i w) : Blocks c tm i s (s.hub.s i) (.redo w) :=
  instr_answers c tm i w op f s _ hc hr ⟨alike_finish _ (hf ▸ alike_blocked _ i _), rfl, rfl⟩

theorem recordOnly_setS {y : Sess} (hf : f (s.hub.stamp tm) = (s.hub.stamp tm).setS i y) : RecordOnly c tm i s y := by
  apply recordOnly_of c tm i w op f s y hc hr <;> rw [hf]
  · rw [s_setS_same]
  · exact fun j hj => s_setS_ne _ i j y hj
  · dsimp only [setS, rest, still]
  · exact fun a _ => reg_setS _ i y a

theorem ends_instr {u : Hub} (hf : f (s.hub.stamp tm) = u) : Ends c s u := by
  obtain ⟨t, e, rfl⟩ := instr_answers c tm i w op f s (· = { s with hub := finish s.hub (f (s.hub.stamp tm)) }) hc hr rfl
  rw [Ends, e, hf]

end

/-! ### The flush of the held bytes -/

namespace Hub

variable (h : Hub) (i : Handle) (w : W64)

/-- The FLUSH record of a session's held bytes (R133, R137). -/
def flushRcd : Rcd :=
  let x := h.s i
  let n := x.held.length
  let g := (40 + n + 63) / 64
  { data := padTo (64 * g) (le 1 (6 + (g - 1) * 16) ++ le 1 0 ++ le 1 n ++ le 1 0 ++ le 3 (x.r.seq + 1).toNat ++ le 1 0 ++ le 8 x.r.nsi.toNat
      ++ le 4 x.r.committed.toNat ++ le 4 0xFFFFFFFF ++ le 4 x.relOff ++ le 4 0 ++ le 8 h.nt.toNat ++ x.held)
    h := some i, env := if h.profS then some (x.r.tenant, x.r.nsi, n) else none }

/-- The hub once the held bytes are put on the stream ring, the session still holding them. -/
def flushSent : Hub :=
  let x := h.s i
  ((h.setS i { x with relOff := x.relOff + x.held.length, r := { x.r with seq := x.r.seq + 1 } }).inc F.TRBYTES_count x.held.length).pushRec
    true x.r.part.toNat (h.flushRcd i)

theorem stream_flush : h.stream i 3 St.ok false false 0 0 0 (h.s i).r.committed 0xFFFFFFFF (h.s i).held = h.flushSent i := by
  have hg : ∀ n, cdiv (40 + n) 64 = (40 + n + 63) / 64 := fun _ => rfl
  have hk : ∀ g, 3 * 2 + (g - 1) * 16 + b2n false * 64 + b2n false * 128 = 6 + (g - 1) * 16 := fun _ => rfl
  have h4 : (4294967295 : BitVec 32).toNat = 0xFFFFFFFF := rfl
  have h3 : ((3 : Nat) == 2) = false := rfl
  have h0 : (0 : BitVec 4).toNat + (0 : BitVec 4).toNat * 16 = 0 := rfl
  have h8 : (0 : BitVec 8).toNat = 0 := rfl
  have hs : St.ok.toNat = 0 := rfl
  have hp : ∀ (x : Sess) (n : Nat), ((h.setS i x).inc F.TRBYTES_count n).profS = h.profS := fun x n => by
    unfold profS; rw [g_inc_ne _ F.TRBYTES_count F.HDEVIDX_profile n (by decide) (by decide), g_setS]
  unfold stream flushSent flushRcd modS; dsimp only
  rw [hg, hk, h4, h3, h0, h8, hs, hp]

theorem s_flushSent : (h.flushSent i).s i =
    { h.s i with relOff := (h.s i).relOff + (h.s i).held.length, r := { (h.s i).r with seq := (h.s i).r.seq + 1 } } := by
  rw [← stream_flush, s_stream_same]

/-- A session that has let go of its held bytes. -/
def unheld (x : Sess) : Sess := { x with held := [], r := { x.r with held := 0 } }

theorem flushHeld_none (hh : (h.s i).held = []) : h.flushHeld i = h := by
  unfold flushHeld; dsimp only; rw [hh]; rfl

theorem flushHeld_some (hh : (h.s i).held ≠ []) : h.flushHeld i = (h.flushSent i).setS i (unheld ((h.flushSent i).s i)) := by
  unfold flushHeld; dsimp only
  rw [if_neg (by simpa using hh), stream_flush]; rfl

/-! ### What each instruction does -/

theorem iEmit_demote (hd : (h.s i).demote = true) : h.iEmit i w = h.hold i w := by unfold iEmit; rw [if_pos hd]
theorem iEmit_halted (hd : (h.s i).demote = false) (hs : (h.s i).r.state = S.halted) : h.iEmit i w = h.stat i (h.s i).r.hstatus 0 := by
  unfold iEmit; rw [if_neg (by simp [hd]), if_pos (by simp [hs])]
theorem iEmit_flushes (hd : (h.s i).demote = false) (hs : (h.s i).r.state ≠ S.halted) : h.iEmit i w = (h.flushHeld i).stat i St.ok 0 := by
  unfold iEmit; rw [if_neg (by simp [hd]), if_neg (by simpa using hs)]

/-- A flush whose session then ends its instruction. -/
theorem stat_flushed (hh : (h.s i).held ≠ []) (hs : (h.s i).r.state ≠ S.free) :
    (h.flushHeld i).stat i St.ok 0 = (h.flushSent i).setS i ((unheld ((h.flushSent i).s i)).ended St.ok 0) := by
  rw [flushHeld_some h i hh, stat_setS _ i _ _ _ (by rw [s_flushSent]; exact hs)]

theorem iBind_demote (hd : (h.s i).demote = true) : h.iBind i w = h.hold i w := by unfold iBind; rw [if_pos hd]

/-- A session bound to a grammar slot at a state, its stack empty. -/
def bound (x : Sess) (slot : BitVec 12) (st : BitVec 20) : Sess :=
  { x with stack := [], r := { x.r with gramSlot := slot, gramState := st, gramDepth := 0 } }

theorem iBind_refused (hd : (h.s i).demote = false)
    (hb : (if iw w 47 46 = 0 then h.bindGrammar i (iw w 15 0) else h.bindStop i (iw w 15 0)) = none) :
    h.iBind i w = h.stat i St.badOperand 0 := by
  unfold iBind; rw [if_neg (by simp [hd]), hb]
theorem iBind_binds {g : Hub} (hd : (h.s i).demote = false)
    (hb : (if iw w 47 46 = 0 then h.bindGrammar i (iw w 15 0) else h.bindStop i (iw w 15 0)) = some g) :
    h.iBind i w = g.stat i St.ok 0 := by
  unfold iBind; rw [if_neg (by simp [hd]), hb]

theorem bindGrammar_zero : h.bindGrammar i 0 = some (h.setS i (bound (h.s i) 0 0)) := rfl
theorem bindGrammar_none (k : Nat) (hk : k ≠ 0) (hg : smLook h.im.grams k = none) : h.bindGrammar i k = none := by
  unfold bindGrammar; rw [if_neg hk, hg]
theorem bindGrammar_some (k : Nat) (g : Grammar) (hk : k ≠ 0) (hg : smLook h.im.grams k = some g) :
    h.bindGrammar i k = some (h.setS i (bound (h.s i) (BitVec.ofNat 12 k) g.start)) := by
  unfold bindGrammar; rw [if_neg hk, hg]; rfl

/-- How many strings the stop set `k` of the hub holds, 0 for none (R118). -/
def stopCount (k : Nat) : Nat :=
  if k = 0 then 0 else ((smLook h.im.stopSets k).map (fun c => c.strs.countP (fun b => !b.isEmpty))).getD 0

/-- A session bound to the stop set `k`. -/
def stopBound (x : Sess) (k : Nat) : Sess :=
  { x with r := { x.r with stopSet := BitVec.ofNat 16 k, stopCnt := BitVec.ofNat 5 (h.stopCount k) } }

theorem bindStop_none (k : Nat) (hk : k ≠ 0) (hg : smLook h.im.stopSets k = none) : h.bindStop i k = none := by
  unfold bindStop; rw [if_neg hk, hg]; rfl

theorem bindStop_some (k : Nat) (hk : k = 0 ∨ (smLook h.im.stopSets k).isSome = true) :
    h.bindStop i k =
      some ((if (h.s i).r.stopSet.toNat = k then h else h.flushHeld i).modS i (fun x => h.stopBound x k)) := by
  have e : (if k = 0 then some 0 else (smLook h.im.stopSets k).map (fun s => s.strs.countP (fun b => !b.isEmpty))) = some (h.stopCount k) := by
    unfold stopCount
    rcases hk with rfl | hk
    · rfl
    · obtain ⟨c, hc⟩ := Option.isSome_iff_exists.1 hk
      rw [hc]; split <;> rfl
  unfold bindStop; dsimp only
  rw [e]; rfl

/-- The PROGRAM record of a POST: the first registers (R258, R284). -/
def postRcd : Rcd :=
  { data := padTo 128 (le 1 (2 * 2 + 16) ++ le 1 0 ++ le 1 0 ++ le 1 (iw w 7 0) ++ le 4 (iw w 23 8) ++ le 8 (h.s i).r.nsi.toNat ++ le 4 0 ++ le 4 0
      ++ le 8 h.nt.toNat ++ (((h.s i).r.a.take (iw w 7 0)).map (fun v => le 8 v.toNat)).flatten)
    h := some i }

theorem iPost_held (hd : h.gi F.CMPSTAT_overflow (h.s i).r.part.toNat = 1 ∨ (h.s i).demote = true) : h.iPost i w = h.hold i w := by
  unfold iPost; dsimp only
  rw [if_pos (by rcases hd with hd | hd <;> simp [hd])]
theorem iPost_posts (hd : (h.s i).demote = false) (ho : h.gi F.CMPSTAT_overflow (h.s i).r.part.toNat ≠ 1) :
    h.iPost i w = (h.pushRec false (h.s i).r.part.toNat (h.postRcd i w)).stat i St.ok 0 := by
  have h1 : 2 * 2 + (2 - 1) * 16 = 2 * 2 + 16 := rfl
  have h2 : 64 * 2 = 128 := rfl
  have hs : St.ok.toNat = 0 := rfl
  have h0 : (0 : BitVec 8).toNat = 0 := rfl
  unfold iPost cRec postRcd; dsimp only
  rw [if_neg (by simp [hd, ho]), h1, h2, hs, h0]

end Hub

/-- Settles O23: the case of each instruction, and two writes of its session as one. -/
theorem sessionOutputs : Obligations.SessionOutputs := by
  intro tm i w s x h ok k n granules flush flushed ended setStop
  have live (hr : s.hub.runs i = true) : x.r.state ≠ S.free := (runs_state hr).1
  have sent : flushed = h.flushSent i := rfl
  refine ⟨fun op c hm hr hd => ?demote, fun hr hd => ⟨fun hs => ?halted, fun hs hh => ?empty, fun hs hh => ?flush⟩,
    fun hr hd hm => ⟨fun hk => ?unbind, fun g hk hg => ?bind, fun hk hg => ?nogram⟩,
    fun hr hd hm => ⟨fun hk hh => ?stop, fun hk hne hh => ?stopFlush, fun hk hg => ?nostop⟩,
    fun hr hd => ⟨fun ho => ?overflow, fun ho => ?post⟩⟩
  case demote =>
    simp only [List.mem_cons, Prod.mk.injEq, List.not_mem_nil, or_false] at hm
    rcases hm with ⟨rfl, rfl⟩ | ⟨rfl, rfl⟩ | ⟨rfl, rfl⟩
    · exact blocks_redo rfl hr (iEmit_demote h i w hd)
    · exact blocks_redo rfl hr (iBind_demote h i w hd)
    · exact blocks_redo rfl hr (iPost_held h i w (.inr hd))
  case halted => exact recordOnly_setS rfl hr (iEmit_halted h i w hd hs)
  case empty =>
    refine recordOnly_setS rfl hr ?_
    rw [iEmit_flushes (s.hub.stamp tm) i w hd hs, flushHeld_none (s.hub.stamp tm) i hh, stat_eq, s_stamp]
  case flush =>
    refine ends_instr rfl hr ?_
    rw [iEmit_flushes (s.hub.stamp tm) i w hd hs, stat_flushed (s.hub.stamp tm) i hh (live hr.2.2.1), sent, modS, s_flushSent]
    rfl
  case unbind =>
    refine recordOnly_setS rfl hr ?_
    rw [iBind_binds (s.hub.stamp tm) i w hd (by rw [if_pos hm, show iw w 15 0 = 0 from hk]; exact bindGrammar_zero (s.hub.stamp tm) i)]
    exact stat_setS (s.hub.stamp tm) i _ _ _ (live hr.2.2.1)
  case bind =>
    refine recordOnly_setS rfl hr ?_
    rw [iBind_binds (s.hub.stamp tm) i w hd (by rw [if_pos hm]; exact bindGrammar_some (s.hub.stamp tm) i _ g hk hg)]
    exact stat_setS (s.hub.stamp tm) i _ _ _ (live hr.2.2.1)
  case nogram =>
    refine recordOnly_setS rfl hr ?_
    rw [iBind_refused (s.hub.stamp tm) i w hd (by rw [if_pos hm]; exact bindGrammar_none (s.hub.stamp tm) i _ hk hg), stat_eq]
    rfl
  case stop =>
    refine recordOnly_setS rfl hr ?_
    have keeps : (if (h.s i).r.stopSet.toNat = k then h else h.flushHeld i) = h := by
      split
      · rfl
      · next hne => exact flushHeld_none h i (hh.resolve_left hne)
    rw [show s.hub.stamp tm = h from rfl, iBind_binds h i w hd (by rw [if_neg (by omega)]; exact bindStop_some h i k hk), keeps]
    exact stat_setS h i _ _ _ (live hr.2.2.1)
  case stopFlush =>
    refine ends_instr rfl hr ?_
    rw [show s.hub.stamp tm = h from rfl, iBind_binds h i w hd (by rw [if_neg (by omega)]; exact bindStop_some h i k hk),
      if_neg (show ¬(h.s i).r.stopSet.toNat = k from hne), flushHeld_some h i hh,
      modS_setS _ i _ _ (by rw [s_flushSent]; exact live hr.2.2.1), stat_setS _ i _ _ _ (by rw [s_flushSent]; exact live hr.2.2.1), sent, modS,
      s_flushSent]
    rfl
  case nostop =>
    refine recordOnly_setS rfl hr ?_
    rw [iBind_refused (s.hub.stamp tm) i w hd (by rw [if_neg (by omega)]; exact bindStop_none (s.hub.stamp tm) i _ hk hg), stat_eq]
    rfl
  case overflow => exact blocks_redo rfl hr (iPost_held h i w (.inl ho))
  case post => exact ends_instr rfl hr (iPost_posts h i w hd ho)

end Sys2Proof.Machine
end

section
/-! Session commands that change what their session is doing (O30). -/

namespace Sys2Proof.Machine
open Hub

namespace Hub

variable (h : Hub) (i : Handle) (c : Sub)

/-! ### What each command does to a session it applies to -/

theorem act_drop (hop : c.op = 0x02) (hf : (h.s i).r.state ≠ S.free) (hm : (h.s i).r.state ≠ S.migrating) :
    h.act i c = (h.dropSess i false).complete c St.ok 0 (h.s i).r.nsi := by
  unfold act
  simp [hop, hf, hm]

/-- PARK of a READY or WAITING session not in mismatch starts a park (R153). -/
theorem act_park (hop : c.op = 0x04) (hs : (h.s i).r.state = S.ready ∨ (h.s i).r.state = S.waiting) (ho : (h.s i).r.omm = false) :
    h.act i c = h.startPark i false (some c) := by
  unfold act
  rcases hs with hs | hs <;> simp [hop, hs, ho, S.free, S.migrating, S.faulted, S.parked, S.ready, S.waiting]

/-- REVIVE of a PARKED session whose revive is not refused starts it (R156). -/
theorem act_revive (hop : c.op = 0x05) (hs : (h.s i).r.state = S.parked) (hq : (h.startRevive i 1 (some c)).1 = none) :
    h.act i c = (h.startRevive i 1 (some c)).2 := by
  unfold act
  rw [show (1 : BitVec 2) = 1#2 from rfl] at hq
  simp [hop, hs, hq, S.free, S.migrating, S.faulted, S.parked]

/-- MIGRATE of a session at rest that this device owns, to another active device, starts its migration (R176). -/
theorem act_migrate (hop : c.op = 0x06)
    (hs : (h.s i).r.state = S.ready ∨ (h.s i).r.state = S.waiting ∨ (h.s i).r.state = S.parked) (ho : (h.s i).r.omm = false)
    (hd : (BitVec.ofNat 6 (c.line.opd 32 1) : BitVec 6).toNat ≠ h.dev) (ha : h.isActive (BitVec.ofNat 6 (c.line.opd 32 1)) = true) :
    h.act i c = h.startMig i (BitVec.ofNat 6 (c.line.opd 32 1)) (c.line.opd 33 1 == 1) (some c) false := by
  unfold act
  have hd' : c.line.opd 32 1 % 64 ≠ h.dev := by simpa using hd
  rcases hs with hs | hs | hs <;> simp [hop, hs, ho, hd', ha, S.free, S.migrating, S.faulted, S.parked, S.ready, S.waiting]

theorem act_resume (hop : c.op = 0x07) (hs : (h.s i).r.state = S.halted) :
    h.act i c = (h.resumeSess i (c.line.opd 32 3)).complete c St.ok 0 (h.s i).r.nsi := by
  unfold act
  simp [hop, hs, S.free, S.migrating, S.faulted, S.halted]

/-- The epoch that RECLAIM gives session `x`: one newer than its own and any seen (R181). -/
def reclaimEpoch (x : Sess) : BitVec 16 := (if newer 16 x.r.ownEpoch.toNat x.seen.toNat then x.r.ownEpoch else x.seen) + 1

/-- The hub once RECLAIM has ended the mismatch of the session at `i` with its new epoch, recorded and told to the other devices (R181). -/
def reclaimed : Hub :=
  let e := reclaimEpoch (h.s i)
  let g := (h.modS i (fun x => { x with seen := 0, probe := none, r := { x.r.setOwner x.r.ownDev e with omm := false } })).record i 0x0055 e.toNat
  (g.actives.filter (fun d => d.toNat != g.dev)).foldl (fun b d => b.send d (.release (h.s i).r.sk e)) g

theorem act_reclaim (hop : c.op = 0x0C) (hf : (h.s i).r.state ≠ S.free) (hm : (h.s i).r.state ≠ S.migrating)
    (hfa : (h.s i).r.state ≠ S.faulted) (ho : (h.s i).r.omm = true)
    (hn : c.line.opd 32 1 ≠ 0 ∨ newer 16 (h.s i).r.ownEpoch.toNat (h.s i).seen.toNat = true) :
    h.act i c = (h.reclaimed i).complete c St.ok 0 (h.s i).r.nsi := by
  have other : ∀ o : BitVec 8, o ≠ 0x0C → ¬(c.op == o) = true := fun o n => by simpa [hop] using n.symm
  unfold act; dsimp only
  rw [if_neg (by simpa using hf), if_neg (by simp [hm]), if_neg (by simp [hfa]), if_neg (other _ (by decide)), if_neg (other _ (by decide)),
    if_neg (other _ (by decide)), if_neg (other _ (by decide)), if_neg (other _ (by decide)), if_neg (other _ (by decide)),
    if_neg (other _ (by decide)), if_neg (other _ (by decide)), if_neg (other _ (by decide)), if_pos (by rw [hop]; rfl),
    if_neg (by simp [ho]), if_neg (by rcases hn with hn | hn <;> simp [hn])]
  rfl

theorem reclaimed_same : (h.reclaimed i).s i =
    { h.s i with seen := 0, probe := none,
                 r := { (h.s i).r.setOwner (h.s i).r.ownDev (reclaimEpoch (h.s i)) with omm := false, jseq := (h.s i).r.jseq + 1 } } := by
  unfold reclaimed; dsimp only
  rw [s_tell, s_record_same, s_modS_same]
  rfl

theorem reclaimed_ne (j : Handle) (hj : j ≠ i) : (h.reclaimed i).s j = h.s j := by
  unfold reclaimed; dsimp only
  rw [s_tell, s_record_ne _ i j _ _ hj, s_modS_ne _ i j _ hj]

/-! ### A HALTED session restarted -/

/-- What a session holds once it is resumed (R276). -/
theorem resumeSess_same (pc : Nat) :
    let x := h.s i
    let y := (h.resumeSess i pc).s i
    y.r.pc = BitVec.ofNat 24 pc ∧ y.r.state = (if x.r.logonly then S.parked else S.ready) ∧ y.runnable = true ∧ y.blk = none
    ∧ y.r.waitMask = 0 ∧ y.actions = x.actions ∧ y.relHeld = x.relHeld ∧ y.dropHeld = x.dropHeld := by
  unfold resumeSess; dsimp only
  rw [s_ready_same]
  split
  · rw [s_trans_same, s_armTtl_same, s_modS_same]
    split <;> exact ⟨rfl, rfl, rfl, rfl, rfl, rfl, rfl, rfl⟩
  · rw [s_trans_same, s_modS_same]
    exact ⟨rfl, rfl, rfl, rfl, rfl, rfl, rfl, rfl⟩

theorem resumeSess_ne (pc : Nat) (j : Handle) (hj : j ≠ i) : (h.resumeSess i pc).s j = h.s j := by
  unfold resumeSess; dsimp only
  rw [s_ready_ne _ i j hj]
  split
  · rw [s_trans_ne _ i j _ _ _ _ hj, s_armTtl_ne _ i j hj, s_modS_ne _ i j _ hj]
  · rw [s_trans_ne _ i j _ _ _ _ hj, s_modS_ne _ i j _ hj]

end Hub

/-- A session command that acts at once and whose action `q` leaves every other session and what is held of its own: what it leaves. -/
theorem command_leaves (c : Instr) (s : State) (tm : Nt) (w op : BitVec 8) (l : CmdLine) (i : Handle) (P : State → Prop)
    (hc : Commands s tm w op l i) (he : ∀ s, exec c s = onHub tm (fun h => h.sessLine w op l) s) (ho : op ≠ 0x0B)
    (k : ∀ g, Alike g (s.hub.stamp tm) → g.s i = s.hub.s i →
      ∃ q : Hub, g.act i ((s.hub.stamp tm).subOf w op l) = q ∧ (q.s i).actions = [] ∧ (q.s i).relHeld = none ∧ (q.s i).dropHeld = false
        ∧ (∀ j, j ≠ i → q.s j = g.s j)
        ∧ ∀ b, Settles q b i → (∀ j, j ≠ i → ((Hub.finish s.hub b).s j).kept = (s.hub.s j).kept) →
          P { s with hub := Hub.finish s.hub b }) : Answers c s P := by
  refine cmd_answers c s tm w op l i P hc he ho fun g hg => ?_
  obtain ⟨q, e, q1, q2, q3, others, hp⟩ := k g hg ((hg.s i).trans (s_stamp s.hub tm i))
  refine ⟨q, e, q1, q2, q3, fun b hb => hp b hb fun j hj => ?_⟩
  rw [kept_finish, hb.others j hj, others j hj, hg.s, s_stamp]

/-- Settles O30: each command's act in its one applying case, and what the end of an action keeps of it. -/
theorem sessionCommands : Obligations.SessionCommands := by
  intro tm w l s i x now d ok newer16
  refine ⟨fun hc hm => ?drop, fun hc hs ho => ?park, fun hc hs hl ht => ?revive, fun hc hs ho hd ha hr hk => ?migrate,
    fun hc hs => ?resume, fun hc ho hm hf hn => ?reclaim⟩
  case drop =>
    obtain ⟨-, -, -, hf⟩ := hc.ready
    refine cmd_answers _ s tm w 0x02 l i _ hc (fun _ => rfl) (by decide) fun g hg => ?_
    have e : g.s i = s.hub.s i := (hg.s i).trans (s_stamp s.hub tm i)
    have gone : ((g.dropSess i false).complete ((s.hub.stamp tm).subOf w 0x02 l) St.ok 0 (g.s i).r.nsi).s i = {} := by
      rw [s_complete, s_dropSess_same g i false (by rw [e]; exact hf)]
    refine ⟨_, act_drop g i _ rfl (by rw [e]; exact hf) (by rw [e]; exact hm), by rw [gone], by rw [gone], by rw [gone], fun b hb => ?_⟩
    refine ⟨?_, rfl, rfl⟩
    rw [kept_finish, hb.calm (by rw [gone]), gone]
  case park =>
    obtain ⟨a1, a2, a3, -⟩ := hc.ready
    refine command_leaves _ s tm w 0x04 l i _ hc (fun _ => rfl) (by decide) fun g hg e => ?_
    obtain ⟨p1, -, p3, -, -, -, p7⟩ := startPark_same g i false (some ((s.hub.stamp tm).subOf w 0x04 l))
    obtain ⟨b1, b2, b3⟩ := startPark_held g i false (some ((s.hub.stamp tm).subOf w 0x04 l))
    rw [e] at p3 p7 b1 b2 b3
    rw [hg.nt] at p7
    refine ⟨_, act_park g i _ rfl (by rw [e]; exact hs) (by rw [e]; exact ho), b1.trans a1, b2.trans a2, b3.trans a3,
      fun j hj => startPark_ne g i j _ _ hj, fun b hb others => ?_⟩
    refine ⟨⟨others, rfl, rfl⟩, ?_⟩
    rw [rec_finish, s_rest_finish, hb.r, hb.rest]
    exact ⟨p1, p3, p7⟩
  case revive =>
    obtain ⟨a1, a2, a3, -⟩ := hc.ready
    refine command_leaves _ s tm w 0x05 l i _ hc (fun _ => rfl) (by decide) fun g hg e => ?_
    obtain ⟨p0, ⟨p1, -, -, p4, -, p6⟩, po⟩ := startRevive_begun g i 1 (some ((s.hub.stamp tm).subOf w 0x05 l))
      (by rw [e, hg.nt]; exact ht) (.inl (by rw [e]; exact hl))
    obtain ⟨b1, b2, b3⟩ := startRevive_held g i 1 (some ((s.hub.stamp tm).subOf w 0x05 l))
    rw [e] at b1 b2 b3
    rw [hg.nt] at p6
    refine ⟨_, act_revive g i _ rfl (by rw [e]; exact hs) p0, b1.trans a1, b2.trans a2, b3.trans a3, po, fun b hb others => ?_⟩
    refine ⟨⟨others, rfl, rfl⟩, ?_⟩
    rw [rec_finish, hb.r]
    exact ⟨p1, p4, p6⟩
  case migrate =>
    obtain ⟨a1, a2, a3, -⟩ := hc.ready
    refine command_leaves _ s tm w 0x06 l i _ hc (fun _ => rfl) (by decide) fun g hg e => ?_
    have hdev : g.dev = s.hub.dev := by unfold dev; rw [g_alike hg.regs F.HDEVIDX_index (by decide), g_stamp]
    have hact : g.isActive d = true := by
      unfold isActive at ha ⊢; rw [g_alike hg.regs F.NFNODE_active (by decide), g_stamp]; exact ha
    have hre : g.reachable d = true := (reachable_alike hg.regs d).trans hr
    have hrc : (l.opd 33 1 == 1) = true → g.recomputable i = true := fun hb => by
      rw [recomputable_alike hg.regs hg.kv hg.im hg.nt i (by rw [hg.s]) (by rw [hg.s]) (by rw [hg.s]) (by rw [hg.s])]
      exact hk (by simpa using hb)
    obtain ⟨⟨p1, p2, p3, p4, -, -, b1, b2, b3⟩, po⟩ :=
      startMig_begun g i d (l.opd 33 1 == 1) (some ((s.hub.stamp tm).subOf w 0x06 l)) false hre hrc
    rw [e] at p2 p3 b1 b2 b3
    refine ⟨_, act_migrate g i _ rfl (by rw [e]; exact hs) (by rw [e]; exact ho) (by rw [hdev]; exact hd) hact,
      b1.trans a1, b2.trans a2, b3.trans a3, po, fun b hb others => ?_⟩
    refine ⟨⟨others, rfl, rfl⟩, ?_⟩
    rw [rec_finish, s_runnable_finish, hb.r]
    exact ⟨p1, p2, fun hx => (hb.blk (p3.trans hx)).1.trans p4⟩
  case resume =>
    obtain ⟨a1, a2, a3, -⟩ := hc.ready
    refine command_leaves _ s tm w 0x07 l i _ hc (fun _ => rfl) (by decide) fun g hg e => ?_
    obtain ⟨p1, p2, p3, p4, p5, b1, b2, b3⟩ := resumeSess_same g i (l.opd 32 3)
    rw [e] at p2 b1 b2 b3
    refine ⟨_, act_resume g i _ rfl (by rw [e]; exact hs), ?_, ?_, ?_, fun j hj => ?_, fun b hb others => ?_⟩
    · rw [s_complete]; exact b1.trans a1
    · rw [s_complete]; exact b2.trans a2
    · rw [s_complete]; exact b3.trans a3
    · rw [s_complete]; exact resumeSess_ne g i _ j hj
    · refine ⟨⟨others, rfl, rfl⟩, ?_⟩
      obtain ⟨k1, k2⟩ := hb.blk (by rw [s_complete]; exact p4)
      rw [rec_finish, s_runnable_finish, s_blk_finish, hb.r, k1, k2, s_complete]
      exact ⟨p1, p2, p3, rfl, p5⟩
  case reclaim =>
    obtain ⟨a1, a2, a3, hlive⟩ := hc.ready
    refine command_leaves _ s tm w 0x0C l i _ hc (fun _ => rfl) (by decide) fun g hg e => ?_
    have p := reclaimed_same g i
    rw [e] at p
    refine ⟨_, act_reclaim g i _ rfl (by rw [e]; exact hlive) (by rw [e]; exact hm) (by rw [e]; exact hf) (by rw [e]; exact ho)
      (by rw [e]; exact hn), ?_, ?_, ?_, fun j hj => ?_, fun b hb others => ?_⟩
    · rw [s_complete, p]; exact a1
    · rw [s_complete, p]; exact a2
    · rw [s_complete, p]; exact a3
    · rw [s_complete]; exact reclaimed_ne g i j hj
    · refine ⟨⟨others, rfl, rfl⟩, ?_⟩
      rw [rec_finish, s_seen_finish, hb.r, hb.seen, s_complete, p]
      exact ⟨rfl, rfl, rfl, rfl⟩

end Sys2Proof.Machine
end

section
/-! Ownership messages between devices (O35). -/

namespace Sys2Proof.Machine
open Hub

namespace Hub

variable (h : Hub) (i : Handle)

/-- The refusal of a waiting PREFILL leaves what the session's ownership holds; the status it may leave is the refusal's. -/
theorem refusePrefill_leaves (st : BitVec 8) :
    let x := h.s i
    let y := (h.refusePrefill i st).s i
    y.r.omm = x.r.omm ∧ y.seen = x.seen ∧ y.r.state = x.r.state ∧ (x.r.lastStatus = st → y.r.lastStatus = st) := by
  unfold refusePrefill; dsimp only
  split
  · split
    · unfold endInstr; dsimp only
      rw [s_ready_same, s_modS_same, s_modS_same]
      dsimp only
      rw [wStat_omm, wStat_state]
      unfold Rec.wReg
      split <;> exact ⟨rfl, rfl, rfl, fun _ => rfl⟩
    · exact ⟨rfl, rfl, rfl, id⟩
  · exact ⟨rfl, rfl, rfl, id⟩

/-- A session put in mismatch: what it holds (R181). -/
theorem ownerMismatch_leaves (e : BitVec 16) :
    let y := (h.ownerMismatch i e).s i
    y.r.omm = true ∧ y.r.lastStatus = St.ownerConflict ∧ y.seen = e ∧ y.r.state = (h.s i).r.state := by
  have e0 : ((h.modS i (fun x => { x with seen := e, r := { x.r with omm := true, lastStatus := St.ownerConflict } })).inc F.OWNCONF_count).s i
      = { h.s i with seen := e, r := { (h.s i).r with omm := true, lastStatus := St.ownerConflict } } :=
    (s_of_sess (sess_inc _ F.OWNCONF_count 1) i).trans (s_modS_same h i _)
  unfold ownerMismatch; dsimp only
  generalize (h.modS i (fun x => { x with seen := e, r := { x.r with omm := true, lastStatus := St.ownerConflict } })).inc F.OWNCONF_count = g at e0 ⊢
  generalize hk : g.record i 0x0054 _ = k
  have ek : k.s i = { g.s i with r := { (g.s i).r with jseq := (g.s i).r.jseq + 1 } } := by rw [← hk, s_record_same]
  obtain ⟨r1, r2, r3, r4⟩ := refusePrefill_leaves k i St.ownerConflict
  rw [ek, e0] at r1 r2 r3 r4
  exact ⟨r1, r4 rfl, r2, r3⟩

/-- The settling of a hub whose session holds no action, RELEASE or DROP leaves every other session, and of its own the record. -/
theorem settled_quiet (g : Hub) (h1 : (g.s i).actions = []) (h2 : (g.s i).relHeld = none) (h3 : (g.s i).dropHeld = false) :
    ((g.settled i).s i).r = (g.s i).r ∧ ((g.settled i).s i).seen = (g.s i).seen ∧ ((g.settled i).s i).probe = (g.s i).probe
    ∧ ∀ j, j ≠ i → (g.settled i).s j = g.s j := by
  have q := settled_keeps g i h1 h2 h3
  exact ⟨q.r, q.seen, q.probe, q.others⟩

/-- An event of a MIGRATING session is queued (R49). -/
theorem deliver_migrating (bit : Nat) (hs : (h.s i).r.state = S.migrating) (ht : (h.s i).r.waitExp ≠ 0 → h.nt < (h.s i).r.waitExp) :
    h.deliver i bit = h.setS i { h.s i with queued := (h.s i).queued ||| BitVec.ofNat 16 (2 ^ bit) } := by
  have calm : ((h.s i).r.waitExp != 0 && decide ((h.s i).r.waitExp ≤ h.nt)) = false := by
    by_cases hz : (h.s i).r.waitExp = 0
    · simp [hz]
    · simp [BitVec.not_le.2 (ht hz)]
  unfold deliver land; dsimp only
  rw [calm, if_neg (by simp), if_neg (by rw [hs]; decide), if_pos (by rw [hs]; decide)]
  rfl

end Hub

/-- What an effect on the hub ends with. -/
theorem onHub_ends {tm : Nt} {f : Hub → Hub} {s : State} {h u : Hub} (hh : s.hub.stamp tm = h) (hf : f h = u) :
    onHub tm f s = .next { s with hub := Hub.finish s.hub u } := by
  rw [← hf, ← hh, onHub_eq]

/-- A command that ends with a hub answers; what holds of that hub closed holds of the answer. -/
theorem Ends.answers {c : Instr} {s : State} {u : Hub} {P : State → Prop} (e : Ends c s u) (hp : P { s with hub := Hub.finish s.hub u }) :
    Answers c s P :=
  ⟨_, e, hp⟩

/-- Session `x` once a probe for it is answered and its mismatch is over. -/
def probeServed (x : Sess) : Sess := { x with probe := none, seen := 0, r := { x.r with omm := false, lastStatus := St.ok } }

/-- The newest epoch of the RELEASEs told to session `x`, with one of `epoch` told now. -/
def toldEpoch (x : Sess) (epoch : BitVec 16) : BitVec 16 :=
  match x.relHeld with
  | none => epoch
  | some f => if newer 16 epoch.toNat f.toNat then epoch else f

/-- The first RELEASE told is the newest. -/
theorem toldEpoch_first (x : Sess) (epoch : BitVec 16) (hn : x.relHeld = none) : toldEpoch x epoch = epoch := by
  unfold toldEpoch; rw [hn]

section
variable {tm : Nt} {src : BitVec 6} {sk : BitVec 128} {i : Handle} {s : State} {h : Hub} (hh : s.hub.stamp tm = h)
include hh

/-! ### PROBE -/

theorem probe_unknown (epoch : BitVec 16) (hf : h.findSk sk = none) :
    Ends (.probe tm src sk epoch) s (h.send src (.probeReply sk none)) := by
  show execProbe tm src sk epoch s = _
  unfold execProbe
  refine onHub_ends hh ?_
  rw [hf]

theorem probe_agreed (epoch : BitVec 16) (hf : h.findSk sk = some i)
    (he : (h.s i).r.ownEpoch = epoch ∨ (h.s i).r.omm = true) :
    Ends (.probe tm src sk epoch) s (h.send src (.probeReply sk (some (h.s i).r.ownEpoch))) := by
  show execProbe tm src sk epoch s = _
  unfold execProbe
  refine onHub_ends hh ?_
  rw [hf]; dsimp only
  rw [if_neg (by rcases he with he | he <;> simp [he])]

theorem probe_conflict (epoch : BitVec 16) (hf : h.findSk sk = some i)
    (he : (h.s i).r.ownEpoch ≠ epoch) (ho : (h.s i).r.omm = false) :
    Ends (.probe tm src sk epoch) s
      ((h.ownerMismatch i epoch).send src (.probeReply sk (some (h.s i).r.ownEpoch))) := by
  show execProbe tm src sk epoch s = _
  unfold execProbe
  refine onHub_ends hh ?_
  rw [hf]; dsimp only
  rw [if_pos (by simp [he, ho])]

/-! ### PROBE_REPLY -/

theorem probeReply_unknown (held : Option (BitVec 16)) (hf : h.findSk sk = none) :
    Ends (.probeReply tm src sk held) s h := by
  show execProbeReply tm src sk held s = _
  unfold execProbeReply
  refine onHub_ends hh ?_
  rw [hf]

/-- A reply of no holder that no probe of the session waits for changes nothing. -/
theorem probeReply_unasked (hf : h.findSk sk = some i) (hw : (h.s i).probe.map (·.1) ≠ some src) :
    Ends (.probeReply tm src sk none) s h := by
  show execProbeReply tm src sk none s = _
  unfold execProbeReply
  refine onHub_ends hh ?_
  rw [hf]; dsimp only
  rw [if_pos hw]

/-- A reply that no probe of the session waits for tells of another holder. -/
theorem probeReply_otherHolder (e : BitVec 16) (hf : h.findSk sk = some i) (hw : (h.s i).probe.map (·.1) ≠ some src) :
    Ends (.probeReply tm src sk (some e)) s (h.otherHolder sk e) := by
  show execProbeReply tm src sk (some e) s = _
  unfold execProbeReply
  refine onHub_ends hh ?_
  rw [hf]; dsimp only
  rw [if_pos hw]

/-- The reply that the probe waits for, of no newer epoch, ends the mismatch. -/
theorem probeReply_served (held : Option (BitVec 16)) (hf : h.findSk sk = some i)
    (hw : (h.s i).probe.map (·.1) = some src)
    (hn : ∀ e, held = some e → newer 16 e.toNat (h.s i).r.ownEpoch.toNat = false) :
    Ends (.probeReply tm src sk held) s ((h.setS i (probeServed (h.s i))).settled i) := by
  show execProbeReply tm src sk held s = _
  unfold execProbeReply
  refine onHub_ends hh ?_
  rw [hf]; dsimp only
  rw [if_neg (by simpa using hw)]
  cases held with
  | none => rw [if_pos rfl]; rfl
  | some e => rw [if_pos (by simp [hn e rfl])]; rfl

/-- The reply that the probe waits for, of a newer epoch, is remembered. -/
theorem probeReply_newer (e : BitVec 16) (hf : h.findSk sk = some i)
    (hw : (h.s i).probe.map (·.1) = some src)
    (hn : newer 16 e.toNat (h.s i).r.ownEpoch.toNat = true) :
    Ends (.probeReply tm src sk (some e)) s (h.setS i { h.s i with probe := none, seen := e }) := by
  show execProbeReply tm src sk (some e) s = _
  unfold execProbeReply
  refine onHub_ends hh ?_
  rw [hf]; dsimp only
  rw [if_neg (by simpa using hw), if_neg (by simp [hn])]
  rfl

/-! ### PROBE_INTERVAL -/

theorem probeInterval_idle (hf : h.findSk sk = none ∨ ∃ i, h.findSk sk = some i
      ∧ ∀ d due, (h.s i).probe = some (d, due) → h.nt < due) :
    Ends (.probeInterval tm sk) s h := by
  show execProbeInterval tm sk s = _
  unfold execProbeInterval
  refine onHub_ends hh ?_
  rcases hf with hf | ⟨i, hf, hp⟩
  · rw [hf]
  · rw [hf]; dsimp only
    split
    · rfl
    · next d due e => rw [if_pos (hp d due e)]

theorem probeInterval_repeats {d : BitVec 6} {due : Nt} (hf : h.findSk sk = some i)
    (hp : (h.s i).probe = some (d, due)) (hd : due ≤ h.nt) :
    Ends (.probeInterval tm sk) s (h.sendProbe i d) := by
  show execProbeInterval tm sk s = _
  unfold execProbeInterval
  refine onHub_ends hh ?_
  rw [hf]; dsimp only
  rw [hp]; dsimp only
  rw [if_neg (BitVec.not_lt.2 hd)]

/-! ### RELEASE -/

theorem release_ignored (epoch : BitVec 16) (hf : h.findSk sk = none ∨ h.findSk sk = some i
      ∧ newer 16 epoch.toNat (h.s i).r.ownEpoch.toNat = false) :
    Ends (.release tm src sk epoch) s h := by
  show execRelease tm src sk epoch s = _
  unfold execRelease
  refine onHub_ends hh ?_
  rcases hf with hf | ⟨hf, hn⟩
  · rw [hf]
  · rw [hf]; dsimp only
    rw [if_neg (by simp [hn])]

theorem release_told (epoch : BitVec 16) (hf : h.findSk sk = some i)
    (hn : newer 16 epoch.toNat (h.s i).r.ownEpoch.toNat = true) :
    Ends (.release tm src sk epoch) s ((h.setS i { h.s i with relHeld := some (toldEpoch (h.s i) epoch) }).settled i) := by
  show execRelease tm src sk epoch s = _
  unfold execRelease
  refine onHub_ends hh ?_
  rw [hf]; dsimp only
  rw [if_pos hn]
  rfl

/-! ### EVENT -/

section
variable {nsi : W64} (bit : BitVec 4)

theorem event_lost (hm : ¬(nsiDev nsi = h.dev ∧ smGet 0 h.gens (nsiHandle nsi).toNat = nsiGen nsi)
      ∨ (h.s (nsiHandle nsi)).r.state = S.free ∧ (h.s (nsiHandle nsi)).fwd = 0) :
    Ends (.event tm src nsi bit) s h := by
  show execEvent tm src nsi bit s = _
  unfold execEvent
  refine onHub_ends hh ?_
  dsimp only
  by_cases hn : nsiDev nsi ≠ h.dev ∨ smGet 0 h.gens (nsiHandle nsi).toNat ≠ nsiGen nsi
  · rw [if_pos hn]
  · obtain ⟨hs, hw⟩ := hm.resolve_left (fun m => hn (not_and_or.1 m))
    rw [if_neg hn, if_neg (by simp [hs]), if_neg (by simp [hw])]

variable (hm : nsiDev nsi = h.dev ∧ smGet 0 h.gens (nsiHandle nsi).toNat = nsiGen nsi)
include hm

theorem event_forwarded (hs : (h.s (nsiHandle nsi)).r.state = S.free) (hw : (h.s (nsiHandle nsi)).fwd ≠ 0) :
    Ends (.event tm src nsi bit) s (h.send (BitVec.ofNat 6 (nsiDev (h.s (nsiHandle nsi)).fwd))
      (.event (h.s (nsiHandle nsi)).fwd bit)) := by
  show execEvent tm src nsi bit s = _
  unfold execEvent
  refine onHub_ends hh ?_
  dsimp only
  rw [if_neg (by rw [not_or, not_not, not_not]; exact hm), if_neg (by simp [hs]), if_pos (by simpa using hw)]

theorem event_delivered (hs : (h.s (nsiHandle nsi)).r.state ≠ S.free) :
    Ends (.event tm src nsi bit) s ((h.deliver (nsiHandle nsi) bit.toNat).settled (nsiHandle nsi)) := by
  show execEvent tm src nsi bit s = _
  unfold execEvent
  refine onHub_ends hh ?_
  dsimp only
  rw [if_neg (by rw [not_or, not_not, not_not]; exact hm), if_pos (by simpa using hs)]

end
end

/-- A pool whose role is prefill: one that EVACUATE may name (R184). -/
def prefillPool (p : Option Plan) : Bool :=
  match p with
  | none => false
  | some p => p.role == 2

theorem prefillPool_iff (p : Option Plan) : prefillPool p = true ↔ ∃ q, p = some q ∧ q.role = 2 := by
  cases p <;> simp [prefillPool]

/-- EVACUATE refuses where the pool is not a prefill pool or has no fault. -/
theorem refuses_iff (p : Option Plan) (f : Bool) :
    (!prefillPool p || !f) = true ↔ ¬(∃ q, p = some q ∧ q.role = 2) ∨ ¬f = true := by
  rw [← prefillPool_iff, Bool.or_eq_true, Bool.not_eq_true', Bool.not_eq_true', Bool.not_eq_true, Bool.not_eq_true]

/-- What the effect of a line that passes every check ends with. -/
theorem onLine_ends {tm : Nt} {w op : BitVec 8} {l : CmdLine} {f : Sub → Hub → Hub} {s : State} {u : Hub}
    (ha : (s.hub.stamp tm).admits w op l = true) (hf : f ((s.hub.stamp tm).subOf w op l) ((s.hub.stamp tm).counted w op) = u) :
    onHub tm (fun h => h.line w op l f) s = .next { s with hub := Hub.finish s.hub u } :=
  onHub_ends rfl ((line_admitted _ _ _ _ _ ha).trans hf)

/-- Settles O35: each message's and command's case by its law, and what the settling of a quiet session leaves of it. -/
theorem ownershipMessages : Obligations.OwnershipMessages := by
  intro tm src d sk epoch e i due nsi bit w l s h x calm others k y mine waits served told live
  have stamped : s.hub.stamp tm = h := rfl
  refine ⟨fun hf => probe_unknown stamped epoch hf, fun hf he => probe_agreed stamped epoch hf he, fun hf he ho => ?conflict,
    fun hf held => probeReply_unknown stamped held hf,
    fun hf hw => ⟨probeReply_unasked stamped hf hw, probeReply_otherHolder stamped e hf hw⟩,
    fun hf hw => ⟨probeReply_served stamped none hf hw (fun _ he => nomatch he), fun hn => ?served,
      fun hn => probeReply_newer stamped e hf hw hn⟩, fun hf hw hn hc => ?ended,
    fun hf => probeInterval_idle stamped ?idle, fun hf hp hd => ?repeats,
    fun hf => release_ignored stamped epoch hf, fun hf hn => ⟨release_told stamped epoch hf hn, fun hc h1 h2 => ?dropped, fun hc hm => ?held⟩,
    fun hm => event_lost stamped bit (hm.imp id And.right), fun hm hs hw => event_forwarded stamped bit hm hs hw,
    fun hm hs => event_delivered stamped bit hm hs,
    fun hm hl => ?landed, fun hm hs ht => ?queued, ?evacuate⟩
  case conflict =>
    have e := probe_conflict (src := src) stamped epoch hf he ho
    refine ⟨e, e.answers ⟨⟨⟨rfl, rfl⟩, fun j hj => ?_⟩, ?_⟩⟩
    · rw [kept_finish, s_send, s_ownerMismatch_ne h i j epoch hj]; rfl
    · rw [rec_finish, s_seen_finish, s_send]; exact ownerMismatch_leaves h i epoch
  case served => exact probeReply_served stamped (some e) hf hw fun e' he' => by cases he'; exact hn
  case ended =>
    obtain ⟨h1, h2, h3⟩ := hc
    have same : (h.setS i served).s i = served := s_setS_same h i served
    obtain ⟨q1, q2, q3, q4⟩ := settled_quiet i (h.setS i served) (by rw [same]; exact h1) (by rw [same]; exact h2) (by rw [same]; exact h3)
    rw [same] at q1 q2 q3
    refine (probeReply_served stamped (some e) hf hw (fun e' he' => by cases he'; exact hn)).answers ⟨⟨⟨rfl, rfl⟩, fun j hj => ?_⟩, ?_⟩
    · rw [kept_finish]; exact congrArg Sess.kept ((q4 j hj).trans (s_setS_ne h i j served hj))
    · rw [rec_finish, s_seen_finish, s_probe_finish]
      exact ⟨congrArg Rec.omm q1, q2, q3, congrArg Rec.lastStatus q1, (congrArg Rec.state q1).trans rfl⟩
  case idle =>
    refine hf.imp id fun ⟨hf, hp⟩ => ⟨i, hf, fun d' due' hp' => ?_⟩
    rcases hp with hp | ⟨hp, hd⟩
    · cases hp.symm.trans hp'
    · cases hp.symm.trans hp'; exact hd
  case repeats => exact probeInterval_repeats stamped hf hp hd
  case dropped =>
    obtain ⟨c1, c2, c3⟩ := hc
    have same := s_setS_same h i { x with relHeld := some (toldEpoch x epoch) }
    have gone := settled_release (h.setS i { x with relHeld := some (toldEpoch x epoch) }) i (toldEpoch x epoch) (by rw [same])
      (by rw [same]; exact h1) (by rw [same]; exact h2) (by rw [same, toldEpoch_first x epoch c2]; exact hn)
    refine (release_told stamped epoch hf hn).answers ⟨?_, rfl, rfl⟩
    rw [kept_finish]; exact congrArg Sess.kept gone
  case held =>
    obtain ⟨c1, c2, c3⟩ := hc
    have same := s_setS_same h i { x with relHeld := some (toldEpoch x epoch) }
    have keeps := settled_held (h.setS i { x with relHeld := some (toldEpoch x epoch) }) i (toldEpoch x epoch) (by rw [same])
      (by rw [same]; exact hm) (by rw [same]; exact congrArg (List.any · renews) c1)
    exact keeps ▸ release_told stamped epoch hf hn
  case landed =>
    obtain ⟨l1, l2, l3, l4, l5, l6, l7⟩ := hl
    have e : h.deliver k bit.toNat = h.modR k (fun r => { r with pending := r.pending ||| BitVec.ofNat 16 (2 ^ bit.toNat) }) :=
      deliver_plain h k bit.toNat l1 l2 l6 bit.isLt l7
    have same := s_modR_same h k (fun r => { r with pending := r.pending ||| BitVec.ofNat 16 (2 ^ bit.toNat) })
    obtain ⟨q1, -, -, q4⟩ := settled_quiet k (h.deliver k bit.toNat) (by rw [e, same]; exact l3) (by rw [e, same]; exact l4)
      (by rw [e, same]; exact l5)
    refine (event_delivered stamped bit hm l1).answers ⟨⟨rfl, rfl⟩, fun j hj => ?_, ?_⟩
    · rw [kept_finish, q4 j hj, e, s_modR_ne h k j _ hj]; rfl
    · rw [rec_finish, q1, e, same]
  case queued =>
    have e := deliver_migrating h k bit.toNat hs ht
    exact e ▸ event_delivered stamped bit hm (by rw [hs]; decide)
  case evacuate =>
    intro b c g pool inPool isPool fault z ha
    have refuses := refuses_iff pool (if b = g.g F.POOLROLE_base ∧ g.g F.POOLROLE_size ≠ 0 then g.faulted else (h.counted w 0x19).fresh.1.getLsbD 0)
    have goes (hp : isPool) (hf : fault) := mt refuses.1 (not_or.2 ⟨not_not.2 hp, not_not.2 hf⟩)
    refine ⟨fun hn => ?refused, fun hp hf hd => ?elsewhere, fun hp hf hd => ?adopts⟩ <;>
      (show execEvacuate tm w l s = _) <;> unfold execEvacuate <;> refine onLine_ends ha ?_
    case refused => exact if_pos (refuses.2 hn)
    case elsewhere => exact (if_neg (goes hp hf)).trans (if_pos (by rw [Bool.not_eq_true']; exact hd))
    case adopts => exact (if_neg (goes hp hf)).trans (if_neg (by rw [Bool.not_eq_true']; exact ne_false_of_eq_true hd))

end Sys2Proof.Machine
end

section
/-! Times that end waits (O46). -/

namespace Sys2Proof.Machine
open Hub

/-- Whether a time that is armed (not 0) has come. -/
theorem reached_iff (t now : Nt) : (t != 0 && decide (t ≤ now)) = true ↔ t ≠ 0 ∧ t ≤ now := by
  simp only [Bool.and_eq_true, bne_iff_ne, decide_eq_true_eq]

section
variable {tm : Nt} {i : Handle} {s : State} {h : Hub} (hh : s.hub.stamp tm = h)
include hh

/-! ### WAIT_TIMEOUT -/

/-- The timeout of a WAIT is reached once, while the session is blocked on it. -/
theorem waitTimeout_reached {d : BitVec 4} (hb : (h.s i).blk = some (.wait d)) (hz : (h.s i).r.waitExp ≠ 0)
    (ht : (h.s i).r.waitExp ≤ h.nt) (hw : (h.s i).waitHit = false) : Ends (.waitTimeout tm i) s ((h.timeout i).settled i) := by
  show execWaitTimeout tm i s = _
  unfold execWaitTimeout
  refine onHub_ends hh ?_
  dsimp only
  rw [hb]; dsimp only
  rw [(reached_iff _ _).2 ⟨hz, ht⟩, hw]; rfl

theorem waitTimeout_idle (hn : (h.s i).blk = none ∨ (h.s i).r.waitExp = 0 ∨ h.nt < (h.s i).r.waitExp ∨ (h.s i).waitHit = true) :
    Ends (.waitTimeout tm i) s h := by
  show execWaitTimeout tm i s = _
  unfold execWaitTimeout
  refine onHub_ends hh ?_
  dsimp only
  split
  · next d hb =>
    refine if_neg fun hc => ?_
    rw [Bool.and_eq_true, reached_iff, Bool.not_eq_true'] at hc
    obtain ⟨⟨hz, ht⟩, hw⟩ := hc
    rcases hn with hn | hn | hn | hn
    · rw [hn] at hb; cases hb
    · exact hz hn
    · exact BitVec.not_lt.2 ht hn
    · rw [hn] at hw; cases hw
  · rfl

/-! ### HOLD_TIMEOUT -/

theorem holdTimeout_reached {d : BitVec 4} {e : Nt} (hb : (h.s i).blk = some (.hold d e)) (hz : e ≠ 0) (ht : e ≤ h.nt) :
    Ends (.holdTimeout tm i) s (h.endInstr i (some (d, 0xFFFF)) St.ok 0xFFFF) := by
  show execHoldTimeout tm i s = _
  unfold execHoldTimeout
  refine onHub_ends hh ?_
  rw [hb]; dsimp only
  rw [if_pos ((reached_iff _ _).2 ⟨hz, ht⟩)]

theorem holdTimeout_idle (hn : ∀ d e, (h.s i).blk = some (.hold d e) → e = 0 ∨ h.nt < e) : Ends (.holdTimeout tm i) s h := by
  show execHoldTimeout tm i s = _
  unfold execHoldTimeout
  refine onHub_ends hh ?_
  split
  · next d e hb =>
    refine if_neg fun hc => ?_
    obtain ⟨hz, ht⟩ := (reached_iff _ _).1 hc
    exact (hn d e hb).elim hz (BitVec.not_lt.2 ht)
  · rfl

/-! ### TTL_EXPIRE -/

theorem ttlExpire_reached (hs : (h.s i).r.state = S.parked) (ha : (h.s i).r.ttlArmed = true) (ht : (h.s i).r.expiry ≤ h.nt) :
    Ends (.ttlExpire tm i) s ((h.expire i).settled i) := by
  show execTtlExpire tm i s = _
  unfold execTtlExpire
  refine onHub_ends hh ?_
  dsimp only
  rw [if_pos (by simp [hs, ha, ht])]

theorem ttlExpire_idle (hn : (h.s i).r.state ≠ S.parked ∨ (h.s i).r.ttlArmed = false ∨ h.nt < (h.s i).r.expiry) :
    Ends (.ttlExpire tm i) s h := by
  show execTtlExpire tm i s = _
  unfold execTtlExpire
  refine onHub_ends hh (if_neg fun hc => ?_)
  rw [Bool.and_eq_true, Bool.and_eq_true, beq_iff_eq, decide_eq_true_eq] at hc
  obtain ⟨⟨hs, ha⟩, ht⟩ := hc
  rcases hn with hn | hn | hn
  · exact hn hs
  · rw [hn] at ha; cases ha
  · exact BitVec.not_lt.2 ht hn

/-! ### INTERRUPT_HOLDOFF -/

/-- A vector held off since `e` with messages to give fires once its holdoff is over (R519). -/
theorem interruptHoldoff_reached {v : BitVec 6} {e : Nt} (he : (smGet {} h.irq v.toNat).since = some e)
    (hc : 0 < (smGet {} h.irq v.toNat).count) (ht : e.toNat + h.gi F.INTMOD_holdoff v.toNat * 1000 ≤ h.nt.toNat) :
    Ends (.interruptHoldoff tm v) s ((h.p F.INTCAUSE_cause (h.g F.INTCAUSE_cause ||| 2 ^ v.toNat)).fire v) := by
  show execInterruptHoldoff tm v s = _
  unfold execInterruptHoldoff
  refine onHub_ends hh ?_
  dsimp only
  rw [he]; dsimp only
  rw [if_pos (by rw [decide_eq_true hc, decide_eq_true ht]; rfl)]

theorem interruptHoldoff_idle {v : BitVec 6} (hn : ∀ e, (smGet {} h.irq v.toNat).since = some e →
      (smGet {} h.irq v.toNat).count = 0 ∨ h.nt.toNat < e.toNat + h.gi F.INTMOD_holdoff v.toNat * 1000) :
    Ends (.interruptHoldoff tm v) s h := by
  show execInterruptHoldoff tm v s = _
  unfold execInterruptHoldoff
  refine onHub_ends hh ?_
  dsimp only
  split
  · rfl
  · next e he =>
    refine if_neg fun hc => ?_
    rw [Bool.and_eq_true, decide_eq_true_eq, decide_eq_true_eq] at hc
    have := hn e he
    omega

end

/-- Settles O46: each time's command does its one thing where the time has come and nothing before. -/
theorem timesReached : Obligations.TimesReached := by
  intro tm i v s h x
  have stamped : s.hub.stamp tm = h := rfl
  refine ⟨fun d hb hz ht hw => ⟨fun hp => ?unmet, fun hp => ?met⟩, fun hn => waitTimeout_idle stamped hn,
    fun d e hb => ⟨fun hz ht => holdTimeout_reached stamped hb hz ht, fun hn => ?holds⟩, fun hb => ?unblocked,
    fun hs ha ht => ttlExpire_reached stamped hs ha ht, fun hn => ttlExpire_idle stamped hn, ?quantized,
    fun e he => ⟨fun hc ht => interruptHoldoff_reached stamped he hc ht, fun hn => ?early⟩, fun he => ?idle⟩
  case unmet =>
    have e : h.timeout i = (h.modS i (fun x => { x with waitHit := true })).meet i 0xFFFF := by
      unfold timeout; exact if_neg (by simpa using hp)
    exact e ▸ waitTimeout_reached stamped hb hz ht hw
  case met =>
    have e : h.timeout i = h := by unfold timeout; exact if_pos (by simpa using hp)
    exact e ▸ waitTimeout_reached stamped hb hz ht hw
  case holds =>
    refine holdTimeout_idle stamped fun d' e' hb' => ?_
    cases hb.symm.trans hb'
    exact hn
  case unblocked => exact holdTimeout_idle stamped fun d e hb' => nomatch hb.symm.trans hb'
  case quantized =>
    show execQuantizedCompletion tm s = _
    unfold execQuantizedCompletion
    exact onHub_ends stamped rfl
  case early =>
    refine interruptHoldoff_idle stamped fun e' he' => ?_
    cases he.symm.trans he'
    exact hn
  case idle => exact interruptHoldoff_idle stamped fun e he' => nomatch he.symm.trans he'

end Sys2Proof.Machine
end

section
/-! Vector slots that scale, convert, quantize, reduce, attend and combine (O9). -/

namespace Sys2Proof.Machine

namespace Stone

variable (x : Stone)

/-! ### What a write of scratch leaves -/

theorem setup_putF32s (i n : Nat) (d : List F32) : (x.putF32s i n d).setup = x.setup := by
  induction n generalizing x i d with
  | zero => rfl
  | succ n ih =>
    unfold putF32s
    split
    · rfl
    · exact ih _ _ _

theorem setup_putBytes (i n : Nat) (b : Bytes) : (x.putBytes i n b).setup = x.setup := by
  induction n generalizing x i b with
  | zero => rfl
  | succ n ih =>
    unfold putBytes
    split
    · rfl
    · exact ih _ _ _

theorem putF32s_poison (p : List Nat) (i n : Nat) (d : List F32) :
    putF32s { x with poison := p } i n d = { x.putF32s i n d with poison := p } := by
  induction n generalizing x i d with
  | zero => rfl
  | succ n ih =>
    unfold putF32s
    split
    · rfl
    · exact ih (x.setLine i (packLine (x.line i) (d.take 16))) (i + 1) (d.drop 16)

theorem putBytes_poison (p : List Nat) (i n : Nat) (b : Bytes) :
    putBytes { x with poison := p } i n b = { x.putBytes i n b with poison := p } := by
  induction n generalizing x i b with
  | zero => rfl
  | succ n ih =>
    unfold putBytes
    split
    · rfl
    · exact ih (x.setLine i _) (i + 1) (b.drop 64)

theorem f32_of_lines {a b : Stone} (h : a.lines = b.lines) (i k : Nat) : a.f32 i k = b.f32 i k :=
  f32_congr a b i k (by unfold line; rw [h])

/-- Of a list of FP32 elements mapped and written, an element is the image of the one read. -/
theorem f32_putF32s_map (f : F32 → F32) (A D c k : Nat) (hk : k < 64 * c) :
    (x.putF32s D (4 * c) ((x.f32s A (64 * c)).map f)).f32 D k = f (x.f32 A k) := by
  rw [f32_putF32s _ _ _ _ (by simp; omega) _ (by simpa using hk), map_getD _ _ _ _ 0 (by simpa using hk), f32s_getD _ _ _ _ hk]

end Stone

/-! ### A vector slot by its result -/

theorem Answers.imp {c : Instr} {s : State} {P Q : State → Prop} (h : Answers c s P) (hi : ∀ t, P t → Q t) : Answers c s Q := by
  obtain ⟨t, ht, hp⟩ := h
  exact ⟨t, ht, hi t hp⟩

section

variable {c : Instr} {op : Nat} {tm : Nt} {l : BitVec 11} {w : W64} {bad : Bool} {f : Stone → OpRes} {s : State}

/-- A vector slot whose operation leaves its stone as `y`, whatever lines are poisoned, leaves the lines of `y`; where these differ from
those before at `n` lines from `D` on alone, nothing else changes beside the counts of the vector unit. -/
theorem vecSlot_lines {y : Stone} {D n : Nat} (he : exec c s = vecExec op tm l w bad f s) (hok : vectorOk op w = true)
    (hf : ∀ p, ∃ q, (f { s.stn.get l with poison := p }).st = { y with poison := q })
    (hset : y.setup = (s.stn.get l).setup) (hline : ∀ i, i < D ∨ D + n ≤ i → y.line i = (s.stn.get l).line i) :
    Answers c s (fun t => (t.stn.get l).lines = y.lines ∧ SlotFrame tm s t l D n vectorCounts) := by
  unfold vecExec at he
  rw [hok] at he
  obtain ⟨p, t, ht, hst, hpend⟩ := stoneOp_next' tm l bad F.INTVRES_count 0x02 f s
  obtain ⟨q, hq⟩ := hf p
  rw [hq] at hst
  have hget := congrArg (fun z => z.get l) hst
  dsimp only at hget
  rw [Stones.get_set_same] at hget
  refine ⟨t, he.trans ht, by rw [hget]; rfl, scratchFrame_set s t l D n _ hst hpend hline, ?_, stoneOp_worked _ _ _ _ _ _ _ _ ht⟩
  rw [hget]
  exact hset

/-- The same where the operation writes FP32 elements. -/
theorem vecSlot_f32s {D n : Nat} {d : List F32} (he : exec c s = vecExec op tm l w bad f s) (hok : vectorOk op w = true)
    (hf : ∀ p, ∃ b, (f { s.stn.get l with poison := p }).st = (Stone.putF32s { s.stn.get l with poison := p } D n d).setPoison D n b) :
    Answers c s (fun t => (t.stn.get l).lines = ((s.stn.get l).putF32s D n d).lines ∧ SlotFrame tm s t l D n vectorCounts) := by
  refine vecSlot_lines he hok (fun p => ?_) (Stone.setup_putF32s _ D n d) (Stone.line_putF32s_ne _ D n d)
  obtain ⟨b, hb⟩ := hf p
  rw [hb, Stone.putF32s_poison]
  exact ⟨_, rfl⟩

/-- The same where the operation writes bytes. -/
theorem vecSlot_bytes {D n : Nat} {d : Bytes} (he : exec c s = vecExec op tm l w bad f s) (hok : vectorOk op w = true)
    (hf : ∀ p, ∃ b, (f { s.stn.get l with poison := p }).st = (Stone.putBytes { s.stn.get l with poison := p } D n d).setPoison D n b) :
    Answers c s (fun t => (t.stn.get l).lines = ((s.stn.get l).putBytes D n d).lines ∧ SlotFrame tm s t l D n vectorCounts) := by
  refine vecSlot_lines he hok (fun p => ?_) (Stone.setup_putBytes _ D n d) (Stone.line_putBytes_ne _ D n d)
  obtain ⟨b, hb⟩ := hf p
  rw [hb, Stone.putBytes_poison]
  exact ⟨_, rfl⟩

end

/-! ### Attention weights (R205) -/

/-- The weight p of a score whose piece has the maximum `m`: +0 where the slot is not admitted. -/
def attWeight (m a : F32) : F32 := if a == negInf32 then zero32 else exp32 (sub32 a m)

/-- The weights of a piece's scores. -/
def attWeights (l : List F32) : List F32 := l.map (attWeight (attMax l))

/-- The exact sum l of the weights, rounded once. -/
def attSum (l : List F32) : F32 := sumOnce ((attWeights l).map dec32)

/-- A stone after VATT: the weights from dst on, then the maximum and the sum. -/
def attendedStone (x : Stone) (w : W64) : Stone :=
  let src := x.f32s (wf w 41 28) (64 * wf w 13 6)
  (x.putF32s (wf w 55 42) (4 * wf w 13 6) (attWeights src)).putF32s (wf w 55 42 + 4 * wf w 13 6) 1 [attMax src, attSum src]

theorem vattOp_st (x : Stone) (w : W64) :
    (vattOp x w).st = (attendedStone x w).setPoison (wf w 55 42) (4 * wf w 13 6 + 1) (x.anyPoison (wf w 41 28) (4 * wf w 13 6)) := rfl

theorem attendedStone_poison (x : Stone) (w : W64) (p : List Nat) :
    attendedStone { x with poison := p } w = { attendedStone x w with poison := p } :=
  (congrArg (fun y => Stone.putF32s y _ _ _) (Stone.putF32s_poison x p _ _ _)).trans (Stone.putF32s_poison _ p _ _ _)

theorem attendedStone_weight (x : Stone) (w : W64) (k : Nat) (hk : k < 64 * wf w 13 6) :
    (attendedStone x w).f32 (wf w 55 42) k =
      attWeight (attMax (x.f32s (wf w 41 28) (64 * wf w 13 6))) (x.f32 (wf w 41 28) k) :=
  (Stone.f32_congr _ _ _ _ (Stone.line_putF32s_ne _ _ _ _ _ (Or.inl (by omega)))).trans (Stone.f32_putF32s_map _ _ _ _ _ k hk)

theorem attendedStone_tail (x : Stone) (w : W64) (k : Nat) (hk : k < 2) :
    let src := x.f32s (wf w 41 28) (64 * wf w 13 6)
    (attendedStone x w).f32 (wf w 55 42 + 4 * wf w 13 6) k = [attMax src, attSum src].getD k 0 :=
  Stone.f32_putF32s _ _ _ _ (by simp) k hk

/-! ### The slots -/

section

variable (tm : Nt) (l : BitVec 11) (w : W64) (bad : Bool) (s : State)

/-- VSCL scales every element of src1 by element 0 of src2. -/
theorem vscl_scales (hok : vectorOk 0x0A w = true) :
    Answers (.vscl tm l w bad) s (fun t =>
      (∀ k, k < 64 * wf w 13 6 → (t.stn.get l).f32 (wf w 55 42) k =
        mul32 ((s.stn.get l).f32 (wf w 41 28) k) ((s.stn.get l).f32 (wf w 27 14) 0))
      ∧ SlotFrame tm s t l (wf w 55 42) (4 * wf w 13 6) vectorCounts) := by
  refine (vecSlot_f32s (f := fun st => vsclOp st w)
    (d := ((s.stn.get l).f32s (wf w 41 28) (64 * wf w 13 6)).map (fun a => mul32 a ((s.stn.get l).f32 (wf w 27 14) 0)))
    rfl hok fun p => ⟨_, rfl⟩).imp fun t h => ⟨fun k hk => ?_, h.2⟩
  exact (Stone.f32_of_lines h.1 _ k).trans (Stone.f32_putF32s_map _ _ _ _ _ k hk)

/-- VRED leaves its one value at dst. -/
theorem vred_reduces (hok : vectorOk 0x0D w = true) :
    Answers (.vred tm l w bad) s (fun t =>
      (t.stn.get l).f32 (wf w 55 42) 0 = vred (wf w 5 0) ((s.stn.get l).f32s (wf w 41 28) (64 * wf w 13 6)) (wf w 13 6)
      ∧ SlotFrame tm s t l (wf w 55 42) 1 vectorCounts) := by
  refine (vecSlot_f32s (f := fun st => vredOp st w)
    (d := [vred (wf w 5 0) ((s.stn.get l).f32s (wf w 41 28) (64 * wf w 13 6)) (wf w 13 6)])
    rfl hok fun p => ⟨_, rfl⟩).imp fun t h => ⟨?_, h.2⟩
  exact (Stone.f32_of_lines h.1 _ 0).trans (Stone.f32_putF32s _ _ _ _ (by simp) 0 (by simp))

/-- VATT leaves its stone as `attendedStone`. -/
theorem vatt_attends (hok : vectorOk 0x0F w = true) :
    Answers (.vatt tm l w bad) s (fun t =>
      (t.stn.get l).lines = (attendedStone (s.stn.get l) w).lines
      ∧ SlotFrame tm s t l (wf w 55 42) (4 * wf w 13 6 + 1) vectorCounts) := by
  refine vecSlot_lines (f := fun st => vattOp st w) rfl hok (fun p => ?_) ?_ fun i hi => ?_
  · rw [vattOp_st, attendedStone_poison]
    exact ⟨_, rfl⟩
  · exact (Stone.setup_putF32s _ _ _ _).trans (Stone.setup_putF32s _ _ _ _)
  · exact (Stone.line_putF32s_ne _ _ _ _ _ (by omega)).trans (Stone.line_putF32s_ne _ _ _ _ _ (by omega))

end

/-- Settles O9, slot by slot: what the operation leaves of its stone does not look at poison, and its elements read back. -/
theorem vectorScaleConvertReduce : Obligations.VectorScaleConvertReduce := by
  refine ⟨fun tm l w bad s => ⟨vscl_scales tm l w bad s, vred_reduces tm l w bad s, fun hok => ?attend⟩,
    fun tm l w bad s => ⟨fun hok => ?convert, fun hok => ?quantize, fun hok => ?tree, fun hok => ?combine⟩⟩
  case attend =>
    exact (vatt_attends tm l w bad s hok).imp fun t h =>
      ⟨fun k hk => (Stone.f32_of_lines h.1 _ k).trans (attendedStone_weight _ w k hk),
        (Stone.f32_of_lines h.1 _ 0).trans (attendedStone_tail _ w 0 (by omega)),
        (Stone.f32_of_lines h.1 _ 1).trans (attendedStone_tail _ w 1 (by omega)), h.2⟩
  case convert => exact vecSlot_bytes (f := fun st => vcvtOp st w) rfl hok fun p => ⟨_, rfl⟩
  case quantize => exact vecSlot_bytes (f := fun st => vqmxOp st w) rfl hok fun p => ⟨_, rfl⟩
  case tree => exact vecSlot_f32s (f := fun st => vtreeOp st w) rfl hok fun p => ⟨_, rfl⟩
  case combine => exact vecSlot_f32s (f := fun st => vcombOp st w) rfl hok fun p => ⟨_, rfl⟩

end Sys2Proof.Machine
end

section
/-! XKVW at the start of issue in an idle cluster domain: the request for a wake token that waits is counted (O13). -/

namespace Sys2Proof.Machine

/-! ### A device whose governor has no token -/

/-- The model of the plan below: one KV head of 16 elements in one global layer. -/
def heldModel : Model :=
  { digest := 7, secver := 0, nkv := 1, dim := 16, lg := 1, lw := 0, win := 0, int4 := false, headH := 1, maxPos := 4096, sigma := 0, vocab := [] }

/-- A plan of a decode group of 64 devices for that model, with no leat and one slice. -/
def heldPlan : Plan :=
  { magic := 0, format := 0, hdrLen := 0, producer := 0, secver := 0, length := 0, n := 64, role := 1, base := 0, groups := 1, setId := 0
    family := 0, model := 7, arithrev := 0, positions := 64, depth := 1, chunk := 0, pfRate := 0, bq := 1000, allow := 500, bframe := 0
    admCap := 0, nodesize := 0, digest := 0, sigOk := true, sectOk := true, streamOk := true, grainsOk := true, leatsFit := true, leats := []
    slices := [], buckets := [], windows := [], chunkGr := 1, grainSt := 1, gFrames := 64, wFrames := 0, sched := [], lanes := 1
    buddyOk := false }

/-- A hub in a step of one run, root index 1, which takes one position: POOLROLE makes the device position 0 of its group, PWRDOM has the
cluster domain 24 of stone 0 on. Nothing has issued there yet, and the bucket of wake tokens is empty. -/
def heldHub : Hub :=
  { nt := 1000, regs := [(0x20004, 0x400001), (0x44028, 0x1000000)], im := { plans := [(0, [heldPlan])], models := [heldModel] }
    kv := { gTotal := 64, roots := [(64, {})] }
    grp := { cur := some { step := 3, start := 0, adms := [{ root := 1, bucket := 0, k := 1, part := 0, toks := [5], first := 0 }] } } }

def heldState : State := { hub := heldHub }

/-- XKVW of one row, at line 0, for position 0 of admission record 0, the K side of global layer 0. -/
def heldWord : W64 := 0x0300000000001000

/-- The hypotheses under which O13 says what XKVW writes. -/
theorem heldState_writes :
    moveOk 0x03 heldWord = true ∧ heldHub.inj = [] ∧ heldHub.model = some heldModel ∧ heldHub.stoneShard 0 = some 0
    ∧ heldHub.kvTarget ((heldState.stn.get 0).grain.map (·.1)) (wf heldWord 41 26) = some (1, 0) := by decide +kernel

/-- The slot starts issue in an idle cluster domain, so it asks for a token; the bucket is empty, and PWRWAKEDLY counts the request that is
held (R463). -/
theorem heldState_counts : Answers (.xkvw 1000 0 heldWord) heldState (fun t => t.hub.reg F.PWRWAKEDLY_count.a = 1) :=
  ⟨_, rfl, by decide +kernel⟩

/-- Refutes O13: the clause of XKVW lets it change no register beside KVCOW and KVSAT, but a slot that starts issue in an idle cluster domain
while the governor has no token raises PWRWAKEDLY. -/
theorem not_moveAndKvSlots : ¬ Obligations.MoveAndKvSlots := by
  intro h
  obtain ⟨hok, hinj, hmodel, hshard, htarget⟩ := heldState_writes
  obtain ⟨-, kv⟩ := h
  obtain ⟨write, -⟩ := kv 1000 0 heldWord heldState
  obtain ⟨t, ht, -, -, hregs, -⟩ := write heldModel 0 (1, 0) hok hinj hmodel hshard htarget
  obtain ⟨t', ht', counted⟩ := heldState_counts
  cases ht.symm.trans ht'
  have kept : t.hub.reg F.PWRWAKEDLY_count.a = heldHub.reg F.PWRWAKEDLY_count.a := hregs _ (by decide)
  have before : heldHub.reg F.PWRWAKEDLY_count.a = 0 := by decide +kernel
  rw [counted, before] at kept
  exact absurd kept (by decide)

end Sys2Proof.Machine
end

section
/-! What comes back to the device (O47). -/

namespace Sys2Proof.Machine
open Hub

namespace Hub

variable (h : Hub)

/-- A ring once its consumed word is read as `n`: what waits is written while it fits (R141, R285). -/
def drainedAt (st : Bool) (p : Nat) (n : BitVec 32) : Hub :=
  ((h.setRing st p { h.ring st p with reading := false, retryAt := none, consumed := n }).drain st p (h.ring st p).backlog.length).ringLimit st p

theorem ringRead_stream (p : Nat) (n : BitVec 32) : h.ringRead true p (some n) = h.drainedAt true p n := rfl

theorem ringRead_completion (p : Nat) (n : BitVec 32) :
    h.ringRead false p (some n) = ringFreed h (h.drainedAt false p n) p := rfl

/-- What a write tells once it is visible: its interrupt vector, its session's HOLD, its command and its instruction. -/
def wrTold (x : WrWait) : Hub :=
  let a := match x.vec with
    | none => h
    | some v => h.visible v
  let b := match x.sess with
    | none => a
    | some i => a.endHold i
  let c := match x.sub with
    | none => b
    | some (c, d) => { ({ b with nt := if c.op = 0x50 then c.nt else b.nt } : Hub).complete c x.status d.toNat
          (if namesSession c.op then c.line.nsi else 0) with nt := b.nt }
  match x.ins with
  | none => c
  | some (i, nsi, k) => c.qEnd (.ins i nsi) x.status 0 c.nt k

theorem wrDone_failed (id : Nat) (x : WrWait) :
    h.wrDone id x false =
      ({ h with writes := smPut h.writes id { x with failed := true, retryAt := h.nt + 10000 } } : Hub).hstat F.HSTAT_wr_err := rfl

/-- The first granule follows once the others are visible (R288). -/
theorem wrDone_first (id : Nat) (x : WrWait) (e : W64 × Bytes) (he : x.first = some e) :
    h.wrDone id x true =
      ({ h with writes := smDel h.writes id } : Hub).hostWrite { x with addr := e.1, data := e.2, first := none, failed := false } := by
  unfold wrDone; dsimp only
  rw [he]; rfl

theorem wrDone_visible (id : Nat) (x : WrWait) (he : x.first = none) :
    h.wrDone id x true = ({ h with writes := smDel h.writes id } : Hub).wrTold x := by
  unfold wrDone wrTold; dsimp only
  rw [he]; rfl

end Hub

/-- A write that has not failed. -/
theorem WrWait.unfailed (x : WrWait) (hx : x.failed = false) : { x with failed := false } = x := by
  cases x; cases hx; rfl

section
variable {tm : Nt} {id : Nat} {s : State} {h : Hub} (hh : s.hub.stamp tm = h)
include hh

/-! ### Granary writes (R297) -/

theorem writeDurable_waits (hw : ∀ x, smLook h.durs id = some x →
      h.durHeld x = true ∨ h.grnWaits (.grn id) = true ∨ h.laterIntake id x = true) :
    Ends (.writeDurable tm id) s h := by
  show execWriteDurable tm id s = _
  unfold execWriteDurable
  refine onHub_ends hh ?_
  split
  · rfl
  · next x hx => exact if_pos (by rcases hw x hx with e | e | e <;> simp [e])

theorem writeDurable_done {x : DurWait} (hx : smLook h.durs id = some x) (h1 : h.durHeld x = false)
    (h2 : h.grnWaits (.grn id) = false) (h3 : h.laterIntake id x = false) :
    Ends (.writeDurable tm id) s (({ h with durs := smDel h.durs id } : Hub).durDone x) := by
  show execWriteDurable tm id s = _
  unfold execWriteDurable
  refine onHub_ends hh ?_
  rw [hx]; dsimp only
  rw [if_neg (by simp [h1, h2, h3])]

/-! ### Consumed words of rings (R141, R285) -/

theorem backlogDrain_ends {p : BitVec 4} {c : Option (BitVec 32)} (hr : (h.ring true p.toNat).reading = true) :
    Ends (.backlogDrain tm p c) s (h.ringRead true p.toNat c) := by
  show execBacklogDrain tm p c s = _
  unfold execBacklogDrain
  exact onHub_ends hh (if_pos hr)

theorem backlogDrain_idle {p : BitVec 4} {c : Option (BitVec 32)} (hr : (h.ring true p.toNat).reading = false) :
    Ends (.backlogDrain tm p c) s h := by
  show execBacklogDrain tm p c s = _
  unfold execBacklogDrain
  exact onHub_ends hh (if_neg (by simp [hr]))

theorem completionBacklogDrain_ends {p : BitVec 4} {c : Option (BitVec 32)} (hr : (h.ring false p.toNat).reading = true) :
    Ends (.completionBacklogDrain tm p c) s (h.ringRead false p.toNat c) := by
  show execCompletionBacklogDrain tm p c s = _
  unfold execCompletionBacklogDrain
  exact onHub_ends hh (if_pos hr)

theorem completionBacklogDrain_idle {p : BitVec 4} {c : Option (BitVec 32)} (hr : (h.ring false p.toNat).reading = false) :
    Ends (.completionBacklogDrain tm p c) s h := by
  show execCompletionBacklogDrain tm p c s = _
  unfold execCompletionBacklogDrain
  exact onHub_ends hh (if_neg (by simp [hr]))

/-- The read of a consumed word is repeated once its time has come (R144, R288). -/
theorem consumedWordRetry_due {st : Bool} {p : BitVec 4} {c : Option (BitVec 32)} {e : Nt}
    (he : (h.ring st p.toNat).retryAt = some e) (ht : e ≤ h.nt) :
    Ends (.consumedWordRetry tm st p c) s
      ((h.emit (.wordRead st p (BitVec.ofNat 64 (h.gi (ringRegs st).cons p.toNat * 8)))).ringRead st p.toNat c) := by
  show execConsumedWordRetry tm st p c s = _
  unfold execConsumedWordRetry
  refine onHub_ends hh ?_
  rw [he]; dsimp only
  rw [if_pos ht]

theorem consumedWordRetry_idle {st : Bool} {p : BitVec 4} {c : Option (BitVec 32)}
    (hn : ∀ e, (h.ring st p.toNat).retryAt = some e → h.nt < e) : Ends (.consumedWordRetry tm st p c) s h := by
  show execConsumedWordRetry tm st p c s = _
  unfold execConsumedWordRetry
  refine onHub_ends hh ?_
  split
  · rfl
  · next e he => exact if_neg (BitVec.not_le.2 (hn e he))

/-! ### Writes to host memory (R288) -/

theorem itomwrComplete_ends {ok : Bool} {x : WrWait} (hx : smLook h.writes id = some x) (hf : x.failed = false) :
    Ends (.itomwrComplete tm id ok) s (h.wrDone id x ok) := by
  show execItomwrComplete tm id ok s = _
  unfold execItomwrComplete
  refine onHub_ends hh ?_
  rw [hx]; dsimp only
  rw [if_neg (by simp [hf])]

theorem itomwrComplete_idle {ok : Bool} (hn : ∀ x, smLook h.writes id = some x → x.failed = true) :
    Ends (.itomwrComplete tm id ok) s h := by
  show execItomwrComplete tm id ok s = _
  unfold execItomwrComplete
  refine onHub_ends hh ?_
  split
  · rfl
  · next x hx => exact if_pos (hn x hx)

theorem writeRetry_due {ok : Bool} {x : WrWait} (hx : smLook h.writes id = some x) (hf : x.failed = true) (ht : x.retryAt ≤ h.nt) :
    Ends (.writeRetry tm id ok) s ((h.emit (.hostWrite id x.addr x.data)).wrDone id { x with failed := false } ok) := by
  show execWriteRetry tm id ok s = _
  unfold execWriteRetry
  refine onHub_ends hh ?_
  rw [hx]; dsimp only
  rw [if_pos (by simp [hf, ht])]

theorem writeRetry_idle {ok : Bool} (hn : ∀ x, smLook h.writes id = some x → x.failed = false ∨ h.nt < x.retryAt) :
    Ends (.writeRetry tm id ok) s h := by
  show execWriteRetry tm id ok s = _
  unfold execWriteRetry
  refine onHub_ends hh ?_
  split
  · rfl
  · next x hx =>
    refine if_neg fun hc => ?_
    rw [Bool.and_eq_true, decide_eq_true_eq] at hc
    obtain ⟨hf, ht⟩ := hc
    rcases hn x hx with e | e
    · rw [e] at hf; cases hf
    · exact BitVec.not_lt.2 ht e

/-! ### Reads of host memory -/

theorem rdcurrComplete_ends {x : RdWait} {d : Option ReadData} (hx : smLook h.reads id = some x) (hd : ∀ i, x ≠ .draft i) :
    Ends (.rdcurrComplete tm id d) s
      ((if d.isNone then ({ h with reads := smDel h.reads id } : Hub).hstat F.HSTAT_rd_err else { h with reads := smDel h.reads id }).rdDone x d) := by
  show execRdcurrComplete tm id d s = _
  unfold execRdcurrComplete
  refine onHub_ends hh ?_
  rw [hx]
  split
  · next e => cases e
  · next i e => exact absurd (Option.some.inj e) (hd i)
  · next w _ e => cases e; rfl

theorem rdcurrComplete_unknown {d : Option ReadData} (hx : smLook h.reads id = none) : Ends (.rdcurrComplete tm id d) s h := by
  show execRdcurrComplete tm id d s = _
  unfold execRdcurrComplete
  refine onHub_ends hh ?_
  rw [hx]

end

/-- Settles O47: each completion does its one thing where something waits for it, and the laws of a ring's consumed word and of a write
that is visible say what that is. -/
theorem transfersReturn : Obligations.TransfersReturn := by
  intro tm id p n s h later word drained freed lost failed toVec toHold toSub toIns gone
  have stamped : s.hub.stamp tm = h := rfl
  have none_waits {α : Type} {o : Option α} (ho : o = none) (P : α → Prop) : ∀ x, o = some x → P x := fun x e => nomatch ho.symm.trans e
  have told (x : WrWait) (g : Hub) : toIns x (toSub x (toHold x (toVec x g))) = g.wrTold x := rfl
  refine ⟨fun x hx => ⟨writeDurable_done stamped hx, fun hw => writeDurable_waits stamped ?waits⟩,
    fun hn => writeDurable_waits stamped (none_waits hn _),
    fun hr => ⟨backlogDrain_ends stamped hr, backlogDrain_ends stamped hr⟩,
    fun hr => ⟨completionBacklogDrain_ends stamped hr, completionBacklogDrain_ends stamped hr⟩,
    fun c => ⟨backlogDrain_idle stamped, completionBacklogDrain_idle stamped⟩,
    fun st e he => ⟨fun ht => ?due, fun ht c => consumedWordRetry_idle stamped ?early⟩,
    fun st c hn => consumedWordRetry_idle stamped (none_waits hn _),
    fun x hx => ⟨itomwrComplete_ends stamped hx, fun e hf he => ?first, fun hf he => ?visible, writeRetry_due stamped hx,
      fun e hf ht he => ?firstAgain, fun hf ht he => ?visibleAgain, fun ok => ⟨fun hf => itomwrComplete_idle stamped ?failed,
        fun hn => writeRetry_idle stamped ?notDue⟩⟩,
    fun hn ok => ⟨itomwrComplete_idle stamped (none_waits hn _), writeRetry_idle stamped (none_waits hn _)⟩,
    fun x d hx hd => rdcurrComplete_ends stamped hx hd, fun x hx hd => rdcurrComplete_ends stamped hx hd,
    fun hn d => rdcurrComplete_unknown stamped hn⟩
  case waits => intro y hy; cases hx.symm.trans hy; exact hw
  case due =>
    cases st
    · exact ⟨consumedWordRetry_due stamped he ht, consumedWordRetry_due stamped he ht⟩
    · exact ⟨consumedWordRetry_due stamped he ht, consumedWordRetry_due stamped he ht⟩
  case early => intro e' he'; cases he.symm.trans he'; exact ht
  case first =>
    have d := itomwrComplete_ends (ok := true) stamped hx hf
    rw [wrDone_first h id x e he] at d
    have same : ({ x with addr := e.1, data := e.2, first := none, failed := false } : WrWait) =
        { x with addr := e.1, data := e.2, first := none } := congrArg (fun b => { x with addr := e.1, data := e.2, first := none, failed := b }) hf.symm
    rw [same] at d
    exact d
  case visible =>
    have d := itomwrComplete_ends (ok := true) stamped hx hf
    rw [wrDone_visible h id x he] at d
    exact d
  case firstAgain =>
    have d := writeRetry_due (ok := true) stamped hx hf ht
    rw [wrDone_first _ id { x with failed := false } e he] at d
    exact d
  case visibleAgain =>
    have d := writeRetry_due (ok := true) stamped hx hf ht
    rw [wrDone_visible _ id { x with failed := false } he] at d
    exact d
  case failed => intro y hy; cases hx.symm.trans hy; exact hf
  case notDue => intro y hy; cases hx.symm.trans hy; exact hn

end Sys2Proof.Machine
end

section
/-! A device in no group that joins the one new group of a plan set (O48). -/

namespace Sys2Proof.Machine

/-- The recomposition to plan slot 1 whose effective NT has come. -/
def joinRecomp : Recomp := { slot := 1, demote := false, eff := 0, sub := none, begun := true }

/-- A hub of device 0 in no group: plan slot 1 holds a set of one group, which this device is in; no plan set is active. -/
def joinHub : Hub := { nt := 1000, regs := [(0x10, 0)], im := { plans := [(1, [heldPlan])] }, rcmp := some joinRecomp }

def joinState : State := { hub := joinHub }

/-- The device is in no group and slot 1 puts it into one, so it carves afresh; that group is the one new group of the set. -/
theorem joinState_goes :
    (if joinRecomp.switched then (joinHub.stamp 1000).agreed
      else !(joinHub.stamp 1000).changes 1 || (joinHub.stamp 1000).g F.POOLROLE_size == 0) = true := by decide +kernel

/-- PLAN_ACTIVATION notes that its group is the one new group of the set (R174). -/
theorem joinState_lone : Answers (.planActivation 1000 1) joinState (fun t => t.hub.rcmp.map (·.lone) = some true) :=
  ⟨_, rfl, by decide +kernel⟩

/-- Refutes O48: the clause of PLAN_ACTIVATION changes nothing of the recomposition but that it is active, where the device also notes whether
its own group is the one new group of the plan set (R174). -/
theorem not_adaptersAndPools : ¬ Obligations.AdaptersAndPools := by
  intro h
  obtain ⟨-, pools⟩ := h
  obtain ⟨-, recomposing⟩ := pools 1000 1 joinRecomp joinState
  obtain ⟨-, -, -, -, -, activates, -, -⟩ := recomposing rfl
  obtain ⟨t, ht, lone⟩ := joinState_lone
  have same := ht.symm.trans (activates rfl rfl rfl joinState_goes)
  have kept : t.hub.rcmp.map (·.lone) = some false := by cases same; decide +kernel
  rw [lone] at kept
  exact absurd kept (by decide)

end Sys2Proof.Machine
end

section
/-! Session instructions that block their context on a request (O22). -/

namespace Sys2Proof.Machine
open Hub

namespace Hub

variable (h : Hub) (i : Handle) (w : W64)

/-! ### Requests issued -/

theorem mem_hopq_queueIntake (q : IntakeReq) : q ∈ (h.queueIntake q).hopq :=
  List.mem_append_left _ (List.mem_append_right _ (List.mem_singleton.2 rfl))

theorem mem_out_hostRead (a : W64) (n : Nat) (r : RdWait) : Out.hostRead h.nextId a n ∈ (h.hostRead a n r).out :=
  List.mem_append_right _ (List.mem_singleton.2 rfl)

theorem mem_out_hostWrite (x : WrWait) : Out.hostWrite h.nextId x.addr x.data ∈ (h.hostWrite x).out :=
  List.mem_append_right _ (List.mem_singleton.2 rfl)

/-- A STEP's request once its draft buffer is read again (R123). -/
def redrafted (q : StepReq) : StepReq := if q.draft.toNat < 2 then q else { q with buf := none }

/-- What of a STEP's request its draft buffer is not. -/
theorem redrafted_fields (q : StepReq) : (redrafted q).n = q.n ∧ (redrafted q).draft = q.draft ∧ (redrafted q).addr = q.addr := by
  unfold redrafted; split <;> exact ⟨rfl, rfl, rfl⟩

/-- The read of a draft buffer changes its session's request alone. -/
theorem s_readDraft_same : (h.readDraft i).s i = { h.s i with stepReq := (h.s i).stepReq.map redrafted } := by
  unfold readDraft
  split
  · next e => rw [e]; generalize h.s i = x at e; cases x; cases e; rfl
  · next q e =>
    rw [e, Option.map_some, redrafted]
    by_cases hq : q.draft.toNat < 2
    · rw [if_pos hq, if_pos hq]; generalize h.s i = x at e; cases x; cases e; rfl
    · rw [if_neg hq, if_neg hq]; dsimp only
      split
      · rw [s_modS_same]
      · rw [s_hostRead, s_modS_same]

theorem s_readDraft_ne (j : Handle) (hj : j ≠ i) : (h.readDraft i).s j = h.s j := by
  unfold readDraft
  split
  · rfl
  · split
    · rfl
    · dsimp only
      split
      · exact s_modS_ne h i j _ hj
      · rw [s_hostRead]; exact s_modS_ne h i j _ hj

/-- A STEP that ends without being admitted: its session (R37, R258). -/
theorem s_stepNever_same (st : BitVec 8) : (h.stepNever i w st).s i =
    { h.s i with r := { (({ (h.s i).r with lastStatus := st, jseq := (h.s i).r.jseq + 1 } : Rec).wReg (dstOf w) 0).wStat st 0 with
                        pc := (h.s i).r.pc + 1 } } := by
  unfold stepNever; dsimp only
  rw [s_modR_same, s_record_same, s_modR_same]

theorem s_stepNever_ne (st : BitVec 8) (j : Handle) (hj : j ≠ i) : (h.stepNever i w st).s j = h.s j := by
  unfold stepNever; dsimp only
  rw [s_modR_ne _ i j _ hj, s_record_ne _ i j _ _ hj, s_modR_ne _ i j _ hj]

/-! ### The case of each instruction in which it acts -/

/-- The request that an INTAKE makes (R94). -/
def intakeOf : IntakeReq :=
  let one := iw w 47 46 == 1
  { h := i, nt := h.nt, w := 256, sub := none, addr := if one then 0 else h.srcVal i w 0, count := if one then 0 else iw w 8 0
    tok := if one then some (BitVec.ofNat 32 (iw w 31 0)) else none }

theorem iIntake_blocks (hs : (h.s i).r.state ≠ S.free) (hh : h.holds i = false) (hp : h.profS = false) :
    h.iIntake i w = (h.block i (.intake (dstOf w))).queueIntake (h.intakeOf i w) := by
  unfold iIntake; dsimp only
  rw [if_neg (by simp [hh]), if_neg (by simp [hp]), if_neg (by simpa using hs)]
  rfl

/-- A session whose cache is resident and which nothing holds needs no revive (R155). -/
theorem needCache_none (n : Nat) (hs : (h.s i).r.state ≠ S.parked) (hh : h.holds i = false) : h.needCache i w n = none := by
  unfold needCache; dsimp only
  rw [if_neg (by simpa using hs), if_neg (by simp [hh])]

/-- PREFILL of a session that may begin one blocks on its request (R101). -/
theorem iPrefill_blocks (hs : (h.s i).r.state = S.ready ∨ (h.s i).r.state = S.admitted ∧ (h.s i).pendIn ≠ 0) (ho : (h.s i).r.omm = false)
    (hn : h.needsSeal (h.s i).r = false) (hp : h.partHere (h.s i).r.part = true) (hh : h.holds i = false)
    (hl : (h.s i).r.committed.toNat + (h.s i).pendIn.toNat ≤ h.ctxLimit + 1) :
    ∃ q : PfReq, h.iPrefill i w = (h.modS i (fun x => { x with pfReq := some q })).block i (.prefill (dstOf w))
      ∧ (iw w 47 46 < 3 → q = { amode := BitVec.ofNat 2 (iw w 47 46), slot := BitVec.ofNat 10 (iw w 41 32)
                                ver := BitVec.ofNat 16 (iw w 31 16), nt := h.nt }) := by
  have state : (h.s i).r.state ≠ S.halted ∧ (h.s i).r.state ≠ S.parked := by
    rcases hs with hs | ⟨hs, -⟩ <;> rw [hs] <;> decide
  have may : (!((h.s i).r.state == S.admitted || (h.s i).r.state == S.ready) || ((h.s i).r.state == S.admitted && (h.s i).pendIn == 0)) = false := by
    rcases hs with hs | ⟨hs, hq⟩
    · rw [hs]; rfl
    · rw [hs, beq_eq_false_iff_ne.2 hq]; rfl
  unfold iPrefill; dsimp only
  rw [if_neg (by simpa using state.1), if_neg (by simp [ho]), if_neg (by simp [hn]), if_neg (by simp [hp]),
    needCache_none h i w _ state.2 hh]
  dsimp only
  rw [may, if_neg (by decide), if_neg (by omega)]
  exact ⟨_, rfl, fun hm => by rw [if_neg (by omega)]⟩

/-- The request that a STEP makes (R108). -/
def stepOf : StepReq := { n := BitVec.ofNat 16 (iw w 15 0), draft := BitVec.ofNat 2 (iw w 17 16), addr := h.srcVal i w 0 }

section
variable (hs : (h.s i).r.state = S.ready) (ho : (h.s i).r.omm = false) (hl : (h.s i).r.dlate = false)
  (hd : (h.s i).r.deadline ≠ 0 → h.nt < (h.s i).r.deadline) (hn : h.needsSeal (h.s i).r = false)
  (hp : h.partHere (h.s i).r.part = true) (hh : h.holds i = false)
include hs ho hl hd hn hp hh

/-- A STEP that nothing refuses before the context limit. -/
theorem iStep_ready : h.iStep i w =
    if h.ctxLimit ≤ (h.s i).r.committed.toNat then h.stepNever i w St.maxTokens
    else if h.inPrefill then
      if h.on F.POOLCTL_handoff_en then
        if 0 < (h.s i).intakes || h.rotating i then h.hold i w
        else (h.block i (.step (dstOf w))).startMig i h.handoffTo false none true
      else h.statDst i w 0 St.badState
    else ((h.modS i (fun x => { x with stepReq := some (h.stepOf i w) })).block i (.step (dstOf w))).readDraft i := by
  have early : ((h.s i).r.dlate || ((h.s i).r.deadline != 0 && decide ((h.s i).r.deadline ≤ h.nt))) = false := by
    rw [hl, Bool.false_or, ← Bool.not_eq_true, reached_iff]
    exact fun ⟨hz, ht⟩ => BitVec.not_lt.2 ht (hd hz)
  unfold iStep; dsimp only
  rw [if_neg (by rw [hs]; decide), if_neg (by simp [ho]), if_neg (by rw [early]; decide), if_neg (by simp [hn]), if_neg (by simp [hp]),
    needCache_none h i w 0 (by rw [hs]; decide) hh]
  dsimp only
  rw [if_neg (by simp [hs])]
  rfl

theorem iStep_limit (hc : h.ctxLimit ≤ (h.s i).r.committed.toNat) : h.iStep i w = h.stepNever i w St.maxTokens :=
  (iStep_ready h i w hs ho hl hd hn hp hh).trans (if_pos hc)

theorem iStep_blocks (hc : (h.s i).r.committed.toNat < h.ctxLimit) (hr : h.inPrefill = false) : h.iStep i w =
    ((h.modS i (fun x => { x with stepReq := some (h.stepOf i w) })).block i (.step (dstOf w))).readDraft i := by
  rw [iStep_ready h i w hs ho hl hd hn hp hh, if_neg (by omega), if_neg (by simp [hr])]

end

/-- A Quern instruction that its index accepts blocks on its request (R258, R339). -/
theorem iQuern_blocks (op : BitVec 8) (q : QIdx) (he : h.on F.QCTL_enable = true) (hg : h.stage 9 = true)
    (hq : h.qFind (iw w 15 0) (h.s i).r.tenant (h.s i).r.part = some q) (ha : (h.srcVal i w 0).toNat % 64 = 0) :
    h.iQuern i w op = (h.block i (.quern (dstOf w))).qRequest (.ins i (h.s i).r.nsi) op (iw w 15 0) (h.srcVal i w 0) q := by
  unfold iQuern; dsimp only
  rw [if_neg (by simp [he, hg]), hq]; dsimp only
  rw [if_neg (not_not.2 ha)]

theorem s_qRequest (who : QWho) (op : BitVec 8) (k : Nat) (a : W64) (q : QIdx) (j : Handle) : (h.qRequest who op k a q).s j = h.s j := by
  unfold qRequest; dsimp only; rw [s_hostRead]; rfl

/-- The read of a request's block (R340). -/
theorem mem_out_qRequest (who : QWho) (op : BitVec 8) (k : Nat) (a : W64) (q : QIdx) :
    Out.hostRead h.nextId a (64 + if op == 0x24 then 0 else q.vecBytes) ∈ (h.qRequest who op k a q).out := by
  unfold qRequest; dsimp only; exact mem_out_hostRead _ _ _ _

theorem hubBad_qRequest (who : QWho) (op : BitVec 8) (k : Nat) (a : W64) (q : QIdx) : (h.qRequest who op k a q).hubBad = h.hubBad := rfl
theorem hubBad_block (b : Blk) : (h.block i b).hubBad = h.hubBad := rfl

/-- What closes a command keeps an intake it has queued. -/
theorem mem_hopq_finish (old : Hub) (q : IntakeReq) (hb : h.hubBad = false) : q ∈ (finish old (h.queueIntake q)).hopq := by
  rw [hopq_finish (h.queueIntake q) old hb]; exact mem_hopq_queueIntake h q

end Hub

/-- A session blocked on `b`, its record as it was, and no other session changed. -/
def BlockedOn (s t : State) (i : Handle) (b : Blk) : Prop :=
  (t.hub.s i).blk = some b ∧ (t.hub.s i).runnable = false ∧ (t.hub.s i).r = (s.hub.s i).r
  ∧ (∀ j, j ≠ i → (t.hub.s j).kept = (s.hub.s j).kept) ∧ HubOnly s t

/-- What closes a command leaves a session blocked. -/
theorem blockedOn_finish {s : State} {i : Handle} {b : Blk} {u : Hub} (y : Sess) (hy : u.s i = { y with blk := some b, runnable := false })
    (hx : y.r = (s.hub.s i).r) (ho : ∀ j, j ≠ i → u.s j = s.hub.s j) : BlockedOn s { s with hub := finish s.hub u } i b := by
  refine ⟨?_, ?_, ?_, fun j hj => ?_, rfl, rfl⟩ <;> dsimp only
  · rw [s_blk_finish, hy]
  · rw [s_runnable_finish, hy]
  · rw [rec_finish, hy]; exact hx
  · rw [kept_finish, ho j hj]

/-- A Quern instruction: its context blocks and its request block is read. -/
theorem quern_requests {c : Instr} {tm : Nt} {i : Handle} {w : W64} {o : Nat} {s : State} (op : BitVec 8) {q : QIdx}
    (hc : exec c s = instr tm i w o (fun h => h.iQuern i w op) s) (hr : Runs s tm i w o) (he : s.hub.on F.QCTL_enable = true)
    (hg : s.hub.stage 9 = true) (hq : s.hub.qFind (iw w 15 0) (s.hub.s i).r.tenant (s.hub.s i).r.part = some q)
    (ha : ((s.hub.s i).r.rReg (iw w 51 48) 0).toNat % 64 = 0) (hb : s.hub.hubBad = false) :
    Answers c s (fun t => BlockedOn s t i (.quern (dstOf w))
      ∧ Out.hostRead s.hub.nextId ((s.hub.s i).r.rReg (iw w 51 48) 0) (64 + if op == 0x24 then 0 else q.vecBytes) ∈ t.hub.out) := by
  refine instr_answers c tm i w o _ s _ hc hr ?_
  dsimp only
  rw [iQuern_blocks (s.hub.stamp tm) i w op q he hg hq ha]
  have good := (hubBad_qRequest ((s.hub.stamp tm).block i (.quern (dstOf w))) (.ins i (s.hub.s i).r.nsi) op (iw w 15 0)
    ((s.hub.stamp tm).srcVal i w 0) q).trans ((hubBad_block (s.hub.stamp tm) i (.quern (dstOf w))).trans hb)
  refine ⟨blockedOn_finish (s.hub.s i) ?_ rfl fun j hj => ?_, mem_out_finish _ s.hub good _ (mem_out_qRequest _ _ _ _ _ _)⟩
  · rw [s_qRequest, s_block_same]; rfl
  · rw [s_qRequest, s_block_ne _ i j _ hj]; rfl

/-- Settles O22: the case of each instruction in which nothing refuses or holds it, and what its request leaves of the session. -/
theorem sessionRequests : Obligations.SessionRequests := by
  intro tm i w s x dst src waits now pf
  refine ⟨fun hr hh hp hb => ?intake, fun hr hs ho hn hp hh hl => ?prefill,
    fun hr hs ho hl hd hn hp hh => ⟨fun hc => ?limit, fun hc hi => ?step⟩,
    fun q he hg hq ha hb => ⟨fun hr => quern_requests 0x22 rfl hr he hg hq ha hb, fun hr => quern_requests 0x23 rfl hr he hg hq ha hb,
      fun hr => quern_requests 0x24 rfl hr he hg hq ha hb⟩⟩
  case intake =>
    refine instr_answers _ tm i w 0x30 _ s _ rfl hr ?_
    dsimp only
    rw [iIntake_blocks (s.hub.stamp tm) i w (runs_state hr.2.2.1).1 hh hp]
    have e := s_queueIntake_same ((s.hub.stamp tm).block i (.intake (dstOf w))) ((s.hub.stamp tm).intakeOf i w)
    rw [show ((s.hub.stamp tm).intakeOf i w).h = i from rfl, s_block_same] at e
    have queued := mem_hopq_finish ((s.hub.stamp tm).block i (.intake (dstOf w))) s.hub ((s.hub.stamp tm).intakeOf i w)
      ((hubBad_block _ _ _).trans hb)
    refine ⟨blockedOn_finish { x with intakes := x.intakes + 1 } e rfl fun j hj => ?_,
      fun hm => ⟨_, queued, rfl, rfl, ?_⟩, fun hm => ⟨_, queued, rfl, rfl, ?_⟩⟩
    · exact (s_queueIntake_ne _ _ j hj).trans (s_block_ne _ i j _ hj)
    · unfold intakeOf; rw [hm]; exact ⟨rfl, rfl, rfl⟩
    · unfold intakeOf; rw [hm]; rfl
  case prefill =>
    refine instr_answers _ tm i w 0x31 _ s _ rfl hr ?_
    obtain ⟨q, e, small⟩ := iPrefill_blocks (s.hub.stamp tm) i w hs ho hn hp hh hl
    dsimp only
    rw [e]
    refine ⟨blockedOn_finish { x with pfReq := some q } ?_ rfl fun j hj => ?_, fun hm => ?_, fun _ => ?_⟩
    · rw [s_block_same, s_modS_same]; rfl
    · rw [s_block_ne _ i j _ hj, s_modS_ne _ i j _ hj]; rfl
    · rw [s_pfReq_finish, s_block_same, s_modS_same, small hm]
    · rw [s_pfReq_finish, s_block_same, s_modS_same]; rfl
  case limit =>
    refine instr_answers _ tm i w 0x32 _ s _ rfl hr ?_
    dsimp only
    rw [iStep_limit (s.hub.stamp tm) i w hs ho hl hd hn hp hh hc, rec_finish, s_stepNever_same]
    refine ⟨rfl, rfl, (wStat_flags _ _ _).1, wReg_a_eq _ _ _ _ rfl, fun j hj => ?_, rfl, rfl⟩
    rw [kept_finish, s_stepNever_ne _ i w _ j hj]; rfl
  case step =>
    refine instr_answers _ tm i w 0x32 _ s _ rfl hr ?_
    dsimp only
    rw [iStep_blocks (s.hub.stamp tm) i w hs ho hl hd hn hp hh hc hi]
    refine ⟨blockedOn_finish { x with stepReq := some (redrafted ((s.hub.stamp tm).stepOf i w)) } ?_ rfl fun j hj => ?_, ?_⟩
    · rw [s_readDraft_same, s_block_same, s_modS_same]; rfl
    · rw [s_readDraft_ne _ i j hj, s_block_ne _ i j _ hj, s_modS_ne _ i j _ hj]; rfl
    · rw [s_stepReq_finish, s_readDraft_same, s_block_same, s_modS_same, Option.map_some, Option.map_some]
      obtain ⟨e1, e2, e3⟩ := redrafted_fields ((s.hub.stamp tm).stepOf i w)
      rw [e1, e2, e3, stepOf, BitVec.toNat_ofNat, BitVec.toNat_ofNat, Nat.mod_eq_of_lt (iw_lt w 15 0), Nat.mod_eq_of_lt (iw_lt w 17 16)]
      rfl

end Sys2Proof.Machine
end

section
/-! Session commands that act on its record or hand it something (O31). -/

namespace Sys2Proof.Machine
open Hub

namespace Hub

variable (h : Hub) (i : Handle) (c : Sub)

/-! ### An event that a WAIT waits for (R256) -/

/-- Where the timeout of a WAIT has not come, an event reaches the record (R519). -/
theorem deliver_lands (bit : Nat) (ht : (h.s i).r.waitExp ≠ 0 → h.nt < (h.s i).r.waitExp) : h.deliver i bit = h.land i bit := by
  have early : ((h.s i).r.waitExp != 0 && decide ((h.s i).r.waitExp ≤ h.nt)) = false := by
    rw [← Bool.not_eq_true, reached_iff]
    exact fun ⟨hz, hle⟩ => BitVec.not_lt.2 hle (ht hz)
  unfold deliver; dsimp only
  rw [early, if_neg (by simp)]

/-- A WAITING session whose WAIT wakes: what it holds (R256, R258). -/
theorem wakeWait_same (code : Nat) (d : BitVec 4) (hb : (h.s i).blk = some (.wait d)) (hs : (h.s i).r.state = S.waiting) :
    let x := h.s i
    let y := (h.wakeWait i code).s i
    y.r.state = S.ready ∧ y.blk = none ∧ y.runnable = true ∧ y.r.waitMask = 0 ∧ y.r.waitExp = 0 ∧ y.r.pc = x.r.pc + 1
    ∧ y.r.a = (x.r.wReg d (BitVec.ofNat 64 code)).a ∧ y.actions = x.actions ∧ y.relHeld = x.relHeld ∧ y.dropHeld = x.dropHeld := by
  unfold wakeWait endInstr
  rw [hb]; dsimp only
  rw [s_ready_same, s_modS_same, s_modS_same]; dsimp only
  rw [if_pos (by rw [hs]; rfl), s_trans_same, s_modS_same]; dsimp only
  simp only [wStat_state, wStat_waitMask, wStat_waitExp, wStat_a, wReg_state, wReg_waitMask, wReg_waitExp, wReg_pc]
  exact ⟨trivial, trivial, trivial, trivial, trivial, trivial, wReg_a_eq _ _ _ _ rfl, trivial, trivial, trivial⟩

theorem wakeWait_ne (code : Nat) (j : Handle) (hj : j ≠ i) : (h.wakeWait i code).s j = h.s j := by
  unfold wakeWait
  split
  · unfold endInstr; dsimp only
    rw [s_ready_ne _ i j hj, s_modS_ne _ i j _ hj]
    generalize e : h.modS i _ = g
    have kept : g.s j = h.s j := e ▸ s_modS_ne h i j _ hj
    split
    · rw [s_trans_ne g i j _ _ _ _ hj, kept]
    · rw [s_record_ne g i j _ _ hj, kept]
  · rfl

/-- An event that a WAITING session waits for wakes it (R256). -/
theorem deliver_wakes (b : Nat) (hs : (h.s i).r.state = S.waiting) (hb : b < 16) (hm : (h.s i).r.waitMask.getLsbD b = true)
    (hw : (h.s i).waitHit = false) (hd : (h.s i).demote = false) (ht : (h.s i).r.waitExp ≠ 0 → h.nt < (h.s i).r.waitExp) :
    h.deliver i b = (h.modR i (fun r => { r with pending := r.pending ||| BitVec.ofNat 16 (2 ^ b) })).wakeWait i b := by
  have masked : (h.s i).r.waitMask &&& BitVec.ofNat 16 (2 ^ b) ≠ 0 := fun e => by
    have bit := congrArg (fun v : BitVec 16 => v.getLsbD b) e
    rw [BitVec.getLsbD_and, hm, BitVec.getLsbD_ofNat, Nat.testBit_two_pow_self, decide_eq_true hb] at bit
    exact absurd bit (by simp)
  rw [deliver_lands h i b ht]
  unfold land; dsimp only
  rw [if_neg (by rw [hs]; decide), if_neg (by rw [hs]; decide), if_pos (by rw [hw]; simpa using masked)]
  unfold meet; dsimp only
  rw [s_modR_same]; dsimp only
  rw [hd, hs, if_neg (by decide), if_neg (by decide), if_neg (by decide), if_neg (by decide)]

/-- BIND of a stop set that is resident: the set is bound, and bytes held for another are released (R118). -/
theorem bindStop_leaves (k : Nat) (hk : k = 0 ∨ (smLook h.im.stopSets k).isSome = true) :
    ∃ q, h.bindStop i k = some q ∧ (q.s i).r.stopSet = BitVec.ofNat 16 k ∧ ((h.s i).r.stopSet.toNat ≠ k → (q.s i).held = [])
      ∧ (q.s i).actions = (h.s i).actions ∧ (q.s i).relHeld = (h.s i).relHeld ∧ (q.s i).dropHeld = (h.s i).dropHeld
      ∧ ∀ j, j ≠ i → q.s j = h.s j := by
  refine ⟨_, bindStop_some h i k hk, ?_⟩
  rw [s_modS_same]
  by_cases he : (h.s i).r.stopSet.toNat = k
  · rw [if_pos he]
    exact ⟨rfl, fun hn => absurd he hn, rfl, rfl, rfl, fun j hj => s_modS_ne _ i j _ hj⟩
  · rw [if_neg he]
    obtain ⟨q, n, e⟩ := flushHeld_same h i
    rw [e]
    exact ⟨rfl, fun _ => rfl, rfl, rfl, rfl, fun j hj => (s_modS_ne _ i j _ hj).trans (flushHeld_ne h i j hj)⟩

/-! ### What each command does to a session it applies to -/

section
variable (hf : (h.s i).r.state ≠ S.free) (hm : (h.s i).r.state ≠ S.migrating) (ha : (h.s i).r.state ≠ S.faulted)

include hf ha in
theorem act_signal (hop : c.op = 0x08) : h.act i c = (h.deliver i (c.line.opd 32 1)).complete c St.ok 0 (h.s i).r.nsi := by
  unfold act
  simp [hop, hf, ha]

include hf hm ha

theorem act_intake (hop : c.op = 0x03) (hp : h.profS = false) :
    h.act i c = h.queueIntake
      { h := i, nt := c.nt, w := c.w.setWidth 9, sub := some c, addr := BitVec.ofNat 64 (c.line.opd 32 8), count := c.line.opd 40 2
        tok := if c.line.opd 42 1 = 1 then some (BitVec.ofNat 32 (c.line.opd 44 4)) else none } := by
  unfold act
  simp [hop, hf, hm, ha, hp]

theorem act_update (hop : c.op = 0x09) (r : Rec) (hr : setField (h.s i).r (c.line.opd 32 1) (BitVec.ofNat 64 (c.line.opd 40 8)) = some r) :
    h.act i c = (if c.line.opd 32 1 = 2 then (h.modR i (fun _ => r)).deliver i 3 else h.modR i (fun _ => r)).complete c St.ok 0
      (h.s i).r.nsi := by
  unfold act
  simp [hop, hf, hm, ha, hr]

theorem act_bind (hop : c.op = 0x0A) (g : Hub)
    (hb : (if c.line.opd 32 1 = 0 then h.bindGrammar i (c.line.opd 34 2) else h.bindStop i (c.line.opd 34 2)) = some g) :
    h.act i c = g.complete c St.ok 0 (h.s i).r.nsi := by
  unfold act
  simp [hop, hf, hm, ha, hb]

theorem act_sealintake (hop : c.op = 0x43) (hc : (smLook h.sec.ctx (h.s i).r.tenant.toNat).isSome = true) :
    h.act i c = (h.queueIntake { h := i, nt := c.nt, w := c.w.setWidth 9, sub := some c, addr := BitVec.ofNat 64 (c.line.opd 32 8)
                                 count := 0, tok := none, ready := false }).hostRead (BitVec.ofNat 64 (c.line.opd 32 8)) 32 (.sealed i c) := by
  obtain ⟨x, hx⟩ := Option.isSome_iff_exists.1 hc
  unfold act
  simp [hop, hf, hm, ha, hx]

theorem act_keyrotate (hop : c.op = 0x44) (hn : smLook h.sec.rots i.toNat = none) (he : h.on F.SECCTL_rotate_en = true)
    (hl : h.sec.rots.length < 4096) :
    h.act i c = { h with sec := { h.sec with rots := smPut h.sec.rots i.toNat { phase := 0, newG := (h.s i).r.keygen + 1, sub := some c } } } := by
  unfold act startRotate
  simp [hop, hf, hm, ha, hn, he, Nat.not_le.2 hl]

end

end Hub

/-- A session command that changes nothing of the hub but session `i`, which it leaves as `y`. -/
theorem command_sets (c : Instr) (s : State) (tm : Nt) (w op : BitVec 8) (l : CmdLine) (i : Handle) (y : Sess) (P : State → Prop)
    (hc : Commands s tm w op l i) (he : ∀ s, exec c s = onHub tm (fun h => h.sessLine w op l) s) (ho : op ≠ 0x0B)
    (hy : y.actions = (s.hub.s i).actions ∧ y.relHeld = (s.hub.s i).relHeld ∧ y.dropHeld = (s.hub.s i).dropHeld)
    (k : ∀ g, Alike g (s.hub.stamp tm) → g.s i = s.hub.s i →
      ∃ q : Hub, g.act i ((s.hub.stamp tm).subOf w op l) = q ∧ q.s i = y ∧ (∀ j, j ≠ i → q.s j = g.s j))
    (hp : ∀ u : Hub, (u.s i).r = y.r → (u.s i).held = y.held → (∀ j, j ≠ i → (u.s j).kept = (s.hub.s j).kept) →
      P { s with hub := u }) : Answers c s P := by
  obtain ⟨a1, a2, a3, -⟩ := hc.ready
  obtain ⟨y1, y2, y3⟩ := hy
  refine command_leaves c s tm w op l i P hc he ho fun g hg e => ?_
  obtain ⟨q, eq, same, others⟩ := k g hg e
  refine ⟨q, eq, ?_, ?_, ?_, others, fun b hb kept => hp _ ?_ ?_ kept⟩
  · rw [same]; exact y1.trans a1
  · rw [same]; exact y2.trans a2
  · rw [same]; exact y3.trans a3
  · rw [rec_finish, hb.r, same]
  · rw [s_held_finish, hb.held, same]

/-- An intake queued by a session command: its session's record stays, the intake waits for Hopper, and what was sent is sent. -/
theorem command_queues (c : Instr) (s : State) (tm : Nt) (w op : BitVec 8) (l : CmdLine) (i : Handle) (x : IntakeReq) (P : State → Prop)
    (hc : Commands s tm w op l i) (he : ∀ s, exec c s = onHub tm (fun h => h.sessLine w op l) s) (ho : op ≠ 0x0B) (hx : x.h = i)
    (hb : s.hub.hubBad = false) (o : List Out)
    (k : ∀ g, Alike g (s.hub.stamp tm) → g.s i = s.hub.s i →
      ∃ q : Hub, g.act i ((s.hub.stamp tm).subOf w op l) = q ∧ q.sess = (g.queueIntake x).sess ∧ q.hopq = (g.queueIntake x).hopq
        ∧ q.hubBad = g.hubBad ∧ ∀ e ∈ o, e ∈ q.out)
    (hp : ∀ u : Hub, (u.s i).r = (s.hub.s i).r → (∀ j, j ≠ i → (u.s j).kept = (s.hub.s j).kept) → x ∈ u.hopq → (∀ e ∈ o, e ∈ u.out) →
      P { s with hub := u }) : Answers c s P := by
  obtain ⟨a1, a2, a3, -⟩ := hc.ready
  refine command_leaves c s tm w op l i P hc he ho fun g hg e => ?_
  obtain ⟨q, eq, sess, hopq, bad, out⟩ := k g hg e
  have same : q.s i = { s.hub.s i with intakes := (s.hub.s i).intakes + 1 } := by
    have := s_queueIntake_same g x
    rw [hx] at this
    rw [s_of_sess sess, this, e]
  refine ⟨q, eq, ?_, ?_, ?_, fun j hj => ?_, fun b hs kept => hp _ ?_ kept ?_ fun m hm => ?_⟩
  · rw [same]; exact a1
  · rw [same]; exact a2
  · rw [same]; exact a3
  · rw [s_of_sess sess, s_queueIntake_ne g x j (hx ▸ hj)]
  · rw [rec_finish, hs.r, same]
  · rw [hopq_finish _ _ (hs.hubBad.trans (bad.trans (hg.hubBad.trans hb))), hs.hopq, hopq]; exact mem_hopq_queueIntake g x
  · exact mem_out_finish _ _ (hs.hubBad.trans (bad.trans (hg.hubBad.trans hb))) m (hs.out ▸ out m hm)

/-- INSPECT: what it writes to host memory, nothing else of the session changing. -/
theorem inspect_writes (s : State) (tm : Nt) (w : BitVec 8) (l : CmdLine) (i : Handle) (d : Bytes) (hc : Commands s tm w 0x0B l i)
    (hb : s.hub.hubBad = false)
    (k : ∀ g, Alike g (s.hub.stamp tm) → ∃ c, g.inspect i ((s.hub.stamp tm).subOf w 0x0B l) =
      g.hostWrite { addr := BitVec.ofNat 64 (l.opd 32 8), data := d, sub := c }) :
    Answers (.inspect tm w l) s (fun t => (((∀ j, j ≠ i → (t.hub.s j).kept = (s.hub.s j).kept) ∧ HubOnly s t)
      ∧ (t.hub.s i).r = (s.hub.s i).r) ∧ Out.hostWrite s.hub.nextId (BitVec.ofNat 64 (l.opd 32 8)) d ∈ t.hub.out) := by
  obtain ⟨g, hg, e⟩ := sessLine_acts s tm w 0x0B l i hc
  rw [if_pos (by decide)] at e
  obtain ⟨c, ec⟩ := k g hg
  refine answers_hub _ tm (fun h => h.sessLine w 0x0B l) s _ _ rfl (e.trans ec) ⟨⟨⟨fun j _ => ?_, rfl, rfl⟩, ?_⟩, ?_⟩
  · rw [kept_finish, s_hostWrite, hg.s]; rfl
  · rw [rec_finish, s_hostWrite, hg.s]; rfl
  · have id : g.nextId = s.hub.nextId := hg.nextId
    have o := mem_out_hostWrite g { addr := BitVec.ofNat 64 (l.opd 32 8), data := d, sub := c }
    rw [id] at o
    exact mem_out_finish (g.hostWrite _) _ (hg.hubBad.trans hb) _ o

/-- Settles O31: the act of each command on a session it applies to, which changes the one record or queues the one intake. -/
theorem sessionRecordCommands : Obligations.SessionRecordCommands := by
  intro tm w l s i x now v addr still ok only
  refine ⟨fun b hl hb hc hst hm ht => ?pending, fun b d hl hb hc hs hd hm hw hde ht => ?wakes, fun hc hst hl hm ht => ?deadline,
    fun hc hst hl r hr => ?field, fun hc hst hl hk g hg => ?grammar, fun hc hst hl hk hg' => ?stop, fun hc hb hl => ?record,
    fun rt hc hb hl hsh hrt => ?root, fun hc hst hp hb => ?intake, fun hc hst hx hb => ?sealed, fun hc hst hn he hlen => ?rotate⟩
  case pending =>
    obtain ⟨-, -, -, hf⟩ := hc.ready
    refine command_sets _ s tm w 0x08 l i { x with r := { x.r with pending := x.r.pending ||| BitVec.ofNat 16 (2 ^ b) } } _ hc (fun _ => rfl)
      (by decide) ⟨rfl, rfl, rfl⟩ (fun g hg e => ?_) fun u hr _ others => ⟨⟨others, rfl, rfl⟩, hr⟩
    have act := act_signal g i ((s.hub.stamp tm).subOf w 0x08 l) (by rw [e]; exact hf) (by rw [e]; exact hst.2) rfl
    rw [show ((s.hub.stamp tm).subOf w 0x08 l).line.opd 32 1 = b from hl, deliver_plain g i b (by rw [e]; exact hf) (by rw [e]; exact hst.1)
      (by rw [e]; exact hm) hb (by rw [e, hg.nt]; exact ht)] at act
    exact ⟨_, act, by rw [s_complete, s_modR_same, e], fun j hj => by rw [s_complete, s_modR_ne _ i j _ hj]⟩
  case wakes =>
    obtain ⟨a1, a2, a3, hf⟩ := hc.ready
    refine command_leaves _ s tm w 0x08 l i _ hc (fun _ => rfl) (by decide) fun g hg e => ?_
    have act := act_signal g i ((s.hub.stamp tm).subOf w 0x08 l) (by rw [e]; exact hf) (by rw [e, hs]; decide) rfl
    rw [show ((s.hub.stamp tm).subOf w 0x08 l).line.opd 32 1 = b from hl, deliver_wakes g i b (by rw [e]; exact hs) hb (by rw [e]; exact hm)
      (by rw [e]; exact hw) (by rw [e]; exact hde) (by rw [e, hg.nt]; exact ht)] at act
    have woke := wakeWait_same (g.modR i (fun r => { r with pending := r.pending ||| BitVec.ofNat 16 (2 ^ b) })) i b d
      (by rw [s_modR_same, e]; exact hd) (by rw [s_modR_same, e]; exact hs)
    rw [s_modR_same, e] at woke
    obtain ⟨p1, p2, p3, p4, p5, p6, p7, b1, b2, b3⟩ := woke
    refine ⟨_, act, ?_, ?_, ?_, fun j hj => ?_, fun u hu others => ?_⟩
    · rw [s_complete]; exact b1.trans a1
    · rw [s_complete]; exact b2.trans a2
    · rw [s_complete]; exact b3.trans a3
    · rw [s_complete, wakeWait_ne _ i b j hj, s_modR_ne _ i j _ hj]
    · obtain ⟨k1, k2⟩ := hu.blk (by rw [s_complete]; exact p2)
      refine ⟨⟨others, rfl, rfl⟩, ?_⟩
      dsimp only
      rw [rec_finish, s_blk_finish, s_runnable_finish, hu.r, k1, k2, s_complete]
      exact ⟨p1, rfl, p3, p4, p5, p6, p7.trans (wReg_a_eq _ _ _ _ rfl)⟩
  case deadline =>
    obtain ⟨-, -, -, hf⟩ := hc.ready
    refine command_sets _ s tm w 0x09 l i { x with r := { x.r with deadline := v, dlate := false, pending := x.r.pending ||| 8 } } _ hc
      (fun _ => rfl) (by decide) ⟨rfl, rfl, rfl⟩ (fun g hg e => ?_) fun u hr _ others => ⟨⟨others, rfl, rfl⟩, hr⟩
    have set : setField x.r (l.opd 32 1) v = some { x.r with deadline := v, dlate := false } := by
      rw [hl]; exact if_neg (Nat.not_le.2 v.isLt)
    have act := act_update g i ((s.hub.stamp tm).subOf w 0x09 l) (by rw [e]; exact hf) (by rw [e]; exact hst.1) (by rw [e]; exact hst.2) rfl
      _ (by rw [e]; exact set)
    have same := s_modR_same g i (fun _ => { x.r with deadline := v, dlate := false })
    rw [e] at same
    rw [if_pos (show ((s.hub.stamp tm).subOf w 0x09 l).line.opd 32 1 = 2 from hl), deliver_plain _ i 3 (by rw [same]; exact hf)
      (by rw [same]; exact hst.1) (by rw [same]; exact hm) (by decide) (by rw [same, nt_modR, hg.nt]; exact ht)] at act
    exact ⟨_, act, by rw [s_complete, s_modR_same, same]; rfl, fun j hj => by rw [s_complete, s_modR_ne _ i j _ hj, s_modR_ne _ i j _ hj]⟩
  case field =>
    obtain ⟨-, -, -, hf⟩ := hc.ready
    refine command_sets _ s tm w 0x09 l i { x with r := r } _ hc (fun _ => rfl) (by decide) ⟨rfl, rfl, rfl⟩ (fun g hg e => ?_)
      fun u hr _ others => ⟨⟨others, rfl, rfl⟩, hr⟩
    have act := act_update g i ((s.hub.stamp tm).subOf w 0x09 l) (by rw [e]; exact hf) (by rw [e]; exact hst.1) (by rw [e]; exact hst.2) rfl
      r (by rw [e]; exact hr)
    rw [if_neg (show ¬((s.hub.stamp tm).subOf w 0x09 l).line.opd 32 1 = 2 from hl)] at act
    exact ⟨_, act, by rw [s_complete, s_modR_same, e], fun j hj => by rw [s_complete, s_modR_ne _ i j _ hj]⟩
  case grammar =>
    obtain ⟨-, -, -, hf⟩ := hc.ready
    refine command_sets _ s tm w 0x0A l i (bound x (BitVec.ofNat 12 (l.opd 34 2)) g.start) _ hc (fun _ => rfl) (by decide) ⟨rfl, rfl, rfl⟩
      (fun k hg' e => ?_) fun u hr _ others => ⟨⟨others, rfl, rfl⟩, hr⟩
    have act := act_bind k i ((s.hub.stamp tm).subOf w 0x0A l) (by rw [e]; exact hf) (by rw [e]; exact hst.1) (by rw [e]; exact hst.2) rfl
      _ ((if_pos hl).trans (bindGrammar_some k i _ g hk (by rw [hg'.im]; exact hg)))
    exact ⟨_, act, by rw [s_complete, s_setS_same, e]; rfl, fun j hj => by rw [s_complete, s_setS_ne _ i j _ hj]⟩
  case stop =>
    obtain ⟨a1, a2, a3, hf⟩ := hc.ready
    refine command_leaves _ s tm w 0x0A l i _ hc (fun _ => rfl) (by decide) fun g hg e => ?_
    have one : l.opd 32 1 ≠ 0 := by rw [hl]; decide
    obtain ⟨q, eq, set, held, b1, b2, b3, ne⟩ := bindStop_leaves g i (l.opd 34 2) (.inr (by rw [hg.im]; exact hg'))
    have act := act_bind g i ((s.hub.stamp tm).subOf w 0x0A l) (by rw [e]; exact hf) (by rw [e]; exact hst.1) (by rw [e]; exact hst.2) rfl
      q ((if_neg one).trans eq)
    rw [e] at held b1 b2 b3
    refine ⟨_, act, ?_, ?_, ?_, fun j hj => ?_, fun u hu others => ⟨⟨others, rfl, rfl⟩, ?_, fun hne => ?_⟩⟩
    · rw [s_complete, b1]; exact a1
    · rw [s_complete, b2]; exact a2
    · rw [s_complete, b3]; exact a3
    · rw [s_complete, ne j hj]
    · dsimp only; rw [rec_finish, hu.r, s_complete, set]
    · dsimp only; rw [s_held_finish, hu.held, s_complete, held hne]
  case record =>
    refine inspect_writes s tm w l i x.r.bytes hc hb fun g hg => ?_
    obtain ⟨c, e⟩ := inspect_rec g i ((s.hub.stamp tm).subOf w 0x0B l) hl
    rw [hg.s] at e
    exact ⟨c, e⟩
  case root =>
    refine inspect_writes s tm w l i rt.bytes hc hb fun g hg => inspect_root g i _ rt hl ?_ ?_
    · rw [shards_alike hg.regs]; exact hsh
    · unfold root? rootIx position; rw [hg.kv, g_alike hg.regs _ (by decide), hg.s]; exact hrt
  case intake =>
    obtain ⟨-, -, -, hf⟩ := hc.ready
    refine command_queues _ s tm w 0x03 l i _ _ hc (fun _ => rfl) (by decide) rfl hb [] (fun g hg e => ⟨_, act_intake g i _
      (by rw [e]; exact hf) (by rw [e]; exact hst.1) (by rw [e]; exact hst.2) rfl ?_, rfl, rfl, rfl, nofun⟩)
      fun u hr others hq _ => ⟨⟨⟨others, rfl, rfl⟩, hr⟩, _, hq, rfl, rfl, ?_, rfl, rfl, rfl⟩
    · unfold profS; rw [g_alike hg.regs F.HDEVIDX_profile (by decide)]; exact hp
    · exact BitVec.toNat_setWidth_of_le (by decide)
  case sealed =>
    obtain ⟨-, -, -, hf⟩ := hc.ready
    refine command_queues _ s tm w 0x43 l i _ _ hc (fun _ => rfl) (by decide) rfl hb [.hostRead s.hub.nextId addr 32] (fun g hg e => ⟨_,
      act_sealintake g i _ (by rw [e]; exact hf) (by rw [e]; exact hst.1) (by rw [e]; exact hst.2) rfl
        (by rw [e, hg.sec]; exact hx), rfl, rfl, rfl, fun o ho => ?_⟩)
      fun u hr others hq ho => ⟨⟨⟨others, rfl, rfl⟩, hr⟩, ho _ (List.mem_singleton_self _), _, hq, rfl, rfl, ?_, rfl⟩
    · rw [List.mem_singleton.1 ho, show s.hub.nextId = g.nextId from hg.nextId.symm]
      exact mem_out_hostRead (g.queueIntake _) _ _ _
    · exact BitVec.toNat_setWidth_of_le (by decide)
  case rotate =>
    obtain ⟨a1, a2, a3, hf⟩ := hc.ready
    refine command_leaves _ s tm w 0x44 l i _ hc (fun _ => rfl) (by decide) fun g hg e => ?_
    have act := act_keyrotate g i ((s.hub.stamp tm).subOf w 0x44 l) (by rw [e]; exact hf) (by rw [e]; exact hst.1) (by rw [e]; exact hst.2)
      rfl (by rw [hg.sec]; exact hn) (by rw [on_alike hg.regs _ (by decide)]; exact he) (by rw [hg.sec]; exact hlen)
    refine ⟨_, act, ?_, ?_, ?_, fun j _ => rfl, fun u hu others => ⟨⟨⟨others, rfl, rfl⟩, ?_⟩, ?_⟩⟩
    · exact (congrArg Sess.actions e).trans a1
    · exact (congrArg Sess.relHeld e).trans a2
    · exact (congrArg Sess.dropHeld e).trans a3
    · dsimp only; rw [rec_finish, hu.r]; exact congrArg Sess.r e
    · have rots : (finish s.hub u).sec.rots = u.sec.rots := by have q := congrArg Sec.rots (sec_finish u s.hub); exact q
      dsimp only
      rw [rots, hu.sec, smLook_smPut_same, e]
      rfl

end Sys2Proof.Machine
end

section
/-! What feeds a session's steps: samples, draft buffers and intakes (O45). -/

namespace Sys2Proof.Machine
open Hub

/-- The buffer of an intake as Hopper reads it: a sealed one's stands in its queue already (R426). -/
def IntakeReq.readOf (q : IntakeReq) (rd : IntakeRead) : IntakeRead :=
  match q.segs with
  | none => rd
  | some e => Hub.sealedRead e.2

namespace Hub

variable (h : Hub)

/-! ### Registers that an HSTAT bit leaves -/

theorem reg_hstat (f : Fld) (a : Nat) (hf : a ≠ f.a) (ha : a ≠ F.INTCAUSE_cause.a) : (h.hstat f).reg a = h.reg a := by
  unfold hstat; rw [reg_signal_ne _ _ a ha, reg_p_ne h f 1 hf]

theorem still_hstat (f : Fld) : (h.hstat f).still = h.still := still_signal _ _

/-- The context limit depends on the images and the registers that name the plan (R67). -/
theorem ctxLimit_congr {a b : Hub} (hi : a.im = b.im) (hr : a.reg F.POOLROLE_size.a = b.reg F.POOLROLE_size.a)
    (hp : a.reg F.POOLPLAN_active.a = b.reg F.POOLPLAN_active.a) : a.ctxLimit = b.ctxLimit := by
  have role : ∀ f : Fld, f.a = F.POOLROLE_size.a → a.g f = b.g f := fun f hf => by
    unfold g gi; rw [Nat.mul_zero, Nat.add_zero, hf, hr]
  have active : a.g F.POOLPLAN_active = b.g F.POOLPLAN_active := by unfold g gi; rw [Nat.mul_zero, Nat.add_zero, hp]
  unfold ctxLimit model plan
  rw [role F.POOLROLE_size rfl, role F.POOLROLE_base rfl, active, hi]

/-! ### Logits that the owner has sampled (R109, R117) -/

/-- What the end that the last sample gives its run does: none does nothing, one without a status reads the draft buffer again. -/
def sampled (i : Handle) : Option (Option (BitVec 8)) → Hub
  | some none => h.readDraft i
  | some e => h.modS i (fun x => { x with stepReq := x.stepReq.map (fun q => { q with ended := e }) })
  | none => h

/-! ### An intake that Hopper takes (R94, R98, R99, R426) -/

variable (n : IntakeReq) (rd : IntakeRead)

/-- The hub once Hopper has taken an intake and read its buffer: a failed read is reported, the bytes are counted. -/
def hopped : Hub :=
  let r := n.readOf rd
  let out : Hub := { h with hopq := h.hopq.erase n }
  (if n.tok.isNone && (r.descs.isNone || r.segs.any (·.isNone)) && h.on F.HOPCTL_enable then out.hstat F.HSTAT_rd_err else out).inc
    F.HOPBYTES_bytes ((r.segs.map (fun s => (s.getD []).length)).sum)

theorem s_hopped (i : Handle) : (h.hopped n rd).s i = h.s i := by
  unfold hopped; dsimp only
  rw [s_of_sess (sess_inc _ _ _)]
  split
  · rw [s_of_still (still_hstat _ _)]; rfl
  · rfl

theorem reg_hopped (a : Nat) (h1 : a ≠ F.HSTAT_rd_err.a) (h2 : a ≠ F.INTCAUSE_cause.a) (h3 : a ≠ F.HOPBYTES_bytes.a) :
    (h.hopped n rd).reg a = h.reg a := by
  unfold hopped inc inci; dsimp only
  rw [reg_pi_ne _ F.HOPBYTES_bytes 0 _ a (by simpa using h3)]
  split
  · rw [reg_hstat _ _ a h1 h2]; rfl
  · rfl

theorem still_hopped : (h.hopped n rd).still = ({ h with hopq := h.hopq.erase n } : Hub).still := by
  unfold hopped; dsimp only
  rw [still_inc]
  split
  · exact still_hstat _ _
  · rfl

theorem im_hopped : (h.hopped n rd).im = h.im := by have e := congrArg Hub.im (still_hopped h n rd); exact e

theorem appending_hopped (i : Handle) : (h.hopped n rd).appending i = h.appending i := by
  have durs : (h.hopped n rd).durs = h.durs := by have e := congrArg Hub.durs (still_hopped h n rd); exact e
  unfold appending; rw [durs]

theorem ctxLimit_hopped : (h.hopped n rd).ctxLimit = h.ctxLimit :=
  ctxLimit_congr (im_hopped h n rd) (reg_hopped h n rd _ (by decide) (by decide) (by decide))
    (reg_hopped h n rd _ (by decide) (by decide) (by decide))

/-- The state of a session whose intake is taken is none of those that end it. -/
theorem takes_state {x : Sess} (hs : x.r.state ∉ [S.free, S.faulted, S.migrating]) :
    ¬((x.r.state == S.free) = true) ∧ ¬((x.r.state == S.faulted || x.r.state == S.migrating) = true) := by
  simpa using hs

/-- What becomes of an intake of session record `x` that is read as `r`, under a context limit (R94, R98, R99). -/
def hopDecides (limit : Nat) (x : Sess) (r : IntakeRead) : Hub :=
  if x.r.state == S.free then h
  else if x.r.state == S.faulted || x.r.state == S.migrating then h.endIntake n.h n.sub St.badState 0
  else
    match h.sealBad n, h.intakeTokens n r with
    | some (st, d), _ => h.endIntake n.h n.sub st d
    | none, .inl st => h.endIntake n.h n.sub st 0
    | none, .inr ts =>
      if limit < x.r.committed.toNat + x.pendIn.toNat + h.appending n.h + ts.length then h.endIntake n.h n.sub St.maxTokens 0
      else
        match h.grnLog (objKey 2 x.r.nsi.toNat) (x.log.length + h.appending n.h) (x.log.length + h.appending n.h + ts.length) x.r.keygen with
        | none => (h.p F.TIERSTAT_logblk 1).endIntake n.h n.sub St.granaryFull 0
        | some g => (g.sealTake n).addDur 1 (4 * ts.length) (.intake n.h n.sub ts (g.inPrefill && g.on F.POOLCTL_mirror_en))

theorem intakeRun_eq : h.intakeRun n rd = (h.hopped n rd).hopDecides n h.ctxLimit (h.s n.h) (n.readOf rd) := by
  have same := s_hopped h n rd n.h
  have limit := ctxLimit_hopped h n rd
  rw [← same, ← limit]
  unfold intakeRun hopped IntakeReq.readOf
  cases n.segs <;> rfl

section
variable (limit : Nat) (x : Sess) (r : IntakeRead)

theorem hopDecides_free (hs : x.r.state = S.free) : h.hopDecides n limit x r = h := by
  unfold hopDecides; rw [hs]; rfl

theorem hopDecides_stopped (hs : x.r.state ∈ [S.faulted, S.migrating]) :
    h.hopDecides n limit x r = h.endIntake n.h n.sub St.badState 0 := by
  unfold hopDecides
  rcases List.mem_pair.1 hs with e | e <;> rw [e] <;> rfl

variable (hs : x.r.state ∉ [S.free, S.faulted, S.migrating])
include hs

theorem hopDecides_seal (st : BitVec 8) (d : Nat) (he : h.sealBad n = some (st, d)) :
    h.hopDecides n limit x r = h.endIntake n.h n.sub st d := by
  obtain ⟨h1, h2⟩ := takes_state hs
  unfold hopDecides; rw [if_neg h1, if_neg h2, he]

theorem hopDecides_bad (st : BitVec 8) (he : h.sealBad n = none) (ht : h.intakeTokens n r = .inl st) :
    h.hopDecides n limit x r = h.endIntake n.h n.sub st 0 := by
  obtain ⟨h1, h2⟩ := takes_state hs
  unfold hopDecides; rw [if_neg h1, if_neg h2, he, ht]

variable (ts : List (BitVec 32)) (he : h.sealBad n = none) (ht : h.intakeTokens n r = .inr ts)
include he ht

theorem hopDecides_over (hl : limit < x.r.committed.toNat + x.pendIn.toNat + h.appending n.h + ts.length) :
    h.hopDecides n limit x r = h.endIntake n.h n.sub St.maxTokens 0 := by
  obtain ⟨h1, h2⟩ := takes_state hs
  unfold hopDecides; rw [if_neg h1, if_neg h2, he, ht]; exact if_pos hl

variable (hl : x.r.committed.toNat + x.pendIn.toNat + h.appending n.h + ts.length ≤ limit)
include hl

theorem hopDecides_full (hg : h.grnLog (objKey 2 x.r.nsi.toNat) (x.log.length + h.appending n.h)
      (x.log.length + h.appending n.h + ts.length) x.r.keygen = none) :
    h.hopDecides n limit x r = (h.p F.TIERSTAT_logblk 1).endIntake n.h n.sub St.granaryFull 0 := by
  obtain ⟨h1, h2⟩ := takes_state hs
  unfold hopDecides; rw [if_neg h1, if_neg h2, he, ht]; dsimp only
  rw [if_neg (Nat.not_lt.2 hl), hg]

theorem hopDecides_written (g : Hub) (hg : h.grnLog (objKey 2 x.r.nsi.toNat) (x.log.length + h.appending n.h)
      (x.log.length + h.appending n.h + ts.length) x.r.keygen = some g) :
    h.hopDecides n limit x r =
      (g.sealTake n).addDur 1 (4 * ts.length) (.intake n.h n.sub ts (g.inPrefill && g.on F.POOLCTL_mirror_en)) := by
  obtain ⟨h1, h2⟩ := takes_state hs
  unfold hopDecides; rw [if_neg h1, if_neg h2, he, ht]; dsimp only
  rw [if_neg (Nat.not_lt.2 hl), hg]

end

end Hub

/-! ### What each event ends with -/

section
variable {tm : Nt} {i : Handle} {s : State} {h : Hub} (hh : s.hub.stamp tm = h)
include hh

section
variable {c : StepRun} {r : Run} {logits : List (List F32)} {poison : Bool} (hc : h.grp.cur = some c)
  (hr : c.runs.find? (fun r => r.h == i && !r.done) = some r)

theorem gather_idle (hn : h.grp.cur = none ∨ h.grp.cur = some c ∧ c.runs.find? (fun r => r.h == i && !r.done) = none) :
    Ends (.gather tm i logits poison) s h := by
  show execGather tm i logits poison s = _
  unfold execGather
  refine onHub_ends hh ?_
  rcases hn with hn | ⟨hc, hr⟩
  · rw [hn]; rfl
  · rw [hc, Option.map_some, hr]; rfl

include hc hr

theorem gather_spoilt (hp : poison = true ∨ r.poison = true ∨ (h.kvFault r.root (r.first.toNat + r.k)).isSome = true) :
    Ends (.gather tm i logits poison) s (h.setRun { r with poison := true, done := true }) := by
  show execGather tm i logits poison s = _
  unfold execGather
  refine onHub_ends hh ?_
  rw [hc, Option.map_some, hr]
  exact if_pos (by rcases hp with e | e | e <;> simp [e])

/-- Logits that nothing spoils: what the last sample says of the run. -/
theorem gather_sampled {u : Hub}
    (hp : ¬ (poison = true ∨ r.poison = true ∨ (h.kvFault r.root (r.first.toNat + r.k)).isSome = true))
    (hu : (h.setRun (h.gatherPos r 0 logits)).sampled i ((h.gatherPos r 0 logits).samps.getLast?.map (·.ends)) = u) :
    Ends (.gather tm i logits poison) s u := by
  show execGather tm i logits poison s = _
  unfold execGather
  refine onHub_ends hh ?_
  rw [hc, Option.map_some, hr]
  obtain ⟨h1, h2, h3⟩ : poison = false ∧ r.poison = false ∧ (h.kvFault r.root (r.first.toNat + r.k)).isSome = false := by simpa using hp
  dsimp only [Option.getD_some]
  rw [h1, h2, h3, if_neg (by decide)]
  exact hu

end

theorem hostDraftRead_takes {q : StepReq} {ok : Bool} {data : Bytes} (hq : (h.s i).stepReq = some q) (hd : 2 ≤ q.draft.toNat) (hb : q.buf = none)
    (ha : q.addr.toNat % 64 = 0) :
    let g := h.modS i (fun x => { x with stepReq := some { q with buf := some (if ok then some data else none) } })
    let g : Hub := { g with reads := g.reads.filter (fun e => e.2 != .draft i) }
    Ends (.hostDraftRead tm i ok data) s (if ok then g else g.hstat F.HSTAT_rd_err) := by
  show execHostDraftRead tm i ok data s = _
  unfold execHostDraftRead
  refine onHub_ends hh ?_
  rw [hq]
  exact if_neg (by simp [hb, ha, Nat.not_lt.2 hd])

theorem hostDraftRead_idle {q : StepReq} {ok : Bool} {data : Bytes}
    (hn : (h.s i).stepReq = none ∨ (h.s i).stepReq = some q ∧ (q.draft.toNat < 2 ∨ q.buf ≠ none)) :
    Ends (.hostDraftRead tm i ok data) s h := by
  show execHostDraftRead tm i ok data s = _
  unfold execHostDraftRead
  refine onHub_ends hh ?_
  rcases hn with hn | ⟨hq, hn⟩
  · rw [hn]
  · rw [hq]
    refine if_pos ?_
    rcases hn with e | e
    · simp [e]
    · simp [Option.isSome_iff_ne_none.2 e]

section
variable {rd : IntakeRead}

theorem hopperIntake_idle (hn : h.hopq.find? (fun q => !((h.s q.h).r.state == S.prefill || (h.s q.h).r.state == S.stepping)) = none) :
    Ends (.hopperIntake tm rd) s h := by
  show execHopperIntake tm rd s = _
  unfold execHopperIntake
  refine onHub_ends hh ?_
  rw [hn]

variable {n : IntakeReq}
  (hn : h.hopq.find? (fun q => !((h.s q.h).r.state == S.prefill || (h.s q.h).r.state == S.stepping)) = some n)
include hn

theorem hopperIntake_unread (hr : n.ready = false) : Ends (.hopperIntake tm rd) s h := by
  show execHopperIntake tm rd s = _
  unfold execHopperIntake
  refine onHub_ends hh ?_
  rw [hn]; exact if_neg (by simp [hr])

theorem hopperIntake_takes (hr : n.ready = true) {u : Hub}
    (hu : (h.hopped n rd).hopDecides n h.ctxLimit (h.s n.h) (n.readOf rd) = u) : Ends (.hopperIntake tm rd) s u := by
  show execHopperIntake tm rd s = _
  unfold execHopperIntake
  refine onHub_ends hh ?_
  rw [hn]; exact (if_pos hr).trans ((intakeRun_eq h n rd).trans hu)

end

end

/-- Settles O45: each event by the branch its condition chooses; an intake that Hopper takes by what its buffer decides. -/
theorem samplesDraftsIntakes : Obligations.SamplesDraftsIntakes := by
  intro tm i c r logits poison ok q data s h run spoilt done free
  refine ⟨fun ⟨hc, hr⟩ hp => gather_spoilt rfl hc hr hp, fun e ⟨hc, hr⟩ hp he => gather_sampled rfl hc hr hp ?ended,
    fun ⟨hc, hr⟩ hp he => gather_sampled rfl hc hr hp ?goesOn, fun ⟨hc, hr⟩ hp he => gather_sampled rfl hc hr hp ?none_,
    fun hn => gather_idle rfl hn, fun hq hd hb ha => hostDraftRead_takes rfl hq hd hb ha, fun hn => hostDraftRead_idle rfl hn,
    fun rd hn => hopperIntake_idle rfl hn, fun n rd hn hr => hopperIntake_unread rfl hn hr, fun n rd hn hr => ?taken⟩
  case ended => rw [he]; rfl
  case goesOn => rw [he]; rfl
  case none_ => rw [he]; rfl
  case taken =>
    intro x rd' out unread a takes len
    have same : a = h.hopped n rd := by unfold hopped; rfl
    have takes' {u : Hub} (hu : a.hopDecides n h.ctxLimit x rd' = u) : Ends (.hopperIntake tm rd) s u :=
      hopperIntake_takes rfl hn hr (same ▸ hu)
    have log : a.appending n.h = h.appending n.h := appending_hopped h n rd n.h
    clear same
    clear_value a
    exact ⟨fun hs => takes' (hopDecides_free a n _ x rd' hs), fun hs => takes' (hopDecides_stopped a n _ x rd' hs),
      fun st d hs he => takes' (hopDecides_seal a n _ x rd' hs st d he), fun st ⟨hs, he⟩ ht => takes' (hopDecides_bad a n _ x rd' hs st he ht),
      fun ts ⟨hs, he⟩ ht hl => takes' (hopDecides_over a n _ x rd' hs ts he ht (by rw [log]; exact hl)),
      fun ts ⟨hs, he⟩ ht hl hg => takes' (hopDecides_full a n _ x rd' hs ts he ht (by rw [log]; exact hl) hg),
      fun ts g ⟨hs, he⟩ ht hl hg => takes' (hopDecides_written a n _ x rd' hs ts he ht (by rw [log]; exact hl) g hg)⟩

end Sys2Proof.Machine
end

section
/-! The image commands (O32), and that a hub never takes back what it has sent. -/

namespace Sys2Proof.Machine
open Hub

namespace Hub

variable (h : Hub)

/-! ### What is sent stays sent -/

/-- A fold of steps that each only send more sends more. -/
theorem out_foldl {α : Type} (f : Hub → α → Hub) (hf : ∀ h a, h.out <+: (f h a).out) (l : List α) : h.out <+: (l.foldl f h).out := by
  induction l generalizing h with
  | nil => exact List.prefix_rfl
  | cons a l ih => exact (hf h a).trans (ih (f h a))

theorem out_fire (v : BitVec 6) : h.out <+: (h.fire v).out := by
  unfold fire; dsimp only
  split
  · exact List.prefix_rfl
  · exact List.prefix_append _ _

theorem out_signal (v : BitVec 6) : h.out <+: (h.signal v).out :=
  out_fire (h.p F.INTCAUSE_cause (h.g F.INTCAUSE_cause ||| 2 ^ v.toNat)) v

theorem out_flag (f : Fld) (v : BitVec 6) : h.out <+: (h.flag f v).out := out_signal (h.p f 1) v

theorem out_devEv (code die data st : Nat) : (h.devEv code die data st).out = h.out := rfl

theorem out_setRing (st : Bool) (p : Nat) (x : Ring) : h.out <+: (h.setRing st p x).out := by
  unfold setRing; split <;> exact List.prefix_rfl

theorem out_hostWrite (w : WrWait) : h.out <+: (h.hostWrite w).out := List.prefix_append _ _

theorem out_pads (base phase pos n fuel : Nat) : h.out <+: (h.pads base phase pos n fuel).out := by
  induction fuel generalizing h pos n with
  | zero => exact List.prefix_rfl
  | succ fuel ih =>
    unfold pads
    split
    · exact List.prefix_rfl
    · exact (out_hostWrite h _).trans (ih _ _ _)

theorem out_hostPaid (p n : Nat) : h.out <+: (h.hostPaid p n).out := by
  unfold hostPaid; split <;> exact List.prefix_rfl

theorem out_envelope (r : Rcd) (b : Bytes) (g : Hub) (e : h.envelope r = some (b, g)) : h.out <+: g.out := by
  unfold envelope at e
  split at e
  · cases e; exact List.prefix_rfl
  · split at e
    · cases e
    · cases e; exact List.prefix_rfl

theorem out_ringLimit (st : Bool) (p : Nat) : h.out <+: (h.ringLimit st p).out := by
  unfold ringLimit; dsimp only
  split
  · exact List.prefix_rfl
  · split <;> exact List.prefix_rfl

theorem out_fireInj (p : Nat) (m : Inj → Bool) : h.out <+: (h.fireInj p m).2.out := by
  unfold fireInj fireAt; dsimp only
  split <;> exact List.prefix_rfl

theorem out_recCheck (st : Bool) (p : Nat) : h.out <+: (h.recCheck st p).2.out := by
  unfold recCheck
  extract_lets n bad dead
  have fired : h.out <+: bad.2.out := out_fireInj h _ _
  have flagged : h.out <+: dead.2.out := (fired.trans (out_flag bad.2 F.INTSTAT_rec_check 32)).trans (out_fireInj _ _ _)
  split
  · exact fired
  · split <;> exact flagged

theorem out_ringWrite (st : Bool) (p : Nat) (r : Rcd) (b : Bytes) (n : Nat) : h.out <+: (h.ringWrite st p r b n).out := by
  unfold ringWrite
  extract_lets R k P base phase h1 P' data addr h2 h3 h4
  have padded : h.out <+: h1.out := out_pads h _ _ _ _ _
  have written : h.out <+: h2.out := padded.trans (out_hostWrite h1 _)
  have paid : h.out <+: h3.out := written.trans (out_hostPaid (h2.pi R.prod p _) _ _)
  split
  · split <;> exact paid
  · exact paid

theorem out_drainOne (st : Bool) (p : Nat) : h.out <+: (h.drainOne st p).2.out := by
  unfold drainOne; dsimp only
  split
  · exact List.prefix_rfl
  · next r rest _ =>
    split
    · exact List.prefix_rfl
    · split
      · split
        · exact List.prefix_rfl
        · next b g e =>
          have checked : h.out <+: (g.recCheck st p).2.out := (out_envelope h r b g e).trans (out_recCheck g st p)
          split
          · exact (checked.trans (out_setRing _ st p _)).trans (out_ringWrite _ st p r b _)
          · exact checked
      · split
        · exact List.prefix_rfl
        · exact (out_setRing h st p _).trans (List.prefix_append _ _)

theorem out_drain (st : Bool) (p fuel : Nat) : h.out <+: (h.drain st p fuel).out := by
  induction fuel generalizing h with
  | zero => exact List.prefix_rfl
  | succ fuel ih =>
    unfold drain; dsimp only
    split
    · exact (out_drainOne h st p).trans (ih _)
    · exact out_drainOne h st p

theorem out_pushRec (st : Bool) (p : Nat) (r : Rcd) : h.out <+: (h.pushRec st p r).out :=
  ((out_setRing h st p _).trans (out_drain _ st p _)).trans (out_ringLimit _ st p)

theorem out_complete (c : Sub) (st : BitVec 8) (d : Nat) (n : W64) : h.out <+: (h.complete c st d n).out := by
  unfold complete
  split
  · exact List.prefix_rfl
  · exact out_pushRec h _ _ _

/-- The commands that a group fault ends report, and nothing sent is lost. -/
theorem out_failHeld : h.out <+: h.failHeld.out := by
  unfold failHeld
  extract_lets h1 h2 h3 h4 clear t
  have e1 : h.out <+: h1.out := out_foldl h _ (fun g e => out_foldl g _ (fun k c => out_complete k c _ _ _) _) _
  have e2 : h1.out <+: h2.out := by
    refine out_foldl h1 _ (fun g q => ?_) _
    split
    · exact out_complete g _ _ _ _
    · exact List.prefix_rfl
  have e3 : h2.out <+: h3.out := by
    refine out_foldl h2 _ (fun g q => ?_) _
    exact List.prefix_rfl
  have e4 : h3.out <+: h4.out := out_foldl h3 _ (fun g c => out_complete g c _ _ _) _
  exact ((e1.trans e2).trans e3).trans e4

theorem out_enterFault (cause dev : Nat) : h.out <+: (h.enterFault cause dev).out := by
  unfold enterFault
  split
  · exact List.prefix_rfl
  · extract_lets h1 h2 h3 h4 h5
    have noted : h4.out = h.out := by
      simp only [h4, h3, h2, h1]
      rw [out_devEv, p_out, p_out, p_out, p_out, p_out, p_out]
    have failed : h4.out <+: h5.out := (out_signal h4 33).trans (out_failHeld _)
    rw [noted] at failed
    clear_value h5
    exact failed

theorem out_raiseFault (cause : Nat) : h.out <+: (h.raiseFault cause).out := by
  unfold raiseFault
  split
  · exact List.prefix_rfl
  · exact (out_enterFault h _ _).trans (out_foldl _ _ (fun g p => List.prefix_append _ _) _)

/-- What closes a command takes back nothing that is sent, whatever the check of its records. -/
theorem out_finish (old : Hub) : h.out <+: (finish old h).out := by
  obtain ⟨n, o, e⟩ := closing h old
  rw [e]
  refine List.IsPrefix.trans ?_ (List.prefix_append _ _)
  split
  · exact out_raiseFault { h with hubBad := false } 0xA
  · exact List.prefix_rfl

/-! ### RECOMPOSE (R172, R276) -/

/-- The switch that a RECOMPOSE line schedules. -/
def recompOf (c : Sub) (l : CmdLine) : Recomp :=
  { slot := BitVec.ofNat 3 (l.opd 32 1), demote := l.opd 33 1 == 1, eff := BitVec.ofNat 64 (l.opd 40 8), sub := some c }

/-- What tells devices of a switch. -/
def told (r : Recomp) (ds : List (BitVec 6)) : Hub := ds.foldl (fun h d => h.emit (.recompose d r.slot r.demote r.eff)) h

theorem told_eq (r : Recomp) (ds : List (BitVec 6)) :
    h.told r ds = { h with out := h.out ++ ds.map (fun d => .recompose d r.slot r.demote r.eff) } := by
  unfold told
  induction ds generalizing h with
  | nil => rw [List.foldl_nil, List.map_nil, List.append_nil]
  | cons d ds ih =>
    rw [List.foldl_cons, ih]
    unfold emit; dsimp only
    rw [List.append_assoc, List.singleton_append, List.map_cons]

/-- A switch scheduled, the free value taken and every other active device told. -/
def scheduled (r : Recomp) : Hub :=
  ({ h.fresh.2 with rcmp := some r } : Hub).told r (h.actives.filter (fun d => d.toNat != h.dev))

theorem scheduled_rcmp (r : Recomp) : (h.scheduled r).rcmp = some r := by unfold scheduled; rw [told_eq]

theorem scheduled_alike (r : Recomp) : (h.scheduled r).alike { h with rcmp := (h.scheduled r).rcmp } := by
  rw [scheduled_rcmp]; unfold scheduled; rw [told_eq]
  exact ⟨fun _ => rfl, rfl, fun _ _ => rfl⟩

theorem mem_out_scheduled (r : Recomp) (d : BitVec 6) (ha : d.toNat < h.g F.NFNODE_active) (hd : d.toNat ≠ h.dev) :
    Out.recompose d r.slot r.demote r.eff ∈ (h.scheduled r).out := by
  have active : d ∈ h.actives := List.mem_map.2 ⟨d.toNat, List.mem_range.2 ha, BitVec.ofNat_toNat 6 d⟩
  unfold scheduled; rw [told_eq]
  exact List.mem_append_right _ (List.mem_map.2 ⟨d, List.mem_filter.2 ⟨active, by simpa using hd⟩, rfl⟩)

theorem slotActive_alike {a b : Hub} (e : Alike a b) (k : Nat) : a.slotActive k = b.slotActive k := by
  have nf : a.nf = b.nf := by have q := congrArg Hub.nf e.rest; exact q
  unfold slotActive
  rw [g_alike e.regs F.POOLPLAN_active (by decide), g_alike e.regs F.POOLROLE_size (by decide), nf]

end Hub

theorem recompose_hubOnly (tm : Nt) (w : BitVec 8) (l : CmdLine) (s : State) : Answers (.recompose tm w l) s (HubOnly s) :=
  answers_hub _ tm _ s _ _ (show execRecompose tm w l s = _ by unfold execRecompose; exact rfl) rfl ⟨rfl, rfl⟩

/-- RECOMPOSE of a plan that every active device holds, while no switch is scheduled, schedules its own and tells it. -/
theorem recompose_ends (tm : Nt) (w : BitVec 8) (l : CmdLine) (s : State) (ha : (s.hub.stamp tm).admits w 0x18 l = true)
    (hl : bitsOf (s.hub.g F.POOLPLAN_loaded) (l.opd 32 1) (l.opd 32 1) = 1) (hr : s.hub.rcmp = none)
    (hv : (Config.freeValue s.hub.free).getLsbD 0 = true) :
    Ends (.recompose tm w l) s (((s.hub.stamp tm).counted w 0x18).scheduled (recompOf ((s.hub.stamp tm).subOf w 0x18 l) l)) := by
  show execRecompose tm w l s = _
  unfold execRecompose
  refine onHub_ends rfl ?_
  have a := Alike.counted _ w 0x18 l ha
  have held : bitsOf (((s.hub.stamp tm).counted w 0x18).fresh.2.g F.POOLPLAN_loaded) (l.opd 32 1) (l.opd 32 1) = 1 := by
    rw [show ((s.hub.stamp tm).counted w 0x18).fresh.2.g F.POOLPLAN_loaded = s.hub.g F.POOLPLAN_loaded from
      g_alike a.regs F.POOLPLAN_loaded (by decide)]
    exact hl
  have value : ((s.hub.stamp tm).counted w 0x18).fresh.1.getLsbD 0 = true := hv
  have calm : ((s.hub.stamp tm).counted w 0x18).fresh.2.rcmp = none := a.rcmp.trans hr
  rw [line_admitted _ _ _ _ _ ha]; dsimp only
  rw [held, value, calm, if_neg (by decide), if_neg (by decide)]
  rfl

/-- Settles O32: the loads read their image; the drops and RECOMPOSE by the branch in which nothing refuses them. -/
theorem imageCommands : Obligations.ImageCommands := by
  refine ⟨?loads, ?drops⟩
  case' loads =>
    intro tm w l s h reads
    refine ⟨fun hn ha hb => ?stop, fun hn ha hb => ?gram, fun hn ha hb => ?adapter, fun hn ha hb => ?prog,
      fun ha hb => image_reads _ tm w 0x15 l _ _ s rfl ha hb rfl, fun ha hb => image_reads _ tm w 0x16 l _ _ s rfl ha hb rfl⟩
  case' drops =>
    intro tm w l s h k n m
    refine ⟨fun ha hn => ?progdrop, fun ha hn => ?plandrop, fun ha hl hr => ?recompose⟩
  case stop =>
    refine image_reads _ tm w 0x10 l _ _ s rfl ha hb ?_
    rw [anyRec_counted _ w 0x10 l ha]; exact if_neg (Bool.eq_false_iff.1 hn)
  case gram =>
    refine image_reads _ tm w 0x11 l _ _ s rfl ha hb ?_
    rw [anyRec_counted _ w 0x11 l ha]; exact if_neg (Bool.eq_false_iff.1 hn)
  case adapter =>
    refine image_reads _ tm w 0x12 l _ _ s rfl ha hb ?_
    rw [(Alike.counted _ w 0x12 l ha).im]; exact if_neg (Nat.not_le.2 hn)
  case prog =>
    refine image_reads _ tm w 0x13 l _ _ s rfl ha hb ?_
    rw [anyRec_counted _ w 0x13 l ha]; exact if_neg (Bool.eq_false_iff.1 hn)
  case progdrop =>
    have free : ¬h.anyRec (fun r => r.prog.toNat == l.opd 40 1) = true := Bool.eq_false_iff.1 hn
    refine line_becomes _ tm w 0x14 l _ s _ rfl ha ?_
    dsimp only
    rw [anyRec_counted _ w 0x14 l ha, if_neg free, (Alike.counted _ w 0x14 l ha).im]
    exact alike_complete _ _ _ _ (alike_refl _)
  case plandrop =>
    have idle : ¬h.slotActive (l.opd 48 1) = true := Bool.eq_false_iff.1 hn
    refine line_becomes _ tm w 0x17 l _ s _ rfl ha ?_
    dsimp only
    rw [slotActive_alike (Alike.counted _ w 0x17 l ha), if_neg idle,
      (Alike.counted _ w 0x17 l ha).im]
    exact alike_complete _ _ _ _ (alike_refl _)
  case recompose =>
    by_cases hv : (Config.freeValue s.hub.free).getLsbD 0 = true
    · refine (recompose_ends tm w l s ha hl hr hv).answers ⟨⟨rfl, rfl⟩, fun _ => ⟨?_, ?_, fun d hd hne => ?_⟩⟩
      · rw [rcmp_finish]
        exact alike_finish _ (scheduled_alike _ _)
      · rw [rcmp_finish, scheduled_rcmp]; rfl
      · have a := Alike.counted _ w 0x18 l ha
        refine (out_finish _ s.hub).subset (mem_out_scheduled _ _ d ?_ ?_)
        · rw [g_alike a.regs F.NFNODE_active (by decide)]; exact hd
        · unfold dev; rw [g_alike a.regs F.HDEVIDX_index (by decide)]; exact hne
    · obtain ⟨t, ht, only⟩ := recompose_hubOnly tm w l s
      exact ⟨t, ht, only, fun h => absurd h hv⟩

end Sys2Proof.Machine
end

section
/-! Lines that fail a check, and lines whose opcode is not defined (O26). -/

namespace Sys2Proof.Machine
open Hub

namespace Hub

variable (h : Hub) (w op : BitVec 8)

/-! ### A line taken and policed -/

/-- Taking a line writes HCMDS alone of the registers. -/
theorem regsAlike_took : regsAlike (h.took w) h := by
  intro a ha
  exact reg_pi_ne { h with wins := _ } F.HCMDS_count 0 _ a (by rintro rfl; exact ha (by simp [countRegs]))

/-- Policing, passed or not, changes no power state. -/
theorem pw_counted : (h.counted w op).pw = h.pw := by
  unfold counted police
  split
  · split
    · rfl
    · split
      · rfl
      · dsimp only; split <;> rfl
  · rfl

theorem pw_complete (c : Sub) (st : BitVec 8) (d : Nat) (n : W64) : (h.complete c st d n).pw = h.pw :=
  pw_of_still (still_complete h c st d n)

/-! ### Checks in their order (R273, R275, R366, R520) -/

/-- Window `w` may give commands of opcode `op` (R275). -/
def allowed (h : Hub) (w op : BitVec 8) : Bool := !adminOp op || (h.took w).gi F.CMDWIN_admin w.toNat != 0

/-- The policer of the window's tenant lets the line pass, or does not test its kind (R366). -/
def passesPolicer (h : Hub) (w op : BitVec 8) (l : CmdLine) : Bool :=
  !policedOp op || ((h.took w).police (h.subOf w op l).tenant).1

/-- The session that the completion of a line ended by a check names (R283). -/
def lineNsi (op : BitVec 8) (l : CmdLine) : W64 := if namesSession op then l.nsi else 0

section
variable {h : Hub} {w op : BitVec 8} {l : CmdLine} (f : Sub → Hub → Hub) (ha : h.hears w = true) (hw : h.waiting w < 1024)
include ha hw

/-- An opcode that is not defined ends the line at once. -/
theorem line_unknown (hk : knownOp op = false) : h.line w op l f = (h.took w).complete (h.subOf w op l) St.badCommand := by
  rw [line_taken h w op l f ha hw, hk]; rfl

variable (hk : knownOp op = true)
include hk

/-- A line of a defined opcode is checked for its window's rights first. -/
theorem line_known : h.line w op l f =
    if h.allowed w op = false then (h.took w).complete (h.subOf w op l) St.badCommand 0xFFFF0002
    else match badByte op l with
      | some o => (h.took w).complete (h.subOf w op l) St.badCommand o (lineNsi op l)
      | none =>
        if !h.passesPolicer w op l then
          (h.counted w op).complete (h.subOf w op l) St.throttled 0 (lineNsi op l)
        else if !(h.counted w op).staged op then
          (h.counted w op).complete (h.subOf w op l) St.badState 0 (lineNsi op l)
        else if sessionOp op && (h.counted w op).faulted then
          (h.counted w op).complete (h.subOf w op l) St.deviceFault 0 (lineNsi op l)
        else f (h.subOf w op l) (h.counted w op) := by
  have rights : (adminOp op && decide ((h.took w).gi F.CMDWIN_admin w.toNat = 0)) = !h.allowed w op := by
    unfold allowed
    by_cases hz : (h.took w).gi F.CMDWIN_admin w.toNat = 0 <;> simp [hz]
  rw [line_taken h w op l f ha hw, hk, if_neg (by decide), rights]
  cases h.allowed w op <;> rfl

theorem line_noRights (hr : h.allowed w op = false) :
    h.line w op l f = (h.took w).complete (h.subOf w op l) St.badCommand 0xFFFF0002 := by
  rw [line_known f ha hw hk, if_pos hr]

variable (hr : h.allowed w op = true)
include hr

theorem line_badByte (o : Nat) (hb : badByte op l = some o) :
    h.line w op l f = (h.took w).complete (h.subOf w op l) St.badCommand o (lineNsi op l) := by
  rw [line_known f ha hw hk, hr, hb]; rfl

variable (hb : badByte op l = none)
include hb

theorem line_throttled (hp : h.passesPolicer w op l = false) :
    h.line w op l f = (h.counted w op).complete (h.subOf w op l) St.throttled 0 (lineNsi op l) := by
  rw [line_known f ha hw hk, hr, hb, hp]; rfl

variable (hp : h.passesPolicer w op l = true)
include hp

theorem line_unstaged (hs : (h.counted w op).staged op = false) :
    h.line w op l f = (h.counted w op).complete (h.subOf w op l) St.badState 0 (lineNsi op l) := by
  rw [line_known f ha hw hk, hr, hb, hp, hs]; rfl

theorem line_faulted (hs : (h.counted w op).staged op = true) (ho : sessionOp op = true) (hf : (h.counted w op).faulted = true) :
    h.line w op l f = (h.counted w op).complete (h.subOf w op l) St.deviceFault 0 (lineNsi op l) := by
  rw [line_known f ha hw hk, hr, hb, hp, hs, ho, hf]; rfl

end

end Hub

/-! ### What a refused line ends with -/

/-- A line that asks for no wipe leaves the stones, unless its device goes off (R458). -/
theorem lineOf_stones {c : Instr} {tm : Nt} {w op : BitVec 8} {l : CmdLine} {s t : State} (hl : lineOf c = some (tm, w, op, l))
    (hc : ∀ f, ((s.hub.stamp tm).line w op l f).sec.clear = none) (he : exec c s = .next t) (ho : t.hub.pw.off = false) :
    t.stn = s.stn := by
  cases c
  case partclear =>
    cases hl
    change execPartclear tm w l s = .next t at he
    unfold execPartclear at he; dsimp only at he
    rw [hc] at he
    cases he; rfl
  case inject => cases hl; cases he; exact if_neg (by rw [ho]; decide)
  all_goals cases hl <;> cases he <;> rfl

/-- A line that its checks end, whatever its command would do, with a completion: that completion closes it, and nothing else happens. -/
theorem refused_answers {c : Instr} {tm : Nt} {w op : BitVec 8} {l : CmdLine} {s : State} (hl : lineOf c = some (tm, w, op, l))
    (hc : s.hub.sec.clear = none) (g : Hub) (k : Sub) (st : BitVec 8) (d : Nat) (n : W64) (hg : g.sec.clear = s.hub.sec.clear)
    (hp : g.pw = s.hub.pw) (hu : ∀ f, knownOp op = true → (s.hub.stamp tm).line w op l f = g.complete k st d n) :
    Answers c s (fun t =>
      t.hub = Hub.finish s.hub (g.complete k st d n) ∧ (s.hub.pw.off = false → t.stn = s.stn) ∧ t.pending = s.pending) := by
  obtain ⟨f, hk, hx⟩ := lineOf_exec c tm w op l hl s hc
  have calm (f) : ((s.hub.stamp tm).line w op l f).sec.clear = none := by rw [hu f hk, clear_complete, hg, hc]
  obtain ⟨t, he, hh, hq⟩ := hx (calm f)
  rw [hu f hk] at hh
  refine ⟨t, he, hh, fun off => lineOf_stones hl calm he ?_, hq⟩
  rw [hh, pw_finish, pw_complete, hp, off]

/-! ### The record of an opcode that is not defined (R139, R273, R277, R283) -/

namespace Hub

/-! #### Bytes of a record -/

theorem length_le (n x : Nat) : (le n x).length = n := by
  induction n generalizing x with
  | zero => rfl
  | succ n ih => rw [le, List.length_cons, ih]

theorem length_padTo (n : Nat) (b : Bytes) (hb : b.length ≤ n) : (padTo n b).length = n := by
  rw [padTo, List.length_append, List.length_replicate, Nat.add_sub_cancel' hb]

/-- The first byte of a padded record stands before the rest, padded. -/
theorem padTo_byte (n x : Nat) (b : Bytes) : padTo (n + 1) (le 1 x ++ b) = BitVec.ofNat 8 x :: padTo n b := by
  rw [padTo, padTo, List.length_append, length_le, Nat.add_comm 1, Nat.add_sub_add_right]; rfl

/-- The phase bit is bit 0 of a record's first byte (R139). -/
theorem phase_or (k : Nat) : (2 : Byte) ||| BitVec.ofNat 8 (1 - k % 2) = BitVec.ofNat 8 (2 + (1 - k % 2)) := by
  rcases Nat.mod_two_eq_zero_or_one k with hk | hk <;> rw [hk] <;> rfl

/-! #### The record's way to its ring -/

variable (h : Hub) (w op : BitVec 8) (l : CmdLine)

/-- The bytes after the first that the record of an opcode that is not defined gives a meaning (R283). -/
def unknownFields : Bytes :=
  le 1 St.badCommand.toNat ++ (le 1 op.toNat ++ (le 1 0 ++ (le 4 l.tag.toNat ++ (le 8 0 ++ (le 4 0 ++ (le 4 0 ++ le 8 h.nt.toNat))))))

/-- The COMMAND record of an opcode that is not defined, its phase bit still 0. -/
def unknownRcd : Rcd := ⟨2 :: padTo 63 (h.unknownFields op l), none, false, none⟩

theorem length_unknownRcd : (h.unknownRcd op l).data.length = 64 := by
  have short : (h.unknownFields op l).length ≤ 63 := by
    simp only [unknownFields, List.length_append, length_le]; decide
  rw [unknownRcd, List.length_cons, length_padTo _ _ short]

/-- The record as it stands in the ring, with the phase bit of a position `k` times around the ring. -/
theorem unknownRcd_phased (k : Nat) :
    ((2 : Byte) ||| BitVec.ofNat 8 (1 - k % 2)) :: padTo 63 (h.unknownFields op l) =
      padTo 64 (le 1 (2 + (1 - k % 2)) ++ le 1 St.badCommand.toNat ++ le 1 op.toNat ++ le 1 0 ++ le 4 l.tag.toNat ++ le 8 0 ++ le 4 0
        ++ le 4 0 ++ le 8 h.nt.toNat) := by
  rw [phase_or, ← padTo_byte]
  simp only [unknownFields, List.append_assoc]

/-- The completion of such a line goes to the ring of its window's partition, quiet or not (R277). -/
theorem complete_unknown (hp : h.gi F.CMDWIN_partition w.toNat < 16) :
    (h.took w).complete (h.subOf w op l) St.badCommand =
      (h.took w).pushRec false (h.gi F.CMDWIN_partition w.toNat) (h.unknownRcd op l) := by
  have part : (h.subOf w op l).part.toNat = h.gi F.CMDWIN_partition w.toNat := (BitVec.toNat_ofNat _ _).trans (Nat.mod_eq_of_lt hp)
  have bytes : (h.took w).cRec 1 1 St.badCommand op 0 l.tag.toNat 0 0 [] = 2 :: padTo 63 (h.unknownFields op l) := by
    unfold cRec unknownFields
    rw [List.append_nil]
    simp only [List.append_assoc]
    exact padTo_byte 63 2 _
  have loud : ((h.subOf w op l).line.flags.getLsbD 0 && St.badCommand == St.ok) = false := Bool.and_false _
  unfold complete
  rw [loud, part, if_neg (by decide)]
  unfold unknownRcd
  rw [← bytes]; rfl

/-- The registers of a completion ring are no counts. -/
theorem ring_not_counted : ∀ f ∈ [F.CMPPROD_p, F.CMPBASE_base, F.CMPSIZE_log2, F.CMPSIZE_enable], ∀ p < 16,
    f.a + f.stride * p ∉ countRegs := by decide

theorem ring_took (f : Fld) (hf : f ∈ [F.CMPPROD_p, F.CMPBASE_base, F.CMPSIZE_log2, F.CMPSIZE_enable]) (p : Nat) (hp : p < 16) :
    (h.took w).gi f p = h.gi f p :=
  gi_alike (regsAlike_took h w) f p (ring_not_counted f hf p hp)

theorem ringLog_took (p : Nat) (hp : p < 16) : (h.took w).ringLog false p = h.ringLog false p := by
  unfold ringLog
  rw [show (ringRegs false).log2 = F.CMPSIZE_log2 from rfl, ring_took h w F.CMPSIZE_log2 (by decide) p hp]

theorem shapeOn_took : (h.took w).shapeOn = h.shapeOn := by
  unfold shapeOn slReg
  rw [regsAlike_took h w 0x34000 (by decide)]; rfl

theorem gi_finish_good (old : Hub) (hb : h.hubBad = false) (f : Fld) (i : Nat) : (finish old h).gi f i = h.gi f i := by
  obtain ⟨n, o, e⟩ := finish_eq h old hb
  rw [e]; rfl

end Hub

theorem exec_unknownOpcodeLine (tm : Nt) (w op : BitVec 8) (l : CmdLine) (s : State) :
    exec (.unknownOpcodeLine tm w op l) s = onHub tm (fun h => if knownOp op then h else h.line w op l (fun _ h => h)) s := rfl

/-- The record of an opcode that is not defined goes out at once on a ring with room, and the ring's position advances (R139, R283). -/
theorem unknown_sent (h : Hub) (w op : BitVec 8) (l : CmdLine) (p : Nat) (hp : p < 16) (hi : h.inj = [])
    (hb : (h.ring false p).backlog = []) (hen : h.gi F.CMPSIZE_enable p ≠ 0) (hsh : h.shapeOn = false)
    (hfit : (h.gi F.CMPPROD_p p + 2 ^ 32 - (h.ring false p).consumed.toNat) % 2 ^ 32 < 2 ^ h.ringLog false p) :
    let P := h.gi F.CMPPROD_p p
    let n := h.ringLog false p
    let g := (h.took w).pushRec false p (h.unknownRcd op l)
    Out.hostWrite h.nextId (BitVec.ofNat 64 (h.gi F.CMPBASE_base p * 64 + 64 * (P % 2 ^ n)))
        (padTo 64 (le 1 (2 + (1 - P / 2 ^ n % 2)) ++ le 1 St.badCommand.toNat ++ le 1 op.toNat ++ le 1 0 ++ le 4 l.tag.toNat ++ le 8 0 ++ le 4 0
          ++ le 4 0 ++ le 8 h.nt.toNat)) ∈ g.out
    ∧ g.gi F.CMPPROD_p p = (P + 1) % 2 ^ 32 ∧ g.hubBad = h.hubBad := by
  intro P n g
  have took (f : Fld) (hf : f ∈ [F.CMPPROD_p, F.CMPBASE_base, F.CMPSIZE_log2, F.CMPSIZE_enable]) := ring_took h w f hf p hp
  have sent := pushRec_out (h.took w) p (h.unknownRcd op l) 2 (padTo 63 (h.unknownFields op l)) rfl (length_unknownRcd h op l) rfl hi hb
    (by rw [took _ (by decide)]; exact hen) (by rw [shapeOn_took, hsh])
    (by rw [took _ (by decide), ringLog_took h w p hp]; exact hfit) hp
  rw [ringLog_took h w p hp, took F.CMPPROD_p (by decide), took F.CMPBASE_base (by decide), unknownRcd_phased] at sent
  exact sent

/-- Settles O26: each check that a line fails ends it, and the record of an opcode that is not defined goes out at once. -/
theorem linesRefusedOrUnknown : Obligations.LinesRefusedOrUnknown := by
  refine ⟨fun c s tm w op l hl hc => ?_, fun tm w op l s => ?_⟩
  · intro h k ends rights passes g nsi ha hw
    have taken := refused_answers hl hc (h.took w) k
    have policed := refused_answers hl hc g k
    refine ⟨fun hr => ?_, fun o hr hb => ?_, fun hr hb hp => ?_, fun hr hb hp hs => ?_, fun hr hb hp hs ho hf => ?_⟩
    · exact taken _ _ _ rfl rfl fun f hk => line_noRights f ha hw hk hr
    · exact taken _ _ _ rfl rfl fun f hk => line_badByte f ha hw hk hr o hb
    · exact policed _ _ _ (clear_counted h w op) (pw_counted h w op) fun f hk => line_throttled f ha hw hk hr hb hp
    · exact policed _ _ _ (clear_counted h w op) (pw_counted h w op) fun f hk => line_unstaged f ha hw hk hr hb hp hs
    · exact policed _ _ _ (clear_counted h w op) (pw_counted h w op) fun f hk => line_faulted f ha hw hk hr hb hp hs ho hf
  · intro h p P n used hk ha hw hi hgood hback hen hsh hfit hp
    obtain ⟨out, pos, good⟩ := unknown_sent h w op l p hp hi hback hen hsh hfit
    have ended : (if knownOp op then h else h.line w op l fun _ h => h) = (h.took w).pushRec false p (h.unknownRcd op l) := by
      rw [hk, if_neg (by decide), line_unknown _ ha hw hk, complete_unknown h w op l hp]
    have calm := good.trans hgood
    have moved := (gi_finish_good _ s.hub calm F.CMPPROD_p p).trans pos
    refine answers_hub _ tm _ s _ _ (exec_unknownOpcodeLine tm w op l s) ended ⟨?_, ?_, moved, rfl, rfl⟩
    · exact alike_finish s.hub (alike_pushRec false p _ hp (alike_refl _))
    · exact mem_out_finish _ s.hub calm _ out

end Sys2Proof.Machine
end

section
/-! Staging (R146, R147): which registers and images tell a tile's layer and whether KV is bad, what a read of Millpond leaves, what the
lines that land leave in the stones, and the branch of each command. -/

namespace Sys2Proof.Machine

namespace Hub

/-! ### What a tile's layer and bad KV depend on (R66, R146, R169) -/

/-- Two hubs that place the model alike: the same images, and the same role, active plan, test mode and buddy mode. -/
structure PlacedAlike (a b : Hub) : Prop where
  im : a.im = b.im
  role : a.reg F.POOLROLE_size.a = b.reg F.POOLROLE_size.a
  active : a.reg F.POOLPLAN_active.a = b.reg F.POOLPLAN_active.a
  test : a.reg F.NFSTAT_test.a = b.reg F.NFSTAT_test.a
  buddy : a.reg F.CKPTSTAT_buddy_mode.a = b.reg F.CKPTSTAT_buddy_mode.a

/-- A field of a register is told by its register. -/
theorem g_of_reg {a b : Hub} (f : Fld) (e : a.reg f.a = b.reg f.a) : a.g f = b.g f := by
  unfold g gi; rw [Nat.mul_zero, Nat.add_zero, e]

namespace PlacedAlike

variable {a b : Hub} (e : PlacedAlike a b)
include e

theorem plan : a.plan = b.plan := by
  unfold Hub.plan
  rw [g_of_reg F.POOLROLE_size e.role, g_of_reg F.POOLROLE_base e.role, g_of_reg F.POOLPLAN_active e.active, e.im]

theorem model : a.model = b.model := by
  unfold Hub.model; rw [e.plan, e.im]

theorem shards : a.shards = b.shards := by
  unfold Hub.shards groupN position on
  rw [g_of_reg F.POOLROLE_size e.role, g_of_reg F.POOLROLE_position e.role, g_of_reg F.NFSTAT_test e.test,
    g_of_reg F.CKPTSTAT_buddy_mode e.buddy]

theorem layerOf (die idx : Nat) : a.layerOf die idx = b.layerOf die idx := by
  unfold Hub.layerOf; rw [e.plan]

theorem kvFault (hk : a.kv = b.kv) (root : BitVec 32) (n : Nat) : a.kvFault root n = b.kvFault root n := by
  unfold Hub.kvFault windowSlots root?
  rw [e.shards, e.model, hk]

theorem kvSpoiled (hk : a.kv = b.kv) (hc : a.grp.cur = b.grp.cur) : a.kvSpoiled = b.kvSpoiled := by
  unfold Hub.kvSpoiled
  simp only [hc, e.kvFault hk]

end PlacedAlike

/-- Hubs of the same images that agree on every register but those of reports and INTHBMCE place the model alike. -/
theorem placedAlike_of_regs {a b : Hub} (im : a.im = b.im)
    (hr : ∀ r, r ∉ reportRegs → r ≠ F.INTHBMCE_count.a → a.reg r = b.reg r) : PlacedAlike a b :=
  ⟨im, hr _ (by decide) (by decide), hr _ (by decide) (by decide), hr _ (by decide) (by decide), hr _ (by decide) (by decide)⟩

/-! ### A read of Millpond (R376, R392) -/

theorem still_hbmRead (h : Hub) : h.hbmRead.still = h.still := by
  unfold hbmRead
  split
  · dsimp only
    split
    · split
      · rw [still_inc, still_fireInj, still_fresh]
      · rw [still_fireInj, still_fresh]
    · exact still_fresh h
  · rfl

theorem reg_hbmRead (h : Hub) {a : Nat} (ha : a ∉ reportRegs) (hc : a ≠ F.INTHBMCE_count.a) : h.hbmRead.reg a = h.reg a := by
  have fired (m) : (h.fresh.2.fireInj 0x05 m).2.reg a = h.reg a := reg_fireInj h.fresh.2 0x05 m ha
  unfold hbmRead
  split
  · dsimp only
    split
    · split
      · exact (reg_p_ne _ F.INTHBMCE_count _ hc).trans (fired _)
      · exact fired _
    · rfl
  · rfl

end Hub

/-! ### Lines that land in scratch (R147, R377) -/

/-- A line that lands: its stone, its place in the stone's scratch and its data. -/
abbrev LandLine := BitVec 11 × BitVec 14 × BitVec 512

/-- A line is in scratch, poisoned if it is bad. -/
def Stones.land (bad : Bool) (stn : Stones) (e : LandLine) : Stones :=
  stn.set e.1 (((stn.get e.1).setLine e.2.1.toNat e.2.2).setPoison e.2.1.toNat 1 bad)

namespace Stones

theorem line_land_same (bad : Bool) (stn : Stones) (e : LandLine) : ((stn.land bad e).get e.1).line e.2.1.toNat = e.2.2 := by
  unfold land
  rw [get_set_same, Stone.line_setPoison, Stone.line_setLine_same]

theorem line_land_ne (bad : Bool) (stn : Stones) (e : LandLine) (l : BitVec 11) (i : Nat) (hne : e.1 = l → e.2.1.toNat ≠ i) :
    ((stn.land bad e).get l).line i = (stn.get l).line i := by
  unfold land
  by_cases hl : e.1 = l
  · subst hl
    rw [get_set_same, Stone.line_setPoison, Stone.line_setLine_ne _ _ _ _ (hne rfl).symm]
  · rw [get_set_ne _ _ _ _ (Ne.symm hl)]

/-- A good line that lands clears the poison of its own line and sets none. -/
theorem clean_land (stn : Stones) (e : LandLine) (l : BitVec 11) (i : Nat)
    (h : (e.1 = l ∧ e.2.1.toNat = i) ∨ i ∉ (stn.get l).poison) : i ∉ ((stn.land false e).get l).poison := by
  unfold land
  by_cases hl : e.1 = l
  · subst hl
    rw [get_set_same]
    intro hi
    obtain ⟨old, out⟩ := List.mem_filter.mp hi
    rcases h with ⟨-, hi'⟩ | clean
    · simp [hi'] at out
    · exact clean old
  · rw [get_set_ne _ _ _ _ (Ne.symm hl)]
    exact h.resolve_left fun k => hl k.1

theorem line_landAll_ne (bad : Bool) (lines : List LandLine) (stn : Stones) (l : BitVec 11) (i : Nat)
    (hne : ∀ e ∈ lines, e.1 = l → e.2.1.toNat ≠ i) : ((lines.foldl (land bad) stn).get l).line i = (stn.get l).line i := by
  induction lines generalizing stn with
  | nil => rfl
  | cons x xs ih =>
    rw [List.forall_mem_cons] at hne
    rw [List.foldl_cons, ih _ hne.2, line_land_ne bad stn x l i hne.1]

/-- Of lines at different places each is in scratch once all have landed. -/
theorem line_landAll_mem (bad : Bool) (lines : List LandLine) (stn : Stones) (hd : (lines.map (fun e => (e.1, e.2.1))).Nodup)
    (e : LandLine) (he : e ∈ lines) : ((lines.foldl (land bad) stn).get e.1).line e.2.1.toNat = e.2.2 := by
  induction lines generalizing stn with
  | nil => exact absurd he List.not_mem_nil
  | cons x xs ih =>
    rw [List.map_cons, List.nodup_cons] at hd
    obtain ⟨fresh, hd⟩ := hd
    rw [List.foldl_cons]
    rcases List.mem_cons.mp he with rfl | he
    · rw [line_landAll_ne, line_land_same]
      intro y hy hl hi
      exact fresh (List.mem_map.mpr ⟨y, hy, Prod.ext hl (BitVec.eq_of_toNat_eq hi)⟩)
    · exact ih _ hd he

theorem clean_landAll (lines : List LandLine) (stn : Stones) (l : BitVec 11) (i : Nat)
    (h : (∃ e ∈ lines, e.1 = l ∧ e.2.1.toNat = i) ∨ i ∉ (stn.get l).poison) :
    i ∉ ((lines.foldl (land false) stn).get l).poison := by
  induction lines generalizing stn with
  | nil => exact h.resolve_left fun ⟨_, he, _⟩ => List.not_mem_nil he
  | cons x xs ih =>
    rw [List.foldl_cons]
    refine ih _ ?_
    rcases h with ⟨e, he, at_i⟩ | clean
    · rcases List.mem_cons.mp he with rfl | he
      · exact .inr (clean_land stn e l i (.inl at_i))
      · exact .inl ⟨e, he, at_i⟩
    · exact .inr (clean_land stn x l i (.inr clean))

end Stones

/-! ### The two commands -/

/-- How many layers ahead of the one computed a transfer may issue (R146): the depth of the plan. -/
def Hub.lead (h : Hub) : Nat := match h.plan with
  | none => 0
  | some p => p.depth.toNat

/-- A plan is active, the turn of transfer `idx` of the die has come, and its layer is within the lead (R146). -/
def Hub.mayIssue (h : Hub) (die : BitVec 2) (idx : BitVec 32) (layer : BitVec 9) : Bool :=
  let q := h.grp.issued.getD die.toNat (0, 0)
  h.plan.isSome && q.1 == idx.toNat && decide ((h.layerOf die.toNat idx.toNat).getD layer.toNat ≤ q.2 + h.lead)

theorem Hub.mayIssue_iff (h : Hub) (die : BitVec 2) (idx : BitVec 32) (layer : BitVec 9) :
    h.mayIssue die idx layer = true ↔ ∃ p, h.plan = some p ∧ (h.grp.issued.getD die.toNat (0, 0)).1 = idx.toNat
      ∧ (h.layerOf die.toNat idx.toNat).getD layer.toNat ≤ (h.grp.issued.getD die.toNat (0, 0)).2 + p.depth.toNat := by
  unfold mayIssue lead
  cases h.plan with
  | none => simp
  | some p => simp

section

variable (tm : Nt) (die : BitVec 2) (idx : BitVec 32) (s : State)

theorem exec_stagingTransfer (layer : BitVec 9) :
    let h := s.hub.stamp tm
    let q := s.hub.grp.issued.getD die.toNat (0, 0)
    exec (.stagingTransfer tm die idx layer) s = .next { s with
      hub := if s.hub.mayIssue die idx layer then
          { h with grp := { s.hub.grp with issued := s.hub.grp.issued.set die.toNat (q.1 + 1, q.2) } }
        else h } := rfl

/-- The hub with the landing of a transfer noted (R147). -/
def Hub.noted (h : Hub) (die : BitVec 2) (idx : BitVec 32) : Hub :=
  { h with grp := { h.grp with landed := h.grp.landed ++ [(die.toNat, idx.toNat)] } }

/-- The hub after a landing has been noted: Millpond has been read, and the die's stalls are in its diagnosis. -/
def Hub.tookLanding (h : Hub) (die : BitVec 2) (idx : BitVec 32) (st : BitVec 16) : Hub :=
  let g := (h.noted die idx).hbmRead
  { g with diag := { g.diag.putBy g.nt with hold := g.diag.hold.modify die.toNat (· + st.setWidth 64) } }

/-- A transfer past the weight tiles may bring KV that is bad (R66, R377). -/
def Hub.mayBringBad (h : Hub) (die : BitVec 2) (idx : BitVec 32) : Bool := (h.layerOf die.toNat idx.toNat).isNone && h.kvSpoiled

theorem Hub.still_tookLanding (h : Hub) (st : BitVec 16) : (h.tookLanding die idx st).still = (h.noted die idx).still :=
  still_hbmRead (h.noted die idx)

theorem Hub.reg_tookLanding (h : Hub) (st : BitVec 16) {a : Nat} (ha : a ∉ reportRegs) (hc : a ≠ F.INTHBMCE_count.a) :
    (h.tookLanding die idx st).reg a = h.reg a :=
  reg_hbmRead (h.noted die idx) ha hc

/-- Neither the landing nor what it counts makes a transfer bring bad KV. -/
theorem Hub.mayBringBad_tookLanding (h : Hub) (st : BitVec 16) :
    (h.tookLanding die idx st).mayBringBad die idx = h.mayBringBad die idx := by
  have still := still_tookLanding die idx h st
  have im := im_of_still still
  have kv := kv_of_still still
  have cur := congrArg Grp.cur (grp_of_still still)
  have placed : PlacedAlike (h.tookLanding die idx st) h :=
    placedAlike_of_regs im fun _ ha hc => reg_tookLanding die idx h st ha hc
  unfold mayBringBad
  rw [placed.layerOf, placed.kvSpoiled kv cur]

theorem Hub.mayBringBad_clean (h : Hub) (hc : h.layerOf die.toNat idx.toNat ≠ none ∨ h.kvSpoiled = false) :
    h.mayBringBad die idx = false := by
  unfold mayBringBad
  rcases hc with tile | good
  · rw [Option.isNone_eq_false_iff.mpr (Option.ne_none_iff_isSome.mp tile), Bool.false_and]
  · rw [good, Bool.and_false]

/-- The model's test of a landing says that it is due. -/
theorem landing_due_iff (l : List (Nat × Nat)) (n : Nat) (x : Nat × Nat) :
    ((decide (x.2 < n) && !l.contains x) = true) ↔ (x.2 < n ∧ x ∉ l) := by
  rw [Bool.and_eq_true, decide_eq_true_eq, Bool.not_eq_true', ← Bool.not_eq_true, List.contains_iff_mem]

/-- A landing that is due is noted and counted, and its lines land; where it may bring bad KV a free value poisons them. -/
theorem stagingLanded_due (st : BitVec 16) (lines : List LandLine)
    (due : idx.toNat < (s.hub.grp.issued.getD die.toNat (0, 0)).1 ∧ (die.toNat, idx.toNat) ∉ s.hub.grp.landed)
    (here : ∀ e ∈ lines, e.1.toNat / 512 = die.toNat ∧ e.2.1.toNat < scratchLines) :
    let g := (s.hub.stamp tm).tookLanding die idx st
    ∀ may : Bool, g.mayBringBad die idx = may →
    let q := if may then g.fresh else (0, g)
    exec (.stagingLanded tm die idx st lines) s = .next { s with
      hub := q.2.inc F.TIERWSTALL_count st.toNat
      stn := lines.foldl (Stones.land (may && q.1.getLsbD 0)) s.stn } := by
  rintro g _ rfl q
  have all : lines.filter (fun e => e.1.toNat / 512 == die.toNat && decide (e.2.1.toNat < scratchLines)) = lines :=
    List.filter_eq_self.mpr fun e he => by simp [here e he]
  show execStagingLanded tm die idx st lines s = _
  unfold execStagingLanded
  rw [all]
  exact if_pos ((landing_due_iff _ _ (die.toNat, idx.toNat)).mpr due)

/-- What a landing that is due leaves: beside the noted landing and the count of stalls the hub only reports and counts an INTHBMCE, and the
lines have landed, without poison where the transfer brings a tile or no KV is bad. -/
theorem stagingLanded_lands (st : BitVec 16) (lines : List LandLine)
    (due : idx.toNat < (s.hub.grp.issued.getD die.toNat (0, 0)).1 ∧ (die.toNat, idx.toNat) ∉ s.hub.grp.landed)
    (here : ∀ e ∈ lines, e.1.toNat / 512 = die.toNat ∧ e.2.1.toNat < scratchLines) :
    ∃ (g : Hub) (bad : Bool), g.still = ((s.hub.stamp tm).noted die idx).still
      ∧ (∀ a, a ∉ Hub.reportRegs → a ≠ F.INTHBMCE_count.a → g.reg a = s.hub.reg a)
      ∧ (s.hub.layerOf die.toNat idx.toNat ≠ none ∨ s.hub.kvSpoiled = false → bad = false)
      ∧ exec (.stagingLanded tm die idx st lines) s =
          .next { s with hub := g.inc F.TIERWSTALL_count st.toNat, stn := lines.foldl (Stones.land bad) s.stn } := by
  have lands := stagingLanded_due tm die idx s st lines due here
  have still := Hub.still_tookLanding die idx (s.hub.stamp tm) st
  have regs (a) (ha : a ∉ Hub.reportRegs) (hc : a ≠ F.INTHBMCE_count.a) :=
    Hub.reg_tookLanding die idx (s.hub.stamp tm) st ha hc
  have same := Hub.mayBringBad_tookLanding die idx (s.hub.stamp tm) st
  cases may : ((s.hub.stamp tm).tookLanding die idx st).mayBringBad die idx with
  | false => exact ⟨_, _, still, regs, fun _ => rfl, lands false may⟩
  | true =>
    refine ⟨_, _, (Hub.still_fresh _).trans still, regs, fun clean => ?_, lands true may⟩
    have never := same.trans (Hub.mayBringBad_clean die idx s.hub clean)
    cases may.symm.trans never

end

/-- Settles O15: a transfer issues or waits by its turn and lead; of a landing that is due the hub keeps all but what it notes, counts and
reports, and its lines land one after the other at places of their own. -/
theorem staging : Obligations.Staging := by
  refine ⟨fun tm die idx layer s => ⟨fun p ⟨active, turn, lead⟩ => ?_, fun late => ?_⟩,
    fun tm die idx st lines s => ⟨fun due places here => ?_, fun undue => ?_⟩⟩
  · have issues := (s.hub.mayIssue_iff die idx layer).mpr ⟨p, active, turn, lead⟩
    rw [exec_stagingTransfer, if_pos issues]
  · have waits (ok) : False := let ⟨p, next⟩ := (s.hub.mayIssue_iff die idx layer).mp ok; late p next
    rw [exec_stagingTransfer, if_neg waits]
  · obtain ⟨g, bad, still, regs, clean, lands⟩ := stagingLanded_lands tm die idx s st lines due here
    have stalled : (g.inc F.TIERWSTALL_count st.toNat).still = ((s.hub.stamp tm).noted die idx).still :=
      (Hub.still_inc g _ _).trans still
    refine ⟨_, lands, ?_, ?_, ?_, ?_, ?_, ?_, rfl⟩
    · rw [Hub.g_inc_same g F.TIERWSTALL_count _ (by decide), Hub.g_of_reg F.TIERWSTALL_count (regs _ (by decide) (by decide))]
      rfl
    · exact fun j => Hub.s_of_still stalled j
    · exact Hub.rest_of_still stalled
    · intro a ha ht hc
      exact (Hub.reg_p_ne g F.TIERWSTALL_count _ ht).trans (regs a ha hc)
    · intro e he
      refine ⟨Stones.line_landAll_mem bad lines s.stn places e he, fun hclean => ?_⟩
      obtain rfl := clean hclean
      exact Stones.clean_landAll lines s.stn e.1 e.2.1.toNat (.inl ⟨e, he, rfl, rfl⟩)
    · exact fun l i hne => Stones.line_landAll_ne bad lines s.stn l i hne
  · show execStagingLanded tm die idx st lines s = _
    unfold execStagingLanded
    exact if_neg fun h => undue ((landing_due_iff _ _ (die.toNat, idx.toNat)).mp h)

end Sys2Proof.Machine
end

section
/-! The receiving side of a migration (O33): which record a key finds, what an offer's check says, and each message in each of its cases. -/

namespace Sys2Proof.Machine
open Hub

/-! ### A key that a record holds stays found -/

/-- A list in which some value satisfies `p` still has one after a write at a key whose value satisfied `p` only if the new one does. -/
theorem any_smPut {β : Type} (m : SMap β) (i : Nat) (x : β) (p : β → Bool) (hx : ∀ v, smLook m i = some v → p v = true → p x = true)
    (hm : m.any (fun e => p e.2) = true) : (smPut m i x).any (fun e => p e.2) = true := by
  induction m with
  | nil => cases hm
  | cons e m ih =>
    obtain ⟨k, v⟩ := e
    unfold smPut
    split
    · rw [List.any_cons, hm, Bool.or_true]
    · rw [List.any_cons, Bool.or_eq_true] at hm
      split
      · next hk =>
        rw [List.any_cons, Bool.or_eq_true]
        exact hm.imp (hx v (by rw [smLook, if_pos hk])) id
      · next hk =>
        rw [List.any_cons, Bool.or_eq_true]
        exact hm.imp id (ih fun u hu => hx u (by rw [smLook, if_neg hk]; exact hu))

/-- A session is live under a key (R27). -/
def liveUnder (sk : BitVec 128) (x : Sess) : Bool := x.r.state != S.free && x.r.sk == sk

namespace Hub

variable (h : Hub) (i : Handle)

theorem findSk_isSome (sk : BitVec 128) : (h.findSk sk).isSome = h.sess.any (fun e => liveUnder sk e.2) := by
  unfold findSk
  rw [Option.isSome_map, Bool.eq_iff_iff, List.find?_isSome, List.any_eq_true]
  rfl

/-- A write of a session that leaves its state and key, and leaves it in mismatch, leaves every key found. -/
theorem findSk_modS (sk : BitVec 128) (f : Sess → Sess) (hs : (f (h.s i)).r.state = (h.s i).r.state)
    (hk : (f (h.s i)).r.sk = (h.s i).r.sk) (ho : (f (h.s i)).r.omm = true) (hf : (h.findSk sk).isSome = true) :
    ((h.modS i f).findSk sk).isSome = true := by
  have listed : f (h.s i) ≠ {} := fun e => by rw [e] at ho; cases ho
  rw [findSk_isSome] at hf ⊢
  unfold modS setS smSet; dsimp only
  rw [if_neg listed]
  refine any_smPut _ _ _ _ (fun v hv live => ?_) hf
  have same : h.s i = v := by unfold s smGet; rw [hv]; rfl
  unfold liveUnder at live ⊢
  rw [hs, hk, same]; exact live

theorem findSk_of_sess {a b : Hub} (e : a.sess = b.sess) (sk : BitVec 128) : a.findSk sk = b.findSk sk := by
  unfold findSk; rw [e]

theorem findSk_record (sk : BitVec 128) (code data : Nat) (ho : (h.s i).r.omm = true) (hf : (h.findSk sk).isSome = true) :
    ((h.record i code data).findSk sk).isSome = true := by
  have noted : ((h.jent i code (h.s i).r.state (h.s i).r.state data).findSk sk).isSome = true := by
    unfold jent; dsimp only
    exact findSk_modS _ i sk _ rfl rfl ho hf
  unfold record; dsimp only
  split
  · rw [findSk_of_sess (sess_of_still (still_notice _ i code data))]; exact noted
  · exact noted

theorem findSk_ready (sk : BitVec 128) (ho : (h.s i).r.omm = true) (hf : (h.findSk sk).isSome = true) :
    ((h.ready i).findSk sk).isSome = true := by
  unfold ready
  split
  · exact hf
  · exact findSk_modS h i sk (fun x => { x with runnable := true, since := h.nt }) rfl rfl ho hf

theorem findSk_refusePrefill (sk : BitVec 128) (st : BitVec 8) (ho : (h.s i).r.omm = true) (hf : (h.findSk sk).isSome = true) :
    ((h.refusePrefill i st).findSk sk).isSome = true := by
  unfold refusePrefill; dsimp only
  split
  · split
    · unfold endInstr; dsimp only
      refine findSk_ready _ i sk ?_ (findSk_modS _ i sk _ ?_ ?_ ?_ (findSk_modS h i sk _ rfl rfl ho hf)) <;>
        simp only [s_modS_same, wStat_omm, wStat_state, wStat_sk, wReg_omm, wReg_state, wReg_sk, ho]
    · exact hf
  · exact hf

/-- A session put in mismatch stays found under its key (R180). -/
theorem findSk_ownerMismatch (sk : BitVec 128) (e : BitVec 16) (hf : (h.findSk sk).isSome = true) :
    ((h.ownerMismatch i e).findSk sk).isSome = true := by
  unfold ownerMismatch; dsimp only
  generalize hg : (h.modS i (fun x => { x with seen := e, r := { x.r with omm := true, lastStatus := St.ownerConflict } })).inc F.OWNCONF_count = g
  have marked : (g.s i).r.omm = true := by rw [← hg, s_of_sess (sess_inc _ F.OWNCONF_count 1), s_modS_same]
  have found : (g.findSk sk).isSome = true := by
    rw [← hg, findSk_of_sess (sess_inc _ F.OWNCONF_count 1)]
    exact findSk_modS h i sk _ rfl rfl rfl hf
  exact findSk_refusePrefill _ i sk _ (by rw [s_record_same]; exact marked) (findSk_record g i sk _ _ marked found)

/-! ### What a message tells of another holder (R180) -/

theorem otherHolder_unknown (sk : BitVec 128) (e : BitVec 16) (hf : h.findSk sk = none) : h.otherHolder sk e = h := by
  unfold otherHolder; rw [hf]

theorem otherHolder_older (sk : BitVec 128) (e : BitVec 16) (hf : h.findSk sk = some i)
    (hn : newer 16 e.toNat (h.s i).r.ownEpoch.toNat = false ∨ (h.s i).r.omm = true) : h.otherHolder sk e = h := by
  unfold otherHolder; rw [hf]
  exact if_neg (by rcases hn with hn | hn <;> simp [hn])

theorem otherHolder_newer (sk : BitVec 128) (e : BitVec 16) (hf : h.findSk sk = some i)
    (hn : newer 16 e.toNat (h.s i).r.ownEpoch.toNat = true) (ho : (h.s i).r.omm = false) : h.otherHolder sk e = h.ownerMismatch i e := by
  unfold otherHolder; rw [hf]
  exact if_pos (by simp [hn, ho])

/-! ### The check of an offer (R177) -/

variable (src : BitVec 6) (m : OfferMsg)

/-- The grammar that an offer names is none, or is held here under its digest. -/
def gramHeld : Bool := m.gram == 0 || (match smLook h.im.grams m.gram.toNat with
  | none => false
  | some g => g.digest == m.gramDig)

/-- The stop set that an offer names is none, or is held here under its digest. -/
def stopHeld : Bool := m.stop == 0 || (match smLook h.im.stopSets m.stop.toNat with
  | none => false
  | some c => Config.sha3 c.img == m.stopDig)

/-- A window of the offer's partition and tenant is enabled. -/
def windowHeld : Bool := (List.range 64).any (fun w =>
  h.gi F.CMDWIN_enable w == 1 && h.gi F.CMDWIN_partition w == m.part.toNat && h.gi F.CMDWIN_tenant w == m.tenant.toNat)

/-- Whether the other devices of the group must reserve for an offer (R176). -/
def asksGroup : Bool := !m.kvmode && !h.sameGroup src && decide (1 < h.groupN)

theorem gramHeld_iff : h.gramHeld m = true ↔ m.gram = 0 ∨ ∃ y, smLook h.im.grams m.gram.toNat = some y ∧ y.digest = m.gramDig := by
  unfold gramHeld
  rw [Bool.or_eq_true, beq_iff_eq]
  cases smLook h.im.grams m.gram.toNat <;> simp

theorem stopHeld_iff : h.stopHeld m = true ↔
    m.stop = 0 ∨ ∃ y, smLook h.im.stopSets m.stop.toNat = some y ∧ Config.sha3 y.img = m.stopDig := by
  unfold stopHeld
  rw [Bool.or_eq_true, beq_iff_eq]
  cases smLook h.im.stopSets m.stop.toNat <;> simp

theorem asksGroup_iff : h.asksGroup src m = true ↔ m.kvmode = false ∧ h.sameGroup src = false ∧ 1 < h.groupN := by
  unfold asksGroup
  rw [Bool.and_eq_true, Bool.and_eq_true, Bool.not_eq_true', Bool.not_eq_true', decide_eq_true_eq, and_assoc]

/-- Space for an offer at a root index: what it reserves changes Millpond's reservations alone. -/
theorem offerSpace_eq (root : BitVec 32) (g : Hub) (hg : h.offerSpace src m root = some g) : ∃ k, g = { h with kv := k } := by
  unfold offerSpace at hg
  split at hg
  · cases hg; exact ⟨h.kv, rfl⟩
  · split at hg
    · split at hg <;> cases hg
      exact ⟨h.kv, rfl⟩
    · unfold reserve at hg; dsimp only at hg
      split at hg <;> cases hg
      exact ⟨_, rfl⟩

/-- The last check of an offer: space at a root index here, and on the other devices of the group where it needs any there. -/
def offerTaken (root : BitVec 32) : BitVec 8 ⊕ (BitVec 32 × Hub) :=
  match h.offerSpace src m root with
  | none => .inl 6
  | some g =>
    let (v, b) := if m.kvmode || g.sameGroup src || decide (g.groupN ≤ 1) then ((0 : W64), g) else g.fresh
    if v.getLsbD 0 then .inl 6 else .inr (root, b)

theorem offerTaken_full (root : BitVec 32) (hg : h.offerSpace src m root = none) : h.offerTaken src m root = .inl 6 := by
  unfold offerTaken; rw [hg]

/-- Other devices are asked where the offer's check takes a free value. -/
theorem asksGroup_not : (m.kvmode || h.sameGroup src || decide (h.groupN ≤ 1)) = !h.asksGroup src m := by
  unfold asksGroup
  simp only [Bool.not_and, Bool.not_not, ← decide_not, Nat.not_lt]

theorem offerTaken_alone (root : BitVec 32) (g : Hub) (hg : h.offerSpace src m root = some g) (ha : g.asksGroup src m = false) :
    h.offerTaken src m root = .inr (root, g) := by
  unfold offerTaken; rw [hg]; dsimp only
  simp only [asksGroup_not, ha, Bool.not_false, if_true]
  exact if_neg (by decide)

/-- With other devices asked, the free value decides (log 2). -/
theorem offerTaken_asked (root : BitVec 32) (g : Hub) (hg : h.offerSpace src m root = some g) (ha : g.asksGroup src m = true) :
    h.offerTaken src m root = if (Config.freeValue g.free).getLsbD 0 then .inl 6 else .inr (root, g.fresh.2) := by
  unfold offerTaken; rw [hg]; dsimp only
  rw [asksGroup_not, ha]
  rfl

theorem checkOffer_known (hf : (h.findSk m.sk).isSome = true) : h.checkOffer src m = .inl 1 := by
  unfold checkOffer; exact if_pos hf

theorem checkOffer_noHandle (hf : h.findSk m.sk = none) (hc : h.freeHandle = none) : h.checkOffer src m = .inl 2 := by
  unfold checkOffer; dsimp only
  rw [if_neg (by rw [hf]; simp), hc]

/-- The checks of an offer for which there is a handle, in the order of R177. -/
theorem checkOffer_handle (hf : h.findSk m.sk = none) (hc : h.freeHandle = some i) :
    h.checkOffer src m = if !h.gramHeld m then .inl 3 else if !h.stopHeld m then .inl 4
      else if h.gi F.PARTCTL_present m.part.toNat ≠ 1 || !h.windowHeld m then .inl 5 else h.offerTaken src m (h.rootIndex i) := by
  unfold checkOffer; dsimp only
  rw [if_neg (by rw [hf]; simp), hc]
  rfl

/-! ### What dropping a staging, a free value and a message leave -/

/-- The port on which a message leaves, if it is not discarded (R239, R244). -/
def portFor (d : BitVec 6) (x : Msg) : Option Nat :=
  if h.on F.MOLCTL_dyn_en && decide (msgBytes x ≤ 2 ^ 28) then h.route d.toNat h.msgId.toNat else none

/-- The hub with a message queued on port `n` (R360). -/
def queuedOn (d : BitVec 6) (x : Msg) (n : Nat) : Hub :=
  let ty := msgType x
  let k := n * 16 + bitsOf (h.g F.SLDQMAP_map) (4 * ty + 3) (4 * ty)
  let it : SlItem := { enq := h.nt, head := min 512 (msgBytes x), rest := msgBytes x - 512, load := .msg d h.msgId x }
  { h with msgId := h.msgId + 1, sl := { h.sl with dyn := smPut h.sl.dyn k (smGet [] h.sl.dyn k ++ [it]) } }

theorem send_discarded (d : BitVec 6) (x : Msg) (hp : h.portFor d x = none) :
    h.send d x = ({ h with msgId := h.msgId + 1 } : Hub).inc F.MOLMSGDROP_count := by
  unfold send; dsimp only
  split
  · rfl
  · next n e => exact nomatch hp.symm.trans e

theorem send_queued (d : BitVec 6) (x : Msg) (n : Nat) (hp : h.portFor d x = some n) : h.send d x = h.queuedOn d x n := by
  unfold send; dsimp only
  split
  · next e => exact nomatch hp.symm.trans e
  · next k e => cases hp.symm.trans e; rfl

/-- A free value taken before a message is sent changes nothing beside itself. -/
theorem send_fresh (d : BitVec 6) (x : Msg) : h.fresh.2.send d x = (h.send d x).fresh.2 := by
  cases hp : h.portFor d x with
  | none => rw [send_discarded h d x hp, send_discarded h.fresh.2 d x hp]; rfl
  | some n => rw [send_queued h d x n hp, send_queued h.fresh.2 d x n hp]; rfl

/-- Dropping what is staged leaves all that the check of an offer looks at before it asks for space, and the free values. -/
theorem dropStaged_checks (sk : BitVec 128) :
    let d := h.dropStaged sk
    (∀ k, d.findSk k = h.findSk k) ∧ d.freeHandle = h.freeHandle ∧ d.gramHeld m = h.gramHeld m ∧ d.stopHeld m = h.stopHeld m
    ∧ d.windowHeld m = h.windowHeld m ∧ (∀ j, d.rootIndex j = h.rootIndex j) ∧ (∀ f j, d.gi f j = h.gi f j)
    ∧ d.asksGroup src m = h.asksGroup src m ∧ d.nt = h.nt ∧ d.free = h.free := by
  obtain ⟨n, k, e⟩ := dropStaged_eq h sk
  dsimp only
  rw [e]
  exact ⟨fun _ => rfl, rfl, rfl, rfl, rfl, fun _ => rfl, fun _ _ => rfl, rfl, rfl, rfl⟩

/-- The device with an accepted offer staged at a root index (R176). -/
def offerStaged (root : BitVec 32) : Hub :=
  let y : MigIn := { src := src, offer := some m, root := root, units := h.offerUnits src m, lastNt := h.nt }
  { h with migIn := smPut h.migIn m.sk.toNat y }

theorem offerStaged_fresh (root : BitVec 32) : h.fresh.2.offerStaged src m root = (h.offerStaged src m root).fresh.2 := rfl

/-- The device once space for an offer is missing: eviction is engaged where it is enabled (R176). -/
def evicting : Hub := if h.on F.TIERCTL_evict_en then { h with grp := { h.grp with evicting := true } } else h

end Hub

/-- A command that ends with a hub becomes any hub alike. -/
theorem Ends.becomes {c : Instr} {s : State} {b u : Hub} (e : Ends c s b) (hb : b.alike u) : Becomes c s u :=
  e.answers ⟨alike_finish s.hub hb, rfl, rfl⟩

section
variable {tm : Nt} {src : BitVec 6} {s : State} {h : Hub} (hh : s.hub.stamp tm = h)
include hh

/-! ### OFFER -/

section
variable {m : OfferMsg} {d : Hub} (hd : (h.otherHolder m.sk (m.epoch - 1)).dropStaged m.sk = d)
include hd

/-- An offer refused for another reason than space. -/
theorem offer_refused {r : BitVec 8} (hr : d.checkOffer src m = .inl r) (h6 : r ≠ 6) :
    Ends (.offer tm src m) s (d.send src (.refuse m.sk r)) := by
  show execOffer tm src m s = _
  unfold execOffer
  refine onHub_ends hh ?_
  dsimp only
  rw [hd, hr]; dsimp only
  rw [if_neg h6, if_neg (fun c => h6 c.1)]

/-- An offer refused for space takes a free value and engages eviction (R176). -/
theorem offer_noSpace (hr : d.checkOffer src m = .inl 6) :
    Ends (.offer tm src m) s (d.evicting.send src (.refuse m.sk 6)).fresh.2 := by
  show execOffer tm src m s = _
  unfold execOffer
  refine onHub_ends hh ?_
  dsimp only
  rw [hd, hr]; dsimp only
  rw [if_pos rfl, ← send_fresh]
  congr 1
  unfold evicting
  by_cases on : d.on F.TIERCTL_evict_en = true
  · rw [if_pos on, if_pos ⟨rfl, on⟩]; rfl
  · rw [if_neg on, if_neg fun c => on c.2]

/-- An offer accepted is staged. -/
theorem offer_accepted {root : BitVec 32} {g : Hub} (hr : d.checkOffer src m = .inr (root, g)) :
    Ends (.offer tm src m) s ((g.offerStaged src m root).send src (.accept m.sk)) := by
  show execOffer tm src m s = _
  unfold execOffer
  refine onHub_ends hh ?_
  dsimp only
  rw [hd, hr]
  rfl

end

/-! ### PART -/

section
variable {sk : BitVec 128} {body : PartBody} {x : MigIn}

/-- A part of a known migration is staged (R175). -/
theorem part_staged (hx : smLook h.migIn sk.toNat = some x) (hb : body ≠ .fin) : Ends (.part tm src sk body true) s
    { h with migIn := smPut h.migIn sk.toNat { x with parts := x.parts ++ [body], lastNt := h.nt } } := by
  show execPart tm src sk body true s = _
  unfold execPart
  refine onHub_ends hh ?_
  dsimp only
  rw [hx, if_neg (by simp), if_neg (by simp)]
  cases body
  case fin => exact absurd rfl hb
  all_goals simp only [Option.isSome_some, if_true, hx, Option.getD_some, Bool.false_eq_true, if_false, Bool.or_false]

/-- The last part of a known migration marks it complete, under an id of its own. -/
theorem part_last (hx : smLook h.migIn sk.toNat = some x) :
    let y : MigIn := { x with fin := true, lastNt := h.nt, id := (Config.freeValue h.free).setWidth 32 }
    Ends (.part tm src sk .fin true) s ({ h with migIn := smPut h.migIn sk.toNat y } : Hub).fresh.2 := by
  show execPart tm src sk .fin true s = _
  unfold execPart
  refine onHub_ends hh ?_
  dsimp only
  rw [hx, if_neg (by simp), if_neg (by simp)]
  simp only [Option.isSome_some, if_true, hx, Option.getD_some, Bool.or_true]
  rfl

/-- Parts of a session's cache: its roots and pages (R175). -/
def cachePart (b : PartBody) : Bool :=
  match b with
  | .root _ _ _ _ _ _ => true
  | .piece _ _ _ _ _ => true
  | _ => false

/-- The shards of another device of the group open a staging of their own (log 149). -/
theorem part_opens (hx : smLook h.migIn sk.toNat = none) (hb : cachePart body = true) (hg : h.groupN ≠ 1) (hf : h.findSk sk = none) :
    let y : MigIn := { src := src, offer := none, root := (Config.freeValue h.free).setWidth 32, parts := [body], lastNt := h.nt }
    Ends (.part tm src sk body true) s ({ h with migIn := smPut h.migIn sk.toNat y } : Hub).fresh.2 := by
  show execPart tm src sk body true s = _
  unfold execPart
  refine onHub_ends hh ?_
  dsimp only
  rw [hx, hf, if_neg (by simp)]
  cases body
  case root | piece =>
    rw [if_neg (by simp [hg])]
    simp only [Option.isSome_none, Bool.false_eq_true, if_false, fresh, hx, Option.getD_none, List.nil_append, Bool.or_false]
  all_goals cases hb

/-- A part of an unknown migration that opens no staging is ignored. -/
theorem part_ignored (hx : smLook h.migIn sk.toNat = none)
    (hn : (∃ b, body = .record b) ∨ h.groupN = 1 ∨ h.findSk sk ≠ none) : Ends (.part tm src sk body true) s h := by
  show execPart tm src sk body true s = _
  unfold execPart
  refine onHub_ends hh ?_
  dsimp only
  rw [hx, if_neg (by simp)]
  refine if_pos ?_
  rcases hn with ⟨b, rfl⟩ | hn | hn
  · rfl
  · simp [hn]
  · simp [Option.isNone_eq_false_iff.2 (Option.isSome_iff_ne_none.2 hn)]

/-- A damaged part of a known migration ends it with reason 0x0A (R177). -/
theorem part_damaged {o : OfferMsg} (hx : smLook h.migIn sk.toNat = some x) (ho : x.offer = some o) :
    Ends (.part tm src sk body false) s (((h.inc F.MOLMSGDROP_count).dropStaged sk).send x.src (.refuse o.sk 0x0A)) := by
  have hx' : smLook (h.inc F.MOLMSGDROP_count).migIn sk.toNat = some x := hx
  show execPart tm src sk body false s = _
  unfold execPart
  refine onHub_ends hh ?_
  dsimp only
  rw [if_pos (by rfl), hx', Option.map_some, ho]
  rfl

/-! ### STAGING_TIMEOUT -/

theorem stagingTimeout_reached (hx : smLook h.migIn sk.toNat = some x) (ht : x.lastNt.toNat + h.migTmo ≤ h.nt.toNat) :
    Ends (.stagingTimeout tm sk) s (({ h with migIn := smDel h.migIn sk.toNat } : Hub).unreserve x.root) := by
  show execStagingTimeout tm sk s = _
  unfold execStagingTimeout
  refine onHub_ends hh ?_
  rw [hx]; dsimp only
  rw [if_pos ht]
  unfold dropStaged; rw [hx]

theorem stagingTimeout_idle (hx : smLook h.migIn sk.toNat = some x) (ht : h.nt.toNat < x.lastNt.toNat + h.migTmo) :
    Ends (.stagingTimeout tm sk) s h := by
  show execStagingTimeout tm sk s = _
  unfold execStagingTimeout
  refine onHub_ends hh ?_
  rw [hx]; dsimp only
  rw [if_neg (Nat.not_le.2 ht)]

end

/-! ### MIRROR -/

section
variable {mm : MirrorMsg}

/-- A mirror of a session that this device does not hold is stored, its log written to the Granary (R182). -/
theorem mirror_stored {g : Hub} (hf : h.findSk (Rec.ofBytes mm.image).sk = none)
    (hg : h.grnLog (objKey 2 (Rec.ofBytes mm.image).nsi.toNat) 0 mm.toks.length (Rec.ofBytes mm.image).keygen = some g) :
    Ends (.mirror tm src mm) s (({ g with mirrors := smPut g.mirrors (Rec.ofBytes mm.image).sk.toNat ⟨src, mm⟩ } : Hub).addDur 1
      (4 * mm.toks.length) (.mirror (Rec.ofBytes mm.image).sk)) := by
  show execMirror tm src mm s = _
  unfold execMirror
  refine onHub_ends hh ?_
  dsimp only
  rw [hf]; dsimp only
  rw [hg]

theorem mirror_noRoom (hf : h.findSk (Rec.ofBytes mm.image).sk = none)
    (hg : h.grnLog (objKey 2 (Rec.ofBytes mm.image).nsi.toNat) 0 mm.toks.length (Rec.ofBytes mm.image).keygen = none) :
    Ends (.mirror tm src mm) s (h.p F.TIERSTAT_logblk 1) := by
  show execMirror tm src mm s = _
  unfold execMirror
  refine onHub_ends hh ?_
  dsimp only
  rw [hf]; dsimp only
  rw [hg]

/-- An entry of the writes in progress is an intake of session `i` that waits for its mirror (log 25). -/
def mirrorIntake (i : Handle) (e : Nat × DurWait) : Bool :=
  match e.2 with
  | .intakeMirror j _ _ => j == i
  | _ => false

/-- A mirror of a session that this device holds tells that its intake has been mirrored (log 25). -/
theorem mirror_lands {i : Handle} {id : Nat} {c : Option Sub} {toks : List (BitVec 32)}
    (hf : h.findSk (Rec.ofBytes mm.image).sk = some i) (ho : src ≠ (Rec.ofBytes mm.image).ownDev)
    (hd : h.durs.find? (mirrorIntake i) = some (id, .intakeMirror i c toks)) :
    Ends (.mirror tm src mm) s (({ h with durs := smDel h.durs id } : Hub).landIntake i c toks) := by
  show execMirror tm src mm s = _
  unfold execMirror
  refine onHub_ends hh ?_
  dsimp only
  rw [hf]; dsimp only
  rw [if_neg ho]
  split
  · next e => cases hd.symm.trans e; rfl
  · next e => exact absurd hd (e _ _ _ _)

end
end

/-- Settles O33, message by message: an offer by the first check that refuses it, a part by what is staged of its migration, a mirror by
whether its session is held here. -/
theorem migrationReceives : Obligations.MigrationReceives := by
  refine ⟨fun tm src m i g s => ?offers, fun tm src sk body x o s => ?parts, fun tm src mm i g id c toks s => ?mirrors⟩
  case offers =>
    intro h d window gram stop present refused older asked bit full y
    have stamped : s.hub.stamp tm = h := rfl
    obtain ⟨sameSk, sameFree, sameGram, sameStop, sameWin, sameRoot, sameGi, sameAsks, sameNt, sameVal⟩ := dropStaged_checks h src m m.sk
    have unknown (hf : s.hub.findSk m.sk = none) : (h.otherHolder m.sk (m.epoch - 1)).dropStaged m.sk = d := by
      rw [otherHolder_unknown h _ _ hf]
    have noSk (hf : s.hub.findSk m.sk = none) : d.findSk m.sk = none := (sameSk _).trans hf
    refine ⟨fun hf ho => ?held, fun hf hn ho => ?conflict, fun hf hc => ?noHandle, fun hf hc => ?checks⟩
    case held =>
      have same : (h.otherHolder m.sk (m.epoch - 1)).dropStaged m.sk = d := by rw [otherHolder_older h i _ _ hf ho]
      have found : (d.findSk m.sk).isSome = true := by rw [sameSk]; exact Option.isSome_of_mem hf
      exact (offer_refused stamped same (checkOffer_known d src m found) (by decide)).becomes (alike_refl _)
    case conflict =>
      have same : (h.otherHolder m.sk (m.epoch - 1)).dropStaged m.sk = (h.ownerMismatch i (m.epoch - 1)).dropStaged m.sk := by
        rw [otherHolder_newer h i _ _ hf hn ho]
      have found : (((h.ownerMismatch i (m.epoch - 1)).dropStaged m.sk).findSk m.sk).isSome = true := by
        rw [(dropStaged_checks _ src m m.sk).1]
        exact findSk_ownerMismatch h i m.sk _ (Option.isSome_of_mem hf)
      exact (offer_refused stamped same (checkOffer_known _ src m found) (by decide)).becomes (alike_refl _)
    case noHandle =>
      exact (offer_refused stamped (unknown hf) (checkOffer_noHandle d src m (noSk hf) (sameFree.trans hc)) (by decide)).becomes (alike_refl _)
    case checks =>
      have checked := checkOffer_handle d i src m (noSk hf) (sameFree.trans hc)
      rw [sameGram, sameStop, sameWin, sameGi, show d.rootIndex i = s.hub.rootIndex i from sameRoot i] at checked
      have gramIff : h.gramHeld m = true ↔ gram := gramHeld_iff h m
      have stopIff : h.stopHeld m = true ↔ stop := stopHeld_iff h m
      refine ⟨fun hg => ?gram, fun hg hs => ?stop, fun hg hs hw => ?window, fun hg hs hp hw => ?space⟩
      case gram =>
        rw [if_pos (by simpa using mt gramIff.1 hg)] at checked
        exact (offer_refused stamped (unknown hf) checked (by decide)).becomes (alike_refl _)
      case stop =>
        rw [if_neg (by simpa using gramIff.2 hg), if_pos (by simpa using mt stopIff.1 hs)] at checked
        exact (offer_refused stamped (unknown hf) checked (by decide)).becomes (alike_refl _)
      case window =>
        have bars : (decide (h.gi F.PARTCTL_present m.part.toNat ≠ 1) || !h.windowHeld m) = true := by
          rw [Bool.or_eq_true, decide_eq_true_eq, Bool.not_eq_true']; exact hw
        rw [if_neg (by simpa using gramIff.2 hg), if_neg (by simpa using stopIff.2 hs), if_pos bars] at checked
        exact (offer_refused stamped (unknown hf) checked (by decide)).becomes (alike_refl _)
      case space =>
        have passes : ¬(decide (h.gi F.PARTCTL_present m.part.toNat ≠ 1) || !h.windowHeld m) = true := by
          rw [Bool.or_eq_true, decide_eq_true_eq, Bool.not_eq_true', not_or, not_not, Bool.not_eq_false]; exact ⟨hp, hw⟩
        rw [if_neg (by simpa using gramIff.2 hg), if_neg (by simpa using stopIff.2 hs), if_neg passes] at checked
        have isFull : full = d.evicting := by
          unfold evicting
          rw [show d.on F.TIERCTL_evict_en = s.hub.on F.TIERCTL_evict_en from congrArg (· == 1) (sameGi _ 0)]
        have fulls (hr : d.checkOffer src m = .inl 6) : Becomes (.offer tm src m) s (full.send src (.refuse m.sk 6)) :=
          isFull ▸ (offer_noSpace stamped (unknown hf) hr).becomes (alike_refl _)
        refine ⟨fun hn => fulls (checked.trans (offerTaken_full d src m _ hn)), fun hg => ?_⟩
        obtain ⟨k, e⟩ := offerSpace_eq d src m _ g hg
        have asks : g.asksGroup src m = true ↔ asked := by
          rw [show g.asksGroup src m = d.asksGroup src m by rw [e]; rfl, sameAsks]; exact asksGroup_iff h src m
        have val : (Config.freeValue g.free).getLsbD 0 = bit := by rw [e, show ({ d with kv := k } : Hub).free = s.hub.free from sameVal]
        have staged : ({ g with migIn := smPut g.migIn m.sk.toNat y } : Hub) = g.offerStaged src m (s.hub.rootIndex i) := by
          unfold offerStaged
          rw [show g.nt = h.nt by rw [e]; exact sameNt]
        refine ⟨fun ha hb => fulls (checked.trans ?_), fun ha => ?_⟩
        · rw [offerTaken_asked d src m _ g hg (asks.2 ha), val, if_pos hb]
        · rw [staged]
          by_cases alone : asked
          · have free : bit = false := ha.resolve_left (not_not.2 alone)
            rw [offerTaken_asked d src m _ g hg (asks.2 alone), val, if_neg (by rw [free]; decide)] at checked
            have accepted := offer_accepted stamped (unknown hf) checked
            rw [offerStaged_fresh, send_fresh] at accepted
            exact accepted.becomes (alike_refl _)
          · rw [offerTaken_alone d src m _ g hg (Bool.eq_false_iff.2 (mt asks.1 alone))] at checked
            exact (offer_accepted stamped (unknown hf) checked).becomes (alike_refl _)
  case parts =>
    intro h v ofKv
    have stamped : s.hub.stamp tm = h := rfl
    refine ⟨fun hx hb => (part_staged stamped hx hb).becomes (alike_refl _), fun hx => (part_last stamped hx).becomes (alike_refl _),
      fun hx hb hg hf => ?opens, fun hx hn => part_ignored stamped hx hn,
      fun hx ho => (part_damaged stamped hx ho).becomes (alike_refl _),
      fun hx ht => (stagingTimeout_reached stamped hx ht).becomes (alike_refl _), fun hx ht => stagingTimeout_idle stamped hx ht⟩
    have cache : cachePart body = true := by rcases hb with ⟨_, _, _, _, _, _, rfl⟩ | ⟨_, _, _, _, _, rfl⟩ <;> rfl
    exact (part_opens stamped hx cache hg hf).becomes (alike_refl _)
  case mirrors =>
    intro h r mine
    have stamped : s.hub.stamp tm = h := rfl
    exact ⟨fun hf hg => (mirror_stored stamped hf hg).becomes (alike_refl _), fun hf hg => (mirror_noRoom stamped hf hg).becomes (alike_refl _),
      fun hf ho hd => mirror_lands stamped hf ho hd⟩

end Sys2Proof.Machine
end

section
/-! The sending side of a migration (O34): what a resumed program leaves of the hub, what an abort changes beside its session, and each
message and timer in each of its cases. -/

namespace Sys2Proof.Machine
open Hub

/-! ### What a resumed program leaves -/

/-- Hub `b` is `a` once the program of session `i` may go on: beside sessions and the sequencers' queues all is as it was, and of that
session the events queued and the mark of a reached timeout. -/
structure Resumes (a b : Hub) (i : Handle) : Prop where
  rest : { b.rest with seqq := [] } = { a.rest with seqq := [] }
  reg : ∀ r, b.reg r = a.reg r
  queued : (b.s i).queued = (a.s i).queued
  waitHit : (b.s i).waitHit = (a.s i).waitHit

namespace Resumes

variable {a b c : Hub} {i : Handle}

theorem refl (a : Hub) (i : Handle) : Resumes a a i := ⟨rfl, fun _ => rfl, rfl, rfl⟩

theorem trans (e : Resumes a b i) (f : Resumes b c i) : Resumes a c i :=
  ⟨f.rest.trans e.rest, fun r => (f.reg r).trans (e.reg r), f.queued.trans e.queued, f.waitHit.trans e.waitHit⟩

theorem modS (a : Hub) (i : Handle) (f : Sess → Sess) (hq : (f (a.s i)).queued = (a.s i).queued)
    (hw : (f (a.s i)).waitHit = (a.s i).waitHit) : Resumes a (a.modS i f) i :=
  ⟨rfl, fun _ => rfl, by rw [s_modS_same, hq], by rw [s_modS_same, hw]⟩

theorem ready (a : Hub) (i : Handle) : Resumes a (a.ready i) i := by
  refine ⟨?_, fun r => ?_, by rw [s_ready_same], by rw [s_ready_same]⟩ <;> unfold Hub.ready <;> split <;> rfl

theorem endInstr (a : Hub) (i : Handle) (dst : Option (BitVec 4 × W64)) (st : BitVec 8) (d : Nat) : Resumes a (a.endInstr i dst st d) i := by
  unfold Hub.endInstr; dsimp only
  refine (modS a i _ ?_ ?_).trans (ready _ i) <;> rfl

theorem unhold (a : Hub) (i : Handle) : Resumes a (a.unhold i) i := by
  unfold Hub.unhold
  split
  · split
    · exact refl a i
    · refine (modS a i _ ?_ ?_).trans (ready _ i) <;> rfl
  · exact refl a i

end Resumes

namespace Hub

variable (h : Hub) (i : Handle)

/-- The settling of a session with no action, RELEASE or DROP held: nothing, or its held instruction goes on. -/
theorem settled_calm (h1 : (h.s i).actions = []) (h2 : (h.s i).relHeld = none) (h3 : (h.s i).dropHeld = false) :
    h.settled i = h.modS i (fun x => { x with actions := [] }) ∨ h.settled i = h ∨ h.settled i = h.unhold i := by
  unfold settled settle; dsimp only
  rw [h1, h2]; dsimp only
  by_cases hf : (h.s i).r.state == S.free
  · rw [if_pos hf, List.foldl_nil, renewed_none _ i (by rw [s_modS_same]; rfl)]
    exact .inl rfl
  · rw [if_neg hf]
    by_cases hh : h.holds i = true
    · rw [if_pos hh, renewed_none _ i (by rw [h1]; rfl)]
      exact .inr (.inl rfl)
    · rw [if_neg hh, h3, if_neg (by simp), renewed_none _ i (by rw [actions_unhold, h1]; rfl)]
      exact .inr (.inr rfl)

theorem settled_resumes (h1 : (h.s i).actions = []) (h2 : (h.s i).relHeld = none) (h3 : (h.s i).dropHeld = false) :
    Resumes h (h.settled i) i := by
  rcases settled_calm h i h1 h2 h3 with e | e | e <;> rw [e]
  · exact Resumes.modS h i _ rfl rfl
  · exact Resumes.refl h i
  · exact Resumes.unhold h i

/-! ### An abort (R177) -/

theorem reg_inc_ne {a : Nat} (f : Fld) (n : Nat) (ha : a ≠ f.a) : (h.inc f n).reg a = h.reg a := reg_p_ne h f _ ha

theorem reg_jent {a : Nat} (code : Nat) (b c : BitVec 4) (data : Nat) (ha : a ≠ F.DGJPOS_position.a) :
    (h.jent i code b c data).reg a = h.reg a := by
  unfold jent; dsimp only
  rw [reg_modR, reg_p_ne _ F.DGJPOS_position _ ha]
  rfl

/-- A transition that gives no NOTICE leaves every register but the session journal's position. -/
theorem reg_trans {a : Nat} (dst : BitVec 4) (st : BitVec 8) (code data : Nat) (hc : noticed code = false) (ha : a ≠ F.DGJPOS_position.a) :
    (h.trans i dst st code data).reg a = h.reg a := by
  unfold trans; dsimp only
  rw [if_neg (by simp [hc]), reg_jent _ i _ _ _ _ ha, reg_modR]

theorem rest_jent (code : Nat) (a b : BitVec 4) (data : Nat) : (h.jent i code a b data).rest = h.rest := by
  unfold jent; dsimp only
  rw [rest_modR, rest_of_still (still_p _ _ _)]
  rfl

theorem rest_trans (dst : BitVec 4) (st : BitVec 8) (code data : Nat) : (h.trans i dst st code data).rest = h.rest := by
  unfold trans; dsimp only
  split
  · rw [rest_of_still (still_notice _ i code data), rest_jent, rest_modR]
  · rw [rest_jent, rest_modR]

theorem reg_migRecord {a : Nat} (r : Rec) (c : Option Sub) (st : BitVec 8) (d : Nat) (n : W64) (ha : a ∉ reportRegs) :
    (h.migRecord r c st d n).reg a = h.reg a := by
  unfold migRecord; dsimp only
  exact reg_pushRec h _ _ _ r.part.isLt ha

theorem rest_migRecord (r : Rec) (c : Option Sub) (st : BitVec 8) (d : Nat) (n : W64) : (h.migRecord r c st d n).rest = h.rest := by
  unfold migRecord; dsimp only
  exact rest_of_still (still_pushRec h _ _ _)

variable (m : MigOut) (reason : Nat)

/-- The hub once an abort is recorded and counted, its session back in the state before and its program not yet resumed. -/
def migAborted : Hub :=
  let g := (h.trans i (h.s i).r.prior St.ok 0x0053 reason).inc F.MIGABORT_count
  (g.modS i (fun x => { x with migOut := none })).migRecord (h.s i).r m.sub St.migrateAborted reason 0

theorem rest_migAborted : (h.migAborted i m reason).rest = h.rest := by
  unfold migAborted; dsimp only
  rw [rest_migRecord, rest_modS, rest_of_still (still_inc _ F.MIGABORT_count 1), rest_trans]

/-- An abort counts. -/
theorem g_migAborted : (h.migAborted i m reason).g F.MIGABORT_count = satAdd 64 (h.g F.MIGABORT_count) 1 := by
  have moved : (h.trans i (h.s i).r.prior St.ok 0x0053 reason).g F.MIGABORT_count = h.g F.MIGABORT_count :=
    g_of_reg F.MIGABORT_count (reg_trans h i _ _ _ _ (by decide) (by decide))
  unfold migAborted; dsimp only
  rw [g_of_reg F.MIGABORT_count (reg_migRecord _ _ _ _ _ _ (by decide)), g_modS, g_inc_same _ F.MIGABORT_count 1 (by decide), moved]
  rfl

/-- Beside reports an abort changes no register but its count and the session journal's position. -/
theorem reg_migAborted {a : Nat} (ha : a ∉ reportRegs) (hn : a ∉ [F.MIGABORT_count.a, F.DGJPOS_position.a]) :
    (h.migAborted i m reason).reg a = h.reg a := by
  rw [List.mem_cons, List.mem_singleton, not_or] at hn
  unfold migAborted; dsimp only
  rw [reg_migRecord _ _ _ _ _ _ ha, reg_modS, reg_inc_ne _ F.MIGABORT_count 1 hn.1, reg_trans h i _ _ _ _ (by decide) hn.2]

theorem s_migAborted : ((h.migAborted i m reason).s i).queued = (h.s i).queued
    ∧ ((h.migAborted i m reason).s i).waitHit = (h.s i).waitHit := by
  unfold migAborted; dsimp only
  rw [s_of_sess (sess_migRecord _ _ _ _ _ _), s_modS_same, s_of_sess (sess_inc _ F.MIGABORT_count 1), s_trans_same]
  exact ⟨rfl, rfl⟩

/-- With no event queued and no timeout reached, leaving MIGRATING only clears the queue of events. -/
theorem drainQueued_quiet (hq : (h.s i).queued = 0) (hw : (h.s i).waitHit = false) :
    h.drainQueued i = h.modS i (fun x => { x with queued := 0 }) := by
  unfold drainQueued; dsimp only
  rw [hq, s_modS_same, hw]
  simp

/-- After an abort is recorded at most its session's program goes on. -/
theorem abortMig_resumes (hm : (h.s i).migOut = some m) (hq : (h.s i).queued = 0) (hw : (h.s i).waitHit = false) :
    Resumes (h.migAborted i m reason) (h.abortMig i reason) i := by
  obtain ⟨q, w⟩ := s_migAborted h i m reason
  have drained (g : Hub) (e : Resumes (h.migAborted i m reason) g i) : Resumes (h.migAborted i m reason) (g.drainQueued i) i := by
    have none_ : (g.s i).queued = 0 := e.queued.trans (q.trans hq)
    rw [drainQueued_quiet g i none_ (e.waitHit.trans (w.trans hw))]
    exact e.trans (Resumes.modS g i _ none_.symm rfl)
  unfold abortMig; dsimp only
  rw [hm]; dsimp only
  refine drained _ ?_
  split
  · exact Resumes.endInstr _ i _ _ _
  · split
    · refine (Resumes.modS _ i _ ?_ ?_).trans (Resumes.endInstr _ i _ _ _) <;> rfl
    · exact Resumes.refl _ i
  · split
    · exact Resumes.ready _ i
    · exact Resumes.refl _ i

/-! ### The session that migrates -/

theorem outTo_some {src : BitVec 6} {sk : BitVec 128} (ho : h.outTo src sk = some (i, m)) : (h.s i).migOut = some m := by
  unfold outTo at ho
  split at ho
  · cases ho
  · split at ho
    · cases ho
    · next e => split at ho <;> cases ho; exact e

theorem outBeside_some {src : BitVec 6} {sk : BitVec 128} (ho : h.outBeside src sk = some (i, m)) : (h.s i).migOut = some m := by
  unfold outBeside at ho
  split at ho
  · cases ho
  · split at ho
    · cases ho
    · next e => split at ho <;> cases ho; exact e

theorem s_sendProbe_same (d : BitVec 6) :
    (h.sendProbe i d).s i = { h.s i with probe := some (d, BitVec.ofNat 64 (h.nt.toNat + h.migProbe)) } := by
  unfold sendProbe; dsimp only
  rw [s_send, s_modS_same]

theorem s_sendProbe_ne (d : BitVec 6) (j : Handle) (hj : j ≠ i) : (h.sendProbe i d).s j = h.s j := by
  unfold sendProbe; dsimp only
  rw [s_send, s_modS_ne _ i j _ hj]

end Hub

section
variable {tm : Nt} {src : BitVec 6} {sk : BitVec 128} {i : Handle} {m : MigOut} {s : State} {h : Hub} (hh : s.hub.stamp tm = h)
include hh

/-! ### ACCEPT -/

theorem accept_sends (ho : h.outTo src sk = some (i, m)) (ha : m.answered = false) : Ends (.accept tm src sk) s
    ((h.sendParts i m).modS i (fun x =>
      { x with migOut := some { m with answered := true, due := BitVec.ofNat 64 (h.nt.toNat + h.migTmo) } })) := by
  show execAccept tm src sk s = _
  unfold execAccept
  refine onHub_ends hh ?_
  rw [ho]; dsimp only
  rw [if_neg (by simp [ha])]

theorem accept_again (ho : h.outTo src sk = some (i, m)) (ha : m.answered = true) : Ends (.accept tm src sk) s h := by
  show execAccept tm src sk s = _
  unfold execAccept
  refine onHub_ends hh ?_
  rw [ho]; dsimp only
  rw [if_pos ha]

/-! ### REFUSE -/

/-- A REFUSE of the receiver aborts. -/
theorem refuse_aborts (reason : BitVec 8) (ho : h.outTo src sk = some (i, m)) :
    Ends (.refuse tm src sk reason) s ((h.abortMig i reason.toNat).settled i) := by
  show execRefuse tm src sk reason s = _
  unfold execRefuse
  refine onHub_ends hh ?_
  rw [ho, Option.some_or]

/-- A REFUSE for a damaged part aborts whichever device of the receiver's group sends it (R177). -/
theorem refuse_beside (ho : h.outTo src sk = none) (hb : h.outBeside src sk = some (i, m)) :
    Ends (.refuse tm src sk 0x0A) s ((h.abortMig i 0x0A).settled i) := by
  show execRefuse tm src sk 0x0A s = _
  unfold execRefuse
  refine onHub_ends hh ?_
  rw [ho, Option.none_or, if_pos rfl, hb]
  rfl

theorem refuse_ignored (reason : BitVec 8) (ho : h.outTo src sk = none) (hb : h.outBeside src sk = none ∨ reason ≠ 0x0A) :
    Ends (.refuse tm src sk reason) s h := by
  have none_ : (if reason = 0x0A then h.outBeside src sk else none) = none := by
    split
    · next e => exact hb.resolve_right (not_not.2 e)
    · rfl
  show execRefuse tm src sk reason s = _
  unfold execRefuse
  refine onHub_ends hh ?_
  rw [ho, Option.none_or, none_]

/-! ### ACK -/

theorem ack_unasked (epoch : BitVec 16) (nsi : W64) (ho : h.outTo src sk = none) :
    Ends (.ack tm src sk epoch nsi) s (h.otherHolder sk epoch) := by
  show execAck tm src sk epoch nsi s = _
  unfold execAck
  refine onHub_ends hh ?_
  rw [ho]

theorem ack_done (nsi : W64) (ho : h.outTo src sk = some (i, m)) :
    Ends (.ack tm src sk ((h.s i).r.ownEpoch + 1) nsi) s (h.migDone i m nsi) := by
  show execAck tm src sk _ nsi s = _
  unfold execAck
  refine onHub_ends hh ?_
  rw [ho]; dsimp only
  rw [if_pos rfl]

/-! ### OFFER_TIMEOUT and ACK_TIMEOUT -/

variable (hm : (h.s i).migOut = some m)
include hm

theorem offerTimeout_aborts (ha : m.answered = false) (hd : m.due ≤ h.nt) :
    Ends (.offerTimeout tm i) s ((h.abortMig i 8).settled i) := by
  show execOfferTimeout tm i s = _
  unfold execOfferTimeout
  refine onHub_ends hh ?_
  rw [hm]; dsimp only
  rw [if_neg (by simpa [ha] using hd)]

theorem offerTimeout_idle (hd : h.nt < m.due) : Ends (.offerTimeout tm i) s h := by
  show execOfferTimeout tm i s = _
  unfold execOfferTimeout
  refine onHub_ends hh ?_
  rw [hm]; dsimp only
  rw [if_pos (by simp [hd])]

/-- The time for the ACK has come: the migration is aborted, and the session is in mismatch with the epoch offered (R176, R180). -/
theorem ackTimeout_aborts (ha : m.answered = true) (hp : h.partsQueued (h.s i).r.sk m.target = false) (hd : m.due ≤ h.nt) :
    Ends (.ackTimeout tm i) s
      ((((h.abortMig i 7).ownerMismatch i ((h.s i).r.ownEpoch + 1)).sendProbe i m.target).settled i) := by
  show execAckTimeout tm i s = _
  unfold execAckTimeout
  refine onHub_ends hh ?_
  rw [hm]; dsimp only
  rw [if_neg (by simpa [ha, hp] using hd)]

/-- The time for the ACK has not come before its due time, nor while the last part waits to leave. -/
theorem ackTimeout_idle (hd : h.partsQueued (h.s i).r.sk m.target = true ∨ h.nt < m.due) : Ends (.ackTimeout tm i) s h := by
  show execAckTimeout tm i s = _
  unfold execAckTimeout
  refine onHub_ends hh ?_
  rw [hm]; dsimp only
  rw [if_pos (by rcases hd with hd | hd <;> simp [hd])]

end

/-- Settles O34: each message and timer by its law; an abort by what it records and what the resumption of its program leaves. -/
theorem migrationSends : Obligations.MigrationSends := by
  intro tm src sk i m nsi epoch reason s h x calm back
  have stamped : s.hub.stamp tm = h := rfl
  have aborted (c : Instr) (r : Nat) (hm : x.migOut = some m) (hc : calm) (e : Ends c s ((h.abortMig i r).settled i)) :
      Answers c s (fun t => back t r) := by
    obtain ⟨hq, hw, h1, h2, h3⟩ := hc
    obtain ⟨a1, a2, a3, a4, a5, a6, a7, -, -, a8⟩ := abortMig_same h i m r hm hq hw
    have b1 := a3.trans h1
    have b2 := a4.trans h2
    have b3 := a5.trans h3
    have keeps := settled_keeps (h.abortMig i r) i b1 b2 b3
    have resumes := (abortMig_resumes h i m r hm hq hw).trans (settled_resumes _ i b1 b2 b3)
    refine e.answers ⟨?state, ?out, ⟨rfl, rfl⟩, ?count, ?rest, fun a ha hn => ?regs, fun j hj => ?others, fun hb hp => ?runs, fun d hb => ?ends⟩
    case state => rw [rec_finish, keeps.r]; exact a1
    case out => rw [s_migOut_finish, keeps.mig]; exact a2
    case count =>
      rw [g_finish _ _ F.MIGABORT_count (by decide), g_of_reg F.MIGABORT_count (resumes.reg _)]
      exact g_migAborted h i m r
    case rest => rw [rest_finish, resumes.rest, rest_migAborted]
    case regs =>
      rw [reg_finish _ _ ha, resumes.reg]
      exact reg_migAborted h i m r ha hn
    case others => rw [kept_finish, keeps.others j hj, abortMig_ne h i j r hq hw hj]; rfl
    case runs =>
      rw [s_runnable_finish, (keeps.blk (a7 hb)).1]
      exact a6 hb hp
    case ends =>
      obtain ⟨c1, c2, c3, -⟩ := a8 d hb
      rw [rec_finish, keeps.r]
      exact ⟨c1, c2, c3⟩
  refine ⟨fun ho ha => (accept_sends stamped ho ha).becomes (alike_refl _), fun ho ha => accept_again stamped ho ha,
    fun ho hc => aborted _ _ (outTo_some h i m ho) hc (refuse_aborts stamped reason ho),
    fun ho hb => refuse_ignored stamped reason ho hb,
    fun ho hb hc => aborted _ _ (outBeside_some h i m hb) hc (refuse_beside stamped ho hb),
    fun ho => ack_unasked stamped epoch nsi ho, fun hm _ hp => ackTimeout_idle stamped hm (.inl hp),
    fun hm ha hd hc => aborted _ _ hm hc (offerTimeout_aborts stamped hm ha hd),
    fun hm hd => ⟨offerTimeout_idle stamped hm hd, ackTimeout_idle stamped hm (.inr hd)⟩, fun ho => ?done, fun hm ha hp hd hc hb => ?late⟩
  case done =>
    obtain ⟨gone, others⟩ := s_migDone h i m nsi
    refine (ack_done stamped nsi ho).answers ⟨?_, ⟨rfl, rfl⟩, fun j hj => ?_⟩
    · rw [kept_finish, gone]
    · rw [kept_finish, others j hj]; rfl
  case late =>
    obtain ⟨hq, hw, h1, h2, h3⟩ := hc
    obtain ⟨a1, -, a3, a4, a5, -, a7, -, -, -⟩ := abortMig_same h i m 7 hm hq hw
    have unblocked : ∀ d, ((h.abortMig i 7).s i).blk ≠ some (.prefill d) := fun d e => nomatch (a7 hb).symm.trans e
    have same := s_sendProbe_same ((h.abortMig i 7).ownerMismatch i ((h.s i).r.ownEpoch + 1)) i m.target
    rw [s_ownerMismatch_same _ i _ unblocked] at same
    obtain ⟨q1, q2, q3, q4⟩ := settled_quiet i (((h.abortMig i 7).ownerMismatch i ((h.s i).r.ownEpoch + 1)).sendProbe i m.target)
      (by rw [same]; exact a3.trans h1) (by rw [same]; exact a4.trans h2) (by rw [same]; exact a5.trans h3)
    rw [same] at q1 q2 q3
    refine (ackTimeout_aborts stamped hm ha hp hd).answers ?_
    rw [rec_finish, s_seen_finish, s_probe_finish]
    refine ⟨(congrArg Rec.state q1).trans a1, congrArg Rec.omm q1, congrArg Rec.lastStatus q1, q2, congrArg (Option.map Prod.fst) q3,
      ⟨rfl, rfl⟩, fun j hj => ?_⟩
    rw [kept_finish, q4 j hj, s_sendProbe_ne _ i _ j hj, s_ownerMismatch_ne _ i j _ hj, abortMig_ne h i j 7 hq hw hj]
    rfl

end Sys2Proof.Machine
end

section
/-! Vector slots that act element by element (O8), and reductions lane by lane (O10). -/

namespace Sys2Proof.Machine

/-! ### Element-wise slots (R198, R199, R264) -/

section

variable (x : Stone) (w : W64) (n : Nat) (two useDst : Bool) (f : F32 → F32 → F32 → F32)

theorem length_elementwise_out : (elementwise x w n two useDst f).out.length = 64 * wf w 13 6 := by
  simp [elementwise]

/-- A result is the operation on the elements that stand at its place in the sources. -/
theorem elementwise_out_getD (k : Nat) (hk : k < 64 * wf w 13 6) :
    (elementwise x w n two useDst f).out.getD k 0 = f (x.f32 (wf w 41 28) k) (x.f32 (wf w 27 14) k) (x.f32 (wf w 55 42) k) := by
  rw [← Stone.f32s_getD x (wf w 41 28) _ k hk, ← Stone.f32s_getD x (wf w 27 14) _ k hk, ← Stone.f32s_getD x (wf w 55 42) _ k hk]
  simp only [elementwise]
  rw [Stone.map_getD _ _ _ _ 0 (by simpa using hk)]
  simp [hk]

end

/-- A slot that runs an element-wise operation leaves its results at dst. -/
theorem elementwise_slot {c : Instr} {op : Nat} {tm : Nt} {l : BitVec 11} {w : W64} {bad : Bool} {s : State} {n : Nat} {two useDst : Bool}
    {f : F32 → F32 → F32 → F32} (he : exec c s = vecExec op tm l w bad (fun st => elementwise st w n two useDst f) s)
    (hok : vectorOk op w = true) : Elementwise c tm s l w f := by
  have hlen := length_elementwise_out (s.stn.get l) w n two useDst f
  refine (vecSlot_f32s (d := (elementwise (s.stn.get l) w n two useDst f).out) he hok fun p => ⟨_, rfl⟩).imp
    fun t h => ⟨fun k hk => ?_, h.2⟩
  rw [Stone.f32_of_lines h.1, Stone.f32_putF32s _ _ _ _ (by omega) k (by omega)]
  exact elementwise_out_getD _ w n two useDst f k hk

/-- Settles O8: each slot runs one element-wise operation. -/
theorem vectorElementwise : Obligations.VectorElementwise := fun _ _ _ _ _ =>
  ⟨elementwise_slot rfl, elementwise_slot rfl, elementwise_slot rfl, elementwise_slot rfl, elementwise_slot rfl, elementwise_slot rfl,
    elementwise_slot rfl, elementwise_slot rfl, elementwise_slot rfl⟩

/-! ### The aligned binary tree (R200) -/

section

variable (g : F32 → F32 → F32)

/-- One level of the tree over an even number of values combines each with its neighbour. -/
theorem treeLevel_pairs (x : Nat → F32) (m : Nat) :
    treeLevel g ((List.range (2 * m)).map x) = (List.range m).map (fun i => g (x (2 * i)) (x (2 * i + 1))) := by
  induction m generalizing x with
  | zero => rfl
  | succ m ih =>
    have two : (List.range (2 * (m + 1))).map x = x 0 :: x 1 :: (List.range (2 * m)).map (fun i => x (i + 2)) := by
      rw [Nat.mul_succ, List.range_succ_eq_map, List.range_succ_eq_map]
      simp [Function.comp_def]
    rw [two, treeLevel, ih, List.range_succ_eq_map]
    simp [Function.comp_def, Nat.mul_add]

/-- The aligned tree over neighbours combined is the tree one level higher. -/
theorem alignedTree_pairs (x : Nat → F32) (k a : Nat) :
    alignedTree g (fun i => g (x (2 * i)) (x (2 * i + 1))) k a = alignedTree g x (k + 1) (2 * a) := by
  induction k generalizing a with
  | zero => rfl
  | succ k ih =>
    rw [alignedTree, ih, ih, Nat.mul_add, ← Nat.pow_succ']; rfl

theorem tree_aligned (x : Nat → F32) (k n : Nat) (hn : k ≤ n) : tree g n ((List.range (2 ^ k)).map x) = [alignedTree g x k 0] := by
  induction k generalizing x n with
  | zero => cases n <;> rfl
  | succ k ih =>
    obtain ⟨n, rfl⟩ : ∃ m, n = m + 1 := ⟨n - 1, by omega⟩
    have more : 2 ≤ ((List.range (2 ^ (k + 1))).map x).length := by
      have := Nat.two_pow_pos k
      rw [List.length_map, List.length_range, Nat.pow_succ']
      omega
    rw [tree.eq_4 _ _ _ (fun e => by simp [e] at more) (fun a e => by simp [e] at more), Nat.pow_succ', treeLevel_pairs,
      ih _ n (by omega), alignedTree_pairs]

/-- Level by level over `2 ^ k` values the tree has the root that halving gives. -/
theorem treeRoot_aligned (d : F32) (x : Nat → F32) (k : Nat) :
    treeRoot g d ((List.range (2 ^ k)).map x) = alignedTree g x k 0 := by
  unfold treeRoot
  rw [tree_aligned g x k _ (by simpa using Nat.lt_two_pow_self.le)]
  rfl

end

/-! ### Reductions (R202) -/

/-- Lane `j` of a reduction of `c` vectors at line `A`: its elements combined in ascending order. -/
def laneFold (x : Stone) (A c : Nat) (start : F32) (step : F32 → F32 → F32) (j : Nat) : F32 :=
  (List.range c).foldl (fun acc k => step acc (x.f32 A (j + 64 * k))) start

theorem lane_foldl (x : Stone) (A c : Nat) (start : F32) (step : F32 → F32 → F32) (j : Nat) (hj : j < 64) :
    (lane (x.f32s A (64 * c)) j c).foldl step start = laneFold x A c start step j := by
  unfold lane laneFold
  rw [List.foldl_map]
  refine List.foldl_ext _ _ _ fun acc k hk => ?_
  have := List.mem_range.1 hk
  rw [Stone.f32s_getD x A _ _ (by omega)]

/-- The lanes' results combined by the tree. -/
theorem treeRoot_lanes (x : Stone) (A c : Nat) (d start : F32) (step comb : F32 → F32 → F32) :
    treeRoot comb d ((List.range 64).map (fun j => (lane (x.f32s A (64 * c)) j c).foldl step start))
      = alignedTree comb (laneFold x A c start step) 6 0 := by
  rw [List.map_congr_left (g := laneFold x A c start step) (fun j hj => lane_foldl x A c start step j (List.mem_range.1 hj))]
  exact treeRoot_aligned comb d _ 6

/-- Settles O10: the value that VRED leaves is the aligned tree over the lanes, operator by operator. -/
theorem vectorReduction : Obligations.VectorReduction := by
  intro tm l w bad s x c D e lane root hok
  have reduces {op : Nat} {v : F32} (hv : vred op (x.f32s (wf w 41 28) (64 * c)) c = v) : root op v := fun ho =>
    (vred_reduces tm l w bad s hok).imp fun t ⟨hres, hframe, _⟩ => ⟨hres.trans (by rw [ho]; exact hv), hframe⟩
  exact ⟨reduces (treeRoot_lanes x _ c _ zero32 add32 add32), reduces (treeRoot_lanes x _ c _ negInf32 max32 max32),
    reduces (treeRoot_lanes x _ c _ zero32 (fun acc a => fma32 a a acc) add32)⟩

end Sys2Proof.Machine
end

section
/-! Matrix slots: MMA, MMAI and MCFG (O11). -/

namespace Sys2Proof.Machine

/-! ### A matrix slot by its result -/

/-- A matrix slot whose operation leaves its stone as `y`, whatever lines are poisoned, leaves its lines and what it holds beside them; where
these lines differ from those before at `n` lines from `D` on alone, nothing else changes beside the counts of the matrix unit. -/
theorem matSlot_stone {c : Instr} {op : Nat} {tm : Nt} {l : BitVec 11} {w : W64} {bad : Bool} {f : Hub → Stone → OpRes} {s : State}
    {y : Stone} {D n : Nat} (he : exec c s = stoneOp tm l (matrixOk op w) bad F.INTMRES_count 0x01 f s) (hok : matrixOk op w = true)
    (hf : ∀ h p, h.kvGeom = s.hub.kvGeom → ∃ q, (f h { s.stn.get l with poison := p }).st = { y with poison := q })
    (hline : ∀ i, i < D ∨ D + n ≤ i → y.line i = (s.stn.get l).line i) :
    Answers c s (fun t => (t.stn.get l).lines = y.lines ∧ (t.stn.get l).setup = y.setup ∧ ScratchFrame s t l D n
      ∧ HubWorked tm s t matrixCounts) := by
  rw [hok] at he
  obtain ⟨p, h', t, ht, hst, hpend, hgeom⟩ := stoneOp_next tm l bad F.INTMRES_count 0x01 f s
  obtain ⟨q, hq⟩ := hf h' p hgeom
  rw [hq] at hst
  have hget : t.stn.get l = ({ y with poison := q } : Stone).issue (f h' { s.stn.get l with poison := p }).use := by
    rw [hst, Stones.get_set_same]
  refine ⟨t, he.trans ht, ?_, ?_, scratchFrame_set s t l D n _ hst hpend hline, stoneOp_worked _ _ _ _ _ _ _ _ ht⟩
  · rw [hget]; rfl
  · rw [hget]; rfl

/-- The columns of one row of results, each with its index. -/
theorem zipIdx_map_getD {α β : Type} (f : Nat → α) (g : α × Nat → β) (n j : Nat) (d : β) (hj : j < n) :
    ((((List.range n).map f).zipIdx).map g).getD j d = g (f j, j) := by
  simp [List.getD, hj]

/-! ### MMA (R195, R263) -/

theorem length_mmaOp_out (x : Stone) (w : W64) : (mmaOp x w).out.length = 64 * 2 ^ wf w 13 11 :=
  Stone.flatten_length _ 64 _ fun r => by simp

/-- A result in the floating-point modes: the grouped sum of a row of A and a column of B. -/
theorem mmaOp_out_getD (x : Stone) (w : W64) (r j : Nat) (h9 : x.afmt.toNat ≠ 9) (hA : x.afmt.toNat ≠ 0xA) (hr : r < 2 ^ wf w 13 11)
    (hj : j < 64) :
    let fa := x.afmt.toNat
    let fb := x.bfmt.toNat
    let K := 32 * wf w 10 3
    (mmaOp x w).out.getD (64 * r + j) 0 =
      accGroups (wf w 10 3) (if wf w 2 2 = 1 then x.f32 (wf w 27 14) (64 * r + j) else zero32)
        (rowVals x (wf w 55 42 + r * rowLines fa K) fa K) (rowVals x (wf w 41 28 + j * rowLines fb K) fb K) := by
  intro fa fb K
  have hK : 32 * wf w 10 3 / 32 = wf w 10 3 := Nat.mul_div_cancel_left _ (by decide)
  unfold mmaOp
  dsimp only
  rw [Stone.flatten_getD _ 64 r j _ 0 (fun r => by simp) hr hj, zipIdx_map_getD _ _ 64 j _ hj, if_neg (by simp [h9, hA]), hK]
  simp only [beq_iff_eq]
  rfl

theorem mmaOp_out_poison (x : Stone) (w : W64) (p : List Nat) : (mmaOp { x with poison := p } w).out = (mmaOp x w).out := rfl

theorem mmaOp_st (x : Stone) (w : W64) :
    ∃ b, (mmaOp x w).st =
      (x.putF32s (wf w 27 14) (4 * 2 ^ wf w 13 11) (mmaOp x w).out).setPoison (wf w 27 14) (4 * 2 ^ wf w 13 11) b :=
  ⟨_, rfl⟩

/-- MMA leaves its results at C. -/
theorem mma_multiplies (tm : Nt) (l : BitVec 11) (w : W64) (bad : Bool) (s : State) (hok : matrixOk 0x01 w = true) :
    Answers (.mma tm l w bad) s (fun t =>
      (∀ k, k < 64 * 2 ^ wf w 13 11 → (t.stn.get l).f32 (wf w 27 14) k = (mmaOp (s.stn.get l) w).out.getD k 0)
      ∧ SlotFrame tm s t l (wf w 27 14) (4 * 2 ^ wf w 13 11) matrixCounts) := by
  have hlen := length_mmaOp_out (s.stn.get l) w
  refine (matSlot_stone (f := fun _ st => mmaOp st w)
    (y := (s.stn.get l).putF32s (wf w 27 14) (4 * 2 ^ wf w 13 11) (mmaOp (s.stn.get l) w).out) rfl hok
    (fun h p _ => ?_) (Stone.line_putF32s_ne _ _ _ _)).imp
    fun t ⟨hlines, hset, hframe, hwork⟩ => ⟨fun k hk => ?_, hframe, hset.trans (Stone.setup_putF32s _ _ _ _), hwork⟩
  · obtain ⟨b, hb⟩ := mmaOp_st { s.stn.get l with poison := p } w
    rw [hb, mmaOp_out_poison, Stone.putF32s_poison]
    exact ⟨_, rfl⟩
  · rw [Stone.f32_of_lines hlines]
    exact Stone.f32_putF32s _ _ _ _ (by omega) k (by omega)

/-! ### MCFG (R263) -/

/-- MCFG changes the formats and the scale its stone holds. -/
theorem mcfg_configures (tm : Nt) (l : BitVec 11) (w : W64) (s : State) (hok : matrixOk 0x0F w = true) :
    Answers (.mcfg tm l w) s (fun t =>
      (t.stn.get l).setup = { (s.stn.get l).setup with
        afmt := BitVec.ofNat 8 (wf w 7 0), bfmt := BitVec.ofNat 8 (wf w 15 8), sigma := BitVec.ofNat 32 (wf w 47 16) }
      ∧ ScratchFrame s t l 0 0 ∧ HubWorked tm s t []) := by
  have he : exec (.mcfg tm l w) s = .next { s with
      hub := (s.hub.stamp tm).busy l 1
      stn := s.stn.set l ((mcfgOp (s.stn.get l) w).issue { unit := unitMatrix, steps := 1 }) } := by
    show execMcfg tm l w s = _
    rw [execMcfg, hok]; rfl
  obtain ⟨hsess, hsteady, hreg⟩ := steady_busy (s.hub.stamp tm) l 1
  refine ⟨_, he, ?_, scratchFrame_set s _ l 0 0 _ rfl rfl fun i _ => rfl, fun j => ?_, hsteady, fun a ha _ hw => hreg a ha hw⟩
  · rw [Stones.get_set_same]; rfl
  · exact congrArg (fun m : SMap Sess => smGet {} m j.toNat) hsess

/-! ### MMAI (R197, R263) -/

section

variable {α : Type} (g : α → BitVec 48) (b : Nat)

/-- Sums held one after the other from place `b` on leave the places beyond them. -/
theorem smGet_held_ne (l : List α) (i : Nat) (m : SMap (BitVec 48)) (k : Nat) (hk : k < b + i ∨ b + i + l.length ≤ k) :
    smGet 0 ((l.zipIdx i).foldl (fun m e => smSet 0 m (b + e.2) (g e.1)) m) k = smGet 0 m k := by
  induction l generalizing i m with
  | nil => rfl
  | cons a l ih =>
    rw [List.length_cons] at hk
    rw [List.zipIdx_cons, List.foldl_cons, ih _ _ (by omega), smGet_smSet_ne _ _ _ _ _ _ (by omega)]

/-- Sums held one after the other read back. -/
theorem smGet_held (l : List α) (i : Nat) (m : SMap (BitVec 48)) (k : Nat) (d : α) (hk : k < l.length) :
    smGet 0 ((l.zipIdx i).foldl (fun m e => smSet 0 m (b + e.2) (g e.1)) m) (b + i + k) = g (l.getD k d) := by
  induction l generalizing i m k with
  | nil => exact absurd hk (Nat.not_lt_zero k)
  | cons a l ih =>
    rw [List.zipIdx_cons, List.foldl_cons]
    cases k with
    | zero => rw [smGet_held_ne _ _ _ _ _ _ (by omega), Nat.add_zero, smGet_smSet_same]; rfl
    | succ k => rw [show b + i + (k + 1) = b + (i + 1) + k by omega, ih _ _ k (by simpa using hk), List.getD_cons_succ]

end

/-- A row of INT8 operands. -/
def int8Row (x : Stone) (w : W64) (i : Nat) : List Int := (List.range (32 * wf w 10 3)).map (fun k => sint 8 (x.bitsAt i (8 * k) 8))

/-- The exact sum of row `r` of A and column `j` of B, on top of the sum held where the slot continues one. -/
def int8Sum (x : Stone) (w : W64) (r j : Nat) : Int :=
  (if wf w 2 2 = 1 then (smGet 0 x.acc48 (16 * wf w 27 14 + (64 * r + j))).toInt else 0)
    + (List.zipWith (· * ·) (int8Row x w (wf w 55 42 + r * cdiv (8 * (32 * wf w 10 3)) 512))
        (int8Row x w (wf w 41 28 + j * cdiv (8 * (32 * wf w 10 3)) 512))).sum

/-- The sums of MMAI, row by row, as the model forms them. -/
def mmaiSums (x : Stone) (w : W64) : List Int :=
  ((List.range (2 ^ wf w 13 11)).map (fun r =>
    (((List.range 64).map (fun j => int8Row x w (wf w 41 28 + j * cdiv (8 * (32 * wf w 10 3)) 512))).zipIdx).map (fun e =>
      if x.afmt != 9 || x.bfmt != 9 then (Config.mmOpen w (64 * r + e.2)).toInt
      else (if wf w 2 2 == 1 then int48 (smGet 0 x.acc48 (16 * wf w 27 14 + 64 * r + e.2)) else 0)
        + (List.zipWith (· * ·) (int8Row x w (wf w 55 42 + r * cdiv (8 * (32 * wf w 10 3)) 512)) e.1).sum))).flatten

theorem length_mmaiSums (x : Stone) (w : W64) : (mmaiSums x w).length = 64 * 2 ^ wf w 13 11 :=
  Stone.flatten_length _ 64 _ fun r => by simp

theorem mmaiSums_getD (x : Stone) (w : W64) (r j : Nat) (ha : x.afmt = 9) (hb : x.bfmt = 9) (hr : r < 2 ^ wf w 13 11) (hj : j < 64) :
    (mmaiSums x w).getD (64 * r + j) 0 = int8Sum x w r j := by
  unfold mmaiSums int8Sum
  rw [Stone.flatten_getD _ 64 r j _ 0 (fun r => by simp) hr hj, zipIdx_map_getD _ _ 64 j _ hj, if_neg (by simp [ha, hb]), ← Nat.add_assoc]
  simp only [beq_iff_eq]
  rfl

/-- What is written to C for a sum: a saturated INT32 or an FP32 value. -/
def int8Out (w : W64) (v : Int) : F32 :=
  if wf w 1 1 == 1 then BitVec.ofInt 32 (max (-2147483648) (min 2147483647 v)) else rne32 ⟨v, 0⟩

/-- The sums that MMAI holds beside C. -/
def mmaiHeld (x : Stone) (w : W64) : SMap (BitVec 48) :=
  (mmaiSums x w).zipIdx.foldl (fun m e => smSet 0 m (16 * wf w 27 14 + e.2) (BitVec.ofInt 48 e.1)) x.acc48

/-- A stone after MMAI. -/
def mmaiStone (x : Stone) (w : W64) : Stone :=
  Stone.putF32s { x with acc48 := mmaiHeld x w } (wf w 27 14) (4 * 2 ^ wf w 13 11)
    (((mmaiSums x w).map (fun v => int48 (BitVec.ofInt 48 v))).map (int8Out w))

theorem mmaiOp_st (x : Stone) (w : W64) :
    ∃ b, (mmaiOp x w).st = (mmaiStone x w).setPoison (wf w 27 14) (4 * 2 ^ wf w 13 11) b := ⟨_, rfl⟩

theorem mmaiStone_poison (x : Stone) (w : W64) (p : List Nat) :
    mmaiStone { x with poison := p } w = { mmaiStone x w with poison := p } :=
  Stone.putF32s_poison { x with acc48 := mmaiHeld x w } p _ _ _

/-- MMAI leaves its stone as `mmaiStone`. -/
theorem mmai_multiplies (tm : Nt) (l : BitVec 11) (w : W64) (bad : Bool) (s : State) (hok : matrixOk 0x02 w = true) :
    Answers (.mmai tm l w bad) s (fun t =>
      (t.stn.get l).lines = (mmaiStone (s.stn.get l) w).lines ∧ (t.stn.get l).setup = { (s.stn.get l).setup with acc48 := mmaiHeld (s.stn.get l) w }
      ∧ ScratchFrame s t l (wf w 27 14) (4 * 2 ^ wf w 13 11) ∧ HubWorked tm s t matrixCounts) := by
  refine (matSlot_stone (f := fun _ st => mmaiOp st w) (y := mmaiStone (s.stn.get l) w) rfl hok (fun h p _ => ?_)
    (Stone.line_putF32s_ne _ _ _ _)).imp
    fun t ⟨hlines, hset, hframe, hwork⟩ => ⟨hlines, hset.trans (Stone.setup_putF32s _ _ _ _), hframe, hwork⟩
  obtain ⟨b, hb⟩ := mmaiOp_st { s.stn.get l with poison := p } w
  rw [hb, mmaiStone_poison]
  exact ⟨_, rfl⟩

theorem f32_mmaiStone (x : Stone) (w : W64) (r j : Nat) (ha : x.afmt = 9) (hb : x.bfmt = 9) (hr : r < 2 ^ wf w 13 11) (hj : j < 64) :
    (mmaiStone x w).f32 (wf w 27 14) (64 * r + j) = int8Out w (BitVec.ofInt 48 (int8Sum x w r j)).toInt := by
  have hlen := length_mmaiSums x w
  unfold mmaiStone
  rw [List.map_map, Stone.f32_putF32s _ _ _ _ (by rw [List.length_map]; omega) _ (by rw [List.length_map]; omega),
    Stone.map_getD _ _ _ _ 0 (by omega), mmaiSums_getD x w r j ha hb hr hj]
  rfl

theorem mmaiHeld_sum (x : Stone) (w : W64) (r j : Nat) (ha : x.afmt = 9) (hb : x.bfmt = 9) (hr : r < 2 ^ wf w 13 11) (hj : j < 64) :
    smGet 0 (mmaiHeld x w) (16 * wf w 27 14 + (64 * r + j)) = BitVec.ofInt 48 (int8Sum x w r j) := by
  rw [← mmaiSums_getD x w r j ha hb hr hj]
  exact smGet_held (BitVec.ofInt 48) _ _ 0 _ _ 0 (by rw [length_mmaiSums]; omega)

/-- Settles O11: the results of MMA read back; MCFG; the sums of MMAI read back beside C and at C. -/
theorem matrixMultiplies : Obligations.MatrixMultiplies := by
  refine ⟨fun tm l w bad s => ⟨fun hok => ?mma, mcfg_configures tm l w s⟩, fun tm l w bad s => ?mmai⟩
  case mma =>
    refine (mma_multiplies tm l w bad s hok).imp fun t ⟨hres, hframe⟩ => ⟨fun r j h9 hA hr hj => ?_, hframe⟩
    rw [hres _ (by omega)]
    exact mmaOp_out_getD _ w r j h9 hA hr hj
  case mmai =>
    intro x K C n row sum hok
    refine (mmai_multiplies tm l w bad s hok).imp fun t ⟨hlines, hset, hframe, hwork⟩ =>
      ⟨fun r j ha hb hr hj => ?_, fun k hk => ?_, ?_, hframe, hwork⟩
    all_goals have hacc : (t.stn.get l).acc48 = mmaiHeld x w := congrArg Stone.acc48 hset
    · refine ⟨?_, ?_⟩
      · rw [hacc]; exact mmaiHeld_sum x w r j ha hb hr hj
      · rw [Stone.f32_of_lines hlines, f32_mmaiStone x w r j ha hb hr hj, int8Out, if_congr beq_iff_eq rfl rfl]; rfl
    · rw [hacc]
      exact smGet_held_ne (BitVec.ofInt 48) _ _ 0 _ k (by rw [length_mmaiSums]; omega)
    · rw [hset]

end Sys2Proof.Machine
end

section
/-! Matrix slots on a staged block: MQK and MPV (O12). -/

namespace Sys2Proof.Machine

namespace Stone

variable (x : Stone) (C m : Nat)

/-! ### Rows of results written one after the other -/

/-- The rows `rows` written from line `C` on, `m` lines each. -/
def putRows (rows : List (List F32 × Nat)) : Stone := rows.foldl (fun st e => st.putF32s (C + e.2 * m) m e.1) x

theorem putRows_poison (p : List Nat) (rows : List (List F32 × Nat)) :
    putRows { x with poison := p } C m rows = { x.putRows C m rows with poison := p } := by
  induction rows generalizing x with
  | nil => rfl
  | cons e rows ih =>
    unfold putRows at ih ⊢
    rw [List.foldl_cons, putF32s_poison]
    exact ih _

theorem setup_putRows (rows : List (List F32 × Nat)) : (x.putRows C m rows).setup = x.setup := by
  induction rows generalizing x with
  | nil => rfl
  | cons e rows ih => exact (ih _).trans (setup_putF32s x _ _ _)

end Stone

theorem le_cdiv (n : Nat) : n ≤ 16 * cdiv n 16 := by
  unfold cdiv; omega

theorem range_map_getD {α : Type} (f : Nat → α) (n k : Nat) (d : α) (hk : k < n) : ((List.range n).map f).getD k d = f k := by
  simp [hk]

/-! ### A slot that leaves rows -/

/-- The rows that a matrix slot writes at C: row `r` of `k` elements, in whole lines. -/
def rowsStone (x : Stone) (w : W64) (k : Nat) (g : Nat → List F32) : Stone :=
  x.putRows (wf w 27 14) (cdiv k 16) ((List.range (2 ^ wf w 13 11)).map g).zipIdx

/-- A matrix slot whose operation, in the geometry of the active model, leaves at C the rows `g` of `k` elements, whatever lines are
poisoned. -/
theorem matSlot_rows {c : Instr} {op : Nat} {tm : Nt} {l : BitVec 11} {w : W64} {bad : Bool} {f : Hub → Stone → OpRes} {s : State}
    {k : Nat} {g : Nat → List F32} (he : exec c s = stoneOp tm l (matrixOk op w) bad F.INTMRES_count 0x01 f s)
    (hok : matrixOk op w = true) (hg : ∀ r, (g r).length = k)
    (hf : ∀ h p, h.kvGeom = s.hub.kvGeom → ∃ D n b,
      (f h { s.stn.get l with poison := p }).st = (rowsStone { s.stn.get l with poison := p } w k g).setPoison D n b) :
    Answers c s (fun t =>
      (∀ r j, r < 2 ^ wf w 13 11 → j < k → (t.stn.get l).f32 (wf w 27 14 + r * cdiv k 16) j = (g r).getD j 0)
      ∧ SlotFrame tm s t l (wf w 27 14) (2 ^ wf w 13 11 * cdiv k 16) matrixCounts) := by
  refine (matSlot_stone (y := rowsStone (s.stn.get l) w k g) he hok (fun h p hgeom => ?_)
    (Stone.line_putRows _ _ _ _ g)).imp
    fun t ⟨hlines, hset, hframe, hwork⟩ => ⟨fun r j hr hj => ?_, hframe, hset.trans (Stone.setup_putRows _ _ _ _), hwork⟩
  · obtain ⟨D, n, b, hb⟩ := hf h p hgeom
    rw [hb, rowsStone, Stone.putRows_poison]
    exact ⟨_, rfl⟩
  · rw [Stone.f32_of_lines hlines]
    exact Stone.f32_putRows _ _ _ _ k g hg (le_cdiv k) r j hr hj

/-! ### MQK (R205, R263) -/

/-- Row `r` of the scores, as the model forms it. -/
def scoreRow (x : Stone) (Q d : Nat) (w : W64) (r : Nat) : List F32 :=
  (List.range Q).map (fun u =>
    if bitsOf (x.bitsAt (wf w 41 28) (fmtBits x.bfmt.toNat * d * Q) 64) u u = 0 then negInf32
    else if !(x.afmt == 0xA) then canon32 (Config.mmOpen w (64 * r + u))
    else mul32 (accGroups (d / 32) zero32 ((x.f32s (wf w 55 42 + r * cdiv d 16) d).map dec32)
      ((List.range d).map (kvVal x (wf w 41 28) x.bfmt.toNat Q d u))) x.sigma)

theorem scoreRow_poison (x : Stone) (Q d : Nat) (w : W64) (p : List Nat) : scoreRow { x with poison := p } Q d w = scoreRow x Q d w := rfl

theorem mqkOp_st (x : Stone) (Q d : Nat) (w : W64) :
    ∃ D n b, (mqkOp x Q d w).st = (rowsStone x w Q (scoreRow x Q d w)).setPoison D n b := ⟨_, _, _, rfl⟩

/-- MQK leaves the rows of scores at C. -/
theorem mqk_scores (tm : Nt) (l : BitVec 11) (w : W64) (bad : Bool) (s : State) (hok : matrixOk 0x03 w = true) :
    let Q := s.hub.kvGeom.1
    Answers (.mqk tm l w bad) s (fun t =>
      (∀ r u, r < 2 ^ wf w 13 11 → u < Q →
        (t.stn.get l).f32 (wf w 27 14 + r * cdiv Q 16) u = (scoreRow (s.stn.get l) Q s.hub.kvGeom.2 w r).getD u 0)
      ∧ SlotFrame tm s t l (wf w 27 14) (2 ^ wf w 13 11 * cdiv Q 16) matrixCounts) := by
  intro Q
  refine matSlot_rows (f := fun h st => mqkOp st h.kvGeom.1 h.kvGeom.2 w) rfl hok (fun r => by simp [scoreRow, Q]) fun h p hgeom => ?_
  rw [hgeom, ← scoreRow_poison _ _ _ _ p]
  exact mqkOp_st _ _ _ w

theorem scoreRow_getD (x : Stone) (Q d : Nat) (w : W64) (r u : Nat) (ha : x.afmt = 0xA) (hu : u < Q) :
    (scoreRow x Q d w r).getD u 0 =
      if bitsOf (x.bitsAt (wf w 41 28) (fmtBits x.bfmt.toNat * d * Q) 64) u u = 0 then negInf32
      else mul32 (accGroups (d / 32) zero32 ((x.f32s (wf w 55 42 + r * cdiv d 16) d).map dec32)
        ((List.range d).map (kvVal x (wf w 41 28) x.bfmt.toNat Q d u))) x.sigma := by
  rw [scoreRow, range_map_getD _ _ _ _ hu, if_neg (c := (!(x.afmt == 0xA)) = true) (by simp [ha])]

/-! ### MPV (R205, R263) -/

/-- Row `r` of the weighted sums, as the model forms it. -/
def mixRow (x : Stone) (Q d : Nat) (w : W64) (r : Nat) : List F32 :=
  (List.range d).map (fun e =>
    if !(x.afmt == 0xA) then canon32 (Config.mmOpen w (256 * r + e))
    else sumOnce ((((x.f32s (wf w 55 42 + r * cdiv Q 16) Q).map dec32).zipIdx).filterMap (fun p =>
      if p.1.isZero then none else some (p.1.mul (kvVal x (wf w 41 28) x.bfmt.toNat Q d p.2 e)))))

theorem mixRow_poison (x : Stone) (Q d : Nat) (w : W64) (p : List Nat) : mixRow { x with poison := p } Q d w = mixRow x Q d w := rfl

theorem mpvOp_st (x : Stone) (Q d : Nat) (w : W64) :
    ∃ D n b, (mpvOp x Q d w).st = (rowsStone x w d (mixRow x Q d w)).setPoison D n b := ⟨_, _, _, rfl⟩

/-- MPV leaves the rows of weighted sums at C. -/
theorem mpv_mixes (tm : Nt) (l : BitVec 11) (w : W64) (bad : Bool) (s : State) (hok : matrixOk 0x04 w = true) :
    let d := s.hub.kvGeom.2
    Answers (.mpv tm l w bad) s (fun t =>
      (∀ r e, r < 2 ^ wf w 13 11 → e < d →
        (t.stn.get l).f32 (wf w 27 14 + r * cdiv d 16) e = (mixRow (s.stn.get l) s.hub.kvGeom.1 d w r).getD e 0)
      ∧ SlotFrame tm s t l (wf w 27 14) (2 ^ wf w 13 11 * cdiv d 16) matrixCounts) := by
  intro d
  refine matSlot_rows (f := fun h st => mpvOp st h.kvGeom.1 h.kvGeom.2 w) rfl hok (fun r => by simp [mixRow, d]) fun h p hgeom => ?_
  rw [hgeom, ← mixRow_poison _ _ _ _ p]
  exact mpvOp_st _ _ _ w

theorem mixRow_getD (x : Stone) (Q d : Nat) (w : W64) (r e : Nat) (ha : x.afmt = 0xA) (he : e < d) :
    (mixRow x Q d w r).getD e 0 =
      sumOnce ((((x.f32s (wf w 55 42 + r * cdiv Q 16) Q).map dec32).zipIdx).filterMap (fun p =>
        if p.1.isZero then none else some (p.1.mul (kvVal x (wf w 41 28) x.bfmt.toNat Q d p.2 e)))) := by
  rw [mixRow, range_map_getD _ _ _ _ he, if_neg (by simp [ha])]

/-- Settles O12: the rows of scores and of weighted sums read back. -/
theorem matrixAttention : Obligations.MatrixAttention := fun tm l w bad s =>
  ⟨fun hok => (mqk_scores tm l w bad s hok).imp fun _ ⟨rows, frame⟩ =>
      ⟨fun r u ha hr hu => (rows r u hr hu).trans (scoreRow_getD _ _ _ w r u ha hu), frame⟩,
    fun hok => (mpv_mixes tm l w bad s hok).imp fun _ ⟨rows, frame⟩ =>
      ⟨fun r e ha hr he => (rows r e hr he).trans (mixRow_getD _ _ _ w r e ha he), frame⟩⟩

end Sys2Proof.Machine
end

section
/-! Writes of a valid pair and the management port (O53). -/

namespace Sys2Proof.Machine
open Hub

namespace Hub

variable (h : Hub)

/-! ### Valid pairs (R10, R374) -/

/-- The register at `a` is listed and has a field that meets `p`. -/
def rowHas (a : Nat) (p : FieldRow → Bool) : Bool := ((regRow a).map (fun r => r.fields.any p)).getD false

theorem rowHas_iff (a : Nat) (p : FieldRow → Bool) : rowHas a p = true ↔ ∃ r, regRow a = some r ∧ r.fields.any p = true := by
  unfold rowHas
  cases regRow a <;> simp

/-- Each register of paired words is a row of 32 bits outside the MSI-X table. -/
theorem pairRegs_place : ∀ a ∈ pairRegs, rowHas a (fun f => f.acc == .pw) = true ∧ a % 4 = 0 ∧ (a < 0x4000 ∨ 0x5000 ≤ a) := by
  decide +kernel

theorem mem_pairRegs_lane (n : BitVec 4) : F.MOLLANE_lane.a + F.MOLLANE_lane.stride * n.toNat ∈ pairRegs :=
  List.mem_append_right _ (List.mem_map.2 ⟨n.toNat, List.mem_range.2 n.isLt, rfl⟩)

theorem store32_pair (a : Nat) (ha : a ∈ pairRegs) (v : BitVec 32) (hv : pairOk 16 v.toNat = true) (smb : Bool) :
    h.store32 a v.toNat smb = h.pwWrite a (v.toNat % 2 ^ 16) := by
  obtain ⟨r, hr, hp⟩ := (rowHas_iff a _).1 (pairRegs_place a ha).1
  have e : (BitVec.ofNat 64 v.toNat).toNat % 2 ^ 32 = v.toNat := by
    have := v.isLt
    rw [BitVec.toNat_ofNat]; omega
  have e16 : (BitVec.ofNat 64 v.toNat).toNat % 2 ^ 16 = v.toNat % 2 ^ 16 := by
    rw [← Nat.mod_mod_of_dvd _ (show 2 ^ 16 ∣ 2 ^ 32 by decide), e]
  unfold store32
  rw [hr]; dsimp only
  rw [regStore, if_pos hp, e, if_pos hv, e16]

/-- A store of a valid pair to its register. -/
theorem store_pair (a : Nat) (ha : a ∈ pairRegs) (v : BitVec 32) (hv : pairOk 16 v.toNat = true) (hr : h.reached a = true) :
    h.store a v.toNat false = h.pwWrite a (v.toNat % 2 ^ 16) := by
  obtain ⟨-, h4, hb⟩ := pairRegs_place a ha
  rw [store_word h a _ hr h4 hb, Nat.mod_eq_of_lt v.isLt, store32_pair h a ha v hv]

/-! ### What a valid pair starts -/

/-- A stone to retire waits for the boundary where its die has a spare (R212, R213). -/
theorem pwWrite_retire (x : Nat) : h.pwWrite F.STONERETIRE_stone.a x =
    if h.gi F.STONESPARE_spares (x % 2 ^ 11 / 512) = 0 then h.p F.STONESTAT_retire_rej 1
    else { h.setReg F.STONERETIRE_stone.a (BitVec.ofNat 64 (pairOf 16 (x % 2 ^ 11))) with
      grp := { h.grp with retireQ := h.grp.retireQ ++ [BitVec.ofNat 11 (x % 2 ^ 11)] } } := by
  rw [pwWrite, if_pos rfl]; rfl

/-- The lane `x` of port `n` can give way to the spare (R235). -/
def laneFits (n x : Nat) : Prop :=
  h.portUp n = true ∧ x % 16 < 8 ∧ h.on F.MOLCTL_lane_spare_en = true ∧ h.gi F.MOLLANE_lane n = 0xF
    ∧ h.gi F.MOLPSTAT_state n ≠ 3 ∧ (h.port n).swap = none

theorem pwWrite_lane (n x : Nat) (hn : n < 16) : h.pwWrite (F.MOLLANE_lane.a + F.MOLLANE_lane.stride * n) x =
    if !h.portUp n || 8 ≤ x % 16 || !h.on F.MOLCTL_lane_spare_en || h.gi F.MOLLANE_lane n ≠ 0xF
        || h.gi F.MOLPSTAT_state n == 3 || (h.port n).swap.isSome then h
    else h.laneFail n (x % 16) := by
  have place : F.MOLLANE_lane.a + F.MOLLANE_lane.stride * n = 0x28108 + 0x40 * n := rfl
  have index : (0x28108 + 0x40 * n - F.MOLLANE_lane.a) / 0x40 = n := by
    rw [show F.MOLLANE_lane.a = 0x28108 from rfl]; omega
  rw [place, pwWrite, index, if_neg (by show 0x28108 + 0x40 * n ≠ 0x24020; omega),
    if_pos (by show 0x28108 ≤ 0x28108 + 0x40 * n ∧ 0x28108 + 0x40 * n < 0x28508; omega)]

theorem pwWrite_lane_fit (n x : Nat) (hn : n < 16) (hf : h.laneFits n x) :
    h.pwWrite (F.MOLLANE_lane.a + F.MOLLANE_lane.stride * n) x =
      (h.setPort n { h.port n with swap := some (BitVec.ofNat 4 (x % 16)) }).emit (.swapLane (BitVec.ofNat 4 n) (BitVec.ofNat 4 (x % 16))) := by
  obtain ⟨hup, hx, hen, hlane, hst, hsw⟩ := hf
  rw [pwWrite_lane h n x hn, if_neg (by simp [hup, hx, hen, hlane, hst, hsw]), laneFail, if_neg (by simp [hup, hx]),
    if_neg (by simp [hen, hlane, hst, hsw])]

theorem pwWrite_lane_unfit (n x : Nat) (hn : n < 16) (hf : ¬ h.laneFits n x) :
    h.pwWrite (F.MOLLANE_lane.a + F.MOLLANE_lane.stride * n) x = h := by
  rw [pwWrite_lane h n x hn]
  refine if_pos ?_
  by_contra hc
  simp only [Bool.or_eq_true, Bool.not_eq_true', decide_eq_true_eq, beq_iff_eq, not_or, Bool.not_eq_false, Option.not_isSome_iff_eq_none,
    not_le, ne_eq, not_not] at hc
  obtain ⟨⟨⟨⟨⟨hup, hx⟩, hen⟩, hlane⟩, hst⟩, hsw⟩ := hc
  exact hf ⟨hup, hx, hen, hlane, hst, hsw⟩

theorem pwWrite_bank (x : Nat) : h.pwWrite F.AIXBANKMAP_bank.a x = if x % 32 < 16 then h.failBank (x % 32) else h := rfl

theorem pwWrite_cap (x : Nat) : h.pwWrite F.PWRCAP_watts.a x = h.setReg F.PWRCAP_watts.a (BitVec.ofNat 64 (pairOf 16 x)) := rfl

/-! ### Fields that management may write (R470) -/

variable (a : Nat) (v m x : W64) (f : FieldRow)

/-- Management writes RW fields alone. -/
theorem fieldWrite_managed_kept (hf : f.acc ≠ .rw) : h.fieldWrite a v m true x f = x := by
  unfold fieldWrite
  cases hc : f.acc
  case rw => exact absurd hc hf
  all_goals rfl

theorem fieldWrite_managed_rw (hf : f.acc = .rw) (hl : lockBit a f.hi = false) (ht : thawed a = true) :
    h.fieldWrite a v m true x f = taken (fieldMask f &&& m) v x := by
  have hz := frozen_thawed h a v f ht
  unfold fieldWrite
  rw [hf]; dsimp only
  rw [hl, hz]; rfl

theorem fieldWrite_managed_lock (hf : f.acc = .rw) (hl : lockBit a f.hi = true) :
    h.fieldWrite a v m true x f = x ||| (v &&& (fieldMask f &&& m)) := by
  unfold fieldWrite
  rw [hf]; dsimp only
  rw [hl]; rfl

/-- What management's store leaves of a register outside Sluice without paired words, then what the store starts. -/
theorem store32_managed (w : BitVec 32) (r : RegRow) (hr : regRow a = some r) (hp : r.fields.any (fun f => f.acc == .pw) = false)
    (ha : a < 0x34000 ∨ 0x35000 ≤ a) :
    h.store32 a w.toNat true =
      (h.setReg a (r.fields.foldl (h.fieldWrite a (w.setWidth 64) 0xFFFFFFFF true) (h.reg a))).afterWrite a (h.reg a)
        (w.setWidth 64 &&& 0xFFFFFFFF) := by
  unfold store32
  rw [hr]; dsimp only
  rw [BitVec.ofNat_toNat, regStore, hp, slWaits_outside a ha]
  simp [slBad_outside h a _ ha]

/-- Of PWRCTL management sets the lock bit. -/
theorem store32_managed_pwrctl (w : BitVec 32) : h.store32 F.PWRCTL_lock.a w.toNat true =
    (h.setReg F.PWRCTL_lock.a (h.reg F.PWRCTL_lock.a ||| (w.setWidth 64 &&& 0x80000000))).brakePass := by
  have hrow := regRow_control (F.PWRCTL_lock, _) (.tail _ (.head _))
  rw [store32_managed h _ w _ hrow (by decide) (.inr (by decide)), afterWrite_pwrctl]
  dsimp only
  rw [List.foldl_append, List.foldl_cons, List.foldl_nil, fieldWrite_managed_lock _ _ _ _ _ lockField rfl rfl,
    show fieldMask lockField &&& 0xFFFFFFFF = 0x80000000 by decide]
  simp [fieldWrite_managed_kept]

/-- A field of a register whose write starts nothing, written by management. -/
def managedStored (v : W64) (y : W64) (f : FieldRow) : W64 := if f.acc = .rw then codeStored true v 0xFFFFFFFF y f else y

theorem store32_managed_plain (w : BitVec 32) (r : RegRow) (hr : regRow a = some r) (hp : plainReg a r = true) :
    h.store32 a w.toNat true = h.setReg a (r.fields.foldl (managedStored (w.setWidth 64)) (h.reg a)) := by
  obtain ⟨hpw, hlock⟩ := plainReg_fields hp
  rw [store32_managed h a w r hr hpw (plainReg_place hp).1, afterWrite_plain _ hp]
  refine congrArg (h.setReg a) (List.foldl_ext _ _ _ fun y f hf => ?_)
  unfold managedStored codeStored
  split
  · next hrw => rw [fieldWrite_managed_rw h a _ _ y f hrw (hlock f hf) (thawed_plain hp), hrw]; rfl
  · next hrw => exact fieldWrite_managed_kept h a _ _ y f hrw

end Hub

/-! ### The management port (R470) -/

/-- The eight bytes that management reads at `a`: a register of 64 bits, or two of 32. -/
def smbusValue (h : Hub) (a : Nat) : W64 :=
  if ((regRow a).map (·.wide)).getD false then h.regRead a
  else BitVec.ofNat 64 ((h.regRead a).toNat % 2 ^ 32 + (h.regRead (a + 4)).toNat % 2 ^ 32 * 2 ^ 32)

theorem smbusValue_wide (h : Hub) (a : Nat) (hw : ((regRow a).map (·.wide)).getD false = true) : smbusValue h a = h.regRead a :=
  if_pos hw

theorem smbusValue_words (h : Hub) (a : Nat) (hw : ((regRow a).map (·.wide)).getD false = false) :
    smbusValue h a = BitVec.ofNat 64 ((h.regRead a).toNat % 2 ^ 32 + (h.regRead (a + 4)).toNat % 2 ^ 32 * 2 ^ 32) :=
  if_neg (Bool.eq_false_iff.1 hw)

/-- The field is one of those that management may write. -/
def managed (f : FieldRow) : Bool := f.acc == .rw || f.acc == .pw

section

variable (tm : Nt) (off : BitVec 16) (v : BitVec 32) (pec : Bool) (s : State) {h : Hub} (hh : s.hub.stamp tm = h)
include hh

theorem smbusWrite_taken (hv : h.pw.inReg.getLsbD 0 = true) (hm : h.on F.PWRCTL_mgmt_wr_en = true) (ho : off.toNat < 0x4000)
    (hf : rowHas (F.PWRCTL_lock.a + off.toNat) managed = true) :
    Ends (.smbusWrite tm off v true) s (h.store32 (F.PWRCTL_lock.a + off.toNat) v.toNat true) := by
  obtain ⟨r, hr, hp⟩ := (rowHas_iff _ _).1 hf
  have hrow : regRow (F.PWRCTL_mgmt_wr_en.a + off.toNat) = some r := hr
  show execSmbusWrite tm off v true s = _
  unfold execSmbusWrite
  refine onHub_ends hh ?_
  dsimp only
  rw [hrow, if_neg (by simp [hv]), if_pos (by rw [hm, decide_eq_true ho]; exact hp)]

theorem smbusWrite_rejected (hv : h.pw.inReg.getLsbD 0 = true)
    (hf : pec = false ∨ h.on F.PWRCTL_mgmt_wr_en = false ∨ 0x4000 ≤ off.toNat ∨ rowHas (F.PWRCTL_lock.a + off.toNat) managed = false) :
    Ends (.smbusWrite tm off v pec) s (h.p F.PWRSTAT_smb_rej 1) := by
  show execSmbusWrite tm off v pec s = _
  unfold execSmbusWrite
  refine onHub_ends hh ?_
  rw [if_neg (by simp [hv])]
  refine if_neg ?_
  rw [Bool.and_eq_true, Bool.and_eq_true, Bool.and_eq_true, decide_eq_true_eq]
  rintro ⟨⟨⟨hpec, hm⟩, ho⟩, hfit⟩
  have hrow : rowHas (F.PWRCTL_lock.a + off.toNat) managed = true := by
    rw [rowHas_iff]
    cases hr : regRow (F.PWRCTL_mgmt_wr_en.a + off.toNat) with
    | none => rw [hr] at hfit; exact absurd hfit Bool.false_ne_true
    | some r => rw [hr] at hfit; exact ⟨r, rfl, hfit⟩
  rcases hf with hf | hf | hf | hf
  · exact Bool.false_ne_true (hf.symm.trans hpec)
  · exact Bool.false_ne_true (hf.symm.trans hm)
  · exact not_lt.2 hf ho
  · exact Bool.false_ne_true (hf.symm.trans hrow)

theorem smbusWrite_unpowered (hv : ¬ h.pw.inReg.getLsbD 0 = true) : Ends (.smbusWrite tm off v pec) s h := by
  show execSmbusWrite tm off v pec s = _
  unfold execSmbusWrite
  exact onHub_ends hh (if_pos (by simpa using hv))

theorem smbusRead_unpowered (hv : ¬ h.pw.inReg.getLsbD 0 = true) : Ends (.smbusRead tm off) s h := by
  show execSmbusRead tm off s = _
  unfold execSmbusRead
  exact onHub_ends hh (if_pos (by simpa using hv))

/-- The register that management reads by an offset: of HIDENT to HDEVIDX with bit 15 set, and of the power block otherwise. -/
def smbusAddr (off : BitVec 16) : Nat := if off.getLsbD 15 then off.toNat % 2 ^ 15 else F.PWRCTL_lock.a + off.toNat % 2 ^ 15

/-- The offset lies past the registers that management reads. -/
def smbusPast (off : BitVec 16) : Prop := if off.getLsbD 15 then 0x10 < off.toNat % 2 ^ 15 else 0x1000 ≤ off.toNat % 2 ^ 15

theorem smbusRead_unaligned (hv : h.pw.inReg.getLsbD 0 = true) (ha : off.toNat % 2 ^ 15 % 8 ≠ 0) :
    Ends (.smbusRead tm off) s (({ h with free := h.free + 1 } : Hub).emit (.smbus (Config.freeValue h.free))) := by
  show execSmbusRead tm off s = _
  unfold execSmbusRead
  refine onHub_ends hh ?_
  rw [if_neg (by simp [hv]), if_pos ha]
  rfl

theorem smbusRead_past (hv : h.pw.inReg.getLsbD 0 = true) (ha : off.toNat % 2 ^ 15 % 8 = 0) (hp : smbusPast off) :
    Ends (.smbusRead tm off) s (h.emit (.smbus 0)) := by
  show execSmbusRead tm off s = _
  unfold execSmbusRead
  refine onHub_ends hh ?_
  rw [if_neg (by simp [hv]), if_neg (not_not.2 ha)]
  exact if_pos hp

theorem smbusRead_register (hv : h.pw.inReg.getLsbD 0 = true) (ha : off.toNat % 2 ^ 15 % 8 = 0) (hp : ¬ smbusPast off) :
    Ends (.smbusRead tm off) s (h.emit (.smbus (smbusValue h (smbusAddr off)))) := by
  show execSmbusRead tm off s = _
  unfold execSmbusRead
  refine onHub_ends hh ?_
  rw [if_neg (by simp [hv]), if_neg (not_not.2 ha)]
  exact if_neg hp

end

/-! ### A bank that fails (R335) -/

theorem failBank_again (h : Hub) (b : Nat) (hb : b ∈ h.aix.bad) : h.failBank b = h := by
  rw [failBank, if_pos (List.contains_iff_mem.2 hb)]

/-- The hub that holds bank `b` as failed. -/
def bankOut (h : Hub) (b : Nat) : Hub := { h with aix := { h.aix with bad := h.aix.bad ++ [b] } }

theorem failBank_spared (h : Hub) (b : Nat) (hb : b ∉ h.aix.bad)
    (hs : h.on F.AIXCTL_spare_en = true ∧ h.aix.swap = none ∧ h.aix.spare = none) :
    h.failBank b = { bankOut h b with aix := { (bankOut h b).aix with swap := some b } } := by
  obtain ⟨hen, hswap, hspare⟩ := hs
  rw [failBank, if_neg (by simpa using hb)]
  refine if_pos ?_
  show (h.on F.AIXCTL_spare_en && h.aix.swap.isNone && h.aix.spare.isNone) = true
  rw [hen, hswap, hspare]; rfl

theorem failBank_unspared (h : Hub) (b : Nat) (hb : b ∉ h.aix.bad)
    (hs : ¬ (h.on F.AIXCTL_spare_en = true ∧ h.aix.swap = none ∧ h.aix.spare = none)) :
    h.failBank b = (((bankOut h b).p F.AIXSTAT_nospare 1).devEv 0x0303 4 b).raiseFault 5 := by
  rw [failBank, if_neg (by simpa using hb)]
  refine if_neg fun hc => hs ?_
  have hc : (h.on F.AIXCTL_spare_en && h.aix.swap.isNone && h.aix.spare.isNone) = true := hc
  simpa [Option.isNone_iff_eq_none, and_assoc] using hc

/-! ### The statement -/

/-- Lane registers and the first of them lie in the same block. -/
theorem reached_lane (h : Hub) (n : BitVec 4) (hr : h.reached F.MOLLANE_lane.a = true) :
    h.reached (F.MOLLANE_lane.a + F.MOLLANE_lane.stride * n.toNat) = true := by
  have hn := n.isLt
  have low (a : Nat) (ha : 0x10000 ≤ a ∧ a < 0x48000) : h.reached a = (h.stage 0 && !h.nf.portDown && h.stage 2) := by
    unfold reached
    rw [decide_eq_false (by omega : ¬ a < 0x10000), decide_eq_false (by omega : ¬ 0x48000 ≤ a)]
    simp
  rw [low _ (by decide)] at hr
  rw [low _ (by show 0x10000 ≤ 0x28108 + 0x40 * n.toNat ∧ 0x28108 + 0x40 * n.toNat < 0x48000; omega), hr]

/-- Settles O53: what each valid pair starts at its register, and what the management port does with each offset. -/
theorem repairsAndManagement : Obligations.RepairsAndManagement := by
  intro tm v s h x good l b out vaux spared
  have hh : s.hub.stamp tm = h := rfl
  have retires : F.STONERETIRE_stone.a ∈ pairRegs := by decide +kernel
  have maps : F.AIXBANKMAP_bank.a ∈ pairRegs := by decide +kernel
  have caps : F.PWRCAP_watts.a ∈ pairRegs := by decide +kernel
  refine ⟨fun hv hr => ?retire, fun n hv hr => ?lane, fun hv hr => ?bank, (stores_stoneretire tm v).ends_unreached s,
    fun n => (stores_mollane tm n v).ends_unreached s, (stores_aixbankmap tm v).ends_unreached s,
    fun off pec hp hf => smbusWrite_rejected tm off v pec s hh hp hf, fun hp hm => ?lock, fun hv hp hm => ?cap,
    fun off r hp hm ho hrow hplain hrw => ?plain,
    fun off pec hp => ⟨smbusWrite_unpowered tm off v pec s hh hp, smbusRead_unpowered tm off s hh hp⟩, fun off => ?read⟩
  case retire =>
    have hst := (store_pair h _ retires v hv hr).trans (pwWrite_retire h x)
    exact ⟨fun hs => (stores_stoneretire tm v).ends s (hst.trans (if_neg hs)),
      fun hs => (stores_stoneretire tm v).ends s (hst.trans (if_pos hs))⟩
  case lane =>
    have hst := store_pair h _ (mem_pairRegs_lane n) v hv (reached_lane h n hr)
    refine ⟨fun hf => (stores_mollane tm n v).ends s ?_,
      fun hf => (stores_mollane tm n v).ends s (hst.trans (pwWrite_lane_unfit h _ x n.isLt hf))⟩
    have e4 : BitVec.ofNat 4 (x % 16) = BitVec.ofNat 4 x := BitVec.eq_of_toNat_eq (by simp)
    rw [hst, pwWrite_lane_fit h _ x n.isLt hf, e4, BitVec.ofNat_toNat, BitVec.setWidth_eq]
  case bank =>
    have hst := (store_pair h _ maps v hv hr).trans (pwWrite_bank h x)
    refine ⟨fun hb hn hs => ?_, fun hb hn hs => ?_, fun hb => ?_⟩
    · exact (stores_aixbankmap tm v).ends s (hst.trans ((if_pos hb).trans (failBank_spared h b hn hs)))
    · exact (stores_aixbankmap tm v).ends s (hst.trans ((if_pos hb).trans (failBank_unspared h b hn hs)))
    · refine (stores_aixbankmap tm v).ends s (hst.trans ?_)
      rcases hb with hb | hb
      · exact if_neg (not_lt.2 hb)
      · rw [failBank_again h _ hb, ite_self]
  case lock =>
    rw [← store32_managed_pwrctl]
    exact smbusWrite_taken tm 0 v s hh hp hm (by decide) (by decide +kernel)
  case cap =>
    rw [← pwWrite_cap, ← store32_pair h _ caps v hv true]
    exact smbusWrite_taken tm 8 v s hh hp hm (by decide) (by decide +kernel)
  case plain =>
    rw [List.any_eq_true] at hrw
    obtain ⟨f, hf, hacc⟩ := hrw
    have fits : rowHas (F.PWRCTL_lock.a + off.toNat) managed = true :=
      (rowHas_iff _ _).2 ⟨r, hrow, List.any_eq_true.2 ⟨f, hf, by rw [managed, hacc]; rfl⟩⟩
    have hst := smbusWrite_taken tm off v s hh hp hm ho fits
    rw [store32_managed_plain h _ v r hrow hplain] at hst
    exact hst
  case read =>
    intro o host a past wide low
    refine ⟨fun hp ha hpast => smbusRead_past tm off s hh hp ha hpast, fun hp ha hpast hw => ?_, fun hp ha hpast hw => ?_,
      fun hp ha => smbusRead_unaligned tm off s hh hp ha⟩
    all_goals have hread := smbusRead_register tm off s hh hp ha hpast
    · rw [smbusValue_wide h (smbusAddr off) hw] at hread
      exact hread
    · rw [smbusValue_words h (smbusAddr off) hw] at hread
      exact hread

end Sys2Proof.Machine
end

section
/-! Ports of a Molair link and what arrives on them (O55): frames, acknowledgments, resends and credits, lanes, and a port that fails. -/

namespace Sys2Proof.Machine
open Hub

namespace Hub

variable (h : Hub) (n : Nat)

/-! ### A port's state -/

theorem port_setPort (p : Port) (hn : n < h.ports.length) : (h.setPort n p).port n = p := by
  simp [port, setPort, hn]

theorem port_absent (hn : h.ports.length ≤ n) : h.port n = {} := by
  simp [port, hn]

theorem setPort_absent (p : Port) (hn : h.ports.length ≤ n) : h.setPort n p = h := by
  rw [setPort, List.set_eq_of_length_le hn]

theorem setPort_setPort (p q : Port) : (h.setPort n p).setPort n q = h.setPort n q := by
  simp [setPort]

/-- A port that holds a frame not acknowledged is there. -/
theorem port_present {c : Frame × Nat → Bool} {k : Nat} (hk : (h.port n).replay.findIdx? c = some k) : n < h.ports.length := by
  by_contra hn
  rw [port_absent h n (not_lt.1 hn)] at hk
  cases hk

/-- Hearing of a port changes the NT of the latest frame alone. -/
theorem port_heard (hn : n < h.ports.length) : (h.heard n).port n = { h.port n with lastRx := h.nt } := port_setPort h n _ hn

theorem replay_heard : ((h.heard n).port n).replay = (h.port n).replay := by
  rcases Nat.lt_or_ge n h.ports.length with hn | hn
  · rw [port_heard h n hn]
  · rw [heard, setPort_absent h n _ hn]

/-- With nothing that waits for room, nothing goes out once frames are released. -/
theorem sendWaiting_idle (p : Port) (hn : n < h.ports.length) (hw : p.waitq = []) : (h.setPort n p).sendWaiting n = h.setPort n p := by
  have keep : { p with waitq := [] } = p := by rw [← hw]
  unfold sendWaiting
  dsimp only
  rw [port_setPort h n p hn, hw, List.foldl_nil, setPort_setPort, keep]

/-! ### Registers of a port lie apart from the others -/

/-- A count keeps a field of any register but its own. -/
theorem gi_inci_elsewhere (f f' : Fld) (i j m : Nat) (ha : f'.a + f'.stride * j ≠ f.a + f.stride * i) :
    (h.inci f i m).gi f' j = h.gi f' j := by
  unfold gi inci
  rw [reg_pi_ne h f i _ _ ha]

theorem dev_rxCount (m : Nat) : (h.inci F.MOLRX_bytes n m).dev = h.dev :=
  gi_inci_elsewhere h F.MOLRX_bytes F.HDEVIDX_index n 0 m (by show 0x10 ≠ 0x28138 + 0x40 * n; omega)

theorem stepNo_rxCount (m : Nat) : (h.inci F.MOLRX_bytes n m).stepNo = h.stepNo :=
  gi_inci_elsewhere h F.MOLRX_bytes F.MOLSTEP_step n 0 m (by show 0x28018 ≠ 0x28138 + 0x40 * n; omega)

/-! ### Frames (R233, R234) -/

variable (port : BitVec 4) (f : Frame)

/-- A port or a lane sent as a number of 4 bits. -/
theorem ofNat_toNat_four (x : BitVec 4) : BitVec.ofNat 4 x.toNat = x := by simp

/-- The hub once a frame in order is counted and acknowledged. -/
def accepted : Hub :=
  let p := h.port port.toNat
  ((h.setPort port.toNat { p with recvSeq := p.recvSeq + 1, lastRx := h.nt }).inci F.MOLRX_bytes port.toNat (f.valid.toNat + 1)).emit
    (.ackTo port f.lseq)

theorem dev_accepted : (h.accepted port f).dev = h.dev := dev_rxCount _ _ _

theorem stepNo_accepted : (h.accepted port f).stepNo = h.stepNo := stepNo_rxCount _ _ _

/-- With no injection armed none of a point fires. -/
theorem fireAt_unarmed (hi : h.inj = []) (x : Nat) (m : Inj → Bool) : h.fireAt x m = (none, h) := by
  unfold fireAt; rw [hi]; rfl

section
variable {h port f}

/-- What a frame with a good check meets at a port that is up and active, no injection armed. -/
theorem rxFrame_active (hup : h.portUp port.toNat = true) (hon : h.on F.MOLCTL_enable = true) (hi : h.inj = []) :
    h.rxFrame port.toNat f =
      let p := h.port port.toNat
      let late := h.setPort port.toNat { p with lastRx := h.nt }
      if f.lseq = p.recvSeq then (true, h.accepted port f)
      else if newer 32 f.lseq.toNat p.recvSeq.toNat then (false, late.emit (.nakTo port p.recvSeq))
      else (false, late.emit (.ackTo port f.lseq)) := by
  unfold rxFrame
  rw [if_neg (by simp [hup, hon]), fireInj_none h hi]
  dsimp only
  rw [if_neg Bool.false_ne_true, fireAt_unarmed h hi]
  dsimp only
  rw [ofNat_toNat_four]
  rfl

theorem rxFrame_next (hup : h.portUp port.toNat = true) (hon : h.on F.MOLCTL_enable = true) (hi : h.inj = [])
    (hseq : f.lseq = (h.port port.toNat).recvSeq) : h.rxFrame port.toNat f = (true, h.accepted port f) := by
  rw [rxFrame_active hup hon hi]; exact if_pos hseq

theorem rxFrame_gap (hup : h.portUp port.toNat = true) (hon : h.on F.MOLCTL_enable = true) (hi : h.inj = [])
    (hseq : f.lseq ≠ (h.port port.toNat).recvSeq) (hgap : newer 32 f.lseq.toNat (h.port port.toNat).recvSeq.toNat = true) :
    h.rxFrame port.toNat f =
      (false, (h.setPort port.toNat { h.port port.toNat with lastRx := h.nt }).emit (.nakTo port (h.port port.toNat).recvSeq)) := by
  rw [rxFrame_active hup hon hi]; exact (if_neg hseq).trans (if_pos hgap)

end

/-! ### Dynamic frames (R239, R243, R244) -/

/-- The hub once the credit of a dynamic frame has been given back. -/
def credited : Hub := h.emit (.creditTo port f.queue 1)

/-- The key of the message that a frame is part of. -/
def msgKey (f : Frame) : Nat := f.src.toNat * 2 ^ 32 + f.tag.toNat

theorem dynFrame_part (hd : f.dst.toNat = h.dev) (hl : f.last = false) :
    h.dynFrame port.toNat f =
      { h.credited port f with reasm := smPut h.reasm (msgKey f) (smGet [] h.reasm (msgKey f) ++ [f]) } := by
  unfold dynFrame
  rw [ofNat_toNat_four]
  exact (if_pos hd).trans (if_pos (by simp [hl]))

theorem dynFrame_whole (hd : f.dst.toNat = h.dev) (hl : f.last = true) :
    let g : Hub := { h.credited port f with reasm := smDel h.reasm (msgKey f) }
    h.dynFrame port.toNat f =
      if messageOk (smGet [] h.reasm (msgKey f) ++ [f]) then g else (g.inc F.MOLMSGDROP_count).inc F.INTCHKFAIL_count := by
  unfold dynFrame
  rw [ofNat_toNat_four]
  exact (if_pos hd).trans (if_neg (by simp [hl]))

theorem dynFrame_forward (m : Nat) (hd : f.dst.toNat ≠ h.dev) (hr : (h.credited port f).route f.dst.toNat f.tag.toNat = some m) :
    let k := m * 16 + f.queue.toNat
    let it : SlItem := { enq := h.nt, head := f.valid.toNat + 1, load := .frame f }
    h.dynFrame port.toNat f =
      { h.credited port f with sl := { h.sl with dyn := smPut h.sl.dyn k (smGet [] h.sl.dyn k ++ [it]) } } := by
  have hr : (h.emit (.creditTo port f.queue 1)).route f.dst.toNat f.tag.toNat = some m := hr
  unfold dynFrame
  rw [ofNat_toNat_four]
  refine (if_neg hd).trans ?_
  rw [hr]
  rfl

/-! ### Acknowledgments and resends (R234) -/

section
variable {h n} {lseq : BitVec 32} {k : Nat}

theorem acked_none (hk : (h.port n).replay.findIdx? (fun f => f.1.lseq == lseq) = none) : h.acked n lseq = h := by
  unfold acked; dsimp only; rw [hk]

theorem acked_some (hk : (h.port n).replay.findIdx? (fun f => f.1.lseq == lseq) = some k) :
    h.acked n lseq = (h.setPort n { h.port n with replay := (h.port n).replay.drop (k + 1) }).sendWaiting n := by
  unfold acked; dsimp only; rw [hk]

theorem naked_none (hk : (h.port n).replay.findIdx? (fun f => f.1.lseq == lseq) = none) : h.naked n lseq = h := by
  unfold naked; dsimp only; rw [hk, ite_self]

theorem naked_tired (hup : h.portUp n = true) (hk : (h.port n).replay.findIdx? (fun f => f.1.lseq == lseq) = some k)
    (ht : ∃ f ∈ (h.port n).replay.drop k, 8 ≤ f.2) : h.naked n lseq = h.portFail n 1 := by
  unfold naked; dsimp only
  rw [if_neg (by simp [hup]), hk]
  exact if_pos (List.any_eq_true.2 (by simpa using ht))

/-- The frames that a port sends again, each resent once more. -/
def resent (l : List (Frame × Nat)) : List (Frame × Nat) := l.map (fun f => (f.1, f.2 + 1))

theorem naked_resends (port : BitVec 4) (hup : h.portUp port.toNat = true)
    (hk : (h.port port.toNat).replay.findIdx? (fun f => f.1.lseq == lseq) = some k)
    (ht : ¬ ∃ f ∈ (h.port port.toNat).replay.drop k, 8 ≤ f.2) :
    let left := (h.port port.toNat).replay.drop k
    h.naked port.toNat lseq =
      (left.foldl (fun (g : Hub) f => g.emit (.frame port f.1))
        ((h.setPort port.toNat { h.port port.toNat with replay := resent left }).inci F.MOLRETRY_count port.toNat left.length)).sendWaiting
          port.toNat := by
  unfold naked; dsimp only
  rw [if_neg (by simp [hup]), hk]
  dsimp only
  rw [if_neg fun hc => ht (by simpa using List.any_eq_true.1 hc), ofNat_toNat_four]
  rfl

end

/-! ### Lanes (R235) -/

section
variable {h}

/-- The lane gives way to the spare once the two ends have agreed where. -/
theorem laneFail_spared (lane : BitVec 4) (hl : lane.toNat < 8) (hf : h.laneFits port.toNat lane.toNat) :
    h.laneFail port.toNat lane.toNat =
      (h.setPort port.toNat { h.port port.toNat with swap := some lane }).emit (.swapLane port lane) := by
  obtain ⟨hup, -, hen, hlane, hst, hsw⟩ := hf
  rw [laneFail, if_neg (by simp [hup, hl]), if_neg (by simp [hen, hlane, hst, hsw]), ofNat_toNat_four, ofNat_toNat_four]

theorem laneFail_unspared (lane : BitVec 4) (hup : h.portUp port.toNat = true) (hl : lane.toNat < 8)
    (hf : ¬ h.laneFits port.toNat lane.toNat) : h.laneFail port.toNat lane.toNat = h.portFail port.toNat 0 := by
  rw [laneFail, if_neg (by simp [hup, hl])]
  refine if_pos ?_
  by_contra hc
  simp only [Bool.or_eq_true, Bool.not_eq_true', decide_eq_true_eq, not_or, Bool.not_eq_false, Option.not_isSome_iff_eq_none,
    ne_eq, not_not] at hc
  obtain ⟨⟨⟨hen, hlane⟩, hst⟩, hsw⟩ := hc
  exact hf ⟨hup, (Nat.mod_le _ _).trans_lt hl, hen, hlane, hst, hsw⟩

end

/-- The hub once lane `lane` of the port has given way to the spare. -/
def laneSpared (lane : Nat) : Hub :=
  let g := h.setPort n { h.port n with swap := none }
  let g := g.setReg (F.MOLLANE_lane.a + F.MOLLANE_lane.stride * n) (BitVec.ofNat 64 (pairOf 16 lane))
  ((g.pi F.MOLPSTAT_state n 3).devEv 0x0202 4 (n + lane * 16)).p F.MOLSTAT_lane_spared 1

/-- Counting corrected symbols leaves what decides whether a lane can give way. -/
theorem laneFits_symbols (k x : Nat) (hf : h.laneFits n x) : (h.inci F.MOLFEC_count n k).laneFits n x := by
  obtain ⟨hup, hx, hen, hlane, hst, hsw⟩ := hf
  have e (f : Fld) (j : Nat) (ha : f.a + f.stride * j ≠ 0x28110 + 0x40 * n) : (h.inci F.MOLFEC_count n k).gi f j = h.gi f j :=
    gi_inci_elsewhere h F.MOLFEC_count f n j k ha
  have state : (h.inci F.MOLFEC_count n k).gi F.MOLPSTAT_state n = h.gi F.MOLPSTAT_state n :=
    e _ _ (by show 0x28100 + 0x40 * n ≠ _; omega)
  refine ⟨?_, hx, ?_, ?_, ?_, hsw⟩
  · rw [portUp, state]; exact hup
  · rw [on, g, e _ _ (by show 0x28000 ≠ _; omega)]; exact hen
  · rw [e _ _ (by show 0x28108 + 0x40 * n ≠ _; omega)]; exact hlane
  · rw [state]; exact hst

theorem threshold_symbols (k : Nat) : (h.inci F.MOLFEC_count n k).g F.MOLLANETHR_symbols = h.g F.MOLLANETHR_symbols :=
  gi_inci_elsewhere h F.MOLFEC_count F.MOLLANETHR_symbols n 0 k (by show 0x28008 ≠ 0x28110 + 0x40 * n; omega)

/-! ### Ports that fail (R236) -/

/-- The hub with port `n` marked as failed: recorded, and nothing more to send on it. -/
def portDown (cause : Nat) : Hub :=
  let g := ((h.pi F.MOLPSTAT_state n 4).devEv 0x0203 4 (n + cause * 256 + injBit false)).p F.MOLSTAT_port_fail 1
  g.setPort n { g.port n with replay := [], waitq := [], swap := none }

theorem gi_remap_portDown (cause : Nat) (f : Fld) (hf : f.a = 0x28104 ∧ f.stride = 0x40) :
    (((h.pi F.MOLPSTAT_state n 4).devEv 0x0203 4 (n + cause * 256 + injBit false)).p F.MOLSTAT_port_fail 1).gi f n = h.gi f n := by
  obtain ⟨ha, hs⟩ := hf
  unfold gi
  rw [ha, hs, reg_p_ne _ F.MOLSTAT_port_fail 1 (by show _ ≠ 0x28004; omega)]
  have e := reg_pi_ne h F.MOLPSTAT_state n 4 (0x28104 + 0x40 * n) (by show _ ≠ 0x28100 + 0x40 * n; omega)
  rw [← e]
  unfold devEv
  dsimp only
  rw [reg_p_ne _ F.DGDJPOS_position _ (by show _ ≠ 0x4C018; omega)]
  rfl

/-- A port that no parallel port replaces and that none of the group's leats use fails alone. -/
theorem portFail_alone (cause : Nat) (hup : h.portUp n = true) (hp : (h.portDown n cause).parallelPort n = none)
    (ha : (h.portDown n cause).groupPorts.contains (h.gi F.MOLREMAP_primary n) = false)
    (hb : (h.portDown n cause).groupPorts.contains (h.gi F.MOLREMAP_second n) = false) :
    h.portFail n cause = (h.portDown n cause).rewriteRoutes.reroute n := by
  unfold portFail
  rw [if_neg (by simp [hup])]
  dsimp only
  rw [gi_remap_portDown h n cause F.MOLREMAP_primary ⟨rfl, rfl⟩, gi_remap_portDown h n cause F.MOLREMAP_second ⟨rfl, rfl⟩]
  change Hub.reroute (Hub.rewriteRoutes (match (h.portDown n cause).parallelPort n with
    | some k => _
    | none => if (h.portDown n cause).groupPorts.contains _ || (h.portDown n cause).groupPorts.contains _ then _ else h.portDown n cause)) n = _
  rw [hp, ha, hb]
  rfl

end Hub

end Sys2Proof.Machine
end

section
/-! What the completions of the commands that wait leave, and the entry into a group fault (R277, R389; O55). -/

namespace Sys2Proof.Machine
open Hub

namespace Hub

variable (h : Hub)

/-! ### The registers that a completion writes (R283, R285, R373) -/

/-- The registers that a record on a completion ring writes: causes and status of interrupts, counts of injections and of device events,
and the position and overflow bit of its ring. -/
def completionRegs : List Nat :=
  [F.INTCAUSE_cause.a, F.INTSTAT_rec_check.a, F.INTINJFIRE_count.a, F.DGDJPOS_position.a]
  ++ (List.range 16).map (fun p => F.CMPPROD_p.a + F.CMPPROD_p.stride * p)
  ++ (List.range 16).map (fun p => F.CMPSTAT_overflow.a + F.CMPSTAT_overflow.stride * p)

section

variable {a : Nat} (ha : a ∉ completionRegs)
include ha

theorem not_completionRegs : a ≠ F.INTCAUSE_cause.a ∧ a ≠ F.INTSTAT_rec_check.a ∧ a ≠ F.INTINJFIRE_count.a ∧ a ≠ F.DGDJPOS_position.a
    ∧ (∀ p < 16, a ≠ F.CMPPROD_p.a + F.CMPPROD_p.stride * p) ∧ ∀ p < 16, a ≠ F.CMPSTAT_overflow.a + F.CMPSTAT_overflow.stride * p := by
  simp only [completionRegs, List.mem_append, List.mem_cons, List.mem_map, List.mem_range, List.not_mem_nil, or_false, not_or, not_exists,
    not_and] at ha
  obtain ⟨⟨⟨cause, status, fired, position⟩, prod⟩, full⟩ := ha
  exact ⟨cause, status, fired, position, fun p hp e => prod p hp e.symm, fun p hp e => full p hp e.symm⟩

theorem reg_devEv_apart (code die data status : Nat) : (h.devEv code die data status).reg a = h.reg a := by
  obtain ⟨-, -, -, position, -, -⟩ := not_completionRegs ha
  unfold devEv; dsimp only
  rw [reg_p_ne _ _ _ position]; rfl

theorem reg_fireInj_apart (x : Nat) (m : Inj → Bool) : (h.fireInj x m).2.reg a = h.reg a := by
  obtain ⟨-, -, fired, -, -, -⟩ := not_completionRegs ha
  show (h.fireAt x m).2.reg a = _
  unfold fireAt; dsimp only
  split
  · rfl
  · exact (reg_p_ne _ F.INTINJFIRE_count _ fired).trans (reg_devEv_apart _ ha _ _ _ _)

theorem reg_recCheck_apart (p : Nat) : (h.recCheck false p).2.reg a = h.reg a := by
  obtain ⟨cause, status, -, -, -, -⟩ := not_completionRegs ha
  have flagged (g : Hub) : (g.flag F.INTSTAT_rec_check 32).reg a = g.reg a :=
    (reg_signal_ne _ 32 a cause).trans (reg_p_ne g F.INTSTAT_rec_check 1 status)
  have twice (m : Inj → Bool) : (((h.fireInj 0x19 m).2.flag F.INTSTAT_rec_check 32).fireInj 0x19 m).2.reg a = h.reg a := by
    rw [reg_fireInj_apart _ ha, flagged, reg_fireInj_apart h ha]
  unfold recCheck
  extract_lets ringNo bad dead
  split
  · exact reg_fireInj_apart h ha _ _
  · split
    · exact twice _
    · exact twice _

theorem reg_ringWrite_apart (p : Nat) (hp : p < 16) (r : Rcd) (b : Bytes) (k : Nat) : (h.ringWrite false p r b k).reg a = h.reg a := by
  obtain ⟨-, -, -, -, prod, -⟩ := not_completionRegs ha
  unfold ringWrite; dsimp only
  rw [if_neg Bool.false_ne_true, reg_hostPaid]
  refine (reg_pi_ne _ F.CMPPROD_p p _ a (prod p hp)).trans ?_
  exact reg_pads _ _ _ _ _ _

theorem reg_ringLimit_apart (p : Nat) (hp : p < 16) : (h.ringLimit false p).reg a = h.reg a := by
  obtain ⟨-, -, -, -, -, full⟩ := not_completionRegs ha
  unfold ringLimit; dsimp only
  split
  · exact reg_pi_ne _ F.CMPSTAT_overflow p _ a (full p hp)
  · split
    · exact reg_pi_ne _ F.CMPSTAT_overflow p _ a (full p hp)
    · rfl

theorem reg_drainOne_apart (p : Nat) (hp : p < 16) : (h.drainOne false p).2.reg a = h.reg a := by
  unfold drainOne; dsimp only
  split
  · rfl
  · split
    · rfl
    · split
      · split
        · rfl
        · next b g e =>
          have checked : (g.recCheck false p).2.reg a = h.reg a := (reg_recCheck_apart g ha p).trans (reg_envelope h _ b g e)
          split
          · exact (reg_ringWrite_apart _ ha p hp _ _ _).trans ((reg_setRing _ _ _ _).trans checked)
          · exact checked
      · split
        · rfl
        · exact (reg_emit _ _ _).trans (reg_setRing _ _ _ _)

theorem reg_drain_apart (p : Nat) (hp : p < 16) (fuel : Nat) : (h.drain false p fuel).reg a = h.reg a := by
  induction fuel generalizing h with
  | zero => rfl
  | succ fuel ih =>
    unfold drain; dsimp only
    split
    · rw [ih, reg_drainOne_apart h ha p hp]
    · exact reg_drainOne_apart h ha p hp

/-- A completion leaves every register but those that a completion ring's record writes. -/
theorem reg_complete_apart (c : Sub) (st : BitVec 8) (d : Nat) (nsi : W64) : (h.complete c st d nsi).reg a = h.reg a := by
  unfold complete
  split
  · rfl
  · unfold pushRec; dsimp only
    rw [reg_ringLimit_apart _ ha _ c.part.isLt, reg_drain_apart _ ha _ c.part.isLt, reg_setRing]

end

/-! ### The commands that wait (R277) -/

/-- The hub once the commands that wait on its sessions, in Hopper's queue and on its checkpoints and lookups have completed. -/
def heldCompleted : Hub :=
  let h1 := h.sess.foldl (fun h e =>
    (e.2.actions ++ e.2.parkSubs ++ e.2.revSubs).foldl (fun h c => h.complete c St.deviceFault 0 e.2.r.nsi) h) h
  let h2 := h1.hopq.foldl (fun h q => match q.sub with
    | some c => h.complete c St.deviceFault 0 (h.s q.h).r.nsi
    | none => h) h1
  let h3 := h2.hopq.foldl (fun h q => h.modS q.h (fun x => { x with intakes := x.intakes - 1 })) h2
  (h3.ck.forced ++ h3.aix.held).foldl (fun h c => h.complete c St.deviceFault) h3

/-- What every completion and every change of a session keeps, the completion of the commands that wait keeps. -/
theorem heldCompleted_keeps {γ : Type} (φ : Hub → γ) (hc : ∀ g c st d nsi, φ (complete g c st d nsi) = φ g)
    (hm : ∀ g i f, φ (modS g i f) = φ g) : φ h.heldCompleted = φ h := by
  unfold heldCompleted
  extract_lets h1 h2 h3
  have e1 : φ h1 = φ h := foldl_keeps h φ _ (fun g e => foldl_keeps g φ _ (fun g c => hc g c _ _ _) _) _
  have e2 : φ h2 = φ h := by
    refine (foldl_keeps h1 φ _ (fun g q => ?_) _).trans e1
    split
    · exact hc g _ _ _ _
    · rfl
  have e3 : φ h3 = φ h := (foldl_keeps h2 φ _ (fun g q => hm g _ _) _).trans e2
  exact (foldl_keeps h3 φ _ (fun g c => hc g c _ _ _) _).trans e3

theorem hopq_failHeld : h.failHeld.hopq = [] := rfl

/-- The NT of the fault is the node time at the entry. -/
theorem faultNt_failHeld : h.failHeld.ck.faultNt = some h.nt :=
  congrArg some (heldCompleted_keeps h Hub.nt (fun g c st d nsi => nt_of_still (still_complete g c st d nsi)) (fun _ _ _ => rfl))

theorem reg_failHeld_apart {a : Nat} (ha : a ∉ completionRegs) : h.failHeld.reg a = h.reg a :=
  heldCompleted_keeps h (fun g => g.reg a) (fun g c st d nsi => reg_complete_apart g ha c st d nsi) (fun g i f => reg_modS g i f a)

/-! ### The entry into a group fault (R389) -/

/-- The registers that tell a group fault. -/
def faultNoted (cause dev : Nat) : Hub :=
  let h := (h.p F.POOLSTAT_group_fault 1).p F.INTSTAT_group_fault 1
  let h := ((h.p F.INTFAULT_cause cause).p F.INTFAULT_device dev).p F.INTFAULT_step h.stepNo
  h.p F.INTFAULTNT_nt h.nt.toNat

/-- What a hub in group fault since `nt` for `cause` at device `dev` holds. -/
structure InFault (cause dev : Nat) (nt : Nt) : Prop where
  faulted : h.faulted = true
  cause : h.g F.INTFAULT_cause = cause % 2 ^ 8
  device : h.g F.INTFAULT_device = dev % 2 ^ 6
  time : h.g F.INTFAULTNT_nt = nt.toNat
  cur : h.grp.cur = none
  frames : h.grp.frames = []
  hopq : h.hopq = []
  faultNt : h.ck.faultNt = some nt

theorem faulted_faultNoted (cause dev : Nat) : (h.faultNoted cause dev).faulted = true := by
  unfold faultNoted faulted
  dsimp only
  rw [on_p_ne _ F.INTFAULTNT_nt _ _ (by decide) (by decide), on_p_ne _ F.INTFAULT_step _ _ (by decide) (by decide),
    on_p_ne _ F.INTFAULT_device _ _ (by decide) (by decide), on_p_ne _ F.INTFAULT_cause _ _ (by decide) (by decide),
    on_p_ne _ F.INTSTAT_group_fault _ _ (by decide) (by decide), on_p_same _ _ (by decide)]

theorem cause_faultNoted (cause dev : Nat) : (h.faultNoted cause dev).g F.INTFAULT_cause = cause % 2 ^ 8 := by
  unfold faultNoted
  dsimp only
  rw [g_p_ne _ F.INTFAULTNT_nt _ _ (by decide) (by decide), g_p_ne _ F.INTFAULT_step _ _ (by decide) (by decide),
    g_p_ne _ F.INTFAULT_device _ _ (by decide) (by decide), g_p_same _ _ _ (by decide)]
  rfl

theorem device_faultNoted (cause dev : Nat) : (h.faultNoted cause dev).g F.INTFAULT_device = dev % 2 ^ 6 := by
  unfold faultNoted
  dsimp only
  rw [g_p_ne _ F.INTFAULTNT_nt _ _ (by decide) (by decide), g_p_ne _ F.INTFAULT_step _ _ (by decide) (by decide),
    g_p_same _ _ _ (by decide)]
  rfl

theorem time_faultNoted (cause dev : Nat) : (h.faultNoted cause dev).g F.INTFAULTNT_nt = h.nt.toNat := by
  unfold faultNoted
  dsimp only
  rw [g_p_same _ _ _ (by decide)]
  simp only [p_nt]
  exact Nat.mod_eq_of_lt h.nt.isLt

/-- What the entry into a group fault leaves: the steps in flight stop, nothing waits in Hopper, and recording and signalling the fault and
completing what waits leave the registers that tell it. -/
theorem enterFault_leaves (cause dev : Nat) (hf : h.faulted = false) (hs : h.g F.POOLROLE_size ≠ 0) :
    let u := h.enterFault cause dev
    u.grp.cur = none ∧ u.grp.frames = [] ∧ u.hopq = [] ∧ u.ck.faultNt = some h.nt
      ∧ ∀ a, a ∉ completionRegs → u.reg a = (h.faultNoted cause dev).reg a := by
  unfold enterFault
  rw [if_neg (by simp [hf, hs])]
  extract_lets h1 h2 h3 h4 h5
  have noted : h3 = h.faultNoted cause dev := rfl
  have regs (a) (ha : a ∉ completionRegs) : h5.reg a = h3.reg a := by
    rw [reg_failHeld_apart _ ha, reg_signal_ne _ 33 a (not_completionRegs ha).1, reg_devEv_apart _ ha]
  have hopq : h5.hopq = [] := hopq_failHeld _
  have faultNt : h5.ck.faultNt = some h.nt := by
    rw [faultNt_failHeld, nt_of_still (still_signal _ 33), nt_of_still (still_devEv _ _ _ _ _)]
    simp only [h3, h2, h1, p_nt]
  rw [← noted]
  clear_value h3 h5
  exact ⟨rfl, rfl, hopq, faultNt, regs⟩

theorem enterFault_enters (cause dev : Nat) (hf : h.faulted = false) (hs : h.g F.POOLROLE_size ≠ 0) :
    (h.enterFault cause dev).InFault cause dev h.nt := by
  obtain ⟨cur, frames, hopq, faultNt, regs⟩ := enterFault_leaves h cause dev hf hs
  have told (f : Fld) (ha : f.a ∉ completionRegs) : (h.enterFault cause dev).g f = (h.faultNoted cause dev).g f := g_of_reg f (regs _ ha)
  refine ⟨?_, (told _ (by decide)).trans (cause_faultNoted h cause dev), (told _ (by decide)).trans (device_faultNoted h cause dev),
    (told _ (by decide)).trans (time_faultNoted h cause dev), cur, frames, hopq, faultNt⟩
  rw [faulted, on, told _ (by decide)]
  exact faulted_faultNoted h cause dev

/-- What closes a command leaves a hub in group fault in it. -/
theorem InFault.finish {cause dev : Nat} {nt : Nt} (old : Hub) (e : h.InFault cause dev nt) : (finish old h).InFault cause dev nt := by
  have again : ({ h with hubBad := false } : Hub).raiseFault 0xA = { h with hubBad := false } := by
    have inIt : ({ h with hubBad := false } : Hub).faulted = true := e.faulted
    unfold raiseFault
    rw [if_pos (by rw [inIt]; rfl)]
  obtain ⟨n, o, eq⟩ := closing h old
  rw [eq, again]
  split <;> exact ⟨e.faulted, e.cause, e.device, e.time, e.cur, e.frames, e.hopq, e.faultNt⟩

end Hub

end Sys2Proof.Machine
end

section
/-! The commands of a Molair link (O55). -/

namespace Sys2Proof.Machine
open Hub

section

variable {tm : Nt} {port : BitVec 4} {fr : Frame} {s : State} {h : Hub} (hh : s.hub.stamp tm = h)
include hh

/-! ### Frames (R233, R234, R239, R241, R243, R244) -/

/-- The payload of a frame of the step in progress lands. -/
theorem staticFrame_lands (hup : h.portUp port.toNat = true) (hon : h.on F.MOLCTL_enable = true) (hi : h.inj = [])
    (hseq : fr.lseq = (h.port port.toNat).recvSeq) (ht : fr.typ = 1) (hstep : bitsOf fr.tag.toNat 31 16 = h.stepNo % 2 ^ 16) :
    let i := bitsOf fr.tag.toNat 15 0
    let u : Hub := { h.accepted port fr with landing := smPut h.landing i (smGet [] h.landing i ++ [(padTo 512 fr.payload, fr.poison)]) }
    EndsWith (.staticFrame tm port fr) s u (landAll u s.stn) := by
  have mine : ¬ ((!true || bitsOf fr.tag.toNat 31 16 ≠ (h.accepted port fr).stepNo % 2 ^ 16) = true) := by
    rw [stepNo_accepted, hstep]; simp
  show execStaticFrame tm port fr s = _
  unfold execStaticFrame
  rw [hh]; dsimp only
  rw [if_neg (by rw [ht]; decide), if_neg (by rw [ht]; decide), rxFrame_next hup hon hi hseq]
  exact if_neg mine

/-- A frame of an unknown type is a check failure. -/
theorem staticFrame_unknown (hup : h.portUp port.toNat = true) (ht : 4 < fr.typ.toNat) :
    exec (.staticFrame tm port fr) s = .next { s with hub := h.frameBad port.toNat } := by
  show execStaticFrame tm port fr s = _
  unfold execStaticFrame
  rw [hh]; dsimp only
  rw [if_pos ht, if_pos hup]

theorem dynamicFrame_unknown (hup : h.portUp port.toNat = true) (ht : 4 < fr.typ.toNat) :
    Ends (.dynamicFrame tm port fr) s (h.frameBad port.toNat) := by
  show execDynamicFrame tm port fr s = _
  unfold execDynamicFrame
  exact onHub_ends hh ((if_pos ht).trans (if_pos hup))

/-- A frame of the dynamic class that is accepted goes on. -/
theorem dynamicFrame_accepted (ht : fr.typ = 3) {g : Hub} (hrx : h.rxFrame port.toNat fr = (true, g)) :
    Ends (.dynamicFrame tm port fr) s (g.dynFrame port.toNat fr) := by
  show execDynamicFrame tm port fr s = _
  unfold execDynamicFrame
  refine onHub_ends hh ?_
  rw [if_neg (by rw [ht]; decide), if_neg (by rw [ht]; decide), hrx]
  exact if_pos rfl

theorem dynamicFrame_dropped (ht : fr.typ = 3) {g : Hub} (hrx : h.rxFrame port.toNat fr = (false, g)) :
    Ends (.dynamicFrame tm port fr) s g := by
  show execDynamicFrame tm port fr s = _
  unfold execDynamicFrame
  refine onHub_ends hh ?_
  rw [if_neg (by rw [ht]; decide), if_neg (by rw [ht]; decide), hrx]
  exact if_neg Bool.false_ne_true

theorem frameCheckFailure_active (k : BitVec 16) (hup : h.portUp port.toNat = true) (hon : h.on F.MOLCTL_enable = true) :
    Ends (.frameCheckFailure tm port k) s
      (((h.setPort port.toNat { h.port port.toNat with lastRx := h.nt }).inci F.MOLFEC_count port.toNat k.toNat).frameBad port.toNat) := by
  show execFrameCheckFailure tm port k s = _
  unfold execFrameCheckFailure
  exact onHub_ends hh (if_neg (by simp [hup, hon]))

theorem frameCheckFailure_inactive (k : BitVec 16) (hn : ¬ (h.portUp port.toNat = true ∧ h.on F.MOLCTL_enable = true)) :
    Ends (.frameCheckFailure tm port k) s h := by
  show execFrameCheckFailure tm port k s = _
  unfold execFrameCheckFailure
  refine onHub_ends hh (if_pos ?_)
  rw [Bool.or_eq_true, Bool.not_eq_true', Bool.not_eq_true', ← Bool.not_eq_true, ← Bool.not_eq_true]
  exact not_and_or.1 hn

/-! ### Acknowledgments, resends and credits (R234, R243) -/

section

variable {lseq : BitVec 32} {k : Nat} (hk : (h.port port.toNat).replay.findIdx? (fun f => f.1.lseq == lseq) = some k)
include hk

/-- What an acknowledgment of a frame in the replay buffer leaves: the frames up to it are released, and those that waited go out. -/
theorem acknowledgment_releases :
    let q : Port := { h.port port.toNat with lastRx := h.nt }
    Ends (.acknowledgment tm port lseq) s
      (((h.heard port.toNat).setPort port.toNat { q with replay := q.replay.drop (k + 1) }).sendWaiting port.toNat) := by
  intro q
  have hq : (h.heard port.toNat).port port.toNat = q := port_heard h _ (port_present h _ hk)
  show execAcknowledgment tm port lseq s = _
  unfold execAcknowledgment
  refine onHub_ends hh ?_
  rw [acked_some (k := k) (by rw [hq]; exact hk), hq]

theorem acknowledgment_frees (hw : (h.port port.toNat).waitq = []) :
    let q : Port := { h.port port.toNat with lastRx := h.nt }
    Ends (.acknowledgment tm port lseq) s (h.setPort port.toNat { q with replay := q.replay.drop (k + 1) }) := by
  intro q
  have ends := acknowledgment_releases hh hk
  have idle := sendWaiting_idle h port.toNat { q with replay := q.replay.drop (k + 1) } (port_present h _ hk) hw
  dsimp only at ends
  rw [Hub.heard, setPort_setPort, idle] at ends
  exact ends

/-- What a NAK of a frame in the replay buffer leaves where none of those to resend has been resent 8 times: they go out again, and
those that waited follow. -/
theorem nak_resends (hup : h.portUp port.toNat = true) (ht : ¬ ∃ f ∈ (h.port port.toNat).replay.drop k, 8 ≤ f.2) :
    let q : Port := { h.port port.toNat with lastRx := h.nt }
    let left := q.replay.drop k
    Ends (.nak tm port lseq) s ((left.foldl (fun (g : Hub) f => g.emit (.frame port f.1))
      (((h.heard port.toNat).setPort port.toNat { q with replay := resent left }).inci F.MOLRETRY_count port.toNat left.length)).sendWaiting
        port.toNat) := by
  intro q left
  have hq : (h.heard port.toNat).port port.toNat = q := port_heard h _ (port_present h _ hk)
  show execNak tm port lseq s = _
  unfold execNak
  refine onHub_ends hh ?_
  rw [naked_resends (h := h.heard port.toNat) port (k := k) hup (by rw [hq]; exact hk) (by rw [hq]; exact ht), hq]

theorem nak_fails (hup : h.portUp port.toNat = true) (ht : ∃ f ∈ (h.port port.toNat).replay.drop k, 8 ≤ f.2) :
    Ends (.nak tm port lseq) s ((h.heard port.toNat).portFail port.toNat 1) := by
  have hq := port_heard h _ (port_present h _ hk)
  show execNak tm port lseq s = _
  unfold execNak
  refine onHub_ends hh ?_
  rw [naked_tired (h := h.heard port.toNat) (k := k) hup (by rw [hq]; exact hk) (by rw [hq]; exact ht)]

end

theorem acknowledgment_unknown {lseq : BitVec 32} (hk : (h.port port.toNat).replay.findIdx? (fun f => f.1.lseq == lseq) = none) :
    Ends (.acknowledgment tm port lseq) s (h.heard port.toNat) := by
  show execAcknowledgment tm port lseq s = _
  unfold execAcknowledgment
  refine onHub_ends hh ?_
  rw [acked_none (by rw [replay_heard]; exact hk)]

theorem nak_unknown {lseq : BitVec 32} (hk : (h.port port.toNat).replay.findIdx? (fun f => f.1.lseq == lseq) = none) :
    Ends (.nak tm port lseq) s (h.heard port.toNat) := by
  show execNak tm port lseq s = _
  unfold execNak
  refine onHub_ends hh ?_
  rw [naked_none (by rw [replay_heard]; exact hk)]

theorem credit_ends (c : BitVec 4) (k : BitVec 8) :
    let p := h.port port.toNat
    Ends (.credit tm port c k) s
      (h.setPort port.toNat { p with lastRx := h.nt, credits := p.credits.modify c.toNat (· + k.toNat) }) := by
  show execCredit tm port c k s = _
  unfold execCredit
  refine onHub_ends hh ?_
  dsimp only
  rcases Nat.lt_or_ge port.toNat h.ports.length with hn | hn
  · rw [port_heard h _ hn]
  · rw [setPort_absent h _ _ hn, setPort_absent h _ _ hn]

/-! ### Lanes (R235) -/

theorem laneSwap_agreed (lane : BitVec 4) (hup : h.portUp port.toNat = true) (hs : (h.port port.toNat).swap = some lane) :
    Ends (.laneSwap tm port) s (h.laneSpared port.toNat lane.toNat) := by
  show execLaneSwap tm port s = _
  unfold execLaneSwap
  refine onHub_ends hh ?_
  dsimp only
  rw [if_pos (show (h.port port.toNat).swap.isSome = true by rw [hs]; rfl)]
  dsimp only
  rw [if_neg (by simp [hup, hs]), hs]
  rfl

/-- A swap that the other end has asked for replaces a lane that a free value names. -/
theorem laneSwap_asked (hup : h.portUp port.toNat = true) (hs : (h.port port.toNat).swap = none)
    (hlane : h.gi F.MOLLANE_lane port.toNat = 0xF) (hst : h.gi F.MOLPSTAT_state port.toNat ≠ 3) :
    Ends (.laneSwap tm port) s (h.fresh.2.laneSpared port.toNat (h.fresh.1.toNat % 8)) := by
  have hup' : h.fresh.2.portUp port.toNat = true := hup
  have hs' : (h.fresh.2.port port.toNat).swap = none := hs
  have hlane' : h.fresh.2.gi F.MOLLANE_lane port.toNat = 0xF := hlane
  have hst' : h.fresh.2.gi F.MOLPSTAT_state port.toNat ≠ 3 := hst
  have low : (BitVec.ofNat 4 (h.fresh.1.toNat % 8)).toNat = h.fresh.1.toNat % 8 := by
    rw [BitVec.toNat_ofNat]; omega
  show execLaneSwap tm port s = _
  unfold execLaneSwap
  refine onHub_ends hh ?_
  dsimp only
  rw [if_neg (show ¬ (h.port port.toNat).swap.isSome = true by rw [hs]; exact Bool.false_ne_true)]
  rw [if_neg (by simp [hup', hs', hlane', hst']), hs', Option.getD_none, low]
  rfl

theorem laneSwap_down (lane : BitVec 4) (hup : ¬ h.portUp port.toNat = true) (hs : (h.port port.toNat).swap = some lane) :
    Ends (.laneSwap tm port) s h := by
  show execLaneSwap tm port s = _
  unfold execLaneSwap
  refine onHub_ends hh ?_
  dsimp only
  rw [if_pos (show (h.port port.toNat).swap.isSome = true by rw [hs]; rfl)]
  exact if_pos (by simp [hup])

theorem laneLockLoss_ends (lane : BitVec 4) : Ends (.laneLockLoss tm port lane) s (h.laneFail port.toNat lane.toNat) := by
  show execLaneLockLoss tm port lane s = _
  unfold execLaneLockLoss
  exact onHub_ends hh rfl

theorem symbolWindow_few (lane : BitVec 4) (k : BitVec 32) (hup : h.portUp port.toNat = true)
    (hk : k.toNat ≤ max 1 (h.g F.MOLLANETHR_symbols)) :
    Ends (.symbolWindow tm port lane k) s (h.inci F.MOLFEC_count port.toNat k.toNat) := by
  show execSymbolWindow tm port lane k s = _
  unfold execSymbolWindow symbolsSeen
  refine onHub_ends hh ((if_pos hup).trans ?_)
  dsimp only
  rw [threshold_symbols, if_neg (not_lt.2 hk)]

theorem symbolWindow_many (lane : BitVec 4) (k : BitVec 32) (hup : h.portUp port.toNat = true)
    (hk : max 1 (h.g F.MOLLANETHR_symbols) < k.toNat) :
    Ends (.symbolWindow tm port lane k) s ((h.inci F.MOLFEC_count port.toNat k.toNat).laneFail port.toNat lane.toNat) := by
  show execSymbolWindow tm port lane k s = _
  unfold execSymbolWindow symbolsSeen
  refine onHub_ends hh ((if_pos hup).trans ?_)
  dsimp only
  rw [threshold_symbols, if_pos hk]

/-! ### Silence and group faults (R236, R389) -/

theorem portSilence_silent (ht : (h.port port.toNat).lastRx.toNat + 10000 ≤ h.nt.toNat) :
    Ends (.portSilence tm port) s (h.portFail port.toNat 2) := by
  show execPortSilence tm port s = _
  unfold execPortSilence
  exact onHub_ends hh (if_pos ht)

theorem portSilence_early (ht : h.nt.toNat < (h.port port.toNat).lastRx.toNat + 10000) : Ends (.portSilence tm port) s h := by
  show execPortSilence tm port s = _
  unfold execPortSilence
  exact onHub_ends hh (if_neg (not_le.2 ht))

theorem groupFaultFrame_member {src : BitVec 6} {cause : BitVec 8}
    (hm : h.dev - h.position ≤ src.toNat ∧ src.toNat < h.dev - h.position + h.g F.POOLROLE_size) :
    Ends (.groupFaultFrame tm src cause) s (h.enterFault cause.toNat src.toNat) := by
  show execGroupFaultFrame tm src cause s = _
  unfold execGroupFaultFrame
  exact onHub_ends hh (if_pos hm)

theorem groupFaultFrame_other {src : BitVec 6} {cause : BitVec 8}
    (hm : ¬ (h.dev - h.position ≤ src.toNat ∧ src.toNat < h.dev - h.position + h.g F.POOLROLE_size)) :
    Ends (.groupFaultFrame tm src cause) s h := by
  show execGroupFaultFrame tm src cause s = _
  unfold execGroupFaultFrame
  exact onHub_ends hh (if_neg hm)

end

/-! ### The statement -/

/-- Settles O55, command by command: what a frame in order, a gap and a bad frame leave; an acknowledgment and a NAK by what the replay
buffer holds of the frame they name; a lane by whether it can give way; a silent port by what replaces it; and the entry into a group fault. -/
theorem molairLinks : Obligations.MolairLinks := by
  intro tm port fr s h n p up on next taken credited q heard bad free swap base
  have hh : s.hub.stamp tm = h := rfl
  have fails (g : Hub) : bad g = g.frameBad n := by
    unfold frameBad; rw [ofNat_toNat_four]
  have here : h.dev = (h.accepted port fr).dev := (dev_accepted h port fr).symm
  have onward (hn : next) (ht : fr.typ = 3) {g : Hub} (hg : (h.accepted port fr).dynFrame n fr = g) : Ends (.dynamicFrame tm port fr) s g := by
    obtain ⟨⟨hup, hon⟩, hi, hseq⟩ := hn
    rw [← hg]
    exact dynamicFrame_accepted hh ht (rxFrame_next hup hon hi hseq)
  refine ⟨fun ⟨⟨hup, hon⟩, hi, hseq⟩ ht hstep => staticFrame_lands hh hup hon hi hseq ht hstep, fun hup ht => ?unknown,
    fun hn ht hd hl => onward hn ht (dynFrame_part _ port fr (hd.trans here) hl),
    fun hn ht hd hl => onward hn ht (dynFrame_whole _ port fr (hd.trans here) hl),
    fun m hn ht hd hr => onward hn ht (dynFrame_forward _ port fr m (fun e => hd (e.trans here.symm)) hr),
    fun ⟨hup, hon⟩ hi ht hseq hgap => dynamicFrame_dropped hh ht (rxFrame_gap hup hon hi hseq hgap), fun k ⟨hup, hon⟩ => ?check,
    fun k hn => frameCheckFailure_inactive hh k hn, fun lseq k hk => ?held, fun lseq hk => ⟨acknowledgment_unknown hh hk, nak_unknown hh hk⟩,
    fun c k => credit_ends hh c k,
    fun lane hup hs => laneSwap_agreed hh lane hup hs, fun hup hs hlane hst => laneSwap_asked hh hup hs hlane hst,
    fun lane hup hs => laneSwap_down hh lane hup hs, fun lane hup hl => ?lock, fun lane k hup => ?symbols,
    fun hup ht => ⟨portSilence_silent hh ht, fun hp ha hb => ?alone⟩, fun ht => portSilence_early hh ht,
    fun src cause hlo hhi hf => ?fault, fun src cause hout => groupFaultFrame_other hh fun hm => ?other⟩
  case unknown =>
    rw [fails]
    exact ⟨staticFrame_unknown hh hup ht, dynamicFrame_unknown hh hup ht⟩
  case check =>
    rw [fails]
    exact frameCheckFailure_active hh k hup hon
  case held =>
    exact ⟨acknowledgment_releases hh hk, fun hw => acknowledgment_frees hh hk hw, fun hup ht => nak_resends hh hk hup ht,
      fun hup ht => nak_fails hh hk hup ht⟩
  case lock =>
    have ends := laneLockLoss_ends (port := port) hh lane
    refine ⟨fun ⟨hen, hlane, hst, hsw⟩ => ?_, fun hf => ?_⟩
    · rw [laneFail_spared port lane hl ⟨hup, (Nat.mod_le _ _).trans_lt hl, hen, hlane, hst, hsw⟩] at ends
      exact ends
    · rw [laneFail_unspared port lane hup hl fun ⟨_, _, hen, hlane, hst, hsw⟩ => hf ⟨hen, hlane, hst, hsw⟩] at ends
      exact ends
  case symbols =>
    refine ⟨fun hk => symbolWindow_few hh lane k hup hk, fun hk hl ⟨hen, hlane, hst, hsw⟩ => ?_⟩
    have fits := laneFits_symbols h n k.toNat _ ⟨hup, (Nat.mod_le _ _).trans_lt hl, hen, hlane, hst, hsw⟩
    have ends := symbolWindow_many hh lane k hup hk
    rw [laneFail_spared port lane hl fits] at ends
    exact ends
  case alone =>
    have ends := portSilence_silent hh ht
    rw [portFail_alone h n 2 hup hp ha hb] at ends
    exact ends
  case fault =>
    have hs : h.g F.POOLROLE_size ≠ 0 := by
      intro hz; rw [hz] at hhi; exact absurd hlo (not_le.2 hhi)
    have u := (enterFault_enters h cause.toNat src.toNat hf hs).finish _ s.hub
    exact (groupFaultFrame_member hh ⟨hlo, hhi⟩).answers ⟨u.faulted, u.cause.trans (Nat.mod_eq_of_lt cause.isLt),
      u.device.trans (Nat.mod_eq_of_lt src.isLt), u.time, u.cur, u.frames, u.hopq, u.faultNt, rfl, rfl⟩
  case other =>
    obtain ⟨hlo, hhi⟩ := hm
    exact hout.elim (fun hlt => absurd hlo (not_le.2 hlt)) (fun hle => absurd hhi (not_lt.2 hle))

end Sys2Proof.Machine
end

section
/-! LRECV on a stone whose table of awaited leats is not in canonical form (O14). -/

namespace Sys2Proof.Machine

/-- A device of the group of a plan whose leat 1 receives one frame; nothing of it has arrived. -/
def awaitHub : Hub := { heldHub with im := { plans := [(0, [{ heldPlan with leats := [0, 0x153] }])] } }

/-- A stone that waits for leat 1 at line 16, an entry that stands behind one of a higher key: not a canonical form (`Stone.wf`), which the
statement does not ask for. -/
def unsortedStone : Stone := { lrecv := [(2, (0, 0)), (1, (16, 0))] }

def unsortedState : State := { hub := awaitHub, stn := { st := [(0, unsortedStone)] } }

/-- LRECV of leat 1 at line 8. -/
def recvWord : W64 := 0x0200200004000000

/-- The hypotheses under which O14 says where LRECV goes on waiting: fewer payloads have landed than the leat has frames. -/
theorem unsortedState_waits :
    linkOk 0x02 recvWord = true
    ∧ (awaitHub.landed (wf recvWord 41 26)).length < ((awaitHub.leat (wf recvWord 41 26)).map (·.frames)).getD 0 := by decide +kernel

theorem recvWord_fields : wf recvWord 41 26 = 1 ∧ wf recvWord 55 42 = 8 := by decide +kernel

/-- The wait at line 8 is listed before key 2, and the entry behind that key is then taken as one more wait for leat 1: its line remains. -/
theorem unsortedState_line : Answers (.lrecv 1000 0 recvWord) unsortedState (fun t => smLook (t.stn.get 0).lrecv 1 = some (16, 0)) :=
  ⟨_, rfl, by decide +kernel⟩

/-- Refutes O14: the clause of LRECV has the stone wait at the line of its word, for stones in any form, where a stone whose table of awaited
leats is out of order keeps the line of an entry it held before. -/
theorem not_linkSlots : ¬ Obligations.LinkSlots := by
  intro h
  obtain ⟨hok, few⟩ := unsortedState_waits
  obtain ⟨leat, line⟩ := recvWord_fields
  obtain ⟨-, frames, -⟩ := h
  obtain ⟨-, -, receives, -⟩ := frames 1000 0 recvWord unsortedState
  obtain ⟨t, ht, -, -, waits, -⟩ := receives hok
  obtain ⟨t', ht', kept⟩ := unsortedState_line
  cases ht.symm.trans ht'
  have asked : smLook (t.stn.get 0).lrecv (wf recvWord 41 26) = some (wf recvWord 55 42, _) := waits few
  rw [leat, line, kept] at asked
  cases asked

end Sys2Proof.Machine
end

section
/-! Where a command stops the machine: at a word that the device refuses to load, and nowhere else (R248, R261; O4). -/

namespace Sys2Proof.Machine
open Hub

/-! ### The outcomes that stop for one reason alone -/

/-- An outcome that stops at an undefined encoding where `bad` holds and answers a next state otherwise: no other stop and no refusal. -/
def StopsIf (bad : Bool) (o : Host.Outcome State Fault Refusal) : Prop :=
  (bad = true → o = .fault .undefinedEncoding) ∧ (bad = false → ∃ t, o = .next t)

theorem stopsIf_next {o : Host.Outcome State Fault Refusal} (ho : ∃ t, o = .next t) : StopsIf false o :=
  ⟨fun h => (Bool.false_ne_true h).elim, fun _ => ho⟩

/-- The check of a bundle slot's word, before the slot's effect. -/
theorem stopsIf_ite {ok : Bool} {o : Host.Outcome State Fault Refusal} (ho : ∃ t, o = .next t) :
    StopsIf (!ok) (if !ok then .fault .undefinedEncoding else o) := by
  refine ⟨fun h => if_pos h, fun h => ?_⟩
  rwa [if_neg (Bool.eq_false_iff.1 h)]

/-! ### Words that are checked -/

/-- A session instruction: its opcode and its program decide whether its word is defined (R248). -/
theorem stopsIf_instr (t : Nt) (i : Handle) (w : W64) (op : Nat) (f : Hub → Hub) (s : State) :
    StopsIf (iw w 63 56 != op || !s.hub.accepts i w) (instr t i w op f s) := by
  have same : (iw w 63 56 != op || !s.hub.accepts i w) = true ↔ (iw w 63 56 ≠ op || !s.hub.accepts i w) = true := by simp
  unfold instr
  refine ⟨fun h => if_pos (same.1 h), fun h => ?_⟩
  rw [if_neg (mt same.2 (Bool.eq_false_iff.1 h))]
  exact ⟨_, rfl⟩

/-- LSEND, of a leat to send or of one that is not. -/
theorem stopsIf_lsend (t : Nt) (l : BitVec 11) (w : W64) (s : State) : StopsIf (!linkOk 0x01 w) (execLsend t l w s) := by
  refine stopsIf_ite ?_
  dsimp only
  split <;> exact ⟨_, rfl⟩

/-! ### Commands without a word to check that choose among several effects -/

section
variable (t : Nt) (s : State)

theorem stagingLanded_next (die : BitVec 2) (idx : BitVec 32) (st : BitVec 16) (lines : List (BitVec 11 × BitVec 14 × BitVec 512)) :
    ∃ u, execStagingLanded t die idx st lines s = .next u := by
  unfold execStagingLanded; dsimp only
  split <;> exact ⟨_, rfl⟩

theorem stepBoundary_next : ∃ u, execStepBoundary t s = .next u := by
  unfold execStepBoundary; dsimp only
  split
  · exact ⟨_, rfl⟩
  · split <;> exact ⟨_, rfl⟩

theorem partclear_next (w : BitVec 8) (l : CmdLine) : ∃ u, execPartclear t w l s = .next u := by
  unfold execPartclear; dsimp only
  split <;> exact ⟨_, rfl⟩

theorem staticFrame_next (port : BitVec 4) (fr : Frame) : ∃ u, execStaticFrame t port fr s = .next u := by
  unfold execStaticFrame; dsimp only
  split
  · exact ⟨_, rfl⟩
  · split
    · exact ⟨_, rfl⟩
    · split <;> exact ⟨_, rfl⟩

theorem perstDeassert_next (slot : BitVec 7) (testen : Bool) : ∃ u, execPerstDeassert t slot testen s = .next u := by
  unfold execPerstDeassert; dsimp only
  split
  · exact ⟨_, rfl⟩
  · split <;> exact ⟨_, rfl⟩

theorem warmReset_next (v : BitVec 32) : ∃ u, execWarmReset t v s = .next u := by
  unfold execWarmReset; dsimp only
  split
  · exact ⟨_, rfl⟩
  · split
    · exact ⟨_, rfl⟩
    · split <;> exact ⟨_, rfl⟩

/-- A store in BAR0: a write of the reset code, or any other. -/
theorem registerWrite_next (addr : BitVec 20) (v : W64) (wide : Bool) : ∃ u, execRegisterWrite t addr v wide s = .next u := by
  unfold execRegisterWrite
  split
  · exact warmReset_next t s _
  · exact ⟨_, rfl⟩

theorem wakeGrant_next : ∃ u, execWakeGrant t s = .next u := by
  unfold execWakeGrant; dsimp only
  split
  · exact ⟨_, rfl⟩
  · split <;> exact ⟨_, rfl⟩

end

/-- Settles O4, by the command: a session word is checked by its opcode and its program, a bundle word by the rules of its slot, and any
other command answers in each of its branches. -/
theorem onlyUnacceptedWordsStop : Obligations.OnlyUnacceptedWordsStop := by
  intro c s
  show StopsIf (unaccepted s.hub c) (exec c s)
  cases c
  case nop | br | bcc | cbr | cbi | bst | loopI | wait | parkInstruction | reviveInstruction | migrateInstruction | fork
      | dropInstruction | getf | setf | intakeInstruction | prefill | step | emit | hold | bindInstruction | qsearchInstruction
      | qinsertInstruction | qdeleteInstruction | mov | ldi | lui | add | sub | andI | orI | xorI | shl | shr | sar | cmp | ntread
      | post => exact stopsIf_instr _ _ _ _ _ s
  case mma | mmai | mqk | mpv | mcfg | vadd | vsub | vmul | vfma | vdiv | vsqrt | vmin | vmax | vfn | vscl | vcvt | vqmx | vred | vtree
      | vatt | vcomb | xcopy | xwait | xkvw | xhub | lrecv | lput | lwait | grain | gcommit | stepend => exact stopsIf_ite ⟨_, rfl⟩
  case lsend t l w => exact stopsIf_lsend t l w s
  case stagingLanded t die idx st lines => exact stopsIf_next (stagingLanded_next t s die idx st lines)
  case stepBoundary t => exact stopsIf_next (stepBoundary_next t s)
  case partclear t w l => exact stopsIf_next (partclear_next t s w l)
  case staticFrame t port fr => exact stopsIf_next (staticFrame_next t s port fr)
  case perstDeassert t slot testen => exact stopsIf_next (perstDeassert_next t s slot testen)
  case warmReset t v => exact stopsIf_next (warmReset_next t s v)
  case registerWrite t addr v wide => exact stopsIf_next (registerWrite_next t s addr v wide)
  case wakeGrant t => exact stopsIf_next (wakeGrant_next t s)
  all_goals exact stopsIf_next ⟨_, rfl⟩

end Sys2Proof.Machine
end

section
/-! Session instructions that compute, move and branch (O16, O17). -/

namespace Sys2Proof.Machine
open Hub

/-! ### Results and flags (R249, R258) -/

/-- The sum of two words, with its carry and its signed overflow. -/
theorem alu_add (a b : W64) : alu 0x53 a b = (a + b, (a + b == 0, (a + b).msb, decide (2 ^ 64 ≤ a.toNat + b.toNat),
    !decide (-2 ^ 63 ≤ a.toInt + b.toInt ∧ a.toInt + b.toInt < 2 ^ 63))) := by
  rw [← add_over]; rfl

/-- SUB and CMP compute the difference of two words, with its unsigned borrow and its signed overflow. -/
theorem alu_sub (op : Nat) (hop : op = 0x54 ∨ op = 0x5B) (a b : W64) : alu op a b = (a - b, (a - b == 0, (a - b).msb,
    decide (a.toNat < b.toNat), !decide (-2 ^ 63 ≤ a.toInt - b.toInt ∧ a.toInt - b.toInt < 2 ^ 63))) := by
  rw [← sub_over]
  rcases hop with rfl | rfl <;> rfl

/-- The immediate of LDI, zero-extended (R258). -/
theorem ldi_imm (w : W64) : iw w 47 0 = w.toNat % 2 ^ 48 := by
  rw [iw, bitsOf, Nat.pow_zero, Nat.div_one]

/-- LUI keeps the low 48 bits of its own value and takes the top 16 from its immediate (R258). -/
theorem luiVal_eq (old w : W64) : luiVal old w = BitVec.ofNat 64 (old.toNat % 2 ^ 48 + w.toNat % 2 ^ 16 * 2 ^ 48) := by
  have hold := old.isLt
  have value : setBits old.toNat 63 48 (iw w 15 0) = old.toNat % 2 ^ 48 + w.toNat % 2 ^ 16 * 2 ^ 48 := by
    simp only [setBits, iw, bitsOf]
    norm_num at *
    omega
  rw [luiVal, value]

/-- An ALU operation writes its flags and, but for CMP, its result. -/
theorem iAlu_eq (h : Hub) (i : Handle) (w : W64) {op : Nat} (hop : iw w 63 56 = op) {v : W64} {q : Bool × Bool × Bool × Bool}
    (hq : alu op (h.dstVal i w) (h.srcVal i w (iImm w)) = (v, q)) :
    h.iAlu i w = if op = 0x5B then (h.modR i (fun r => { r with flags := withFlags r.flags q })).pcNext i
      else (h.modR i (fun r => { r with flags := withFlags r.flags q })).put i w v := by
  subst hop
  unfold iAlu
  dsimp only
  rw [hq]

/-- A session whose FLAGS have taken the flags `q` of a result. -/
def Sess.flagged (x : Sess) (q : Bool × Bool × Bool × Bool) : Sess := { x with r := { x.r with flags := withFlags x.r.flags q } }

/-! ### What each form leaves of its session -/

section
variable {c : Instr} {tm : Nt} {i : Handle} {w : W64} {op : Nat} {s : State}

/-- An instruction that writes one value to its destination. -/
theorem recordOnly_put {v : Hub → W64} (hc : exec c s = instr tm i w op (fun h => h.put i w (v h)) s) (hr : Runs s tm i w op) {u : W64}
    (hv : v (s.hub.stamp tm) = u) : RecordOnly c tm i s ((s.hub.s i).wrote w u) :=
  recordOnly_modR c tm i w op _ _ s _ hc hr rfl (by rw [hv]; rfl)

/-- An ALU operation with a result writes its flags and its destination. -/
theorem recordOnly_alu (hc : exec c s = instr tm i w op (fun h => h.iAlu i w) s) (hr : Runs s tm i w op) (hne : op ≠ 0x5B)
    {v : W64} {q : Bool × Bool × Bool × Bool}
    (hq : alu op ((s.hub.s i).r.rReg (iw w 55 52) 0) ((s.hub.s i).r.rReg (iw w 51 48) (iImm w)) = (v, q)) :
    RecordOnly c tm i s (((s.hub.s i).flagged q).wrote w v) :=
  recordOnly_modR2 c tm i w op _ _ _ s _ hc hr ((iAlu_eq (s.hub.stamp tm) i w hr.1 hq).trans (if_neg hne)) rfl

/-- CMP writes its flags alone. -/
theorem recordOnly_cmp (hc : exec c s = instr tm i w 0x5B (fun h => h.iAlu i w) s) (hr : Runs s tm i w 0x5B)
    {v : W64} {q : Bool × Bool × Bool × Bool}
    (hq : alu 0x5B ((s.hub.s i).r.rReg (iw w 55 52) 0) ((s.hub.s i).r.rReg (iw w 51 48) (iImm w)) = (v, q)) :
    RecordOnly c tm i s { (s.hub.s i).flagged q with r := { ((s.hub.s i).flagged q).r with pc := (s.hub.s i).r.pc + 1 } } :=
  recordOnly_modR2 c tm i w 0x5B _ _ _ s _ hc hr ((iAlu_eq (s.hub.stamp tm) i w hr.1 hq).trans (if_pos rfl)) rfl

/-- A branch changes the PC alone. -/
theorem recordOnly_branch {b : Hub → Bool} (hc : exec c s = instr tm i w op (fun h => h.branchIf i w (b h)) s) (hr : Runs s tm i w op)
    {d : Bool} (hb : b (s.hub.stamp tm) = d) : RecordOnly c tm i s ((s.hub.s i).branched w d) :=
  recordOnly_modR c tm i w op _ _ s _ hc hr (branchIf_modR _ i w _) (by rw [hb]; rfl)

/-- A branch on a comparison goes by the relation of its operands, and FLAGS stay. -/
theorem recordOnly_compare {y : Hub → W64} (hc : exec c s = instr tm i w op (fun h => h.iCmpBr i w (y h)) s) (hr : Runs s tm i w op)
    {b : W64} (hy : y (s.hub.stamp tm) = b) :
    RecordOnly c tm i s ((s.hub.s i).branched w (related (iw w 27 24) ((s.hub.s i).r.rReg (iw w 55 52) 0) b)) :=
  recordOnly_branch hc hr ((related_cond _ _ _).trans (by rw [hy]; rfl))

end

/-- LOOP with a counter between 1 and its bound counts down (R258). -/
theorem iLoop_counts (h : Hub) (i : Handle) (w : W64) (h0 : h.dstVal i w ≠ 0) (hb : (h.dstVal i w).toNat ≤ iw w 39 24) :
    h.iLoop i w = (h.modR i (fun r => r.wReg (dstOf w) (h.dstVal i w - 1))).branchIf i w (h.dstVal i w - 1 != 0) :=
  if_neg (not_or.2 ⟨h0, Nat.not_lt.2 hb⟩)

/-- A counter that is not yet down to zero was not one. -/
theorem sub_one_bne_zero (a : W64) : (a - 1 != 0) = decide (a ≠ 1) := by
  rw [Bool.eq_iff_iff, bne_iff_ne, decide_eq_true_iff, ne_eq, sub_eq_zero]

/-- Settles O16: the result and the flags of each operation, and the value of each move. -/
theorem sessionArithmeticAndMoves : Obligations.SessionArithmeticAndMoves := by
  refine ⟨fun tm i w s => ?alu, fun tm i w s => ?move⟩
  case alu =>
    intro x a b n fits flags less
    exact ⟨fun hr => recordOnly_alu rfl hr (by decide) (alu_add a b),
      fun hr => recordOnly_alu rfl hr (by decide) (alu_sub 0x54 (.inl rfl) a b),
      fun hr => recordOnly_alu rfl hr (by decide) rfl, fun hr => recordOnly_alu rfl hr (by decide) rfl,
      fun hr => recordOnly_alu rfl hr (by decide) rfl, fun hr => recordOnly_alu rfl hr (by decide) rfl,
      fun hr => recordOnly_alu rfl hr (by decide) rfl, fun hr => recordOnly_alu rfl hr (by decide) rfl,
      fun hr => recordOnly_cmp rfl hr (alu_sub 0x5B (.inr rfl) a b)⟩
  case move =>
    intro x old
    exact ⟨fun hr => recordOnly_put rfl hr rfl,
      fun hr => recordOnly_put rfl hr (congrArg (BitVec.ofNat 64) (ldi_imm w)),
      fun hr => recordOnly_put rfl hr (luiVal_eq _ w),
      fun hr => recordOnly_put rfl hr rfl⟩

/-- Settles O17: each branch by its condition; LOOP by its count. -/
theorem sessionBranches : Obligations.SessionBranches := by
  intro tm i w s x f a
  refine ⟨fun hr => recordOnly_modR _ tm i w 0x00 _ _ s _ rfl hr rfl rfl, fun hr => recordOnly_modR _ tm i w 0x01 _ _ s _ rfl hr rfl rfl,
    fun hr => recordOnly_branch rfl hr rfl, fun hr => recordOnly_compare rfl hr rfl, fun hr => recordOnly_compare rfl hr rfl,
    fun hr => recordOnly_branch rfl hr rfl, fun hr h0 hb => ?loop⟩
  case loop =>
    refine recordOnly_modR2 _ tm i w 0x06 (fun r => r.wReg (dstOf w) (a - 1))
      (fun r => { r with pc := if decide (a ≠ 1) then BitVec.ofNat 24 (iw w 23 0) else r.pc + 1 }) _ s _ rfl hr ?_ rfl
    have counts := iLoop_counts (s.hub.stamp tm) i w h0 hb
    rw [counts, branchIf_modR, sub_one_bne_zero]
    rfl

end Sys2Proof.Machine
end

section
/-! Session instructions on the record's fields, and those that wait: GETF and SETF (O18), WAIT and HOLD (O19). -/

namespace Sys2Proof.Machine
open Hub

/-! ### Fields by their selectors (R257) -/

/-- A selector that names no writable field is refused, as is an operand beyond its field's bits. -/
theorem setField_none {r : Rec} {k : Nat} {v : W64}
    (hk : k = 0 ∨ 0x06 < k ∨ (k = 0x01 ∧ 2 ^ 32 ≤ v.toNat) ∨ (k = 0x04 ∧ 2 ^ 48 ≤ v.toNat) ∨ (k = 0x05 ∧ 2 ^ 32 ≤ v.toNat)
      ∨ (k = 0x06 ∧ 2 ≤ v.toNat)) : setField r k v = none := by
  rcases hk with rfl | hk | ⟨rfl, hv⟩ | ⟨rfl, hv⟩ | ⟨rfl, hv⟩ | ⟨rfl, hv⟩
  · rfl
  · unfold setField; rw [setWidth_none k hk]
  · exact if_pos hv
  · exact if_pos hv
  · exact if_pos hv
  · exact if_pos hv

/-! ### What each instruction does -/

namespace Hub

variable (h : Hub) (i : Handle) (w : W64)

theorem iGetf_reads {n : Nat} (hg : getField (h.s i) (iw w 47 40) = some n) :
    h.iGetf i w = h.modR i (fun r => { (r.wReg (dstOf w) (BitVec.ofNat 64 n)).wStat St.ok 0 with pc := r.pc + 1 }) := by
  unfold iGetf; rw [hg]

theorem iGetf_refused (hg : getField (h.s i) (iw w 47 40) = none) : h.iGetf i w = h.stat i St.badOperand 0 := by
  unfold iGetf; rw [hg]

/-- While its session is being demoted a SETF of another field than DEADLINE is held (R121, R164). -/
theorem iSetf_held (hd : (h.s i).demote = true) (hk : iw w 47 40 ≠ 0x02) : h.iSetf i w = h.hold i w :=
  if_pos (by rw [hd, Bool.true_and, bne_iff_ne]; exact hk)

/-- The operand of a SETF: a register, or bits [39:0] of the word (R250). -/
def setfOperand : W64 := h.srcVal i w (BitVec.ofNat 64 (iw w 39 0))

section
variable {h i w} (hd : (h.s i).demote = false ∨ iw w 47 40 = 0x02)
include hd

theorem iSetf_unheld : ¬((h.s i).demote && iw w 47 40 != 2) = true := by
  rcases hd with hd | hd <;> simp [hd]

theorem iSetf_writes {r : Rec} (hs : setField (h.s i).r (iw w 47 40) (h.setfOperand i w) = some r) :
    h.iSetf i w = (h.modR i (fun _ => r)).stat i St.ok 0 := by
  unfold iSetf
  unfold setfOperand at hs
  rw [if_neg (iSetf_unheld hd), hs]

theorem iSetf_refused (hs : setField (h.s i).r (iw w 47 40) (h.setfOperand i w) = none) : h.iSetf i w = h.stat i St.badOperand 0 := by
  unfold iSetf
  unfold setfOperand at hs
  rw [if_neg (iSetf_unheld hd), hs]

end

end Hub

/-- Settles O18: each selector reads or writes its field, and any other is refused. -/
theorem sessionFields : Obligations.SessionFields := by
  intro tm i w s x k v got sets
  refine ⟨fun hr hd hk => blocks_redo rfl hr (iSetf_held (s.hub.stamp tm) i w hd hk), fun hr => ?getf, fun hr hd => ?setf⟩
  case getf =>
    have reads {m n : Nat} (hk : k = m) (hg : getField x m = some n) : got n :=
      recordOnly_modR _ tm i w 0x25 _ _ s _ rfl hr (iGetf_reads (s.hub.stamp tm) i w ((congrArg (getField x) hk).trans hg)) rfl
    refine ⟨fun hk => reads hk rfl, fun hk => reads hk rfl, fun hk => reads hk rfl, fun hk => reads hk rfl, fun hk => reads hk rfl,
      fun hk => reads hk rfl, fun hk => reads hk rfl, fun hk => reads hk rfl, fun hk => reads hk rfl, fun hk => reads hk rfl,
      fun hk => reads hk rfl, fun hk => reads hk rfl, fun hk => reads hk rfl, fun hk => reads hk rfl, fun hk => reads hk rfl,
      fun hk => reads hk rfl, fun hk => reads hk rfl, fun hk => reads hk rfl, fun hk => reads hk rfl, fun hk => reads hk rfl,
      fun hk => reads hk rfl, fun hk => reads hk rfl, fun hk => ?noField⟩
    case noField => exact recordOnly_setS rfl hr (iGetf_refused (s.hub.stamp tm) i w (getField_none x k hk (iw_lt w 47 40)))
  case setf =>
    have writes {m : Nat} {r : Rec} (hk : k = m) (hs : setField x.r m v = some r) : sets r :=
      recordOnly_modR2 _ tm i w 0x26 (fun _ => r) _ _ s _ rfl hr
        (iSetf_writes (h := s.hub.stamp tm) hd ((congrArg (setField x.r · v) hk).trans hs)) rfl
    exact ⟨fun hk hv => writes hk (if_neg (Nat.not_le.2 hv)), fun hk => writes hk (if_neg (Nat.not_le.2 v.isLt)),
      fun hk => writes hk (if_neg (Nat.not_le.2 v.isLt)), fun hk hv => writes hk (if_neg (Nat.not_le.2 hv)),
      fun hk hv => writes hk (if_neg (Nat.not_le.2 hv)), fun hk hv => writes hk (if_neg (Nat.not_le.2 hv)),
      fun hk => recordOnly_setS rfl hr (iSetf_refused (h := s.hub.stamp tm) hd (setField_none hk))⟩

/-! ### Waiting (R256, R258) -/

namespace Hub

variable (h : Hub) (i : Handle) (w : W64)

/-- The events a WAIT waits for. -/
def waitMask : BitVec 16 := BitVec.ofNat 16 (iw w 15 0)

/-- Those of them that are pending. -/
def waitHits : BitVec 16 := (h.s i).r.pending &&& waitMask w

/-- When a WAIT times out: at a register's time, never, or after a count of units from now (R519). -/
def waitUntil : W64 :=
  if iw w 47 46 = 3 then h.srcVal i w 0
  else if iw w 45 16 = 0 then 0 else BitVec.ofNat 64 (h.nt.toNat + unitNs (iw w 47 46) (iw w 45 16))

/-- The hub once a WAIT is noted in its session, before the session changes state. -/
def waitNoted : Hub :=
  h.modS i (fun x => { x with waitHit := false, park := x.park.map (fun k => { k with waited := true })
                              r := { x.r with waitMask := waitMask w, waitExp := h.waitUntil i w } })

/-- The hub once a session waits: a READY one becomes WAITING, any other is journalled as it is (R37). -/
def waitEntered : Hub :=
  if ((h.waitNoted i w).s i).r.state == S.ready then (h.waitNoted i w).trans i S.waiting St.ok 0x0030 (waitMask w).toNat
  else (h.waitNoted i w).record i 0x0030 (waitMask w).toNat

theorem iWait_held (hd : (h.s i).demote = true) : h.iWait i w = h.hold i w := if_pos hd

theorem iWait_takes (hd : (h.s i).demote = false) {b : Nat} (hh : h.waitHits i w ≠ 0) (hb : lowBit (h.waitHits i w) = b) :
    h.iWait i w = (h.modR i (fun r => { r with pending := r.pending &&& ~~~(BitVec.ofNat 16 (2 ^ b)) })).modR i
      (fun r => { (r.wReg (dstOf w) (BitVec.ofNat 64 b)).wStat St.ok b with pc := r.pc + 1 }) := by
  subst hb
  exact (if_neg (by rw [hd]; decide)).trans (if_pos hh)

theorem iWait_blocks (hd : (h.s i).demote = false) (hh : h.waitHits i w = 0) :
    h.iWait i w = (h.waitEntered i w).block i (.wait (dstOf w)) :=
  (if_neg (by rw [hd]; decide)).trans (if_neg (not_not.2 hh))

theorem s_waitNoted_same : (h.waitNoted i w).s i =
    { h.s i with waitHit := false, park := (h.s i).park.map (fun k => { k with waited := true })
                 r := { (h.s i).r with waitMask := waitMask w, waitExp := h.waitUntil i w } } := s_modS_same h i _

theorem s_waitEntered_ne (j : Handle) (hj : j ≠ i) : (h.waitEntered i w).s j = h.s j := by
  have noted : (h.waitNoted i w).s j = h.s j := s_modS_ne h i j _ hj
  unfold waitEntered
  split
  · rw [s_trans_ne _ i j _ _ _ _ hj, noted]
  · rw [s_record_ne _ i j _ _ hj, noted]

/-- A session that has begun to wait: its mask, its time and its state; its pending events and its PC stay. -/
theorem waitEntered_same :
    let x := h.s i
    let y := (h.waitEntered i w).s i
    y.r.waitMask = waitMask w ∧ y.r.pending = x.r.pending ∧ y.r.pc = x.r.pc ∧ y.r.waitExp = h.waitUntil i w
    ∧ y.r.state = if x.r.state = S.ready then S.waiting else x.r.state := by
  intro x y
  have noted := s_waitNoted_same h i w
  have entered : y = (h.waitEntered i w).s i := rfl
  unfold waitEntered at entered
  rw [noted] at entered
  by_cases hs : x.r.state = S.ready
  · rw [if_pos (beq_iff_eq.2 hs), s_trans_same, noted] at entered
    rw [entered, if_pos hs]
    exact ⟨rfl, rfl, rfl, rfl, rfl⟩
  · rw [if_neg (mt beq_iff_eq.1 hs), s_record_same, noted] at entered
    rw [entered, if_neg hs]
    exact ⟨rfl, rfl, rfl, rfl, rfl⟩

/-- HOLD ends at once where every stream record is visible. -/
theorem iHold_ends (hu : h.unseen i = false) :
    h.iHold i w = h.modR i (fun r => { (r.wReg (dstOf w) 0).wStat St.ok 0 with pc := r.pc + 1 }) :=
  if_pos (by rw [hu]; rfl)

theorem iHold_blocks (hu : h.unseen i = true) :
    h.iHold i w = h.block i (.hold (dstOf w)
      (if iw w 45 16 = 0 then 0 else BitVec.ofNat 64 (h.nt.toNat + unitNs (iw w 47 46) (iw w 45 16)))) :=
  if_neg (by rw [hu]; decide)

end Hub

/-- Settles O19: WAIT takes a pending bit or blocks, HOLD ends or blocks. -/
theorem sessionWaits : Obligations.SessionWaits := by
  intro tm i w s x dst mask now unit
  refine ⟨fun hr hd => blocks_redo rfl hr (iWait_held (s.hub.stamp tm) i w hd), fun b hr hd hb hit low => ?takes,
    fun hr hd quiet => ?waits, fun hr hu => ?ends, fun hr hu => ?holds⟩
  case takes =>
    have hits : (s.hub.stamp tm).waitHits i w ≠ 0 := fun e => by
      have : (0 : BitVec 16).getLsbD b = true := e ▸ hit
      simp at this
    exact recordOnly_modR2 _ tm i w 0x10 _ _ _ s _ rfl hr (iWait_takes (s.hub.stamp tm) i w hd hits (lowBit_eq _ b hb hit low)) rfl
  case waits =>
    refine instr_answers _ tm i w 0x10 _ s _ rfl hr ?_
    obtain ⟨maskSet, pendingKept, pcKept, time, state⟩ := waitEntered_same (s.hub.stamp tm) i w
    dsimp only
    simp only [rec_finish, s_blk_finish, s_runnable_finish, kept_finish, iWait_blocks (s.hub.stamp tm) i w hd quiet, s_block_same]
    refine ⟨rfl, trivial, maskSet, pendingKept, pcKept, time, state, fun j hj => ?_, rfl, rfl⟩
    rw [s_block_ne _ i j _ hj, s_waitEntered_ne _ i w j hj, s_stamp]
  case ends => exact recordOnly_modR _ tm i w 0x34 _ _ s _ rfl hr (iHold_ends (s.hub.stamp tm) i w hu) rfl
  case holds =>
    refine instr_answers _ tm i w 0x34 _ s _ rfl hr ?_
    dsimp only
    simp only [rec_finish, s_blk_finish, s_runnable_finish, kept_finish, iHold_blocks (s.hub.stamp tm) i w hu, s_block_same]
    refine ⟨rfl, trivial, rfl, fun j hj => ?_, rfl, rfl⟩
    rw [s_block_ne _ i j _ hj, s_stamp]

end Sys2Proof.Machine
end

section
/-! Full lines that the device does not take: before BOOT, discarded, or refused by a full window (O25). -/

namespace Sys2Proof.Machine
open Hub

/-- A line that ends in the hub `u` whatever its command would do: where `u` asks for no wipe and has power, nothing but the hub changes. -/
theorem ends_untaken {c : Instr} {tm : Nt} {w op : BitVec 8} {l : CmdLine} {s : State} (hl : lineOf c = some (tm, w, op, l))
    (hc : s.hub.sec.clear = none) (hp : s.hub.pw.off = false) (u : Hub) (uc : u.sec.clear = s.hub.sec.clear) (up : u.pw = s.hub.pw)
    (hu : ∀ f, (s.hub.stamp tm).line w op l f = u) : Ends c s u := by
  obtain ⟨f, -, hx⟩ := lineOf_exec c tm w op l hl s hc
  have calm (f) : ((s.hub.stamp tm).line w op l f).sec.clear = none := by rw [hu, uc, hc]
  obtain ⟨⟨pending, hub, stn⟩, he, rfl, rfl⟩ := hx (calm f)
  obtain rfl : stn = s.stn := lineOf_stones hl calm he (by rw [pw_finish, hu, up, hp])
  rw [Ends, he, hu]

/-- Settles O25: each line that is not taken, by the reason for which it is not. -/
theorem linesDiscarded : Obligations.LinesDiscarded := by
  intro c s tm w op l hl hc hp h x gone full
  have ends := ends_untaken hl hc hp
  refine ⟨fun boot => ?early, fun boot ide => ?waitsForIde, fun boot ide off => ?off, fun boot ide on en ring => ?overflow,
    fun heard many => ?full⟩
  case early => exact ends h rfl rfl fun f => line_silent h w op l f boot
  case waitsForIde => exact (ends gone rfl rfl fun f => line_ide h w op l f boot ide).becomes (alike_refl gone)
  case off =>
    let set := gone.p F.HSTAT_window_off 1
    have still := still_signal set 32
    have clear : (set.signal 32).sec.clear = set.sec.clear := clear_of_rest (rest_of_still still)
    have power : (set.signal 32).pw = set.pw := pw_of_still still
    exact (ends (set.signal 32) clear power fun f => line_off h w op l f boot ide off).becomes (alike_signal 32 (alike_refl set))
  case overflow => exact (ends gone rfl rfl fun f => line_over h w op l f boot ide on en ring).becomes (alike_refl gone)
  case full => exact ends _ (clear_complete full _ _ _ _) (pw_complete full _ _ _ _) fun f => line_full h w op l f heard many

end Sys2Proof.Machine
end

section
/-! Loads and stores of the HDM region (O28): what the answer to a load leaves, and the ticket that a key slot names. -/

namespace Sys2Proof.Machine
open Hub

namespace Hub

/-! ### What an answer leaves -/

/-- What a load that makes `u` of `h` leaves: the sessions, what is no report, and the registers beside reports' and those of `counts`. -/
structure LoadLeaves (h u : Hub) (counts : List Fld) : Prop where
  sess : ∀ j, u.s j = h.s j
  rest : u.rest = h.rest
  regs : ∀ a, a ∉ reportRegs → a ∉ counts.map (·.a) → u.reg a = h.reg a

/-- `u` answers a load with `b`: the answer is sent and counted, and its service time is at most 120 ns (R278). -/
structure AnswersLoad (h u : Hub) (b : Bytes) (counts : List Fld) : Prop where
  sent : Out.load b ∈ u.out
  count : u.g F.HTICKETS_count = satAdd 64 (h.g F.HTICKETS_count) 1
  time : ∃ n, n ≤ 120 ∧ u.g F.HTKTMAX_ns = max (h.g F.HTKTMAX_ns) n
  leaves : LoadLeaves h u ([F.HTICKETS_count, F.HTKTMAX_ns] ++ counts)

variable {h u : Hub} {b : Bytes} {counts : List Fld}

theorem LoadLeaves.finish (e : LoadLeaves h u counts) (good : u.hubBad = false) (old : Hub) : LoadLeaves h (finish old u) counts := by
  obtain ⟨n, o, he⟩ := finish_eq u old good
  rw [he]
  exact ⟨e.sess, e.rest, e.regs⟩

theorem AnswersLoad.finish (e : AnswersLoad h u b counts) (good : u.hubBad = false) (old : Hub) :
    AnswersLoad h (finish old u) b counts := by
  have left := e.leaves.finish good old
  have sent := mem_out_finish u old good _ e.sent
  obtain ⟨n, o, he⟩ := finish_eq u old good
  rw [he] at left sent ⊢
  exact ⟨sent, e.count, e.time, left⟩

/-- A load that is answered and not served reads zeros (R288). -/
theorem serve_zeros (b : Bytes) (ha : h.answers = true) (hs : h.loadsServed = false) :
    h.serve b = h.emit (.load (List.replicate 64 0)) := by
  unfold serve; rw [ha, hs]; rfl

theorem serve_silent (b : Bytes) (ha : h.answers = false) : h.serve b = h := by
  unfold serve; rw [ha]; rfl

theorem loadsServed_silent (ha : h.answers = false) : h.loadsServed = false := by
  unfold loadsServed; rw [ha]; rfl

theorem answers_of_served (hs : h.loadsServed = true) : h.answers = true := by
  by_contra ha
  rw [loadsServed_silent (by simpa using ha)] at hs
  cases hs

/-- A load that is served is sent, counted and timed (R278). -/
theorem serve_answers (b : Bytes) (hs : h.loadsServed = true) : AnswersLoad h (h.serve b) b [] := by
  have eq : h.serve b =
      ((h.fresh.2.inc F.HTICKETS_count).p F.HTKTMAX_ns (max (h.g F.HTKTMAX_ns) (h.fresh.1.toNat % 121))).emit (.load b) := by
    unfold serve; rw [answers_of_served hs, hs]; rfl
  rw [eq]
  refine ⟨List.mem_append_right _ (List.mem_singleton.mpr rfl), ?count, ⟨h.fresh.1.toNat % 121, by omega, ?time⟩, fun _ => rfl, rfl, ?regs⟩
  case count =>
    exact (g_p_ne _ F.HTKTMAX_ns F.HTICKETS_count _ (by decide) (by decide)).trans (g_inc_same h.fresh.2 F.HTICKETS_count 1 (by decide))
  case time =>
    have wide : h.g F.HTKTMAX_ns < 2 ^ 16 := Nat.mod_lt _ (by decide)
    refine (g_p_same _ F.HTKTMAX_ns _ (by decide)).trans (Nat.mod_eq_of_lt ?_)
    show _ < 2 ^ 16
    omega
  case regs =>
    intro a _ ha
    simp only [List.append_nil, List.map_cons, List.map_nil, List.mem_cons, List.not_mem_nil, or_false, not_or] at ha
    exact (reg_p_ne _ F.HTKTMAX_ns _ ha.2).trans (reg_p_ne h.fresh.2 F.HTICKETS_count _ ha.1)

theorem hubBad_serve (b : Bytes) : (h.serve b).hubBad = h.hubBad := by
  unfold serve
  split
  · rfl
  · split <;> rfl

/-! ### The snoop filter (R281) -/

/-- A cacheable load changes the filter, and sends what leaves it. -/
theorem filter_eq (h : Hub) (i : Handle) : ∃ n o, h.filter i = { h with snoop := n, out := h.out ++ o } := by
  unfold filter
  split
  · exact ⟨h.snoop, [], by simp⟩
  · dsimp only
    split
    · split
      · exact ⟨_, _, rfl⟩
      · exact ⟨h.snoop ++ [i], [], by simp⟩
    · exact ⟨h.snoop ++ [i], [], by simp⟩

theorem mem_snoop_filter (h : Hub) (i : Handle) (on : h.on F.HCTL_bi_en = true) : i ∈ (h.filter i).snoop := by
  unfold filter
  rw [on]
  by_cases listed : h.snoop.contains i = true
  · rw [listed]; simpa using listed
  · rw [if_neg (by simp only [Bool.not_true, Bool.or_false]; exact listed)]
    exact List.mem_append_right _ (List.mem_singleton.mpr rfl)

theorem hubBad_filter (h : Hub) (i : Handle) : (h.filter i).hubBad = h.hubBad := by
  obtain ⟨n, o, e⟩ := filter_eq h i
  rw [e]

theorem AnswersLoad.filter (e : AnswersLoad h u b counts) (i : Handle) : AnswersLoad h (u.filter i) b counts := by
  obtain ⟨n, o, he⟩ := filter_eq u i
  rw [he]
  exact ⟨List.mem_append_left _ e.sent, e.count, e.time, e.leaves.sess, e.leaves.rest, e.leaves.regs⟩

/-- The ticket of a handle is told by its session, its generation, the device's index and whether a bank is being swapped (R279). -/
theorem ticket_congr {a b : Hub} (i : Handle) (hs : a.s i = b.s i) (hr : a.rest = b.rest)
    (hd : a.dev = b.dev) : a.ticket i = b.ticket i := by
  have gens : a.gens = b.gens := by have q := congrArg Hub.gens hr; exact q
  have swap : a.aix.swap = b.aix.swap := by have q := congrArg (fun x => x.aix.swap) hr; exact q
  unfold ticket actionHeld; dsimp only
  rw [hs, gens, swap, hd]

/-- A field that neither a load's counts nor reports write. -/
theorem LoadLeaves.g (e : LoadLeaves h u counts) (f : Fld) (hr : f.a ∉ reportRegs) (hf : f.a ∉ counts.map (·.a)) : u.g f = h.g f :=
  g_of_reg f (e.regs _ hr hf)

theorem LoadLeaves.on (e : LoadLeaves h u counts) (f : Fld) (hr : f.a ∉ reportRegs) (hf : f.a ∉ counts.map (·.a)) : u.on f = h.on f := by
  unfold Hub.on; rw [e.g f hr hf]

/-- A load leaves every ticket. -/
theorem LoadLeaves.ticket (e : LoadLeaves h u counts) (hf : F.HDEVIDX_index.a ∉ counts.map (·.a)) (i : Handle) : u.ticket i = h.ticket i :=
  ticket_congr i (e.sess i) e.rest (e.g F.HDEVIDX_index (by decide) hf)

/-- A line whose ticket is as it was stays in the filter when a command closes. -/
theorem mem_snoop_finish (old : Hub) (i : Handle) (good : u.hubBad = false) (hi : i ∈ u.snoop) (ht : u.ticket i = old.ticket i) :
    i ∈ (Hub.finish old u).snoop := by
  unfold Hub.finish
  rw [if_neg (by simp [good])]
  obtain ⟨o, ho⟩ := pinPass_eq (snoopPass old u) old
  rw [ho]
  unfold snoopPass; dsimp only
  split
  · exact hi
  · simp [hi, ht]

/-- The hub after a ticket load: what is served, and what a cacheable load records (R278, R281). -/
def ticketLoaded (h : Hub) (i : Handle) (ca : Bool) : Hub :=
  if ca && h.loadsServed then (h.serve (h.ticket i)).filter i else h.serve (h.ticket i)

/-- A ticket load that is served answers the ticket, and a cacheable one enters the filter while that is on. -/
theorem ticketLoad_served (i : Handle) (ca : Bool) (hs : h.loadsServed = true) :
    AnswersLoad h (h.ticketLoaded i ca) (h.ticket i) [] ∧ (h.ticketLoaded i ca).hubBad = h.hubBad
    ∧ (ca = true → h.on F.HCTL_bi_en = true → i ∈ (h.ticketLoaded i ca).snoop) := by
  have answer := serve_answers (h.ticket i) hs
  unfold ticketLoaded
  rw [hs]
  cases ca with
  | false => exact ⟨answer, hubBad_serve _, fun no => by cases no⟩
  | true =>
    exact ⟨answer.filter i, (hubBad_filter _ i).trans (hubBad_serve _), fun _ on =>
      mem_snoop_filter _ i ((answer.leaves.on F.HCTL_bi_en (by decide) (by decide)).trans on)⟩

/-! ### The ticket that a key slot names (R280) -/

/-- Key slot `k` names session `i`, and the slot's window may see it (R280). -/
def Sees (h : Hub) (k : BitVec 12) (sk : BitVec 128) (i : Handle) : Prop :=
  smLook h.keySlots k.toNat = some sk ∧ h.gi F.CMDWIN_enable (k.toNat / 64) ≠ 0 ∧ h.findSk sk = some i ∧ (h.s i).born < h.nt
  ∧ (h.s i).r.part.toNat = h.gi F.CMDWIN_partition (k.toNat / 64) ∧ (h.s i).r.tenant.toNat = h.gi F.CMDWIN_tenant (k.toNat / 64)

variable (h)

/-- A lookup with no injection armed finds the record of its key that was made before its NT (R332). -/
theorem lookup_calm (sk : BitVec 128) (hi : h.inj = []) :
    h.lookup sk = (false, (h.findSk sk).filter (fun i => decide ((h.s i).born < h.nt)), h.inc F.AIXLOOKUPS_count) := by
  have hi' : (h.inc F.AIXLOOKUPS_count).inj = [] := hi
  unfold lookup; dsimp only
  rw [fireInj_none _ hi']; simp only [Bool.false_eq_true, if_false]
  rw [fireInj_none _ hi']; rfl

/-- The count of lookups is apart from the settings of the 64 windows. -/
theorem window_looked (f : Fld) (hf : f ∈ [F.CMDWIN_partition, F.CMDWIN_tenant]) (k : BitVec 12) :
    (h.inc F.AIXLOOKUPS_count).gi f (k.toNat / 64) = h.gi f (k.toNat / 64) := by
  have hk := k.isLt
  refine gi_alike (Alike.looked h).regs f _ ?_
  simp only [List.mem_cons, List.not_mem_nil, or_false] at hf
  rcases hf with rfl | rfl <;> simp only [countRegs, List.mem_cons, List.not_mem_nil, or_false] <;> omega

theorem ticket_looked (i : Handle) : (h.inc F.AIXLOOKUPS_count).ticket i = h.ticket i :=
  ticket_congr i rfl rfl (dev_looked h)

variable {h} {k : BitVec 12}

/-- A key-slot load of a session that its window may see reads that session's ticket. -/
theorem keySlot_sees (hi : h.inj = []) {sk : BitVec 128} {i : Handle} (e : Sees h k sk i) :
    h.keySlot k.toNat = (h.ticket i, h.inc F.AIXLOOKUPS_count) := by
  obtain ⟨slot, en, found, made, part, tenant⟩ := e
  have old : (some i).filter (fun i => decide ((h.s i).born < h.nt)) = some i := by simp [made]
  unfold keySlot
  rw [slot]; dsimp only
  rw [if_neg en, lookup_calm h sk hi, found, old]; dsimp only
  rw [window_looked h _ (by decide), window_looked h _ (by decide), if_pos ⟨part, tenant⟩, ticket_looked]

/-- A key-slot load misses where there is no such session, whether it has looked a key up or not. -/
theorem keySlot_misses (hi : h.inj = []) (e : ∀ sk i, ¬ Sees h k sk i) :
    h.keySlot k.toNat = (missTicket, h) ∨ h.keySlot k.toNat = (missTicket, h.inc F.AIXLOOKUPS_count) := by
  unfold keySlot
  cases slot : smLook h.keySlots k.toNat with
  | none => exact .inl rfl
  | some sk =>
    dsimp only
    by_cases en : h.gi F.CMDWIN_enable (k.toNat / 64) = 0
    · exact .inl (if_pos en)
    · rw [if_neg en, lookup_calm h sk hi]
      refine .inr ?_
      cases found : (h.findSk sk).filter (fun i => decide ((h.s i).born < h.nt)) with
      | none => rfl
      | some i =>
        obtain ⟨key, made⟩ := Option.filter_eq_some_iff.mp found
        refine if_neg fun mine => e sk i ⟨slot, en, key, of_decide_eq_true made, ?_⟩
        rw [window_looked h _ (by decide), window_looked h _ (by decide)] at mine
        exact mine

/-! ### A load after a lookup -/

theorem loadsServed_looked (h : Hub) : (h.inc F.AIXLOOKUPS_count).loadsServed = h.loadsServed := by
  have regs := (Alike.looked h).regs
  unfold loadsServed answers stage ideWait profS
  rw [g_alike regs F.NFDONE_done (by decide), g_alike regs F.HDEVIDX_profile (by decide), on_alike regs F.SECSTAT_ide_up (by decide),
    on_alike regs F.HCTL_ticket_en (by decide), inc_nf]

/-- A key-slot load that looks its key up answers beside that count. -/
theorem serve_looked (b : Bytes) (hs : h.loadsServed = true) :
    AnswersLoad h ((h.inc F.AIXLOOKUPS_count).serve b) b [F.AIXLOOKUPS_count] := by
  obtain ⟨sent, count, time, ⟨sess, rest, regs⟩⟩ := serve_answers b ((loadsServed_looked h).trans hs)
  rw [g_inc_ne h F.AIXLOOKUPS_count _ 1 (by decide) (by decide)] at count time
  refine ⟨sent, count, time, sess, rest, fun a hr ha => ?_⟩
  rw [List.map_append, List.mem_append, not_or] at ha
  rw [regs a hr (by rw [List.append_nil]; exact ha.1)]
  exact reg_p_ne h F.AIXLOOKUPS_count _ (by simpa using ha.2)

/-- More registers may have changed. -/
theorem AnswersLoad.mono {more : List Fld} (e : AnswersLoad h u b counts) (hm : ∀ f ∈ counts, f ∈ more) : AnswersLoad h u b more := by
  refine ⟨e.sent, e.count, e.time, e.leaves.sess, e.leaves.rest, fun a hr ha => e.leaves.regs a hr fun hc => ha ?_⟩
  exact List.map_subset _ (List.append_subset.mpr ⟨List.subset_append_left _ _, List.subset_append_of_subset_right _ hm⟩) hc

end Hub

/-! ### The commands -/

section
variable (tm : Nt) (s : State)

theorem exec_ticketLoad (i : Handle) (ca : Bool) : exec (.ticketLoad tm i ca) s =
    onHub tm (fun h => h.ticketLoaded i ca) s := by
  show onHub tm (fun h => if ca && h.loadsServed then (h.serve (h.hdmLine _).1).filter i else h.serve (h.hdmLine _).1) s = _
  simp only [hdmLine_ticket]
  rfl

theorem exec_keySlotLoad (k : BitVec 12) : exec (.keySlotLoad tm k) s =
    onHub tm (fun h => if !h.loadsServed then h.serve [] else (h.keySlot k.toNat).2.serve (h.keySlot k.toNat).1) s := by
  show onHub tm (fun h => if !h.loadsServed then h.serve [] else (h.hdmLine _).2.serve (h.hdmLine _).1) s = _
  simp only [hdmLine_slot]

/-- A load that is not served reads no line: whatever it asks for, it ends alike (R288, R477). -/
theorem unserved_load {c : Instr} (hc : (∃ i ca, c = .ticketLoad tm i ca) ∨ ∃ k, c = .keySlotLoad tm k)
    (hs : (s.hub.stamp tm).loadsServed = false) (u : Hub) (hu : ∀ b, (s.hub.stamp tm).serve b = u) : Ends c s u := by
  rcases hc with ⟨i, ca, rfl⟩ | ⟨k, rfl⟩
  · refine ends_hub _ tm _ s u (exec_ticketLoad tm s i ca) ?_
    unfold ticketLoaded
    rw [hs, Bool.and_false]; exact hu _
  · refine ends_hub _ tm _ s u (exec_keySlotLoad tm s k) ?_
    rw [hs]; exact hu _

end

/-- Settles O28: a served load by what the line it reads says, a load that is not served, and each store. -/
theorem hdmAccesses : Obligations.HdmAccesses := by
  intro tm s h same answered sees good hi
  have left {u : Hub} {counts : List Fld} (e : LoadLeaves h u counts) : same { s with hub := u } counts :=
    ⟨e.sess, e.rest, e.regs, rfl, rfl⟩
  have closed {u : Hub} {b : Bytes} {counts : List Fld} (e : AnswersLoad h u b counts) (hu : u.hubBad = false) :
      answered { s with hub := finish s.hub u } b counts :=
    have ⟨sent, count, time, leaves⟩ := e.finish hu s.hub
    ⟨sent, count, time, left leaves⟩
  have calm (g : Hub) (hg : g.hubBad = false) (b : Bytes) : (g.serve b).hubBad = false := (hubBad_serve b).trans hg
  have slotLoad (k : BitVec 12) (g : Hub) (b : Bytes) (counts : List Fld) (served : h.loadsServed = true) (read : h.keySlot k.toNat = (b, g))
      (hg : g.hubBad = false) (e : AnswersLoad h (g.serve b) b counts) : Answers (.keySlotLoad tm k) s (fun t => answered t b counts) := by
    refine answers_hub _ tm _ s _ (g.serve b) (exec_keySlotLoad tm s k) ?_ (closed e (calm g hg b))
    show (if !h.loadsServed then _ else _) = _
    rw [served, read]; rfl
  refine ⟨fun i ca served => ?ticket, fun k sk i served seen => ?slot, fun k served unseen => ?miss, fun c hc => ?unserved,
    fun k sk boot => ?slotStore, fun off boot => ?ticketStore, fun w boot => ?partialLine, fun cold => ?cold⟩
  case ticket =>
    obtain ⟨answer, check, cached⟩ := ticketLoad_served i ca served
    have good' := check.trans good
    exact answers_hub _ tm _ s _ _ (exec_ticketLoad tm s i ca) rfl ⟨closed answer good', fun cacheable on =>
      mem_snoop_finish s.hub i good' (cached cacheable on) (answer.leaves.ticket (by decide) i)⟩
  case slot => exact slotLoad k _ _ _ served (keySlot_sees (h := h) hi seen) good (serve_looked _ served)
  case miss =>
    rcases keySlot_misses (h := h) (k := k) hi unseen with read | read
    · exact slotLoad k _ _ _ served read good ((serve_answers _ served).mono (List.nil_subset _))
    · exact slotLoad k _ _ _ served read good (serve_looked _ served)
  case unserved =>
    have load (i : Handle) : (∃ j ca, c i = .ticketLoad tm j ca) ∨ ∃ k, c i = .keySlotLoad tm k := by
      simp only [List.mem_cons, List.not_mem_nil, or_false] at hc
      rcases hc with rfl | rfl | rfl
      · exact .inl ⟨i, false, rfl⟩
      · exact .inl ⟨i, true, rfl⟩
      · exact .inr ⟨i.setWidth 12, rfl⟩
    refine ⟨fun answers unserved i => ?_, fun silent i => ?_⟩
    · let zeros := h.emit (.load (List.replicate 64 0))
      have leaves : LoadLeaves h zeros [] := ⟨fun _ => rfl, rfl, fun _ _ _ => rfl⟩
      have sent : Out.load (List.replicate 64 0) ∈ zeros.out := List.mem_append_right _ (List.mem_singleton.mpr rfl)
      exact ⟨_, unserved_load tm s (load i) unserved zeros fun b => serve_zeros b answers unserved,
        mem_out_finish zeros s.hub good _ sent, left (leaves.finish good s.hub)⟩
    · exact unserved_load tm s (load i) (loadsServed_silent silent) h fun b => serve_silent b silent
  case slotStore => exact (ends_hub _ tm _ s _ rfl (if_pos boot)).becomes (alike_refl _)
  case ticketStore => exact (ends_hub _ tm _ s _ rfl (if_pos boot)).becomes (alike_signal 32 (alike_refl _))
  case partialLine => exact (ends_hub _ tm _ s _ rfl (if_pos boot)).becomes (alike_signal 32 (alike_refl _))
  case cold =>
    have off {α : Type} (a b : α) : (if h.stage 2 then a else b) = b := if_neg (by rw [cold]; decide)
    exact ⟨fun k sk => ends_hub _ tm _ s _ rfl (off _ _), fun o => ends_hub _ tm _ s _ rfl (off _ _), fun w => ends_hub _ tm _ s _ rfl (off _ _)⟩

end Sys2Proof.Machine
end

section
/-! Keridy's commands and events (O39): the lines that Keridy takes, a partition's clearing, and the events. -/

namespace Sys2Proof.Machine
open Hub

/-! ### Stones wiped (R437) -/

/-- The stones with each of a list wiped. -/
def Stones.wipedAll (stn : Stones) (ks : List Nat) : Stones :=
  ks.foldl (fun stn k => stn.set (BitVec.ofNat 11 k) (stn.get (BitVec.ofNat 11 k)).wiped) stn

/-- Wiping a list of stones wipes each of them, however often it is listed, and no other. -/
theorem Stones.get_wipedAll (stn : Stones) (ks : List Nat) (hk : ∀ k ∈ ks, k < 2048) (x : BitVec 11) :
    (stn.wipedAll ks).get x = if x.toNat ∈ ks then (stn.get x).wiped else stn.get x := by
  unfold wipedAll
  induction ks generalizing stn with
  | nil => rfl
  | cons k ks ih =>
    have small : (BitVec.ofNat 11 k).toNat = k := (BitVec.toNat_ofNat _ _).trans (Nat.mod_eq_of_lt (hk k List.mem_cons_self))
    rw [List.foldl_cons, ih _ (fun j hj => hk j (List.mem_cons_of_mem _ hj))]
    by_cases hx : x = BitVec.ofNat 11 k
    · subst hx
      rw [Stones.get_set_same, small, if_pos (List.mem_cons_self (a := k))]
      exact ite_self _
    · have other : x.toNat ≠ k := fun e => hx (BitVec.eq_of_toNat_eq (e.trans small.symm))
      rw [Stones.get_set_ne _ _ _ _ hx]
      simp only [List.mem_cons, other, false_or]

namespace Hub

variable (h : Hub)

/-- The stones of a partition are stones of the device. -/
theorem lt_of_mem_partStones (p k : Nat) (hk : k ∈ h.partStones p) : k < 2048 := by
  simp only [partStones, List.mem_flatten, List.mem_map] at hk
  obtain ⟨_, ⟨c, hc, rfl⟩, hk⟩ := hk
  obtain ⟨j, hj, rfl⟩ := List.mem_map.mp hk
  have small : c < 64 := by
    unfold partClusters at hc
    split at hc
    · cases hc
    · exact List.mem_range.mp (List.mem_of_mem_filter hc)
  have := List.mem_range.mp hj
  omega

/-- Two hubs that place the model alike give each partition the same stones. -/
theorem PlacedAlike.partStones {a b : Hub} (e : PlacedAlike a b) (p : Nat) : a.partStones p = b.partStones p := by
  unfold Hub.partStones partClusters; rw [e.plan]

/-- A stone that scrubs with no injection armed is counted and timed (R437). -/
theorem scrubbed_calm (hi : h.inj = []) (k : Nat) : h.scrubbed k =
    (h.fresh.2.inc F.SECSCRUBS_count).p F.SECSCRUBMAX_steps (max (h.g F.SECSCRUBMAX_steps) (h.fresh.1.toNat % 901)) := by
  let g := (h.fresh.2.inc F.SECSCRUBS_count).p F.SECSCRUBMAX_steps (max (h.g F.SECSCRUBMAX_steps) (h.fresh.1.toNat % 901))
  have calm : g.fireInj 0x32 (fun i => i.a.toNat == k) = (false, g) := fireInj_none g hi _ _
  show (if (g.fireInj 0x32 _).1 then Hub.checkFail (g.fireInj 0x32 _).2 _ _ _ else (g.fireInj 0x32 _).2) = g
  rw [calm]; rfl

/-- Stones that scrub with no injection armed leave images, KV and every register but the count and the time of scrubs. -/
theorem scrubbedAll_leaves (hi : h.inj = []) (ks : List Nat) :
    (ks.foldl (fun h l => h.scrubbed l) h).im = h.im ∧ (ks.foldl (fun h l => h.scrubbed l) h).kv = h.kv
    ∧ ∀ a, a ≠ F.SECSCRUBS_count.a → a ≠ F.SECSCRUBMAX_steps.a → (ks.foldl (fun h l => h.scrubbed l) h).reg a = h.reg a := by
  induction ks generalizing h with
  | nil => exact ⟨rfl, rfl, fun _ _ _ => rfl⟩
  | cons k ks ih =>
    rw [List.foldl_cons, scrubbed_calm h hi]
    obtain ⟨im, kv, regs⟩ := ih ((h.fresh.2.inc F.SECSCRUBS_count).p F.SECSCRUBMAX_steps _) hi
    refine ⟨im, kv, fun a counts time => (regs a counts time).trans ?_⟩
    exact (reg_p_ne _ F.SECSCRUBMAX_steps _ time).trans (reg_p_ne h.fresh.2 F.SECSCRUBS_count _ counts)

theorem profS_counted {w op : BitVec 8} {l : CmdLine} (ha : h.admits w op l = true) : (h.counted w op).profS = h.profS := by
  unfold profS; rw [g_alike (Alike.counted h w op l ha).regs F.HDEVIDX_profile (by decide)]

/-- FUSEADV of a class whose images all carry the minimum it raises (R419). -/
theorem fuseAdv_raises (c : Sub) (m : Nat) (hk : c.line.opd 32 1 ≠ 0) (hm : h.leastSecver (c.line.opd 32 1) = some m)
    (hv : c.line.opd 33 1 ≤ m) :
    let k := c.line.opd 32 1
    let v := (h.reg F.SECSVN_fw.a).toNat
    h.fuseAdv c = (h.setReg F.SECSVN_fw.a
      (BitVec.ofNat 64 (setBits v (8 * k + 7) (8 * k) (max (bitsOf v (8 * k + 7) (8 * k)) (c.line.opd 33 1))))).complete c St.ok := by
  intro k v
  unfold fuseAdv
  simp only [if_neg hk, hm, decide_eq_true hv]
  rfl

/-- PROVISION without an erase or a key: the request is kept, and it erases where the profile changes (R423). -/
theorem provide_noKey (c : Sub) (hk : c.line.opd 33 1 = 0) : h.provide c none =
    ((((({ h with sec := { h.sec with prov := some ⟨c.line.opd 32 1 == 1, false, none⟩ } } : Hub).p F.SECPROFILE_pending 1).p
      F.SECPROFILE_pending_profile (b2n (c.line.opd 32 1 == 1))).p F.SECPROFILE_erase_pending
        (b2n ((c.line.opd 32 1 == 1) != (h.g F.SECPROFILE_active == 1)))).complete c St.ok) := by
  unfold provide; dsimp only
  rw [hk]
  simp only [Bool.or_false]
  rfl

/-! ### A partition's clearing (R438) -/

/-- Partition `p` cleared: its spill areas released, and the wipe of its stones asked for. -/
def cleared (p : Nat) : Hub :=
  { h with kv := { h.kv with spill := h.kv.spill.filter (fun e => e.1 / 2048 != p) }, sec := { h.sec with clear := some (BitVec.ofNat 4 p) } }

variable {g : Hub} {c : Sub} (hn : g.anyRec (fun r => r.part.toNat == c.line.opd 32 1) = false)
include hn

/-- PARTCLEAR of a partition that no record names: its stones scrub, and it completes. -/
theorem partClear_unused : g.partClear c =
    ((((g.partStones (c.line.opd 32 1)).foldl (fun h l => h.scrubbed l) g).cleared (c.line.opd 32 1)).inc F.SECPCLEAR_count).complete c St.ok := by
  unfold partClear; dsimp only
  rw [hn]; rfl

/-- What it leaves: the wipe asked for, the stones of each partition, its count, and the other partitions' spill areas. -/
theorem partClear_leaves (hi : g.inj = []) :
    (g.partClear c).sec.clear = some (BitVec.ofNat 4 (c.line.opd 32 1)) ∧ PlacedAlike (g.partClear c) g
    ∧ (g.partClear c).g F.SECPCLEAR_count = satAdd 64 (g.g F.SECPCLEAR_count) 1
    ∧ (g.partClear c).kv.spill = g.kv.spill.filter (fun e => e.1 / 2048 != c.line.opd 32 1) := by
  rw [partClear_unused hn]
  obtain ⟨im, kv, regs⟩ := scrubbedAll_leaves g hi (g.partStones (c.line.opd 32 1))
  generalize (g.partStones (c.line.opd 32 1)).foldl (fun h l => h.scrubbed l) g = scrubs at im kv regs ⊢
  have still := still_complete ((scrubs.cleared (c.line.opd 32 1)).inc F.SECPCLEAR_count) c St.ok 0 0
  have report (a : Nat) (ha : a ∉ reportRegs) := reg_complete ((scrubs.cleared (c.line.opd 32 1)).inc F.SECPCLEAR_count) c St.ok 0 0 ha
  generalize ((scrubs.cleared (c.line.opd 32 1)).inc F.SECPCLEAR_count).complete c St.ok 0 0 = u at still report ⊢
  have placed (a : Nat) (ha : a ∉ reportRegs) (hc : a ∉ [F.SECPCLEAR_count.a, F.SECSCRUBS_count.a, F.SECSCRUBMAX_steps.a]) : u.reg a = g.reg a := by
    simp only [List.mem_cons, List.not_mem_nil, or_false, not_or] at hc
    obtain ⟨clears, counts, time⟩ := hc
    exact (report a ha).trans ((reg_p_ne _ F.SECPCLEAR_count _ clears).trans (regs a counts time))
  refine ⟨clear_of_rest (rest_of_still still), ⟨(im_of_still still).trans im, ?_, ?_, ?_, ?_⟩, ?count, ?spill⟩
  case count =>
    rw [g_of_reg F.SECPCLEAR_count (report _ (by decide)), g_inc_same _ F.SECPCLEAR_count 1 (by decide),
      ← g_of_reg F.SECPCLEAR_count (regs _ (by decide) (by decide))]
    rfl
  case spill => rw [kv_of_still still, ← kv]; rfl
  all_goals exact placed _ (by decide) (by decide)

end Hub

/-- PARTCLEAR once its line has asked for the wipe: the stones of the partition are wiped (R437). -/
theorem exec_partclear {tm : Nt} {w : BitVec 8} {l : CmdLine} {s : State} {u : Hub} {p : BitVec 4}
    (hu : (s.hub.stamp tm).line w 0x45 l (fun c h => h.partClear c) = u) (hc : u.sec.clear = some p) :
    exec (.partclear tm w l) s = .next { s with
      hub := Hub.finish s.hub { u with sec := { u.sec with clear := none } }, stn := s.stn.wipedAll (u.partStones p.toNat) } := by
  show execPartclear tm w l s = _
  unfold execPartclear; dsimp only
  rw [hu, hc]; rfl

/-! ### Key rotation (R432) -/

namespace Hub

variable (h : Hub) (i : Handle) (q : Rot)

/-- A unit left to a sweep is rewritten under the new generation; the last one ends the sweep. -/
theorem sweepOne_rewrites (u : BitVec 32) (x : GUnit) (hq : smLook h.sec.rots i.toNat = some q) (hx : smLook h.gr.units u.toNat = some x)
    (sweeping : q.phase = 1) (mine : u ∈ q.left) (alone : x.key / 2 ^ 72 ≠ 1) :
    let left := q.left.erase u
    let unit : GUnit := { x with keygen := q.newG, inTun := true, seq := h.gr.wseq }
    let tun := if h.gr.tun.contains u.toNat || h.gr.queue.contains u.toNat then h.gr.tun else h.gr.tun ++ [u.toNat]
    let moved : Hub := { h with gr := { h.gr with units := smPut h.gr.units u.toNat unit, wseq := h.gr.wseq + 1, tun := tun } }
    let paid := ((moved.journalMap u.toNat (mapEntry x)).grnPaid 2 unitBytes).inc F.SECSWEEP_count
    h.sweepOne i u =
      { paid with sec := { paid.sec with rots := smPut paid.sec.rots i.toNat { q with left := left, phase := if left.isEmpty then 2 else 1 } } } := by
  have goes : (q.phase != 1 || !q.left.contains u || (x.key / 2 ^ 72 == 1 && (h.s i).r.state == S.reviving)) = false := by
    rw [sweeping, List.contains_iff_mem.mpr mine, beq_false_of_ne alone]; rfl
  unfold sweepOne
  rw [hq, hx]; dsimp only
  rw [goes, if_neg Bool.false_ne_true]
  rfl

/-- The old generation is retired, and KEYROTATE completes. -/
theorem keyRetired_completes (c : Sub) (hq : smLook h.sec.rots i.toNat = some q) (draining : q.phase = 2) (hc : q.sub = some c) :
    let gone := ({ h with sec := { h.sec with rots := smDel h.sec.rots i.toNat } } : Hub).inc F.SECROTATIONS_count
    let told := gone.devEv 0x0705 4 (q.newG.toNat + i.toNat * 2 ^ 16)
    h.keyRetired i = (told.complete c St.ok q.newG.toNat (told.s i).r.nsi).settled i := by
  unfold keyRetired
  rw [hq]; dsimp only
  rw [draining, if_neg (by decide), hc]

end Hub

/-! ### The events -/

theorem exec_sweepRewrite (tm : Nt) (i : Handle) (u : BitVec 32) (s : State) :
    exec (.sweepRewrite tm i u) s = onHub tm (fun h => h.sweepOne i u) s := rfl

theorem exec_keyRetire (tm : Nt) (i : Handle) (s : State) : exec (.keyRetire tm i) s = onHub tm (fun h => h.keyRetired i) s := rfl

theorem exec_ideKm (tm : Nt) (s : State) : exec (.ideKm tm) s = onHub tm (fun h => h.p F.SECSTAT_ide_up 1) s := rfl

/-- A health test of the TRNG with no injection armed goes by its result (R422). -/
theorem trngHealthTest_ends (tm : Nt) (pass : Bool) (s : State) (hi : s.hub.inj = []) :
    let h := s.hub.stamp tm
    Ends (.trngHealthTest tm pass) s (if pass then { h with sec := { h.sec with trngBad := false } }
      else (({ h with sec := { h.sec with trngBad := true } } : Hub).devEv 0x0706 4 0).flag F.SECSTAT_trng_fail 35) := by
  have calm : (s.hub.stamp tm).fireInj 0x31 (fun _ => true) = (false, s.hub.stamp tm) := fireInj_none (s.hub.stamp tm) hi _ _
  show execTrngHealthTest tm pass s = _
  unfold execTrngHealthTest
  rw [onHub_eq, calm]
  cases pass <;> rfl

/-- Settles O39: each line that Keridy takes by what its command makes of the counted hub, and each event by its case. -/
theorem securityCommandsAndEvents : Obligations.SecurityCommandsAndEvents := by
  refine ⟨fun tm w l s => ?_, fun tm i u q x s => ?_⟩
  · intro h k g addr
    refine ⟨fun ha => ?attest, fun ha trng prof => ?sealopen, fun ha refused => ?refused, fun c ha opened => ?sealclose,
      fun ha idle hi small unused => ?partclear, fun m ha cls least low => ?fuseadv, fun ha keep noKey => ?provision, fun ha keep key => ?ownerKey⟩
    case attest => exact ends_line _ tm w 0x40 l _ s _ rfl ha rfl
    case sealopen =>
      refine ends_line _ tm w 0x41 l _ s _ rfl ha (if_neg ?_)
      rw [trng, profS_counted h ha, show h.profS = true from prof]; decide
    case refused =>
      refine ends_line _ tm w 0x41 l _ s _ rfl ha (if_pos ?_)
      rw [profS_counted h ha]
      rcases refused with trng | prof
      · rw [trng]; rfl
      · rw [show h.profS = false from prof, Bool.not_false, Bool.or_true]
    case sealclose =>
      refine ends_line _ tm w 0x42 l _ s _ rfl ha (if_neg ?_)
      rw [opened]; exact Bool.false_ne_true
    case partclear =>
      obtain ⟨clear, placed, count, spill⟩ := partClear_leaves (c := k 0x45) unused hi
      have part : (BitVec.ofNat 4 (l.opd 32 1)).toNat = l.opd 32 1 := (BitVec.toNat_ofNat _ _).trans (Nat.mod_eq_of_lt small)
      have stones : ((g 0x45).partClear (k 0x45)).partStones (BitVec.ofNat 4 (l.opd 32 1)).toNat = (g 0x45).partStones (l.opd 32 1) := by
        rw [part, placed.partStones]
      refine ⟨_, exec_partclear (line_admitted h w 0x45 l _ ha) clear, fun x => ?_, ?_, ?_, rfl⟩
      · exact (congrArg (fun ks => (s.stn.wipedAll ks).get x) stones).trans (s.stn.get_wipedAll _ (lt_of_mem_partStones (g 0x45) _) x)
      · exact (g_finish _ s.hub F.SECPCLEAR_count (by decide)).trans count
      · exact (congrArg Kv.spill (kv_finish _ s.hub)).trans spill
    case fuseadv => exact ends_line _ tm w 0x46 l _ s _ rfl ha (fuseAdv_raises (g 0x46) (k 0x46) m cls least low)
    case provision =>
      refine ends_line _ tm w 0x47 l _ s _ rfl ha ?_
      rw [if_neg (by simp [keep]), if_pos noKey]
      exact provide_noKey (g 0x47) (k 0x47) keep
    case ownerKey =>
      refine ends_line _ tm w 0x47 l _ s _ rfl ha ?_
      rw [if_neg (by simp [keep]), if_neg key]
  · intro h left unit tun moved paid retired told
    refine ⟨fun hq hx sweeping mine shared => ?sweep, fun hq draining c hc => ?retire, fun hi => ?passed, fun hi => ?failed, ?ide⟩
    case sweep =>
      exact ends_hub _ tm _ s _ (exec_sweepRewrite tm i u s) (sweepOne_rewrites h i q u x hq hx sweeping mine shared)
    case retire => exact ends_hub _ tm _ s _ (exec_keyRetire tm i s) (keyRetired_completes h i q c hq draining hc)
    case passed => exact trngHealthTest_ends tm true s hi
    case failed => exact trngHealthTest_ends tm false s hi
    case ide => exact ends_hub _ tm _ s _ (exec_ideKm tm s) rfl

end Sys2Proof.Machine
end

section
/-! The queue and the stones behind a step (O1 to O3, O5 to O7). -/

namespace Sys2Proof.Machine

open Hub

/-! ### The front of the queue -/

/-- Settles O1: the queue's front is matched and taken off. -/
theorem stepRunsTheFront : Obligations.StepRunsTheFront := fun _ _ => rfl

/-- Settles O2: a step of an empty queue is its first branch (log 1). -/
theorem emptyQueueIdles : Obligations.EmptyQueueIdles := by
  intro s h
  unfold step
  rw [h]

/-- Settles O7: at reset no stone is listed. -/
theorem resetScratchCanonical : Obligations.ResetScratchCanonical := rfl

/-! ### What an outcome keeps -/

/-- Where the outcome is a next state, `P` holds of it. -/
def Keeps (P : State → Prop) (o : Host.Outcome State Fault Refusal) : Prop := ∀ t, o = .next t → P t

variable {P : State → Prop}

theorem keeps_next {t : State} (h : P t) : Keeps P (.next t) := by
  rintro u ⟨⟩
  exact h

/-- A check that stops the machine, before the effect. -/
theorem keeps_checked {c : Prop} [Decidable c] {r : Fault} {o : Host.Outcome State Fault Refusal} (h : Keeps P o) :
    Keeps P (if c then .fault r else o) := by
  split
  · intro t ht; cases ht
  · exact h

/-- Two branches. -/
theorem keeps_ite {c : Prop} [Decidable c] {o o' : Host.Outcome State Fault Refusal} (h : Keeps P o) (h' : Keeps P o') :
    Keeps P (if c then o else o') := by
  split
  · exact h
  · exact h'

/-- A session instruction changes nothing but the hub. -/
theorem instr_keeps (t : Nt) (i : Handle) (w : W64) (op : Nat) (f : Hub → Hub) (s : State) : Keeps (HubOnly s) (instr t i w op f s) :=
  keeps_checked (keeps_next ⟨rfl, rfl⟩)

/-- A command that does not act on the stones changes nothing but the hub. -/
theorem offStones_keeps (c : Instr) (s : State) (hc : onStones c = false) : Keeps (HubOnly s) (exec c s) := by
  cases c
  case nop | br | bcc | cbr | cbi | bst | loopI | wait | parkInstruction | reviveInstruction | migrateInstruction | fork
      | dropInstruction | getf | setf | intakeInstruction | prefill | step | emit | hold | bindInstruction | qsearchInstruction
      | qinsertInstruction | qdeleteInstruction | mov | ldi | lui | add | sub | andI | orI | xorI | shl | shr | sar | cmp | ntread
      | post => exact instr_keeps _ _ _ _ _ s
  case mma | mmai | mqk | mpv | mcfg | vadd | vsub | vmul | vfma | vdiv | vsqrt | vmin | vmax | vfn | vscl | vcvt | vqmx | vred | vtree
      | vatt | vcomb | xcopy | xwait | xkvw | xhub | lsend | lrecv | lput | lwait | grain | gcommit | stepend | stagingLanded
      | staticFrame | stepBoundary | wakeGrant | partclear | powerOnReset | perstAssert | perstDeassert | warmReset | registerWrite
      | powerLoss | fuseOpen | tjWarn | thermalTrip | inject | injectionTimeReached => cases hc
  all_goals exact keeps_next ⟨rfl, rfl⟩

/-- Settles O5: beside the commands that act on the stones, every command changes the hub alone. -/
theorem otherCommandsKeepTheStones : Obligations.OtherCommandsKeepTheStones :=
  fun c s t hc ht => (offStones_keeps c s hc t ht).1

/-! ### The queue -/

/-- What waits in the queue is what waits in `s`. -/
def SameQueue (s t : State) : Prop := t.pending = s.pending

section
variable (t : Nt) (s : State)

theorem lsend_keepsQueue (l : BitVec 11) (w : W64) : Keeps (SameQueue s) (execLsend t l w s) := by
  refine keeps_checked ?_
  dsimp only
  split <;> exact keeps_next rfl

theorem stagingLanded_keepsQueue (die : BitVec 2) (idx : BitVec 32) (st : BitVec 16)
    (lines : List (BitVec 11 × BitVec 14 × BitVec 512)) : Keeps (SameQueue s) (execStagingLanded t die idx st lines s) :=
  keeps_ite (keeps_next rfl) (keeps_next rfl)

theorem stepBoundary_keepsQueue : Keeps (SameQueue s) (execStepBoundary t s) := by
  unfold execStepBoundary
  dsimp only
  split
  · exact keeps_next rfl
  · exact keeps_ite (keeps_next rfl) (keeps_next rfl)

theorem partclear_keepsQueue (w : BitVec 8) (l : CmdLine) : Keeps (SameQueue s) (execPartclear t w l s) := by
  unfold execPartclear
  dsimp only
  split <;> exact keeps_next rfl

theorem staticFrame_keepsQueue (port : BitVec 4) (fr : Frame) : Keeps (SameQueue s) (execStaticFrame t port fr s) :=
  keeps_ite (keeps_next rfl) (keeps_ite (keeps_next rfl) (keeps_ite (keeps_next rfl) (keeps_next rfl)))

theorem perstDeassert_keepsQueue (slot : BitVec 7) (testen : Bool) : Keeps (SameQueue s) (execPerstDeassert t slot testen s) :=
  keeps_ite (keeps_next rfl) (keeps_ite (keeps_next rfl) (keeps_next rfl))

theorem warmReset_keepsQueue (v : BitVec 32) : Keeps (SameQueue s) (execWarmReset t v s) :=
  keeps_ite (keeps_next rfl) (keeps_ite (keeps_next rfl) (keeps_ite (keeps_next rfl) (keeps_next rfl)))

/-- A store in BAR0: a write of the reset code, or any other. -/
theorem registerWrite_keepsQueue (addr : BitVec 20) (v : W64) (wide : Bool) : Keeps (SameQueue s) (execRegisterWrite t addr v wide s) :=
  keeps_ite (warmReset_keepsQueue t s _) (keeps_next rfl)

theorem wakeGrant_keepsQueue : Keeps (SameQueue s) (execWakeGrant t s) := by
  unfold execWakeGrant
  dsimp only
  split
  · exact keeps_next rfl
  · exact keeps_ite (keeps_next rfl) (keeps_next rfl)

end

/-- A command that acts on the stones keeps the queue, in each of its branches. -/
theorem onStones_keepsQueue (c : Instr) (s : State) (hc : onStones c = true) : Keeps (SameQueue s) (exec c s) := by
  cases c
  case mma | mmai | mqk | mpv | mcfg | vadd | vsub | vmul | vfma | vdiv | vsqrt | vmin | vmax | vfn | vscl | vcvt | vqmx | vred | vtree
      | vatt | vcomb | xcopy | xwait | xkvw | xhub | lrecv | lput | lwait | grain | gcommit | stepend =>
    exact keeps_checked (keeps_next rfl)
  case lsend t l w => exact lsend_keepsQueue t s l w
  case stagingLanded t die idx st lines => exact stagingLanded_keepsQueue t s die idx st lines
  case stepBoundary t => exact stepBoundary_keepsQueue t s
  case partclear t w l => exact partclear_keepsQueue t s w l
  case staticFrame t port fr => exact staticFrame_keepsQueue t s port fr
  case perstDeassert t slot testen => exact perstDeassert_keepsQueue t s slot testen
  case warmReset t v => exact warmReset_keepsQueue t s v
  case registerWrite t addr v wide => exact registerWrite_keepsQueue t s addr v wide
  case wakeGrant t => exact wakeGrant_keepsQueue t s
  case powerOnReset | perstAssert | powerLoss | fuseOpen | tjWarn | thermalTrip | inject | injectionTimeReached => exact keeps_next rfl
  all_goals cases hc

/-- Settles O3: a command changes the hub alone, or acts on the stones and keeps the queue too. -/
theorem execKeepsTheQueue : Obligations.ExecKeepsTheQueue := by
  intro c s t ht
  cases hc : onStones c
  · exact (offStones_keeps c s hc t ht).2
  · exact onStones_keepsQueue c s hc t ht

/-! ### Scratch restored from the spill area (R217) -/

theorem kv_scrubbed (h : Hub) (l : Nat) (hi : h.inj = []) : (h.scrubbed l).kv = h.kv := by
  unfold scrubbed
  dsimp only
  generalize hg : Hub.p _ F.SECSCRUBMAX_steps _ = g
  have calm : g.inj = [] := by rw [← hg]; exact hi
  rw [fireInj_none g calm, if_neg Bool.false_ne_true, ← hg]
  rfl

theorem kv_openWindow (h : Hub) (p : Nat) : (h.openWindow p).kv = h.kv := by
  unfold openWindow
  split <;> rfl

/-- A stone whose partition has no unfinished chunk spills nothing. -/
theorem spillStone_finished (h : Hub) (l : Nat) (st : Stone) (q : BitVec 4) (hq : st.part = some q)
    (hu : h.grp.unfin.contains q.toNat = false) : h.spillStone l st = h := by
  unfold spillStone
  rw [hq]
  exact if_neg (Bool.eq_false_iff.1 hu)

/-- A stone takes back the lines that it spilled in the slice it enters. -/
theorem lines_unspill (h : Hub) (l : Nat) (q : BitVec 4) (st : Stone) {y : SMap (BitVec 512) × List Nat}
    (hy : smLook h.kv.spill (q.toNat * 2048 + l) = some y) : (h.unspill l (some q) st).1.lines = y.1 := by
  unfold unspill
  dsimp only
  rw [hy]

/-- The slice of a layout that runs on stone `l` at step `pos` (R215). -/
def sliceAt (p : Plan) (l : BitVec 11) (pos : Nat) : Option Slice :=
  (layout p).find? (fun x => x.mask.getLsbD (l.toNat / 32) && decide (x.start ≤ pos ∧ pos < x.start + x.len))

/-- GRAIN on a stone that has no grain open in its step and enters another partition's slice: it takes back what it spilled there. -/
theorem grain_takesBack (tm : Nt) (l : BitVec 11) (w : W64) (s : State) {g : Hub} {x : Stone} {p : Plan} {z : Slice} {q : BitVec 4}
    {y : SMap (BitVec 512) × List Nat} (hg : (s.hub.stamp tm).busy l 1 = g) (hx : s.stn.get l = x) (hok : linkOk 0x05 w = true)
    (idle : x.grain = none) (later : x.base ≠ 0) (own : x.part = some q) (plan : g.plan = some p) (multi : g.multiPart = true)
    (slice : sliceAt p l (x.issueAt { unit := unitLink, steps := 1 } - x.base) = some z) (other : z.part ≠ q)
    (done : g.grp.unfin.contains q.toNat = false) (calm : g.inj = [])
    (held : smLook g.kv.spill (z.part.toNat * 2048 + l.toNat) = some y) :
    Answers (.grain tm l w) s (fun t => (t.stn.get l).lines = y.1) := by
  have scrub : (g.multiPart && x.part.isSome && some z.part != x.part) = true := by simp [multi, own, other]
  have first : ¬ x.base ≤ 0 := by omega
  unfold sliceAt at slice
  show ∃ t, execGrain tm l w s = .next t ∧ _
  unfold execGrain
  rw [if_neg (by rw [hok]; decide), hg, hx]
  simp only [idle, plan, slice, scrub, first, spillStone_finished g _ x q own done, Option.map_none, Option.getD_none, Bool.false_eq_true,
    decide_false, Bool.and_false, if_false, if_true]
  refine ⟨_, rfl, ?_⟩
  rw [Stones.get_set_same]
  refine lines_unspill _ _ _ _ ?_
  have scrubbed : (g.scrubbed l.toNat).kv = g.kv := kv_scrubbed g _ calm
  split
  · rw [kv_openWindow, scrubbed, held]
  · rw [scrubbed, held]

/-- A plan whose layout gives every cluster first to partition 0, then to partition 1. -/
def twoPartPlan : Plan :=
  { heldPlan with slices := [{ part := 0, mask := BitVec.allOnes 64, start := 0, len := 1000 },
                             { part := 1, mask := BitVec.allOnes 64, start := 1000, len := 1000 }] }

/-- A hub whose spill area holds, for stone 0 in partition 0's slice, a line of value 0. -/
def spilledHub : Hub :=
  { heldHub with im := { plans := [(0, [twoPartPlan])], models := [heldModel] }, kv := { spill := [(0, ([(0, 0)], []))] } }

/-- Stone 0 has ended a step in partition 1's slice; the next opens with a grain in partition 0's. -/
def spilledState : State :=
  { hub := spilledHub, stn := { st := [(0, { part := some 1, next := 1, base := 1 })] }, pending := [.grain 1000 0 0x0501000100000000] }

theorem spilledState_canonical : spilledState.stn.wf = true := by decide

/-- The stone takes back the line of value 0 as it was spilled. -/
theorem spilledState_restores :
    Answers (.grain 1000 0 0x0501000100000000) { spilledState with pending := [] } (fun t => (t.stn.get 0).lines = [(0, 0)]) :=
  grain_takesBack 1000 0 _ _ (p := twoPartPlan) (z := { part := 0, mask := BitVec.allOnes 64, start := 0, len := 1000 }) (q := 1)
    (y := ([(0, 0)], [])) rfl rfl (by decide) rfl (by decide) rfl (by decide +kernel) (by decide +kernel) (by decide +kernel) (by decide)
    (by decide +kernel) (by decide +kernel) (by decide +kernel)

/-- A stone of stones in canonical form is in canonical form. -/
theorem wf_get (x : Stones) (l : BitVec 11) (h : x.wf = true) : (x.get l).wf = true := by
  obtain ⟨-, each⟩ := Bool.and_eq_true_iff.1 h
  unfold Stones.get smGet
  cases hl : smLook x.st l.toNat with
  | none => rfl
  | some y => exact all_of_smLook x.st l.toNat y Stone.wf each hl

/-- A line of value 0 is listed where a canonical form lists none. -/
theorem smWf_zero (n : Nat) (d : BitVec n) : smWf d [(0, d)] = false := by
  unfold smWf
  rw [List.all_cons, decide_eq_false (not_not.2 rfl), Bool.false_and, Bool.and_false]

/-- Refutes O6: GRAIN restores what a stone spilled (R217), and the spill area of a state may list a line of value 0. -/
theorem not_stepKeepsScratchCanonical : ¬ Obligations.StepKeepsScratchCanonical := by
  intro h
  obtain ⟨t, ht, lines⟩ := spilledState_restores
  have stone : (t.stn.get 0).wf = true := wf_get _ _ (h spilledState t spilledState_canonical ht)
  unfold Stone.wf at stone
  rw [lines, smWf_zero] at stone
  exact Bool.false_ne_true stone

end Sys2Proof.Machine
end

section
/-! Quern's commands where Quern is enabled (O36). -/

namespace Sys2Proof.Machine

open Hub

namespace Hub

/-! ### A counted line on an index -/

section
variable (h : Hub) {w op : BitVec 8} {l : CmdLine} (ha : h.admits w op l = true)
include ha

theorem on_counted (f : Fld) (hf : f.a + f.stride * 0 ∉ countRegs) : (h.counted w op).on f = h.on f :=
  on_alike (Alike.counted h w op l ha).regs f hf

theorem qn_counted : (h.counted w op).qn = h.qn := (Alike.counted h w op l ha).qn

theorem nt_counted : (h.counted w op).nt = h.nt := (Alike.counted h w op l ha).nt

theorem qidx_counted (k : Nat) : (h.counted w op).qidx k = h.qidx k := by
  unfold qidx
  rw [qn_counted h ha]

theorem qFind_counted (k : Nat) (t : BitVec 24) (p : BitVec 4) : (h.counted w op).qFind k t p = h.qFind k t p := by
  unfold qFind
  rw [qidx_counted h ha]

theorem setQ_counted (k : Nat) (q : QIdx) :
    (h.counted w op).setQ k q = { h.counted w op with qn := { h.qn with idx := smPut h.qn.idx k q } } := by
  unfold setQ
  rw [qn_counted h ha]

end

/-- An index that a requester may name is there and not about to go (R339). -/
theorem qidx_of_qFind (h : Hub) {k : Nat} {t : BitVec 24} {p : BitVec 4} {q : QIdx} (hq : h.qFind k t p = some q) : h.qidx k = some q := by
  unfold qFind at hq
  split at hq
  · cases hq
  · next x hx =>
    split at hq
    · rw [hx, hq]
    · cases hq

/-- Quern's memory and its entries hold another index (R338). -/
def quernFits (h : Hub) (cap m r dim : Nat) : Prop :=
  (h.qn.idx.map (fun e => quernBytes e.2.cap e.2.m e.2.r e.2.sideCap e.2.dim)).sum
      + quernBytes cap m r (max 4096 (h.g F.QSIDECAP_entries)) dim ≤ h.qn.mem * 2 ^ 30
    ∧ (h.qn.idx.map (fun e => e.2.cap)).sum + cap ≤ 1073741824

theorem quernFits_counted (h : Hub) {w op : BitVec 8} {l : CmdLine} (ha : h.admits w op l = true) (cap m r dim : Nat) :
    (h.counted w op).quernFits cap m r dim ↔ h.quernFits cap m r dim := by
  unfold quernFits
  rw [qn_counted h ha, g_alike (Alike.counted h w op l ha).regs F.QSIDECAP_entries (by decide)]

/-- The index that a QCREATE describes (R338, R339). -/
def quernMade (h : Hub) (v : Nat → Nat → Nat) : QIdx :=
  { dim := v 34 2, fmt := v 36 1, metric := v 37 1, m := v 38 2, r := v 40 1, cap := v 44 4, tenant := BitVec.ofNat 24 (v 48 3)
    part := BitVec.ofNat 4 (v 41 1), sideCap := max 4096 (h.g F.QSIDECAP_entries), ready := v 36 1 == 2
    reading := if v 36 1 == 2 then 0 else 1 }

section
variable (h : Hub) (c : Sub) {v : Nat → Nat → Nat} (hv : c.line.opd = v) (he : h.on F.QCTL_enable = true) (hk : h.qidx (v 32 2) = none)
  (hf : h.quernFits (v 44 4) (v 38 2) (v 40 1) (v 34 2))
include hv he hk hf

/-- QCREATE of a new index that fits: one of binary codes is ready, any other reads its codebook (R339). -/
theorem qCreate_makes : h.qCreate c = if v 36 1 == 2 then (h.setQ (v 32 2) (h.quernMade v)).complete c St.ok
    else (h.setQ (v 32 2) (h.quernMade v)).hostRead (BitVec.ofNat 64 (v 56 8)) (512 * v 34 2) (.qreq (.cmd c) 0x20 (v 32 2) h.nt) := by
  obtain ⟨room, few⟩ := hf
  subst hv
  unfold qCreate
  dsimp only
  rw [he, hk, if_neg (by decide), if_neg (by decide), if_neg (by omega)]
  rfl

theorem qCreate_binary (hb : v 36 1 = 2) : h.qCreate c = (h.setQ (v 32 2) (h.quernMade v)).complete c St.ok :=
  (qCreate_makes h c hv he hk hf).trans (if_pos (beq_iff_eq.2 hb))

theorem qCreate_codebook (hb : v 36 1 ≠ 2) : h.qCreate c = (h.setQ (v 32 2) (h.quernMade v)).hostRead (BitVec.ofNat 64 (v 56 8))
    (512 * v 34 2) (.qreq (.cmd c) 0x20 (v 32 2) h.nt) :=
  (qCreate_makes h c hv he hk hf).trans (if_neg (mt beq_iff_eq.1 hb))

end

/-- A merge starts on an index that runs none (R352). -/
theorem qMerge_starts (h : Hub) {k : Nat} {q : QIdx} (subs : List Sub) (hk : h.qidx k = some q) (hm : q.merge = none) :
    h.qMerge k subs = (h.setQ k { q with merge := some (h.nt, subs) }).p F.QSTAT_merging 1 := by
  unfold qMerge
  rw [hk]
  dsimp only
  rw [hm]

end Hub

/-! ### The commands -/

section
variable {tm : Nt} {w op : BitVec 8} {l : CmdLine} {s : State}

/-- A line that completes once it has stored an index leaves that index, beside its record. -/
theorem quern_stores {c : Instr} {f : Sub → Hub → Hub} {k : Nat} {q : QIdx} {u : Hub}
    (he : exec c s = onHub tm (fun h => h.line w op l f) s) (ha : (s.hub.stamp tm).admits w op l = true)
    (hu : u = { (s.hub.stamp tm).counted w op with qn := { s.hub.qn with idx := smPut s.hub.qn.idx k q } })
    (hf : (f ((s.hub.stamp tm).subOf w op l) ((s.hub.stamp tm).counted w op)).alike (((s.hub.stamp tm).counted w op).setQ k q)) :
    Becomes c s u := by
  refine line_becomes c tm w op l f s u he ha ?_
  rw [hu]
  exact alike_trans hf (by rw [setQ_counted _ ha]; exact alike_refl _)

/-- A line that reads host memory once it has stored an index sends the read. -/
theorem quern_reads {c : Instr} {f : Sub → Hub → Hub} {k : Nat} {q : QIdx} {x : W64} {n : Nat}
    (he : exec c s = onHub tm (fun h => h.line w op l f) s) (ha : (s.hub.stamp tm).admits w op l = true) (hb : s.hub.hubBad = false)
    (hf : ∃ r, f ((s.hub.stamp tm).subOf w op l) ((s.hub.stamp tm).counted w op) =
      (((s.hub.stamp tm).counted w op).setQ k q).hostRead x n r) :
    BecomesSending c s { (s.hub.stamp tm).counted w op with qn := { s.hub.qn with idx := smPut s.hub.qn.idx k q } }
      (.hostRead s.hub.nextId x n) := by
  have a := Alike.counted _ w op l ha
  obtain ⟨r, hf⟩ := hf
  refine line_reads c tm w op l f s _ x n r he ha (a.hubBad.trans hb) a.nextId ?_
  rw [hf, setQ_counted _ ha]
  rfl

/-- The index once a request of opcode `op` is taken from window `w` at NT `t`: an edit stands in its place among the others (R344). -/
def QIdx.asked (q : QIdx) (c : Sub) (op w : BitVec 8) (t : Nt) : QIdx :=
  let before (a : QEdit) : Bool := Hub.qBefore (a.nt, a.w) (t, w.toNat + 1)
  { q with reading := q.reading + 1
           edits := if op == 0x22 then q.edits
             else q.edits.takeWhile before ++ [{ who := .cmd c, nt := t, w := w.toNat + 1 }] ++ q.edits.dropWhile before }

/-- QSEARCH, QINSERT and QDELETE read their request block (R339, R340). -/
theorem quern_requestBlock {c : Instr} {q : QIdx} (he : exec c s = onHub tm (fun h => h.qLine w op l) s)
    (ha : (s.hub.stamp tm).admits w op l = true) (hb : s.hub.hubBad = false) (hen : s.hub.on F.QCTL_enable = true)
    (hq : s.hub.qFind (l.opd 40 2) ((s.hub.stamp tm).subOf w op l).tenant ((s.hub.stamp tm).subOf w op l).part = some q) :
    BecomesSending c s { (s.hub.stamp tm).counted w op with
        qn := { s.hub.qn with idx := smPut s.hub.qn.idx (l.opd 40 2) (q.asked ((s.hub.stamp tm).subOf w op l) op w (s.hub.stamp tm).nt) } }
      (.hostRead s.hub.nextId (BitVec.ofNat 64 (l.opd 32 8)) (64 + (if op == 0x24 then 0 else q.vecBytes))) := by
  refine quern_reads (op := op) he ha hb ?_
  constructor
  rw [on_counted _ ha F.QCTL_enable (by decide), show (s.hub.stamp tm).on F.QCTL_enable = true from hen, if_neg (by decide),
    show ((s.hub.stamp tm).counted w op).qFind (l.opd 40 2) _ _ = some q from (qFind_counted _ ha _ _ _).trans hq]
  dsimp only
  unfold qRequest
  rw [nt_counted _ ha]
  rfl

end

/-- Settles O36: what each line makes of the index it names, and the read it issues. -/
theorem quernCommands : Obligations.QuernCommands := by
  intro tm w l q s h v addr side made fits put found e before edited hen
  have enabled {op : BitVec 8} (ha : h.admits w op l = true) : (h.counted w op).on F.QCTL_enable = true :=
    (on_counted h ha F.QCTL_enable (by decide)).trans hen
  have named {op : BitVec 8} (hf : found op) : (h.counted w op).qFind (v 40 2) (h.subOf w op l).tenant (h.subOf w op l).part = some q :=
    (qFind_counted h hf.1 _ _ _).trans hf.2.2
  have sized {op : BitVec 8} (ha : h.admits w op l = true) : (h.counted w op).quernMade v = made := by
    unfold quernMade
    rw [g_alike (Alike.counted h w op l ha).regs F.QSIDECAP_entries (by decide)]
    rfl
  have room {op : BitVec 8} (ha : h.admits w op l = true) (hf : fits) : (h.counted w op).quernFits (v 44 4) (v 38 2) (v 40 1) (v 34 2) :=
    (quernFits_counted h ha _ _ _ _).2 hf
  refine ⟨fun ha hk hf hb => ?binary, fun ha hbad hk hf hb => ?codebook, fun ha hk hd => ?destroy, fun hf => ?search, fun hf => ?insert,
    fun hf => ?delete, fun hf => ?filter, fun hf hm => ?merge⟩
  case binary =>
    refine quern_stores (f := fun c h => h.qCreate c) (k := v 32 2) (q := made) rfl ha rfl ?_
    rw [qCreate_binary (h.counted w 0x20) (h.subOf w 0x20 l) (v := v) rfl (enabled ha) ((qidx_counted h ha _).trans hk) (room ha hf) hb, sized ha]
    exact alike_complete _ _ _ _ (alike_refl _)
  case codebook =>
    refine quern_reads (f := fun c h => h.qCreate c) rfl ha hbad ?_
    constructor
    rw [qCreate_codebook (h.counted w 0x20) (h.subOf w 0x20 l) (v := v) rfl (enabled ha) ((qidx_counted h ha _).trans hk) (room ha hf) hb, sized ha]
  case destroy =>
    refine quern_stores (k := v 32 2) rfl ha rfl ?_
    dsimp only
    rw [enabled ha, if_neg (by decide), show (h.counted w 0x21).qidx (l.opd 32 2) = some q from (qidx_counted h ha _).trans hk]
    dsimp only
    rw [hd, if_neg (by decide)]
    exact alike_refl _
  case search => exact quern_requestBlock rfl hf.1 hf.2.1 hen hf.2.2
  case insert => exact quern_requestBlock rfl hf.1 hf.2.1 hen hf.2.2
  case delete => exact quern_requestBlock rfl hf.1 hf.2.1 hen hf.2.2
  case filter =>
    refine quern_reads (k := v 40 2) rfl hf.1 hf.2.1 ?_
    constructor
    dsimp only
    rw [enabled hf.1, if_neg (by decide), show (h.counted w 0x25).qFind (l.opd 40 2) _ _ = some q from named hf]
  case merge =>
    refine line_becomes _ tm w 0x26 l _ s _ rfl hf.1 ?_
    dsimp only
    rw [enabled hf.1, if_neg (by decide), show (h.counted w 0x26).qFind (l.opd 40 2) _ _ = some q from named hf]
    dsimp only
    rw [qMerge_starts _ _ (qidx_of_qFind _ (named hf)) hm, setQ_counted h hf.1, nt_counted h hf.1]
    exact alike_refl _

end Sys2Proof.Machine
end

section
/-! Quern's and AIX's events (O37). -/

namespace Sys2Proof.Machine

open Hub

namespace Hub

section
variable (h : Hub)

/-! ### Searches (R345, R351) -/

/-- The snapshot that a search pins: the newest generation and the newest filter from before it starts (R345). -/
def snapshot (x : QSearch) (q : QIdx) : QSearch :=
  { x with
    start := h.nt
    gen := ((q.gens.find? (fun g => decide (g.nt < h.nt))).orElse (fun _ => q.gens.getLast?)).getD {}
    filt := (((smGet [] q.filters x.req.filter).find? (fun f => decide (f.1 < h.nt))).map (·.2)).getD [] }

theorem qTake_starts {x : QSearch} {rest : List QSearch} {q : QIdx} (hw : h.qn.waiting = x :: rest) (hl : h.qn.taken.length < 64)
    (hq : h.qidx x.idx = some q) :
    h.qTake = { h with qn := { h.qn with waiting := rest, taken := h.qn.taken ++ [h.snapshot x q] } } := by
  unfold qTake
  rw [hw]
  dsimp only
  rw [if_neg (by omega), hq]
  rfl

theorem qTake_idle (hn : h.qn.waiting = [] ∨ 64 ≤ h.qn.taken.length) : h.qTake = h := by
  unfold qTake
  split
  · rfl
  · next hw => exact if_pos (hn.resolve_left (by rw [hw]; exact List.cons_ne_nil _ _))

theorem qResult_idle (bad : List (BitVec 32)) (ht : h.qn.taken = []) : h.qResult bad = h := by
  unfold qResult
  rw [ht]

/-- The hub once the oldest search has found `a` and is counted. -/
def searched (a : QAns) (k : Nat) (rest : List QSearch) : Hub :=
  (((({ h with qn := { h.qn with taken := rest } } : Hub).inc F.QSEARCHES_count).inc F.QVISITS_count a.cnt).inc F.QPOISON_count a.bad).inc
    F.QSHORT_count (b2n (decide (a.ents.length < k)))

/-- What a search's result block tells its requester of, once it is written. -/
def answered (x : QSearch) (a : QAns) : WrWait :=
  let status := if decide (a.ents.length < x.req.k) then St.filterShort else St.ok
  match x.who with
  | .cmd c => { addr := 0, data := [], status := status, sub := some (c, BitVec.ofNat 32 a.ents.length) }
  | .ins i nsi => { addr := 0, data := [], status := status, ins := some (i, nsi, a.ents.length) }

/-- A result block of one granule goes out at once; of a longer one the first granule is held until the others are written (R351). -/
def resultWrite (w : WrWait) (addr : W64) (b : Bytes) : WrWait :=
  if b.length ≤ 64 then { w with addr := addr, data := b.take 64 }
  else { w with addr := addr + 64, data := b.drop 64, first := some (addr, b.take 64) }

theorem qResult_writes (bad : List (BitVec 32)) {x : QSearch} {rest : List QSearch} {q : QIdx} {a : QAns}
    (ht : h.qn.taken = x :: rest) (hq : h.qidx x.idx = some q) (ha : q.answer x (h.g F.QBRUTE_items) (bad.map (·.toNat)) = a) :
    h.qResult bad = (((h.searched a x.req.k rest).hostWrite
      (resultWrite (answered x a) x.req.result (padTo (64 * cdiv (32 + 16 * a.ents.length) 64) (qBlock x a)))).qSweep x.idx).qGo x.idx := by
  unfold qResult
  rw [ht]
  dsimp only
  rw [show ({ h with qn := { h.qn with taken := rest } } : Hub).qidx x.idx = some q from hq]
  dsimp only
  rw [show q.answer x (({ h with qn := { h.qn with taken := rest } } : Hub).g F.QBRUTE_items) (bad.map (·.toNat)) = a from ha]
  unfold resultWrite answered
  cases x.who <;> split <;> rfl

/-! ### Indices and merges (R339, R352) -/

theorem qDestroy_frees {k : Nat} {q : QIdx} {c : Sub} (hq : h.qidx k = some q) (hd : q.destroy = some c) (hi : h.qIdle k q = true) :
    h.qDestroy k = (({ h with qn := { h.qn with idx := smDel h.qn.idx k } } : Hub).grnRelease (objKey 7 k)).complete c St.ok := by
  unfold qDestroy
  rw [hq]
  dsimp only
  rw [hd]
  exact if_pos hi

theorem qDestroy_waits {k : Nat} {q : QIdx} (hq : h.qidx k = some q) (hn : q.destroy = none ∨ h.qIdle k q = false) : h.qDestroy k = h := by
  unfold qDestroy
  rw [hq]
  dsimp only
  split
  · rfl
  · next c hd => exact if_neg (Bool.eq_false_iff.1 (hn.resolve_left (by rw [hd]; exact Option.some_ne_none c)))

theorem qMerged_idle {k : Nat} {q : QIdx} (hq : h.qidx k = some q) (hm : q.merge = none) : h.qMerged k = h := by
  unfold qMerged
  rw [hq]
  dsimp only
  rw [hm]

/-! ### Banks of the associative index (R334, R335) -/

theorem on_inc_ne (f f' : Fld) (n : Nat) (hf : inWord f = true) (ha : apart f 0 f' 0 = true) : (h.inc f n).on f' = h.on f' := by
  unfold on
  rw [g_inc_ne h f f' n hf ha]

/-- A rewrite of an entry is counted; one that fails read-back twice fails its bank. -/
def rewritten (h : Hub) (e : BitVec 4 × BitVec 14 × Bool) : Hub :=
  if e.2.2 then h.inc F.AIXREPAIR_count else (h.inc F.AIXREPAIR_count).failBank e.1.toNat

theorem scrub_runs (bads : List (BitVec 4 × BitVec 14 × Bool)) (he : h.on F.AIXCTL_scrub_en = true) :
    (if !h.on F.AIXCTL_scrub_en then h else bads.foldl (fun h e =>
      let h := h.inc F.AIXREPAIR_count
      if e.2.2 then h else h.failBank e.1.toNat) h) = bads.foldl rewritten h :=
  if_neg (by rw [he]; decide)

/-- A scrub whose repairs all hold counts them. -/
theorem scrub_repairs (bads : List (BitVec 4 × BitVec 14 × Bool)) (hb : ∀ b ∈ bads, b.2.2 = true) :
    bads.foldl rewritten h = bads.foldl (fun h _ => h.inc F.AIXREPAIR_count) h := by
  induction bads generalizing h with
  | nil => rfl
  | cons b bads ih =>
    rw [List.foldl_cons, List.foldl_cons]
    rw [rewritten, if_pos (hb b List.mem_cons_self)]
    exact ih _ fun b' h' => hb b' (List.mem_cons_of_mem b h')

end

end Hub

/-- Settles O37: each event by its case, and where there is nothing to do by the branch that leaves the hub. -/
theorem quernEvents : Obligations.QuernEvents := by
  intro tm x rest q bad k c g old n subs bank ent bads s h gen filt ans short block counts status tells made side merged
  refine ⟨fun hw hl hq => ?start, fun hn => ?full, fun ht => ?none, fun ht hq hb => ?one, fun ht hq hb => ?more, fun hq hd hi => ?free,
    fun hq hm hg => ?commit, fun hq hn => ?held, fun hq hm => ?unmerged, fun hs => ?swapless, fun hs => ?swap, fun he hb => ?repaired,
    fun he hen hs hsp hb => ?spared, fun he hsp hb => ?lost, fun he => ?off⟩
  case start =>
    show execQuernSearchStart tm s = _
    exact onHub_ends rfl (qTake_starts h hw hl hq)
  case full =>
    show execQuernSearchStart tm s = _
    exact onHub_ends rfl (qTake_idle h hn)
  case none =>
    show execQuernResult tm bad s = _
    exact onHub_ends rfl (qResult_idle h bad ht)
  case one =>
    have write : resultWrite (answered x ans) x.req.result block = { answered x ans with addr := x.req.result, data := block.take 64 } := if_pos hb
    show execQuernResult tm bad s = _
    exact onHub_ends rfl ((qResult_writes h bad ht hq rfl).trans
      (congrArg (fun w => (((counts.hostWrite w).qSweep x.idx).qGo x.idx)) write))
  case more =>
    have write : resultWrite (answered x ans) x.req.result block = { answered x ans with addr := x.req.result + 64, data := block.drop 64, first := some (x.req.result, block.take 64) } := if_neg (Nat.not_le.2 hb)
    show execQuernResult tm bad s = _
    exact onHub_ends rfl ((qResult_writes h bad ht hq rfl).trans
      (congrArg (fun w => (((counts.hostWrite w).qSweep x.idx).qGo x.idx)) write))
  case free =>
    show execQuernIndexFree tm k s = _
    exact onHub_ends rfl (qDestroy_frees h hq hd hi)
  case commit =>
    show execMergeCommit tm k s = _
    refine onHub_ends rfl ?_
    show h.qMerged k.toNat = _
    unfold qMerged
    rw [show h.qidx k.toNat = some q from hq]
    dsimp only
    rw [hm, hg]
    rfl
  case held =>
    show execQuernIndexFree tm k s = _
    exact onHub_ends rfl (qDestroy_waits h hq hn)
  case unmerged =>
    show execMergeCommit tm k s = _
    exact onHub_ends rfl (qMerged_idle h hq hm)
  case swapless =>
    show execBankSwap tm bank s = _
    exact onHub_ends rfl (if_pos hs)
  case swap =>
    show execBankSwap tm bank s = _
    exact onHub_ends rfl (if_neg (not_not_intro hs))
  case repaired =>
    show execAixScrub tm bads s = _
    exact onHub_ends rfl ((scrub_runs h bads he).trans (scrub_repairs h bads hb))
  case spared =>
    show execAixScrub tm [(bank, ent, false)] s = _
    exact onHub_ends rfl ((scrub_runs h _ he).trans (failBank_spared _ bank.toNat hb ⟨(on_inc_ne h F.AIXREPAIR_count F.AIXCTL_spare_en 1 (by decide) (by decide)).trans hen, hs, hsp⟩))
  case lost =>
    show execAixScrub tm [(bank, ent, false)] s = _
    exact onHub_ends rfl ((scrub_runs h _ he).trans (failBank_unspared _ bank.toNat hb fun hc => hsp hc.2.2))
  case off =>
    show execAixScrub tm bads s = _
    exact onHub_ends rfl (if_pos (by rw [show h.on F.AIXCTL_scrub_en = false from he]; rfl))

end Sys2Proof.Machine
end

section
/-! Sluice's refills, its scheduler and its samples (O56). -/

namespace Sys2Proof.Machine

open Hub

/-! ### Buckets -/

section
variable {α β : Type} (upd : SMap β → α → SMap β) (d : β) (k : Nat)

/-- Updates that all keep key `k` keep it together. -/
theorem foldl_keeps (l : List α) (m : SMap β) (other : ∀ m, ∀ x ∈ l, smGet d (upd m x) k = smGet d m k) :
    smGet d (l.foldl upd m) k = smGet d m k := by
  induction l generalizing m with
  | nil => rfl
  | cons x l ih =>
    rw [List.foldl_cons, ih _ fun m y hy => other m y (List.mem_cons_of_mem x hy), other m x List.mem_cons_self]

/-- Of updates one of which changes key `k` alone does it by that one. -/
theorem foldl_changes (l : List α) (m : SMap β) (x₀ : α) (F : β → β) (hx : x₀ ∈ l) (hl : l.Nodup)
    (own : ∀ m, smGet d (upd m x₀) k = F (smGet d m k)) (other : ∀ m, ∀ x ∈ l, x ≠ x₀ → smGet d (upd m x) k = smGet d m k) :
    smGet d (l.foldl upd m) k = F (smGet d m k) := by
  induction l generalizing m with
  | nil => cases hx
  | cons x l ih =>
    obtain ⟨fresh, hl⟩ := List.nodup_cons.1 hl
    rw [List.foldl_cons]
    by_cases e : x₀ = x
    · subst e
      rw [foldl_keeps upd d k l _ fun m y hy => other m y (List.mem_cons_of_mem x₀ hy) fun e => fresh (e ▸ hy), own]
    · rw [ih _ ((List.mem_cons.1 hx).resolve_left e) hl fun m y hy => other m y (List.mem_cons_of_mem x hy),
        other m x List.mem_cons_self (Ne.symm e)]

end

theorem gain_same (m : SMap Int) (k g b : Nat) : smGet 0 (gain m k g b) k = min (smGet 0 m k + (g : Int)) (b : Int) :=
  smGet_smSet_same _ _ _ _

theorem gain_ne (m : SMap Int) (k j g b : Nat) (hj : j ≠ k) : smGet 0 (gain m k g b) j = smGet 0 m j :=
  smGet_smSet_ne _ _ _ _ _ _ hj

/-- One bucket for each of 16, all of one rate. -/
theorem gain_each (m : SMap Int) (key : Nat → Nat) (inj : ∀ a b, key a = key b → a = b) (g b n : Nat) (hn : n < 16) :
    smGet 0 ((List.range 16).foldl (fun m n => gain m (key n) g b) m) (key n) = min (smGet 0 m (key n) + (g : Int)) (b : Int) :=
  foldl_changes _ 0 (key n) _ m n (fun x => min (x + (g : Int)) (b : Int)) (List.mem_range.2 hn) List.nodup_range
    (fun m => gain_same m _ g b) fun m _ _ hx => gain_ne m _ _ g b fun e => hx (inj _ _ e).symm

/-- A bucket of its own rate for each index below `N`. -/
theorem gain_rated (m : SMap Int) (rate burst : Nat → Nat) (per N p : Nat) (hp : p < N) :
    smGet 0 ((List.range N).foldl (fun m p => if rate p = 0 then m else gain m p (rate p * per) (burst p)) m) p =
      if rate p = 0 then smGet 0 m p else min (smGet 0 m p + ((rate p * per : Nat) : Int)) (burst p : Int) :=
by
  refine foldl_changes _ 0 p _ m p (fun x => if rate p = 0 then x else min (x + ((rate p * per : Nat) : Int)) (burst p : Int))
    (List.mem_range.2 hp) List.nodup_range
    (fun m => ?own) fun m x _ hx => ?other
  case own =>
    split
    · rfl
    · exact gain_same m _ _ _
  case other =>
    split
    · rfl
    · exact gain_ne m _ _ _ _ (Ne.symm hx)

/-- Sixteen buckets for each of sixteen queues, each queue of its own rate. -/
theorem gain_queues (m : SMap Int) (rate burst : Nat → Nat) (per n q : Nat) (hn : n < 16) (hq : q < 16) :
    smGet 0 ((List.range 16).foldl (fun m q => if rate q = 0 then m
        else (List.range 16).foldl (fun m n => gain m (n * 16 + q) (rate q * per) (burst q)) m) m) (n * 16 + q) =
      if rate q = 0 then smGet 0 m (n * 16 + q) else min (smGet 0 m (n * 16 + q) + ((rate q * per : Nat) : Int)) (burst q : Int) := by
  refine foldl_changes _ 0 (n * 16 + q) _ m q
    (fun x => if rate q = 0 then x else min (x + ((rate q * per : Nat) : Int)) (burst q : Int)) (List.mem_range.2 hq) List.nodup_range
    (fun m => ?own) fun m x mem hx => ?other
  case own =>
    split
    · rfl
    · exact gain_each m (fun n => n * 16 + q) (fun a b e => by omega) _ _ n hn
  case other =>
    have small := List.mem_range.1 mem
    split
    · rfl
    · exact foldl_keeps _ 0 (n * 16 + q) _ m fun m k _ => gain_ne m _ _ _ _ (by omega)

/-- Each policer gains its rate, up to its burst. -/
theorem police_each (m : SMap Nat) (rate burst : Nat → Nat) (per k : Nat) (hk : k < 64) :
    smGet 0 ((List.range 64).foldl (fun m k => smSet 0 m k (min (smGet 0 m k + rate k * per) (burst k))) m) k =
      min (smGet 0 m k + rate k * per) (burst k) :=
  foldl_changes _ 0 k _ m k (fun x => min (x + rate k * per) (burst k)) (List.mem_range.2 hk) List.nodup_range
    (fun m => smGet_smSet_same 0 m k _) fun m x _ hx => smGet_smSet_ne 0 0 m x k _ (Ne.symm hx)

/-! ### Refills (R358, R359, R362, R366) -/

/-- What closes a command leaves Sluice as it is, while the check of its records is good. -/
theorem sl_finish_good (h old : Hub) (hb : h.hubBad = false) : (finish old h).sl = h.sl := by
  obtain ⟨n, o, e⟩ := finish_eq h old hb
  rw [e]

namespace Hub

/-- The hub at a refill instant, with the settings in force then (R358). -/
def refilling (h : Hub) : Hub :=
  { h with sl := { h.sl with force := h.sl.force.filter (fun e => decide (h.nt ≤ e.2.2)), lastRefill := h.nt } }

variable (h : Hub)

theorem dTok_refill (n : Nat) (hn : n < 16) : smGet 0 h.refill.sl.dTok n =
    if h.refilling.slReg 0x34014 % 2 ^ 20 = 0 then smGet 0 h.sl.dTok n
    else min (smGet 0 h.sl.dTok n + ((h.refilling.slReg 0x34014 % 2 ^ 20 * h.slPeriod : Nat) : Int))
      ((max 1024 (h.refilling.slReg 0x34018) : Nat) : Int) := by
  show smGet 0 (if h.refilling.slReg 0x34014 % 2 ^ 20 = 0 then h.sl.dTok else _) n = _
  split
  · rfl
  · exact gain_each h.sl.dTok id (fun _ _ e => e) _ _ n hn

theorem qTok_refill (n q : Nat) (hn : n < 16) (hq : q < 16) : smGet 0 h.refill.sl.qTok (n * 16 + q) =
    if h.refilling.slReg (0x34104 + 16 * q) % 2 ^ 20 = 0 then smGet 0 h.sl.qTok (n * 16 + q)
    else min (smGet 0 h.sl.qTok (n * 16 + q) + ((h.refilling.slReg (0x34104 + 16 * q) % 2 ^ 20 * h.slPeriod : Nat) : Int))
      ((max 1024 (h.refilling.slReg (0x34108 + 16 * q)) : Nat) : Int) := by
  have e : h.refill.sl.qTok = (List.range 16).foldl (fun m q => if h.refilling.slReg (0x34104 + 16 * q) % 2 ^ 20 = 0 then m
    else (List.range 16).foldl (fun m n => gain m (n * 16 + q) (h.refilling.slReg (0x34104 + 16 * q) % 2 ^ 20 * h.slPeriod)
      (max 1024 (h.refilling.slReg (0x34108 + 16 * q)))) m) h.sl.qTok := rfl
  rw [e]
  exact gain_queues h.sl.qTok (fun q => h.refilling.slReg (0x34104 + 16 * q) % 2 ^ 20)
    (fun q => max 1024 (h.refilling.slReg (0x34108 + 16 * q))) h.slPeriod n q hn hq

theorem hTok_refill (p : Nat) (hp : p < 16) : smGet 0 h.refill.sl.hTok p =
    if h.refilling.slReg (0x34304 + 16 * p) % 2 ^ 20 = 0 then smGet 0 h.sl.hTok p
    else min (smGet 0 h.sl.hTok p + ((h.refilling.slReg (0x34304 + 16 * p) % 2 ^ 20 * h.slPeriod : Nat) : Int))
      ((max 256 (h.refilling.slReg (0x34308 + 16 * p)) : Nat) : Int) :=
  gain_rated h.sl.hTok (fun p => h.refilling.slReg (0x34304 + 16 * p) % 2 ^ 20)
    (fun p => max 256 (h.refilling.slReg (0x34308 + 16 * p))) h.slPeriod 16 p hp

theorem pol_refill (k : Nat) (hk : k < 64) : smGet 0 h.refill.sl.pol k =
    min (smGet 0 h.sl.pol k + h.refilling.slReg (0x34504 + 16 * k) * h.slPeriod)
      (max 1 (h.refilling.slReg (0x34508 + 16 * k) % 2 ^ 16) * 1000000) := by
  have e : h.refill.sl.pol = (List.range 64).foldl (fun m k => smSet 0 m k
    (min (smGet 0 m k + h.refilling.slReg (0x34504 + 16 * k) * h.slPeriod)
      (max 1 (h.refilling.slReg (0x34508 + 16 * k) % 2 ^ 16) * 1000000))) h.sl.pol := by
    unfold refill refilling
    dsimp only
  rw [e]
  exact police_each h.sl.pol (fun k => h.refilling.slReg (0x34504 + 16 * k))
    (fun k => max 1 (h.refilling.slReg (0x34508 + 16 * k) % 2 ^ 16) * 1000000) h.slPeriod k hk

end Hub

/-! ### The scheduler (R356, R357) -/

namespace Hub

section
variable (h : Hub) (P : DrrPath) (fuel q : Nat)

theorem drr_serves (hs : smGet 0 h.sl.serv P.key = q + 1) (he : P.elig h q = true) (hl : P.len h q ≤ h.defOf P q) :
    h.drr P (fuel + 1) = h.served P q := by
  rw [drr, hs]
  exact if_pos (by rw [he, decide_eq_true hl]; rfl)

theorem drr_visits (hs : smGet 0 h.sl.serv P.key = 0)
    (hf : ((List.range P.n).map (fun k => (smGet 0 h.sl.ptr P.key + k) % P.n)).find? (fun q => P.elig h q) = some q) :
    h.drr P (fuel + 1) = ((h.setDef P q (h.defOf P q + P.quant h q)).setPtr P q (q + 1)).drr P fuel := by
  rw [drr, hs]
  dsimp only
  rw [hf]

theorem drr_rests (hs : smGet 0 h.sl.serv P.key = 0) (he : ∀ q, q < P.n → P.elig h q = false) : h.drr P (fuel + 1) = h := by
  have none_ : ((List.range P.n).map (fun k => (smGet 0 h.sl.ptr P.key + k) % P.n)).find? (fun q => P.elig h q) = none := by
    refine List.find?_eq_none.2 fun q hq => ?_
    obtain ⟨k, hk, e⟩ := List.mem_map.1 hq
    rw [← e, he _ (Nat.mod_lt _ (Nat.zero_lt_of_lt (List.mem_range.1 hk)))]
    decide
  rw [drr, hs]
  dsimp only
  rw [none_]

theorem serv_setPtr (ptr serv : Nat) : smGet 0 (h.setPtr P ptr serv).sl.serv P.key = serv := smGet_smSet_same 0 _ _ _

end

end Hub

/-- The most items that a scheduler looks at for one to send. -/
def visitsOf (path : SlPath) : Nat :=
  match path with
  | .molair _ => 36
  | .host => 36
  | _ => 16

theorem visitsOf_two (path : SlPath) : ∃ k, visitsOf path = k + 2 := by
  cases path <;> exact ⟨_, rfl⟩

/-- DRR_SEND runs the scheduler of its path. -/
theorem drrSend_runs (tm : Nt) (path : SlPath) (s : State) (P : DrrPath) (hp : (s.hub.stamp tm).pathOf path = some P) (u : Hub)
    (hu : (s.hub.stamp tm).drr P (visitsOf path) = u) : Ends (.drrSend tm path) s u := by
  show execDrrSend tm path s = _
  unfold execDrrSend
  refine onHub_ends rfl ?_
  subst hu
  cases path with
  | molair n => cases hp; rfl
  | grnWrite => cases hp; rfl
  | host => cases hp; rfl
  | grnRead =>
    unfold pathOf at hp
    dsimp only at hp ⊢
    split at hp
    · next he => cases hp; exact if_pos he
    · cases hp

/-- The conditions of a sample instant, as the hub tests them. -/
theorem sampling_iff (on : Bool) (a b : Nt) (later : Prop) [Decidable later] (k per : Nat) :
    (on && a == b && decide later && k % per == 0) = true ↔ on = true ∧ a = b ∧ later ∧ k % per = 0 := by
  simp [and_assoc]

/-- Settles O56: the buckets one by one, the scheduler by what it finds in service, and the instants by their times. -/
theorem sluiceInstants : Obligations.SluiceInstants := by
  intro tm s h f per refills every samples most
  refine ⟨fun hr => ?refill, fun hr hb => ?buckets, fun hr => ?later, fun path P hp => ⟨?runs, fun q hs he hl => ?serves,
    fun q hs hf he hl => ?visits, fun hs he => ?rests⟩, fun x l hx => ?weights, fun hs => ?samples, fun hs => ?between⟩
  case refill =>
    show execRefillInstant tm s = _
    exact onHub_ends rfl (if_pos hr)
  case buckets =>
    have e : exec (.refillInstant tm) s = _ := onHub_ends rfl (if_pos hr)
    refine ⟨_, e, ?_⟩
    dsimp only
    rw [show (finish s.hub (s.hub.stamp tm).refill).sl = h.refill.sl from sl_finish_good _ _ hb]
    exact ⟨hr.1, dTok_refill h, fun n q hn hq => qTok_refill h n q hn hq, hTok_refill h, pol_refill h, rfl, rfl, rfl, rfl⟩
  case later =>
    show execRefillInstant tm s = _
    exact onHub_ends rfl (if_neg hr)
  case runs => exact drrSend_runs tm path s P hp _ rfl
  case serves =>
    obtain ⟨k, hk⟩ := visitsOf_two path
    exact drrSend_runs tm path s P hp _ (hk ▸ drr_serves h P (k + 1) q hs he hl)
  case visits =>
    obtain ⟨k, hk⟩ := visitsOf_two path
    refine drrSend_runs tm path s P hp _ ?_
    rw [hk]
    exact (drr_visits h P (k + 1) q hs hf).trans (drr_serves _ P k q (serv_setPtr _ _ _ _) he hl)
  case rests =>
    obtain ⟨k, hk⟩ := visitsOf_two path
    exact drrSend_runs tm path s P hp _ (hk ▸ drr_rests h P (k + 1) hs he)
  case weights =>
    show execDrrSend tm .grnRead s = _
    refine onHub_ends rfl ?_
    dsimp only
    rw [if_neg (by rw [show smGet [] h.sl.grn 12 = x :: l from hx]; exact Bool.false_ne_true)]
    unfold grnSend
    rw [show smGet [] h.sl.grn 12 = x :: l from hx]
    rfl
  case samples =>
    obtain ⟨on, now, later, due⟩ := hs
    show execSampleInstant tm s = _
    exact onHub_ends rfl (if_pos ((sampling_iff _ _ _ _ _ _).2 ⟨on, now, later, due⟩))
  case between =>
    show execSampleInstant tm s = _
    exact onHub_ends rfl (if_neg fun hc => hs ((sampling_iff _ _ _ _ _ _).1 hc))

end Sys2Proof.Machine
end

section
/-! Injection and its gate (O41, O42). -/

namespace Sys2Proof.Machine

open Hub

/-! ### A command that may take the module's power -/

theorem onModule_next {tm : Nt} {f : Hub → Hub} {s : State} {u : Hub} (hf : f (s.hub.stamp tm) = u) :
    onModule tm f s = .next { s with hub := Hub.finish s.hub u, stn := if (Hub.finish s.hub u).pw.off then {} else s.stn } := by
  subst hf; rfl

/-- A line of such a command, taken from its window. -/
theorem onModule_line {tm : Nt} {w op : BitVec 8} {l : CmdLine} {f : Sub → Hub → Hub} {s : State} {u : Hub}
    (ha : (s.hub.stamp tm).admits w op l = true) (hf : f ((s.hub.stamp tm).subOf w op l) ((s.hub.stamp tm).counted w op) = u) :
    onModule tm (fun h => h.line w op l f) s =
      .next { s with hub := Hub.finish s.hub u, stn := if (Hub.finish s.hub u).pw.off then {} else s.stn } :=
  onModule_next ((line_admitted _ _ _ _ _ ha).trans hf)

/-! ### Points (R391, R393) -/

namespace Hub

/-- The point that a line of INJECT describes (R391). -/
def pointOf (l : CmdLine) : Inj :=
  { point := BitVec.ofNat 8 (l.opd 32 1), mode := BitVec.ofNat 8 (l.opd 33 1), count := l.opd 34 2, a := BitVec.ofNat 32 (l.opd 36 4),
    b := BitVec.ofNat 64 (l.opd 40 8), nt := BitVec.ofNat 64 (l.opd 48 8) }

section
variable (h : Hub) (c : Sub)

theorem inject_refused (hr : h.on F.INTCTL_inject_en = false ∨ 16 ≤ h.inj.length) : h.arm c = h.complete c St.badState := by
  unfold arm
  dsimp only
  refine if_pos ?_
  rcases hr with hr | hr <;> simp [hr]

variable (he : h.on F.INTCTL_inject_en = true) (hl : h.inj.length < 16)
include he hl

/-- What INJECT does where injection is on and a place is free. -/
theorem inject_taken : h.arm c =
    if atOnce.contains (pointOf c.line).point.toNat && ((pointOf c.line).mode != 2 || decide ((pointOf c.line).nt ≤ (h.complete c St.ok).nt))
    then (h.complete c St.ok).fireNow (pointOf c.line)
    else { h.complete c St.ok with inj := (h.complete c St.ok).inj ++ [pointOf c.line] } := by
  unfold arm
  dsimp only
  rw [he, if_neg (by simpa using hl)]
  rfl

theorem inject_waits (hp : (pointOf c.line).point.toNat ∉ atOnce) :
    h.arm c = { h.complete c St.ok with inj := (h.complete c St.ok).inj ++ [pointOf c.line] } := by
  refine (inject_taken h c he hl).trans (if_neg fun fires => hp ?_)
  exact List.contains_iff_mem.1 (Bool.and_eq_true_iff.1 fires).1

theorem inject_fires (hp : (pointOf c.line).point.toNat ∈ atOnce) (hm : (pointOf c.line).mode ≠ 2) :
    h.arm c = (h.complete c St.ok).fireNow (pointOf c.line) := by
  refine (inject_taken h c he hl).trans (if_pos ?_)
  rw [List.contains_iff_mem.2 hp, bne_iff_ne.2 hm]
  rfl

end

/-- The one point that is armed fires when its time has come. -/
theorem armedDue_one (h : Hub) (y : Inj) (hy : h.inj = [y]) (hp : y.point.toNat ∈ atOnce) (ht : y.nt ≤ h.nt) :
    h.armedDue = ({ h with inj := [] } : Hub).fireNow y := by
  have due : (atOnce.contains y.point.toNat && decide (y.nt ≤ h.nt)) = true := by
    rw [List.contains_iff_mem.2 hp, decide_eq_true ht]
    rfl
  unfold armedDue
  dsimp only
  rw [hy, List.filter_cons, List.filter_cons, due]
  rfl

end Hub

/-- Settles O41: what INJECT makes of its point, the point whose time comes, and the conditions that end. -/
theorem injection : Obligations.Injection := by
  intro tm w l s h k g x armed runs
  refine ⟨fun ha he hl hp => ?waits, fun ha he hl hp hm => ?fires, fun ha hr => ?refused, fun ha => ?cancel, fun y hy hp ht => ?due,
    fun ht => ?mute, fun e he ht => ?brake⟩
  case waits => exact onModule_line (f := fun c h => h.arm c) ha (inject_waits _ _ he hl hp)
  case fires => exact onModule_line (f := fun c h => h.arm c) ha (inject_fires _ _ he hl hp hm)
  case refused => exact onModule_line (f := fun c h => h.arm c) ha (inject_refused _ _ hr)
  case cancel => exact onLine_ends ha rfl
  case due => exact onModule_next (f := fun h => h.armedDue) (armedDue_one h y hy hp ht)
  case mute => exact onHub_ends (f := fun h => h.durationEnd 0x2A) rfl (if_pos ht)
  case brake =>
    refine onHub_ends (f := fun h => h.durationEnd 0x21) rfl (if_pos ?_)
    rw [show (s.hub.stamp tm).pw.brkInj = some e from he]
    exact decide_eq_true ht

/-! ### The gate (R393) -/

namespace Hub

theorem regRow_intctl : regRow F.INTCTL_inject_en.a =
    some ⟨F.INTCTL_inject_en.a, 0, 1, false, [⟨0, 0, .rwl, 0⟩, ⟨1, 1, .rwl, 1⟩, ⟨2, 2, .rwl, 1⟩]⟩ := by decide +kernel

/-- The register after INTCTL is INTSTAT, whose store starts nothing. -/
theorem regRow_after_intctl : ((regRow (F.INTCTL_inject_en.a + 4)).map (fun r => plainReg (F.INTCTL_inject_en.a + 4) r)) = some true := by
  decide +kernel

variable (h : Hub)

theorem frozen_inject_en (v : W64) (f : FieldRow) (hf : f.lo = 0) :
    h.frozen F.INTCTL_inject_en.a f v = (v.getLsbD 0 && h.profS && !h.on F.NFSTAT_test) := by
  show (if _ ∧ f.lo = 0 then _ else _) = _
  rw [if_pos ⟨rfl, hf⟩]

theorem locked_intctl : h.locked F.INTCTL_inject_en.a = h.on F.HCTL_lock := rfl

/-- A field keeps a bit that is none of its own. -/
theorem getLsbD_fieldWrite_rwl_outside (a i : Nat) (v m x : W64) (f : FieldRow) (hf : f.acc = .rwl) (hi : (fieldMask f).getLsbD i = false) :
    (h.fieldWrite a v m false x f).getLsbD i = x.getLsbD i := by
  rw [fieldWrite_rwl h a v m x f hf]
  split
  · rfl
  · rw [getLsbD_taken, BitVec.getLsbD_and, hi]
    rfl

/-- The bit inject_en after a store of a word to INTCTL. -/
theorem inject_en_store32 (n : Nat) : (h.store32 F.INTCTL_inject_en.a n).on F.INTCTL_inject_en =
    if h.on F.HCTL_lock || (n.testBit 0 && h.profS && !h.on F.NFSTAT_test) then h.on F.INTCTL_inject_en else n.testBit 0 := by
  have bit : (BitVec.ofNat 64 n).getLsbD 0 = n.testBit 0 := BitVec.getLsbD_ofNat 64 n 0
  rw [store32_row h _ _ _ regRow_intctl, regStore_outside _ _ _ _ _ rfl (.inr (by decide))]
  show ((h.setReg F.INTCTL_inject_en.a _).on F.INTCTL_inject_en) = _
  rw [on_eq_getLsbD _ _ rfl, on_eq_getLsbD h F.INTCTL_inject_en rfl, reg_setReg_same]
  dsimp only
  rw [List.foldl_cons, List.foldl_cons, List.foldl_cons, List.foldl_nil, getLsbD_fieldWrite_rwl_outside _ _ _ _ _ _ _ rfl (by decide),
    getLsbD_fieldWrite_rwl_outside _ _ _ _ _ _ _ rfl (by decide), fieldWrite_rwl _ _ _ _ _ _ rfl, locked_intctl,
    frozen_inject_en _ _ _ rfl, bit]
  split
  · rfl
  · rw [getLsbD_taken]
    exact bit

/-- A store of the word after INTCTL leaves inject_en. -/
theorem inject_en_store32_after (n : Nat) : (h.store32 (F.INTCTL_inject_en.a + 4) n).on F.INTCTL_inject_en = h.on F.INTCTL_inject_en := by
  obtain ⟨r, hr, hp⟩ := Option.map_eq_some_iff.1 regRow_after_intctl
  rw [store32_row h _ _ r hr, regStore_plain h hp, on_eq_getLsbD _ _ rfl, on_eq_getLsbD h _ rfl, reg_setReg_ne _ _ _ _ (by decide)]

/-- inject_en after a store of four or of eight bytes to INTCTL. -/
theorem inject_en_store (x : W64) (wide : Bool) (hr : h.reached F.INTCTL_inject_en.a = true) :
    (h.store F.INTCTL_inject_en.a x.toNat wide).on F.INTCTL_inject_en =
      if h.on F.HCTL_lock || (x.getLsbD 0 && h.profS && !h.on F.NFSTAT_test) then h.on F.INTCTL_inject_en else x.getLsbD 0 := by
  have low : (x.toNat % 2 ^ 32).testBit 0 = x.getLsbD 0 := by
    rw [Nat.testBit_mod_two_pow]
    rfl
  cases wide
  · rw [store_word h _ _ hr (by decide) (.inr (by decide)), inject_en_store32, low]
  · rw [store_wide h _ _ hr (by decide) (.inr (by decide)), store64_words h _ _ (by rw [regRow_intctl]; rfl), inject_en_store32_after,
      inject_en_store32, low]

end Hub

/-- inject_en after a write of INTCTL by the host. -/
theorem registerWrite_inject_en {tm : Nt} {s : State} {x : W64} {wide b : Bool}
    (hb : ((s.hub.stamp tm).store F.INTCTL_inject_en.a x.toNat wide).on F.INTCTL_inject_en = b) :
    Answers (.registerWrite tm (BitVec.ofNat 20 F.INTCTL_inject_en.a) x wide) s (fun t => t.hub.on F.INTCTL_inject_en = b) := by
  have e := toNat_addr F.INTCTL_inject_en.a (by decide)
  refine (ends_registerWrite (by rw [e]; decide) (by rw [e])).answers ?_
  exact (on_finish _ _ _ (by decide)).trans hb

/-- Settles O42: the refusal, and the bit after a store where it is frozen and where nothing keeps it. -/
theorem injectionGate : Obligations.InjectionGate := by
  intro tm s h
  refine ⟨fun w l ha hoff => ?gate, fun x wide hr hs ht hx => ?ignored, fun x wide hr hs hl => ?stored⟩
  case gate =>
    exact onModule_line (f := fun c h => h.arm c) ha (inject_refused _ _ (.inl ((on_counted h ha F.INTCTL_inject_en (by decide)).trans hoff)))
  case ignored =>
    refine registerWrite_inject_en ((inject_en_store h x wide hr).trans (if_pos ?_))
    rw [hx, hs, ht]
    simp
  case stored =>
    refine registerWrite_inject_en ((inject_en_store h x wide hr).trans (if_neg ?_))
    rw [hl]
    rcases hs with hs | hs <;> rw [hs] <;> simp

end Sys2Proof.Machine
end

section
/-! Scrubs and repairs (O43). -/

namespace Sys2Proof.Machine

open Hub

namespace Hub

/-! ### No armed point is added by a report (R391) -/

section
variable (h : Hub)

theorem inj_flag (f : Fld) (v : BitVec 6) : (h.flag f v).inj = h.inj := by
  have := congrArg Hub.inj (calm_flag h f v)
  exact this

theorem inj_setRing (st : Bool) (p : Nat) (x : Ring) : (h.setRing st p x).inj = h.inj := by
  unfold setRing
  split <;> rfl

theorem inj_ringLimit (st : Bool) (p : Nat) : (h.ringLimit st p).inj = h.inj := by
  unfold ringLimit
  dsimp only
  split
  · rfl
  · split <;> rfl

theorem inj_pads (base phase pos n fuel : Nat) : (h.pads base phase pos n fuel).inj = h.inj := by
  induction fuel generalizing h pos n with
  | zero => rfl
  | succ k ih =>
    unfold pads
    split
    · rfl
    · rw [ih]
      rfl

theorem inj_hostPaid (p n : Nat) : (h.hostPaid p n).inj = h.inj := by
  unfold hostPaid
  split <;> rfl

theorem inj_ringWrite (st : Bool) (p : Nat) (r : Rcd) (b : Bytes) (n : Nat) : (h.ringWrite st p r b n).inj = h.inj := by
  have written (w : WrWait) (f : Fld) (x y m base phase pos : Nat) :
      (((((h.pads base phase pos n n).hostWrite w).pi f x y).hostPaid p m)).inj = h.inj := by
    rw [inj_hostPaid]
    exact inj_pads h base phase pos n n
  unfold ringWrite
  dsimp only
  split
  · split
    · exact written _ _ _ _ _ _ _ _
    · exact written _ _ _ _ _ _ _ _
  · exact written _ _ _ _ _ _ _ _

theorem inj_envelope (r : Rcd) (b : Bytes) (g : Hub) (e : h.envelope r = some (b, g)) : g.inj = h.inj := by
  unfold envelope at e
  split at e
  · cases e; rfl
  · split at e
    · cases e
    · cases e; rfl

variable (hi : h.inj = [])
include hi

theorem inj_drainOne (st : Bool) (p : Nat) : (h.drainOne st p).2.inj = [] := by
  unfold drainOne
  dsimp only
  split
  · exact hi
  · split
    · exact hi
    · split
      · split
        · exact hi
        · next e =>
          have hi' := (inj_envelope h _ _ _ e).trans hi
          rw [recCheck_plain _ st p hi', if_pos rfl]
          exact (inj_ringWrite _ _ _ _ _ _).trans ((inj_setRing _ _ _ _).trans hi')
      · split
        · exact hi
        · exact (inj_setRing _ _ _ _).trans hi

theorem inj_drain (st : Bool) (p fuel : Nat) : (h.drain st p fuel).inj = [] := by
  induction fuel generalizing h with
  | zero => exact hi
  | succ k ih =>
    unfold drain
    dsimp only
    split
    · exact ih _ (inj_drainOne h hi st p)
    · exact inj_drainOne h hi st p

theorem inj_pushRec (st : Bool) (p : Nat) (r : Rcd) : (h.pushRec st p r).inj = [] := by
  unfold pushRec
  dsimp only
  rw [inj_ringLimit]
  exact inj_drain _ ((inj_setRing _ _ _ _).trans hi) _ _ _

theorem inj_complete (c : Sub) (st : BitVec 8) (d : Nat) (n : W64) : (h.complete c st d n).inj = [] := by
  unfold complete
  split
  · exact hi
  · exact inj_pushRec h hi _ _ _

theorem inj_completeQ (c : Sub) (st : BitVec 8) (d : Nat) (n : W64) : (h.completeQ c st d n).inj = [] := by
  unfold completeQ
  split
  · exact hi
  · exact inj_complete h hi _ _ _ _

end

/-! ### Hubs that differ in one session and in reports -/

/-- Beside session `i` and reports `g` is as `h`, for what the checks of the other sessions use. -/
structure Beside (i : Handle) (g h : Hub) : Prop where
  others : ∀ j, j ≠ i → g.s j = h.s j
  regs : ∀ a, a ∉ reportRegs → a ≠ F.DGJPOS_position.a → g.reg a = h.reg a
  roots : g.kv.roots = h.kv.roots
  inj : h.inj = [] → g.inj = []

namespace Beside

variable {i : Handle} {g h k : Hub}

theorem refl (i : Handle) (h : Hub) : Beside i h h := ⟨fun _ _ => rfl, fun _ _ _ => rfl, rfl, id⟩

theorem trans (a : Beside i g h) (b : Beside i h k) : Beside i g k :=
  ⟨fun j hj => (a.others j hj).trans (b.others j hj), fun x hx hn => (a.regs x hx hn).trans (b.regs x hx hn), a.roots.trans b.roots,
    fun hi => a.inj (b.inj hi)⟩

/-- A report stays beside every session. -/
theorem report (e : g.still = h.still) (hr : ∀ a, a ∉ reportRegs → g.reg a = h.reg a) (hi : h.inj = [] → g.inj = []) : Beside i g h :=
  ⟨fun j _ => s_of_still e j, fun a ha _ => hr a ha, congrArg Kv.roots (kv_of_still e), hi⟩

theorem modS (i : Handle) (h : Hub) (f : Sess → Sess) : Beside i (h.modS i f) h :=
  ⟨fun j hj => s_modS_ne h i j f hj, fun _ _ _ => rfl, rfl, id⟩

theorem pushRec (i : Handle) (h : Hub) (st : Bool) (p : Nat) (hp : p < 16) (r : Rcd) : Beside i (h.pushRec st p r) h :=
  report (still_pushRec h st p r) (fun _ ha => reg_pushRec h st p r hp ha) fun hi => inj_pushRec h hi st p r

theorem flag (i : Handle) (h : Hub) (f : Fld) (v : BitVec 6) (hf : f.a ∈ reportRegs) : Beside i (h.flag f v) h :=
  report (still_flag h f v) (fun _ ha => reg_flag h f v ha fun e => ha (e ▸ hf)) fun hi => (inj_flag h f v).trans hi

theorem completeQ (i : Handle) (h : Hub) (c : Sub) (st : BitVec 8) (d : Nat) (n : W64) : Beside i (h.completeQ c st d n) h := by
  refine ⟨fun j _ => s_completeQ h c st d n j, fun a ha _ => reg_completeQ h c st d n ha, ?_, fun hi => inj_completeQ h hi c st d n⟩
  unfold Hub.completeQ
  split
  · rfl
  · exact congrArg Kv.roots (kv_of_still (still_complete h c st d n))

theorem trans_ (i : Handle) (h : Hub) (dst : BitVec 4) (st : BitVec 8) (code data : Nat) : Beside i (h.trans i dst st code data) h := by
  have entered : Beside i ((h.modR i (fun r => { r with prior := (h.s i).r.state, state := dst, lastStatus := st,
                                                         hstatus := if dst == S.halted then st else r.hstatus })).jent i code dst
      (h.s i).r.state data) h := by
    refine ⟨fun j hj => ?_, fun a _ hn => ?_, rfl, id⟩
    · rw [s_jent_ne _ i j _ _ _ _ hj, s_modR_ne h i j _ hj]
    · rw [reg_jent _ i _ _ _ _ hn, reg_modR]
  unfold Hub.trans
  dsimp only
  split
  · exact (pushRec i _ _ _ (BitVec.isLt _) _).trans entered
  · exact entered

theorem failSubs (i : Handle) (h : Hub) (st : BitVec 8) : Beside i (h.failSubs i st) h := by
  have completed (l : List Sub) (n : W64) (g : Hub) : Beside i (l.foldl (fun h c => h.completeQ c st 0 n) g) g := by
    induction l generalizing g with
    | nil => exact refl i g
    | cons c l ih => exact (ih _).trans (completeQ i g c st 0 n)
  unfold Hub.failSubs
  exact (modS i _ _).trans (completed _ _ h)

/-- A session's fault stays beside the others. -/
theorem faultSess (i : Handle) (h : Hub) (data : Nat) : Beside i (h.faultSess i St.recordFault data) h := by
  unfold Hub.faultSess
  dsimp only
  split
  · exact refl i h
  · rw [if_neg (by decide), if_pos (by decide)]
    have flagged := (flag i (h.trans i S.faulted St.recordFault 0x0062 data) F.INTSTAT_pw_fault 32 (by decide)).trans (trans_ i h _ _ _ _)
    generalize (h.trans i S.faulted St.recordFault 0x0062 data).flag F.INTSTAT_pw_fault 32 = g at flagged
    have unreadied : Beside i (g.unready i) g := ⟨fun j hj => s_unready_ne g i j hj, fun _ _ _ => rfl, rfl, id⟩
    have released (u : Hub) (r : BitVec 32) : Beside i (u.unreserve r) u := ⟨fun _ _ => rfl, fun _ _ _ => rfl, rfl, id⟩
    have ended (r : BitVec 32) (f : Sess → Sess) : Beside i ((((g.unready i).failSubs i St.recordFault).unreserve r).modS i f) h :=
      (modS i _ _).trans ((released _ _).trans ((failSubs i _ St.recordFault).trans (unreadied.trans flagged)))
    split
    · exact ended _ _
    · exact (pushRec i _ _ _ (BitVec.isLt _) _).trans (ended _ _)

variable (b : Beside i g h)
include b

theorem shards : g.shards = h.shards := by
  have field (f : Fld) (ha : f.a ∉ reportRegs) (hn : f.a ≠ F.DGJPOS_position.a) : g.g f = h.g f := g_of_reg f (b.regs _ ha hn)
  unfold Hub.shards groupN position on
  rw [field F.POOLROLE_size (by decide) (by decide), field F.POOLROLE_position (by decide) (by decide),
    field F.NFSTAT_test (by decide) (by decide), field F.CKPTSTAT_buddy_mode (by decide) (by decide)]

theorem rootsOk (r : Rec) : g.rootsOk r = h.rootsOk r := by
  unfold Hub.rootsOk root? rootIx position
  rw [b.shards, b.roots, g_of_reg F.POOLROLE_position (b.regs _ (by decide) (by decide))]

end Beside

/-! ### A session whose record fails its check (R35) -/

/-- What the fault of a record leaves in its session: it waits for nothing, and nothing goes on (R37). -/
structure RecordFaulted (x y : Sess) : Prop where
  state : y.r.state = S.faulted
  prior : y.r.prior = x.r.state
  status : y.r.lastStatus = St.recordFault
  runnable : y.runnable = false
  blk : y.blk = none
  actions : y.actions = x.actions
  relHeld : y.relHeld = x.relHeld
  dropHeld : y.dropHeld = x.dropHeld

section
variable (h : Hub) (i : Handle)

theorem s_failSubs (st : BitVec 8) : (h.failSubs i st).s i = { h.s i with parkSubs := [], revSubs := [], park := none, revive := none } := by
  have completed (l : List Sub) (n : W64) (g : Hub) : (l.foldl (fun h c => h.completeQ c st 0 n) g).s i = g.s i := by
    induction l generalizing g with
    | nil => rfl
    | cons c l ih => rw [List.foldl_cons, ih, s_completeQ]
  unfold failSubs
  dsimp only
  rw [s_modS_same, completed]

theorem s_unreserve (r : BitVec 32) : (h.unreserve r).s i = h.s i := rfl

theorem faultSess_faults (data : Nat) (h1 : (h.s i).r.state ≠ S.free) (h2 : (h.s i).r.state ≠ S.faulted) :
    RecordFaulted (h.s i) ((h.faultSess i St.recordFault data).s i) := by
  unfold faultSess
  dsimp only
  rw [if_neg (by simp [h1, h2]), if_neg (by decide), if_pos (by decide)]
  split
  · rw [s_modS_same, s_unreserve, s_failSubs, s_unready_same, s_flag, s_trans_same]
    constructor <;> rfl
  · rw [s_of_sess (sess_migRecord _ _ _ _ _ _), s_modS_same, s_unreserve, s_failSubs, s_unready_same, s_flag, s_trans_same]
    constructor <;> rfl

theorem faultSess_again (st : BitVec 8) (data : Nat) (hs : (h.s i).r.state = S.faulted) : h.faultSess i st data = h := by
  unfold faultSess
  dsimp only
  rw [hs]
  exact if_pos (by decide)

/-- A live session that holds nothing and runs nothing has nothing to settle. -/
theorem settled_rests (h1 : (h.s i).actions = []) (h2 : (h.s i).relHeld = none) (h3 : (h.s i).dropHeld = false)
    (hs : (h.s i).r.state = S.faulted) (hb : (h.s i).blk = none) : h.settled i = h := by
  have stays : h.unhold i = h := by
    unfold unhold
    rw [hb]
  unfold settled settle
  dsimp only
  rw [h1, h2, hs, h3, stays, if_neg (by decide)]
  dsimp only
  rw [renewed_none _ i (by split <;> simp [h1])]
  simp

end

/-! ### The passes over the sessions (R375) -/

/-- A session that holds no action, RELEASE or DROP. -/
def quiet (x : Sess) : Prop := x.actions = [] ∧ x.relHeld = none ∧ x.dropHeld = false

/-- Hub `g` after the pass has found the record of session `i` invalid. -/
structure PassFaulted (i : Handle) (g h : Hub) : Prop where
  beside : Beside i g h
  faulted : RecordFaulted (h.s i) (g.s i)

section
variable {h g : Hub} {i : Handle}

/-- The fault that a pass finds first. -/
theorem passFaulted_of_fault (data : Nat) (hq : quiet (h.s i)) (h1 : (h.s i).r.state ≠ S.free) (h2 : (h.s i).r.state ≠ S.faulted) :
    PassFaulted i ((h.faultSess i St.recordFault data).settled i) h := by
  obtain ⟨ha, hr, hd⟩ := hq
  have f := faultSess_faults h i data h1 h2
  rw [settled_rests _ i (f.actions.trans ha) (f.relHeld.trans hr) (f.dropHeld.trans hd) f.state f.blk]
  exact ⟨Beside.faultSess i h data, f⟩

/-- The pass meets a session that it has faulted again. -/
theorem PassFaulted.again (e : PassFaulted i g h) (hq : quiet (h.s i)) (data : Nat) :
    (g.faultSess i St.recordFault data).settled i = g := by
  obtain ⟨ha, hr, hd⟩ := hq
  have f := e.faulted
  rw [faultSess_again g i _ data f.state,
    settled_rests g i (f.actions.trans ha) (f.relHeld.trans hr) (f.dropHeld.trans hd) f.state f.blk]

/-- A use of a record where no point is armed. -/
theorem useRec_calm (hi : h.inj = []) (i : Handle) :
    h.useRec i = match badPair (h.s i).r with
      | some o => (h.faultSess i St.recordFault o).settled i
      | none => if h.rootsOk (h.s i).r then h else (h.faultSess i St.recordFault 0x30).settled i := by
  unfold useRec hitPair
  rw [fireInj_none _ hi]
  rfl

/-- A pass that faults one session and leaves the others: once it has met the session the session is faulted, and no other has changed. -/
theorem pass_faults (step : Hub → Handle → Hub) (first : PassFaulted i (step h i) h)
    (again : ∀ g, PassFaulted i g h → step g i = g) (before : ∀ j, j ≠ i → step h j = h)
    (after : ∀ g, PassFaulted i g h → ∀ j, j ≠ i → step g j = g) (l : List Handle) (hl : i ∈ l) : PassFaulted i (l.foldl step h) h := by
  have stays (g : Hub) (e : PassFaulted i g h) (l : List Handle) : l.foldl step g = g := by
    induction l with
    | nil => rfl
    | cons j l ih =>
      rw [List.foldl_cons]
      by_cases hj : j = i
      · rw [hj, again g e, ih]
      · rw [after g e j hj, ih]
  induction l with
  | nil => cases hl
  | cons j l ih =>
    rw [List.foldl_cons]
    by_cases hj : j = i
    · rw [hj, stays _ first]
      exact first
    · rw [before j hj]
      exact ih ((List.mem_cons.1 hl).resolve_left (Ne.symm hj))

theorem foldl_stays {α : Type} (step : Hub → α → Hub) (l : List α) (hl : ∀ j ∈ l, step h j = h) : l.foldl step h = h := by
  induction l with
  | nil => rfl
  | cons j l ih =>
    rw [List.foldl_cons, hl j List.mem_cons_self, ih fun k hk => hl k (List.mem_cons_of_mem j hk)]

theorem recPass_calm (hi : h.inj = []) (ok : ∀ i, (h.s i).r.state ≠ S.free → badPair (h.s i).r = none ∧ h.rootsOk (h.s i).r = true) :
    h.recPass = h := by
  refine foldl_stays _ _ fun i _ => ?_
  split
  · rfl
  · next hs =>
    obtain ⟨pair, roots⟩ := ok i (by simpa using hs)
    exact useRec_plain h i hi pair roots

theorem rootPass_calm (ok : ∀ i, (h.s i).r.state ≠ S.free → h.rootsOk (h.s i).r = true) : h.rootPass = h := by
  refine foldl_stays _ _ fun i _ => if_pos ?_
  by_cases hs : (h.s i).r.state = S.free
  · rw [hs]; rfl
  · rw [ok i hs, Bool.or_true]

section
variable (hm : i ∈ h.handles) (h1 : (h.s i).r.state ≠ S.free) (h2 : (h.s i).r.state ≠ S.faulted) (hq : quiet (h.s i)) (hi : h.inj = [])
  (ok : ∀ j, j ≠ i → (h.s j).r.state ≠ S.free → badPair (h.s j).r = none ∧ h.rootsOk (h.s j).r = true)
include hm h1 h2 hq

include hi ok in
theorem recPass_faults (bad : badPair (h.s i).r ≠ none ∨ h.rootsOk (h.s i).r = false) : PassFaulted i h.recPass h := by
  refine pass_faults _ ?first (fun g e => ?again) (fun j hj => ?before) (fun g e j hj => ?after) _ hm
  case first =>
    rw [if_neg (by simpa using h1), useRec_calm hi i]
    split
    · exact passFaulted_of_fault _ hq h1 h2
    · next none_ =>
      rw [if_neg (by rw [bad.resolve_left (fun hb => hb none_)]; decide)]
      exact passFaulted_of_fault _ hq h1 h2
  case again =>
    rw [e.faulted.state, if_neg (by decide), useRec_calm (e.beside.inj hi) i]
    split
    · exact e.again hq _
    · split
      · rfl
      · exact e.again hq _
  case before =>
    split
    · rfl
    · next hs =>
      obtain ⟨pair, roots⟩ := ok j hj (by simpa using hs)
      exact useRec_plain h j hi pair roots
  case after =>
    have same := e.beside.others j hj
    rw [same]
    split
    · rfl
    · next hs =>
      obtain ⟨pair, roots⟩ := ok j hj (by simpa using hs)
      refine useRec_plain g j (e.beside.inj hi) ?_ ?_ <;> rw [same]
      · exact pair
      · exact (e.beside.rootsOk _).trans roots

include ok in
theorem rootPass_faults (bad : h.rootsOk (h.s i).r = false) : PassFaulted i h.rootPass h := by
  have passes (j : Handle) (hj : j ≠ i) : ((h.s j).r.state == S.free || h.rootsOk (h.s j).r) = true := by
    by_cases hs : (h.s j).r.state = S.free
    · rw [hs]; rfl
    · rw [(ok j hj hs).2, Bool.or_true]
  refine pass_faults _ ?first (fun g e => ?again) (fun j hj => if_pos (passes j hj)) (fun g e j hj => if_pos ?after) _ hm
  case first =>
    rw [if_neg (by rw [bad]; simpa using h1)]
    exact passFaulted_of_fault _ hq h1 h2
  case again =>
    split
    · rfl
    · exact e.again hq _
  case after =>
    rw [e.beside.others j hj, e.beside.rootsOk]
    exact passes j hj

end
end

/-! ### The pass over registers and remap tables (R375) -/

theorem pairOk_stored (x : Nat) : pairOk 16 (BitVec.ofNat 64 (pairOf 16 x)).toNat = true := by
  have small : x % 65536 < 65536 := Nat.mod_lt _ (by decide)
  have halves (y z : Nat) (hy : y < 65536) (hz : z < 65536) : (y + z * 65536) / 65536 % 65536 = z ∧ (y + z * 65536) / 1 % 65536 = y := by
    omega
  have e : pairOf 16 x = x % 65536 + (65535 - x % 65536) * 65536 := rfl
  obtain ⟨upper, lower⟩ := halves (x % 65536) (65535 - x % 65536) small (by omega)
  rw [BitVec.toNat_ofNat, Nat.mod_eq_of_lt (by omega), e]
  refine beq_iff_eq.2 (upper.trans ?_)
  exact congrArg (65535 - ·) lower.symm

/-- No register of a report lies in STONEMAP. -/
theorem reportRegs_outside_stonemap : ∀ r ∈ F.INTPWFIX_count.a :: reportRegs, r < F.STONEMAP_phys.a ∨ F.STONEMAP_phys.a + 4 * 2048 ≤ r := by
  decide +kernel

theorem hardened_small : ∀ r ∈ pwRegs ++ ((List.range 16).map (fun n => F.MOLREMAP_primary.a + F.MOLREMAP_primary.stride * n)
    ++ (List.range 8).map (fun k => F.INTHBMMAP_spare0.a + F.INTHBMMAP_spare0.stride * k)), r ∉ F.INTPWFIX_count.a :: reportRegs := by
  decide +kernel

/-- No paired register is one of a report. -/
theorem hardened_regs : ∀ r ∈ pwRegs ++ remapRegs, r ∉ reportRegs ∧ r ≠ F.INTPWFIX_count.a := by
  have outside (r : Nat) (h : r ∉ F.INTPWFIX_count.a :: reportRegs) : r ∉ reportRegs ∧ r ≠ F.INTPWFIX_count.a :=
    ⟨fun m => h (List.mem_cons_of_mem _ m), fun e => h (e ▸ List.mem_cons_self)⟩
  intro r hr
  unfold remapRegs at hr
  rw [← List.append_assoc] at hr
  rcases List.mem_append.1 hr with hr | hr
  · exact outside r (hardened_small r hr)
  · obtain ⟨l, hl, rfl⟩ := List.mem_map.1 hr
    refine outside _ fun m => ?_
    have far := reportRegs_outside_stonemap _ m
    have near := List.mem_range.1 hl
    omega

section
variable (h : Hub)

/-- The hub once register `a` is repaired and reported. -/
def repaired (a : Nat) : Hub := (h.setReg a (BitVec.ofNat 64 (pairOf 16 (bitsOf (h.reg a).toNat 15 0)))).pwFixed (a % 2 ^ 14) false

theorem pwFixed_keeps (off : Nat) (r : Nat) (hr : r ∉ reportRegs) (hc : r ≠ F.INTPWFIX_count.a) : (h.pwFixed off false).reg r = h.reg r := by
  unfold pwFixed
  rw [reg_flag _ _ _ hr fun e => hr (e ▸ by decide), reg_inc_ne _ _ _ hc, reg_devEv _ _ _ _ _ hr]

theorem pwCheck_good (a : Nat) (ok : pairOk 16 (h.reg a).toNat = true) : h.pwCheck a = h := if_pos ok

theorem pwCheck_bad (a : Nat) (bad : pairOk 16 (h.reg a).toNat = false) : h.pwCheck a = h.repaired a := if_neg (by rw [bad]; decide)

/-- Of a list of registers one is invalid: the pass repairs it, once. -/
theorem pwCheck_pass {a : Nat} {l : List Nat} (ha : a ∈ l) (plain : ∀ r ∈ l, r ∉ reportRegs ∧ r ≠ F.INTPWFIX_count.a)
    (bad : pairOk 16 (h.reg a).toNat = false) (ok : ∀ r ∈ l, r ≠ a → pairOk 16 (h.reg r).toNat = true) :
    l.foldl (fun h a => h.pwCheck a) h = h.repaired a := by
  obtain ⟨report, count⟩ := plain a ha
  have own : (h.repaired a).reg a = BitVec.ofNat 64 (pairOf 16 (bitsOf (h.reg a).toNat 15 0)) := by
    unfold repaired
    rw [pwFixed_keeps _ _ _ report count, reg_setReg_same]
  have stays (l : List Nat) (plain : ∀ r ∈ l, r ∉ reportRegs ∧ r ≠ F.INTPWFIX_count.a)
      (ok : ∀ r ∈ l, r ≠ a → pairOk 16 (h.reg r).toNat = true) : l.foldl (fun h a => h.pwCheck a) (h.repaired a) = h.repaired a := by
    refine foldl_stays _ l fun r hr => pwCheck_good _ r ?_
    by_cases e : r = a
    · rw [e, own]
      exact pairOk_stored _
    · obtain ⟨report, count⟩ := plain r hr
      unfold repaired
      rw [pwFixed_keeps _ _ _ report count, reg_setReg_ne _ _ _ _ e]
      exact ok r hr e
  induction l with
  | nil => cases ha
  | cons r l ih =>
    rw [List.forall_mem_cons] at plain ok
    rw [List.foldl_cons]
    by_cases e : r = a
    · rw [e, pwCheck_bad h a bad, stays l plain.2 ok.2]
    · rw [pwCheck_good h r (ok.1 e), ih ((List.mem_cons.1 ha).resolve_left (Ne.symm e)) plain.2 ok.2]

/-- The pass where no point is armed and the sequencers' map is valid: the registers one after the other. -/
theorem pwPass_regs (hi : h.inj = []) (g : Hub) (hg : (pwRegs ++ remapRegs).foldl (fun h a => h.pwCheck a) h = g)
    (map : ∀ q, q < 32 → pairOk 8 (g.seqMap.getD q 0).toNat = true) : h.pwPass = g := by
  unfold pwPass
  rw [fireAt_unarmed h hi]
  dsimp only
  rw [fireAt_unarmed h hi]
  dsimp only
  rw [hg]
  exact foldl_stays _ _ fun q hq => if_pos (map q (List.mem_range.1 hq))

theorem seqMap_repaired (a : Nat) : (h.repaired a).seqMap = h.seqMap :=
  seqMap_of_still (by unfold repaired pwFixed; rw [still_flag, still_inc, still_devEv, still_setReg])

theorem repaired_eq (a : Nat) : h.repaired a =
    ((((h.setReg a (BitVec.ofNat 64 (pairOf 16 (bitsOf (h.reg a).toNat 15 0)))).devEv 0x0501 4 (1 + a % 2 ^ 14 * 2 ^ 8)).inc
      F.INTPWFIX_count).flag F.INTSTAT_pw_fault 32) := by
  have short : a % 2 ^ 14 % 2 ^ 24 = a % 2 ^ 14 := Nat.mod_eq_of_lt (Nat.lt_trans (Nat.mod_lt a (by decide)) (by decide))
  unfold repaired pwFixed injBit
  rw [short, if_neg Bool.false_ne_true, Nat.add_zero]

end

/-! ### A channel that fails (R381) -/

section
variable (h : Hub) {k c : Nat}

theorem chanFail_stays (hn : 32 ≤ c ∨ h.on F.INTCTL_chan_spare_en = false ∨ (h.chCopy ++ h.chReady).any (fun x => x.1 == k && x.2.1 == c) = true) :
    h.chanFail k c = h := by
  unfold chanFail
  refine if_pos ?_
  rcases hn with hn | hn | hn <;> simp [hn]

variable (hk : k < 8) (hc : c < 32) (he : h.on F.INTCTL_chan_spare_en = true)
  (hn : (h.chCopy ++ h.chReady).any (fun x => x.1 == k && x.2.1 == c) = false)
include hk hc he hn

/-- The conditions under which a failed channel is not copied. -/
theorem chanFail_open : ¬ (8 ≤ k || 32 ≤ c || !h.on F.INTCTL_chan_spare_en || (h.chCopy ++ h.chReady).any (fun x => x.1 == k && x.2.1 == c)) = true := by
  rw [he, hn, decide_eq_false (by omega), decide_eq_false (by omega)]
  decide

theorem chanFail_copies {n : Nat} (hf : h.freeSpare k = some n) : h.chanFail k c = { h with chCopy := h.chCopy ++ [(k, c, n)] } := by
  unfold chanFail
  rw [if_neg (chanFail_open h hk hc he hn), hf]

theorem chanFail_noSpare (hf : h.freeSpare k = none) :
    h.chanFail k c = (h.devEv 0x0603 4 (k + c * 8)).flag F.INTSTAT_hbm_nospare 32 := by
  unfold chanFail injBit
  rw [if_neg (chanFail_open h hk hc he hn), hf, if_neg Bool.false_ne_true, Nat.add_zero]

end

end Hub

/-- A pass that faults a session's record answers so. -/
theorem PassFaulted.answers {c : Instr} {s : State} {i : Handle} {h u : Hub} (e : Ends c s u)
    (f : PassFaulted i u h) : Answers c s (fun t => (t.hub.s i).r.state = S.faulted ∧ (t.hub.s i).r.prior = (h.s i).r.state
      ∧ (t.hub.s i).r.lastStatus = St.recordFault ∧ (t.hub.s i).runnable = false ∧ (∀ j, j ≠ i → (t.hub.s j).kept = (h.s j).kept)
      ∧ HubOnly s t) := by
  refine e.answers ⟨?_, ?_, ?_, ?_, fun j hj => ?_, rfl, rfl⟩
  · rw [rec_finish, f.faulted.state]
  · rw [rec_finish, f.faulted.prior]
  · rw [rec_finish, f.faulted.status]
  · rw [s_runnable_finish, f.faulted.runnable]
  · rw [kept_finish, f.beside.others j hj]

section
variable {tm : Nt} {s : State} {u : Hub}

theorem scrubRegs_ends (hu : (s.hub.stamp tm).pwPass = u) : Ends (.pwScrub tm 0) s u := onHub_ends rfl hu
theorem scrubRecords_ends (hu : (s.hub.stamp tm).recPass = u) : Ends (.pwScrub tm 1) s u := onHub_ends rfl hu
theorem scrubRoots_ends (hu : (s.hub.stamp tm).rootPass = u) : Ends (.pwScrub tm 2) s u := onHub_ends rfl hu
theorem scrubNothing_ends : Ends (.pwScrub tm 3) s (s.hub.stamp tm) := onHub_ends (f := fun h => h) rfl rfl

theorem channelFail_ends {stack : BitVec 3} {chan : BitVec 6} {phy : Bool} (hu : (s.hub.stamp tm).chanFail stack.toNat chan.toNat = u) :
    Ends (.hbmChannelFail tm stack chan phy) s u :=
  onHub_ends (f := fun h => h.chanFail stack.toNat chan.toNat) rfl hu

end

/-- Settles O43: the passes by what they meet, and the channels by the branch that their conditions choose. -/
theorem scrubsAndRepairs : Obligations.ScrubsAndRepairs := by
  intro tm stack chan row phy s h named calm bad
  refine ⟨?valid, ?recordsValid, ?rootsValid, ?faults, ?register, ?row, ?noRow, ?stays, ?copies, ?noSpare, ?copied⟩
  case valid =>
    intro hi ok map
    exact scrubRegs_ends (pwPass_regs h hi h (foldl_stays _ _ fun a ha => pwCheck_good h a (ok a ha)) map)
  case recordsValid =>
    intro hi ok
    exact scrubRecords_ends (recPass_calm (h := h) hi ok)
  case rootsValid =>
    intro ok
    exact ⟨scrubRoots_ends (rootPass_calm (h := h) ok), scrubNothing_ends⟩
  case faults =>
    intro i hm h1 h2 hq hi ok
    exact ⟨fun hb => PassFaulted.answers (scrubRecords_ends rfl) (recPass_faults (h := h) hm h1 h2 hq hi ok hb),
      fun hb => PassFaulted.answers (scrubRoots_ends rfl) (rootPass_faults (h := h) hm h1 h2 hq ok hb)⟩
  case register =>
    intro a ha hi hb ok map
    rw [← repaired_eq h a]
    exact scrubRegs_ends (pwPass_regs h hi _ (pwCheck_pass h ha hardened_regs hb ok) (by rw [seqMap_repaired]; exact map))
  case row =>
    intro he
    show execRowRepair tm stack chan row s = _
    exact onHub_ends rfl (if_pos he)
  case noRow =>
    intro he
    show execRowRepair tm stack chan row s = _
    exact onHub_ends rfl (if_neg (ne_true_of_eq_false he))
  case stays => exact fun hn => channelFail_ends (chanFail_stays h hn)
  case copies =>
    intro n hc he hn hf
    exact channelFail_ends (chanFail_copies h stack.isLt hc he hn hf)
  case noSpare =>
    intro hc he hn hf
    exact channelFail_ends (chanFail_noSpare h stack.isLt hc he hn hf)
  case copied =>
    show execHbmChannelCopy tm stack chan s = _
    exact onHub_ends rfl rfl

end Sys2Proof.Machine
end

section
/-! Writes of PW fields without a valid pair (O54). -/

namespace Sys2Proof.Machine

open Hub

namespace Hub

/-- Hub `u` has left the register at `a` as `h` holds it, and has reported the write (R374). -/
structure PairKept (a : Nat) (u h : Hub) : Prop where
  kept : u.reg a = h.reg a
  counted : u.g F.INTPWREJ_count = satAdd 64 (h.g F.INTPWREJ_count) 1
  set : u.on F.INTSTAT_pw_reject = true
  still : u.still = h.still
  good : u.hubBad = h.hubBad

section
variable {a : Nat} {u h : Hub}

theorem hubBad_of_calm (e : u.calm = h.calm) : u.hubBad = h.hubBad := by
  have := congrArg Hub.hubBad e
  exact this

theorem pairKept_pwReject (ha : a ∉ reportRegs) (hc : a ≠ F.INTPWREJ_count.a) : PairKept a h.pwReject h := by
  refine ⟨?_, ?_, on_flag_same _ _ _ (by decide) (by decide), (still_flag _ _ _).trans (still_inc h _ _),
    hubBad_of_calm (calm_flag (h.inc F.INTPWREJ_count) F.INTSTAT_pw_reject 32)⟩
  · exact (reg_flag _ _ _ ha fun e => ha (e ▸ by decide)).trans (reg_inc_ne h _ _ hc)
  · exact (g_of_reg F.INTPWREJ_count (reg_flag _ _ _ (by decide) (by decide))).trans (g_inc_same h F.INTPWREJ_count 1 (by decide))

/-- A store to another register before the write. -/
theorem PairKept.after_setReg {b : Nat} {x : W64} (e : PairKept a u (h.setReg b x)) (hb : a ≠ b) (hc : F.INTPWREJ_count.a ≠ b) :
    PairKept a u h :=
  ⟨e.kept.trans (reg_setReg_ne h _ _ _ hb), e.counted.trans (by rw [g_of_reg F.INTPWREJ_count (reg_setReg_ne h _ _ _ hc)]), e.set, e.still,
    e.good⟩

/-- A store to another register after the write. -/
theorem PairKept.setReg {b : Nat} {x : W64} (e : PairKept a u h) (hb : a ≠ b) (hc : F.INTPWREJ_count.a ≠ b) (hs : F.INTSTAT_pw_reject.a ≠ b) :
    PairKept a (u.setReg b x) h :=
  ⟨(reg_setReg_ne u _ _ _ hb).trans e.kept, (g_of_reg F.INTPWREJ_count (reg_setReg_ne u _ _ _ hc)).trans e.counted,
    (g_of_reg F.INTSTAT_pw_reject (reg_setReg_ne u _ _ _ hs) ▸ e.set : decide (_ = 1) = true), e.still, e.good⟩

end

/-! ### The registers with a PW field -/

theorem pairRegs_quiet : ∀ a ∈ pairRegs, a ∉ reportRegs ∧ a ≠ F.INTPWREJ_count.a := by
  decide +kernel

theorem pairRegs_narrow : ∀ a ∈ pairRegs, ((regRow a).map (·.wide)).getD true = false := by
  decide +kernel

/-- After such a register of an even word stands none, or it is PWRCAP's or NFRESET. -/
theorem pairRegs_even : ∀ a ∈ pairRegs, a % 8 = 0 → a ≠ F.PWRCAP_watts.a → a ≠ F.NFRESET_code.a → regRow (a + 4) = none := by
  decide +kernel

/-- Of an odd word there is AIXBANKMAP alone. -/
theorem pairRegs_odd : ∀ a ∈ pairRegs, a % 8 = 4 → a = F.AIXBANKMAP_bank.a := by
  decide +kernel

/-- The words beside PWRCAP and AIXBANKMAP are registers whose write starts nothing. -/
theorem beside_plain : ∀ a ∈ [F.PWRCAP_watts.a + 4, F.AIXBANKMAP_bank.a - 4],
    ((regRow a).map fun r => plainReg a r && !r.wide) = some true := by
  decide +kernel

theorem pair_row {a : Nat} (ha : a ∈ pairRegs) : ∃ r, regRow a = some r ∧ r.fields.any (fun f => f.acc == .pw) = true ∧ r.wide = false := by
  obtain ⟨r, hr, hp⟩ := (rowHas_iff a _).1 (pairRegs_place a ha).1
  have narrow := pairRegs_narrow a ha
  rw [hr] at narrow
  exact ⟨r, hr, hp, narrow⟩

theorem beside_row {a : Nat} (ha : a ∈ [F.PWRCAP_watts.a + 4, F.AIXBANKMAP_bank.a - 4]) :
    ∃ r, regRow a = some r ∧ plainReg a r = true ∧ r.wide = false := by
  obtain ⟨r, hr, hp⟩ := Option.map_eq_some_iff.1 (beside_plain a ha)
  rw [Bool.and_eq_true, Bool.not_eq_true'] at hp
  exact ⟨r, hr, hp.1, hp.2⟩

section
variable (h : Hub) {a n : Nat} (ha : a ∈ pairRegs)
include ha

theorem store32_rejected (smb : Bool) (hn : n < 2 ^ 32) (hb : pairOk 16 n = false) : h.store32 a n smb = h.pwReject := by
  obtain ⟨r, hr, hp, -⟩ := pair_row ha
  have low : (BitVec.ofNat 64 n).toNat % 2 ^ 32 = n := by
    rw [BitVec.toNat_ofNat]
    omega
  unfold store32
  rw [hr]
  dsimp only
  unfold regStore
  rw [if_pos hp, low, hb]
  exact if_neg Bool.false_ne_true

theorem pairKept_store32 (smb : Bool) (hn : n < 2 ^ 32) (hb : pairOk 16 n = false) : PairKept a (h.store32 a n smb) h := by
  obtain ⟨report, count⟩ := pairRegs_quiet a ha
  rw [store32_rejected h ha smb hn hb]
  exact pairKept_pwReject report count

theorem pairKept_word (hr : h.reached a = true) (hb : pairOk 16 (n % 2 ^ 32) = false) : PairKept a (h.store a n false) h := by
  obtain ⟨-, word, listed⟩ := pairRegs_place a ha
  rw [store_word h a n hr word listed]
  exact pairKept_store32 h ha false (Nat.mod_lt _ (by decide)) hb

/-- An eight-byte store whose lower word is the pair. -/
theorem pairKept_lower (h8 : a % 8 = 0) (hn : a ≠ F.NFRESET_code.a) (hr : h.reached a = true) (hb : pairOk 16 (n % 2 ^ 32) = false) :
    PairKept a (h.store a n true) h := by
  obtain ⟨-, -, listed⟩ := pairRegs_place a ha
  obtain ⟨r, row, -, narrow⟩ := pair_row ha
  have kept := pairKept_store32 h ha false (Nat.mod_lt n (by decide)) hb
  rw [store_wide h a n hr h8 listed, store64_words h a n (by rw [row]; exact narrow)]
  by_cases e : a = F.PWRCAP_watts.a
  · obtain ⟨q, hq, plain, -⟩ := beside_row List.mem_cons_self
    rw [e] at kept ⊢
    rw [store32_row _ _ _ q hq, regStore_plain _ plain]
    exact kept.setReg (by decide) (by decide) (by decide)
  · rw [store32_upper _ _ _ r (by omega) (pairRegs_even a ha h8 e hn) row, if_neg (by rw [narrow]; decide)]
    exact kept

end

/-- An eight-byte store whose upper word is AIXBANKMAP's pair. -/
theorem pairKept_upper (h : Hub) {n : Nat} (hn : n < 2 ^ 64) (hr : h.reached (F.AIXBANKMAP_bank.a - 4) = true)
    (hb : pairOk 16 (n / 2 ^ 32) = false) : PairKept F.AIXBANKMAP_bank.a (h.store (F.AIXBANKMAP_bank.a - 4) n true) h := by
  obtain ⟨q, hq, plain, narrow⟩ := beside_row (a := F.AIXBANKMAP_bank.a - 4) (by decide)
  rw [store_wide h _ n hr (by decide) (.inr (by decide)), store64_words h _ n (by rw [hq]; exact narrow), store32_row _ _ _ q hq,
    regStore_plain _ plain]
  exact (pairKept_store32 _ (a := F.AIXBANKMAP_bank.a) (by decide) false (by omega) hb).after_setReg (by decide) (by decide)

end Hub

/-! ### The commands -/

section
variable {c : Instr} {tm : Nt} {s : State} {a : Nat} {u : Hub}

/-- A command that leaves such a hub has rejected the pair. -/
theorem pairRejected_of_ends (hb : s.hub.hubBad = false) (e : Ends c s u) (k : PairKept a u (s.hub.stamp tm)) : PairRejected c tm s a := by
  obtain ⟨n, o, f⟩ := finish_eq u s.hub (k.good.trans hb)
  have regs (r : Nat) : (finish s.hub u).reg r = u.reg r := by rw [f]; rfl
  refine e.answers ⟨?_, ?_, ?_, ?_, fun j => ?_, rfl, rfl⟩
  · exact (regs a).trans k.kept
  · exact (g_of_reg F.INTPWREJ_count (regs _)).trans k.counted
  · exact (congrArg (fun x => decide (x = 1)) (g_of_reg F.INTSTAT_pw_reject (regs _))).trans k.set
  · rw [rest_finish, rest_of_still k.still]
  · rw [kept_finish, s_of_still k.still]
    rfl

/-- A store of a word that is no pair, by the command of its register. -/
theorem Stores.pairRejected {v : BitVec 32} (hc : Stores c tm a v) (hb : s.hub.hubBad = false) (ha : a ∈ pairRegs)
    (hr : (s.hub.stamp tm).reached a = true) (hv : pairOk 16 v.toNat = false) : PairRejected c tm s a :=
  pairRejected_of_ends hb (hc.ends s rfl) (pairKept_word _ ha hr (by rwa [Nat.mod_eq_of_lt v.isLt]))

/-- A warm reset's code that is no pair. -/
theorem warmReset_pairRejected {v : BitVec 32} (he : exec c s = execWarmReset tm v s) (hb : s.hub.hubBad = false)
    (hs : (s.hub.stamp tm).stage 0 = true) (hv : pairOk 16 v.toNat = false) : PairRejected c tm s F.NFRESET_code.a := by
  refine pairRejected_of_ends (u := (s.hub.stamp tm).pwReject) hb (he.trans ?_) (pairKept_pwReject (by decide) (by decide))
  unfold execWarmReset
  dsimp only
  rw [hs, hv, if_neg (by decide), if_pos (by decide)]
  rfl

/-- A write of NFRESET is a warm reset's command, whatever its width (R374). -/
theorem exec_registerWrite_reset {addr : BitVec 20} {x : W64} {wide : Bool} {v : BitVec 32} (hn : addr.toNat = F.NFRESET_code.a)
    (hx : x.toNat % 2 ^ 32 = v.toNat) : exec (.registerWrite tm addr x wide) s = execWarmReset tm v s := by
  have e : x.setWidth 32 = v := BitVec.eq_of_toNat_eq (by rw [BitVec.toNat_setWidth, hx])
  show execRegisterWrite tm addr x wide s = _
  rw [execRegisterWrite, if_pos hn, e]

theorem stage_of_reached {h : Hub} (hr : h.reached a = true) : h.stage 0 = true := by
  unfold reached at hr
  rw [Bool.and_eq_true, Bool.and_eq_true] at hr
  exact hr.1.1

end

/-- Settles O54: each path's store, and what it leaves of the register and its neighbour. -/
theorem pairedWordWrites : Obligations.PairedWordWrites := by
  intro tm v s h bad good hv
  refine ⟨fun addr x ha hr hx => ?word, fun addr x h8 ha hr hx => ?lower, fun addr x h8 ha hr hx => ?upper, fun hr => ?retire, fun n hr => ?lane,
    fun hr => ?bank, fun hs => ?reset, fun hp hm => ?managed⟩
  case word =>
    by_cases e : addr.toNat = F.NFRESET_code.a
    · rw [e]
      exact warmReset_pairRejected (exec_registerWrite_reset e hx) good (stage_of_reached hr) hv
    · exact pairRejected_of_ends good (ends_registerWrite e rfl) (pairKept_word _ ha hr (by rwa [hx]))
  case lower =>
    by_cases e : addr.toNat = F.NFRESET_code.a
    · rw [e]
      exact warmReset_pairRejected (exec_registerWrite_reset e hx) good (stage_of_reached hr) hv
    · exact pairRejected_of_ends good (ends_registerWrite e rfl) (pairKept_lower _ ha h8 e hr (by rwa [hx]))
  case upper =>
    have bank : addr.toNat + 4 = F.AIXBANKMAP_bank.a := pairRegs_odd _ ha (by omega)
    have at_ : addr.toNat = F.AIXBANKMAP_bank.a - 4 := by rw [← bank]; rfl
    have other : addr.toNat ≠ F.NFRESET_code.a := by rw [at_]; decide
    rw [bank]
    rw [at_] at hr
    exact pairRejected_of_ends good (ends_registerWrite other rfl) (by rw [at_]; exact pairKept_upper _ x.isLt hr (by rwa [hx]))
  case retire => exact (stores_stoneretire tm v).pairRejected good (by decide) hr hv
  case lane => exact (stores_mollane tm n v).pairRejected good (mem_pairRegs_lane n) (reached_lane h n hr) hv
  case bank => exact (stores_aixbankmap tm v).pairRejected good (by decide) hr hv
  case reset => exact warmReset_pairRejected rfl good hs hv
  case managed =>
    have write := smbusWrite_taken tm 8 v s (h := h) rfl hp hm (by decide) (by decide +kernel)
    exact pairRejected_of_ends (a := F.PWRCAP_watts.a) good write (pairKept_store32 h (a := F.PWRCAP_watts.a) (by decide) true v.isLt hv)

end Sys2Proof.Machine
end

section
/-! Cuts and restores (O38), and diagnostics (O40). -/

namespace Sys2Proof.Machine

open Hub

/-! ### Cuts and restores (R396 to R414) -/

namespace Hub

section
variable (h : Hub)

/-- Answers to a list of commands change nothing beside reports. -/
theorem alike_completes {α : Type} (l : List α) (sub : α → Sub) (detail : α → Nat) (g : Hub) :
    (l.foldl (fun h w => h.complete (sub w) St.ok (detail w)) g).alike g := by
  induction l generalizing g with
  | nil => exact alike_refl g
  | cons w l ih => exact alike_trans (ih _) (alike_complete _ _ _ _ (alike_refl g))

theorem posHeld_alike (pos : Nat) (e : BitVec 32) :
    (h.posHeld pos e).alike
      (let g : Hub := { h with ck := { h.ck with held := smPut h.ck.held pos e } }
       { g with ck := { g.ck with wait := g.ck.wait.filter (fun e => !g.allHeld e.1) } }) := by
  unfold posHeld
  exact alike_completes _ (fun w : BitVec 32 × Sub => w.2) (fun w => w.1.toNat) _

/-- The copy that its sender completes is told of, once its deltas are durable. -/
theorem copyDone_told (src : BitVec 6) (epoch : BitVec 32) (last : Bool) (pages : SMap Bytes)
    (hc : last = true → (epoch, pages, last) ∈ h.ck.bcopies) :
    (if last then h.copyDone src epoch else h) = if last && !h.deltasWait src epoch then h.send src (.drainDone epoch) else h := by
  cases last with
  | false => rfl
  | true =>
    have whole : h.ck.bcopies.any (fun c => c.1 == epoch && c.2.2) = true :=
      List.any_eq_true.2 ⟨_, hc rfl, by rw [beq_self_eq_true, Bool.and_self]⟩
    rw [if_pos rfl, Bool.true_and]
    unfold copyDone
    rw [whole, Bool.true_and]

/-- A claim that its group has lost goes back to its owner (R412). -/
theorem claim_returns (e : MigClaim) (i : Handle) (hi : h.findSk e.sk = some i) (ho : (h.s i).r.omm = false) :
    [e].foldl (fun h e => match h.findSk e.sk with
      | none => h
      | some i => if (h.s i).r.omm then h else h.ownerMismatch i (e.epoch + 1)) h = h.ownerMismatch i (e.epoch + 1) := by
  rw [List.foldl_cons, List.foldl_nil, hi]
  exact if_neg (Bool.eq_false_iff.1 ho)

end

end Hub

/-- The commands CUT and RESTORE. -/
theorem cutAndRestore_commands (tm : Nt) (w : BitVec 8) (l : CmdLine) (s : State) :
    let h := s.hub.stamp tm
    let a := h.counted w 0x30
    let b := h.counted w 0x31
    (h.admits w 0x30 l = true → a.g F.POOLROLE_size ≠ 0 → l.opd 32 1 = a.g F.POOLROLE_base → a.faulted = false →
      Ends (.cutCommand tm w l) s { a with ck := { a.ck with forced := a.ck.forced ++ [h.subOf w 0x30 l] } })
    ∧ (h.admits w 0x30 l = true → a.g F.POOLROLE_size = 0 ∨ l.opd 32 1 ≠ a.g F.POOLROLE_base ∨ a.faulted = true →
      Ends (.cutCommand tm w l) s (a.complete (h.subOf w 0x30 l) St.badState))
    ∧ (h.admits w 0x31 l = true → b.faulted = true → l.opd 32 1 = b.g F.POOLROLE_base → b.ck.restore = none →
      Ends (.restoreCommand tm w l) s
        (({ b with ck := { b.ck with restore := some (l.opd 33 1, some (h.subOf w 0x31 l)) } } : Hub).p F.CKPTSTAT_restoring 1)) := by
  intro h a b
  refine ⟨fun ha hs hb hf => ?cut, fun ha hr => ?cutRefused, fun ha hf hb hr => ?restore⟩
  case cut =>
    refine onLine_ends ha (if_neg ?_)
    rw [Bool.or_eq_true, Bool.or_eq_true, decide_eq_true_eq, decide_eq_true_eq]
    exact not_or.2 ⟨not_or.2 ⟨hs, not_not.2 hb⟩, Bool.eq_false_iff.1 hf⟩
  case cutRefused =>
    refine onLine_ends ha (if_pos ?_)
    rw [Bool.or_eq_true, Bool.or_eq_true, decide_eq_true_eq, decide_eq_true_eq]
    exact or_assoc.2 hr
  case restore =>
    refine onLine_ends ha (if_neg ?_)
    rw [Bool.or_eq_true, Bool.or_eq_true, decide_eq_true_eq, Bool.not_eq_true']
    exact not_or.2 ⟨not_or.2 ⟨Bool.eq_false_iff.not_left.2 hf, not_not.2 hb⟩,
      by rw [show ((s.hub.stamp tm).counted w 0x31).ck.restore = none from hr]; decide⟩

section
variable {tm : Nt} {s : State} {h : Hub} (hh : s.hub.stamp tm = h)
include hh

theorem drainPage_ends {src : BitVec 6} {epoch : BitVec 32} {page : Nat} {data : Bytes} {last : Bool} {pages : SMap Bytes}
    (hc : h.ck.bcopies.find? (fun c => c.1 == epoch && !c.2.2) = some (epoch, pages, false)) :
    let all := (epoch, smPut pages page data, last) :: h.ck.bcopies.filter (fun c => c.1 != epoch)
    let g : Hub := { h with ck := { h.ck with bcopies := all.filter (fun c => !c.2.2) ++ (all.filter (fun c => c.2.2)).take 2 } }
    Ends (.drainPage tm src epoch page data last) s (if last && !g.deltasWait src epoch then g.send src (.drainDone epoch) else g) := by
  intro all g
  show execDrainPage tm src epoch page data last s = _
  refine onHub_ends hh ?_
  dsimp only
  rw [hc]
  refine copyDone_told g src epoch last (smPut pages page data) fun e => List.mem_append_right _ ?_
  subst e
  exact List.mem_cons_self

theorem drainDone_ends {pos : BitVec 6} {epoch : BitVec 32} {u : Hub} (hs : h.g F.POOLROLE_size ≠ 0)
    (hu : (if pos.toNat = h.position then h.holdCut epoch else if h.position = 0 then h.posHeld pos.toNat epoch else h) = u) :
    Ends (.drainDone tm pos epoch) s u := by
  show execDrainDone tm pos epoch s = _
  exact onHub_ends hh ((if_neg hs).trans hu)

theorem drainRestored_ends {src : BitVec 6} {cut : Nt} {e : MigClaim} {i : Handle} (hs : h.ck.sends = []) (hc : h.ck.claims = [e])
    (he : e.src = src) (ht : cut ≤ e.nt) (hi : h.findSk e.sk = some i) (ho : (h.s i).r.omm = false) :
    Ends (.drainRestored tm src cut) s (({ h with ck := { h.ck with sends := [], claims := [] } } : Hub).ownerMismatch i (e.epoch + 1)) := by
  show execDrainRestored tm src cut s = _
  refine onHub_ends hh ?_
  dsimp only
  have near (b : Bool) : ((e.src == src || b) && decide (cut ≤ e.nt)) = true := by
    rw [he, beq_self_eq_true, decide_eq_true ht]
    rfl
  rw [hs, hc]
  simp only [List.filter_cons, List.filter_nil, List.foldl_nil, near, Bool.not_true, Bool.false_eq_true, if_true, if_false]
  exact claim_returns { h with ck := { h.ck with sends := [], claims := [] } } e i hi ho

theorem ownSlotWrite_ends {u : Hub} (hu : (match h.ck.writing with
    | none => h
    | some (b, img) =>
      match h.grnObject (objKey 6 (b2n b)) 6 (4096 * (recPages img.sess).length + 64) 0 with
      | none => { h with ck := { h.ck with writing := none } }
      | some h =>
      (({ h with ck := { h.ck with writing := none, slotA := if b then h.ck.slotA else some img
                                   slotB := if b then some img else h.ck.slotB } } : Hub).p F.CKPTEPOCH_own img.epoch.toNat).startSlot) = u) :
    Ends (.ownSlotWrite tm) s u := by
  show execOwnSlotWrite tm s = _
  exact onHub_ends hh hu

theorem autoRestore_ends {info : RestoreInfo} {f : Nt} (hr : h.ck.restore = none) (hs : h.on F.HDEVIDX_spare = false) (hf : h.ck.faultNt = some f)
    (hd : h.faulted = true) (ha : h.on F.CKPTCTL_auto_restore = true) (ht : f.toNat + h.g F.CKPTHOLD_ms * 1000000 ≤ h.nt.toNat) :
    Ends (.autoRestore tm info) s (h.applyRestore info 0 0 none) := by
  show execAutoRestore tm info s = _
  refine onHub_ends hh ?_
  dsimp only
  rw [hr]
  dsimp only
  rw [if_neg (by rw [hs]; decide), hf]
  dsimp only
  rw [if_pos (by rw [hd, ha, decide_eq_true ht]; rfl)]

end

/-- Settles O38: each command by the branch that its conditions choose. -/
theorem cutsAndRestores : Obligations.CutsAndRestores := by
  refine ⟨cutAndRestore_commands, fun tm s => ?_⟩
  intro h
  refine ⟨fun src epoch page data last pages hc => ?page, fun pos epoch hs hp hn => ?noted, fun pos epoch hs hp => ?own,
    fun src sk => ?settled, fun src cut e i hs hc he ht hi ho => ?claimed, fun src epoch key data => ?delta, fun b img g hw hg => ?written,
    fun b img hw hg => ?noRoom, fun hw => ?none_, fun info f hr hs hf hd ha ht => ?auto⟩
  case page => exact drainPage_ends rfl hc
  case noted =>
    refine (drainDone_ends rfl hs ?_).becomes (posHeld_alike h pos.toNat epoch)
    rw [if_neg (by rw [hp]; exact hn), if_pos hp]
  case own => exact drainDone_ends rfl hs (if_pos hp)
  case settled =>
    show execDrainSettled tm src sk s = _
    exact onHub_ends rfl rfl
  case claimed => exact drainRestored_ends rfl hs hc he ht hi ho
  case delta =>
    show execBuddy tm src epoch key data s = _
    exact onHub_ends rfl rfl
  case written => exact ownSlotWrite_ends rfl (by rw [hw]; dsimp only; rw [hg])
  case noRoom => exact ownSlotWrite_ends rfl (by rw [hw]; dsimp only; rw [hg])
  case none_ => exact ownSlotWrite_ends rfl (by rw [hw])
  case auto => exact autoRestore_ends rfl hr hs hf hd ha ht

end Sys2Proof.Machine
end

section
/-! Diagnostics (O40). -/

namespace Sys2Proof.Machine

open Hub

namespace Hub

/-! ### The counter latch (R513) -/

section
variable (h : Hub)

/-- The hub once the counters are latched at `t`, and those who asked are not yet answered. -/
def latched (t : Nt) : Hub :=
  let d := h.diag.snap.getD h.diag.live
  let h := (List.range 4).foldl (fun h k =>
    (h.pi F.DGBUSY_steps k (d.busy.getD k 0).toNat).pi F.DGHOLD_steps k (d.hold.getD k 0).toNat) h
  let h := ((h.p F.DGSTEPS_count d.steps.toNat).p F.DGSTEPNS_ns d.stepNs.toNat).p F.DGIDLENS_ns d.idleNs.toNat
  (h.p F.DGSTEPMAX_ns d.stepMax.toNat).p F.DGSNAPNT_nt t.toNat

/-- The answers to those who asked change no register of the block. -/
theorem reg_latch (t : Nt) {r : Nat} (hr : r ∉ reportRegs) : (h.latch t).reg r = (h.latched t).reg r := by
  have answered (l : List Sub) (g : Hub) : (l.foldl (fun h c => h.complete c St.ok) g).reg r = g.reg r := by
    induction l generalizing g with
    | nil => rfl
    | cons c l ih => rw [List.foldl_cons, ih, reg_complete _ _ _ _ _ hr]
  exact answered _ (h.latched t)

theorem gi_latch (t : Nt) (f : Fld) (k : Nat) (hr : f.a + f.stride * k ∉ reportRegs) : (h.latch t).gi f k = (h.latched t).gi f k := by
  unfold gi
  rw [reg_latch h t hr]

/-- The totals are told by the last stores; the counts of the dies stand before them. -/
theorem g_latched (t : Nt) :
    let d := h.diag.snap.getD h.diag.live
    (h.latched t).g F.DGSTEPS_count = d.steps.toNat ∧ (h.latched t).g F.DGSTEPNS_ns = d.stepNs.toNat
    ∧ (h.latched t).g F.DGIDLENS_ns = d.idleNs.toNat ∧ (h.latched t).g F.DGSTEPMAX_ns = d.stepMax.toNat
    ∧ (h.latched t).g F.DGSNAPNT_nt = t.toNat := by
  intro d
  unfold latched
  dsimp only
  refine ⟨?_, ?_, ?_, ?_, ?_⟩
  · rw [g_p_ne _ _ _ _ (by decide) (by decide), g_p_ne _ _ _ _ (by decide) (by decide), g_p_ne _ _ _ _ (by decide) (by decide),
      g_p_ne _ _ _ _ (by decide) (by decide), g_p_same _ _ _ (by decide)]
    exact Nat.mod_eq_of_lt d.steps.isLt
  · rw [g_p_ne _ _ _ _ (by decide) (by decide), g_p_ne _ _ _ _ (by decide) (by decide), g_p_ne _ _ _ _ (by decide) (by decide),
      g_p_same _ _ _ (by decide)]
    exact Nat.mod_eq_of_lt d.stepNs.isLt
  · rw [g_p_ne _ _ _ _ (by decide) (by decide), g_p_ne _ _ _ _ (by decide) (by decide), g_p_same _ _ _ (by decide)]
    exact Nat.mod_eq_of_lt d.idleNs.isLt
  · rw [g_p_ne _ _ _ _ (by decide) (by decide), g_p_same _ _ _ (by decide)]
    exact Nat.mod_eq_of_lt d.stepMax.isLt
  · rw [g_p_same _ _ _ (by decide)]
    exact Nat.mod_eq_of_lt t.isLt

/-- The counts of one die share no bit with another's, nor with the totals. -/
theorem dies_apart : ∀ f ∈ [F.DGBUSY_steps, F.DGHOLD_steps], ∀ j < 4, ∀ k < 4, j ≠ k →
    apart F.DGBUSY_steps j f k = true ∧ apart F.DGHOLD_steps j f k = true := by
  decide

theorem totals_apart : ∀ f ∈ [F.DGBUSY_steps, F.DGHOLD_steps], ∀ k < 4,
    ∀ g ∈ [F.DGSTEPS_count, F.DGSTEPNS_ns, F.DGIDLENS_ns, F.DGSTEPMAX_ns, F.DGSNAPNT_nt], apart g 0 f k = true := by
  decide

/-- One die's pair of counts. -/
def dieLatched (busy hold : Nat → W64) (k : Nat) : Hub := (h.pi F.DGBUSY_steps k (busy k).toNat).pi F.DGHOLD_steps k (hold k).toNat

section
variable (busy hold : Nat → W64)

theorem gi_dieLatched_same (k : Nat) (hk : k < 4) :
    (h.dieLatched busy hold k).gi F.DGBUSY_steps k = (busy k).toNat ∧ (h.dieLatched busy hold k).gi F.DGHOLD_steps k = (hold k).toNat := by
  have apart_ : apart F.DGHOLD_steps k F.DGBUSY_steps k = true := by
    revert k
    decide
  unfold dieLatched
  rw [gi_pi_ne _ _ _ _ _ _ (by decide) apart_, gi_pi_same _ _ _ _ (by decide), gi_pi_same _ _ _ _ (by decide)]
  exact ⟨Nat.mod_eq_of_lt (busy k).isLt, Nat.mod_eq_of_lt (hold k).isLt⟩

theorem gi_dieLatched_ne (f : Fld) (hf : f ∈ [F.DGBUSY_steps, F.DGHOLD_steps]) (j k : Nat) (hj : j < 4) (hk : k < 4) (hn : j ≠ k) :
    (h.dieLatched busy hold j).gi f k = h.gi f k := by
  have apart_ := dies_apart f hf j hj k hk hn
  unfold dieLatched
  rw [gi_pi_ne _ _ _ _ _ _ (by decide) apart_.2, gi_pi_ne _ _ _ _ _ _ (by decide) apart_.1]

/-- After the dies of a list each has its counts, where no later die has taken them. -/
theorem gi_diesLatched (l : List Nat) (hl : ∀ j ∈ l, j < 4) (nodup : l.Nodup) (k : Nat) (hk : k ∈ l) :
    (l.foldl (fun h k => h.dieLatched busy hold k) h).gi F.DGBUSY_steps k = (busy k).toNat
    ∧ (l.foldl (fun h k => h.dieLatched busy hold k) h).gi F.DGHOLD_steps k = (hold k).toNat := by
  have stays (f : Fld) (hf : f ∈ [F.DGBUSY_steps, F.DGHOLD_steps]) (l : List Nat) (hl : ∀ j ∈ l, j < 4) (hn : k ∉ l) (h4 : k < 4) (g : Hub) :
      (l.foldl (fun h k => h.dieLatched busy hold k) g).gi f k = g.gi f k := by
    induction l generalizing g with
    | nil => rfl
    | cons j l ih =>
      rw [List.forall_mem_cons] at hl
      rw [List.mem_cons, not_or] at hn
      rw [List.foldl_cons, ih hl.2 hn.2, gi_dieLatched_ne g busy hold f hf j k hl.1 h4 (Ne.symm hn.1)]
  induction l generalizing h with
  | nil => cases hk
  | cons j l ih =>
    rw [List.forall_mem_cons] at hl
    rw [List.nodup_cons] at nodup
    rw [List.foldl_cons]
    by_cases e : k = j
    · subst e
      rw [stays _ (.head _) l hl.2 nodup.1 hl.1, stays _ (.tail _ (.head _)) l hl.2 nodup.1 hl.1]
      exact gi_dieLatched_same h busy hold k hl.1
    · exact ih _ hl.2 nodup.2 ((List.mem_cons.1 hk).resolve_left e)

end

theorem gi_latched (t : Nt) (k : Nat) (hk : k < 4) :
    let d := h.diag.snap.getD h.diag.live
    (h.latched t).gi F.DGBUSY_steps k = (d.busy.getD k 0).toNat ∧ (h.latched t).gi F.DGHOLD_steps k = (d.hold.getD k 0).toNat := by
  intro d
  have counts := gi_diesLatched h (fun k => d.busy.getD k 0) (fun k => d.hold.getD k 0) (List.range 4) (fun j hj => List.mem_range.1 hj)
    List.nodup_range k (List.mem_range.2 hk)
  have after (f : Fld) (hf : f ∈ [F.DGBUSY_steps, F.DGHOLD_steps]) :
      (h.latched t).gi f k = ((List.range 4).foldl (fun h j => h.dieLatched (fun k => d.busy.getD k 0) (fun k => d.hold.getD k 0) j) h).gi f k := by
    have far := totals_apart f hf k hk
    simp only [List.forall_mem_cons] at far
    obtain ⟨steps, stepNs, idle, most, at_, -⟩ := far
    unfold latched
    dsimp only
    rw [gi_p_ne _ _ _ _ _ (by decide) at_, gi_p_ne _ _ _ _ _ (by decide) most, gi_p_ne _ _ _ _ _ (by decide) idle,
      gi_p_ne _ _ _ _ _ (by decide) stepNs, gi_p_ne _ _ _ _ _ (by decide) steps]
    rfl
  rw [after _ (.head _), after _ (.tail _ (.head _))]
  exact counts

theorem dies_quiet : ∀ k < 4, F.DGBUSY_steps.a + F.DGBUSY_steps.stride * k ∉ reportRegs
    ∧ F.DGHOLD_steps.a + F.DGHOLD_steps.stride * k ∉ reportRegs := by
  decide +kernel

end

/-! ### Reads of journals and the black box (R509, R512) -/

section
variable (h : Hub) (c : Sub)

theorem jread_device {e : Nat × DEnt} {es : List (Nat × DEnt)} (hk : c.line.opd 40 1 ≠ 0)
    (he : ((positions (h.g F.DGDJPOS_position) h.diag.dj).filter (fun e => decide (c.line.opd 48 8 ≤ e.1))).take (c.line.opd 56 4) = e :: es) :
    h.jread c = h.hostWrite { addr := BitVec.ofNat 64 (c.line.opd 32 8), data := ((e :: es).map (fun e => e.2.bytes)).flatten
                              sub := some ({ c with nt := e.2.nt }, BitVec.ofNat 32 (e :: es).length) } := by
  unfold jread
  dsimp only
  rw [if_neg hk, ← List.map_take, he]
  simp only [List.map_cons, List.head?_cons, List.map_map, List.length_cons, List.length_map]
  rfl

theorem bbread_slot {b : BbSlot} (hk : c.line.opd 40 1 ≠ 0) (hs : smLook h.diag.slots (c.line.opd 41 1) = some b) (hv : b.valid = true) :
    h.bbread c = h.hostWrite { addr := BitVec.ofNat 64 (c.line.opd 32 8), data := b.bytes h.dev (c.line.opd 41 1), sub := some (c, 0) } := by
  unfold bbread
  dsimp only
  rw [if_neg hk, hs]
  exact if_pos hv

theorem askLatch_first (hs : h.diag.snapAt = none) : h.askLatch (some c) =
    { h with diag := { h.diag with snapAt := some (BitVec.ofNat 64 ((h.nt.toNat / 1000 + 1) * 1000)), snapSubs := h.diag.snapSubs ++ [c] } } := by
  unfold askLatch
  rw [hs]
  rfl

/-- A copy that runs is not started again. -/
theorem startCopy_runs {x : Nat × Option Sub} (hc : h.diag.copy = some x) : h.startCopy = h := by
  unfold startCopy
  rw [hc]

theorem endCopy_answers {k : Nat} {b : BbSlot} (hc : h.diag.copy = some (k, some c)) (hb : smLook h.diag.slots k = some b) :
    h.endCopy = (((((({ h with diag := { h.diag with slots := smMod h.diag.slots k (fun s => { s with valid := true }), newest := k,
                                                       copy := none } } : Hub).devEv 0x0902 4 (k + b.trig.toNat * 256)).inc
      F.DGBBCOPIES_count).p F.DGSTAT_bb_copying 0).complete c St.ok).startCopy) := by
  unfold endCopy
  rw [hc]
  dsimp only
  rw [hb]
  rfl

end

end Hub

/-- The commands that read the black box, the journals and the counters. -/
theorem diagnostics_commands (tm : Nt) (w : BitVec 8) (l : CmdLine) (s : State) :
    let h := s.hub.stamp tm
    let k (op : BitVec 8) := h.subOf w op l
    let g (op : BitVec 8) := h.counted w op
    let addr : W64 := BitVec.ofNat 64 (l.opd 32 8)
    (∀ e es, h.admits w 0x50 l = true → l.opd 40 1 ≠ 0 → ((Hub.positions ((g 0x50).g F.DGDJPOS_position) (g 0x50).diag.dj).filter
        (fun e => decide (l.opd 48 8 ≤ e.1))).take (l.opd 56 4) = e :: es →
      Ends (.jread tm w l) s ((g 0x50).hostWrite
        { addr := addr, data := ((e :: es).map (fun e => e.2.bytes)).flatten
          sub := some ({ k 0x50 with nt := e.2.nt }, BitVec.ofNat 32 (e :: es).length) }))
    ∧ (h.admits w 0x51 l = true → l.opd 40 1 = 0 → Ends (.bbread tm w l) s ((g 0x51).hostWrite
        { addr := addr, data := (((g 0x51).diag.rings.map ringBytes).flatten), sub := some (k 0x51, 0) }))
    ∧ (∀ b, h.admits w 0x51 l = true → l.opd 40 1 ≠ 0 → smLook (g 0x51).diag.slots (l.opd 41 1) = some b → b.valid = true →
      Ends (.bbread tm w l) s ((g 0x51).hostWrite
        { addr := addr, data := b.bytes (g 0x51).dev (l.opd 41 1), sub := some (k 0x51, 0) }))
    ∧ (h.admits w 0x52 l = true → Ends (.bbsnap tm w l) s
        ({ g 0x52 with diag := { (g 0x52).diag with trigs := (g 0x52).diag.trigs ++ [((g 0x52).nt, 0, some (k 0x52))] } } : Hub).startCopy)
    ∧ (h.admits w 0x53 l = true → (g 0x53).diag.snapAt = none → Ends (.ctrsnap tm w l) s
        { g 0x53 with diag := { (g 0x53).diag with snapAt := some (BitVec.ofNat 64 (((g 0x53).nt.toNat / 1000 + 1) * 1000))
                                                   snapSubs := (g 0x53).diag.snapSubs ++ [k 0x53] } }) := by
  intro h k g addr
  refine ⟨fun e es ha hk he => ?journal, fun ha hk => ?rings, fun b ha hk hs hv => ?slot, fun ha => ?snap, fun ha hs => ?latch⟩
  case journal => exact onLine_ends (f := fun c h => h.jread c) ha (jread_device (g 0x50) (k 0x50) hk he)
  case rings => exact onLine_ends (f := fun c h => h.bbread c) ha (if_pos hk)
  case slot => exact onLine_ends (f := fun c h => h.bbread c) ha (bbread_slot (g 0x51) (k 0x51) hk hs hv)
  case snap => exact onLine_ends (f := fun c h => h.trigger 0 (some c)) ha rfl
  case latch => exact onLine_ends (f := fun c h => h.askLatch (some c)) ha (askLatch_first (g 0x53) (k 0x53) hs)

/-- The latch that is due tells every counter. -/
theorem counterLatch_tells (tm : Nt) (s : State) {a : Nt} (hs : (s.hub.stamp tm).diag.snapAt = some a) (ht : a ≤ (s.hub.stamp tm).nt) :
    Answers (.counterLatch tm) s (fun t =>
        let d := s.hub.diag.snap.getD s.hub.diag.live
        (∀ k, k < 4 → t.hub.gi F.DGBUSY_steps k = (d.busy.getD k 0).toNat ∧ t.hub.gi F.DGHOLD_steps k = (d.hold.getD k 0).toNat)
        ∧ t.hub.g F.DGSTEPS_count = d.steps.toNat ∧ t.hub.g F.DGSTEPNS_ns = d.stepNs.toNat
        ∧ t.hub.g F.DGIDLENS_ns = d.idleNs.toNat ∧ t.hub.g F.DGSTEPMAX_ns = d.stepMax.toNat
        ∧ t.hub.g F.DGSNAPNT_nt = a.toNat ∧ HubOnly s t) := by
  have e : Ends (.counterLatch tm) s ((s.hub.stamp tm).latch a) := by
    show execCounterLatch tm s = _
    refine onHub_ends rfl ?_
    rw [hs]
    exact if_pos ht
  have told (f : Fld) (hf : f.a + f.stride * 0 ∉ reportRegs) :
      (finish s.hub ((s.hub.stamp tm).latch a)).g f = ((s.hub.stamp tm).latched a).g f :=
    (g_finish _ _ f hf).trans (gi_latch _ a f 0 hf)
  obtain ⟨steps, stepNs, idle, most, at_⟩ := g_latched (s.hub.stamp tm) a
  refine e.answers ⟨fun k hk => ?_, (told _ (by decide)).trans steps, (told _ (by decide)).trans stepNs, (told _ (by decide)).trans idle,
    (told _ (by decide)).trans most, (told _ (by decide)).trans at_, rfl, rfl⟩
  obtain ⟨busy, hold⟩ := gi_latched (s.hub.stamp tm) a k hk
  obtain ⟨hb, hh⟩ := dies_quiet k hk
  exact ⟨((gi_finish _ _ _ k hb).trans (gi_latch _ a _ k hb)).trans busy, ((gi_finish _ _ _ k hh).trans (gi_latch _ a _ k hh)).trans hold⟩

/-- Settles O40: the reads by what they find, the clocks by the state of their domain, and the latch counter by counter. -/
theorem diagnostics : Obligations.Diagnostics := by
  refine ⟨diagnostics_commands, fun tm cls dom s => ?_⟩
  intro h running
  have known {b : Nat} (hd : dom.toNat < b) (hb : b = Hub.clockDomains.getD cls.toNat 0) : Hub.clockKnown cls dom = true :=
    decide_eq_true (hb ▸ hd)
  refine ⟨fun n hn hd => ?reset, fun ha hd hc hs => ?stops, fun hc => ?never, fun n hs => ?wakes, fun die r hd => ?rate, fun die hd => ?console,
    fun k c b hc hb _ => ?copied, fun a hs ht => counterLatch_tells tm s hs ht⟩
  case reset =>
    show execClockDomainReset tm cls dom n s = _
    refine onHub_ends (h := h) rfl ?_
    dsimp only
    rw [known hd rfl, if_neg (by decide), if_neg hn]
  case stops =>
    show execClockStop tm cls dom s = _
    refine onHub_ends (h := h) rfl (if_pos ?_)
    unfold clockStops
    rw [show h.on F.DGCTL_autostop_en = true from ha, known hd rfl]
    simpa using ⟨by simpa using hc, hs⟩
  case never =>
    show execClockStop tm cls dom s = _
    refine onHub_ends (h := h) rfl (if_neg ?_)
    unfold clockStops
    rw [List.contains_iff_mem.2 hc]
    simp
  case wakes =>
    show execClockWake tm cls dom n s = _
    refine onHub_ends (h := h) rfl (if_neg ?_)
    rw [List.contains_iff_mem.2 hs]
    decide
  case rate =>
    show execRateWindow tm die r s = _
    exact onHub_ends (h := h) rfl (if_pos hd)
  case console =>
    show execBbConsole tm die s = _
    exact onHub_ends (h := h) rfl (if_pos hd)
  case copied =>
    intro done
    show execBbCopy tm s = _
    refine onHub_ends (h := h) rfl ?_
    rw [startCopy_runs h hc, endCopy_answers h c hc hb]

end Sys2Proof.Machine
end

section
/-! Supplies, sensors, wake tokens and the governor (O57). -/

namespace Sys2Proof.Machine

open Hub

namespace Hub

/-! ### A loss of power (R457 to R459) -/

/-- Hub `u` is `h` with its rails down. -/
structure WentDown (u h : Hub) : Prop where
  off : u.pw.off = true
  ok : u.pw.ok = false
  sess : u.sess = []
  hopq : u.hopq = []
  good : u.hubBad = false
  inReg : u.pw.inReg = h.pw.inReg
  nt : u.nt = h.nt

section
variable (h : Hub)

/-- The supplies keep the module's power on. -/
def live : Prop := h.pw.off = false ∧ h.pw.ok = true

theorem loseUnits_eq (us : List Nat) : ∃ g, h.loseUnits us = { h with gr := g } := by
  unfold loseUnits
  induction us generalizing h with
  | nil => exact ⟨h.gr, rfl⟩
  | cons u us ih =>
    rw [List.foldl_cons]
    split
    · exact ih h
    · obtain ⟨g, e⟩ := ih (h.modG _)
      exact ⟨g, e⟩

theorem tunDrain_eq (ok : Bool) : ∃ g, h.tunDrain ok = { h with gr := g } := by
  obtain ⟨g, e⟩ := loseUnits_eq h h.gr.queue
  unfold tunDrain
  rw [e]
  exact ⟨_, rfl⟩

theorem still_startCopy : h.startCopy.still = h.still := by
  unfold startCopy
  split
  · rfl
  · rfl

theorem still_endCopy : h.endCopy.still = h.still := by
  unfold endCopy
  split
  · rfl
  · dsimp only
    rw [still_startCopy]
    split
    · rw [still_p, still_inc, still_devEv]
      rfl
    · rw [still_complete, still_p, still_inc, still_devEv]
      rfl

theorem still_lossCopy (code : Nat) : (h.lossCopy code).still = h.still := by
  unfold lossCopy
  dsimp only
  rw [still_endCopy, still_startCopy]
  split <;> rfl

/-- What a held reset leaves is what a cold one leaves, but for registers. -/
theorem holdReset_eq : ∃ r, h.holdReset = { h.resetState false with regs := r } := by
  have settings (l : List FieldRow) (k : Nat) (v : W64) (g : Hub) : ∃ r, l.foldl (fun (g : Hub) f =>
      g.setReg k (BitVec.ofNat 64 (setBits (g.reg k).toNat f.hi f.lo (bitsOf v.toNat f.hi f.lo)))) g = { g with regs := r } := by
    induction l generalizing g with
    | nil => exact ⟨g.regs, rfl⟩
    | cons f l ih =>
      obtain ⟨r, e⟩ := ih (g.setReg k (BitVec.ofNat 64 (setBits (g.reg k).toNat f.hi f.lo (bitsOf v.toNat f.hi f.lo))))
      exact ⟨r, e⟩
  unfold holdReset
  generalize h.regs = l
  generalize h.resetState false = g
  induction l generalizing g with
  | nil => exact ⟨g.regs, rfl⟩
  | cons e l ih =>
    rw [List.foldl_cons]
    split
    · exact ih g
    · next q _ =>
      obtain ⟨r, er⟩ := settings (pwrSettings q) e.1 e.2 g
      rw [er]
      obtain ⟨x, ex⟩ := ih { g with regs := r }
      exact ⟨x, ex⟩

theorem powerLost_dead (cause : Nat) (hl : ¬ h.live) : h.powerLost cause = h := by
  refine if_pos ?_
  rw [Bool.or_eq_true, Bool.not_eq_true']
  by_cases ho : h.pw.off = true
  · exact .inl ho
  · exact .inr (Bool.eq_false_iff.2 fun hk => hl ⟨Bool.eq_false_iff.2 ho, hk⟩)

/-- The copy of the black box, the reset and the rails: what ends every loss. -/
theorem rails_down (x : Hub) (code : Nat) (ht : x.nt = h.nt) (hp : x.pw = h.pw) :
    WentDown { (x.lossCopy code).holdReset with pw := { (x.lossCopy code).holdReset.pw with ok := false, off := true, windows := [] } } h := by
  have copied := still_lossCopy x code
  obtain ⟨r, reset⟩ := holdReset_eq (x.lossCopy code)
  have inputs : (x.lossCopy code).pw.inReg = h.pw.inReg := by rw [pw_of_still copied, hp]
  rw [reset]
  exact ⟨rfl, rfl, rfl, rfl, rfl, inputs, (nt_of_still copied).trans ht⟩

theorem powerLost_live (cause : Nat) (hl : h.live) : WentDown (h.powerLost cause) h := by
  obtain ⟨ho, hk⟩ := hl
  obtain ⟨g, drained⟩ := tunDrain_eq ((((h.devEv 0x0810 4 cause).p F.PWRSTAT_ploss 1).fresh.2).inc F.PWRLOSSES_count)
    (((h.devEv 0x0810 4 cause).p F.PWRSTAT_ploss 1).fresh.1.getLsbD 0)
  unfold powerLost
  rw [if_neg (by rw [ho, hk]; decide)]
  dsimp only
  rw [drained]
  refine rails_down h _ _ ?_ ?_ <;> split <;> rfl

end

namespace WentDown

variable {u h k : Hub}

/-- What is down stays so under what changes neither sessions nor rails. -/
theorem after {v : Hub} (e : WentDown u h) (pw : v.pw.off = u.pw.off ∧ v.pw.ok = u.pw.ok ∧ v.pw.inReg = u.pw.inReg) (hs : v.sess = u.sess)
    (hq : v.hopq = u.hopq) (hb : v.hubBad = u.hubBad) (ht : v.nt = u.nt) : WentDown v h :=
  ⟨pw.1.trans e.off, pw.2.1.trans e.ok, hs.trans e.sess, hq.trans e.hopq, hb.trans e.good, pw.2.2.trans e.inReg, ht.trans e.nt⟩

theorem of (e : WentDown u h) (pw : h.pw.inReg = k.pw.inReg) (ht : h.nt = k.nt) : WentDown u k :=
  ⟨e.off, e.ok, e.sess, e.hopq, e.good, e.inReg.trans pw, e.nt.trans ht⟩

end WentDown

/-! ### Readings (R468, R469) -/

section
variable (h : Hub) (k v : Nat)

theorem still_showTemp : (h.showTemp k v).still = h.still := by
  unfold showTemp
  split <;> rfl

/-- The hub once a reading is shown, with the warning that it gives. -/
def felt : Hub :=
  let g := h.showTemp k v
  if v < g.warnAt k || (g.on F.PWRSTAT_tj_warn && decide (g.warnAt k ≤ h.tempOf k)) then g
  else ((g.p F.PWRSTAT_tj_warn 1).devEv 0x0812 4 (k + min v 255 * 256)).signal 34

theorem still_felt : (h.felt k v).still = h.still := by
  unfold felt
  dsimp only
  split
  · exact still_showTemp h k v
  · rw [still_signal, still_devEv, still_p]
    exact still_showTemp h k v

theorem pw_felt : (h.felt k v).pw = h.pw := pw_of_still (still_felt h k v)

theorem sensed_eq : h.sensed k v = if tripAt k ≤ v ∧ !h.pw.trip then (h.felt k v).thermTrip else h.felt k v := by
  have same : (h.felt k v).pw = h.pw := pw_felt h k v
  have e : h.sensed k v = if tripAt k ≤ v ∧ !(h.felt k v).pw.trip then (h.felt k v).thermTrip else h.felt k v := by
    unfold sensed felt injBit
    rw [if_neg Bool.false_ne_true, Nat.add_zero]
  rw [e, same]

theorem sensed_stays (hn : v < tripAt k ∨ h.pw.trip = true) : h.sensed k v = h.felt k v := by
  rw [sensed_eq]
  refine if_neg ?_
  rintro ⟨high, armed⟩
  rcases hn with hn | hn
  · omega
  · rw [hn] at armed
    exact Bool.false_ne_true armed

theorem sensed_trips (hv : tripAt k ≤ v) (ht : h.pw.trip = false) : h.sensed k v = (h.felt k v).thermTrip := by
  rw [sensed_eq]
  exact if_pos ⟨hv, by rw [ht]; rfl⟩

/-- The trip of a module that is up takes its power. -/
theorem thermTrip_live (hl : h.live) : WentDown h.thermTrip h ∧ h.thermTrip.pw.trip = true := by
  have down := powerLost_live ((h.p F.PWRSTAT_ttrip 1).inc F.PWRTRIPS_count) 5 hl
  exact ⟨(down.after (v := h.thermTrip) ⟨rfl, rfl, rfl⟩ rfl rfl rfl rfl).of rfl rfl, rfl⟩

theorem thermTrip_dead (hl : ¬ h.live) : h.thermTrip =
    (let u := (h.p F.PWRSTAT_ttrip 1).inc F.PWRTRIPS_count
     { u with pw := { u.pw with trip := true, tripPerst := u.pw.tripPerst || u.pw.perst } }) := by
  unfold thermTrip
  dsimp only
  rw [powerLost_dead ((h.p F.PWRSTAT_ttrip 1).inc F.PWRTRIPS_count) 5 hl]

/-- A known sensor: a die or a stack. -/
theorem sensorKnown_iff : sensorKnown k = true ↔ k < 5 ∨ (8 ≤ k ∧ k < 16) := by
  simp [sensorKnown]

theorem measured_known (hk : k < 5 ∨ (8 ≤ k ∧ k < 16)) : h.measured k v = h.sensed k (v + h.offsetOf k) :=
  if_pos ((sensorKnown_iff k).2 hk)

theorem measured_unknown (hk : ¬ (k < 5 ∨ (8 ≤ k ∧ k < 16))) : h.measured k v = h := if_neg (mt (sensorKnown_iff k).1 hk)

end

/-- The reduction's bookkeeping stays on a module that is down. -/
theorem WentDown.capPass {u h : Hub} (e : WentDown u h) : WentDown u.capPass h ∧ u.capPass.pw.trip = u.pw.trip := by
  unfold Hub.capPass
  dsimp only
  split
  · split
    · exact ⟨e, rfl⟩
    · have still := still_signal (u.p F.PWRSTAT_capping 1) 34
      have pw : ((u.p F.PWRSTAT_capping 1).signal 34).pw = u.pw := pw_of_still still
      refine ⟨e.after ⟨by rw [pw], by rw [pw], by rw [pw]⟩ (sess_of_still still) (hopq_of_still still) ?_ (nt_of_still still), by rw [pw]⟩
      exact hubBad_of_calm (calm_signal _ _)
  · split
    · exact ⟨e.after ⟨rfl, rfl, rfl⟩ rfl rfl rfl rfl, rfl⟩
    · exact ⟨e, rfl⟩

/-! ### The governor (R463 to R466) -/

section
variable (h : Hub)

theorem brakePass_follows : h.brakePass =
    (let asked := (h.pw.brkPin || h.pw.brkInj.isSome) && h.on F.PWRCTL_brk_en
     let u := (((h.p F.PWRSTAT_braking 1).devEv 0x0813 4 0).inc F.PWRBRKS_count).setMv 650
     if asked && !h.on F.PWRSTAT_braking then { u with pw := { u.pw with hold := true } }
     else if !asked && h.on F.PWRSTAT_braking then h.p F.PWRSTAT_braking 0 else h) := by
  unfold brakePass injBit
  rw [if_neg Bool.false_ne_true]
  rfl

theorem stone_mv_setMv (v : Nat) : (h.setMv v).g F.PWRVCORE_stone_mv = v % 1024 :=
  (g_p_ne _ F.PWRVCORE_hub_mv F.PWRVCORE_stone_mv v (by decide) (by decide)).trans (g_p_same h F.PWRVCORE_stone_mv v (by decide))

theorem stone_mv_lt : h.g F.PWRVCORE_stone_mv < 1024 := Nat.mod_lt _ (by decide)

/-- A step while the average is above the target or a die is warm. -/
theorem vcoreStep_hot (hot : h.overTarget = true ∨ h.on F.PWRSTAT_tj_warn = true) : h.vcoreStep =
    if ¬ h.pw.lastV.toNat + 100000 ≤ h.nt.toNat then h
    else
      let g := ({ h with pw := { h.pw with lastV := h.nt } } : Hub).setMv (max 650 (h.g F.PWRVCORE_stone_mv - 5))
      if g.g F.PWRVCORE_stone_mv = 650 then { g with pw := { g.pw with hold := true } } else g := by
  unfold vcoreStep
  dsimp only
  rw [if_pos ((Bool.or_eq_true _ _).mpr hot)]
  by_cases late : h.pw.lastV.toNat + 100000 ≤ h.nt.toNat
  · rw [if_neg (by rw [decide_eq_true late]; decide), if_neg (not_not.2 late)]
  · rw [if_pos (by rw [decide_eq_false late]; rfl), if_pos late]

/-- The hold of grain issue ends where the average is below the target. -/
def letGo : Hub := if h.pw.hold && decide (h.avgPower < h.powerTarget) then { h with pw := { h.pw with hold := false } } else h

/-- Any other step. -/
theorem vcoreStep_cool (cool : ¬ (h.overTarget = true ∨ h.on F.PWRSTAT_tj_warn = true)) : h.vcoreStep =
    let up (mv : Nat) : Hub := ({ h.letGo with pw := { h.letGo.pw with lastV := h.nt } } : Hub).setMv mv
    if h.letGo.modeMv < h.g F.PWRVCORE_stone_mv then (up h.letGo.modeMv).capPass
    else if h.letGo.underTarget && decide (h.g F.PWRVCORE_stone_mv < h.letGo.modeMv) && decide (h.pw.lastV.toNat + 1000000 ≤ h.nt.toNat) then
      (up (min h.letGo.modeMv (h.g F.PWRVCORE_stone_mv + 5))).capPass
    else h.letGo.capPass := by
  unfold vcoreStep
  dsimp only
  rw [if_neg (mt (Bool.or_eq_true _ _).mp cool)]
  rfl

end

end Hub

/-! ### The commands -/

section
variable {c : Instr} {tm : Nt} {s : State} {f : Hub → Hub} {h u : Hub}

/-- A command of the module that leaves its power as it is. -/
theorem module_quiet (he : exec c s = onModule tm f s) (hu : f (s.hub.stamp tm) = u) :
    EndsWith c s u (if (Hub.finish s.hub u).pw.off then {} else s.stn) :=
  he.trans (onModule_next hu)

/-- A command of the module that takes its power. -/
theorem module_down {P : State → Prop} (he : exec c s = onModule tm f s) (hu : f (s.hub.stamp tm) = u) (d : WentDown u h)
    (hp : P { s with hub := Hub.finish s.hub u, stn := {} }) : DownAfter c s P := by
  have pw : (finish s.hub u).pw = u.pw := pw_finish u s.hub
  obtain ⟨n, o, e⟩ := finish_eq u s.hub d.good
  refine ⟨{ s with hub := Hub.finish s.hub u, stn := {} }, ?_, ?_, ?_, ?_, ?_, rfl, rfl, hp⟩
  · rw [he, onModule_next hu, if_pos (by rw [pw, d.off])]
  · rw [pw, d.off]
  · rw [pw, d.ok]
  · rw [e]
    exact d.sess
  · rw [e]
    exact d.hopq

end

/-- What remains of the inputs and of node time once the power has gone. -/
theorem Hub.WentDown.remains {u h : Hub} (d : WentDown u h) (old : Hub) : (finish old u).pw.inReg = h.pw.inReg ∧ (finish old u).nt = h.nt :=
  ⟨(congrArg Power.inReg (pw_finish u old)).trans d.inReg, (nt_finish u old).trans d.nt⟩

/-! ### Supplies -/

section
variable {tm : Nt} {s : State} {h : Hub} (hh : s.hub.stamp tm = h)
include hh

theorem powerLoss_down {cause : BitVec 3} (hc : cause.toNat < 4) (hl : h.live) : DownAfter (.powerLoss tm cause) s (fun t =>
    t.hub.pw.inReg = BitVec.ofNat 4 (setBits h.pw.inReg.toNat cause.toNat cause.toNat 0) ∧ t.hub.nt = h.nt) := by
  subst hh
  have down := powerLost_live { s.hub.stamp tm with pw := { (s.hub.stamp tm).pw with
    inReg := BitVec.ofNat 4 (setBits (s.hub.stamp tm).pw.inReg.toNat cause.toNat cause.toNat 0) } } cause.toNat hl
  exact module_down (f := fun h => if cause.toNat < 4 then h.inputDown cause.toNat else h) rfl (if_pos hc) down (down.remains s.hub)

theorem powerLoss_quiet {cause : BitVec 3} {u : Hub} (hu : (if cause.toNat < 4 then h.inputDown cause.toNat else h) = u) :
    EndsWith (.powerLoss tm cause) s u (if (Hub.finish s.hub u).pw.off then {} else s.stn) := by
  subst hh
  exact module_quiet (f := fun h => if cause.toNat < 4 then h.inputDown cause.toNat else h) rfl hu

theorem fuseOpen_down {i : BitVec 2} (hl : h.live) : DownAfter (.fuseOpen tm i) s (fun t =>
    (t.hub.pw.inReg = h.pw.inReg ∧ t.hub.nt = h.nt) ∧ t.hub.on F.PWRSTAT_in_fault = true) := by
  subst hh
  have down : WentDown (((s.hub.stamp tm).powerLost 4).p F.PWRSTAT_in_fault 1) (s.hub.stamp tm) :=
    (powerLost_live (s.hub.stamp tm) 4 hl).after ⟨rfl, rfl, rfl⟩ rfl rfl rfl rfl
  refine module_down (f := fun h => (h.powerLost 4).p F.PWRSTAT_in_fault 1) rfl rfl down ⟨down.remains s.hub, ?_⟩
  exact (on_finish _ _ _ (by decide)).trans (on_p_same _ F.PWRSTAT_in_fault (by decide))

theorem fuseOpen_quiet {i : BitVec 2} (hl : ¬ h.live) :
    EndsWith (.fuseOpen tm i) s (h.p F.PWRSTAT_in_fault 1) (if (Hub.finish s.hub (h.p F.PWRSTAT_in_fault 1)).pw.off then {} else s.stn) := by
  subst hh
  exact module_quiet (f := fun h => (h.powerLost 4).p F.PWRSTAT_in_fault 1) rfl (by rw [powerLost_dead _ 4 hl])

theorem powerRestart_ends {u : Hub} (hu : (if h.pw.off && decide (h.pw.inReg = 0xF) && !h.pw.trip then
    { h.resetState false with pw := { (h.resetState false).pw with off := false, ok := true } } else h) = u) : Ends (.powerRestart tm) s u := by
  show execPowerRestart tm s = _
  exact onHub_ends hh hu

/-! ### Sensors -/

theorem tjWarn_quiet {k : BitVec 4} {v : BitVec 8} {u : Hub} (hu : h.measured k.toNat v.toNat = u) :
    EndsWith (.tjWarn tm k v) s u.capPass (if (Hub.finish s.hub u.capPass).pw.off then {} else s.stn)
    ∧ EndsWith (.thermalTrip tm k v) s u (if (Hub.finish s.hub u).pw.off then {} else s.stn) := by
  subst hh hu
  exact ⟨module_quiet (f := fun h => (h.measured k.toNat v.toNat).capPass) rfl rfl,
    module_quiet (f := fun h => h.measured k.toNat v.toNat) rfl rfl⟩

theorem trip_down {k : BitVec 4} {v : BitVec 8} {u : Hub} (hu : h.measured k.toNat v.toNat = u) (d : WentDown u h) (ht : u.pw.trip = true) :
    DownAfter (.thermalTrip tm k v) s (fun t => (t.hub.pw.inReg = h.pw.inReg ∧ t.hub.nt = h.nt) ∧ t.hub.pw.trip = true)
    ∧ DownAfter (.tjWarn tm k v) s (fun t => (t.hub.pw.inReg = h.pw.inReg ∧ t.hub.nt = h.nt) ∧ t.hub.pw.trip = true) := by
  have capped := d.capPass
  have tripped (x : Hub) (hx : x.pw.trip = true) : (finish s.hub x).pw.trip = true := by rw [pw_finish, hx]
  subst hh hu
  exact ⟨module_down (f := fun h => h.measured k.toNat v.toNat) rfl rfl d ⟨d.remains s.hub, tripped _ ht⟩,
    module_down (f := fun h => (h.measured k.toNat v.toNat).capPass) rfl rfl capped.1 ⟨capped.1.remains s.hub, tripped _ (capped.2.trans ht)⟩⟩

/-- The dies and stacks one by one. -/
theorem tjWarnClear_ends {degc : List (BitVec 8)} {u : Hub} (hu : (if (List.range 5).all (fun d => decide ((h.measuredAll degc).tempOf d + 3 ≤ (h.measuredAll degc).tjWarnAt))
      && (List.range 8).all (fun k => decide ((h.measuredAll degc).tempOf (8 + k) < 92))
    then ((h.measuredAll degc).p F.PWRSTAT_tj_warn 0).capPass else h.measuredAll degc) = u) : Ends (.tjWarnClear tm degc) s u := by
  show execTjWarnClear tm degc s = _
  exact onHub_ends hh hu

theorem tripRecovery_ends {degc : List (BitVec 8)} {u : Hub} (hu : (let g := h.measuredAll degc
    if g.pw.trip && g.pw.off && g.pw.tripPerst && ([0, 1, 2, 3, 4] ++ (List.range 8).map (· + 8)).all (fun k => decide (g.tempOf k + 10 ≤ g.tjWarnAt))
      && decide (g.pw.inReg = 0xF) then { g.resetState false with pw := { (g.resetState false).pw with off := false, ok := true } } else g) = u) :
    Ends (.tripRecovery tm degc) s u := by
  show execTripRecovery tm degc s = _
  exact onHub_ends hh hu

/-! ### Tokens and the governor -/

theorem wakeGrant_waits (hw : firstReq h.pw.reqs = none ∨ h.pw.tokens ≤ 0 ∨ h.nt < h.pw.grantAt) : exec (.wakeGrant tm) s = .next { s with hub := h } := by
  show execWakeGrant tm s = _
  unfold execWakeGrant
  dsimp only
  rw [hh]
  split
  · rfl
  · next r hr =>
    refine if_pos (hw.resolve_left ?_)
    rw [hr]
    exact Option.some_ne_none r

theorem powerWindow_ends {ins : List (BitVec 16 × BitVec 16 × BitVec 16)} {u : Hub} (hu : (if h.pw.off then h else h.powerWindow ins) = u) :
    Ends (.powerWindow tm ins) s u := by
  show execPowerWindow tm ins s = _
  exact onHub_ends hh hu

theorem vcoreStep_ends {u : Hub} (hu : (if h.pw.off || !h.stage 0 then h else h.vcoreStep) = u) : Ends (.vcoreStep tm) s u := by
  show execVcoreStep tm s = _
  exact onHub_ends hh hu

end

/-! ### A cluster domain that wakes (R464) -/

theorem smGet_smDel_all {β : Type} (d : β) (ls : List Nat) (m : SMap β) (k : Nat) :
    smGet d (ls.foldl (fun m l => smDel m l) m) k = if k ∈ ls then d else smGet d m k := by
  induction ls generalizing m with
  | nil => rfl
  | cons l ls ih =>
    rw [List.foldl_cons, ih]
    by_cases hk : k ∈ ls
    · rw [if_pos hk, if_pos (List.mem_cons_of_mem l hk)]
    · rw [if_neg hk]
      unfold smGet
      by_cases e : k = l
      · rw [if_pos (e ▸ List.mem_cons_self), e, smLook_smDel_same]
        rfl
      · rw [if_neg (by rw [List.mem_cons]; exact not_or.2 ⟨e, hk⟩), smLook_smDel_ne _ _ _ e]

/-- The stones of a list of clusters. -/
theorem mem_clusterStones (cs : List Nat) (n : Nat) : n ∈ (cs.map (fun c => (List.range 32).map (fun k => 32 * c + k))).flatten ↔ n / 32 ∈ cs := by
  rw [List.mem_flatten]
  constructor
  · rintro ⟨l, hl, hn⟩
    obtain ⟨c, hc, rfl⟩ := List.mem_map.1 hl
    obtain ⟨k, hk, rfl⟩ := List.mem_map.1 hn
    have small := List.mem_range.1 hk
    rwa [show (32 * c + k) / 32 = c by omega]
  · intro hc
    exact ⟨_, List.mem_map.2 ⟨n / 32, hc, rfl⟩, List.mem_map.2 ⟨n % 32, List.mem_range.2 (by omega), by omega⟩⟩

theorem wakeGrant_grants {tm : Nt} {s : State} {r : Nt × Nat} (hr : firstReq (s.hub.stamp tm).pw.reqs = some r) (ht : 0 < (s.hub.stamp tm).pw.tokens)
    (ha : (s.hub.stamp tm).pw.grantAt ≤ (s.hub.stamp tm).nt) : Answers (.wakeGrant tm) s (fun t =>
      t.hub = ({ s.hub.stamp tm with pw := { (s.hub.stamp tm).pw with reqs := (s.hub.stamp tm).pw.reqs.erase r } } : Hub).grant r.2
      ∧ (∀ l : BitVec 11, t.stn.get l = if 24 ≤ r.2 ∧ s.hub.powered r.2 = false ∧ l.toNat / 32 ∈ Hub.domClusters r.2 then {} else s.stn.get l)
      ∧ t.pending = s.pending) := by
  have ends : exec (.wakeGrant tm) s = .next
      { s with
        hub := ({ s.hub.stamp tm with pw := { (s.hub.stamp tm).pw with reqs := (s.hub.stamp tm).pw.reqs.erase r } } : Hub).grant r.2
        stn := { s.stn with st := (if decide (24 ≤ r.2) && !s.hub.powered r.2
          then ((Hub.domClusters r.2).map (fun c => (List.range 32).map (fun k => 32 * c + k))).flatten else []).foldl (fun m l => smDel m l) s.stn.st } } := by
    show execWakeGrant tm s = _
    unfold execWakeGrant
    dsimp only
    rw [hr]
    refine if_neg (not_or.2 ⟨by omega, ?_⟩)
    exact BitVec.not_lt.2 ha
  refine ⟨_, ends, rfl, fun l => ?_, rfl⟩
  · show smGet ({} : Stone) _ l.toNat = _
    rw [smGet_smDel_all]
    by_cases off : 24 ≤ r.2 ∧ s.hub.powered r.2 = false
    · obtain ⟨hi, ho⟩ := off
      rw [if_pos (c := (_ && _) = true) (by rw [decide_eq_true hi, ho]; rfl)]
      by_cases hm : l.toNat / 32 ∈ domClusters r.2
      · rw [if_pos ((mem_clusterStones _ _).2 hm), if_pos ⟨hi, ho, hm⟩]
      · rw [if_neg (mt (mem_clusterStones _ _).1 hm), if_neg fun e => hm e.2.2]
        rfl
    · rw [if_neg (c := (_ && _) = true), if_neg List.not_mem_nil, if_neg fun e => off ⟨e.1, e.2.1⟩]
      · rfl
      · rw [Bool.and_eq_true, decide_eq_true_eq, Bool.not_eq_true']
        exact off

/-! ### The clauses -/

section
variable {tm : Nt} {s : State} {h : Hub} (hh : s.hub.stamp tm = h)
include hh

theorem pwrbrkAssert_ends : Ends (.pwrbrkAssert tm) s ({ h with pw := { h.pw with brkPin := true } } : Hub).brakePass := by
  show execPwrbrkAssert tm s = _
  exact onHub_ends hh rfl

theorem pwrbrkDeassert_ends : Ends (.pwrbrkDeassert tm) s ({ h with pw := { h.pw with brkPin := false } } : Hub).brakePass := by
  show execPwrbrkDeassert tm s = _
  exact onHub_ends hh rfl

theorem inputInRegulation_ends (i : BitVec 2) : Ends (.inputInRegulation tm i) s (h.inputUp i.toNat) := by
  show execInputInRegulation tm i s = _
  exact onHub_ends hh rfl

theorem tokenRefill_ends : Ends (.tokenRefill tm) s { h with pw := { h.pw with
    tokens := min (max 36 (h.g F.PWRSLEW_burst) : Nat) (h.pw.tokens + (max 1 (h.g F.PWRSLEW_rate) : Nat)) } } := by
  show execTokenRefill tm s = _
  exact onHub_ends hh rfl

end

namespace Hub

variable (h : Hub)

/-- Every die and every stack is cold: no reading warns. -/
theorem cold_iff : ((List.range 5).all (fun d => decide (h.tempOf d + 3 ≤ h.tjWarnAt))
      && (List.range 8).all (fun k => decide (h.tempOf (8 + k) < 92))) = true
    ↔ (∀ d, d < 5 → h.tempOf d + 3 ≤ h.tjWarnAt) ∧ (∀ k, k < 8 → h.tempOf (8 + k) < 92) := by
  simp only [Bool.and_eq_true, List.all_eq_true, List.mem_range, decide_eq_true_eq]

theorem cool_iff : ([0, 1, 2, 3, 4] ++ (List.range 8).map (· + 8)).all (fun k => decide (h.tempOf k + 10 ≤ h.tjWarnAt)) = true
    ↔ (∀ d, d < 5 → h.tempOf d + 10 ≤ h.tjWarnAt) ∧ (∀ k, k < 8 → h.tempOf (8 + k) + 10 ≤ h.tjWarnAt) := by
  have dies : ([0, 1, 2, 3, 4] : List Nat) = List.range 5 := by decide
  simp only [dies, List.all_append, List.all_map, Bool.and_eq_true, List.all_eq_true, List.mem_range, decide_eq_true_eq, Function.comp, Nat.add_comm _ 8]

end Hub

/-- Settles O57, by one law for each command: what takes the power leaves the module down, the rest ends with its hub. -/
theorem powerAndSupplies : Obligations.PowerAndSupplies := by
  intro tm s h pw live lost known shown quiet from_ again brake felt
  have hh : s.hub.stamp tm = h := rfl
  refine ⟨?inputs, ?loss, ?noInput, ?fuse, ?restart, ?noRestart, ?brake, ?release, ?sensor, ?unknown, ?dies, ?refill, ?grant, ?noGrant,
    ?noWindow, ?window, ?noStep, ?step⟩
  case inputs => exact inputInRegulation_ends hh
  case loss =>
    intro cause hc
    refine ⟨fun hl => ?_, fun hl => powerLoss_quiet hh ?_⟩
    · obtain ⟨t, ends, off, ok, sess, hopq, stn, queue, inReg, nt⟩ := powerLoss_down hh hc hl
      exact ⟨t, ends, off, ok, sess, hopq, stn, queue, inReg.trans (if_pos hc).symm, nt⟩
    · rw [if_pos hc]
      exact powerLost_dead _ cause.toNat hl
  case noInput => exact fun cause hc => powerLoss_quiet hh (if_neg (by omega))
  case fuse => exact fun i => ⟨fun hl => fuseOpen_down hh hl, fun hl => fuseOpen_quiet hh hl⟩
  case restart =>
    intro off inputs trip
    exact powerRestart_ends hh (if_pos (by rw [off, inputs, trip]; rfl))
  case noRestart =>
    intro why
    refine powerRestart_ends hh (if_neg ?_)
    rw [Bool.and_eq_true, Bool.and_eq_true, decide_eq_true_eq, Bool.not_eq_true']
    rintro ⟨⟨off, inputs⟩, trip⟩
    rw [off, trip] at why
    simp [inputs] at why
  case brake =>
    have e := pwrbrkAssert_ends hh
    rwa [brakePass_follows] at e
  case release =>
    have e := pwrbrkDeassert_ends hh
    rwa [brakePass_follows] at e
  case sensor =>
    intro k v hk x u tripped
    have read := measured_known h k.toNat v.toNat hk
    refine ⟨fun low => tjWarn_quiet hh (read.trans (sensed_stays h _ _ low)), fun high armed up => ?_, fun high armed dead => ?_⟩
    · have same : (h.felt k.toNat x).pw = h.pw := pw_felt h k.toNat x
      obtain ⟨down, trip⟩ := thermTrip_live (h.felt k.toNat x) (by unfold Hub.live; rwa [same])
      refine trip_down hh (read.trans (sensed_trips h _ _ high armed)) (down.of (congrArg Power.inReg same) ?_) trip
      exact nt_of_still (still_felt h k.toNat x)
    · have same : (h.felt k.toNat x).pw = h.pw := pw_felt h k.toNat x
      refine tjWarn_quiet hh (read.trans ((sensed_trips h _ _ high armed).trans (thermTrip_dead _ ?_)))
      unfold Hub.live
      rwa [same]
  case unknown => exact fun k v hk => tjWarn_quiet hh (measured_unknown h _ _ hk)
  case dies =>
    intro degc g cold cool
    refine ⟨fun hc => tjWarnClear_ends hh (if_pos ((cold_iff g).2 hc)), fun hc => tjWarnClear_ends hh (if_neg (mt (cold_iff g).1 hc)),
      fun trip off perst inputs hc => tripRecovery_ends hh (if_pos ?_), fun why => tripRecovery_ends hh (if_neg ?_)⟩
    · rw [show h.measuredAll degc = g from rfl, trip, off, perst, inputs, (cool_iff g).2 hc]
      rfl
    · simp only [Bool.and_eq_true, decide_eq_true_eq]
      rintro ⟨⟨⟨⟨trip, off⟩, perst⟩, all⟩, inputs⟩
      have hc : cool := (cool_iff g).1 all
      have trip' : g.pw.trip = true := trip
      have off' : g.pw.off = true := off
      have perst' : g.pw.tripPerst = true := perst
      have inputs' : g.pw.inReg = 0xF := inputs
      simp [trip', off', perst', inputs', hc] at why
  case refill => exact tokenRefill_ends hh
  case grant =>
    intro r hr ht ha
    exact wakeGrant_grants hr ht ha
  case noGrant => exact wakeGrant_waits hh
  case noWindow => exact fun ins off => powerWindow_ends hh (if_pos off)
  case window =>
    intro ins on v w g g'
    exact powerWindow_ends hh (if_neg (by rw [on]; exact Bool.false_ne_true))
  case noStep =>
    intro why
    refine vcoreStep_ends hh (if_pos ?_)
    rcases why with off | idle
    · rw [off]; rfl
    · rw [idle]; exact Bool.or_true _
  case step =>
    intro on up0 v at_ hot let_ up rises
    have steps {u : Hub} (hu : h.vcoreStep = u) : Ends (.vcoreStep tm) s u := by
      refine vcoreStep_ends hh ((if_neg ?_).trans hu)
      rw [on, up0]
      exact Bool.false_ne_true
    have small : v < 1024 := stone_mv_lt h
    have set (g : Hub) (mv : Nat) (hm : mv < 1024) : (g.setMv mv).g F.PWRVCORE_stone_mv = mv := (stone_mv_setMv g mv).trans (Nat.mod_eq_of_lt hm)
    refine ⟨fun hc early => steps ?_, fun hc late high => steps ?_, fun hc late low => steps ?_, fun hc above => steps ?_,
      fun hc below rise => steps ?_, fun hc below rest => steps ?_⟩
    · rw [vcoreStep_hot h hc, if_pos (by omega)]
    · have lower : max 650 (h.g F.PWRVCORE_stone_mv - 5) = v - 5 := by
        show max 650 (v - 5) = v - 5
        omega
      rw [vcoreStep_hot h hc, if_neg (by omega), lower]
      dsimp only
      rw [set _ _ (by omega), if_neg (by omega)]
    · have lowest : max 650 (h.g F.PWRVCORE_stone_mv - 5) = 650 := by
        show max 650 (v - 5) = 650
        omega
      rw [vcoreStep_hot h hc, if_neg (by omega), lowest]
      dsimp only
      rw [set _ _ (by omega), if_pos rfl]
      rfl
    · rw [vcoreStep_cool h hc]
      exact if_pos above
    · obtain ⟨under, under', late⟩ := rise
      rw [vcoreStep_cool h hc]
      refine (if_neg (Nat.not_lt.2 below)).trans (if_pos ?_)
      rw [show h.letGo.underTarget = true from under, decide_eq_true (show h.g F.PWRVCORE_stone_mv < h.letGo.modeMv from under'), decide_eq_true late]
      rfl
    · rw [vcoreStep_cool h hc]
      refine (if_neg (Nat.not_lt.2 below)).trans (if_neg ?_)
      rw [Bool.and_eq_true, Bool.and_eq_true, decide_eq_true_eq, decide_eq_true_eq]
      exact fun e => rest ⟨e.1.1, e.1.2, e.2⟩

end Sys2Proof.Machine
end

section
/-! Resets (O58). -/

namespace Sys2Proof.Machine

open Hub

namespace Hub

/-! ### What frees objects of the Granary (R294 to R296) -/

/-- Hub `u` is `h` but for the Granary controller's state. -/
def GrOnly (u h : Hub) : Prop := ∃ g, u = { h with gr := g }

section
variable (h : Hub)

theorem GrOnly.refl : GrOnly h h := ⟨h.gr, rfl⟩

theorem GrOnly.trans {a b c : Hub} (e : GrOnly a b) (e' : GrOnly b c) : GrOnly a c := by
  obtain ⟨g, rfl⟩ := e
  obtain ⟨g', rfl⟩ := e'
  exact ⟨g, rfl⟩

theorem GrOnly.foldl {α : Type} (f : Hub → α → Hub) (hf : ∀ h x, GrOnly (f h x) h) (l : List α) : GrOnly (l.foldl f h) h := by
  induction l generalizing h with
  | nil => exact .refl h
  | cons x l ih => exact (ih (f h x)).trans (hf h x)

theorem modG_only (f : Gran → Gran) : GrOnly (h.modG f) h := ⟨f h.gr, rfl⟩

theorem touchPage_only (u : Nat) : GrOnly (h.touchPage u) h := by
  unfold touchPage
  dsimp only
  split
  · exact modG_only h _
  · exact .refl h

theorem journalMap_only (u : Nat) (old : BitVec 32) : GrOnly (h.journalMap u old) h :=
  (touchPage_only _ u).trans (modG_only h _)

theorem admitTun_only (n : Nat) : GrOnly (h.admitTun n) h := by
  induction n generalizing h with
  | zero => exact .refl h
  | succ n ih =>
    unfold admitTun
    split
    · exact .refl h
    · exact (ih _).trans (modG_only h _)

theorem dropUnits_only (us : List Nat) : GrOnly (h.dropUnits us) h :=
  (admitTun_only _ _).trans ((GrOnly.foldl _ _ (fun g (e : Nat × BitVec 32) => journalMap_only g e.1 e.2) _).trans (modG_only h _))

theorem grnFree_only (key n : Nat) : GrOnly (h.grnFree key n) h := by
  induction n generalizing h key with
  | zero => exact .refl h
  | succ n ih =>
    have dropped (us : List Nat) (f : Gran → Gran) : GrOnly ((h.dropUnits us).modG f) h := (modG_only _ f).trans (dropUnits_only h us)
    unfold grnFree
    split
    · exact .refl h
    · dsimp only
      split
      · split
        · exact dropped _ _
        · split
          · exact (ih _ _).trans (dropped _ _)
          · exact dropped _ _
      · exact dropped _ _

theorem freeKinds_only (ks : List Nat) : GrOnly (h.freeKinds ks) h := by
  have freed : GrOnly ((h.gr.objs.filter (fun e => ks.contains (e.1 / 2 ^ 72 % 256))).foldl (fun h e => h.grnFree e.1 h.gr.objs.length) h) h :=
    .foldl h _ (fun g (e : Nat × GObj) => grnFree_only g e.1 _) _
  unfold freeKinds
  dsimp only
  split
  · exact (modG_only _ _).trans freed
  · exact freed

/-! ### The start of the module (R463, R479) -/

/-- Hub `u` is `h` once domains have asked for tokens. -/
structure Asked (u h : Hub) : Prop where
  hub : ∃ r t q a, u = { h with regs := r, pw := { h.pw with tokens := t, reqs := q, grantAt := a } }
  regs : ∀ a, a ≠ F.PWRDOM_on.a → a ≠ F.PWRWAKEDLY_count.a → u.reg a = h.reg a

theorem Asked.refl : Asked h h := ⟨⟨h.regs, h.pw.tokens, h.pw.reqs, h.pw.grantAt, rfl⟩, fun _ _ _ => rfl⟩

theorem Asked.trans {a b c : Hub} (e : Asked a b) (e' : Asked b c) : Asked a c := by
  obtain ⟨⟨r, t, q, n, rfl⟩, regs⟩ := e
  obtain ⟨⟨r', t', q', n', rfl⟩, regs'⟩ := e'
  exact ⟨⟨r, t, q, n, rfl⟩, fun a d w => (regs a d w).trans (regs' a d w)⟩

theorem grant_asked (d : Nat) : Asked (h.grant d) h := by
  unfold grant
  dsimp only
  split
  · exact ⟨⟨h.regs, _, h.pw.reqs, h.pw.grantAt, rfl⟩, fun _ _ _ => rfl⟩
  · exact ⟨⟨_, _, h.pw.reqs, h.pw.grantAt, rfl⟩, fun a hd _ => reg_p_ne _ F.PWRDOM_on _ hd⟩

variable (hi : h.inj = [])
include hi

theorem wake_asked (d : Nat) : Asked (h.wake d) h := by
  unfold wake
  split
  · exact .refl h
  · unfold token
    split
    · exact .refl h
    · rw [fireAt_unarmed h hi]
      dsimp only
      split
      · exact grant_asked h d
      · exact ⟨⟨_, h.pw.tokens, _, h.pw.grantAt, rfl⟩, fun a _ hw => reg_inc_ne _ F.PWRWAKEDLY_count 1 hw⟩

theorem wakes_asked (ds : List Nat) : Asked (ds.foldl (fun h d => h.wake d) h) h := by
  induction ds generalizing h with
  | nil => exact .refl h
  | cons d ds ih =>
    have first := wake_asked h hi d
    have unarmed : (h.wake d).inj = [] := by
      obtain ⟨⟨r, t, q, a, e⟩, -⟩ := first
      rw [e]
      exact hi
    exact (ih (h.wake d) unarmed).trans first

end

/-- The registers that a start writes. -/
def startRegs : List Nat := [F.NFDONE_done.a, F.NFSTAGET_us.a, F.NFSTAT_stage.a, F.PWRVCORE_stone_mv.a, F.PWRDOM_on.a, F.PWRWAKEDLY_count.a]

section
variable (h : Hub)

theorem stage_stageDone (k : Nat) (hk : k < 12) : (h.stageDone k).stage k = true := by
  have done : (h.stageDone k).g F.NFDONE_done = setBits (h.g F.NFDONE_done) k k 1 % 2 ^ 12 := by
    unfold stageDone
    dsimp only
    have other : F.NFDONE_done.a + F.NFDONE_done.stride * 0 ≠ F.NFSTAGET_us.a + F.NFSTAGET_us.stride * k := by
      show (0x48008 : Nat) ≠ 0x48040 + 4 * k
      omega
    rw [g_p_ne _ F.NFSTAT_stage F.NFDONE_done _ (by decide) (by decide), g_of_reg F.NFDONE_done (reg_pi_ne _ F.NFSTAGET_us k _ _ other)]
    exact g_p_same _ F.NFDONE_done _ (by decide)
  have small : setBits (h.g F.NFDONE_done) k k 1 < 2 ^ 12 := setBits_lt _ _ _ _ _ (by omega) hk (Nat.mod_lt _ (by decide))
  unfold stage
  rw [done, Nat.mod_eq_of_lt small, bitsOf_setBits_same, Nat.add_sub_cancel_left]
  rfl

theorem pi_eq (f : Fld) (i v : Nat) : ∃ r, h.pi f i v = { h with regs := r } := ⟨_, rfl⟩

theorem p_eq (f : Fld) (v : Nat) : ∃ r, h.p f v = { h with regs := r } := pi_eq h f 0 v

theorem reg_setPw (p : Power) (a : Nat) : ({ h with pw := p } : Hub).reg a = h.reg a := rfl

/-- A stage that is done changes registers alone, and of these but three. -/
theorem stageDone_eq (k : Nat) : ∃ r, h.stageDone k = { h with regs := r } := by
  obtain ⟨r, e⟩ := p_eq h F.NFDONE_done (setBits (h.g F.NFDONE_done) k k 1)
  unfold stageDone
  dsimp only
  rw [e]
  obtain ⟨r', e'⟩ := pi_eq { h with regs := r } F.NFSTAGET_us k ((({ h with regs := r } : Hub).nt.toNat - ({ h with regs := r } : Hub).nf.t0.toNat) / 1000)
  rw [e']
  exact p_eq { h with regs := r' } F.NFSTAT_stage _

theorem reg_stageDone {a k : Nat} (hd : a ≠ F.NFDONE_done.a) (ht : a ≠ F.NFSTAGET_us.a + F.NFSTAGET_us.stride * k) (hs : a ≠ F.NFSTAT_stage.a) :
    (h.stageDone k).reg a = h.reg a := by
  unfold stageDone
  dsimp only
  rw [reg_p_ne _ F.NFSTAT_stage _ hs, reg_pi_ne _ F.NFSTAGET_us k _ a ht, reg_p_ne _ F.NFDONE_done _ hd]

/-- Hub `u` is `h` once its module has started. -/
structure Started (u h : Hub) : Prop where
  hub : ∃ r t q a, u = { h with regs := r, pw := { h.pw with tokens := t, reqs := q, grantAt := a } }
  regs : ∀ a, a ∉ startRegs → u.reg a = h.reg a
  stage : u.stage 0 = true
  test : u.on F.NFSTAT_test = !h.on F.PWRSTRAP_testen

/-- The hub with RESET done and the start's voltages, before its domains ask for tokens. -/
def resetDone (stagger : Bool) : Hub :=
  let d := h.stageDone 0
  let u := d.p F.NFSTAT_test (1 - d.g F.PWRSTRAP_testen)
  let at_ : Nt := if stagger then BitVec.ofNat 64 (u.nt.toNat + u.g F.PWRSTRAP_slot * u.g F.PWRSTAG_slot_us * 1000) else u.nt
  (({ u with pw := { u.pw with grantAt := at_ } } : Hub).p F.PWRVCORE_stone_mv 750).p F.PWRVCORE_hub_mv 750

theorem startUp_eq (stagger : Bool) : h.startUp stagger = bootDomains.foldl (fun h d => h.wake d) (h.resetDone stagger) := rfl

theorem resetDone_eq (stagger : Bool) : ∃ r a, h.resetDone stagger = { h with regs := r, pw := { h.pw with grantAt := a } } := by
  obtain ⟨r, e⟩ := stageDone_eq h 0
  unfold resetDone
  rw [e]
  dsimp only
  obtain ⟨r₁, e₁⟩ := p_eq { h with regs := r } F.NFSTAT_test (1 - ({ h with regs := r } : Hub).g F.PWRSTRAP_testen)
  rw [e₁]
  dsimp only
  generalize (if stagger = true then _ else _) = n
  obtain ⟨r₂, e₂⟩ := p_eq { h with regs := r₁, pw := { h.pw with grantAt := n } } F.PWRVCORE_stone_mv 750
  rw [e₂]
  obtain ⟨r₃, e₃⟩ := p_eq { h with regs := r₂, pw := { h.pw with grantAt := n } } F.PWRVCORE_hub_mv 750
  exact ⟨r₃, n, e₃⟩

theorem reg_resetDone (stagger : Bool) {a : Nat} (ha : a ≠ F.PWRVCORE_stone_mv.a) :
    (h.resetDone stagger).reg a = ((h.stageDone 0).p F.NFSTAT_test (1 - (h.stageDone 0).g F.PWRSTRAP_testen)).reg a := by
  unfold resetDone
  dsimp only
  rw [reg_p_ne _ F.PWRVCORE_hub_mv _ ha, reg_p_ne _ F.PWRVCORE_stone_mv _ ha]
  exact reg_setPw _ _ a

/-- The test strap, inverted. -/
theorem test_resetDone (stagger : Bool) : (h.resetDone stagger).on F.NFSTAT_test = !h.on F.PWRSTRAP_testen := by
  have strap : (h.stageDone 0).g F.PWRSTRAP_testen = h.g F.PWRSTRAP_testen := g_of_reg F.PWRSTRAP_testen (reg_stageDone h (by decide) (by decide) (by decide))
  have one : h.g F.PWRSTRAP_testen < 2 := Nat.mod_lt _ (by decide)
  unfold on
  rw [g_of_reg F.NFSTAT_test (reg_resetDone h stagger (by decide)), g_p_same _ _ _ (by decide), strap]
  generalize h.g F.PWRSTRAP_testen = x at one
  have : x = 0 ∨ x = 1 := by omega
  rcases this with rfl | rfl <;> rfl

theorem startUp_started (stagger : Bool) (hi : h.inj = []) : Started (h.startUp stagger) h := by
  obtain ⟨r, a, eq⟩ := resetDone_eq h stagger
  have asked := wakes_asked (h.resetDone stagger) (by rw [eq]; exact hi) bootDomains
  obtain ⟨⟨r', t, q, n, eq'⟩, regs⟩ := asked
  rw [startUp_eq]
  refine ⟨⟨r', t, q, n, ?_⟩, fun x hx => ?_, ?_, ?_⟩
  · rw [eq', eq]
  · simp only [startRegs, List.mem_cons, List.not_mem_nil, or_false, not_or] at hx
    obtain ⟨done, time, status, volts, domains, delays⟩ := hx
    rw [regs x domains delays, reg_resetDone h stagger volts, reg_p_ne _ F.NFSTAT_test _ status, reg_stageDone h done time status]
  · refine Eq.trans ?_ (stage_stageDone h 0 (by decide))
    unfold stage
    rw [g_of_reg F.NFDONE_done (regs _ (by decide) (by decide)), g_of_reg F.NFDONE_done (reg_resetDone h stagger (by decide)),
      g_p_ne _ F.NFSTAT_test F.NFDONE_done _ (by decide) (by decide)]
  · refine Eq.trans ?_ (test_resetDone h stagger)
    unfold on
    rw [g_of_reg F.NFSTAT_test (regs _ (by decide) (by decide))]

end

end Hub

end Sys2Proof.Machine
end

section
/-! What each reset leaves (O58). -/

namespace Sys2Proof.Machine

open Hub

namespace Hub

/-! ### Straps and inputs (R449, R455) -/

section
variable (h : Hub) (slot : BitVec 7) (testen : Bool)

theorem straps_eq : ∃ r, h.straps slot testen = { h with regs := r } := by
  obtain ⟨r, e⟩ := p_eq h F.PWRSTRAP_slot (min slot.toNat 71)
  obtain ⟨r', e'⟩ := p_eq { h with regs := r } F.PWRSTRAP_testen (b2n testen)
  unfold straps
  rw [e, e']
  dsimp only
  split
  · exact p_eq { h with regs := r' } F.PWRSTAT_strap_err 1
  · exact ⟨r', rfl⟩

theorem reg_straps {a : Nat} (hs : a ≠ F.PWRSTRAP_slot.a) (hp : a ≠ F.PWRSTAT_strap_err.a) : (h.straps slot testen).reg a = h.reg a := by
  have sampled : ((h.p F.PWRSTRAP_slot (min slot.toNat 71)).p F.PWRSTRAP_testen (b2n testen)).reg a = h.reg a := by
    rw [reg_p_ne _ F.PWRSTRAP_testen _ hs, reg_p_ne _ F.PWRSTRAP_slot _ hs]
  unfold straps
  dsimp only
  split
  · rw [reg_p_ne _ F.PWRSTAT_strap_err _ hp, sampled]
  · exact sampled

/-- A status of the supplies other than that of the straps stays. -/
theorem on_straps (f : Fld) (hs : apart F.PWRSTRAP_slot 0 f 0 = true) (ht : apart F.PWRSTRAP_testen 0 f 0 = true)
    (he : apart F.PWRSTAT_strap_err 0 f 0 = true) : (h.straps slot testen).on f = h.on f := by
  have sampled : ((h.p F.PWRSTRAP_slot (min slot.toNat 71)).p F.PWRSTRAP_testen (b2n testen)).on f = h.on f := by
    rw [on_p_ne _ F.PWRSTRAP_testen f _ (by decide) ht, on_p_ne _ F.PWRSTRAP_slot f _ (by decide) hs]
  unfold straps
  dsimp only
  split
  · rw [on_p_ne _ F.PWRSTAT_strap_err f _ (by decide) he, sampled]
  · exact sampled

/-- The straps as they were sampled. -/
theorem straps_sampled : (h.straps slot testen).g F.PWRSTRAP_slot = min slot.toNat 71
    ∧ (h.straps slot testen).g F.PWRSTRAP_testen = b2n testen ∧ (71 < slot.toNat → (h.straps slot testen).on F.PWRSTAT_strap_err = true) := by
  have place : (h.p F.PWRSTRAP_slot (min slot.toNat 71)).g F.PWRSTRAP_slot = min slot.toNat 71 :=
    (g_p_same _ _ _ (by decide)).trans (Nat.mod_eq_of_lt (show min slot.toNat 71 < 128 by omega))
  have test (g : Hub) : (g.p F.PWRSTRAP_testen (b2n testen)).g F.PWRSTRAP_testen = b2n testen := by
    rw [g_p_same _ _ _ (by decide)]
    cases testen <;> rfl
  unfold straps
  dsimp only
  by_cases far : 71 < slot.toNat
  · rw [if_pos far]
    refine ⟨?_, ?_, fun _ => on_p_same _ _ (by decide)⟩
    · rw [g_p_ne _ _ _ _ (by decide) (by decide), g_p_ne _ _ _ _ (by decide) (by decide), place]
    · rw [g_p_ne _ _ _ _ (by decide) (by decide), test]
  · rw [if_neg far]
    exact ⟨by rw [g_p_ne _ _ _ _ (by decide) (by decide), place], test _, fun e => absurd e far⟩

theorem devEv_eq (code die data status : Nat) : ∃ r d, h.devEv code die data status = { h with regs := r, diag := d } := ⟨_, _, rfl⟩

/-- An input that reaches its band writes no more than the inputs, reports and one status bit. -/
theorem inputUp_eq (i : Nat) : ∃ r d k, h.inputUp i =
    { h with regs := r, diag := d, pw := { h.pw with inReg := BitVec.ofNat 4 (h.pw.inReg.toNat ||| 2 ^ i), ok := k } } := by
  have late (l : List Nat) (g : Hub) : ∃ r d, l.foldl (fun (h : Hub) k => (h.p F.PWRSTAT_seq_err 1).devEv 0x0811 4 k) g = { g with regs := r, diag := d } := by
    induction l generalizing g with
    | nil => exact ⟨g.regs, g.diag, rfl⟩
    | cons k l ih =>
      obtain ⟨r₁, e₁⟩ := p_eq g F.PWRSTAT_seq_err 1
      obtain ⟨r₂, d₂, e₂⟩ := devEv_eq { g with regs := r₁ } 0x0811 4 k 0
      obtain ⟨r, d, e⟩ := ih { g with regs := r₂, diag := d₂ }
      exact ⟨r, d, by rw [List.foldl_cons, e₁, e₂, e]⟩
  unfold inputUp
  dsimp only
  generalize (h.pw.ok || _) = k
  obtain ⟨r, d, e⟩ := late ((List.range (connected (BitVec.ofNat 4 (h.pw.inReg.toNat ||| 2 ^ i)))).filter
    (fun k => decide (i < k) && decide (connected h.pw.inReg ≤ k))) { h with pw := { h.pw with inReg := BitVec.ofNat 4 (h.pw.inReg.toNat ||| 2 ^ i), ok := k } }
  exact ⟨r, d, k, e⟩

theorem g_inputUp (i : Nat) (f : Fld) (hf : f.a ∉ reportRegs) (he : apart F.PWRSTAT_seq_err 0 f 0 = true) : (h.inputUp i).g f = h.g f := by
  unfold inputUp
  dsimp only
  exact foldl_keeps _ (fun u => u.g f) _
    (fun g k => (g_of_reg f (reg_devEv (g.p F.PWRSTAT_seq_err 1) 0x0811 4 k 0 hf)).trans (g_p_ne g F.PWRSTAT_seq_err f 1 (by decide) he)) _

end

/-! ### Provisioning (R423) -/

section
variable (h : Hub)

theorem provisioned_none (hp : h.sec.prov = none) : h.provisioned = h := by
  unfold provisioned
  rw [hp]

/-- What a crypto-erase takes: objects, mirrors, slots, and under a new key the images. -/
def erased (ks : List Nat) (newKey : Bool) : Hub :=
  let g := h.freeKinds ks
  { g with mirrors := [], ck := { g.ck with slotA := none, slotB := none, bkv := [] }, im := if newKey then {} else g.im }

theorem erased_eq (ks : List Nat) (newKey : Bool) : ∃ g m c i, h.erased ks newKey = { h with gr := g, mirrors := m, ck := c, im := i } := by
  obtain ⟨g, e⟩ := freeKinds_only h ks
  unfold erased
  rw [e]
  exact ⟨_, _, _, _, rfl⟩

/-- The owner key's digest. -/
def owned (x : Nat) : Hub :=
  ((List.range 4).foldl (fun h k => h.pi F.SECOWNER_digest k (bitsOf x (64 * k + 63) (64 * k))) h).p F.SECSTAT_owner_set 1

theorem owned_eq (x : Nat) : ∃ r, h.owned x = { h with regs := r } := by
  have words (l : List Nat) (g : Hub) : ∃ r, l.foldl (fun h k => h.pi F.SECOWNER_digest k (bitsOf x (64 * k + 63) (64 * k))) g = { g with regs := r } := by
    induction l generalizing g with
    | nil => exact ⟨g.regs, rfl⟩
    | cons k l ih =>
      obtain ⟨r, e⟩ := ih (g.pi F.SECOWNER_digest k (bitsOf x (64 * k + 63) (64 * k)))
      exact ⟨r, e⟩
  obtain ⟨r, e⟩ := words (List.range 4) h
  unfold owned
  rw [e]
  exact p_eq { h with regs := r } F.SECSTAT_owner_set 1

theorem g_owned (x : Nat) (f : Fld) (hd : ∀ k, k < 4 → f.a ≠ F.SECOWNER_digest.a + F.SECOWNER_digest.stride * k) (hs : apart F.SECSTAT_owner_set 0 f 0 = true) :
    (h.owned x).g f = h.g f := by
  have words (l : List Nat) (hl : ∀ k ∈ l, k < 4) (g : Hub) :
      (l.foldl (fun h k => h.pi F.SECOWNER_digest k (bitsOf x (64 * k + 63) (64 * k))) g).reg f.a = g.reg f.a := by
    induction l generalizing g with
    | nil => rfl
    | cons k l ih =>
      rw [List.foldl_cons, ih fun k hk => hl k (List.mem_cons_of_mem _ hk)]
      exact reg_pi_ne g F.SECOWNER_digest k _ f.a (hd k (hl k List.mem_cons_self))
  unfold owned
  rw [g_p_ne _ _ _ _ (by decide) hs]
  exact g_of_reg f (words _ (fun k => List.mem_range.1) h)

/-- A request that was provisioned has taken effect. -/
structure Provisioned (q : Prov) (u h : Hub) : Prop where
  hub : ∃ g m c i r, u = { h with gr := g, mirrors := m, ck := c, im := i, regs := r, sec := { h.sec with prov := none } }
  active : u.g F.SECPROFILE_active = b2n q.profile
  shown : u.g F.HDEVIDX_profile = b2n q.profile
  owner : q.key.isSome = true → u.on F.SECSTAT_owner_set = true

/-- The hub with its profile. -/
def profiled (b : Bool) : Hub := (h.p F.SECPROFILE_active (b2n b)).p F.HDEVIDX_profile (b2n b)

theorem profiled_eq (b : Bool) : ∃ r, h.profiled b = { h with regs := r } := ⟨_, rfl⟩

theorem g_profiled (b : Bool) : (h.profiled b).g F.SECPROFILE_active = b2n b ∧ (h.profiled b).g F.HDEVIDX_profile = b2n b := by
  unfold profiled
  rw [g_p_ne _ _ _ _ (by decide) (by decide), g_p_same _ _ _ (by decide), g_p_same _ _ _ (by decide)]
  cases b <;> exact ⟨rfl, rfl⟩

/-- The owner key asked for is not the one that is there. -/
def newKey (q : Prov) : Bool := match q.key.map Config.sha3 with
  | none => false
  | some x => !h.on F.SECSTAT_owner_set || x.toNat != (List.range 4).foldl (fun x k => x + (h.gi F.SECOWNER_digest k) * 2 ^ (64 * k)) 0

/-- A request that is taken up, with the erase that it asks for or brings about. -/
def takenUp (q : Prov) : Hub :=
  let g : Hub := { h with sec := { h.sec with prov := none } }
  if q.erase || h.newKey q || (h.g F.SECPROFILE_active == 1) != q.profile then g.erased ([1, 2, 6, 7] ++ if h.newKey q then [3, 4, 5] else []) (h.newKey q)
  else g

theorem takenUp_eq (q : Prov) : ∃ g m c i, h.takenUp q = { h with gr := g, mirrors := m, ck := c, im := i, sec := { h.sec with prov := none } } := by
  unfold takenUp
  dsimp only
  split
  · exact erased_eq { h with sec := { h.sec with prov := none } } _ _
  · exact ⟨h.gr, h.mirrors, h.ck, h.im, rfl⟩

theorem provisioned_eq {q : Prov} (hq : h.sec.prov = some q) : h.provisioned = match q.key.map Config.sha3 with
    | none => (h.takenUp q).profiled q.profile
    | some x => ((h.takenUp q).profiled q.profile).owned x.toNat := by
  unfold provisioned
  rw [hq]
  rfl

theorem provisioned_some {q : Prov} (hq : h.sec.prov = some q) : Provisioned q h.provisioned h := by
  obtain ⟨a, m, c, i, taken⟩ := takenUp_eq h q
  obtain ⟨r, eq⟩ := profiled_eq (h.takenUp q) q.profile
  obtain ⟨active, shown⟩ := g_profiled (h.takenUp q) q.profile
  have profiled : (h.takenUp q).profiled q.profile = { h with gr := a, mirrors := m, ck := c, im := i, sec := { h.sec with prov := none }, regs := r } := by
    rw [eq, taken]
  rw [provisioned_eq h hq]
  cases hk : q.key with
  | none => exact ⟨⟨a, m, c, i, r, profiled⟩, active, shown, fun e => by rw [hk] at e; cases e⟩
  | some key =>
    obtain ⟨r', eq'⟩ := owned_eq ((h.takenUp q).profiled q.profile) (Config.sha3 key).toNat
    refine ⟨⟨a, m, c, i, r', ?_⟩, ?_, ?_, fun _ => on_p_same _ F.SECSTAT_owner_set (by decide)⟩
    · exact eq'.trans (by rw [profiled])
    · exact (g_owned _ _ F.SECPROFILE_active (by decide) (by decide)).trans active
    · exact (g_owned _ _ F.HDEVIDX_profile (by decide) (by decide)).trans shown

end

/-! ### The held reset's settings (R470, R522) -/

section
variable (g : Hub)

/-- A setting of a register that is held. -/
def settingHeld (a : Nat) (v : W64) (f : FieldRow) : Hub := g.setReg a (BitVec.ofNat 64 (setBits (g.reg a).toNat f.hi f.lo (bitsOf v.toNat f.hi f.lo)))

/-- The settings of an entry of the register file that is held. -/
def entryHeld (e : Nat × W64) : Hub :=
  match (if 0x44000 ≤ e.1 ∧ e.1 < 0x48000 then regRow e.1 else none) with
  | none => g
  | some r => (pwrSettings r).foldl (fun (g : Hub) f => g.settingHeld e.1 e.2 f) g

theorem holdReset_settings : g.holdReset = g.regs.foldl entryHeld (g.resetState false) := rfl

theorem reg_settings (l : List FieldRow) {a b : Nat} (v : W64) (hb : b ≠ a) : (l.foldl (fun (g : Hub) f => g.settingHeld a v f) g).reg b = g.reg b := by
  induction l generalizing g with
  | nil => rfl
  | cons f l ih =>
    rw [List.foldl_cons, ih]
    exact reg_setReg_ne g a b _ hb

/-- An entry changes its own register alone, and that one only in the power block. -/
theorem reg_entryHeld (e : Nat × W64) {b : Nat} (hb : b ≠ e.1 ∨ b < 0x44000 ∨ 0x48000 ≤ b) : (g.entryHeld e).reg b = g.reg b := by
  unfold entryHeld
  split
  · rfl
  · next r hr =>
    have inside : 0x44000 ≤ e.1 ∧ e.1 < 0x48000 := by
      by_contra out
      rw [if_neg out] at hr
      cases hr
    exact reg_settings g _ _ (by omega)

theorem reg_entriesHeld (l : List (Nat × W64)) {b : Nat} (hb : b < 0x44000 ∨ 0x48000 ≤ b) : (l.foldl entryHeld g).reg b = g.reg b := by
  induction l generalizing g with
  | nil => rfl
  | cons e l ih =>
    rw [List.foldl_cons, ih]
    exact reg_entryHeld g e (.inr hb)

/-- The row of PWRCTL. -/
theorem lockRow : ∃ r, regRow F.PWRCTL_lock.a = some r ∧ (∃ f ∈ pwrSettings r, f.hi = 31 ∧ f.lo = 31)
    ∧ ∀ f ∈ pwrSettings r, f.hi = 31 ∧ f.lo = 31 ∨ f.lo ≤ f.hi ∧ f.hi < 31 := by
  have known : (regRow F.PWRCTL_lock.a).isSome = true := by decide +kernel
  have bit : ((regRow F.PWRCTL_lock.a).map pwrSettings).any (fun l => l.any (fun f => decide (f.hi = 31 ∧ f.lo = 31))
      && l.all (fun f => decide (f.hi = 31 ∧ f.lo = 31 ∨ f.lo ≤ f.hi ∧ f.hi < 31))) = true := by decide +kernel
  obtain ⟨r, hr⟩ := Option.isSome_iff_exists.1 known
  rw [hr] at bit
  simp only [Option.map_some, Option.any_some, Bool.and_eq_true, List.any_eq_true, List.all_eq_true, decide_eq_true_eq] at bit
  exact ⟨r, hr, bit.1, bit.2⟩

theorem lock_settingHeld (v : W64) (f : FieldRow) (hf : f.hi = 31 ∧ f.lo = 31) : (g.settingHeld F.PWRCTL_lock.a v f).on F.PWRCTL_lock = v.getLsbD 31 := by
  obtain ⟨hi, lo⟩ := hf
  have e : g.settingHeld F.PWRCTL_lock.a v f = g.p F.PWRCTL_lock (bitsOf v.toNat 31 31) := by
    unfold settingHeld
    rw [hi, lo]
    rfl
  have bit := gi_one ({ regs := [(F.PWRCTL_lock.a, v)] } : Hub) F.PWRCTL_lock 0 rfl
  unfold on
  rw [e, g_p_same _ _ _ (by decide), Nat.mod_eq_of_lt (a := bitsOf v.toNat 31 31) (Nat.mod_lt _ (by decide))]
  exact bit

theorem lock_settingHeld_apart (v : W64) (f : FieldRow) (hf : f.lo ≤ f.hi ∧ f.hi < 31) : (g.settingHeld F.PWRCTL_lock.a v f).on F.PWRCTL_lock = g.on F.PWRCTL_lock := by
  obtain ⟨le, small⟩ := hf
  refine on_p_ne g ⟨F.PWRCTL_lock.a, 0, f.hi, f.lo⟩ F.PWRCTL_lock _ ?_ ?_
  · simp [inWord, le]
    omega
  · simp [apart, small]

theorem lock_settings (l : List FieldRow) (v : W64) (hl : ∀ f ∈ l, f.hi = 31 ∧ f.lo = 31 ∨ f.lo ≤ f.hi ∧ f.hi < 31)
    (hb : (∃ f ∈ l, f.hi = 31 ∧ f.lo = 31) ∨ g.on F.PWRCTL_lock = v.getLsbD 31) :
    (l.foldl (fun (g : Hub) f => g.settingHeld F.PWRCTL_lock.a v f) g).on F.PWRCTL_lock = v.getLsbD 31 := by
  induction l generalizing g with
  | nil => exact hb.resolve_left (by simp)
  | cons f l ih =>
    have rest := fun f hf => hl f (List.mem_cons_of_mem _ hf)
    refine ih (g.settingHeld F.PWRCTL_lock.a v f) rest ?_
    rcases hl f List.mem_cons_self with this | other
    · exact .inr (lock_settingHeld g v f this)
    · rcases hb with ⟨f', mem, bit⟩ | same
      · rcases List.mem_cons.1 mem with rfl | mem
        · omega
        · exact .inl ⟨f', mem, bit⟩
      · exact .inr ((lock_settingHeld_apart g v f other).trans same)

theorem lock_entryHeld (v : W64) : (g.entryHeld (F.PWRCTL_lock.a, v)).on F.PWRCTL_lock = v.getLsbD 31 := by
  obtain ⟨r, row, bit, all⟩ := lockRow
  have e : (if 0x44000 ≤ F.PWRCTL_lock.a ∧ F.PWRCTL_lock.a < 0x48000 then regRow F.PWRCTL_lock.a else none) = some r := row
  unfold entryHeld
  dsimp only
  rw [e]
  exact lock_settings g _ v all (.inl bit)

theorem lock_entriesHeld (l : List (Nat × W64)) (v : W64) (hl : ∀ e ∈ l, e.1 = F.PWRCTL_lock.a → e.2 = v)
    (hb : (F.PWRCTL_lock.a, v) ∈ l ∨ g.on F.PWRCTL_lock = v.getLsbD 31) : (l.foldl entryHeld g).on F.PWRCTL_lock = v.getLsbD 31 := by
  induction l generalizing g with
  | nil => exact hb.resolve_left (List.not_mem_nil)
  | cons e l ih =>
    refine ih (g.entryHeld e) (fun e he => hl e (List.mem_cons_of_mem _ he)) ?_
    obtain ⟨a, x⟩ := e
    by_cases at_ : a = F.PWRCTL_lock.a
    · have same : x = v := hl (a, x) List.mem_cons_self at_
      subst at_ same
      exact .inr (lock_entryHeld g x)
    · rcases hb with mem | same
      · rcases List.mem_cons.1 mem with e | mem
        · exact absurd (congrArg Prod.fst e).symm at_
        · exact .inl mem
      · refine .inr (Eq.trans ?_ same)
        have kept : (g.entryHeld (a, x)).reg F.PWRCTL_lock.a = g.reg F.PWRCTL_lock.a := reg_entryHeld g (a, x) (.inl fun e => at_ e.symm)
        unfold on
        rw [g_of_reg F.PWRCTL_lock kept]

end

end Hub

end Sys2Proof.Machine
end

section
/-! The commands of the resets (O58). -/

namespace Sys2Proof.Machine

open Hub

namespace Hub

/-! ### What every reset leaves -/

/-- Hub `u` is what a reset of `h` leaves, but for what the start that follows it writes. -/
def FromReset (warm : Bool) (u h : Hub) : Prop :=
  ∃ nt r sn o d sec ck pw nf gr im m, u = { h.resetState warm with
    nt := nt, regs := r, snoop := sn, out := o, diag := d, sec := sec, ck := ck, pw := pw, nf := nf, gr := gr, im := im, mirrors := m }

theorem FromReset.lost {warm : Bool} {u h : Hub} (e : FromReset warm u h) : u.sess = [] ∧ u.cring = [] ∧ u.sring = [] ∧ u.hopq = [] ∧ u.durs = []
    ∧ u.reads = [] ∧ u.writes = [] ∧ u.grp.cur = none := by
  obtain ⟨nt, r, sn, o, d, sec, ck, pw, nf, gr, im, m, rfl⟩ := e
  exact ⟨rfl, rfl, rfl, rfl, rfl, rfl, rfl, rfl⟩

theorem FromReset.cold {u h : Hub} (e : FromReset false u h) : u.wins = [] ∧ u.keySlots = [] ∧ u.gens = [] ∧ u.retired = [] := by
  obtain ⟨nt, r, sn, o, d, sec, ck, pw, nf, gr, im, m, rfl⟩ := e
  exact ⟨rfl, rfl, rfl, rfl⟩

theorem FromReset.calm {warm : Bool} {u h : Hub} (e : FromReset warm u h) : u.hubBad = false := by
  obtain ⟨nt, r, sn, o, d, sec, ck, pw, nf, gr, im, m, rfl⟩ := e
  rfl

theorem FromReset.finished {warm : Bool} {u h : Hub} (e : FromReset warm u h) (old : Hub) : FromReset warm (finish old u) h := by
  obtain ⟨sn, o, closed⟩ := finish_eq u old e.calm
  obtain ⟨nt, r, _, o', d, sec, ck, pw, nf, gr, im, m, eq⟩ := e
  rw [closed, eq]
  exact ⟨nt, r, sn, o' ++ o, d, sec, ck, pw, nf, gr, im, m, rfl⟩

/-- What no reset loses. -/
def Retains (u h : Hub) : Prop := u.nt = h.nt ∧ u.mirrors = h.mirrors ∧ u.im.models = h.im.models ∧ u.im.plans = h.im.plans
  ∧ u.gr = { h.gr with hot := [], rebuild := [] } ∧ u.ck.slotA = h.ck.slotA ∧ u.ck.slotB = h.ck.slotB

/-- The hub when VAUX is in regulation, before the straps are sampled: the always-on domain is cleared. -/
def vauxUp (h : Hub) : Hub :=
  let g := h.resetState false
  let b : Hub := { g with
    nt := 0
    pw := { perst := g.pw.perst, brkPin := g.pw.brkPin, inReg := g.pw.inReg &&& 0xE }
    nf := { boots := g.nf.boots, lastSlot := g.nf.lastSlot }
    diag := { slots := g.diag.slots, newest := g.diag.newest, sjCap := g.diag.sjCap, djCap := g.diag.djCap } }
  (b.p F.PWRSTAT_ploss 0).p F.PWRSTAT_ttrip 0

theorem vauxUp_eq (h : Hub) : ∃ r d nf, h.vauxUp = { h.resetState false with
    nt := 0, regs := r, diag := d, nf := nf, pw := { perst := h.pw.perst, brkPin := h.pw.brkPin, inReg := h.pw.inReg &&& 0xE } } :=
  ⟨_, _, _, rfl⟩

theorem Retains.finished {u h : Hub} (e : Retains u h) (hb : u.hubBad = false) (old : Hub) : Retains (finish old u) h := by
  obtain ⟨sn, o, closed⟩ := finish_eq u old hb
  rw [closed]
  exact e

theorem reg_finish_good {u : Hub} (hb : u.hubBad = false) (old : Hub) (a : Nat) : (finish old u).reg a = u.reg a := by
  obtain ⟨sn, o, closed⟩ := finish_eq u old hb
  rw [closed]
  rfl

/-- What a hub leaves that has started after a reset. -/
theorem Started.fromReset {warm : Bool} {u v h : Hub} (e : Started u v) (f : FromReset warm v h) : FromReset warm u h := by
  obtain ⟨r', t, q, n, eq⟩ := e.hub
  obtain ⟨nt, r, sn, o, d, sec, ck, pw, nf, gr, im, m, rfl⟩ := f
  exact ⟨nt, r', sn, o, d, sec, ck, _, nf, gr, im, m, eq⟩

theorem Started.retains {u v h : Hub} (e : Started u v) (k : Retains v h) : Retains u h := by
  obtain ⟨r', t, q, n, eq⟩ := e.hub
  rw [eq]
  exact k

end Hub

/-! ### The commands -/

section
variable {tm : Nt} {s : State} {h : Hub} (hh : s.hub.stamp tm = h)
include hh

/-- The always-on domain is cleared and the straps are sampled (R475). -/
theorem powerOnReset_answers (slot : BitVec 7) (testen : Bool) : Answers (.powerOnReset tm slot testen) s (fun t =>
    FromReset false t.hub h ∧ t.stn = {} ∧ t.pending = s.pending
    ∧ (t.hub.g F.PWRSTRAP_slot = min slot.toNat 71 ∧ t.hub.g F.PWRSTRAP_testen = b2n testen ∧ (71 < slot.toNat → t.hub.on F.PWRSTAT_strap_err = true))
    ∧ t.hub.nt = 0 ∧ t.hub.pw.off = false ∧ t.hub.pw.inReg = h.pw.inReg ||| 1 ∧ t.hub.on F.PWRSTAT_ploss = false ∧ t.hub.on F.PWRSTAT_ttrip = false) := by
  subst hh
  have ends : exec (.powerOnReset tm slot testen) s = .next { s with hub := finish s.hub (((s.hub.stamp tm).vauxUp.straps slot testen).inputUp 0), stn := {} } := rfl
  obtain ⟨r₀, d₀, nf₀, up⟩ := vauxUp_eq (s.hub.stamp tm)
  generalize hb : (s.hub.stamp tm).vauxUp = b at ends up
  have quiet : b.on F.PWRSTAT_ploss = false ∧ b.on F.PWRSTAT_ttrip = false := by
    rw [← hb]
    unfold on vauxUp
    rw [g_p_ne _ _ F.PWRSTAT_ploss _ (by decide) (by decide), g_p_same _ _ _ (by decide), g_p_same _ _ _ (by decide)]
    exact ⟨rfl, rfl⟩
  obtain ⟨slots, test, far⟩ := straps_sampled b slot testen
  obtain ⟨r, eq⟩ := straps_eq b slot testen
  obtain ⟨r', d, k, eq'⟩ := inputUp_eq (b.straps slot testen) 0
  have whole : (b.straps slot testen).inputUp 0 = { (s.hub.stamp tm).resetState false with nt := 0, regs := r', diag := d, nf := nf₀, pw :=
      { perst := (s.hub.stamp tm).pw.perst, brkPin := (s.hub.stamp tm).pw.brkPin, inReg := BitVec.ofNat 4 (((s.hub.stamp tm).pw.inReg &&& 0xE).toNat ||| 1), ok := k } } := by
    rw [eq', eq, up]
    rfl
  have left : FromReset false ((b.straps slot testen).inputUp 0) (s.hub.stamp tm) := ⟨_, _, _, _, _, _, _, _, _, _, _, _, whole⟩
  have status (f : Fld) (hf : f.a ∉ reportRegs) (he : apart F.PWRSTAT_seq_err 0 f 0 = true) :
      (finish s.hub ((b.straps slot testen).inputUp 0)).g f = (b.straps slot testen).g f :=
    (g_finish _ _ f hf).trans (g_inputUp _ 0 f hf he)
  have power := pw_finish ((b.straps slot testen).inputUp 0) s.hub
  refine ⟨_, ends, left.finished s.hub, rfl, rfl, ⟨?_, ?_, fun e => ?_⟩, ?_, ?_, ?_, ?_, ?_⟩
  · exact (status _ (by decide) (by decide)).trans slots
  · exact (status _ (by decide) (by decide)).trans test
  · exact (congrArg (· == 1) (status _ (by decide) (by decide))).trans (far e)
  · exact (nt_finish _ _).trans (congrArg Hub.nt whole)
  · exact (congrArg Power.off power).trans (congrArg (·.pw.off) whole)
  · refine (congrArg Power.inReg power).trans ((congrArg (·.pw.inReg) whole).trans ?_)
    show BitVec.ofNat 4 (((s.hub.stamp tm).pw.inReg &&& 0xE).toNat ||| 1) = (s.hub.stamp tm).pw.inReg ||| 1
    generalize (s.hub.stamp tm).pw.inReg = x
    revert x
    decide
  · exact (congrArg (· == 1) (status F.PWRSTAT_ploss (by decide) (by decide))).trans ((on_straps b slot testen F.PWRSTAT_ploss (by decide) (by decide) (by decide)).trans quiet.1)
  · exact (congrArg (· == 1) (status F.PWRSTAT_ttrip (by decide) (by decide))).trans ((on_straps b slot testen F.PWRSTAT_ttrip (by decide) (by decide) (by decide)).trans quiet.2)

theorem perstAssert_answers : Answers (.perstAssert tm) s (fun t => FromReset false t.hub h ∧ t.stn = {} ∧ t.pending = s.pending ∧ Retains t.hub h
    ∧ (∀ x, (F.PWRCTL_lock.a, x) ∈ h.regs → (∀ e ∈ h.regs, e.1 = F.PWRCTL_lock.a → e.2 = x) → t.hub.on F.PWRCTL_lock = x.getLsbD 31)
    ∧ (∀ a, a < 0x44000 ∨ 0x48000 ≤ a → t.hub.reg a = ({ h with regs := regsAfter false h.regs } : Hub).reg a)
    ∧ t.hub.pw.perst = true ∧ t.hub.pw.tripPerst = (h.pw.tripPerst || h.pw.trip)) := by
  obtain ⟨r, held⟩ := holdReset_eq h
  have ends : exec (.perstAssert tm) s = .next { s with hub := finish s.hub { h.holdReset with
      pw := { h.holdReset.pw with perst := true, tripPerst := h.holdReset.pw.tripPerst || h.holdReset.pw.trip } }, stn := {} } := by
    subst hh
    rfl
  generalize hu : ({ h.holdReset with pw := { h.holdReset.pw with perst := true, tripPerst := h.holdReset.pw.tripPerst || h.holdReset.pw.trip } } : Hub) = u at ends
  have regs (a : Nat) : u.reg a = h.holdReset.reg a := by
    rw [← hu]
    rfl
  rw [held] at hu
  have left : FromReset false u h := ⟨_, _, _, _, _, _, _, _, _, _, _, _, hu.symm⟩
  have keeps : Retains u h := by
    rw [← hu]
    exact ⟨rfl, rfl, rfl, rfl, rfl, rfl, rfl⟩
  have power := pw_finish u s.hub
  refine ⟨_, ends, left.finished s.hub, rfl, rfl, keeps.finished left.calm s.hub, fun x mem only => ?_, fun a ha => ?_, ?_, ?_⟩
  · have same : (finish s.hub u).on F.PWRCTL_lock = h.holdReset.on F.PWRCTL_lock :=
      (on_finish _ _ _ (by decide)).trans (congrArg (· == 1) (g_of_reg F.PWRCTL_lock (regs _)))
    show (finish s.hub u).on F.PWRCTL_lock = _
    rw [same, holdReset_settings]
    exact lock_entriesHeld (h.resetState false) h.regs x only (.inl mem)
  · rw [reg_finish_good left.calm, regs, holdReset_settings]
    exact reg_entriesHeld (h.resetState false) h.regs ha
  · exact (congrArg Power.perst power).trans (by rw [← hu])
  · exact (congrArg Power.tripPerst power).trans (by rw [← hu]; rfl)

/-- With the rails up a cold reset, what was provisioned, and the start (R423, R475). -/
theorem perstDeassert_answers (slot : BitVec 7) (testen : Bool) (perst : h.pw.perst = true) (ok : h.pw.ok = true) {v : Hub}
    (hv : (h.resetState false).provisioned = v) (left : FromReset false v h) : Answers (.perstDeassert tm slot testen) s (fun t =>
      FromReset false t.hub h ∧ t.stn = {} ∧ t.pending = s.pending ∧ (Retains v h → Retains t.hub h)
      ∧ (t.hub.g F.PWRSTRAP_slot = min slot.toNat 71 ∧ t.hub.g F.PWRSTRAP_testen = b2n testen ∧ (71 < slot.toNat → t.hub.on F.PWRSTAT_strap_err = true))
      ∧ t.hub.stage 0 = true ∧ t.hub.pw.perst = false ∧ t.hub.pw.trip = false ∧ t.hub.nf.t0 = v.nt ∧ t.hub.on F.NFSTAT_test = !testen
      ∧ t.hub.sec.prov = v.sec.prov
      ∧ ∀ f : Fld, f.a ∉ [F.PWRSTRAP_slot.a, F.PWRSTAT_strap_err.a] ++ startRegs → f.a ∉ reportRegs → t.hub.g f = v.g f) := by
  obtain ⟨slots, test, far⟩ := straps_sampled v slot testen
  obtain ⟨r, eq⟩ := straps_eq v slot testen
  have ends : exec (.perstDeassert tm slot testen) s = .next { s with
      hub := finish s.hub (({ v.straps slot testen with pw := { (v.straps slot testen).pw with perst := false, trip := false, tripPerst := false }
                                                        nf := { (v.straps slot testen).nf with t0 := (v.straps slot testen).nt } } : Hub).startUp true)
      stn := {} } := by
    subst hh hv
    show execPerstDeassert tm slot testen s = _
    unfold execPerstDeassert
    dsimp only
    rw [if_neg (by rw [perst]; exact Bool.false_ne_true), if_neg (by rw [ok]; exact Bool.false_ne_true)]
  generalize hw : ({ v.straps slot testen with pw := { (v.straps slot testen).pw with perst := false, trip := false, tripPerst := false }
                                               nf := { (v.straps slot testen).nf with t0 := (v.straps slot testen).nt } } : Hub) = w at ends
  have regs (a : Nat) : w.reg a = (v.straps slot testen).reg a := by
    rw [← hw]
    rfl
  rw [eq] at hw
  have from_ : FromReset false w h := by
    obtain ⟨nt, r', sn, o, d, sec, ck, pw, nf, gr, im, m, e⟩ := left
    rw [e] at hw
    exact ⟨_, _, _, _, _, _, _, _, _, _, _, _, hw.symm⟩
  have unarmed : w.inj = [] := by
    obtain ⟨nt, r', sn, o, d, sec, ck, pw, nf, gr, im, m, e⟩ := from_
    rw [e]
    rfl
  have started := startUp_started w true unarmed
  have reset := started.fromReset from_
  have field (f : Fld) (hs : f.a ∉ startRegs) (hr : f.a ∉ reportRegs) : (finish s.hub (w.startUp true)).g f = (v.straps slot testen).g f :=
    (g_of_reg f (reg_finish _ _ hr)).trans (g_of_reg f ((started.regs _ hs).trans (regs _)))
  obtain ⟨sn, o, closed⟩ := finish_eq (w.startUp true) s.hub reset.calm
  obtain ⟨r', t, q, n, up⟩ := started.hub
  refine ⟨_, ends, reset.finished s.hub, rfl, rfl, fun k => (started.retains ?_).finished reset.calm s.hub, ⟨?_, ?_, fun e => ?_⟩, ?_, ?_, ?_, ?_, ?_, ?_, fun f hf hr => ?_⟩
  · rw [← hw]
    exact k
  · exact (field _ (by decide) (by decide)).trans slots
  · exact (field _ (by decide) (by decide)).trans test
  · exact (congrArg (· == 1) (field F.PWRSTAT_strap_err (by decide) (by decide))).trans (far e)
  · exact (congrArg (fun x => bitsOf x 0 0 == 1) (g_finish _ _ F.NFDONE_done (by decide))).trans started.stage
  · rw [closed, up, ← hw]
  · rw [closed, up, ← hw]
  · rw [closed, up, ← hw]
  · refine (on_finish _ _ _ (by decide)).trans (started.test.trans (congrArg (!·) ?_))
    unfold on
    rw [g_of_reg F.PWRSTRAP_testen (regs _), test]
    cases testen <;> rfl
  · rw [closed, up, ← hw]
  · obtain ⟨apart, hs⟩ := not_or.1 (mt List.mem_append.2 hf)
    obtain ⟨strap, status⟩ := not_or.1 (mt List.mem_cons.2 apart)
    exact (field f hs hr).trans (g_of_reg f (reg_straps v slot testen strap fun e => status (e ▸ List.mem_cons_self)))

/-- The warm reset (R498). -/
theorem warmReset_answers (v : BitVec 32) (up : h.stage 0 = true) (pair : pairOk 16 v.toNat = true) (code : bitsOf v.toNat 7 0 = 0xA5) :
    Answers (.warmReset tm v) s (fun t => FromReset true t.hub h ∧ t.stn = {} ∧ t.pending = s.pending ∧ Retains t.hub h ∧ t.hub.stage 0 = true
      ∧ t.hub.wins = h.wins ∧ t.hub.keySlots = h.keySlots ∧ t.hub.gens = h.gens
      ∧ t.hub.retired = h.retired ∧ t.hub.seqMap = h.seqMap ∧ t.hub.sec.log = h.sec.log ∧ t.hub.nf.warm = true) := by
  have ends : exec (.warmReset tm v) s = .next { s with hub := finish s.hub (((h.resetState true).inc F.NFRESETS_count).startUp false), stn := {} } := by
    subst hh
    show execWarmReset tm v s = _
    unfold execWarmReset
    dsimp only
    rw [if_neg (by rw [up]; exact Bool.false_ne_true), if_neg (by rw [pair]; exact Bool.false_ne_true), if_neg (not_not.2 code)]
  obtain ⟨r, counted⟩ := p_eq (h.resetState true) F.NFRESETS_count (satAdd (F.NFRESETS_count.hi + 1 - F.NFRESETS_count.lo) ((h.resetState true).gi F.NFRESETS_count 0) 1)
  have counted : (h.resetState true).inc F.NFRESETS_count = { h.resetState true with regs := r } := counted
  rw [counted] at ends
  have started := startUp_started { h.resetState true with regs := r } false rfl
  have reset : FromReset true (startUp { h.resetState true with regs := r } false) h := started.fromReset ⟨_, _, _, _, _, _, _, _, _, _, _, _, rfl⟩
  have keeps : Retains (startUp { h.resetState true with regs := r } false) h := started.retains ⟨rfl, rfl, rfl, rfl, rfl, rfl, rfl⟩
  obtain ⟨sn, o, closed⟩ := finish_eq _ s.hub reset.calm
  obtain ⟨r', t, q, n, eq⟩ := started.hub
  refine ⟨_, ends, reset.finished s.hub, rfl, rfl, keeps.finished reset.calm s.hub,
    (congrArg (fun x => bitsOf x 0 0 == 1) (g_finish _ _ F.NFDONE_done (by decide))).trans started.stage, ?_, ?_, ?_, ?_, ?_, ?_, ?_⟩
  all_goals rw [closed, eq]; rfl

end

/-- Settles O58: every reset leaves what `resetState` leaves, but for what its command writes then. -/
theorem resets : Obligations.Resets := by
  intro tm s h lost cold kept strapped
  have hh : s.hub.stamp tm = h := rfl
  have gone {warm : Bool} {t : State} (e : FromReset warm t.hub h) (stn : t.stn = {}) (queue : t.pending = s.pending) : lost t := by
    obtain ⟨sess, cring, sring, hopq, durs, reads, writes, cur⟩ := e.lost
    exact ⟨sess, cring, sring, hopq, durs, reads, writes, cur, stn, queue⟩
  refine ⟨?power, ?assert, ?deassert, ?provision, ?rails, ?again, ?warm, ?other, ?down, ?port, ?link⟩
  case power =>
    intro slot testen
    obtain ⟨t, ends, left, stn, queue, rest⟩ := powerOnReset_answers hh slot testen
    exact ⟨t, ends, gone left stn queue, left.cold, rest⟩
  case assert =>
    obtain ⟨t, ends, left, stn, queue, keeps, rest⟩ := perstAssert_answers hh
    exact ⟨t, ends, gone left stn queue, left.cold, keeps, rest⟩
  case deassert =>
    intro slot testen perst ok none_
    have base : (h.resetState false).provisioned = h.resetState false := provisioned_none _ none_
    obtain ⟨t, ends, left, stn, queue, keeps, straps, stage, perst', trip, t0, test, -, -⟩ :=
      perstDeassert_answers hh slot testen perst ok base ⟨_, _, _, _, _, _, _, _, _, _, _, _, rfl⟩
    exact ⟨t, ends, gone left stn queue, left.cold, keeps ⟨rfl, rfl, rfl, rfl, rfl, rfl, rfl⟩, straps, stage, perst', trip, t0, test⟩
  case provision =>
    intro slot testen q perst ok asked
    have done := provisioned_some (h.resetState false) (q := q) asked
    obtain ⟨⟨g, m, c, i, r, eq⟩, active, shown, owner⟩ := done
    have prov : (h.resetState false).provisioned.sec.prov = none := by rw [eq]
    obtain ⟨t, ends, left, stn, queue, -, straps, stage, perst', -, -, -, sec, fields⟩ :=
      perstDeassert_answers hh slot testen perst ok rfl (by rw [eq]; exact ⟨_, _, _, _, _, _, _, _, _, _, _, _, rfl⟩)
    refine ⟨t, ends, gone left stn queue, left.cold, straps, stage, perst', sec.trans prov, ?_, ?_, fun e => ?_⟩
    · exact (fields F.SECPROFILE_active (by decide) (by decide)).trans active
    · exact (fields F.HDEVIDX_profile (by decide) (by decide)).trans shown
    · exact (congrArg (· == 1) (fields F.SECSTAT_owner_set (by decide) (by decide))).trans (owner e)
  case rails =>
    intro slot testen perst ok
    show execPerstDeassert tm slot testen s = _
    unfold execPerstDeassert
    dsimp only
    rw [hh, if_neg (by rw [perst]; exact Bool.false_ne_true), if_pos (by rw [ok]; rfl)]
  case again =>
    intro slot testen perst
    show execPerstDeassert tm slot testen s = _
    unfold execPerstDeassert
    dsimp only
    rw [hh, if_pos (by rw [perst]; rfl)]
  case warm =>
    intro v up pair code
    obtain ⟨t, ends, left, stn, queue, rest⟩ := warmReset_answers hh v up pair code
    exact ⟨t, ends, gone left stn queue, rest⟩
  case other =>
    intro v up pair code
    show execWarmReset tm v s = _
    unfold execWarmReset
    dsimp only
    rw [hh, if_neg (by rw [up]; exact Bool.false_ne_true), if_neg (by rw [pair]; exact Bool.false_ne_true), if_pos code]
  case down =>
    intro v off
    show execWarmReset tm v s = _
    unfold execWarmReset
    dsimp only
    rw [hh, if_pos (by rw [off]; rfl)]
  case port =>
    show execCxlPortReset tm s = _
    exact onHub_ends hh rfl
  case link =>
    show execCxlLinkUp tm s = _
    exact onHub_ends hh rfl

end Sys2Proof.Machine
end

section
/-! Node formation from POWER to LINK (O59). -/

namespace Sys2Proof.Machine

open Hub

/-- A stage that is not begun, or whose predecessor is not done. -/
theorem idle_iff (a b : Bool) : (!a || !b) = true ↔ a = false ∨ b = false := by cases a <;> cases b <;> decide

theorem not_idle {a b : Bool} (ha : a = true) (hb : b = true) : ¬ (!a || !b) = true := by
  rw [idle_iff, ha, hb]
  exact not_or.2 ⟨Bool.noConfusion, Bool.noConfusion⟩

namespace Hub

section
variable (h : Hub)

/-! ### A stop of formation, stages and the order of their registers -/

theorem still_stopForm (r d : Nat) : (h.stopForm r d).still = h.still := by
  unfold stopForm
  split
  · rfl
  · dsimp only
    rw [still_signal, still_devEv, still_p, still_p]

theorem reg_stopForm (r d : Nat) {a : Nat} (ha : a ∉ reportRegs) (hs : a ≠ F.NFSTAT_stage.a) : (h.stopForm r d).reg a = h.reg a := by
  unfold stopForm
  split
  · rfl
  · dsimp only
    rw [reg_signal _ _ ha, reg_devEv _ _ _ _ _ ha, reg_p_ne _ F.NFSTAT_reason _ hs, reg_p_ne _ F.NFSTAT_stopped _ hs]

theorem stage_of_reg {a b : Hub} (e : a.reg F.NFDONE_done.a = b.reg F.NFDONE_done.a) (k : Nat) : a.stage k = b.stage k := by
  unfold stage
  rw [g_of_reg F.NFDONE_done e]

theorem gi_of_reg {a b : Hub} (f : Fld) (i : Nat) (e : a.reg (f.a + f.stride * i) = b.reg (f.a + f.stride * i)) : a.gi f i = b.gi f i := by
  unfold gi
  rw [e]

/-! ### The marks of BOOT -/

/-- What BOOT leaves of formation and security. -/
def bootMark : Nt × Nat × BitVec 32 × Nat := (h.nf.bootNt, h.nf.boots, h.sec.fwSec, h.g F.NFDONE_done)

theorem bootMark_of_still {a b : Hub} (e : a.still = b.still) (r : a.reg F.NFDONE_done.a = b.reg F.NFDONE_done.a) : a.bootMark = b.bootMark := by
  have sec : a.sec.fwSec = b.sec.fwSec := congrArg (·.sec.fwSec) e
  unfold bootMark
  rw [nf_of_still e, sec, g_of_reg F.NFDONE_done r]

theorem bootMark_setPw (p : Power) : ({ h with pw := p } : Hub).bootMark = h.bootMark := rfl

theorem bootMark_p (f : Fld) (v : Nat) (hf : F.NFDONE_done.a ≠ f.a) : (h.p f v).bootMark = h.bootMark :=
  bootMark_of_still (still_p h f v) (reg_p_ne h f v hf)

theorem bootMark_wake (d : Nat) : (h.wake d).bootMark = h.bootMark := by
  have asked (g : Hub) : (if g.pw.reqs.isEmpty && decide (0 < g.pw.tokens) && decide (g.pw.grantAt ≤ g.nt) then g.grant d
      else ({ g with pw := { g.pw with reqs := g.pw.reqs ++ [(g.nt, d)] } } : Hub).inc F.PWRWAKEDLY_count).bootMark = g.bootMark := by
    split
    · unfold grant
      dsimp only
      split
      · exact bootMark_setPw g _
      · exact (bootMark_p _ F.PWRDOM_on _ (by decide)).trans (bootMark_setPw g _)
    · exact (bootMark_p _ F.PWRWAKEDLY_count _ (by decide)).trans (bootMark_setPw g _)
  have fired : (h.fireAt 0x22 (fun _ => true)).2.bootMark = h.bootMark :=
    bootMark_of_still (still_fireAt h _ _) (reg_fireAt h _ _ (by decide))
  unfold wake
  split
  · rfl
  · unfold token
    split
    · rfl
    · rcases hq : h.fireAt 0x22 (fun _ => true) with ⟨_ | x, u⟩
      · rw [hq] at fired
        exact (asked u).trans fired
      · rw [hq] at fired
        exact (asked _).trans ((bootMark_setPw u _).trans fired)

theorem bootMark_grnStart : h.grnStart.bootMark = h.bootMark := by
  unfold grnStart
  split
  · rfl
  · dsimp only
    split
    · refine (bootMark_of_still (b := { h with nf := { h.nf with grnOn := true } }) (still_stopForm _ 9 0) ?_).trans rfl
      exact reg_stopForm _ 9 0 (by decide) (by decide)
    · rfl

/-- The firmware that has started, before the other domains are asked for. -/
def started (f : FwImage) : Hub :=
  let (rom, h) := h.fresh256
  let (prov, h) := h.fresh256
  let h := ((h.logBoot 1 0 0 rom).logBoot 2 0 f.secver.toNat f.digest).logBoot 3 0 0 prov
  let h := h.setReg F.HFWVER_patch.a (BitVec.ofNat 64 (setBits (h.reg F.HFWVER_patch.a).toNat 23 0 f.level.toNat))
  let u := h.nt
  { h with sec := { h.sec with fwSec := f.secver }
           nf := { h.nf with bootNt := u, boots := if h.nf.warm then h.nf.boots else h.nf.boots + 1 } }

theorem started_marks (f : FwImage) : (h.started f).sec.fwSec = f.secver ∧ (h.started f).nf.bootNt = h.nt
    ∧ (h.started f).nf.boots = (if h.nf.warm then h.nf.boots else h.nf.boots + 1) := ⟨rfl, rfl, rfl⟩

/-- The hub that BOOT leaves. -/
def bootEnds (f : FwImage) : Hub :=
  let h := (h.started f).stageDone 2
  let h := (List.range 16).foldl (fun (h : Hub) n => h.pi F.MOLPSTAT_state n 1) h
  let h := ([2, 3] ++ (List.range 4).map (· + 8) ++ (List.range 32).map (· + 24)).foldl (fun (h : Hub) d => h.wake d) h
  if h.nf.grnGo then h.grnStart else h

theorem bootMark_bootEnds (f : FwImage) : (h.bootEnds f).bootMark = ((h.started f).stageDone 2).bootMark := by
  have ports : ((List.range 16).foldl (fun (h : Hub) n => h.pi F.MOLPSTAT_state n 1) ((h.started f).stageDone 2)).bootMark = ((h.started f).stageDone 2).bootMark := by
    refine foldl_keeps _ bootMark _ (fun g n => bootMark_of_still (still_pi g _ n 1) (reg_pi_ne g _ n 1 _ ?_)) _
    show (0x48008 : Nat) ≠ 0x28100 + 0x40 * n
    omega
  have woken := (foldl_keeps _ bootMark (fun (h : Hub) d => h.wake d) (fun g d => bootMark_wake g d)
    ([2, 3] ++ (List.range 4).map (· + 8) ++ (List.range 32).map (· + 24))).trans ports
  unfold bootEnds
  dsimp only
  split
  · exact (bootMark_grnStart _).trans woken
  · exact woken

theorem bootEnds_marks (f : FwImage) : (h.bootEnds f).stage 2 = true ∧ (h.bootEnds f).sec.fwSec = f.secver ∧ (h.bootEnds f).nf.bootNt = h.nt
    ∧ (h.bootEnds f).nf.boots = (if h.nf.warm then h.nf.boots else h.nf.boots + 1) := by
  have mark := bootMark_bootEnds h f
  obtain ⟨sec, nt, boots⟩ := started_marks h f
  simp only [bootMark, Prod.mk.injEq] at mark
  obtain ⟨mNt, mBoots, mSec, mDone⟩ := mark
  refine ⟨?_, mSec.trans sec, mNt.trans nt, mBoots.trans boots⟩
  unfold stage
  rw [mDone]
  exact stage_stageDone (h.started f) 2 (by decide)

end

/-! ### The LINK window (R482) -/

/-- A port as the window ends. -/
def windowPort (u : Nt) (states : List (BitVec 3)) (h : Hub) (n : Nat) : Hub :=
  let s := (states.getD n 0).toNat
  let h := h.setPort n { h.port n with lastRx := u }
  if h.gi F.MOLPSTAT_state n = 4 then h else h.pi F.MOLPSTAT_state n (if s = 2 ∨ s = 3 ∨ s = 0 then s else 4)

section
variable (u : Nt) (states : List (BitVec 3)) (h : Hub)

/-- The state that the window gives a port. -/
def stateAfter (old : Nat) (x : BitVec 3) : Nat := if old = 4 then 4 else if x ∈ [(0 : BitVec 3), 2, 3] then x.toNat else 4

theorem state_windowPort_same (n : Nat) : (windowPort u states h n).gi F.MOLPSTAT_state n = stateAfter (h.gi F.MOLPSTAT_state n) (states.getD n 0) := by
  have shown (x : BitVec 3) : (if x.toNat = 2 ∨ x.toNat = 3 ∨ x.toNat = 0 then x.toNat else 4) % 2 ^ 3 = if x ∈ [(0 : BitVec 3), 2, 3] then x.toNat else 4 := by
    revert x
    decide
  have same : (h.setPort n { h.port n with lastRx := u }).gi F.MOLPSTAT_state n = h.gi F.MOLPSTAT_state n := rfl
  unfold windowPort stateAfter
  dsimp only
  rw [same]
  split
  · next failed => exact same.trans failed
  · rw [gi_pi_same _ _ _ _ (by decide)]
    exact shown _

theorem reg_windowPort_ne (n a : Nat) (ha : a ≠ F.MOLPSTAT_state.a + F.MOLPSTAT_state.stride * n) : (windowPort u states h n).reg a = h.reg a := by
  unfold windowPort
  dsimp only
  split
  · rfl
  · exact reg_pi_ne _ F.MOLPSTAT_state n _ a ha

theorem state_windowPorts (l : List Nat) (hl : l.Nodup) (n : Nat) : (l.foldl (windowPort u states) h).gi F.MOLPSTAT_state n =
    if n ∈ l then stateAfter (h.gi F.MOLPSTAT_state n) (states.getD n 0) else h.gi F.MOLPSTAT_state n := by
  induction l generalizing h with
  | nil => rfl
  | cons m l ih =>
    obtain ⟨fresh, rest⟩ := List.nodup_cons.1 hl
    rw [List.foldl_cons, ih _ rest]
    by_cases e : n = m
    · subst e
      rw [if_neg fresh, if_pos List.mem_cons_self, state_windowPort_same]
    · have other : (windowPort u states h m).gi F.MOLPSTAT_state n = h.gi F.MOLPSTAT_state n := by
        refine gi_of_reg _ _ (reg_windowPort_ne u states h m _ ?_)
        show (0x28100 + 0x40 * n : Nat) ≠ 0x28100 + 0x40 * m
        omega
      rw [other]
      simp only [List.mem_cons, e, false_or]

end

/-! ### The device's own record (R484) -/

section
variable (h : Hub)

theorem mem_addRec (r : TopoRec) : r ∈ (h.addRec r).nf.recs := by
  unfold addRec
  split
  · next there => exact List.contains_iff_mem.1 there
  · exact List.mem_append_right _ List.mem_cons_self

theorem ownRec_addRec (r : TopoRec) : (h.addRec r).ownRec = h.ownRec := by
  unfold addRec
  split <;> rfl

/-- Closing a command changes nothing that the own record shows. -/
theorem ownRec_finish (old : Hub) : (finish old h).ownRec = h.ownRec := by
  have ports : ∀ n ∈ List.range 16, F.MOLPSTAT_state.a + F.MOLPSTAT_state.stride * n ∉ reportRegs := by decide +kernel
  have state (n : Nat) (hn : n ∈ List.range 16) : (finish old h).gi F.MOLPSTAT_state n = h.gi F.MOLPSTAT_state n := gi_finish h old _ n (ports n hn)
  unfold ownRec
  rw [g_finish h old F.PWRSTRAP_slot (by decide), reg_finish h old (a := F.HSERIAL_serial.a) (by decide), reg_finish h old (a := F.HFWVER_patch.a) (by decide),
    g_finish h old F.ARITHREV_rev (by decide), g_finish h old F.HDEVIDX_profile (by decide), g_finish h old F.NFNODEID_id (by decide), ntEver_finish, nt_finish,
    gr_finish, nf_finish]
  dsimp only
  congr 1
  refine List.map_congr_left fun n hn => ?_
  rw [state n hn]

end

/-- The hub at the end of the LINK window. -/
def linked (h : Hub) (states : List (BitVec 3)) : Hub :=
  let g := (List.range 16).foldl (windowPort h.nt states) h
  let g := ({ g with nf := { g.nf with linkNt := h.nt } } : Hub).stageDone 4
  g.addRec g.ownRec

theorem reg_addRec (h : Hub) (r : TopoRec) (a : Nat) : (h.addRec r).reg a = h.reg a := by
  unfold addRec
  split <;> rfl

theorem nf_addRec (h : Hub) (r : TopoRec) : (h.addRec r).nf.linkNt = h.nf.linkNt := by
  unfold addRec
  split <;> rfl

theorem linked_marks (h : Hub) (states : List (BitVec 3)) : (h.linked states).stage 4 = true ∧ (h.linked states).nf.linkNt = h.nt
    ∧ (∀ n, n < 16 → (h.linked states).gi F.MOLPSTAT_state n = stateAfter (h.gi F.MOLPSTAT_state n) (states.getD n 0))
    ∧ (h.linked states).ownRec ∈ (h.linked states).nf.recs := by
  unfold linked
  dsimp only
  generalize hg : (List.range 16).foldl (windowPort h.nt states) h = g
  generalize hv : ({ g with nf := { g.nf with linkNt := h.nt } } : Hub).stageDone 4 = v
  refine ⟨?_, ?_, fun n hn => ?_, ?_⟩
  · rw [stage_of_reg (reg_addRec v v.ownRec _), ← hv]
    exact stage_stageDone _ 4 (by decide)
  · rw [nf_addRec, ← hv]
    rfl
  · rw [gi_of_reg _ _ (reg_addRec v v.ownRec _)]
    have done : v.gi F.MOLPSTAT_state n = g.gi F.MOLPSTAT_state n := by
      rw [← hv]
      refine gi_of_reg _ _ (reg_stageDone _ ?_ ?_ ?_)
      · show (0x28100 + 0x40 * n : Nat) ≠ 0x48008
        omega
      · show (0x28100 + 0x40 * n : Nat) ≠ 0x48040 + 4 * 4
        omega
      · show (0x28100 + 0x40 * n : Nat) ≠ 0x48004
        omega
    rw [done, ← hg, state_windowPorts _ _ _ _ List.nodup_range, if_pos (List.mem_range.2 hn)]
  · rw [ownRec_addRec]
    exact mem_addRec v v.ownRec

end Hub

end Sys2Proof.Machine
end

section
/-! The commands of node formation (O59). -/

namespace Sys2Proof.Machine

open Hub

namespace Hub

variable (h : Hub)

/-! ### HELLO and the records (R482, R484) -/

/-- The hub with the peer that a port has heard. -/
def peerHeard (port : BitVec 4) (arg : BitVec 24) : Hub :=
  let n := port.toNat
  let peer := bitsOf arg.toNat 10 7
  let g := ({ h with nf := { h.nf with heard := smPut h.nf.heard n (BitVec.ofNat 7 (bitsOf arg.toNat 6 0), BitVec.ofNat 4 peer) } } : Hub).pi F.MOLPSTAT_peer_port n peer
  if bitsOf arg.toNat 23 12 = h.g F.NFNODEID_id then g else g.pi F.MOLPSTAT_state n 4

theorem stage_peerHeard (port : BitVec 4) (arg : BitVec 24) (k : Nat) : (h.peerHeard port arg).stage k = h.stage k := by
  have other (f : Fld) (hf : f.a = 0x28100 ∧ f.stride = 0x40) : F.NFDONE_done.a ≠ f.a + f.stride * port.toNat := by
    rw [hf.1, hf.2]
    show (0x48008 : Nat) ≠ 0x28100 + 0x40 * port.toNat
    omega
  refine stage_of_reg ?_ k
  unfold peerHeard
  dsimp only
  split
  · exact reg_pi_ne _ F.MOLPSTAT_peer_port port.toNat _ _ (other _ ⟨rfl, rfl⟩)
  · rw [reg_pi_ne _ F.MOLPSTAT_state port.toNat _ _ (other _ ⟨rfl, rfl⟩)]
    exact reg_pi_ne _ F.MOLPSTAT_peer_port port.toNat _ _ (other _ ⟨rfl, rfl⟩)

theorem hello_follows (port : BitVec 4) (arg : BitVec 24) : (let h : Hub := { h with nf := { h.nf with
        heard := smPut h.nf.heard port.toNat (BitVec.ofNat 7 (bitsOf arg.toNat 6 0), BitVec.ofNat 4 (bitsOf arg.toNat 10 7)) } }
      let h := h.pi F.MOLPSTAT_peer_port port.toNat (bitsOf arg.toNat 10 7)
      if bitsOf arg.toNat 23 12 = h.g F.NFNODEID_id then h else h.pi F.MOLPSTAT_state port.toNat 4) = h.peerHeard port arg := by
  have own : (({ h with nf := { h.nf with heard := smPut h.nf.heard port.toNat (BitVec.ofNat 7 (bitsOf arg.toNat 6 0), BitVec.ofNat 4 (bitsOf arg.toNat 10 7)) } } : Hub).pi
      F.MOLPSTAT_peer_port port.toNat (bitsOf arg.toNat 10 7)).g F.NFNODEID_id = h.g F.NFNODEID_id := by
    refine g_of_reg F.NFNODEID_id (reg_pi_ne _ F.MOLPSTAT_peer_port port.toNat _ _ ?_)
    show (0x48010 : Nat) ≠ 0x28100 + 0x40 * port.toNat
    omega
  unfold peerHeard
  dsimp only
  rw [own]

theorem addRec_new {r : TopoRec} (hr : r ∉ h.nf.recs) : h.addRec r =
    { h with nf := { h.nf with recs := h.nf.recs.filter (fun x => !(x.slot == r.slot && x.serial == r.serial)) ++ [r], added := true } } :=
  if_neg (mt List.contains_iff_mem.1 hr)

theorem addRec_known {r : TopoRec} (hr : r ∈ h.nf.recs) : h.addRec r = h := if_pos (List.contains_iff_mem.2 hr)

theorem foldl_emit (l : List TopoRec) : l.foldl (fun (h : Hub) r => h.emit (.topo r)) h = { h with out := h.out ++ l.map Out.topo } := by
  induction l generalizing h with
  | nil => rw [List.map_nil, List.append_nil]; rfl
  | cons r l ih =>
    rw [List.foldl_cons, ih, List.map_cons, List.append_cons]
    rfl

/-! ### The evaluation of the map (R484, R485) -/

/-- The hub once the digest of its map has gone out. -/
def digestSent : Hub := ({ h with nf := { h.nf with digest := some (h.mapCrc, h.nt) } } : Hub).emit (.digest h.mapCrc)

theorem evaluate_fails {r d : Nat} (hc : h.digestSent.formCheck = .inl (r, d)) : h.evaluate = h.digestSent.stopForm r d := by
  unfold evaluate
  dsimp only
  rw [show ({ h with nf := { h.nf with digest := some (h.mapCrc, h.nt) } } : Hub).emit (.digest h.mapCrc) = h.digestSent from rfl, hc]

theorem evaluate_passes {fills : List (Nat × Nat)} (hc : h.digestSent.formCheck = .inr fills) : h.evaluate =
    if h.nf.coarseNt = 0 then (h.digestSent.takePlace fills).stageDone 5
    else
      let g := h.digestSent.fresh.2
      let joined := (g.takePlace []).p F.HDEVIDX_spare 1
      if h.digestSent.fresh.1.getLsbD 0 then ((g.p F.NFSTAT_join_wait 1).p F.NFSTAT_reason 0xC).devEv 0x080C 4 0
      else (joined.devEv 0x0703 4 joined.dev).stageDone 5 := by
  unfold evaluate
  dsimp only
  rw [show ({ h with nf := { h.nf with digest := some (h.mapCrc, h.nt) } } : Hub).emit (.digest h.mapCrc) = h.digestSent from rfl, hc]
  rfl

end Hub

section
variable {tm : Nt} {s : State} {h u : Hub} (hh : s.hub.stamp tm = h)
include hh

/-! ### POWER, BOOT, SELFTEST -/

theorem powerStage_ends (hu : (if h.forming 1 && decide (h.pw.grantAt ≤ h.nt) && Hub.bootDomains.all (fun d => h.powered d) then h.stageDone 1 else h) = u) :
    Ends (.powerStage tm) s u := by
  show execPowerStage tm s = _
  exact onHub_ends hh hu

theorem boot_starts {imgs : List FwImage} {f : FwImage} (on : h.forming 2 = true) (up : h.stage 1 = true) (hf : h.bootImage imgs = some f) :
    Ends (.boot tm imgs) s (h.bootEnds f) := by
  show execBoot tm imgs s = _
  refine onHub_ends hh ((if_neg (not_idle on up)).trans ?_)
  rw [hf]
  rfl

theorem boot_stops {imgs : List FwImage} (on : h.forming 2 = true) (up : h.stage 1 = true) (hf : h.bootImage imgs = none) :
    Ends (.boot tm imgs) s (h.stopForm 1) := by
  show execBoot tm imgs s = _
  refine onHub_ends hh ((if_neg (not_idle on up)).trans ?_)
  rw [hf]

theorem boot_idles {imgs : List FwImage} (off : h.forming 2 = false ∨ h.stage 1 = false) : Ends (.boot tm imgs) s h := by
  show execBoot tm imgs s = _
  exact onHub_ends hh (if_pos ((idle_iff _ _).2 off))

theorem selftest_passes {l : List (BitVec 2 × BitVec 10)} {g : Hub} (on : h.forming 3 = true) (up : h.stage 2 = true) (hl : h.testedStones l = some g) :
    Ends (.selftest tm none l) s (g.stageDone 3) := by
  show execSelftest tm none l s = _
  refine onHub_ends hh ((if_neg (not_idle on up)).trans ?_)
  dsimp only
  rw [hl]

theorem selftest_spareless {l : List (BitVec 2 × BitVec 10)} (on : h.forming 3 = true) (up : h.stage 2 = true) (hl : h.testedStones l = none) :
    Ends (.selftest tm none l) s (h.stopForm 2 ((l.head?.map (fun e => e.1.toNat * 1024 + e.2.toNat)).getD 0)) := by
  show execSelftest tm none l s = _
  refine onHub_ends hh ((if_neg (not_idle on up)).trans ?_)
  dsimp only
  rw [hl]

theorem selftest_fails {l : List (BitVec 2 × BitVec 10)} (on : h.forming 3 = true) (up : h.stage 2 = true) (x : BitVec 64) :
    Ends (.selftest tm (some x) l) s (h.stopForm 2 x.toNat) := by
  show execSelftest tm (some x) l s = _
  exact onHub_ends hh (if_neg (not_idle on up))

theorem selftest_idles {fail : Option (BitVec 64)} {l : List (BitVec 2 × BitVec 10)} (off : h.forming 3 = false ∨ h.stage 2 = false) :
    Ends (.selftest tm fail l) s h := by
  show execSelftest tm fail l s = _
  exact onHub_ends hh (if_pos ((idle_iff _ _).2 off))

/-! ### LINK -/

theorem linkWindow_links {states : List (BitVec 3)} (on : h.forming 4 = true) (up : h.stage 2 = true) : Ends (.linkWindow tm states) s (h.linked states) := by
  show execLinkWindow tm states s = _
  refine onHub_ends hh ((if_neg (not_idle on up)).trans ?_)
  unfold linked windowPort
  rfl

theorem linkWindow_idles {states : List (BitVec 3)} (off : h.forming 4 = false ∨ h.stage 2 = false) : Ends (.linkWindow tm states) s h := by
  show execLinkWindow tm states s = _
  exact onHub_ends hh (if_pos ((idle_iff _ _).2 off))

theorem hello_hears {port : BitVec 4} {arg : BitVec 24} (up : h.stage 2 = true) (first : smLook h.nf.heard port.toNat = none) :
    Ends (.hello tm port arg) s (if h.stage 4 then (h.peerHeard port arg).addRec (h.peerHeard port arg).ownRec else h.peerHeard port arg) := by
  show execHello tm port arg s = _
  refine onHub_ends hh ((if_neg ?_).trans ?_)
  · rw [up, first]
    exact Bool.false_ne_true
  · have eq := hello_follows h port arg
    dsimp only at eq
    dsimp only
    rw [eq, stage_peerHeard]

theorem hello_idles {port : BitVec 4} {arg : BitVec 24} (off : h.stage 2 = false ∨ (smLook h.nf.heard port.toNat).isSome = true) :
    Ends (.hello tm port arg) s h := by
  show execHello tm port arg s = _
  refine onHub_ends hh (if_pos ?_)
  rw [Bool.or_eq_true, Bool.not_eq_true']
  exact off

theorem helloSend_ends {port : BitVec 4} (hu : (if h.portUp port.toNat then h.emit (.control port 0x10 (BitVec.ofNat 24 (h.helloArg port.toNat))) else h) = u) :
    Ends (.helloSend tm port) s u := by
  show execHelloSend tm port s = _
  exact onHub_ends hh hu

/-! ### TOPOLOGY -/

theorem topologyRecord_ends {r : TopoRec} (hu : (if r.ok && h.stage 2 && !h.stage 5 then h.addRec r else h) = u) : Ends (.topologyRecord tm r) s u := by
  show execTopologyRecord tm r s = _
  exact onHub_ends hh hu

theorem topologyResend_ends (up : h.stage 4 = true) : Ends (.topologyResend tm) s
    { h with out := h.out ++ h.nf.recs.map Out.topo
             nf := { h.nf with quiet := if h.nf.added then 0 else h.nf.quiet + 1, added := false } } := by
  show execTopologyResend tm s = _
  refine onHub_ends hh ((if_neg (by rw [up]; exact Bool.false_ne_true)).trans ?_)
  dsimp only
  rw [foldl_emit]

theorem topologyResend_idles (off : h.stage 4 = false) : Ends (.topologyResend tm) s h := by
  show execTopologyResend tm s = _
  exact onHub_ends hh (if_pos (by rw [off]; rfl))

theorem topologyComplete_ends (hu : (if !h.forming 5 || !h.stage 4 || h.on F.NFSTAT_join_wait then h
    else if h.on F.NFSTAT_test then
      ((((h.p F.HDEVIDX_index 0).p F.HDEVIDX_valid 1).p F.HDEVIDX_spare 0).p F.NFNODE_active 16).stageDone 5
    else if h.mapComplete then h.evaluate else h) = u) : Ends (.topologyComplete tm) s u := by
  show execTopologyComplete tm s = _
  exact onHub_ends hh hu

theorem topologyTimeout_ends (hu : (if !h.forming 5 || !h.stage 4 || h.on F.NFSTAT_join_wait || h.on F.NFSTAT_test then h
    else if h.nf.linkNt.toNat + max 1 (h.g F.NFTOPOTMO_ms) * 1000000 ≤ h.nt.toNat then h.evaluate else h) = u) : Ends (.topologyTimeout tm) s u := by
  show execTopologyTimeout tm s = _
  exact onHub_ends hh hu

theorem mapDigest_ends {crc : W64} (hu : (match h.nf.digest with
    | none => h
    | some (own, _) => if own != crc && h.stage 0 && !h.stage 11 then h.stopForm 7 else h) = u) : Ends (.mapDigest tm crc) s u := by
  show execMapDigest tm crc s = _
  exact onHub_ends hh hu

/-! ### ELECT, SYNC -/

theorem elect_ends (on : h.forming 6 = true) (up : h.stage 5 = true) : Ends (.elect tm) s
    (let g := if h.nf.coarseNt = 0 then (h.p F.NFNODE_master 0).p F.NFSTAT_master (b2n (h.dev == 0)) else h
     let g := if g.ownTime then g.setNt g.ntStart else g
     let g : Hub := { g with nf := { g.nf with electNt := g.nt } }
     (g.p F.NFOFFSET_parent g.parentOf).stageDone 6) := by
  have late : (if (h.nf.coarseNt != 0) = true then h else (h.p F.NFNODE_master 0).p F.NFSTAT_master (b2n (h.dev == 0)))
      = if h.nf.coarseNt = 0 then (h.p F.NFNODE_master 0).p F.NFSTAT_master (b2n (h.dev == 0)) else h := by
    by_cases e : h.nf.coarseNt = 0
    · rw [if_pos e, if_neg (by rw [e]; decide)]
    · rw [if_neg e, if_pos (bne_iff_ne.2 e)]
  show execElect tm s = _
  refine onHub_ends hh ((if_neg (not_idle on up)).trans ?_)
  dsimp only
  rw [late]
  rfl

theorem elect_idles (off : h.forming 6 = false ∨ h.stage 5 = false) : Ends (.elect tm) s h := by
  show execElect tm s = _
  exact onHub_ends hh (if_pos ((idle_iff _ _).2 off))

theorem sync_ends (hu : (if !h.forming 7 || !h.stage 6 then h
    else if h.ownTime || 10 ≤ h.nf.good then (({ h with nf := { h.nf with fineNt := h.nt } } : Hub).p F.NFSTAT_nt_valid 1).stageDone 7
    else h) = u) : Ends (.sync tm) s u := by
  show execSync tm s = _
  exact onHub_ends hh hu

theorem syncTimeout_ends (hu : (if h.forming 7 && h.stage 6 && decide (h.nf.electNt.toNat + 200000000 ≤ h.nt.toNat) then h.stopForm 0xA else h) = u) :
    Ends (.syncTimeout tm) s u := by
  show execSyncTimeout tm s = _
  exact onHub_ends hh hu

end

/-! ### The clauses -/

section
variable {tm : Nt} {s : State} {h : Hub} (hh : s.hub.stamp tm = h)
include hh

/-- The map may be evaluated. -/
def Hub.mapping (h : Hub) : Prop := h.forming 5 = true ∧ h.stage 4 = true ∧ h.on F.NFSTAT_join_wait = false

omit hh in
theorem mapping_iff : (!h.forming 5 || !h.stage 4 || h.on F.NFSTAT_join_wait) = true ↔ ¬ h.mapping := by
  unfold mapping
  cases h.forming 5 <;> cases h.stage 4 <;> cases h.on F.NFSTAT_join_wait <;> decide

/-- Both commands evaluate a map that is there. -/
theorem evaluates (on : h.mapping) (test : h.on F.NFSTAT_test = false) :
    (h.mapComplete = true → Ends (.topologyComplete tm) s h.evaluate)
    ∧ (h.nf.linkNt.toNat + max 1 (h.g F.NFTOPOTMO_ms) * 1000000 ≤ h.nt.toNat → Ends (.topologyTimeout tm) s h.evaluate) := by
  have going : ¬ (!h.forming 5 || !h.stage 4 || h.on F.NFSTAT_join_wait) = true := fun e => mapping_iff.1 e on
  have off : ¬ h.on F.NFSTAT_test = true := by rw [test]; exact Bool.false_ne_true
  refine ⟨fun full => topologyComplete_ends hh ((if_neg going).trans ((if_neg off).trans (if_pos full))), fun late => topologyTimeout_ends hh ((if_neg ?_).trans (if_pos late))⟩
  rw [Bool.or_eq_true]
  exact not_or.2 ⟨going, off⟩

theorem boot_answers {imgs : List FwImage} {f : FwImage} (on : h.forming 2 = true) (up : h.stage 1 = true) (hf : h.bootImage imgs = some f) :
    Answers (.boot tm imgs) s (fun t => t.hub.stage 2 = true ∧ t.hub.sec.fwSec = f.secver ∧ t.hub.nf.bootNt = h.nt
      ∧ t.hub.nf.boots = (if h.nf.warm then h.nf.boots else h.nf.boots + 1) ∧ HubOnly s t) := by
  obtain ⟨stage, sec, nt, boots⟩ := bootEnds_marks h f
  have closed : (finish s.hub (h.bootEnds f)).sec.fwSec = (h.bootEnds f).sec.fwSec := congrArg (·.fwSec) (sec_finish (h.bootEnds f) s.hub)
  refine (boot_starts hh on up hf).answers ⟨?_, closed.trans sec, ?_, ?_, rfl, rfl⟩
  · exact (stage_of_reg (reg_finish _ _ (by decide)) 2).trans stage
  · exact (congrArg Form.bootNt (nf_finish _ _)).trans nt
  · exact (congrArg Form.boots (nf_finish _ _)).trans boots

theorem linkWindow_answers {states : List (BitVec 3)} (on : h.forming 4 = true) (up : h.stage 2 = true) : Answers (.linkWindow tm states) s (fun t =>
    t.hub.stage 4 = true ∧ t.hub.nf.linkNt = h.nt
      ∧ (∀ n, n < 16 → t.hub.gi F.MOLPSTAT_state n =
        if h.gi F.MOLPSTAT_state n = 4 then 4 else if states.getD n 0 ∈ [0, 2, 3] then (states.getD n 0).toNat else 4)
      ∧ t.hub.ownRec ∈ t.hub.nf.recs ∧ HubOnly s t) := by
  have ports : ∀ n ∈ List.range 16, F.MOLPSTAT_state.a + F.MOLPSTAT_state.stride * n ∉ reportRegs := by decide +kernel
  obtain ⟨stage, nt, states, own⟩ := linked_marks h states
  refine (linkWindow_links hh on up).answers ⟨?_, ?_, fun n hn => ?_, ?_, rfl, rfl⟩
  · exact (stage_of_reg (reg_finish _ _ (by decide)) 4).trans stage
  · exact (congrArg Form.linkNt (nf_finish _ _)).trans nt
  · exact (gi_finish _ _ _ n (ports n (List.mem_range.2 hn))).trans (states n hn)
  · show (finish s.hub _).ownRec ∈ (finish s.hub _).nf.recs
    rw [ownRec_finish, nf_finish]
    exact own

end

/-- Settles O59, by the law of each command of formation. -/
theorem formationStages : Obligations.FormationStages := by
  intro tm s h sent maps full late both
  have hh : s.hub.stamp tm = h := rfl
  have moved {c : Instr} {u : Hub} (e : h.evaluate = u) (x : Ends c s h.evaluate) : Ends c s u := e ▸ x
  have complete (f : full) : Ends (.topologyComplete tm) s h.evaluate := (evaluates hh f.1 f.2.1).1 f.2.2
  have timeout (l : late) : Ends (.topologyTimeout tm) s h.evaluate := (evaluates hh l.1 l.2.1).2 l.2.2
  refine ⟨?power, ?powerIdle, ?boot, ?bootFail, ?bootIdle, ?test, ?testSpares, ?testIdle, ?testFail, ?link, ?linkIdle, ?hello, ?helloIdle, ?send,
    ?record, ?recordIdle, ?resend, ?resendIdle, ?single, ?fails, ?place, ?join, ?wait, ?noMap, ?noTest, ?noTime, ?differs, ?same, ?noDigest,
    ?elect, ?sync, ?electIdle, ?syncWait, ?syncIdle, ?syncLate, ?syncEarly⟩
  case power =>
    intro on granted awake
    refine powerStage_ends hh (if_pos ?_)
    rw [on, decide_eq_true granted, List.all_eq_true.2 awake]
    rfl
  case powerIdle =>
    intro why
    refine powerStage_ends hh (if_neg ?_)
    rw [Bool.and_eq_true, Bool.and_eq_true, decide_eq_true_eq, List.all_eq_true]
    rintro ⟨⟨on, granted⟩, awake⟩
    rcases why with off | early | ⟨d, hd, asleep⟩
    · rw [off] at on
      cases on
    · exact absurd granted (BitVec.not_le.2 early)
    · rw [awake d hd] at asleep
      cases asleep
  case boot => exact fun imgs f on up hf => boot_answers hh on up hf
  case bootFail => exact fun imgs on up hf => boot_stops hh on up hf
  case bootIdle => exact fun imgs off => boot_idles hh off
  case test => exact fun l g on up hl => selftest_passes hh on up hl
  case testSpares => exact fun l on up hl => selftest_spareless hh on up hl
  case testIdle => exact fun f l off => selftest_idles hh off
  case testFail => exact fun l u on up => selftest_fails hh on up u
  case link => exact fun states on up => linkWindow_answers hh on up
  case linkIdle => exact fun states off => linkWindow_idles hh off
  case hello =>
    intro port arg up first n peer g g'
    have ends := hello_hears hh up first (arg := arg)
    refine ⟨fun early => ?_, fun later => ?_⟩
    · rwa [if_neg (by rw [early]; exact Bool.false_ne_true)] at ends
    · rwa [if_pos later] at ends
  case helloIdle => exact fun port arg off => hello_idles hh off
  case send =>
    intro port arg
    exact ⟨fun up => helloSend_ends hh (if_pos up), fun down => helloSend_ends hh (if_neg (by rw [down]; exact Bool.false_ne_true))⟩
  case record =>
    intro r ok up early new
    refine topologyRecord_ends hh ((if_pos ?_).trans (addRec_new h new))
    rw [ok, up, early]
    rfl
  case recordIdle =>
    intro r why
    by_cases known : r ∈ h.nf.recs
    · refine topologyRecord_ends hh ?_
      rw [addRec_known h known, ite_self]
    · refine topologyRecord_ends hh (if_neg ?_)
      rw [Bool.and_eq_true, Bool.and_eq_true, Bool.not_eq_true']
      rintro ⟨⟨ok, up⟩, early⟩
      rw [ok, up, early] at why
      simp [known] at why
  case resend => exact fun up => topologyResend_ends hh up
  case resendIdle => exact fun off => topologyResend_idles hh off
  case single => exact fun on test => topologyComplete_ends hh ((if_neg fun e => mapping_iff.1 e on).trans (if_pos test))
  case fails =>
    exact ⟨fun f r d hc => moved (evaluate_fails h hc) (complete f), fun l r d hc => moved (evaluate_fails h hc) (timeout l)⟩
  case place =>
    exact ⟨fun f fills hc first => moved ((evaluate_passes h hc).trans (if_pos first)) (complete f),
      fun l fills hc first => moved ((evaluate_passes h hc).trans (if_pos first)) (timeout l)⟩
  case join =>
    exact ⟨fun f fills hc later => moved ((evaluate_passes h hc).trans (if_neg later)) (complete f),
      fun l fills hc later => moved ((evaluate_passes h hc).trans (if_neg later)) (timeout l)⟩
  case wait =>
    intro on test part
    refine topologyComplete_ends hh ((if_neg fun e => mapping_iff.1 e on).trans ((if_neg ?_).trans (if_neg ?_)))
    · rw [test]
      exact Bool.false_ne_true
    · rw [part]
      exact Bool.false_ne_true
  case noMap =>
    intro off
    have idle : (!h.forming 5 || !h.stage 4 || h.on F.NFSTAT_join_wait) = true := mapping_iff.2 off
    exact ⟨topologyComplete_ends hh (if_pos idle), topologyTimeout_ends hh (if_pos (by rw [idle]; rfl))⟩
  case noTest => exact fun test => topologyTimeout_ends hh (if_pos (by rw [test, Bool.or_true]))
  case noTime =>
    intro early
    refine topologyTimeout_ends hh ?_
    rw [if_neg (Nat.not_le.2 early), ite_self]
  case differs =>
    intro own crc t sent' other on up
    refine mapDigest_ends hh ?_
    rw [sent']
    exact if_pos (by rw [bne_iff_ne.2 other, on, up]; rfl)
  case same =>
    intro crc t sent'
    refine mapDigest_ends hh ?_
    rw [sent']
    exact if_neg (by rw [bne_self_eq_false]; exact Bool.false_ne_true)
  case noDigest =>
    intro crc why
    refine mapDigest_ends hh ?_
    split
    · rfl
    · next own t sent' =>
      refine if_neg ?_
      rw [Bool.and_eq_true, Bool.and_eq_true, Bool.not_eq_true']
      rintro ⟨⟨-, on⟩, up⟩
      rw [sent', on, up] at why
      simp at why
  case elect => exact fun on up => elect_ends hh on up
  case sync =>
    intro on up ready
    refine sync_ends hh ((if_neg (not_idle on up)).trans (if_pos ?_))
    rw [Bool.or_eq_true, decide_eq_true_eq]
    exact ready
  case electIdle => exact fun off => elect_idles hh off
  case syncWait =>
    intro other few
    refine sync_ends hh ?_
    rw [if_neg (c := (h.ownTime || decide (10 ≤ h.nf.good)) = true), ite_self]
    rw [other, decide_eq_false (Nat.not_le.2 few)]
    exact Bool.false_ne_true
  case syncIdle =>
    intro off
    refine ⟨sync_ends hh (if_pos ((idle_iff _ _).2 off)), syncTimeout_ends hh (if_neg ?_)⟩
    rw [Bool.and_eq_true, Bool.and_eq_true]
    rintro ⟨⟨on, up⟩, -⟩
    exact not_idle on up ((idle_iff _ _).2 off)
  case syncLate =>
    intro on up late'
    exact syncTimeout_ends hh (if_pos (by rw [on, up, decide_eq_true late']; rfl))
  case syncEarly =>
    intro early
    exact syncTimeout_ends hh (if_neg (by rw [decide_eq_false (Nat.not_le.2 early), Bool.and_false]; exact Bool.false_ne_true))

end Sys2Proof.Machine
end

section
/-! Node time and the stages from GRANARY to READY (O60). -/

namespace Sys2Proof.Machine

open Hub

namespace Hub

variable (h : Hub)

/-! ### Fine exchanges (R488, R489) -/

/-- The offset that a fine exchange gives: an armed NT_OFFSET replaces it. -/
def offsetIn (x : BitVec 16) : BitVec 16 := ((h.fireAt 0x28 (fun _ => true)).1.map (fun i => i.b.setWidth 16)).getD x

/-- The hub with the offset, out of holdover. -/
def offsetTaken (o : BitVec 16) : Hub :=
  let g := (h.p F.NFOFFSET_ns o.toNat).p F.NFOFFSET_parent h.parentOf
  let g : Hub := { g with nf := { g.nf with good := if magnitude o ≤ 2 then g.nf.good + 1 else 0, fineNt := g.nt, holdNt := none, expired := false } }
  g.p F.NFSTAT_holdover 0

/-- The hub with the offset, before the exchange's own frame goes out. -/
def aligned (o : BitVec 16) : Hub :=
  let g := h.offsetTaken o
  if g.stage 7 then (g.p F.NFSYNCMAX_ns (max (g.g F.NFSYNCMAX_ns) (magnitude o))).p F.NFSTAT_nt_valid 1 else g

/-- The hub once it has sent. -/
def sending (l : List Out) : Hub := { h with out := h.out ++ l }

theorem sending_nil : h.sending [] = h := by
  unfold sending
  rw [List.append_nil]

/-- An exchange that is heard: the offset is taken, and the exchange's own frame goes out where a port leads to the parent. -/
theorem fineIn_eq {x : BitVec 16} (up : h.stage 6 = true) (own : h.ownTime = false) (heard : h.nf.dropNt ≤ h.nt) :
    ∃ l, h.fineIn x = ((h.fireAt 0x28 (fun _ => true)).2.aligned (h.offsetIn x)).sending l := by
  have going : ¬ (!h.stage 6 || h.ownTime || decide (h.nt < h.nf.dropNt)) = true := by
    rw [up, own, decide_eq_false (BitVec.not_lt.2 heard)]
    exact Bool.false_ne_true
  have silent (a : Hub) : ∃ l, a = a.sending l := ⟨[], (sending_nil a).symm⟩
  have sends (a : Hub) (o : Out) : ∃ l, a.emit o = a.sending l := ⟨[o], rfl⟩
  unfold fineIn offsetIn
  dsimp only
  rw [if_neg going]
  rcases h.fireAt 0x28 (fun _ => true) with ⟨_ | i, u⟩
  · dsimp only [Option.map_none, Option.getD_none]
    split
    · exact silent (u.aligned x)
    · exact sends (u.aligned x) _
  · dsimp only [Option.map_some, Option.getD_some]
    split
    · exact silent (u.aligned (i.b.setWidth 16))
    · exact sends (u.aligned (i.b.setWidth 16)) _

theorem fineIn_lost {x : BitVec 16} (why : h.stage 6 = false ∨ h.ownTime = true ∨ h.nt < h.nf.dropNt) : h.fineIn x = h := by
  unfold fineIn
  refine if_pos ?_
  rcases why with early | own | lost
  · rw [early]; rfl
  · rw [own, Bool.or_true, Bool.true_or]
  · rw [decide_eq_true lost, Bool.or_true]

theorem magnitude_le (o : BitVec 16) : magnitude o < 2 ^ 16 := by
  unfold magnitude
  have := BitVec.toInt_lt (x := o)
  have := BitVec.le_toInt (x := o)
  omega

theorem reg_setNf (x : Form) (a : Nat) : ({ h with nf := x } : Hub).reg a = h.reg a := rfl

theorem reg_offsetTaken (o : BitVec 16) {a : Nat} (ho : a ≠ F.NFOFFSET_ns.a) (hs : a ≠ F.NFSTAT_holdover.a) : (h.offsetTaken o).reg a = h.reg a := by
  unfold offsetTaken
  dsimp only
  rw [reg_p_ne _ F.NFSTAT_holdover _ hs, reg_setNf, reg_p_ne _ F.NFOFFSET_parent _ ho, reg_p_ne _ F.NFOFFSET_ns _ ho]

theorem ns_offsetTaken (o : BitVec 16) : (h.offsetTaken o).g F.NFOFFSET_ns = o.toNat := by
  unfold offsetTaken
  dsimp only
  rw [g_p_ne _ F.NFSTAT_holdover F.NFOFFSET_ns _ (by decide) (by decide), g_of_reg F.NFOFFSET_ns (reg_setNf _ _ _),
    g_p_ne _ F.NFOFFSET_parent F.NFOFFSET_ns _ (by decide) (by decide), g_p_same _ _ _ (by decide)]
  exact Nat.mod_eq_of_lt o.isLt

theorem nf_offsetTaken (o : BitVec 16) : (h.offsetTaken o).nf =
    { h.nf with good := if magnitude o ≤ 2 then h.nf.good + 1 else 0, fineNt := h.nt, holdNt := none, expired := false } := by
  unfold offsetTaken
  dsimp only
  generalize h.parentOf = d
  rfl

theorem holdover_offsetTaken (o : BitVec 16) : (h.offsetTaken o).on F.NFSTAT_holdover = false := by
  unfold offsetTaken on
  rw [g_p_same _ _ _ (by decide)]
  rfl

/-- The values that an exchange leaves. -/
theorem aligned_marks (o : BitVec 16) : (h.aligned o).g F.NFOFFSET_ns = o.toNat
    ∧ (h.aligned o).nf = { h.nf with good := if magnitude o ≤ 2 then h.nf.good + 1 else 0, fineNt := h.nt, holdNt := none, expired := false }
    ∧ (h.aligned o).on F.NFSTAT_holdover = false
    ∧ (h.stage 7 = true → (h.aligned o).on F.NFSTAT_nt_valid = true ∧ (h.aligned o).g F.NFSYNCMAX_ns = max (h.g F.NFSYNCMAX_ns) (magnitude o)) := by
  have same : (h.offsetTaken o).stage 7 = h.stage 7 := stage_of_reg (reg_offsetTaken h o (by decide) (by decide)) 7
  have most : (h.offsetTaken o).g F.NFSYNCMAX_ns = h.g F.NFSYNCMAX_ns := g_of_reg _ (reg_offsetTaken h o (by decide) (by decide))
  have small : h.g F.NFSYNCMAX_ns < 2 ^ 16 := Nat.mod_lt _ (by decide)
  have ns := ns_offsetTaken h o
  have off := holdover_offsetTaken h o
  have nf := nf_offsetTaken h o
  have far := magnitude_le o
  unfold aligned
  dsimp only
  generalize h.offsetTaken o = u at same most ns off nf
  rw [same]
  by_cases up : h.stage 7 = true
  · rw [if_pos up]
    refine ⟨?_, nf, ?_, fun _ => ⟨on_p_same _ _ (by decide), ?_⟩⟩
    · rw [g_p_ne _ _ _ _ (by decide) (by decide), g_p_ne _ _ _ _ (by decide) (by decide), ns]
    · rw [on_p_ne _ _ _ _ (by decide) (by decide), on_p_ne _ _ _ _ (by decide) (by decide), off]
    · rw [g_p_ne _ _ _ _ (by decide) (by decide), g_p_same _ _ _ (by decide), most]
      exact Nat.mod_eq_of_lt (max_lt small far)
  · rw [if_neg up]
    exact ⟨ns, nf, off, fun e => absurd e up⟩

end Hub

end Sys2Proof.Machine
end

section
/-! The commands from node time to READY (O60). -/

namespace Sys2Proof.Machine

open Hub

namespace Hub

variable (h : Hub)

/-! ### The Granary's start (R304, R323) -/

/-- The stage may start. -/
def grnStarts : Prop := h.stage 2 = true ∧ h.forming 8 = true ∧ h.nf.grnOn = false

theorem askGrn_starts (on : h.grnStarts) : h.askGrn =
    let begun : Hub := { h with nf := { h.nf with grnGo := true, grnOn := true } }
    if h.g F.GRNHMSIZE_slots < h.g F.GRNHMNEED_slots then begun.stopForm 9 else begun := by
  obtain ⟨up, on, first⟩ := on
  unfold askGrn grnStart
  refine if_neg ?_
  show ¬ (h.nf.grnOn || !h.forming 8 || !h.stage 2) = true
  rw [up, on, first]
  exact Bool.false_ne_true

theorem askGrn_waits (off : ¬ h.grnStarts) : h.askGrn = { h with nf := { h.nf with grnGo := true } } := by
  unfold askGrn grnStart
  refine if_pos ?_
  show (h.nf.grnOn || !h.forming 8 || !h.stage 2) = true
  unfold grnStarts at off
  revert off
  cases h.nf.grnOn <;> cases h.forming 8 <;> cases h.stage 2 <;> decide

/-- The hub with the Granary's working state begun afresh and its map asked for. -/
def grnFilled : Hub :=
  let reset : Hub := { h with gr := { h.gr with started := true, drain := none, hot := [], cooled := [], slots := [] } }
  reset.emit (.mapFill (BitVec.ofNat 64 (h.g F.GRNHMBASE_base * 2 ^ 16)) (h.mapPages - 16384))

/-- The objects of which units went with the tun. -/
def cutShort (u : Hub) : List Nat :=
  let left (k : Nat) : Nat := ((smLook u.gr.objs k).map (fun o => o.units.length)).getD 0
  (h.gr.objs.filter (fun e => decide (left e.1 < e.2.units.length))).map (·.1)

theorem grnReady_eq (ms : Nat) : h.grnReady ms =
    let clean := if !h.gr.started then Config.startClean else h.on F.GRNSTAT_clean
    let valid := if !h.gr.started then Config.drainValid else h.drained
    let r := (h.grnFilled.p F.GRNSTAT_rebuilt 1).p F.GRNREBUILD_ms ms
    let u := if clean then h.grnFilled
      else if valid then r
      else ((r.tunLost.dropLost (r.cutShort r.tunLost)).p F.GRNSTAT_drain_lost 1).devEv 0x0405 4 0
    ((u.p F.GRNSTAT_ready 1).weirs).stageDone 8 := rfl

end Hub

section
variable {tm : Nt} {s : State} {h u : Hub} (hh : s.hub.stamp tm = h)
include hh

/-! ### Coarse and fine time (R487 to R489) -/

theorem coarseFrame_ends {edge : Nt} {master flags : BitVec 8} {ok : Bool} {v : Hub} (hv : (h.fireInj 0x29 (fun _ => true)).2 = v)
    (hu : (if (h.fireInj 0x29 (fun _ => true)).1 || !ok || !v.stage 0 || v.ownTime then v
      else
        let g := if flags.getLsbD 0 then v.p F.NFNODE_master (master.toNat % 64) else v
        let g := if flags.getLsbD 0 || g.stage 6 then g.setNt edge.toNat else g
        if flags.getLsbD 0 then { g with nf := { g.nf with coarseNt := g.nt } } else g) = u) : Ends (.coarseFrame tm edge master flags ok) s u := by
  subst hv
  show execCoarseFrame tm edge master flags ok s = _
  exact onHub_ends hh hu

theorem coarseEdge_ends (hu : (if h.on F.NFSTAT_master && h.stage 6 then
      h.emit (.coarse (BitVec.ofNat 64 (h.nt.toNat / 1000000 * 1000000)) (BitVec.ofNat 8 h.dev)
        (BitVec.ofNat 8 (h.g F.NFSTAT_nt_valid + 2 * h.g F.NFSTAT_holdover)))
    else h) = u) : Ends (.coarseEdge tm) s u := by
  show execCoarseEdge tm s = _
  exact onHub_ends hh hu

theorem fineExchange_ends {x : BitVec 16} (hu : h.fineIn x = u) : Ends (.fineExchange tm x) s u := by
  show execFineExchange tm x s = _
  exact onHub_ends hh hu

theorem fineExchange_answers {x : BitVec 16} (up : h.stage 6 = true) (own : h.ownTime = false) (heard : h.nf.dropNt ≤ h.nt) :
    Answers (.fineExchange tm x) s (fun t =>
      t.hub.g F.NFOFFSET_ns = (h.offsetIn x).toNat ∧ t.hub.nf.good = (if magnitude (h.offsetIn x) ≤ 2 then h.nf.good + 1 else 0) ∧ t.hub.nf.fineNt = h.nt
      ∧ t.hub.nf.holdNt = none ∧ t.hub.nf.expired = false ∧ t.hub.on F.NFSTAT_holdover = false
      ∧ (h.stage 7 = true → t.hub.on F.NFSTAT_nt_valid = true ∧ t.hub.g F.NFSYNCMAX_ns = max (h.g F.NFSYNCMAX_ns) (magnitude (h.offsetIn x)))
      ∧ HubOnly s t) := by
  have still := still_fireAt h 0x28 (fun _ => true)
  have regs {a : Nat} (ha : a ∉ reportRegs) := reg_fireAt h 0x28 (fun _ => true) ha
  obtain ⟨l, eq⟩ := fineIn_eq h (x := x) up own heard
  obtain ⟨ns, nf, off, valid⟩ := aligned_marks (h.fireAt 0x28 (fun _ => true)).2 (h.offsetIn x)
  rw [nf_of_still still, nt_of_still still] at nf
  rw [stage_of_reg (regs (by decide)), g_of_reg F.NFSYNCMAX_ns (regs (by decide))] at valid
  generalize (h.fireAt 0x28 (fun _ => true)).2.aligned (h.offsetIn x) = a at eq ns nf off valid
  have form : (finish s.hub (a.sending l)).nf = a.nf := nf_finish (a.sending l) s.hub
  have field (f : Fld) (hf : f.a ∉ reportRegs) : (finish s.hub (a.sending l)).g f = a.g f := g_finish (a.sending l) s.hub f hf
  rw [nf] at form
  refine (fineExchange_ends hh eq).answers ⟨(field _ (by decide)).trans ns, congrArg Form.good form, congrArg Form.fineNt form, congrArg Form.holdNt form,
    congrArg Form.expired form, (congrArg (· == 1) (field _ (by decide))).trans off, fun later => ?_, rfl, rfl⟩
  obtain ⟨set, most⟩ := valid later
  exact ⟨(congrArg (· == 1) (field _ (by decide))).trans set, (field _ (by decide)).trans most⟩

theorem holdover_ends (hu : (if h.stage 7 && !h.ownTime && !h.on F.NFSTAT_holdover && decide (h.nf.fineNt.toNat + 20000000 ≤ h.nt.toNat) then
      let g := (({ h with nf := { h.nf with holdNt := some h.nt } } : Hub).p F.NFSTAT_holdover 1).inc F.NFHOLDOVERS_count
      g.devEv 0x0820 4 (g.g F.NFOFFSET_parent)
    else h) = u) : Ends (.holdover tm) s u := by
  show execHoldover tm s = _
  exact onHub_ends hh hu

theorem holdoverExpiry_ends (hu : (match h.nf.holdNt with
    | none => h
    | some e => if e.toNat + 100000000 ≤ h.nt.toNat then ({ h with nf := { h.nf with expired := true } } : Hub).p F.NFSTAT_nt_valid 0 else h) = u) :
    Ends (.holdoverExpiry tm) s u := by
  show execHoldoverExpiry tm s = _
  exact onHub_ends hh hu

/-- The master's silence: the lowest device takes over, the others take it as their master. -/
theorem masterSilence_ends {lowest : BitVec 6} (silent : h.stage 7 = true ∧ h.ownTime = false ∧ max h.nf.coarseNt.toNat h.nf.fineNt.toNat + 3000000 ≤ h.nt.toNat) :
    Ends (.masterSilence tm lowest) s (
      let g := h.p F.NFNODE_master lowest.toNat
      if lowest.toNat = h.dev ∧ h.on F.NFSTAT_nt_valid ∧ !h.on F.HDEVIDX_spare then
        ((({ g with nf := { h.nf with holdNt := none } } : Hub).p F.NFSTAT_master 1).p F.NFSTAT_holdover 0).devEv 0x0821 4 lowest.toNat
      else g.p F.NFOFFSET_parent g.parentOf) := by
  obtain ⟨up, own, late⟩ := silent
  have dev : (h.p F.NFNODE_master lowest.toNat).dev = h.dev := g_p_ne h F.NFNODE_master F.HDEVIDX_index _ (by decide) (by decide)
  show execMasterSilence tm lowest s = _
  refine onHub_ends hh ((if_neg ?_).trans ?_)
  · rw [up, own, Bool.or_eq_true, decide_eq_true_eq]
    exact not_or.2 ⟨Bool.false_ne_true, Nat.not_lt.2 late⟩
  · dsimp only
    rw [dev, on_p_ne h F.NFNODE_master F.NFSTAT_nt_valid _ (by decide) (by decide), on_p_ne h F.NFNODE_master F.HDEVIDX_spare _ (by decide) (by decide)]
    rfl

theorem masterSilence_idles {lowest : BitVec 6}
    (heard : ¬ (h.stage 7 = true ∧ h.ownTime = false ∧ max h.nf.coarseNt.toNat h.nf.fineNt.toNat + 3000000 ≤ h.nt.toNat)) :
    Ends (.masterSilence tm lowest) s h := by
  show execMasterSilence tm lowest s = _
  refine onHub_ends hh (if_pos ?_)
  rw [Bool.or_eq_true, decide_eq_true_eq, Bool.or_eq_true, Bool.not_eq_true']
  by_contra h'
  obtain ⟨why, early⟩ := not_or.1 h'
  obtain ⟨up, own⟩ := not_or.1 why
  exact heard ⟨Bool.of_not_eq_false up, Bool.eq_false_iff.2 own, Nat.not_lt.1 early⟩

/-! ### GRANARY to READY -/

theorem granaryStartTimeout_ends (hu : (if h.stage 0 && decide (h.nf.t0.toNat + 1000000000 ≤ h.nt.toNat) then h.askGrn else h) = u) :
    Ends (.granaryStartTimeout tm) s u := by
  show execGranaryStartTimeout tm s = _
  exact onHub_ends hh hu

theorem granaryReady_ends {ms : BitVec 32} (hu : (if h.forming 8 && h.nf.grnOn then h.grnReady ms.toNat else h) = u) : Ends (.granaryReady tm ms) s u := by
  show execGranaryReady tm ms s = _
  exact onHub_ends hh hu

theorem planStage_ends {agree weights : Bool} (hu : (if h.forming 9 && h.stage 3 && h.stage 7 && h.stage 8 then h.planStage agree weights else h) = u) :
    Ends (.planStage tm agree weights) s u := by
  show execPlanStage tm agree weights s = _
  exact onHub_ends hh hu

theorem restoreStage_ends {common : Option (BitVec 32)} (hu : (if h.forming 10 && h.stage 9 then (h.restoreStage common).stageDone 10 else h) = u) :
    Ends (.restoreStage tm common) s u := by
  show execRestoreStage tm common s = _
  exact onHub_ends hh hu

theorem ready_ends (hu : (if h.forming 11 && h.stage 10 && (h.g F.POOLROLE_size == 0 || !h.ck.first) then
      ((h.p F.NFSTAT_ready 1).p F.NFSTAT_sessions_held 1).stageDone 11
    else h) = u) : Ends (.ready tm) s u := by
  show execReady tm s = _
  exact onHub_ends hh hu

end

end Sys2Proof.Machine
end

section
/-! The clauses of node time and readiness (O60). -/

namespace Sys2Proof.Machine

open Hub

namespace Hub

variable (h : Hub)

theorem restoreStage_off {common : Option (BitVec 32)} (off : h.currentOnly.on F.NFCTL_restore_en = false) : h.restoreStage common =
    let g := h.currentOnly.freeKinds [1, 2, 6, 7]
    { g with mirrors := [], ck := { g.ck with slotA := none, slotB := none, bkv := [], sends := [], claims := [], deferred := [] } } := by
  unfold restoreStage
  exact if_pos (by rw [off]; rfl)

theorem restoreStage_none {common : Option (BitVec 32)} (on : h.currentOnly.on F.NFCTL_restore_en = true)
    (why : (h.currentOnly.freeKinds [7]).g F.POOLROLE_size = 0 ∨ (h.currentOnly.freeKinds [7]).slotImg common = none) :
    h.restoreStage common = h.currentOnly.freeKinds [7] := by
  have none_ : (if (h.currentOnly.freeKinds [7]).g F.POOLROLE_size = 0 then none else (h.currentOnly.freeKinds [7]).slotImg common) = none := by
    rcases why with idle | lost
    · rw [if_pos idle]
    · rw [lost, ite_self]
  unfold restoreStage
  refine (if_neg (by rw [on]; exact Bool.false_ne_true)).trans ?_
  dsimp only
  rw [none_]

theorem planStage_eq (agree weights : Bool) : h.planStage agree weights =
    let g := h.reloadImages
    let u := match g.nf.lastSlot with
      | none => g
      | some k => if agree && bitsOf (g.g F.POOLPLAN_loaded) k.toNat k.toNat == 1 then g.activatePlan k.toNat else g
    if u.g F.POOLROLE_size ≠ 0 ∧ !weights then u.stopForm 0xB else u.stageDone 9 := rfl

end Hub

/-- Settles O60, by the law of each command. -/
theorem timeAndReadiness : Obligations.TimeAndReadiness := by
  intro tm s h silent heard
  have hh : s.hub.stamp tm = h := rfl
  refine ⟨?coarse, ?edge, ?edgeIdle, ?fine, ?fineIdle, ?holdover, ?holdoverIdle, ?expiry, ?expiryEarly, ?expiryNone, ?takeover, ?follow, ?heard,
    ?start, ?startEarly, ?granary, ?granaryIdle, ?plan, ?planIdle, ?restoreOff, ?restore, ?restoreIdle, ?ready, ?readyIdle⟩
  case coarse =>
    intro edge master flags hit u c takes
    have ends {ok : Bool} {v : Hub} := coarseFrame_ends (tm := tm) (s := s) (h := h) hh (edge := edge) (master := master) (flags := flags) (ok := ok) (v := u) (u := v) rfl
    have going (t : takes) : ¬ (hit.1 || !true || !u.stage 0 || u.ownTime) = true := by
      obtain ⟨calm, up, own⟩ := t
      rw [calm, up, own]
      exact Bool.false_ne_true
    have same (v : Nat) : (u.p F.NFNODE_master v).stage 6 = u.stage 6 := stage_of_reg (reg_p_ne u F.NFNODE_master v (by decide)) 6
    refine ⟨fun t set => ends ((if_neg (going t)).trans ?_), fun t clear up => ends ((if_neg (going t)).trans ?_),
      fun t clear early => ends ((if_neg (going t)).trans ?_), fun t => ends (if_pos ?_), ends (if_pos ?_)⟩
    · dsimp only
      rw [if_pos set, set, if_pos (Bool.true_or _), if_pos rfl]
    · dsimp only
      rw [clear, if_neg Bool.false_ne_true, if_neg Bool.false_ne_true, up]
      rfl
    · dsimp only
      rw [clear, if_neg Bool.false_ne_true, if_neg Bool.false_ne_true, early]
      rfl
    · have bad : ¬ (hit.1 = false ∧ u.stage 0 = true ∧ u.ownTime = false) := t
      show (hit.1 || !true || !u.stage 0 || u.ownTime) = true
      revert bad
      cases hit.1 <;> cases u.stage 0 <;> cases u.ownTime <;> decide
    · show (hit.1 || !false || !u.stage 0 || u.ownTime) = true
      rw [Bool.not_false, Bool.or_true, Bool.true_or, Bool.true_or]
  case edge => exact fun master up => coarseEdge_ends hh (if_pos (by rw [master, up]; rfl))
  case edgeIdle =>
    intro why
    refine coarseEdge_ends hh (if_neg ?_)
    rw [Bool.and_eq_true]
    rintro ⟨master, up⟩
    rw [master, up] at why
    simp at why
  case fine =>
    intro x up own dropped o
    exact fineExchange_answers hh up own dropped
  case fineIdle => exact fun o why => fineExchange_ends hh (fineIn_lost h why)
  case holdover =>
    intro up own off late
    exact holdover_ends hh (if_pos (by rw [up, own, off, decide_eq_true late]; rfl))
  case holdoverIdle =>
    intro why
    refine holdover_ends hh (if_neg ?_)
    rw [Bool.and_eq_true, Bool.and_eq_true, Bool.and_eq_true, Bool.not_eq_true', Bool.not_eq_true', decide_eq_true_eq]
    rintro ⟨⟨⟨up, own⟩, off⟩, late⟩
    rw [up, own, off] at why
    simp at why
    omega
  case expiry =>
    intro e at_ late
    refine holdoverExpiry_ends hh ?_
    rw [at_]
    exact if_pos late
  case expiryEarly =>
    intro e at_ early
    refine holdoverExpiry_ends hh ?_
    rw [at_]
    exact if_neg (Nat.not_le.2 early)
  case expiryNone =>
    intro none_
    refine holdoverExpiry_ends hh ?_
    rw [none_]
  case takeover =>
    intro lowest quiet mine valid active
    have ends := masterSilence_ends hh (lowest := lowest) quiet
    dsimp only at ends
    rwa [if_pos ⟨mine, valid, by rw [active]; rfl⟩] at ends
  case follow =>
    intro lowest quiet why
    have ends := masterSilence_ends hh (lowest := lowest) quiet
    dsimp only at ends
    rwa [if_neg] at ends
    rintro ⟨mine, valid, active⟩
    rw [Bool.not_eq_true'] at active
    rw [valid, active] at why
    simp [mine] at why
  case heard => exact fun lowest loud => masterSilence_idles hh loud
  case start =>
    intro up late asked begun starts
    have ends {u : Hub} (hu : h.askGrn = u) : Ends (.granaryStartTimeout tm) s u :=
      granaryStartTimeout_ends hh ((if_pos (by rw [up, decide_eq_true late]; rfl)).trans hu)
    exact ⟨fun on room => ends ((askGrn_starts h on).trans (if_neg (Nat.not_lt.2 room))), fun on short => ends ((askGrn_starts h on).trans (if_pos short)),
      fun off => ends (askGrn_waits h off)⟩
  case startEarly =>
    intro why
    refine granaryStartTimeout_ends hh (if_neg ?_)
    rw [Bool.and_eq_true, decide_eq_true_eq]
    rintro ⟨up, late⟩
    rw [up] at why
    simp at why
    omega
  case granary =>
    intro ms on begun reset g clean valid
    have ends {u : Hub} (hu : h.grnReady ms.toNat = u) : Ends (.granaryReady tm ms) s u :=
      granaryReady_ends hh ((if_pos (by rw [on, begun]; rfl)).trans hu)
    have isClean : (if !h.gr.started then Config.startClean else h.on F.GRNSTAT_clean) = true ↔ clean := by
      show _ ↔ (if h.gr.started then h.on F.GRNSTAT_clean = true else Config.startClean = true)
      cases h.gr.started <;> exact Iff.rfl
    have isValid : (if !h.gr.started then Config.drainValid else h.drained) = true ↔ valid := by
      show _ ↔ (if h.gr.started then h.drained = true else Config.drainValid = true)
      cases h.gr.started <;> exact Iff.rfl
    have eq := grnReady_eq h ms.toNat
    dsimp only at eq
    refine ⟨fun hc => ends ?_, fun hc hv => ends ?_, fun hc hv => ends ?_⟩
    · rw [eq, if_pos (isClean.2 hc)]
      rfl
    · rw [eq, if_neg (mt isClean.1 hc), if_pos (isValid.2 hv)]
      rfl
    · rw [eq, if_neg (mt isClean.1 hc), if_neg (mt isValid.1 hv)]
      rfl
  case granaryIdle =>
    intro ms why
    refine granaryReady_ends hh (if_neg ?_)
    rw [Bool.and_eq_true]
    rintro ⟨on, begun⟩
    rw [on, begun] at why
    simp at why
  case plan =>
    intro agree weights on test sync granary g u
    have ends {v : Hub} (hv : h.planStage agree weights = v) : Ends (.planStage tm agree weights) s v :=
      planStage_ends hh ((if_pos (by rw [on, test, sync, granary]; rfl)).trans hv)
    refine ⟨fun ok => ends ((planStage_eq h agree weights).trans (if_neg ?_)), fun size missing => ends ((planStage_eq h agree weights).trans (if_pos ⟨size, ?_⟩))⟩
    · rintro ⟨size, missing⟩
      rcases ok with none_ | there
      · exact size none_
      · rw [there] at missing
        cases missing
    · rw [missing]
      rfl
  case planIdle =>
    intro agree weights why
    refine planStage_ends hh (if_neg ?_)
    rw [Bool.and_eq_true, Bool.and_eq_true, Bool.and_eq_true]
    rintro ⟨⟨⟨on, test⟩, sync⟩, granary⟩
    rw [on, test, sync, granary] at why
    simp at why
  case restoreOff =>
    intro common on up off g
    refine restoreStage_ends hh ((if_pos (by rw [on, up]; rfl)).trans ?_)
    rw [restoreStage_off h off]
  case restore =>
    intro common on up enabled g
    have ends {v : Hub} (hv : (h.restoreStage common).stageDone 10 = v) : Ends (.restoreStage tm common) s v :=
      restoreStage_ends hh ((if_pos (by rw [on, up]; rfl)).trans hv)
    exact ⟨fun why => ends (congrArg (stageDone · 10) (restoreStage_none h enabled why)), fun img _ _ => ends rfl⟩
  case restoreIdle =>
    intro common why
    refine restoreStage_ends hh (if_neg ?_)
    rw [Bool.and_eq_true]
    rintro ⟨on, up⟩
    rw [on, up] at why
    simp at why
  case ready =>
    intro on up first
    refine ready_ends hh (if_pos ?_)
    rw [on, up, Bool.true_and, Bool.true_and, Bool.or_eq_true, beq_iff_eq, Bool.not_eq_true']
    exact first
  case readyIdle =>
    intro why
    refine ready_ends hh (if_neg ?_)
    rw [Bool.and_eq_true, Bool.and_eq_true, Bool.or_eq_true, beq_iff_eq, Bool.not_eq_true']
    rintro ⟨⟨on, up⟩, first⟩
    rw [on, up] at why
    rcases first with none_ | done
    · simp [none_] at why
    · simp [done] at why

end Sys2Proof.Machine
end

section
/-! The Granary's blocks (O49). -/

namespace Sys2Proof.Machine

open Hub

namespace Hub

variable (h : Hub)

/-! ### Verification (R309, R310) -/

/-- A block that is not there, or not due, is not verified. -/
theorem verifyBlk_idle {d b pct : Nat} {x : GBlk}
    (why : h.blk d b = none ∨ h.blk d b = some x ∧ (x.closed = false ∨ x.verified = true ∨ x.bad = true ∨ x.parity = true)) : h.verifyBlk d b pct = h := by
  unfold verifyBlk
  rcases why with none_ | ⟨there, why⟩
  · rw [none_]
  · rw [there]
    refine if_pos ?_
    rw [Bool.or_eq_true, Bool.or_eq_true, Bool.or_eq_true, Bool.not_eq_true']
    tauto

/-- The blocks of a stripe, beside one, that have lost their units. -/
def lostBeside (d b : Nat) (x : GBlk) : List (Nat × Nat) :=
  match smLook h.gr.stripes x.stripe with
  | none => []
  | some st => st.data.filter (fun e => e != (d, b) && ((h.blk e.1 e.2).map (·.lost)).getD false)

/-- The hub with a block that has failed its verification, its units rebuilt or poisoned. -/
def verifyFailed (d b pct : Nat) (x : GBlk) (injected : Bool) : Hub :=
  let lost := decide (100 < pct)
  let failed := ((h.setBlk d b { x with lost := lost }).inc F.GRNVFYFAIL_count).devEv 0x0403 4 (d + b * 2 ^ 8 + injBit injected)
  let struck := if lost && !(h.lostBeside d b x).isEmpty then
      ((d, b) :: h.lostBeside d b x).foldl (fun g e => (g.validUnits e.1 e.2).foldl (fun g u => g.poisonUnit u.1 false) g) failed
    else failed
  (((struck.inc F.GRNPARREC_count (4 * (struck.validUnits d b).length)).relocate d b).retireBlk d b injected).releaseParity x.stripe

theorem verifyBlk_follows {d b pct : Nat} {x : GBlk} (there : h.blk d b = some x) (closed : x.closed = true) (fresh : x.verified = false) (good : x.bad = false)
    (data : x.parity = false) : h.verifyBlk d b pct =
    let hit := h.fireInj 0x11 (fun q => q.a.toNat == d)
    let kept := hit.2.setBlk d b { x with verified := true }
    if pct ≤ hit.2.vfyThr ∧ !hit.1 then (if x.gc then kept.switchCopies d b x else kept).releaseParity x.stripe
    else hit.2.verifyFailed d b pct x hit.1 := by
  unfold verifyBlk
  rw [there]
  refine (if_neg ?_).trans ?_
  · rw [closed, fresh, good, data]
    decide
  · rfl

/-! ### Erasures (R313, R317) -/

theorem eraseBlk_idle {d b : Nat} {ok : Bool} {x : GBlk}
    (why : h.blk d b = none ∨ h.blk d b = some x ∧ (x.victim = false ∨ x.bad = true ∨ h.validUnits d b ≠ [])) : h.eraseBlk d b ok = h := by
  unfold eraseBlk
  rcases why with none_ | ⟨there, why⟩
  · rw [none_]
  · rw [there]
    refine if_pos ?_
    rw [Bool.or_eq_true, Bool.or_eq_true, Bool.not_eq_true', Bool.not_eq_true', List.isEmpty_eq_false_iff]
    tauto

/-- The hub with a block erased: its count has risen, and it is free. -/
def blockErased (d b : Nat) : Hub :=
  let g : Hub := { h with gr := { h.gr with blks := smDel h.gr.blks (blkKey d b), erases := smPut h.gr.erases (blkKey d b) (h.erases d b + 1) } }
  (g.setDie d { g.gdie d with free := (g.gdie d).free ++ [b] }).weirs

theorem eraseBlk_follows {d b : Nat} {ok : Bool} {x : GBlk} (there : h.blk d b = some x) (victim : x.victim = true) (good : x.bad = false)
    (bare : h.validUnits d b = []) : h.eraseBlk d b ok =
    let hit := h.fireInj 0x10 (fun q => q.a.toNat == d)
    if ok && !hit.1 then hit.2.blockErased d b else hit.2.retireBlk d b hit.1 := by
  unfold eraseBlk
  rw [there]
  refine (if_neg ?_).trans rfl
  rw [victim, good, bare]
  decide

/-! ### Programs (R298, R314, R317) -/

/-- The stream of a unit. -/
def streamOf (u : Nat) : Nat := if ((smLook h.gr.units u).map (fun x => x.kind == 2)).getD false then 0 else 1

/-- The unit `v` of the tun is programmed into its stream's stripe, or its program fails. -/
def programStep (v : Nat) : Hub :=
  match h.stripeFor (h.streamOf v) with
  | none => h
  | some (id, g) =>
    match smLook g.gr.stripes id with
    | none => h
    | some st =>
      let e := st.data.getD (st.count % 15) (0, 0)
      let hit := g.fireInj 0x0F (fun q => q.a.toNat == e.1 && q.b.toNat == h.streamOf v)
      if hit.1 then hit.2.programFail e.1 e.2 true else (h.programTun v).weirs

theorem programFail_idle {d b : Nat} {x : GBlk} {injected : Bool}
    (why : h.blk d b = none ∨ h.blk d b = some x ∧ (x.bad = true ∨ x.closed = true)) : h.programFail d b injected = h := by
  unfold programFail
  rcases why with none_ | ⟨there, why⟩
  · rw [none_]
  · rw [there]
    refine if_pos ?_
    rw [Bool.or_eq_true]
    exact why

/-- No block or no stripe to take the place of one whose program has failed. -/
theorem programFail_gone {d b : Nat} {x : GBlk} {injected : Bool} (there : h.blk d b = some x) (good : x.bad = false) (open_ : x.closed = false)
    (why : smLook (h.retireBlk d b injected).gr.stripes x.stripe = none ∨ (h.retireBlk d b injected).takeBlk d = none) :
    h.programFail d b injected = h.retireBlk d b injected := by
  unfold programFail
  rw [there]
  refine (if_neg (by rw [good, open_]; decide)).trans ?_
  dsimp only
  split
  · next st nb g hs hg =>
    rcases why with why | why
    · rw [why] at hs
      cases hs
    · rw [why] at hg
      cases hg
  · rfl

/-- A unit's place once a block stands for another. -/
def movedTo (d b nb : Nat) (p : Place) : Place := if p.die = d ∧ p.block = b then { p with block := nb } else p

/-- The hub `g` with block `nb` in the place of the one whose program has failed. -/
def replaced (g : Hub) (d b nb : Nat) (x : GBlk) (st : Stripe) : Hub :=
  let sub (e : Nat × Nat) : Nat × Nat := if e = (d, b) then (d, nb) else e
  let g : Hub := { g with gr := { g.gr with stripes := smPut g.gr.stripes x.stripe { st with data := st.data.map sub, parity := sub st.parity } } }
  let g := g.setBlk d nb { x with bad := false, reads := 0 }
  let g := g.inc F.GRNNANDW_bytes (unitBytes * (if x.parity then st.count / 15 else x.slots.length))
  let g := if x.gc && !x.parity then g.inc F.GRNGCUNITS_count x.slots.length
    else if x.parity then g else g.inc F.GRNPARREC_count (4 * x.slots.length)
  ({ g with gr := { g.gr with units := g.gr.units.map (fun e => (e.1, { e.2 with loc := e.2.loc.map (movedTo d b nb) })) } } : Hub).weirs

theorem programFail_replaces {d b nb : Nat} {x : GBlk} {injected : Bool} {st : Stripe} {g : Hub} (there : h.blk d b = some x) (good : x.bad = false)
    (open_ : x.closed = false) (hs : smLook (h.retireBlk d b injected).gr.stripes x.stripe = some st)
    (hg : (h.retireBlk d b injected).takeBlk d = some (nb, g)) : h.programFail d b injected = g.replaced d b nb x st := by
  unfold programFail
  rw [there]
  refine (if_neg (by rw [good, open_]; decide)).trans ?_
  dsimp only
  rw [hs, hg]
  rfl

end Hub

/-! ### The commands -/

section
variable {tm : Nt} {s : State} {h u : Hub} (hh : s.hub.stamp tm = h)
include hh

theorem nandProgram_waits (none_ : h.tunNext = none) : Ends (.nandProgram tm) s h := by
  show execNandProgram tm s = _
  refine onHub_ends hh ?_
  dsimp only
  rw [none_]

theorem nandProgram_programs {v : Nat} (next : h.tunNext = some v) : Ends (.nandProgram tm) s (h.programStep v) := by
  show execNandProgram tm s = _
  refine onHub_ends hh ?_
  dsimp only
  rw [next]
  dsimp only
  unfold programStep streamOf
  rcases smLook h.gr.units v with _ | x
  · rfl
  · rfl

theorem blockVerify_ends {die : BitVec 8} {block : BitVec 14} {pct : BitVec 7} (hu : h.verifyBlk die.toNat block.toNat pct.toNat = u) :
    Ends (.blockVerify tm die block pct) s u := by
  show execBlockVerify tm die block pct s = _
  exact onHub_ends hh hu

theorem gcIdle_ends (hu : (if h.on F.GRNCTL_bg_gc_en && decide (h.gr.lastNt.toNat + max 100 (h.g F.GRNIDLE_us) * 1000 ≤ h.nt.toNat)
      && decide (h.fMin.1 < h.gr.weir.1) then h.p F.GRNSTAT_bg_gc 1 else h) = u) : Ends (.gcIdle tm) s u := by
  show execGcIdle tm s = _
  exact onHub_ends hh hu

theorem gcRelocate_moves {die : BitVec 8} {v : Nat} (need : h.gcNeeds die.toNat = true) (victim : h.gcVictim die.toNat = some v) :
    Ends (.gcRelocate tm die) s (h.relocate die.toNat v) := by
  show execGcRelocate tm die s = _
  refine onHub_ends hh ((if_neg (by rw [need]; exact Bool.false_ne_true)).trans ?_)
  rw [victim]

theorem gcRelocate_idles {die : BitVec 8} (why : h.gcNeeds die.toNat = false ∨ h.gcVictim die.toNat = none) : Ends (.gcRelocate tm die) s h := by
  show execGcRelocate tm die s = _
  refine onHub_ends hh ?_
  rcases why with rest | none_
  · exact if_pos (by rw [rest]; rfl)
  · rw [none_]
    exact ite_self h

theorem victimErase_ends {die : BitVec 8} {block : BitVec 14} {ok : Bool} (hu : h.eraseBlk die.toNat block.toNat ok = u) :
    Ends (.victimErase tm die block ok) s u := by
  show execVictimErase tm die block ok s = _
  exact onHub_ends hh hu

theorem staticWearLevel_moves {die : BitVec 8} {v : Nat} (on : h.on F.GRNCTL_static_wl_en = true)
    (worn : max 1 (h.g F.GRNWLSPREAD_cycles) < h.wearSpread die.toNat) (cold : h.coldBlk die.toNat = some v) :
    Ends (.staticWearLevel tm die) s (h.relocate die.toNat v) := by
  show execStaticWearLevel tm die s = _
  refine onHub_ends hh ((if_neg ?_).trans ?_)
  · rw [on, decide_eq_false (Nat.not_le.2 worn)]
    exact Bool.false_ne_true
  · rw [cold]

theorem staticWearLevel_idles {die : BitVec 8} (why : ¬ (h.on F.GRNCTL_static_wl_en = true ∧ max 1 (h.g F.GRNWLSPREAD_cycles) < h.wearSpread die.toNat)
    ∨ h.coldBlk die.toNat = none) : Ends (.staticWearLevel tm die) s h := by
  show execStaticWearLevel tm die s = _
  refine onHub_ends hh ?_
  rcases why with even_ | none_
  · refine if_pos ?_
    rw [Bool.or_eq_true, Bool.not_eq_true', decide_eq_true_eq]
    by_contra h'
    obtain ⟨on, more⟩ := not_or.1 h'
    exact even_ ⟨Bool.of_not_eq_false on, Nat.not_le.1 more⟩
  · rw [none_]
    exact ite_self h

theorem programFailure_ends {die : BitVec 8} {block : BitVec 14} (hu : h.programFail die.toNat block.toNat false = u) :
    Ends (.programFailure tm die block) s u := by
  show execProgramFailure tm die block s = _
  exact onHub_ends hh hu

end

/-- Settles O49, by the law of each command. -/
theorem granaryBlocks : Obligations.GranaryBlocks := by
  intro tm die block x pct ok s h d b gone idle worn
  have hh : s.hub.stamp tm = h := rfl
  refine ⟨?waits, ?program, ?verify, ?verifyIdle, ?gc, ?gcRest, ?moves, ?movesNot, ?erase, ?eraseIdle, ?level, ?levelIdle, ?fails, ?failsNot⟩
  case waits => exact nandProgram_waits hh
  case program =>
    intro v next stream
    have ends := nandProgram_programs hh next
    unfold programStep at ends
    refine ⟨fun full => ?_, fun id g has none_ => ?_, fun id g st has there => ?_⟩
    · rwa [show h.stripeFor (h.streamOf v) = none from full] at ends
    · rw [show h.stripeFor (h.streamOf v) = some (id, g) from has] at ends
      dsimp only at ends
      rwa [none_] at ends
    · intro e hit
      rw [show h.stripeFor (h.streamOf v) = some (id, g) from has] at ends
      dsimp only at ends
      rw [there] at ends
      have ends : Ends (.nandProgram tm) s (if hit.1 then hit.2.programFail e.1 e.2 true else (h.programTun v).weirs) := ends
      refine ⟨fun calm => ?_, fun fired => ?_⟩
      · rwa [if_neg fun fired => Bool.false_ne_true (calm.symm.trans fired)] at ends
      · rwa [if_pos fired] at ends
  case verify =>
    intro there closed fresh good data hit kept lost others failed struck moved
    have eq := verifyBlk_follows h (pct := pct.toNat) there closed fresh good data
    have quiet (calm : hit.1 = false) : (!hit.1) = true := by
      rw [calm]
      rfl
    have loud (e : (!hit.1) = true) : hit.1 ≠ true := fun fired => by
      rw [fired] at e
      cases e
    refine ⟨fun pass calm => blockVerify_ends hh (eq.trans (if_pos ⟨pass, quiet calm⟩)), fun why => blockVerify_ends hh (eq.trans (if_neg ?_))⟩
    rintro ⟨pass, calm⟩
    exact why.elim (Nat.not_lt.2 pass) (loud calm)
  case verifyIdle => exact fun why => blockVerify_ends hh (verifyBlk_idle h why)
  case gc =>
    rintro ⟨on, quiet, few⟩
    exact gcIdle_ends hh (if_pos (by rw [on, decide_eq_true quiet, decide_eq_true few]; rfl))
  case gcRest =>
    intro busy
    refine gcIdle_ends hh (if_neg ?_)
    rw [Bool.and_eq_true, Bool.and_eq_true, decide_eq_true_eq, decide_eq_true_eq]
    exact fun e => busy ⟨e.1.1, e.1.2, e.2⟩
  case moves => exact fun v need victim => gcRelocate_moves hh need victim
  case movesNot => exact gcRelocate_idles hh
  case erase =>
    intro there victim good bare hit g
    have eq := eraseBlk_follows h (ok := ok) there victim good bare
    refine ⟨fun fine calm => victimErase_ends hh (eq.trans (if_pos ?_)), fun why => victimErase_ends hh (eq.trans (if_neg ?_))⟩
    · show (ok && !hit.1) = true
      rw [fine, calm]
      rfl
    · show ¬ (ok && !hit.1) = true
      rcases why with bad | fired
      · rw [bad]
        exact Bool.false_ne_true
      · rw [fired, Bool.and_comm]
        exact Bool.false_ne_true
  case eraseIdle => exact fun why => victimErase_ends hh (eraseBlk_idle h why)
  case level => exact fun v wear cold => staticWearLevel_moves hh wear.1 wear.2 cold
  case levelIdle => exact staticWearLevel_idles hh
  case fails =>
    intro there good open_
    refine ⟨?_, fun why => programFailure_ends hh (programFail_gone h there good open_ why)⟩
    intro st nb g hs hg sub g₁ g₂ g₃ g₄ move
    exact programFailure_ends hh (programFail_replaces h there good open_ hs hg)
  case failsNot => exact fun why => programFailure_ends hh (programFail_idle h why)

end Sys2Proof.Machine
end

section
/-! The Granary's reads and its map (O50). -/

namespace Sys2Proof.Machine

open Hub

namespace Hub

variable (h : Hub)

/-- The hub once a read of unit `u` has been met, before its block is counted. -/
def readMet (u : Nat) (p : Place) (res : ReadTry) : Hub :=
  let b := (h.blk p.die p.block).getD {}
  match res with
  | .decoded _ => h
  | .parity => if (smLook h.gr.stripes b.stripe).isSome then h.inc F.GRNPARREC_count else h.poisonUnit u false
  | .uncorrectable => h.poisonUnit u false

/-- A read that met trouble. -/
def hardRead (res : ReadTry) : Bool := match res with
  | .decoded o => o
  | _ => true

/-- The read on flash at place `p`: the block counts it, and one read too often, or hard to read, is relocated. -/
def readAt (u : Nat) (p : Place) (res : ReadTry) : Hub :=
  let b := (h.blk p.die p.block).getD {}
  let read := (h.readMet u p res).setBlk p.die p.block { b with reads := b.reads + 1 }
  if read.on F.GRNCTL_rd_reloc_en && b.closed && !b.victim && (hardRead res || decide (max 1 (read.g F.GRNRDTHR_reads) ≤ b.reads + 1)) then
    (read.relocate p.die p.block).inc F.GRNRDRELOC_count
  else read

/-- The hub that a read of unit `u` has reached. -/
def readBegun (u : Nat) : Hub := ((h.grnTraffic false).sweepFirst u).touchPage u

theorem readUnit_waits {u : Nat} {res : ReadTry} (why : smLook h.gr.units u = none ∨ h.pageHere u = false) : h.readUnit u res = h := by
  unfold readUnit
  split
  · rfl
  · next x there =>
    refine if_pos ?_
    rw [why.resolve_left (by rw [there]; exact Option.some_ne_none x)]
    rfl

theorem readUnit_ready {u : Nat} {res : ReadTry} {x : GUnit} (there : smLook h.gr.units u = some x) (here : h.pageHere u = true)
    (why : x.loc = none ∨ x.inTun = true ∨ x.poison = true) : h.readUnit u res = h.readBegun u := by
  unfold readUnit
  rw [there]
  refine (if_neg (by rw [here]; exact Bool.false_ne_true)).trans ?_
  dsimp only
  split
  · rfl
  · next p at_ =>
    refine if_pos ?_
    rw [Bool.or_eq_true]
    exact why.resolve_left (by rw [at_]; exact Option.some_ne_none p)

theorem readUnit_reads {u : Nat} {res : ReadTry} {x : GUnit} {p : Place} (there : smLook h.gr.units u = some x) (here : h.pageHere u = true)
    (at_ : x.loc = some p) (out : x.inTun = false) (good : x.poison = false) : h.readUnit u res = (h.readBegun u).readAt u p res := by
  unfold readUnit
  rw [there]
  refine (if_neg (by rw [here]; exact Bool.false_ne_true)).trans ?_
  dsimp only
  rw [at_]
  refine (if_neg (by rw [out, good]; decide)).trans ?_
  cases res <;> rfl

end Hub

section
variable {tm : Nt} {s : State} {h u : Hub} (hh : s.hub.stamp tm = h)
include hh

theorem granaryRead_ends {v : BitVec 32} {res : ReadTry} (hu : h.readUnit v.toNat res = u) : Ends (.granaryRead tm v res) s u := by
  show execGranaryRead tm v res s = _
  exact onHub_ends hh hu

/-- A page that is not here is fetched. -/
theorem mapPageFetch_ends {page : BitVec 16} (cold : page.toNat < h.mapPages ∧ h.inHot page.toNat = false ∧ h.on F.GRNSTAT_ready = true) :
    let hit := (h.inc F.GRNMAPMISS_count).fireInj 0x12 (fun q => q.a.toNat == page.toNat)
    let fetched := hit.2.fresh.2
    let again := (if hit.2.fresh.1.getLsbD 0 && !hit.1 then fetched.p F.GRNSTAT_hm_err 1 else fetched).inc F.GRNMAPMISS_count
    Ends (.mapPageFetch tm page .good) s (if hit.1 then (fetched.inc F.GRNMAPMISS_count).heatPage page.toNat else fetched.heatPage page.toNat)
    ∧ Ends (.mapPageFetch tm page .badThenGood) s (again.heatPage page.toNat)
    ∧ Ends (.mapPageFetch tm page .badTwice) s { again with gr := { again.gr with rebuild := again.gr.rebuild ++ [page.toNat] } } := by
  obtain ⟨inside, away, ready⟩ := cold
  have going : ¬ (decide (h.mapPages ≤ page.toNat) || h.inHot page.toNat || !h.on F.GRNSTAT_ready) = true := by
    rw [away, ready, decide_eq_false (Nat.not_le.2 inside)]
    exact Bool.false_ne_true
  intro hit fetched again
  refine ⟨?_, ?_, ?_⟩
  · show execMapPageFetch tm page .good s = _
    exact onHub_ends hh ((if_neg going).trans rfl)
  · show execMapPageFetch tm page .badThenGood s = _
    exact onHub_ends hh ((if_neg going).trans rfl)
  · show execMapPageFetch tm page .badTwice s = _
    exact onHub_ends hh ((if_neg going).trans rfl)

theorem mapPageFetch_idles {page : BitVec 16} {r : MapFetch}
    (there : ¬ (page.toNat < h.mapPages ∧ h.inHot page.toNat = false ∧ h.on F.GRNSTAT_ready = true)) : Ends (.mapPageFetch tm page r) s h := by
  show execMapPageFetch tm page r s = _
  refine onHub_ends hh (if_pos ?_)
  rw [Bool.or_eq_true, Bool.or_eq_true, decide_eq_true_eq, Bool.not_eq_true']
  by_contra h'
  obtain ⟨why, ready⟩ := not_or.1 h'
  obtain ⟨inside, away⟩ := not_or.1 why
  exact there ⟨Nat.not_le.1 inside, Bool.eq_false_iff.2 away, Bool.of_not_eq_false ready⟩

theorem mapPageRebuild_rebuilds {page : BitVec 16} (waits : page.toNat ∈ h.gr.rebuild) : Ends (.mapPageRebuild tm page) s
    ((((({ h with gr := { h.gr with rebuild := h.gr.rebuild.filter (· != page.toNat) } } : Hub).writePage page.toNat (h.pageSlot page.toNat)).p
      F.GRNSTAT_map_check 1).inc F.GRNMAPCHK_count).devEv 0x0404 4 page.toNat) := by
  show execMapPageRebuild tm page s = _
  refine onHub_ends hh ((if_neg ?_).trans rfl)
  rw [List.contains_iff_mem.2 waits]
  exact Bool.false_ne_true

theorem mapPageRebuild_idles {page : BitVec 16} (done : page.toNat ∉ h.gr.rebuild) : Ends (.mapPageRebuild tm page) s h := by
  show execMapPageRebuild tm page s = _
  refine onHub_ends hh (if_pos ?_)
  rw [Bool.not_eq_true']
  exact Bool.eq_false_iff.2 (mt List.contains_iff_mem.1 done)

theorem mapCheckpoint_ends (hu : (if 3 * 2 ^ 30 < h.gr.journal then h.mapCkpt else h) = u) : Ends (.mapCheckpoint tm) s u := by
  show execMapCheckpoint tm s = _
  exact onHub_ends hh hu

end

/-- Settles O50, by the law of each command. -/
theorem granaryReadsAndMap : Obligations.GranaryReadsAndMap := by
  intro tm u x p res page s h g b met hard read often pg cold hit fetched again
  have hh : s.hub.stamp tm = h := rfl
  refine ⟨?waits, ?ready, ?reads, ?good, ?missed, ?bad, ?twice, ?idle, ?rebuild, ?built, ?checkpoint, ?short⟩
  case waits => exact fun why => granaryRead_ends hh (readUnit_waits h why)
  case ready => exact fun there here why => granaryRead_ends hh (readUnit_ready h there here why)
  case reads =>
    intro there here at_ out whole
    have eq := readUnit_reads h (res := res) there here at_ out whole
    refine ⟨fun seldom => granaryRead_ends hh (eq.trans (if_neg ?_)), fun much => granaryRead_ends hh (eq.trans (if_pos much))⟩
    intro much
    have much' : often = true := much
    rw [seldom] at much'
    cases much'
  case good =>
    intro away calm
    have ends := (mapPageFetch_ends hh away).1
    rwa [if_neg (fun fired => Bool.false_ne_true (calm.symm.trans fired))] at ends
  case missed =>
    intro away fired
    have ends := (mapPageFetch_ends hh away).1
    rwa [if_pos fired] at ends
  case bad => exact fun away => (mapPageFetch_ends hh away).2.1
  case twice => exact fun away => (mapPageFetch_ends hh away).2.2
  case idle => exact fun r there => mapPageFetch_idles hh there
  case rebuild => exact fun waits => mapPageRebuild_rebuilds hh waits
  case built => exact fun done => mapPageRebuild_idles hh done
  case checkpoint => exact fun full => mapCheckpoint_ends hh (if_pos full)
  case short => exact fun room => mapCheckpoint_ends hh (if_neg (Nat.not_lt.2 room))

end Sys2Proof.Machine
end
